-- ==== Sys2Proof/Word.lean ====
section
/-!
DEFINITION. The word type of Virny and its plainest arithmetic (R2, R8).
-/
namespace Sys2Proof

/-- A 64-bit scalar register, address or special register (R8). -/
abbrev Word := BitVec 64

/-- A byte of memory. -/
abbrev Byte := BitVec 8

/-- A 32-bit parcel of an instruction word (R39). -/
abbrev Parcel := BitVec 32

/-- The 256 bytes of a granule, byte 0 least significant (R2, R8). -/
abbrev GranData := BitVec 2048

/-- A mask register: bit 128 × row + k (R26). -/
abbrev Mask := BitVec 2048

/-- The 16 × 16 words of 32 bits of an accumulator's working bank (R165). -/
abbrev BankData := BitVec 8192

/-- Bits `lo` to `lo + n - 1` of a word, as a number. -/
def bitsOf (w : Word) (lo n : Nat) : Nat := (w >>> lo).toNat % 2 ^ n

/-- One bit of a word. -/
def bitOf (w : Word) (k : Nat) : Bool := w.getLsbD k

/-- `w` with bits `lo` to `lo + n - 1` replaced by the low `n` bits of `v`. -/
def putBits (w : Word) (lo n : Nat) (v : Nat) : Word :=
  (w &&& ~~~ (BitVec.ofNat 64 ((2 ^ n - 1) <<< lo))) ||| BitVec.ofNat 64 ((v % 2 ^ n) <<< lo)

/-- A Bool as 0 or 1. -/
def b2n (b : Bool) : Nat := if b then 1 else 0

/-- A Bool as a word. -/
def b2w (b : Bool) : Word := if b then 1 else 0

end Sys2Proof
end

