-- ==== Sys2Proof/Syntax.lean ====
section
/-!
DEFINITION. The syntax of Virny (R39 to R55) and of the machine's own steps: one constructor of `Instr` for
each row of the opcode table. Rows 0 to 212 are instruction words. Rows 213 to 313 are events of the
hardware's other agents (the rows without an encoding), whose arguments are what the agent brings along.
-/
namespace Sys2Proof

/-- A register number of a scalar register (R43). -/
abbrev Reg := BitVec 5

/-- Format codes 0x0 to 0xF (R60, R66, R68, R71). -/
inductive Fmt where
  | empty | raw | u8 | i8 | u16 | i16 | u32 | i32 | u64 | i64 | fp32 | fp16 | bf16 | e4m3 | e5m2 | q4
  deriving DecidableEq, Repr

/-- Rounding codes 0 to 5 (R49); codes 6 and 7 are no encoding. -/
inductive Rnd where
  | rne | rtz | rup | rdn | sr | dyn
  deriving DecidableEq, Repr

/-- Width codes 0 to 6 of scalar memory words (R46). -/
inductive Width where
  | b | bu | h | hu | w | wu | d
  deriving DecidableEq, Repr

/-- Scope codes 0 to 5 (R46). -/
inductive Scope where
  | subcore | core | cluster | die | device | system
  deriving DecidableEq, Repr

/-- Aperture codes 0 to 3 of CVTA and SPCHK (R46, R214). -/
inductive Aper where
  | dev | remote | moss | win
  deriving DecidableEq, Repr

/-- The four engines of a context, coded 0 V, 1 M, 2 L, 3 E (R44). -/
inductive Eng where
  | v | m | l | e
  deriving DecidableEq, Repr

/-- The engines of a cluster (R265, R359): copy engines 0 to 3, gather/scatter, collective, token watch unit,
and the cluster's queue at the weight-set controller. -/
inductive CEng where
  | copy0 | copy1 | copy2 | copy3 | gs | coll | twu | wsc
  deriving DecidableEq, Repr

/-- A hardware context of the package: package cluster 0 to 39, sub-core 0 to 127 of the cluster
(16 × core + sub), context 0 to 2 (R11, R375). -/
structure CtxLoc where
  pcl : Nat
  sub : Nat
  ctx : Nat
  deriving DecidableEq, Repr

/-- A part of an L word under way: the place of the word among the L items of its context, and of the part in the word (R160). -/
structure PartRef where
  item : Nat
  part : Nat
  deriving DecidableEq, Repr

/-- A write under way to its home: its place among those under way, and whether the home fails it (R102, R253). -/
structure WriteRef where
  place     : Nat
  homeError : Bool
  deriving DecidableEq, Repr

/-- The fields of a vector word (R47), but for class and opcode. -/
structure VF where
  fmt  : Fmt
  mask : BitVec 3
  rnd  : Rnd
  sat  : Bool
  pop  : BitVec 3
  push : BitVec 3
  fn   : BitVec 5
  vd   : BitVec 9
  sd   : BitVec 4
  va   : BitVec 9
  sa   : BitVec 4
  vb   : BitVec 9
  sb   : BitVec 4
  bs   : Bool
  imm  : BitVec 18
  deriving DecidableEq, Repr

/-- The fields of MMA and MMAZ (R52). -/
structure MF where
  tA   : BitVec 4
  tB   : BitVec 4
  int  : Bool
  acc  : BitVec 3
  pop  : BitVec 3
  push : BitVec 3
  trA  : Bool
  trB  : Bool
  swap : Bool
  k    : BitVec 16
  tapA : BitVec 8
  tapB : BitVec 8
  en   : BitVec 16
  cc   : BitVec 3
  rows : BitVec 4
  cols : BitVec 4
  deriving DecidableEq, Repr

/-- The fields of ACLR, ASWAP and ADRAIN (R53). -/
structure AF where
  acc  : BitVec 3
  pop  : BitVec 3
  push : BitVec 3
  deriving DecidableEq, Repr

/-- The fields of an E-form word (R43, R54), but for its function. -/
structure EF where
  wait  : Bool
  reply : Bool
  rs2   : Reg
  rs1   : Reg
  rd    : Reg
  deriving DecidableEq, Repr

/-- The fields of a Stavlos header flit that its destination acts on (R390). -/
structure Flit where
  src    : Nat
  dst    : Nat
  srcGen : BitVec 8
  dstGen : BitVec 8
  part   : Nat
  seq    : BitVec 32
  va     : Word
  len    : Nat
  data   : List Byte
  /-- One bit for each data flit (R386, R389). -/
  poison : BitVec 4
  a      : Word
  b      : Word
  op     : Nat
  ack    : BitVec 32
  /-- The collective id of kinds 8 and 9. -/
  cid    : BitVec 32
  deriving DecidableEq, Repr

/-- An identity-table entry as the management controller writes it (R396). -/
structure IdEntry where
  state : Nat
  gen   : BitVec 8
  alt   : Nat
  port  : Nat
  part  : Nat
  spare : Bool
  deriving DecidableEq, Repr

/-- A launch that holds a pool entry (R210 to R213). -/
structure Launch where
  depth   : Nat
  n       : Nat
  triple  : Bool
  prio    : BitVec 3
  units   : Nat
  slots   : Nat
  entry   : Word
  image   : Word
  imageN  : Nat
  ytabN   : Nat
  ytab    : Word
  groups  : Word
  members : Word
  cont    : Word
  save    : Word
  stride  : Nat
  event   : BitVec 32
  /-- The cluster that a cluster field of 0 in the completion event names (R213). -/
  home    : Nat
  s1      : Word
  s2      : Word
  s3      : Word
  /-- Window units and slot masks of loader, worker and storer; a ring area (R210). -/
  tunits  : List Nat
  tmasks  : List (BitVec 8)
  ring    : Bool
  text    : Word
  ended   : Nat := 0
  errors  : Nat := 0
  /-- Strands of a triple launch whose record could not be created (R434). -/
  unmade  : List Nat := []
  /-- Cause, etval, strand and ctxloc of the first strand that ended with error (R413). -/
  report  : Option (BitVec 8 × Word × Nat × Word) := none
  /-- The host queue and the index of its record there (R411, R413). -/
  host    : Option (Nat × BitVec 32) := none
  deriving DecidableEq, Repr

/-- A strand in a checkpoint, ready or WAITING by its record: cluster, partition, launch, strand, address, priority; for one that
suspended its rd and the counter whose value rd receives (R201, R399). -/
structure Strand where
  pcl    : Nat
  part   : Nat
  launch : Nat
  strand : Nat
  addr   : Word
  prio   : BitVec 3
  rd     : Option (Reg × Option (Nat × Nat)) := none
  deriving DecidableEq, Repr

/-- A checkpoint of a module: the bytes of its device memory that are not zero, the numbers of its poisoned lines; the send and applied
counters of each pair, with the kinds and headers that its replay buffer holds in device memory; the strands; and their launches, by
partition and id (R393, R395, R399). -/
structure Image where
  mem      : List (Nat × Byte)
  poison   : List Nat
  counters : List (Nat × BitVec 32 × BitVec 32 × List (Nat × Flit))
  strands  : List Strand
  launches : List (Nat × Nat × Launch)
  deriving DecidableEq, Repr

/-- A host launch queue as the management controller sets it up (R409). -/
structure QueueForm where
  ring   : Word
  cap    : Nat
  mail   : Word
  head   : Word
  comp   : Word
  /-- Queue pair, remote key and host address of the notify target. -/
  notify : Option (Nat × BitVec 32 × Word)
  deriving DecidableEq, Repr

/-- What the management controller gives a partition when it forms it: clusters, root table and pages (R240, R376), launch
queues (R409), queue pairs as port, number and path MTU, remote keys with their first page and page count (R407), the wait-log rings
of its clusters as cluster, physical address and entries (R359), its Stavlos ports and its logical numbers in the identity table (R376). -/
structure Form where
  clusters : BitVec 40
  root     : Nat
  pages    : List Nat
  queues   : List QueueForm
  qps      : List (Nat × Nat × Nat)
  keys     : List (Nat × Nat × Nat)
  waitlogs : List (Nat × Nat × Nat)
  ports    : List Nat
  ids      : List Nat
  /-- Address of the weight-set mailbox (R415). -/
  wmail    : Word
  deriving DecidableEq, Repr

/-- A firmware image as the root of trust finds it (R430): whether each of its two signatures verifies against the fused key hashes, its
SHA-384 digest, its security version, and the rollback counter that it asks for. -/
structure FwImage where
  ecdsa   : Bool
  lms     : Bool
  digest  : BitVec 384
  version : BitVec 32
  raise   : Option (BitVec 32)
  deriving DecidableEq, Repr

/-- What the later stages of boot find (R429): the images of the hub, die and engine firmware, in the order in which they are loaded; the
links and the stacks of device memory that prove faulty. -/
structure BootParts where
  images : List FwImage
  links  : List Nat
  hbms   : List Nat
  deriving DecidableEq, Repr

/-- What the host's recovery command brings: an image, and what the later stages find then (R429). -/
structure Recovery where
  image : FwImage
  parts : BootParts
  deriving DecidableEq, Repr

/-- The instructions and events of the opcode table, in its order. -/
inductive Instr where
  -- integer arithmetic and logic (R93 to R96)
  | add (rd rs1 rs2 : Reg) | sub (rd rs1 rs2 : Reg) | and (rd rs1 rs2 : Reg) | or (rd rs1 rs2 : Reg)
  | xor (rd rs1 rs2 : Reg) | shl (rd rs1 rs2 : Reg) | shr (rd rs1 rs2 : Reg) | sar (rd rs1 rs2 : Reg)
  | rol (rd rs1 rs2 : Reg) | slt (rd rs1 rs2 : Reg) | sltu (rd rs1 rs2 : Reg) | min (rd rs1 rs2 : Reg)
  | max (rd rs1 rs2 : Reg) | minu (rd rs1 rs2 : Reg) | maxu (rd rs1 rs2 : Reg)
  | clz (rd rs1 : Reg) | popc (rd rs1 : Reg) | andn (rd rs1 rs2 : Reg)
  | addi (rd rs1 : Reg) (imm : BitVec 14) | andi (rd rs1 : Reg) (imm : BitVec 14)
  | ori (rd rs1 : Reg) (imm : BitVec 14) | xori (rd rs1 : Reg) (imm : BitVec 14)
  | slti (rd rs1 : Reg) (imm : BitVec 14) | sltui (rd rs1 : Reg) (imm : BitVec 14)
  | shli (rd rs1 : Reg) (amt : BitVec 6) | shri (rd rs1 : Reg) (amt : BitVec 6)
  | sari (rd rs1 : Reg) (amt : BitVec 6) | roli (rd rs1 : Reg) (amt : BitVec 6)
  | lui (rd : Reg) (imm : BitVec 19) | addpc (rd : Reg) (imm : BitVec 19)
  | mul (rd rs1 rs2 : Reg) | mulh (rd rs1 rs2 : Reg) | mulhu (rd rs1 rs2 : Reg) | div (rd rs1 rs2 : Reg)
  | divu (rd rs1 rs2 : Reg) | rem (rd rs1 rs2 : Reg) | remu (rd rs1 rs2 : Reg)
  -- scalar floating point (R97)
  | fadd (rd rs1 rs2 : Reg) | fsub (rd rs1 rs2 : Reg) | fmul (rd rs1 rs2 : Reg) | ffma (rd rs1 rs2 : Reg)
  | fmin (rd rs1 rs2 : Reg) | fmax (rd rs1 rs2 : Reg) | fcvtif (rd rs1 : Reg) | fcvtfi (rd rs1 : Reg)
  | fcmpeq (rd rs1 rs2 : Reg) | fcmplt (rd rs1 rs2 : Reg) | fcmple (rd rs1 rs2 : Reg)
  -- control flow (R98, R99)
  | beq (rs1 rs2 : Reg) (off : BitVec 14) | bne (rs1 rs2 : Reg) (off : BitVec 14)
  | blt (rs1 rs2 : Reg) (off : BitVec 14) | bge (rs1 rs2 : Reg) (off : BitVec 14)
  | bltu (rs1 rs2 : Reg) (off : BitVec 14) | bgeu (rs1 rs2 : Reg) (off : BitVec 14)
  | jal (rd : Reg) (off : BitVec 19) | jalr (rd rs1 : Reg) (imm : BitVec 14)
  -- memory access (R101 to R110)
  | ld (wd : Width) (rd rs1 : Reg) (imm : BitVec 11) | st (wd : Width) (rs2 rs1 : Reg) (imm : BitVec 11)
  | lda (wd : Width) (sc : Scope) (rd rs1 : Reg) | stl (wd : Width) (sc : Scope) (rs rs1 : Reg)
  | amoSwap (word : Bool) (sc : Scope) (seq : Bool) (rd rs1 rs2 : Reg)
  | amoAdd (word : Bool) (sc : Scope) (seq : Bool) (rd rs1 rs2 : Reg)
  | amoAnd (word : Bool) (sc : Scope) (seq : Bool) (rd rs1 rs2 : Reg)
  | amoOr (word : Bool) (sc : Scope) (seq : Bool) (rd rs1 rs2 : Reg)
  | amoXor (word : Bool) (sc : Scope) (seq : Bool) (rd rs1 rs2 : Reg)
  | amoMin (word : Bool) (sc : Scope) (seq : Bool) (rd rs1 rs2 : Reg)
  | amoMax (word : Bool) (sc : Scope) (seq : Bool) (rd rs1 rs2 : Reg)
  | amoMinu (word : Bool) (sc : Scope) (seq : Bool) (rd rs1 rs2 : Reg)
  | amoMaxu (word : Bool) (sc : Scope) (seq : Bool) (rd rs1 rs2 : Reg)
  | amoFadd (sc : Scope) (seq : Bool) (rd rs1 rs2 : Reg)
  | cas (word : Bool) (sc : Scope) (seq : Bool) (rd rs1 rs2 : Reg)
  | fence (kinds : BitVec 4) (sc : Scope)
  | cvta (gen : Bool) (ap : Aper) (rd rs1 : Reg) | spchk (ap : Aper) (rd rs1 : Reg)
  -- special registers (R113); the MTS rows of their own
  | mfs (n : BitVec 12) (rd : Reg) | mts (n : BitVec 12) (rs1 : Reg)
  | mtsFpflags (rs1 : Reg) | mtsSlotmask (rs1 : Reg) | mtsPreq (rs1 : Reg) | mtsLeavegrant (rs1 : Reg)
  | mtsMosslim (k : BitVec 3) (rs1 : Reg) | mtsLeaveclus (rs1 : Reg) | mtsLeaveslot (rs1 : Reg)
  | mtsBiasctl (rs1 : Reg) | mtsMon (k : BitVec 4) (rs1 : Reg) | mtsMonsnap (rs1 : Reg) | mtsPwrevt (rs1 : Reg)
  -- system words and tokens (R114 to R120)
  | trap (rs1 : Reg) | tret | bkpt | exit | ownwait (rs1 : Reg)
  | tokpost (snd rcv : Eng) | toktake (snd rcv : Eng)
  -- suspension, groups, launches, counters, rings (R197 to R212)
  | yield (idx : BitVec 16) | suspend (rd rs1 rs2 : Reg)
  | bar (k : BitVec 2) | bararr (rd : Reg) (k : BitVec 2) | barwait (k : BitVec 2) (rs1 : Reg)
  | grpinfo (rd : Reg) (k : BitVec 2)
  | launch (rd rs1 : Reg) | launchBlock (rd rs1 : Reg)
  | evadd (sc : Scope) (rs1 rs2 : Reg) | evwait (rd rs1 rs2 : Reg) | evrd (rd rs1 : Reg) | evset (rs1 rs2 : Reg)
  | rpsh (n : BitVec 2) (rs1 : Reg) | rpop (rd : Reg) (n : BitVec 2) | rinit (n : BitVec 2) (rs1 : Reg)
  -- Moss words and leave (R233 to R238, R302, R303)
  | mclass (cls : BitVec 3) (rd rs1 rs2 : Reg) | mfree (rd rs1 rs2 : Reg) | mrefresh (rd rs1 rs2 : Reg)
  | mage (rd rs1 : Reg) | mquery (rd rs1 rs2 : Reg)
  | leave (rd rs1 : Reg) | leaverd (rd : Reg)
  -- ENG words (R54, R266, R311)
  | engCopy (f : EF) | engFill (f : EF) | engRefresh (f : EF) | engGather (f : EF) | engScatter (f : EF)
  | engScatteradd (f : EF) | engColl (f : EF) | engFamo (f : EF) | engFcas (f : EF) | engEvsig (f : EF)
  | engTwset (f : EF) | engTwclr (f : EF) | engTwbud (f : EF) | engTkcmt (f : EF) | engTkconf (f : EF)
  | engTkrej (f : EF) | engTwstat (f : EF) | engSeqopen (f : EF) | engSeqclose (f : EF)
  | engWswap (f : EF) | engWstat (f : EF) | engCqry (f : EF)
  -- vector words (R50, R122, R144)
  | vadd (f : VF) | vsub (f : VF) | vmul (f : VF) | vfma (f : VF) | vfms (f : VF) | vmin (f : VF) | vmax (f : VF)
  | vabs (f : VF) | vneg (f : VF) | vscl (f : VF) | vcpy (f : VF) | vbcst (f : VF)
  | viadd (f : VF) | visub (f : VF) | vimul (f : VF) | vimulh (f : VF) | vimad (f : VF) | vimin (f : VF)
  | vimax (f : VF) | viabs (f : VF) | vclz (f : VF) | vpopc (f : VF)
  | vand (f : VF) | vor (f : VF) | vxor (f : VF) | vlut3 (f : VF)
  | vshl (f : VF) | vshr (f : VF) | vsar (f : VF) | vrot (f : VF) | vfshl (f : VF) | vfshr (f : VF)
  | vcmp (f : VF) | vsel (f : VF) | mand (f : VF) | mor (f : VF) | mxor (f : VF) | mnot (f : VF)
  | mcnt (f : VF) | mfirst (f : VF) | vcvt (f : VF) | vqnt (f : VF) | vdq (f : VF) | vretag (f : VF)
  | vrcp (f : VF) | vrsq (f : VF) | vsqrt (f : VF) | vdiv (f : VF) | vexp2 (f : VF) | vlog2 (f : VF) | vtanh (f : VF)
  | vrsum (f : VF) | vrmax (f : VF) | vrmin (f : VF) | vramax (f : VF) | vscan (f : VF) | vcsum (f : VF)
  | vperm (f : VF) | vshuf (f : VF) | vtrn (f : VF) | vrgath (f : VF) | vrscat (f : VF)
  | vtopk (f : VF) | vsample (f : VF)
  | vld (f : VF) | vst (f : VF) | vldx (f : VF) | vstx (f : VF) | mld (f : VF) | mst (f : VF)
  -- matrix words (R53)
  | mma (f : MF) | mmaz (f : MF) | aclr (f : AF) | aswap (f : AF) | adrain (f : AF)
  -- events of the context's engines
  | slotmaskTakesEffect (c : CtxLoc)
  | vWordStart (c : CtxLoc) | vWordFinish (c : CtxLoc) | mWordStart (c : CtxLoc) | mWordFinish (c : CtxLoc)
  | lWordStart (c : CtxLoc) (late : Bool)
  | nearReplyDue (c : CtxLoc) (k : PartRef) | nearReplyArrival (c : CtxLoc) (k : PartRef) (cycles : Nat)
  | freezeWatchdogExpiry (pcl sub : Nat) (written : List Bool)
  | farReply (c : CtxLoc) (k : PartRef) (homeError : Bool) | lWordFinish (c : CtxLoc)
  | postPointReached (c : CtxLoc) (en : Eng)
  -- memory consistency, counters and groups
  | writeBufferDrain (pcl k : Nat) | writeApplied (k : WriteRef) | eventAdd (k : Nat) | groupArrival (k : Nat)
  | wswapDecision (pcl : Nat)
  -- strands: ends, suspensions, dispatch
  | exitDrainComplete (c : CtxLoc) | recordWriteBack (c : CtxLoc) | dispatch (pcl : Nat)
  | hardwareRestore (c : CtxLoc) | balancingPeriod | migrationCommand (k : Nat)
  | preemptionRequest (pcl : Nat) | partitionDrain (p : Nat) | preemptionDeadline (c : CtxLoc)
  | hardwareSave (c : CtxLoc) | timeoutSuspension (c : CtxLoc)
  | stopRecordCut (c : CtxLoc) (vRows : Nat) (mSigs : List Nat) | debugResume (c : CtxLoc) (epc : Option Word)
  -- Moss, leave, droop
  | ageTick (pcl : Nat) (temp : BitVec 8) | refreshRequest (pcl n : Nat) | rowGroupExpiry (pcl n : Nat)
  | keepRefreshDue (pcl n : Nat) | mossRewriteStart (pcl bank : Nat) | mossRewriteEnd (pcl bank : Nat)
  | leaveBoundary (pcl : Nat) | droopEvent (pcl : Nat) | droopFreezeEnd (pcl : Nat)
  -- engines
  | engSubmission (c : CtxLoc) | engineCommandStart (pcl : Nat) (e : CEng) | engineChunk (pcl : Nat) (e : CEng)
  | engineCommandCompletion (pcl : Nat) (e : CEng)
  -- launches
  | launchPoolAccept (k : Nat) | launchEnd (p id : Nat)
  -- monitors, timing errors
  | monitorSnapshotDone (pcl : Nat) | timingError (c : CtxLoc) (en : Eng)
  | timingReplayFailure (c : CtxLoc) (en : Eng)
  -- resets
  | partitionReset (p : Nat) | engineReset (pcl : Nat) (e : CEng) | linkReset (l : Nat) | linkDown (l : Nat)
  | flitCrcFailure (l : Nat)
  -- fabric
  | retransmitTimeout (dst : Nat) (seq : BitVec 32)
  | readRequest (f : Flit) | readReply (f : Flit) | write (f : Flit) | atomicRequest (f : Flit)
  | atomicReply (f : Flit) | eventSignal (f : Flit) | acknowledgmentOnly (f : Flit)
  | collectiveData (f : Flit) | collectiveAbort (f : Flit) | void (f : Flit) | collectiveTimeout (pcl : Nat)
  | checkpointCommit (p : Nat) | identityEntryWrite (n : Nat) (e : IdEntry)
  | spareRestore (n : Nat) (gen : BitVec 8) (m : Image)
  -- host
  | rdmaWrite (port qp : Nat) (key : BitVec 32) (va : Word) (data : List Byte)
  | rdmaRead (port qp : Nat) (key : BitVec 32) (va : Word) (len : Nat)
  | rdmaInvalidRequest (port qp : Nat) | ethernetPortDown (port : Nat)
  | launchMailboxWrite (p q : Nat) (tail head : BitVec 32) | hostLaunchTake (p q : Nat)
  | weightSetArm (p : Nat) (addr : Word) | shardFetchStart (p t : Nat)
  | shardFetchComplete (p t shard : Nat) (data : List Byte)
  | shardFetchFailure (p t shard : Nat) (reason : BitVec 8) (data : List Byte) | shardTimeout (p t : Nat)
  -- power, boot, management
  | capRequest (cap : Nat) (force authority : Bool) | floorRequest (p watts : Nat)
  | powerMeasurement (mean : Nat) (below : Bool) | biasSelection (pcl : Nat) (code : BitVec 4)
  | thermalTrip (pcl : Nat) (temp : BitVec 8) | tripRecovery (hottest : BitVec 8)
  | powerUp (main recovery : Option FwImage) (parts : BootParts) | attestationRequest (nonce : BitVec 256)
  | partitionForm (p : Nat) (f : Form)
  | expertEnableSet (p : Nat) (on : Bool) | translationInvalidation (p : Nat) (lo hi : Word)
  | pageScrub (page : Nat) | replayCaptureStart (p buffer : Nat) | partitionDump (p : Nat)
  | linkRetrainComplete (l : Nat) | monitorPeriodicSample (pcl : Nat)
  | instructionLineFetch (c : CtxLoc) (va : Word) | reservedKindFlit (kind : Nat) | recoveryCommand (k : Recovery)
  | partitionTrapVectorSet (p : Nat) (addr : Word) | unreliableTransportPacket (port : Nat)
  | partitionReplay (p : Nat)
  deriving DecidableEq, Repr

end Sys2Proof
end

