-- ==== Sys2Proof/Config.lean ====
section
/-!
DEFINITION. What the part fixes, and the free values (values that the spec leaves to timing, to sensors or to the
part). A free value is an opaque constant: nothing in Lean can compute it, so a statement that holds
holds for every value of it.
-/
namespace Sys2Proof.Config

/-- Free value (log 6): by how much a cycle counter (R17) has grown when it is read. Timing is not modelled. -/
opaque freeCycles : Nat → Word

/-- Free value (log 6): `leave.pos`, the cycles since the control boundary ÷ 128 (R300). -/
opaque freePos : Nat → BitVec 6

/-- Free value (log 6): the cycles of a logged wait (R359). -/
opaque freeWait : Nat → BitVec 32

/-- Free value (log 6): the measured samples of a monitor whose source counts cycles (R364). -/
opaque freeSample : Nat → BitVec 32

/-- Free value (log 6): which transfers of L a permute row contests, as bits (R153). -/
opaque freeContests : Nat → Nat

/-- Free value (log 6): which line a full instruction cache gives up (R40). -/
opaque freeVictim : Nat → Nat

/-- Free value (log 6): the reply of a record-less command, FAMO or FCAS that did not end with status 0, and a count of WSTAT whose
bitmaps cannot be read, for which the spec names no value (R277, R290, R381). -/
opaque freeReply : Nat → Word

/-- Free values (log 48): the part's serial (12 bytes); the SHA-384 of a boot stage, by its number and the boot log; of a partition
configuration; the two signatures of a report, by the generation of the device keys and its bytes (R431). -/
opaque serial : BitVec 96
opaque stageDigest : Nat → List (BitVec 384) → BitVec 384
opaque configDigest : List (Nat × Form) → BitVec 384
opaque signatures : Nat → List Byte → List Byte

/-- Bytes of device memory: 512 GiB (R1, R239). -/
def memBytes : Nat := 2 ^ 39

/-- Bytes of a cluster's Moss: 64 MiB (R216). -/
def mossBytes : Nat := 2 ^ 26

/-- Package thermal design power in watts (R1, R420). -/
def tdp : Nat := 2900

/-- The idle floor of the standard module in watts (R1, R420); a part's own figure stands in `Manager.idle`. -/
def idleFloor : Nat := 360

/-- The grant of a cluster at TDP in units of 16 pJ (R292). -/
def grantTdp : Nat := 4718592

/-- The cap of the unreserved account of a sub-core (R296). -/
def accountCap : Nat := 32768

/-- Two codes that the part fuses; R425 says only that they differ from part to part (log 6). -/
opaque biasOne : BitVec 4
opaque biasTwo : BitVec 4

/-- Lowest and highest body-bias code fused into the part, min ≤ max on every part (R425). -/
def biasMin : BitVec 4 := if biasOne ≤ biasTwo then biasOne else biasTwo
def biasMax : BitVec 4 := if biasOne ≤ biasTwo then biasTwo else biasOne

/-- R425: on every part min ≤ max. -/
theorem biasMin_le_biasMax : biasMin ≤ biasMax := by
  unfold biasMin biasMax
  by_cases h : biasOne ≤ biasTwo
  · simp [h]
  · simp only [h, if_false]
    bv_omega

/-- The code that the controller is taken to have selected first, brought within min and max where it is read: the spec gives no
figure, DESIGN CHOICE (log 5). -/
def biasFirst : BitVec 4 := 8

end Sys2Proof.Config
end

