-- ==== Sys2Proof/WellFormed.lean ====
section
/-!
DEFINITION. Which field values an instruction accepts (R44 to R55, R122, R144): the checks of the
decoder on a word's own bits. Each check says which parcel holds the lowest offending bit (R41).
-/
namespace Sys2Proof

/-- Format codes in the order of R60. -/
def Fmt.all : List Fmt :=
  [.empty, .raw, .u8, .i8, .u16, .i16, .u32, .i32, .u64, .i64, .fp32, .fp16, .bf16, .e4m3, .e5m2, .q4]

def Fmt.code : Fmt → BitVec 4
  | .empty => 0x0 | .raw => 0x1 | .u8 => 0x2 | .i8 => 0x3 | .u16 => 0x4 | .i16 => 0x5 | .u32 => 0x6 | .i32 => 0x7
  | .u64 => 0x8 | .i64 => 0x9 | .fp32 => 0xA | .fp16 => 0xB | .bf16 => 0xC | .e4m3 => 0xD | .e5m2 => 0xE | .q4 => 0xF

def Fmt.ofCode (c : BitVec 4) : Fmt := Fmt.all.getD c.toNat .empty

/-- FP32, FP16, BF16 (codes 0xA to 0xC). -/
def Fmt.isFp3 : Fmt → Bool
  | .fp32 | .fp16 | .bf16 => true
  | _ => false

/-- Any floating-point format (codes 0xA to 0xE, R68). -/
def Fmt.isFp : Fmt → Bool
  | .fp32 | .fp16 | .bf16 | .e4m3 | .e5m2 => true
  | _ => false

/-- Any integer format (codes 0x2 to 0x9, R66). -/
def Fmt.isInt : Fmt → Bool
  | .u8 | .i8 | .u16 | .i16 | .u32 | .i32 | .u64 | .i64 => true
  | _ => false

/-- Signed integer formats (R66). -/
def Fmt.signed : Fmt → Bool
  | .i8 | .i16 | .i32 | .i64 => true
  | _ => false

/-- Element size in bits; RAW counts as 8-bit (R121), Q4 as 4, EMPTY as 8 (unused). -/
def Fmt.bits : Fmt → Nat
  | .empty | .raw | .u8 | .i8 | .e4m3 | .e5m2 => 8
  | .u16 | .i16 | .fp16 | .bf16 => 16
  | .u32 | .i32 | .fp32 => 32
  | .u64 | .i64 => 64
  | .q4 => 4

/-- Elements of a row of 256 bytes (R121). -/
def Fmt.count (f : Fmt) : Nat := 2048 / f.bits

/-- The vector opcodes of R50. -/
inductive VOp where
  | vadd | vsub | vmul | vfma | vfms | vmin | vmax | vabs | vneg | vcpy | vbcst | vscl
  | viadd | visub | vimul | vimulh | vimad | vimin | vimax | viabs | vclz | vpopc
  | vand | vor | vxor | vlut3 | vshl | vshr | vsar | vrot | vfshl | vfshr
  | vcmp | vsel | mand | mor | mxor | mnot | mcnt | mfirst | vcvt | vqnt | vdq | vretag
  | vrcp | vrsq | vsqrt | vdiv | vexp2 | vlog2 | vtanh
  | vrsum | vrmax | vrmin | vramax | vscan | vcsum
  | vperm | vshuf | vtrn | vrgath | vrscat | vtopk | vsample
  | vld | vst | vldx | vstx | mld | mst
  deriving DecidableEq, Repr

/-- The vector words that execute in L (R28). -/
def VOp.isL : VOp → Bool
  | .vld | .vst | .vldx | .vstx | .mld | .mst => true
  | _ => false

/-- Opcode and fields of a vector instruction. -/
def Instr.vparts : Instr → Option (VOp × VF)
  | .vadd f => some (.vadd, f) | .vsub f => some (.vsub, f) | .vmul f => some (.vmul, f)
  | .vfma f => some (.vfma, f) | .vfms f => some (.vfms, f) | .vmin f => some (.vmin, f)
  | .vmax f => some (.vmax, f) | .vabs f => some (.vabs, f) | .vneg f => some (.vneg, f)
  | .vcpy f => some (.vcpy, f) | .vbcst f => some (.vbcst, f) | .vscl f => some (.vscl, f)
  | .viadd f => some (.viadd, f) | .visub f => some (.visub, f) | .vimul f => some (.vimul, f)
  | .vimulh f => some (.vimulh, f) | .vimad f => some (.vimad, f) | .vimin f => some (.vimin, f)
  | .vimax f => some (.vimax, f) | .viabs f => some (.viabs, f) | .vclz f => some (.vclz, f)
  | .vpopc f => some (.vpopc, f) | .vand f => some (.vand, f) | .vor f => some (.vor, f)
  | .vxor f => some (.vxor, f) | .vlut3 f => some (.vlut3, f) | .vshl f => some (.vshl, f)
  | .vshr f => some (.vshr, f) | .vsar f => some (.vsar, f) | .vrot f => some (.vrot, f)
  | .vfshl f => some (.vfshl, f) | .vfshr f => some (.vfshr, f) | .vcmp f => some (.vcmp, f)
  | .vsel f => some (.vsel, f) | .mand f => some (.mand, f) | .mor f => some (.mor, f)
  | .mxor f => some (.mxor, f) | .mnot f => some (.mnot, f) | .mcnt f => some (.mcnt, f)
  | .mfirst f => some (.mfirst, f) | .vcvt f => some (.vcvt, f) | .vqnt f => some (.vqnt, f)
  | .vdq f => some (.vdq, f) | .vretag f => some (.vretag, f) | .vrcp f => some (.vrcp, f)
  | .vrsq f => some (.vrsq, f) | .vsqrt f => some (.vsqrt, f) | .vdiv f => some (.vdiv, f)
  | .vexp2 f => some (.vexp2, f) | .vlog2 f => some (.vlog2, f) | .vtanh f => some (.vtanh, f)
  | .vrsum f => some (.vrsum, f) | .vrmax f => some (.vrmax, f) | .vrmin f => some (.vrmin, f)
  | .vramax f => some (.vramax, f) | .vscan f => some (.vscan, f) | .vcsum f => some (.vcsum, f)
  | .vperm f => some (.vperm, f) | .vshuf f => some (.vshuf, f) | .vtrn f => some (.vtrn, f)
  | .vrgath f => some (.vrgath, f) | .vrscat f => some (.vrscat, f) | .vtopk f => some (.vtopk, f)
  | .vsample f => some (.vsample, f) | .vld f => some (.vld, f) | .vst f => some (.vst, f)
  | .vldx f => some (.vldx, f) | .vstx f => some (.vstx, f) | .mld f => some (.mld, f) | .mst f => some (.mst, f)
  | _ => none

/-- The vector instruction of an opcode. -/
def Instr.ofV : VOp → VF → Instr
  | .vadd => .vadd | .vsub => .vsub | .vmul => .vmul | .vfma => .vfma | .vfms => .vfms | .vmin => .vmin
  | .vmax => .vmax | .vabs => .vabs | .vneg => .vneg | .vcpy => .vcpy | .vbcst => .vbcst | .vscl => .vscl
  | .viadd => .viadd | .visub => .visub | .vimul => .vimul | .vimulh => .vimulh | .vimad => .vimad
  | .vimin => .vimin | .vimax => .vimax | .viabs => .viabs | .vclz => .vclz | .vpopc => .vpopc
  | .vand => .vand | .vor => .vor | .vxor => .vxor | .vlut3 => .vlut3 | .vshl => .vshl | .vshr => .vshr
  | .vsar => .vsar | .vrot => .vrot | .vfshl => .vfshl | .vfshr => .vfshr | .vcmp => .vcmp | .vsel => .vsel
  | .mand => .mand | .mor => .mor | .mxor => .mxor | .mnot => .mnot | .mcnt => .mcnt | .mfirst => .mfirst
  | .vcvt => .vcvt | .vqnt => .vqnt | .vdq => .vdq | .vretag => .vretag | .vrcp => .vrcp | .vrsq => .vrsq
  | .vsqrt => .vsqrt | .vdiv => .vdiv | .vexp2 => .vexp2 | .vlog2 => .vlog2 | .vtanh => .vtanh
  | .vrsum => .vrsum | .vrmax => .vrmax | .vrmin => .vrmin | .vramax => .vramax | .vscan => .vscan
  | .vcsum => .vcsum | .vperm => .vperm | .vshuf => .vshuf | .vtrn => .vtrn | .vrgath => .vrgath
  | .vrscat => .vrscat | .vtopk => .vtopk | .vsample => .vsample | .vld => .vld | .vst => .vst
  | .vldx => .vldx | .vstx => .vstx | .mld => .mld | .mst => .mst

/-- Formats that a vector word accepts (R122, R144). -/
def VOp.fmtOk (op : VOp) (f : Fmt) : Bool :=
  match op with
  | .vadd | .vsub | .vmul | .vfma | .vfms | .vmin | .vmax | .vabs | .vneg | .vscl => f.isFp3
  | .vcpy | .vand | .vor | .vxor | .vlut3 | .vsel | .vld | .vst => f != .empty
  | .vbcst | .vcmp | .vcvt => f.isInt || f.isFp
  | .viadd | .visub | .vimul | .vimad | .vimulh | .vimin | .vimax | .vclz | .vpopc => f.isInt
  | .viabs => f.signed
  | .vshl | .vshr | .vsar | .vrot | .vfshl | .vfshr => f.isInt
  | .mand | .mor | .mxor | .mnot | .mcnt | .mfirst | .mld | .mst => f == .empty
  | .vqnt | .vdq | .vrcp | .vrsq | .vsqrt | .vdiv | .vexp2 | .vlog2 | .vtanh | .vramax | .vtopk | .vsample => f.isFp3
  | .vretag => true
  | .vrsum | .vrmax | .vrmin | .vscan | .vcsum => f.isInt || f.isFp3
  | .vperm | .vshuf | .vtrn => f != .empty && f != .q4
  | .vrgath | .vrscat | .vldx | .vstx => f == .u32 || f == .i32 || f == .u64 || f == .i64 || f == .fp32

/-- Rounding codes that a vector word accepts (R49, R122, R144). -/
def VOp.rndOk (op : VOp) (f : VF) : Bool :=
  match op with
  | .vadd | .vsub | .vmul | .vfma | .vfms | .vscl | .vdq
  | .vrcp | .vrsq | .vsqrt | .vdiv | .vexp2 | .vlog2 | .vtanh => f.rnd != .sr
  | .vcvt | .vqnt => true
  | .vrsum | .vscan | .vcsum => if f.fmt.isInt then f.rnd == .rne else f.rnd != .sr
  | _ => f.rnd == .rne

/-- Whether the saturate bit may be set (R122, R144). -/
def VOp.satOk (op : VOp) : Bool :=
  match op with
  | .vadd | .vsub | .vmul | .vfma | .vfms | .vscl | .viadd | .visub | .vimul | .vimad | .viabs | .vcvt | .vdq
  | .vrsum | .vscan | .vcsum => true
  | _ => false

/-- funct5 values that a vector word accepts (R51, R122, R144). -/
def VOp.fnOk (op : VOp) (f : VF) : Bool :=
  match op with
  | .vcmp => f.fn.toNat < 6 || (f.fn.toNat < 8 && f.fmt.isFp)
  | .vcvt => 2 ≤ f.fn.toNat && f.fn.toNat ≤ 14
  | .vrsum | .vrmax | .vrmin | .vramax | .vtopk => f.fn.toNat ≤ 1
  | _ => f.fn == 0

/-- The mask field is zero in the mask words and in MLD and MST (R122, R144). -/
def VOp.maskOk (op : VOp) (f : VF) : Bool :=
  match op with
  | .mand | .mor | .mxor | .mnot | .mcnt | .mfirst | .mld | .mst => f.mask == 0
  | _ => true

/-- The fields of parcel 0. -/
def VOp.ok0 (op : VOp) (f : VF) : Bool :=
  op.fmtOk f.fmt && op.rndOk f && (!f.sat || op.satOk) && op.fnOk f && op.maskOk f

def VF.vdZero (f : VF) : Bool := f.vd == 0 && f.sd == 0
def VF.vdReg (n : Nat) (f : VF) : Bool := f.vd.toNat < n && f.sd == 0
def VF.vaZero (f : VF) : Bool := f.va == 0 && f.sa == 0
def VF.vaReg (n : Nat) (f : VF) : Bool := f.va.toNat < n && f.sa == 0
def VF.vbZero (f : VF) : Bool := f.vb == 0 && f.sb == 0 && !f.bs
def VF.vbGran (f : VF) : Bool := !f.bs
def VF.vbScalar (f : VF) : Bool := f.bs && f.vb.toNat < 32 && f.sb == 0
def VF.vbReg (n : Nat) (f : VF) : Bool := f.vb.toNat < n && f.sb == 0 && !f.bs

/-- The destination and va fields of parcel 1 (R48, R122, R144). -/
def VOp.ok1 (op : VOp) (f : VF) : Bool :=
  match op with
  | .vcmp => f.vdReg 8
  | .mand | .mor | .mxor | .mnot => f.vdReg 8 && f.vaReg 8
  | .mcnt | .mfirst => f.vdReg 32 && f.vaReg 8
  | .vbcst => !f.bs || f.vaZero
  | .vretag | .vrgath => f.vaZero
  | .vrscat => f.vdZero
  | .vrsum | .vrmax | .vrmin | .vramax | .vcsum | .vsample => f.sd == 0
  | .vld | .vst | .vldx | .vstx => f.vaReg 32
  | .mld | .mst => f.vdReg 8 && f.vaReg 32
  | _ => true

/-- The source format of a VCVT (R51). -/
def VF.srcFmt (f : VF) : Fmt := Fmt.ofCode (f.fn.setWidth 4)

/-- The vb and imm18 fields of parcel 2 (R48, R122, R144, R140 to R142). -/
def VOp.ok2 (op : VOp) (f : VF) : Bool :=
  match op with
  | .vadd | .vsub | .vmul | .vfma | .vfms | .vmin | .vmax | .viadd | .visub | .vimul | .vimad | .vimulh | .vimin | .vimax
  | .vand | .vor | .vxor | .vshl | .vshr | .vsar | .vrot | .vcmp | .vsel | .vdiv =>
      (f.vbGran || f.vbScalar) && f.imm == 0
  | .vlut3 => (f.vbGran || f.vbScalar) && f.imm.toNat < 256
  | .vfshl | .vfshr => (f.vbGran || f.vbScalar) && f.imm.toNat < f.fmt.bits
  | .vabs | .vneg | .vcpy | .viabs | .vclz | .vpopc | .mnot | .mcnt | .mfirst | .vretag
  | .vrcp | .vrsq | .vsqrt | .vexp2 | .vlog2 | .vtanh
  | .vrsum | .vrmax | .vrmin | .vramax | .vscan | .vcsum | .vtrn => f.vbZero && f.imm == 0
  | .vscl => f.vbZero
  | .vbcst => if f.bs then f.vbScalar && f.imm == 0 else f.vbZero && f.imm.toNat < f.fmt.count
  | .mand | .mor | .mxor => f.vbReg 8 && f.imm == 0
  | .vcvt =>
      (if f.rnd == .sr then f.vbGran else f.vbZero) &&
        f.imm.toNat < (if f.srcFmt.bits > f.fmt.bits then f.srcFmt.bits / f.fmt.bits
          else f.fmt.bits / f.srcFmt.bits)
  | .vqnt =>
      (if f.rnd == .sr then f.vbGran else f.vbZero) && f.imm.toNat < 2 ^ 14 &&
        (f.imm.toNat / 512) % 8 < 512 / f.fmt.count
  | .vdq => f.vbZero && f.imm.toNat < 2 ^ 12 && f.imm.toNat / 512 < 512 / f.fmt.count
  | .vperm | .vrgath | .vrscat => f.vbGran && f.imm == 0
  | .vshuf => f.vbGran && f.imm.toNat < 4
  | .vtopk => f.vbGran
  | .vsample => ((f.vbGran && f.sb == 0) || f.vbScalar) && f.imm.toNat % 16 == 0
  | .vld | .vst | .mld | .mst => f.vbReg 32
  | .vldx | .vstx => f.vbGran

/-- A vector word of which every field is accepted. -/
def VOp.ok (op : VOp) (f : VF) : Bool := op.ok0 f && op.ok1 f && op.ok2 f

/-- An E-form word with the reply bit clear names s0 (R54), and rs2 is zero where R266 and R311 say so. -/
def EF.ok (rs2Zero : Bool) (f : EF) : Bool := (f.reply || f.rd == 0) && (!rs2Zero || f.rs2 == 0)

/-- The special-register numbers whose MTS is a row of its own. -/
def mtsOwnRow (n : BitVec 12) : Bool :=
  n == 0x022 || n == 0x051 || n == 0x060 || n == 0x071 || (0x120 ≤ n.toNat && n.toNat ≤ 0x127) || n == 0x140 ||
  n == 0x141 || n == 0x143 || (0x160 ≤ n.toNat && n.toNat ≤ 0x16F) || n == 0x170 || n == 0x191

/-- A context of the package (R375). -/
def CtxLoc.ok (c : CtxLoc) : Bool := c.pcl < 40 && c.sub < 128 && c.ctx < 3

/-- Whether the row is an instruction word, and not an event. -/
def Instr.isWord : Instr → Bool
  | .slotmaskTakesEffect _ | .vWordStart _ | .vWordFinish _ | .mWordStart _ | .mWordFinish _ | .lWordStart _ _
  | .nearReplyDue _ _ | .nearReplyArrival _ _ _ | .freezeWatchdogExpiry _ _ _ | .farReply _ _ _ | .lWordFinish _
  | .postPointReached _ _ | .writeBufferDrain _ _ | .writeApplied _ | .eventAdd _ | .groupArrival _
  | .wswapDecision _ | .exitDrainComplete _ | .recordWriteBack _ | .dispatch _ | .hardwareRestore _
  | .balancingPeriod | .migrationCommand _ | .preemptionRequest _ | .partitionDrain _ | .preemptionDeadline _
  | .hardwareSave _ | .timeoutSuspension _ | .stopRecordCut _ _ _ | .debugResume _ _ | .ageTick _ _
  | .refreshRequest _ _ | .rowGroupExpiry _ _ | .keepRefreshDue _ _ | .mossRewriteStart _ _ | .mossRewriteEnd _ _
  | .leaveBoundary _ | .droopEvent _ | .droopFreezeEnd _ | .engSubmission _ | .engineCommandStart _ _
  | .engineChunk _ _ | .engineCommandCompletion _ _ | .launchPoolAccept _ | .launchEnd _ _ | .monitorSnapshotDone _
  | .timingError _ _ | .timingReplayFailure _ _ | .partitionReset _ | .engineReset _ _ | .linkReset _ | .linkDown _
  | .flitCrcFailure _ | .retransmitTimeout _ _ | .readRequest _ | .readReply _ | .write _ | .atomicRequest _
  | .atomicReply _ | .eventSignal _ | .acknowledgmentOnly _ | .collectiveData _ | .collectiveAbort _
  | .void _ | .collectiveTimeout _ | .checkpointCommit _ | .identityEntryWrite _ _ | .spareRestore _ _ _
  | .rdmaWrite _ _ _ _ _ | .rdmaRead _ _ _ _ _ | .rdmaInvalidRequest _ _ | .ethernetPortDown _
  | .launchMailboxWrite _ _ _ _ | .hostLaunchTake _ _ | .weightSetArm _ _ | .shardFetchStart _ _
  | .shardFetchComplete _ _ _ _ | .shardFetchFailure _ _ _ _ _ | .shardTimeout _ _ | .capRequest _ _ _
  | .floorRequest _ _ | .powerMeasurement _ _ | .biasSelection _ _ | .thermalTrip _ _ | .tripRecovery _
  | .powerUp _ _ _ | .attestationRequest _ | .partitionForm _ _ | .expertEnableSet _ _
  | .translationInvalidation _ _ _ | .pageScrub _ | .replayCaptureStart _ _ | .partitionDump _
  | .linkRetrainComplete _ | .monitorPeriodicSample _ | .instructionLineFetch _ _ | .reservedKindFlit _
  | .recoveryCommand _ | .partitionTrapVectorSet _ _ | .unreliableTransportPacket _ | .partitionReplay _ => false
  | _ => true

/-- The instruction's fields hold values that its encoding accepts. An event's context is one of the package. -/
def Instr.wf (i : Instr) : Bool :=
  match i.vparts with
  | some (op, f) => op.ok f
  | none =>
    match i with
    | .st w _ _ _ | .stl w _ _ _ => w == .b || w == .h || w == .w || w == .d
    | .fence k _ => k != 0
    | .mts n _ => !mtsOwnRow n
    | .tokpost a b | .toktake a b => a != b
    | .mclass c _ _ _ => c != 0
    | .engCopy f | .engFill f | .engRefresh f | .engGather f | .engScatter f | .engScatteradd f | .engColl f
    | .engFamo f | .engFcas f | .engTwset f | .engTwstat f | .engSeqopen f | .engSeqclose f | .engWswap f
    | .engWstat f => f.ok true
    | .engEvsig f | .engTwclr f | .engTwbud f | .engTkcmt f | .engTkconf f | .engTkrej f | .engCqry f => f.ok false
    | .slotmaskTakesEffect c | .vWordStart c | .vWordFinish c | .mWordStart c | .mWordFinish c | .lWordStart c _
    | .nearReplyDue c _ | .nearReplyArrival c _ _ | .farReply c _ _ | .lWordFinish c | .postPointReached c _
    | .exitDrainComplete c | .recordWriteBack c | .hardwareRestore c | .preemptionDeadline c | .hardwareSave c
    | .timeoutSuspension c | .stopRecordCut c _ _ | .debugResume c _ | .engSubmission c | .timingError c _
    | .timingReplayFailure c _ | .instructionLineFetch c _ => c.ok
    | _ => true

end Sys2Proof
end

