-- ==== Sys2Proof/Decode.lean ====
section
/-!
DEFINITION. The decoder, from the encoding tables R39 to R55, total on any parcels, and the encoder
written from the same tables.
-/
namespace Sys2Proof

/-- Why a parcel sequence is no instruction (R41, R55). -/
inductive DecErr where
  /-- Class 01 (R39). -/
  | badClass (p0 : Parcel)
  /-- Opcode, funct, sub-operation or matrix opcode not listed (R44, R45, R50, R53). -/
  | badOpcode (p0 : Parcel)
  /-- A reserved or unused field that is not zero, or a code without a value; `idx` is the parcel of the lowest
  offending bit (R41). -/
  | badField (p0 : Parcel) (idx : Nat)
  /-- ENG function code not listed (R54). -/
  | badEngine (func7 : BitVec 7)
  /-- Fewer parcels than the class asks for (R39, R40). -/
  | short
  deriving DecidableEq, Repr

/-- The cause of R41. A `short` word has no fault of its own: it is not all present yet. -/
def DecErr.cause : DecErr → BitVec 8
  | .badEngine _ => 0x11
  | _ => 0x01

/-- `etval` of R41. -/
def DecErr.tval : DecErr → Word
  | .badClass p => p.setWidth 64
  | .badOpcode p => p.setWidth 64
  | .badField p i => p.setWidth 64 + BitVec.ofNat 64 (i * 2 ^ 32)
  | .badEngine f => f.setWidth 64
  | .short => 0

/-- Parcels of a word by the class bits of parcel 0 (R39). -/
def wordParcels (p0 : Parcel) : Nat :=
  match p0.extractLsb' 0 2 with
  | 2#2 => 3
  | 3#2 => 6
  | _ => 1

def Rnd.ofCode : BitVec 3 → Option Rnd
  | 0#3 => some .rne | 1#3 => some .rtz | 2#3 => some .rup | 3#3 => some .rdn | 4#3 => some .sr | 5#3 => some .dyn
  | _ => none
def Rnd.code : Rnd → BitVec 3
  | .rne => 0 | .rtz => 1 | .rup => 2 | .rdn => 3 | .sr => 4 | .dyn => 5

def Width.ofCode : BitVec 3 → Option Width
  | 0#3 => some .b | 1#3 => some .bu | 2#3 => some .h | 3#3 => some .hu | 4#3 => some .w | 5#3 => some .wu | 6#3 => some .d
  | _ => none
def Width.code : Width → BitVec 3
  | .b => 0 | .bu => 1 | .h => 2 | .hu => 3 | .w => 4 | .wu => 5 | .d => 6

def Scope.ofCode : BitVec 3 → Option Scope
  | 0#3 => some .subcore | 1#3 => some .core | 2#3 => some .cluster | 3#3 => some .die | 4#3 => some .device
  | 5#3 => some .system | _ => none
def Scope.code : Scope → BitVec 3
  | .subcore => 0 | .core => 1 | .cluster => 2 | .die => 3 | .device => 4 | .system => 5

def Aper.ofCode : BitVec 2 → Aper
  | 0#2 => .dev | 1#2 => .remote | 2#2 => .moss | _ => .win
def Aper.code : Aper → BitVec 2
  | .dev => 0 | .remote => 1 | .moss => 2 | .win => 3

def Eng.ofCode : BitVec 2 → Eng
  | 0#2 => .v | 1#2 => .m | 2#2 => .l | _ => .e
def Eng.code : Eng → BitVec 2
  | .v => 0 | .m => 1 | .l => 2 | .e => 3

/-- Vector opcodes (R50). -/
def VOp.ofCode (c : BitVec 8) : Option VOp :=
  match c with
  | 0x00#8 => some .vadd
  | 0x01#8 => some .vsub
  | 0x02#8 => some .vmul
  | 0x03#8 => some .vfma
  | 0x04#8 => some .vfms
  | 0x05#8 => some .vmin
  | 0x06#8 => some .vmax
  | 0x07#8 => some .vabs
  | 0x08#8 => some .vneg
  | 0x09#8 => some .vcpy
  | 0x0a#8 => some .vbcst
  | 0x0b#8 => some .vscl
  | 0x20#8 => some .viadd
  | 0x21#8 => some .visub
  | 0x22#8 => some .vimul
  | 0x23#8 => some .vimulh
  | 0x24#8 => some .vimad
  | 0x25#8 => some .vimin
  | 0x26#8 => some .vimax
  | 0x27#8 => some .viabs
  | 0x28#8 => some .vclz
  | 0x29#8 => some .vpopc
  | 0x40#8 => some .vand
  | 0x41#8 => some .vor
  | 0x42#8 => some .vxor
  | 0x43#8 => some .vlut3
  | 0x44#8 => some .vshl
  | 0x45#8 => some .vshr
  | 0x46#8 => some .vsar
  | 0x47#8 => some .vrot
  | 0x48#8 => some .vfshl
  | 0x49#8 => some .vfshr
  | 0x50#8 => some .vcmp
  | 0x51#8 => some .vsel
  | 0x52#8 => some .mand
  | 0x53#8 => some .mor
  | 0x54#8 => some .mxor
  | 0x55#8 => some .mnot
  | 0x56#8 => some .mcnt
  | 0x57#8 => some .mfirst
  | 0x60#8 => some .vcvt
  | 0x61#8 => some .vqnt
  | 0x62#8 => some .vdq
  | 0x63#8 => some .vretag
  | 0x70#8 => some .vrcp
  | 0x71#8 => some .vrsq
  | 0x72#8 => some .vsqrt
  | 0x73#8 => some .vdiv
  | 0x74#8 => some .vexp2
  | 0x75#8 => some .vlog2
  | 0x76#8 => some .vtanh
  | 0x80#8 => some .vrsum
  | 0x81#8 => some .vrmax
  | 0x82#8 => some .vrmin
  | 0x83#8 => some .vramax
  | 0x84#8 => some .vscan
  | 0x85#8 => some .vcsum
  | 0x90#8 => some .vperm
  | 0x91#8 => some .vshuf
  | 0x92#8 => some .vtrn
  | 0x93#8 => some .vrgath
  | 0x94#8 => some .vrscat
  | 0xa0#8 => some .vtopk
  | 0xa1#8 => some .vsample
  | 0xb0#8 => some .vld
  | 0xb1#8 => some .vst
  | 0xb2#8 => some .vldx
  | 0xb3#8 => some .vstx
  | 0xb4#8 => some .mld
  | 0xb5#8 => some .mst
  | _ => none

/-- The opcode of a vector word (R50). -/
def VOp.code : VOp → BitVec 8
  | .vadd => 0x00
  | .vsub => 0x01
  | .vmul => 0x02
  | .vfma => 0x03
  | .vfms => 0x04
  | .vmin => 0x05
  | .vmax => 0x06
  | .vabs => 0x07
  | .vneg => 0x08
  | .vcpy => 0x09
  | .vbcst => 0x0a
  | .vscl => 0x0b
  | .viadd => 0x20
  | .visub => 0x21
  | .vimul => 0x22
  | .vimulh => 0x23
  | .vimad => 0x24
  | .vimin => 0x25
  | .vimax => 0x26
  | .viabs => 0x27
  | .vclz => 0x28
  | .vpopc => 0x29
  | .vand => 0x40
  | .vor => 0x41
  | .vxor => 0x42
  | .vlut3 => 0x43
  | .vshl => 0x44
  | .vshr => 0x45
  | .vsar => 0x46
  | .vrot => 0x47
  | .vfshl => 0x48
  | .vfshr => 0x49
  | .vcmp => 0x50
  | .vsel => 0x51
  | .mand => 0x52
  | .mor => 0x53
  | .mxor => 0x54
  | .mnot => 0x55
  | .mcnt => 0x56
  | .mfirst => 0x57
  | .vcvt => 0x60
  | .vqnt => 0x61
  | .vdq => 0x62
  | .vretag => 0x63
  | .vrcp => 0x70
  | .vrsq => 0x71
  | .vsqrt => 0x72
  | .vdiv => 0x73
  | .vexp2 => 0x74
  | .vlog2 => 0x75
  | .vtanh => 0x76
  | .vrsum => 0x80
  | .vrmax => 0x81
  | .vrmin => 0x82
  | .vramax => 0x83
  | .vscan => 0x84
  | .vcsum => 0x85
  | .vperm => 0x90
  | .vshuf => 0x91
  | .vtrn => 0x92
  | .vrgath => 0x93
  | .vrscat => 0x94
  | .vtopk => 0xa0
  | .vsample => 0xa1
  | .vld => 0xb0
  | .vst => 0xb1
  | .vldx => 0xb2
  | .vstx => 0xb3
  | .mld => 0xb4
  | .mst => 0xb5

abbrev fRd (p : Parcel) : Reg := p.extractLsb' 8 5
abbrev fRs1 (p : Parcel) : Reg := p.extractLsb' 13 5
abbrev fRs2 (p : Parcel) : Reg := p.extractLsb' 18 5
abbrev fFunct (p : Parcel) : BitVec 9 := p.extractLsb' 23 9
abbrev fImm14 (p : Parcel) : BitVec 14 := p.extractLsb' 18 14
abbrev fImm19 (p : Parcel) : BitVec 19 := p.extractLsb' 13 19

/-- `i` when the must-be-zero bits are zero (R41, check 3). -/
def need (p : Parcel) (c : Bool) (i : Instr) : Except DecErr Instr :=
  if c then .ok i else .error (.badField p 0)

/-- A code field that has no value is a field fault (R41, check 3). -/
def code (p : Parcel) {α : Type} (o : Option α) (k : α → Except DecErr Instr) : Except DecErr Instr :=
  match o with
  | some a => k a
  | none => .error (.badField p 0)

/-- ALU register forms (R45). -/
def decodeAlu (p : Parcel) : Except DecErr Instr :=
  match fFunct p with
  | 0#9 => .ok (.add (fRd p) (fRs1 p) (fRs2 p))
  | 1#9 => .ok (.sub (fRd p) (fRs1 p) (fRs2 p))
  | 2#9 => .ok (.and (fRd p) (fRs1 p) (fRs2 p))
  | 3#9 => .ok (.or (fRd p) (fRs1 p) (fRs2 p))
  | 4#9 => .ok (.xor (fRd p) (fRs1 p) (fRs2 p))
  | 5#9 => .ok (.shl (fRd p) (fRs1 p) (fRs2 p))
  | 6#9 => .ok (.shr (fRd p) (fRs1 p) (fRs2 p))
  | 7#9 => .ok (.sar (fRd p) (fRs1 p) (fRs2 p))
  | 8#9 => .ok (.rol (fRd p) (fRs1 p) (fRs2 p))
  | 9#9 => .ok (.slt (fRd p) (fRs1 p) (fRs2 p))
  | 10#9 => .ok (.sltu (fRd p) (fRs1 p) (fRs2 p))
  | 11#9 => .ok (.min (fRd p) (fRs1 p) (fRs2 p))
  | 12#9 => .ok (.max (fRd p) (fRs1 p) (fRs2 p))
  | 13#9 => .ok (.minu (fRd p) (fRs1 p) (fRs2 p))
  | 14#9 => .ok (.maxu (fRd p) (fRs1 p) (fRs2 p))
  | 15#9 => need p (fRs2 p == 0) (.clz (fRd p) (fRs1 p))
  | 16#9 => need p (fRs2 p == 0) (.popc (fRd p) (fRs1 p))
  | 17#9 => .ok (.andn (fRd p) (fRs1 p) (fRs2 p))
  | _ => .error (.badOpcode p)

/-- MULDIV (R45). -/
def decodeMulDiv (p : Parcel) : Except DecErr Instr :=
  match fFunct p with
  | 0#9 => .ok (.mul (fRd p) (fRs1 p) (fRs2 p))
  | 1#9 => .ok (.mulh (fRd p) (fRs1 p) (fRs2 p))
  | 2#9 => .ok (.mulhu (fRd p) (fRs1 p) (fRs2 p))
  | 3#9 => .ok (.div (fRd p) (fRs1 p) (fRs2 p))
  | 4#9 => .ok (.divu (fRd p) (fRs1 p) (fRs2 p))
  | 5#9 => .ok (.rem (fRd p) (fRs1 p) (fRs2 p))
  | 6#9 => .ok (.remu (fRd p) (fRs1 p) (fRs2 p))
  | _ => .error (.badOpcode p)

/-- FPS (R45, R97). -/
def decodeFps (p : Parcel) : Except DecErr Instr :=
  match fFunct p with
  | 0#9 => .ok (.fadd (fRd p) (fRs1 p) (fRs2 p))
  | 1#9 => .ok (.fsub (fRd p) (fRs1 p) (fRs2 p))
  | 2#9 => .ok (.fmul (fRd p) (fRs1 p) (fRs2 p))
  | 3#9 => .ok (.ffma (fRd p) (fRs1 p) (fRs2 p))
  | 4#9 => .ok (.fmin (fRd p) (fRs1 p) (fRs2 p))
  | 5#9 => .ok (.fmax (fRd p) (fRs1 p) (fRs2 p))
  | 6#9 => need p (fRs2 p == 0) (.fcvtif (fRd p) (fRs1 p))
  | 7#9 => need p (fRs2 p == 0) (.fcvtfi (fRd p) (fRs1 p))
  | 8#9 => .ok (.fcmpeq (fRd p) (fRs1 p) (fRs2 p))
  | 9#9 => .ok (.fcmplt (fRd p) (fRs1 p) (fRs2 p))
  | 10#9 => .ok (.fcmple (fRd p) (fRs1 p) (fRs2 p))
  | _ => .error (.badOpcode p)

/-- SHIFTI (R44, R94). -/
def decodeShiftI (p : Parcel) : Except DecErr Instr :=
  if p.extractLsb' 26 6 != 0 then .error (.badField p 0)
  else
    let a := p.extractLsb' 18 6
    match p.extractLsb' 24 2 with
    | 0#2 => .ok (.shli (fRd p) (fRs1 p) a)
    | 1#2 => .ok (.shri (fRd p) (fRs1 p) a)
    | 2#2 => .ok (.sari (fRd p) (fRs1 p) a)
    | _ => .ok (.roli (fRd p) (fRs1 p) a)

/-- The offset of a branch: high 9 bits at [31:23], low 5 at [12:8] (R43). -/
def fBOff (p : Parcel) : BitVec 14 := p.extractLsb' 23 9 ++ p.extractLsb' 8 5

/-- Widths that a store may have (R44, R46). -/
def storeWidth (b : BitVec 3) : Option Width :=
  match Width.ofCode b with
  | some .b => some .b | some .h => some .h | some .w => some .w | some .d => some .d
  | _ => none

/-- AMO (R44, R46). -/
def decodeAmo (p : Parcel) : Except DecErr Instr :=
  let word := p.getLsbD 31
  let sq := p.getLsbD 23
  let mk (f : Bool → Scope → Bool → Reg → Reg → Reg → Instr) : Except DecErr Instr :=
    code p (Scope.ofCode (p.extractLsb' 24 3)) fun sc => .ok (f word sc sq (fRd p) (fRs1 p) (fRs2 p))
  match p.extractLsb' 27 4 with
  | 0#4 => mk .amoSwap
  | 1#4 => mk .amoAdd
  | 2#4 => mk .amoAnd
  | 3#4 => mk .amoOr
  | 4#4 => mk .amoXor
  | 5#4 => mk .amoMin
  | 6#4 => mk .amoMax
  | 7#4 => mk .amoMinu
  | 8#4 => mk .amoMaxu
  | 9#4 => if word then mk fun _ => .amoFadd else .error (.badField p 0)
  | _ => .error (.badField p 0)

/-- MTS: the numbers with a row of their own, and the rest (R44, R113). -/
def decodeMts (p : Parcel) : Except DecErr Instr :=
  let n : BitVec 12 := p.extractLsb' 20 12
  let r := fRs1 p
  need p (p.extractLsb' 18 2 == 0 && fRd p == 0) <|
    if n == 0x022 then .mtsFpflags r
    else if n == 0x051 then .mtsSlotmask r
    else if n == 0x060 then .mtsPreq r
    else if n == 0x071 then .mtsLeavegrant r
    else if n.extractLsb' 3 9 == 0x024 then .mtsMosslim (n.extractLsb' 0 3) r
    else if n == 0x140 then .mtsLeaveclus r
    else if n == 0x141 then .mtsLeaveslot r
    else if n == 0x143 then .mtsBiasctl r
    else if n.extractLsb' 4 8 == 0x16 then .mtsMon (n.extractLsb' 0 4) r
    else if n == 0x170 then .mtsMonsnap r
    else if n == 0x191 then .mtsPwrevt r
    else .mts n r

/-- SYS (R117). -/
def decodeSys (p : Parcel) : Except DecErr Instr :=
  match fFunct p with
  | 0#9 => need p (fRd p == 0 && fRs2 p == 0) (.trap (fRs1 p))
  | 1#9 => need p (fRd p == 0 && fRs1 p == 0 && fRs2 p == 0) .tret
  | 2#9 => need p (fRd p == 0 && fRs1 p == 0 && fRs2 p == 0) .bkpt
  | 3#9 => need p (fRd p == 0 && fRs1 p == 0 && fRs2 p == 0) .exit
  | 4#9 => need p (fRd p == 0 && fRs2 p == 0) (.ownwait (fRs1 p))
  | _ => .error (.badOpcode p)

/-- TOKPOST and TOKTAKE (R44, R116). -/
def decodeTok (p : Parcel) : Except DecErr Instr :=
  let rcv := Eng.ofCode (p.extractLsb' 26 2)
  let snd := Eng.ofCode (p.extractLsb' 24 2)
  need p (p.extractLsb' 28 4 == 0 && p.extractLsb' 8 15 == 0 && snd != rcv)
    (if p.getLsbD 23 then .toktake snd rcv else .tokpost snd rcv)

/-- ENG (R54). -/
def decodeEng (p : Parcel) : Except DecErr Instr :=
  let f : EF := ⟨p.getLsbD 31, p.getLsbD 30, fRs2 p, fRs1 p, fRd p⟩
  match p.extractLsb' 23 7 with
  | 0x00#7 => need p (f.ok true) (.engCopy f)
  | 0x01#7 => need p (f.ok true) (.engFill f)
  | 0x02#7 => need p (f.ok true) (.engRefresh f)
  | 0x10#7 => need p (f.ok true) (.engGather f)
  | 0x11#7 => need p (f.ok true) (.engScatter f)
  | 0x12#7 => need p (f.ok true) (.engScatteradd f)
  | 0x20#7 => need p (f.ok true) (.engColl f)
  | 0x30#7 => need p (f.ok true) (.engFamo f)
  | 0x31#7 => need p (f.ok true) (.engFcas f)
  | 0x38#7 => need p (f.ok false) (.engEvsig f)
  | 0x40#7 => need p (f.ok true) (.engTwset f)
  | 0x41#7 => need p (f.ok false) (.engTwclr f)
  | 0x42#7 => need p (f.ok false) (.engTwbud f)
  | 0x43#7 => need p (f.ok false) (.engTkcmt f)
  | 0x44#7 => need p (f.ok false) (.engTkconf f)
  | 0x45#7 => need p (f.ok false) (.engTkrej f)
  | 0x46#7 => need p (f.ok true) (.engTwstat f)
  | 0x47#7 => need p (f.ok true) (.engSeqopen f)
  | 0x48#7 => need p (f.ok true) (.engSeqclose f)
  | 0x50#7 => need p (f.ok true) (.engWswap f)
  | 0x51#7 => need p (f.ok true) (.engWstat f)
  | 0x60#7 => need p (f.ok false) (.engCqry f)
  | c => .error (.badEngine c)

/-- SYNC (R44). -/
def decodeSync (p : Parcel) : Except DecErr Instr :=
  let k : BitVec 2 := p.extractLsb' 23 2
  match p.extractLsb' 28 4 with
  | 0#4 => need p (p.extractLsb' 24 4 == 0) (.yield (p.extractLsb' 8 16))
  | 1#4 => need p (p.extractLsb' 23 5 == 0) (.suspend (fRd p) (fRs1 p) (fRs2 p))
  | 2#4 => need p (p.extractLsb' 25 3 == 0 && fRd p == 0 && fRs1 p == 0 && fRs2 p == 0) (.bar k)
  | 3#4 => need p (p.extractLsb' 25 3 == 0 && fRs1 p == 0 && fRs2 p == 0) (.bararr (fRd p) k)
  | 4#4 => need p (p.extractLsb' 25 3 == 0 && fRd p == 0 && fRs2 p == 0) (.barwait k (fRs1 p))
  | 5#4 => need p (p.extractLsb' 25 3 == 0 && fRs1 p == 0 && fRs2 p == 0) (.grpinfo (fRd p) k)
  | _ => .error (.badOpcode p)

/-- EV (R44, R207). -/
def decodeEv (p : Parcel) : Except DecErr Instr :=
  let z := p.extractLsb' 23 5 == 0
  match p.extractLsb' 28 4 with
  | 0#4 => code p (Scope.ofCode (p.extractLsb' 24 3)) fun sc =>
      need p (!p.getLsbD 27 && !p.getLsbD 23 && fRd p == 0) (.evadd sc (fRs1 p) (fRs2 p))
  | 1#4 => need p z (.evwait (fRd p) (fRs1 p) (fRs2 p))
  | 2#4 => need p (z && fRs2 p == 0) (.evrd (fRd p) (fRs1 p))
  | 3#4 => need p (z && fRd p == 0) (.evset (fRs1 p) (fRs2 p))
  | _ => .error (.badOpcode p)

/-- RING (R44, R209). -/
def decodeRing (p : Parcel) : Except DecErr Instr :=
  let n : BitVec 2 := p.extractLsb' 23 2
  let z := p.extractLsb' 25 3 == 0 && fRs2 p == 0
  match p.extractLsb' 28 4 with
  | 0#4 => need p (z && fRd p == 0) (.rpsh n (fRs1 p))
  | 1#4 => need p (z && fRs1 p == 0) (.rpop (fRd p) n)
  | 2#4 => need p (z && fRd p == 0) (.rinit n (fRs1 p))
  | _ => .error (.badOpcode p)

/-- MOSS (R44, R233). -/
def decodeMoss (p : Parcel) : Except DecErr Instr :=
  let z := p.extractLsb' 23 5 == 0
  match p.extractLsb' 28 4 with
  | 0#4 => need p (!p.getLsbD 27 && !p.getLsbD 23 && p.extractLsb' 24 3 != 0)
      (.mclass (p.extractLsb' 24 3) (fRd p) (fRs1 p) (fRs2 p))
  | 1#4 => need p z (.mfree (fRd p) (fRs1 p) (fRs2 p))
  | 2#4 => need p z (.mrefresh (fRd p) (fRs1 p) (fRs2 p))
  | 3#4 => need p (z && fRs2 p == 0) (.mage (fRd p) (fRs1 p))
  | 4#4 => need p z (.mquery (fRd p) (fRs1 p) (fRs2 p))
  | _ => .error (.badOpcode p)

/-- A scalar word, by major opcode (R43, R44). -/
def decodeScalar (p : Parcel) : Except DecErr Instr :=
  match p.extractLsb' 2 6 with
  | 0x00#6 => decodeAlu p
  | 0x01#6 => .ok (.addi (fRd p) (fRs1 p) (fImm14 p))
  | 0x02#6 => .ok (.andi (fRd p) (fRs1 p) (fImm14 p))
  | 0x03#6 => .ok (.ori (fRd p) (fRs1 p) (fImm14 p))
  | 0x04#6 => .ok (.xori (fRd p) (fRs1 p) (fImm14 p))
  | 0x05#6 => .ok (.slti (fRd p) (fRs1 p) (fImm14 p))
  | 0x06#6 => .ok (.sltui (fRd p) (fRs1 p) (fImm14 p))
  | 0x07#6 => decodeShiftI p
  | 0x08#6 => .ok (.lui (fRd p) (fImm19 p))
  | 0x09#6 => .ok (.addpc (fRd p) (fImm19 p))
  | 0x0A#6 => decodeMulDiv p
  | 0x0B#6 => decodeFps p
  | 0x0c#6 => .ok (.beq (fRs1 p) (fRs2 p) (fBOff p))
  | 0x0d#6 => .ok (.bne (fRs1 p) (fRs2 p) (fBOff p))
  | 0x0e#6 => .ok (.blt (fRs1 p) (fRs2 p) (fBOff p))
  | 0x0f#6 => .ok (.bge (fRs1 p) (fRs2 p) (fBOff p))
  | 0x10#6 => .ok (.bltu (fRs1 p) (fRs2 p) (fBOff p))
  | 0x11#6 => .ok (.bgeu (fRs1 p) (fRs2 p) (fBOff p))
  | 0x12#6 => .ok (.jal (fRd p) (fImm19 p))
  | 0x13#6 => .ok (.jalr (fRd p) (fRs1 p) (fImm14 p))
  | 0x14#6 => code p (Width.ofCode (p.extractLsb' 29 3)) fun wd => .ok (.ld wd (fRd p) (fRs1 p) (p.extractLsb' 18 11))
  | 0x15#6 => code p (storeWidth (p.extractLsb' 29 3)) fun wd =>
      .ok (.st wd (fRs2 p) (fRs1 p) (p.extractLsb' 23 6 ++ p.extractLsb' 8 5))
  | 0x16#6 => code p (Width.ofCode (p.extractLsb' 29 3)) fun wd => code p (Scope.ofCode (p.extractLsb' 18 3)) fun sc =>
      need p (p.extractLsb' 21 8 == 0) (.lda wd sc (fRd p) (fRs1 p))
  | 0x17#6 => code p (storeWidth (p.extractLsb' 29 3)) fun wd => code p (Scope.ofCode (p.extractLsb' 18 3)) fun sc =>
      need p (p.extractLsb' 21 8 == 0) (.stl wd sc (fRd p) (fRs1 p))
  | 0x18#6 => decodeAmo p
  | 0x19#6 => code p (Scope.ofCode (p.extractLsb' 24 3)) fun sc =>
      need p (p.extractLsb' 28 4 == 0) (.cas (p.getLsbD 27) sc (p.getLsbD 23) (fRd p) (fRs1 p) (fRs2 p))
  | 0x1A#6 => code p (Scope.ofCode (p.extractLsb' 24 3)) fun sc =>
      need p (!p.getLsbD 31 && p.extractLsb' 27 4 != 0 && p.extractLsb' 8 16 == 0) (.fence (p.extractLsb' 27 4) sc)
  | 0x1B#6 =>
      if p.getLsbD 23 then
        need p (p.extractLsb' 26 6 == 0 && fRs2 p == 0) (.spchk (Aper.ofCode (p.extractLsb' 24 2)) (fRd p) (fRs1 p))
      else need p (p.extractLsb' 27 5 == 0 && fRs2 p == 0)
        (.cvta (p.getLsbD 26) (Aper.ofCode (p.extractLsb' 24 2)) (fRd p) (fRs1 p))
  | 0x1C#6 => need p (p.extractLsb' 13 7 == 0) (.mfs (p.extractLsb' 20 12) (fRd p))
  | 0x1D#6 => decodeMts p
  | 0x1E#6 => decodeSys p
  | 0x1F#6 => decodeTok p
  | 0x20#6 => decodeEng p
  | 0x21#6 => decodeSync p
  | 0x22#6 => need p (p.extractLsb' 24 8 == 0 && fRs2 p == 0)
      (if p.getLsbD 23 then .launchBlock (fRd p) (fRs1 p) else .launch (fRd p) (fRs1 p))
  | 0x23#6 => decodeEv p
  | 0x24#6 => decodeRing p
  | 0x25#6 => decodeMoss p
  | 0x26#6 =>
      if p.getLsbD 23 then need p (p.extractLsb' 24 8 == 0 && fRs2 p == 0 && fRs1 p == 0) (.leaverd (fRd p))
      else need p (p.extractLsb' 24 8 == 0 && fRs2 p == 0) (.leave (fRd p) (fRs1 p))
  | _ => .error (.badOpcode p)

/-- The fields of a vector word (R47), rounding code given. -/
def vfOf (p0 p1 p2 : Parcel) (rnd : Rnd) : VF where
  fmt := Fmt.ofCode (p0.extractLsb' 10 4)
  mask := p0.extractLsb' 14 3
  rnd := rnd
  sat := p0.getLsbD 20
  pop := p0.extractLsb' 21 3
  push := p0.extractLsb' 24 3
  fn := p0.extractLsb' 27 5
  vd := p1.extractLsb' 0 9
  sd := p1.extractLsb' 9 4
  va := p1.extractLsb' 13 9
  sa := p1.extractLsb' 22 4
  vb := p2.extractLsb' 0 9
  sb := p2.extractLsb' 9 4
  bs := p2.getLsbD 13
  imm := p2.extractLsb' 14 18

/-- A vector word (R47 to R51): opcode, then the fields, the lowest offending parcel first. -/
def decodeVector (p0 p1 p2 : Parcel) : Except DecErr Instr :=
  match VOp.ofCode (p0.extractLsb' 2 8) with
  | none => .error (.badOpcode p0)
  | some op =>
    match Rnd.ofCode (p0.extractLsb' 17 3) with
    | none => .error (.badField p0 0)
    | some rnd =>
      let f := vfOf p0 p1 p2 rnd
      if !op.ok0 f then .error (.badField p0 0)
      else if p1.extractLsb' 26 6 != 0 || !op.ok1 f then .error (.badField p0 1)
      else if !op.ok2 f then .error (.badField p0 2)
      else .ok (Instr.ofV op f)

/-- The fields of MMA and MMAZ (R52). -/
def mfOf (p0 p1 p2 p3 : Parcel) : MF where
  tA := p0.extractLsb' 8 4
  tB := p0.extractLsb' 12 4
  int := p0.getLsbD 16
  acc := p0.extractLsb' 18 3
  pop := p0.extractLsb' 21 3
  push := p0.extractLsb' 24 3
  trA := p0.getLsbD 27
  trB := p0.getLsbD 28
  swap := p0.getLsbD 29
  k := p1.extractLsb' 0 16
  tapA := p1.extractLsb' 16 8
  tapB := p1.extractLsb' 24 8
  en := p2.extractLsb' 0 16
  cc := p2.extractLsb' 16 3
  rows := p3.extractLsb' 0 4
  cols := p3.extractLsb' 4 4

/-- The fields of ACLR, ASWAP and ADRAIN (R53). -/
def afOf (p0 : Parcel) : AF := ⟨p0.extractLsb' 18 3, p0.extractLsb' 21 3, p0.extractLsb' 24 3⟩

/-- The lowest parcel with a bit that must be zero, for a list of (parcel index, must-be-zero value is zero). -/
def firstBad : List (Nat × Bool) → Option Nat
  | [] => none
  | (i, true) :: _ => some i
  | (_, false) :: r => firstBad r

/-- A matrix word (R52, R53). -/
def decodeMatrix (p0 p1 p2 p3 p4 p5 : Parcel) : Except DecErr Instr :=
  let tail := [(4, p4 != 0), (5, p5 != 0)]
  let step := firstBad ([(0, p0.getLsbD 17 || p0.extractLsb' 30 2 != 0), (2, p2.extractLsb' 19 13 != 0),
    (3, p3.extractLsb' 8 24 != 0)] ++ tail)
  let plain := firstBad ([(0, p0.extractLsb' 8 10 != 0 || p0.extractLsb' 27 5 != 0), (1, p1 != 0), (2, p2 != 0),
    (3, p3 != 0)] ++ tail)
  let fin (b : Option Nat) (i : Instr) : Except DecErr Instr :=
    match b with
    | some k => .error (.badField p0 k)
    | none => .ok i
  match p0.extractLsb' 2 6 with
  | 0#6 => fin step (.mma (mfOf p0 p1 p2 p3))
  | 1#6 => fin step (.mmaz (mfOf p0 p1 p2 p3))
  | 2#6 => fin plain (.aclr (afOf p0))
  | 3#6 => fin plain (.aswap (afOf p0))
  | 4#6 => fin plain (.adrain (afOf p0))
  | _ => .error (.badOpcode p0)

/-- Decodes the word at the head of a parcel stream, and returns it with the rest (R39, R41). -/
def decode : List Parcel → Except DecErr (Instr × List Parcel)
  | [] => .error .short
  | p0 :: r =>
    match p0.extractLsb' 0 2, r with
    | 0#2, _ => (decodeScalar p0).map fun i => (i, r)
    | 1#2, _ => .error (.badClass p0)
    | 2#2, p1 :: p2 :: r' => (decodeVector p0 p1 p2).map fun i => (i, r')
    | 3#2, p1 :: p2 :: p3 :: p4 :: p5 :: r' => (decodeMatrix p0 p1 p2 p3 p4 p5).map fun i => (i, r')
    | _, _ => .error .short

/-- Parcels of a number, parcel 0 from its least significant bits (R39). -/
def parcelsOf (w : Nat) : Nat → List Parcel
  | 0 => []
  | n + 1 => BitVec.ofNat 32 w :: parcelsOf (w / 2 ^ 32) n

/-- The instruction that the decoder reads from a word whose bits are `w`, the bits from `nbits` up being 0. -/
def decodeTableWord (nbits w : Nat) : Option Instr :=
  match decode (parcelsOf (w % 2 ^ nbits) 6) with
  | .ok (i, _) => some i
  | .error _ => none

/-- R-form parcel (R43). -/
def pR (op : BitVec 6) (fn : BitVec 9) (rd rs1 rs2 : Reg) : Parcel := fn ++ rs2 ++ rs1 ++ rd ++ op ++ 0#2
/-- I-form parcel (R43). -/
def pI (op : BitVec 6) (rd rs1 : Reg) (imm : BitVec 14) : Parcel := imm ++ rs1 ++ rd ++ op ++ 0#2
/-- J- and U-form parcel (R43). -/
def pJ (op : BitVec 6) (rd : Reg) (imm : BitVec 19) : Parcel := imm ++ rd ++ op ++ 0#2
/-- B-form parcel (R43). -/
def pB (op : BitVec 6) (rs1 rs2 : Reg) (off : BitVec 14) : Parcel :=
  off.extractLsb' 5 9 ++ rs2 ++ rs1 ++ off.extractLsb' 0 5 ++ op ++ 0#2
/-- AMO parcel (R44). -/
def pAmo (op : BitVec 4) (word : Bool) (sc : Scope) (seq : Bool) (rd rs1 rs2 : Reg) : Parcel :=
  BitVec.ofBool word ++ op ++ sc.code ++ BitVec.ofBool seq ++ rs2 ++ rs1 ++ rd ++ 0x18#6 ++ 0#2
/-- MTS parcel (R43). -/
def pMts (n : BitVec 12) (rs1 : Reg) : Parcel := n ++ 0#2 ++ rs1 ++ 0#5 ++ 0x1D#6 ++ 0#2
/-- TOKPOST and TOKTAKE parcel (R44). -/
def pTok (take : Bool) (snd rcv : Eng) : Parcel :=
  0#4 ++ rcv.code ++ snd.code ++ BitVec.ofBool take ++ 0#15 ++ 0x1F#6 ++ 0#2
/-- SYNC, EV, RING and MOSS parcel: sub-operation, five bits, registers (R44). -/
def pSub (op : BitVec 6) (sub : BitVec 4) (mid : BitVec 5) (rd rs1 rs2 : Reg) : Parcel :=
  sub ++ mid ++ rs2 ++ rs1 ++ rd ++ op ++ 0#2
/-- ENG parcel (R43). -/
def pEng (fn : BitVec 7) (f : EF) : Parcel :=
  BitVec.ofBool f.wait ++ BitVec.ofBool f.reply ++ fn ++ f.rs2 ++ f.rs1 ++ f.rd ++ 0x20#6 ++ 0#2
/-- The three parcels of a vector word (R47). -/
def pV (op : VOp) (f : VF) : List Parcel :=
  [f.fn ++ f.push ++ f.pop ++ BitVec.ofBool f.sat ++ f.rnd.code ++ f.mask ++ f.fmt.code ++ op.code ++ 2#2,
   0#6 ++ f.sa ++ f.va ++ f.sd ++ f.vd,
   f.imm ++ BitVec.ofBool f.bs ++ f.sb ++ f.vb]
/-- The six parcels of MMA and MMAZ (R52). -/
def pM (op : BitVec 6) (f : MF) : List Parcel :=
  [0#2 ++ BitVec.ofBool f.swap ++ BitVec.ofBool f.trB ++ BitVec.ofBool f.trA ++ f.push ++ f.pop ++ f.acc ++ 0#1 ++
     BitVec.ofBool f.int ++ f.tB ++ f.tA ++ op ++ 3#2,
   f.tapB ++ f.tapA ++ f.k, 0#13 ++ f.cc ++ f.en, 0#24 ++ f.cols ++ f.rows, 0, 0]
/-- The six parcels of ACLR, ASWAP and ADRAIN (R53). -/
def pA (op : BitVec 6) (f : AF) : List Parcel := [0#5 ++ f.push ++ f.pop ++ f.acc ++ 0#10 ++ op ++ 3#2, 0, 0, 0, 0, 0]

/-- The parcels of an instruction. An event has none. -/
def encode (i : Instr) : List Parcel :=
  match i.vparts with
  | some (op, f) => pV op f
  | none =>
    match i with
    | .add d a b => [pR 0 0 d a b]
    | .sub d a b => [pR 0 1 d a b]
    | .and d a b => [pR 0 2 d a b]
    | .or d a b => [pR 0 3 d a b]
    | .xor d a b => [pR 0 4 d a b]
    | .shl d a b => [pR 0 5 d a b]
    | .shr d a b => [pR 0 6 d a b]
    | .sar d a b => [pR 0 7 d a b]
    | .rol d a b => [pR 0 8 d a b]
    | .slt d a b => [pR 0 9 d a b]
    | .sltu d a b => [pR 0 10 d a b]
    | .min d a b => [pR 0 11 d a b]
    | .max d a b => [pR 0 12 d a b]
    | .minu d a b => [pR 0 13 d a b]
    | .maxu d a b => [pR 0 14 d a b]
    | .clz d a => [pR 0 15 d a 0]
    | .popc d a => [pR 0 16 d a 0]
    | .andn d a b => [pR 0 17 d a b]
    | .addi d a i => [pI 1 d a i]
    | .andi d a i => [pI 2 d a i]
    | .ori d a i => [pI 3 d a i]
    | .xori d a i => [pI 4 d a i]
    | .slti d a i => [pI 5 d a i]
    | .sltui d a i => [pI 6 d a i]
    | .shli d a k => [pI 7 d a (0#6 ++ 0#2 ++ k)]
    | .shri d a k => [pI 7 d a (0#6 ++ 1#2 ++ k)]
    | .sari d a k => [pI 7 d a (0#6 ++ 2#2 ++ k)]
    | .roli d a k => [pI 7 d a (0#6 ++ 3#2 ++ k)]
    | .lui d i => [pJ 0x08 d i]
    | .addpc d i => [pJ 0x09 d i]
    | .mul d a b => [pR 0x0A 0 d a b]
    | .mulh d a b => [pR 0x0A 1 d a b]
    | .mulhu d a b => [pR 0x0A 2 d a b]
    | .div d a b => [pR 0x0A 3 d a b]
    | .divu d a b => [pR 0x0A 4 d a b]
    | .rem d a b => [pR 0x0A 5 d a b]
    | .remu d a b => [pR 0x0A 6 d a b]
    | .fadd d a b => [pR 0x0B 0 d a b]
    | .fsub d a b => [pR 0x0B 1 d a b]
    | .fmul d a b => [pR 0x0B 2 d a b]
    | .ffma d a b => [pR 0x0B 3 d a b]
    | .fmin d a b => [pR 0x0B 4 d a b]
    | .fmax d a b => [pR 0x0B 5 d a b]
    | .fcvtif d a => [pR 0x0B 6 d a 0]
    | .fcvtfi d a => [pR 0x0B 7 d a 0]
    | .fcmpeq d a b => [pR 0x0B 8 d a b]
    | .fcmplt d a b => [pR 0x0B 9 d a b]
    | .fcmple d a b => [pR 0x0B 10 d a b]
    | .beq a b o => [pB 0x0c a b o]
    | .bne a b o => [pB 0x0d a b o]
    | .blt a b o => [pB 0x0e a b o]
    | .bge a b o => [pB 0x0f a b o]
    | .bltu a b o => [pB 0x10 a b o]
    | .bgeu a b o => [pB 0x11 a b o]
    | .jal d o => [pJ 0x12 d o]
    | .jalr d a i => [pI 0x13 d a i]
    | .ld wd d a i => [wd.code ++ i ++ a ++ d ++ 0x14#6 ++ 0#2]
    | .st wd b a i => [wd.code ++ i.extractLsb' 5 6 ++ b ++ a ++ i.extractLsb' 0 5 ++ 0x15#6 ++ 0#2]
    | .lda wd sc d a => [wd.code ++ 0#8 ++ sc.code ++ a ++ d ++ 0x16#6 ++ 0#2]
    | .stl wd sc b a => [wd.code ++ 0#8 ++ sc.code ++ a ++ b ++ 0x17#6 ++ 0#2]
    | .amoSwap wd sc q d a b => [pAmo 0 wd sc q d a b]
    | .amoAdd wd sc q d a b => [pAmo 1 wd sc q d a b]
    | .amoAnd wd sc q d a b => [pAmo 2 wd sc q d a b]
    | .amoOr wd sc q d a b => [pAmo 3 wd sc q d a b]
    | .amoXor wd sc q d a b => [pAmo 4 wd sc q d a b]
    | .amoMin wd sc q d a b => [pAmo 5 wd sc q d a b]
    | .amoMax wd sc q d a b => [pAmo 6 wd sc q d a b]
    | .amoMinu wd sc q d a b => [pAmo 7 wd sc q d a b]
    | .amoMaxu wd sc q d a b => [pAmo 8 wd sc q d a b]
    | .amoFadd sc q d a b => [pAmo 9 true sc q d a b]
    | .cas wd sc q d a b => [0#4 ++ BitVec.ofBool wd ++ sc.code ++ BitVec.ofBool q ++ b ++ a ++ d ++ 0x19#6 ++ 0#2]
    | .fence k sc => [0#1 ++ k ++ sc.code ++ 0#16 ++ 0x1A#6 ++ 0#2]
    | .cvta g ap d a => [0#5 ++ BitVec.ofBool g ++ ap.code ++ 0#1 ++ 0#5 ++ a ++ d ++ 0x1B#6 ++ 0#2]
    | .spchk ap d a => [0#6 ++ ap.code ++ 1#1 ++ 0#5 ++ a ++ d ++ 0x1B#6 ++ 0#2]
    | .mfs n d => [n ++ 0#7 ++ d ++ 0x1C#6 ++ 0#2]
    | .mts n a => [pMts n a]
    | .mtsFpflags a => [pMts 0x022 a]
    | .mtsSlotmask a => [pMts 0x051 a]
    | .mtsPreq a => [pMts 0x060 a]
    | .mtsLeavegrant a => [pMts 0x071 a]
    | .mtsLeaveclus a => [pMts 0x140 a]
    | .mtsLeaveslot a => [pMts 0x141 a]
    | .mtsBiasctl a => [pMts 0x143 a]
    | .mtsMonsnap a => [pMts 0x170 a]
    | .mtsPwrevt a => [pMts 0x191 a]
    | .mtsMosslim k a => [pMts (0x024#9 ++ k) a]
    | .mtsMon k a => [pMts (0x16#8 ++ k) a]
    | .trap a => [pR 0x1E 0 0 a 0]
    | .tret => [pR 0x1E 1 0 0 0]
    | .bkpt => [pR 0x1E 2 0 0 0]
    | .exit => [pR 0x1E 3 0 0 0]
    | .ownwait a => [pR 0x1E 4 0 a 0]
    | .tokpost a b => [pTok false a b]
    | .toktake a b => [pTok true a b]
    | .yield i => [0#4 ++ 0#4 ++ i ++ 0x21#6 ++ 0#2]
    | .suspend d a b => [pSub 0x21 1 0 d a b]
    | .bar k => [pSub 0x21 2 (0#3 ++ k) 0 0 0]
    | .bararr d k => [pSub 0x21 3 (0#3 ++ k) d 0 0]
    | .barwait k a => [pSub 0x21 4 (0#3 ++ k) 0 a 0]
    | .grpinfo d k => [pSub 0x21 5 (0#3 ++ k) d 0 0]
    | .launch d a => [pR 0x22 0 d a 0]
    | .launchBlock d a => [pR 0x22 1 d a 0]
    | .evadd sc a b => [pSub 0x23 0 (0#1 ++ sc.code ++ 0#1) 0 a b]
    | .evwait d a b => [pSub 0x23 1 0 d a b]
    | .evrd d a => [pSub 0x23 2 0 d a 0]
    | .evset a b => [pSub 0x23 3 0 0 a b]
    | .rpsh n a => [pSub 0x24 0 (0#3 ++ n) 0 a 0]
    | .rpop d n => [pSub 0x24 1 (0#3 ++ n) d 0 0]
    | .rinit n a => [pSub 0x24 2 (0#3 ++ n) 0 a 0]
    | .mclass c d a b => [pSub 0x25 0 (0#1 ++ c ++ 0#1) d a b]
    | .mfree d a b => [pSub 0x25 1 0 d a b]
    | .mrefresh d a b => [pSub 0x25 2 0 d a b]
    | .mage d a => [pSub 0x25 3 0 d a 0]
    | .mquery d a b => [pSub 0x25 4 0 d a b]
    | .leave d a => [pR 0x26 0 d a 0]
    | .leaverd d => [pR 0x26 1 d 0 0]
    | .engCopy f => [pEng 0x00 f]
    | .engFill f => [pEng 0x01 f]
    | .engRefresh f => [pEng 0x02 f]
    | .engGather f => [pEng 0x10 f]
    | .engScatter f => [pEng 0x11 f]
    | .engScatteradd f => [pEng 0x12 f]
    | .engColl f => [pEng 0x20 f]
    | .engFamo f => [pEng 0x30 f]
    | .engFcas f => [pEng 0x31 f]
    | .engEvsig f => [pEng 0x38 f]
    | .engTwset f => [pEng 0x40 f]
    | .engTwclr f => [pEng 0x41 f]
    | .engTwbud f => [pEng 0x42 f]
    | .engTkcmt f => [pEng 0x43 f]
    | .engTkconf f => [pEng 0x44 f]
    | .engTkrej f => [pEng 0x45 f]
    | .engTwstat f => [pEng 0x46 f]
    | .engSeqopen f => [pEng 0x47 f]
    | .engSeqclose f => [pEng 0x48 f]
    | .engWswap f => [pEng 0x50 f]
    | .engWstat f => [pEng 0x51 f]
    | .engCqry f => [pEng 0x60 f]
    | .mma f => pM 0 f
    | .mmaz f => pM 1 f
    | .aclr f => pA 2 f
    | .aswap f => pA 3 f
    | .adrain f => pA 4 f
    | _ => []

end Sys2Proof
end

