-- ==== Sys2Proof/Machine/State.lean ====
section
/-!
DEFINITION. The state of the machine as plain data: every piece of state that the spec names, from a strand's
registers (R8) up to the module (R429). A table lists the entries that differ from their reset value
(`Tbl`); memories are tables of bytes.
-/
namespace Sys2Proof.Machine

/-- A table by number, in rising order of the numbers; an unlisted number holds the table's default. -/
abbrev Tbl (α : Type) := List (Nat × α)

/-- A four-component clock or stamp, one component for each compute die (R252). -/
structure Stamp where
  d0 : Word := 0
  d1 : Word := 0
  d2 : Word := 0
  d3 : Word := 0
  deriving DecidableEq, Repr

/-- The error mark of a token: the cause and the record address that its taker faults with (R278). -/
structure Mark where
  cause : BitVec 8
  tval  : Word
  deriving DecidableEq, Repr

/-- A token queue: its tokens, oldest first, and the numbers pushed and popped (R31). -/
structure TokQ where
  toks   : List (Option Mark) := []
  pushes : BitVec 32 := 0
  pops   : BitVec 32 := 0
  deriving DecidableEq, Repr

/-- A granule of the register window: its bytes, its tag (R22) and its poison. -/
structure Gran where
  data   : GranData := 0
  fmt    : Fmt := .empty
  owner  : Bool := false
  poison : Bool := false
  deriving DecidableEq, Repr

/-- The working bank of an accumulator, its format, EMPTY, FP32 or I32 (R165), and whether a k-block in it is poisoned
(R385, log 26). -/
structure Bank where
  data : BankData := 0
  fmt  : Fmt := .empty
  bad  : Bool := false
  deriving DecidableEq, Repr

/-- A fault found by a word, to be raised when the word would finish (R104). -/
structure Flt where
  cause : BitVec 8
  tval  : Word
  deriving DecidableEq, Repr

/-- Where a generic address lies (R21, R214). -/
inductive Place where
  | dev (va : Nat)
  | remote (chip va : Nat)
  | moss (off : Nat)
  | win (off : Nat)
  deriving DecidableEq, Repr

/-- How far a part of an L word has come (R160). -/
inductive PartSt where
  /-- Not requested. -/
  | todo
  /-- Requested and not performed: a near access before its grant, or an atomic that has not left its cluster (R217, R251). -/
  | asked
  /-- A near access whose reply is overdue (R34). -/
  | due
  /-- Under way: its reply, or the application of its write, is to come. -/
  | out
  | done
  /-- It found a fault; a retry makes it again (R344). -/
  | bad
  deriving DecidableEq, Repr

/-- A part of an L word (R160): its index, row, byte offset in the row, bytes, address; and, from the start of the word, its
place, its physical address in device memory, how far it has come, and whether it has read a row group that was not valid (R226). -/
structure LPart where
  idx   : Nat := 0
  row   : Nat
  off   : Nat
  n     : Nat
  addr  : Word
  place : Place := .dev 0
  pa    : Nat := 0
  st    : PartSt := .todo
  inv   : Bool := false
  deriving DecidableEq, Repr

/-- A part is over without error. -/
def LPart.isDone (p : LPart) : Bool := match p.st with | .done => true | _ => false

/-- A write that a row of a V word makes. -/
inductive VWrite where
  /-- Elements of a granule in a format, the whole granule or a part of it (R24). -/
  | gran (g : Nat) (f : Fmt) (whole : Bool) (elems : List (Nat × Nat))
  /-- Bytes of a granule under a tag (R130). -/
  | bytes (g : Nat) (f : Fmt) (whole : Bool) (bs : List (Nat × Nat))
  /-- The tag of a granule (R143). -/
  | tag (g : Nat) (f : Fmt)
  /-- Bits of a mask register (R136). -/
  | bits (m : Nat) (bs : List (Nat × Bool))
  /-- A whole mask register (R138). -/
  | mask (m : Nat) (v : Mask)
  /-- A scalar register (R139). -/
  | reg (r : Reg) (v : Word)
  /-- The flags that the row raises, which the word ORs into `fpflags` when it finishes (R83). -/
  | flags (v : Word)
  deriving DecidableEq, Repr

/-- How far a queued word has come (R30, R346). -/
inductive Phase where
  /-- Not started. -/
  | idle
  /-- Started: its tokens are taken. -/
  | going
  /-- L: complete, or abandoned with a fault; it finishes when it is the oldest. -/
  | complete
  /-- At a resumption step: the next V row, the next part of an L word, or the completed k-blocks of a matrix step, σ − u
  (R173, R344, R346). -/
  | parked (n : Nat)
  /-- Its effect is complete, its pushes to the queues of the mask are not made (R31, R344). -/
  | pushing (qs : BitVec 3)
  deriving DecidableEq, Repr

/-- A row of data that an L word has had returned: its bytes and whether poison came with them (R159). -/
structure RowData where
  data   : GranData
  poison : Bool
  deriving DecidableEq, Repr

/-- A word or a point in an engine queue, with the values captured at issue (R26, R354). -/
structure Item where
  ins    : Instr
  pc     : Word
  seq    : BitVec 32
  vshape : Word
  fpctl  : Word
  a      : Word
  b      : Word
  d      : Word
  mask   : Mask
  phase  : Phase := .idle
  /-- The returned value of a scalar L word, before it is written to its register. -/
  val    : Word := 0
  rows   : List RowData := []
  /-- The stamp of the units that supplied the value (R252). -/
  stamp  : Stamp := {}
  fault  : Option Flt := none
  /-- V: the next row. M: the k-blocks of an earlier start. MREFRESH: the rewrites that are to end. -/
  left   : Nat := 0
  /-- L: the indices of the parts of a load that are in its destination already, while it runs (R32, R160). -/
  wrote  : List Nat := []
  /-- L: the parts of a started word, the rows of indices that VLDX and VSTX have read, and that a part which an earlier run has written read
  a row group that was not valid (R160, R226). V: `vis` holds the rows that a word has read whose writes come last. -/
  parts  : List LPart := []
  vis    : List GranData := []
  inv    : Bool := false
  /-- V: the time in the word and the writes to come: cycle, row, writes (R125); the crossbar cycles that it has lost (R153). L: the part
  at which the word started. M: the cycles of the step, or of its exchange, that have been made, with what they have read in `vis` and
  `rows` (R168, R175); `lost` is 1 for a head whose energy is checked and 2 for a step that has started (R172, R173). -/
  time   : Nat := 0
  pend   : List (Nat × Nat × List VWrite) := []
  lost   : Nat := 0
  /-- V: the word waits for the owner flip of this target (R152). M: the step has its result, and its exchange is under way. -/
  target : Option Nat := none
  deriving DecidableEq, Repr

/-- An engine queue of a context: words and points in order, and the counts of words queued, started and
finished since first dispatch (R346). -/
structure Queue where
  items    : List Item := []
  issued   : BitVec 32 := 0
  started  : BitVec 32 := 0
  finished : BitVec 32 := 0
  deriving DecidableEq, Repr

/-- Why a context's halt line is up (R345, R352, R358). -/
inductive HaltWhy where
  | fault | save (reason : BitVec 8) (forced waiting : Bool) (kind : BitVec 32) (pc : Word) (thr : BitVec 32) | debug
  deriving DecidableEq, Repr

/-- A raised halt line: its reason, `epc`, and the marked word (R344). -/
structure Halt where
  why    : HaltWhy
  epc    : Word
  mark   : Option (Eng × BitVec 32 × Word)
  deriving DecidableEq, Repr

/-- An EVWAIT that is held, registered at its counter: cluster, counter, threshold, and the value and stamp that
satisfied it (R206, R207). -/
structure EvReg where
  pcl  : Nat
  n    : Nat
  thr  : Word
  seen : Option (Word × Stamp) := none
  deriving DecidableEq, Repr

/-- What a context that issues no more waits for (R38, R197, R201). -/
inductive Drain where
  | none
  | exit
  /-- A YIELD that ends the saving state (R197). -/
  | yielded
  /-- SUSPEND: destination, wait cause, threshold, pc of the record (R201). -/
  | suspended (rd : Reg) (cause : BitVec 32) (thr : BitVec 32) (pc : Word)
  /-- A hardware save whose cut is made (R353): reason, forced, record state WAITING, wait cause, pc, threshold. -/
  | saving (reason : BitVec 8) (forced waiting : Bool) (kind : BitVec 32) (pc : Word) (thr : BitVec 32)
  /-- A dispatched HWSAVED record whose hardware restore is to come, with its wait cause (R355). -/
  | restoring (cause : BitVec 32)
  /-- The save area is written, as far as the writes have left the context; the write-back is to come, for a triple member that of all
  three (R189, R353, R354). -/
  | saved (forced waiting : Bool) (kind : BitVec 32) (pc : Word) (thr : BitVec 32)
  deriving DecidableEq, Repr

/-- The wait of a word that has issued and holds the next word (R203, R279). -/
inductive Hold where
  | none
  /-- BAR has arrived, and its arrival is not applied yet. -/
  | arriving
  /-- A blocking LAUNCH waits for the pool's reply (R212). -/
  | pool
  /-- BAR waits for this phase of a group to complete (R203). -/
  | phase (g : Nat) (ph : BitVec 32)
  /-- An ENG with the wait bit set waits for its command (R279). -/
  | command (id : Nat)
  deriving DecidableEq, Repr

/-- A hardware context (R8, and the registers of R193 to R196, R208, R229, R300, R347, R356). -/
structure Context where
  resident  : Bool := false
  part      : Nat := 0
  serial    : Nat := 0
  pc        : Word := 0
  regs      : Tbl Word := []
  masks     : Tbl Mask := []
  /-- Mask registers that hold poisoned data (R159). -/
  mbad      : BitVec 8 := 0
  win       : Tbl Gran := []
  banks     : Tbl Bank := []
  toks      : Tbl TokQ := []
  stat      : Word := 0x4
  estat     : Word := 0
  epc       : Word := 0
  ecause    : Word := 0
  etval     : Word := 0
  tvec      : Word := 0
  escratch  : Word := 0
  eissue    : Word := 0
  emark     : Word := 0
  strandid  : BitVec 24 := 0
  launchid  : BitVec 16 := 0
  grp       : BitVec 36 := 0
  age       : BitVec 32 := 0
  eff       : BitVec 3 := 0
  cycles    : Word := 0
  freezecyc : Word := 0
  waitcyc   : Word := 0
  vshape    : Word := 0xFFF
  fpctl     : Word := 0
  fpflags   : Word := 0
  tviews    : Tbl Word := []
  aviews    : Tbl Word := []
  wbase     : Nat := 0
  wsize     : Nat := 48
  slots     : BitVec 8 := 0xFF
  slotsNext : Option (BitVec 8) := none
  preq      : Bool := false
  pdeadline : BitVec 32 := 16384
  /-- The pre-emption countdown runs (R352). -/
  counting  : Bool := false
  yieldtab  : Word := 0
  savearea  : Word := 0
  evspin    : BitVec 32 := 4096
  resv      : Nat := 0
  rings     : Tbl Word := []
  /-- Entries of a triple's ring area are held with the loader's context; the flag says that there is one (R188). -/
  ringArea  : Bool := false
  dbgctl    : BitVec 3 := 0
  dwatch    : Tbl Word := []
  rdinv     : Bool := false
  obs       : Stamp := {}
  /-- What a FENCE at system scope has put before later writes to other modules (R258). -/
  sysfence  : Stamp := {}
  /-- Yield state 0 none, 1 saving, 2 restoring; recorded index and pc (R200). -/
  ystate    : Nat := 0
  yindex    : BitVec 16 := 0
  ypc       : Word := 0
  qv        : Queue := {}
  qm        : Queue := {}
  ql        : Queue := {}
  qe        : Queue := {}
  lane      : List Item := []
  /-- The queues are parked by a trap entry (R348). -/
  parked    : Bool := false
  halt      : Option Halt := none
  /-- Engine and sequence number of the marked word, while `emark.valid` (R344). -/
  marked    : Option (Eng × BitVec 32) := none
  debug     : Bool := false
  /-- Scalar registers that a reply from outside the queues has yet to write (R29). -/
  replies   : List Nat := []
  hold      : Hold := .none
  drain     : Drain := .none
  /-- Deliveries that the E port holds while the context is halted (R280): a token and its mark; a register and its value;
  the end of a wait, with its fault. -/
  heldPush  : List (Nat × Option Mark) := []
  heldReply : List (Nat × Word) := []
  heldWait  : List (Nat × Option Mark) := []
  evreg     : Option EvReg := none
  /-- Waits that are open, by the waiting unit (0 to 3 an engine, 4 the front end): kind and object (R359). -/
  waits     : Tbl (BitVec 8 × Word) := []
  role      : Nat := 0
  triple    : Bool := false
  depth     : Nat := 0
  text      : Word := 0
  recaddr   : Word := 0
  /-- When the strand was dispatched, among the cluster's dispatches (R352). -/
  since     : Nat := 0
  deriving DecidableEq, Repr

/-- What the three contexts of a sub-core share (R18, R34, R296, R300, R301). -/
structure SubCore where
  freezewd : BitVec 16 := 0x0800
  account  : Nat := 0
  refill   : Nat := 0
  drawn    : Nat := 0
  fixed    : Nat := 0
  /-- Contexts whose M head waits for leave, earliest first, and whether each has waited through a boundary
  (R297). -/
  waiters  : List (Nat × Bool) := []
  /-- The crossbar: V lost the last contest, so that V wins the next (R153). -/
  vlost    : Bool := false
  /-- Transfers of L since the permute word under way started that it can have contested, the oldest first: whether each was a near
  reply (R153). -/
  xlog     : List Bool := []
  /-- The triple's ring area of 12,288 bytes, and its poisoned granules (R188, R208, R245). -/
  ringMem  : List Host.Cell := []
  ringBad  : List Nat := []
  /-- The least length of the freeze under way: a zero fill makes it 16 cycles (R228). -/
  fill     : Nat := 0
  deriving DecidableEq, Repr

/-- State of a row group of Moss (R218). -/
structure RowGroup where
  cls    : BitVec 3 := 0
  age    : BitVec 8 := 0
  valid  : Bool := false
  owner  : Bool := false
  poison : Bool := false
  reqd   : Bool := false
  xtrap  : Bool := false
  evid   : BitVec 16 := 0x03FF
  limcls : BitVec 3 := 0
  alloc  : BitVec 12 := 0
  deriving DecidableEq, Repr

/-- An entry of the allocation table (R219). -/
structure AllocEntry where
  part   : Nat
  launch : Nat
  strand : Nat
  evid   : BitVec 16
  limcls : BitVec 3
  refs   : Nat
  deriving DecidableEq, Repr

/-- A rewrite that waits in a bank's queue (R217, R225, R236). -/
structure Rewrite where
  n       : Nat
  running : Bool := false
  /-- The context whose MREFRESH asked for it, or the engine command whose REFRESH did: cluster, engine, number. -/
  who     : Option CtxLoc := none
  eng     : Option (Nat × Nat × Nat) := none
  deriving DecidableEq, Repr

/-- An event counter (R206, R277) and its stamp unit (R252). -/
structure Counter where
  val   : Word := 0
  sat   : Bool := false
  err   : Bool := false
  stamp : Stamp := {}
  deriving DecidableEq, Repr

/-- A record in a ready queue (R190). The members of a triple travel under the loader's record. -/
structure Ready where
  part   : Nat
  launch : Nat
  strand : Nat
  addr   : Word
  prio   : BitVec 3
  age    : BitVec 32 := 0
  /-- The order in which records became ready. -/
  time   : Nat
  /-- A record written back by SUSPEND: its rd, and the counter whose value rd receives (R201). -/
  rd     : Option (Reg × Option (Nat × Nat)) := none
  deriving DecidableEq, Repr

/-- A write in the cluster write buffer (R250, R254). -/
structure Buffered where
  id     : Nat
  who    : CtxLoc
  seq    : BitVec 32
  part   : Nat
  pa     : Nat
  data   : List Byte
  bad    : Bool := false
  /-- It has drained, under this stamp (R250). -/
  stamp  : Option Stamp := none
  /-- The buffered writes that its writer had observed when it entered. -/
  seen   : List Nat := []
  /-- The contexts that observe it before it drains. -/
  seenBy : List CtxLoc := []
  deriving DecidableEq, Repr

/-- An atomic operation: its code (R46, 10 for compare-and-swap), width of 4 bytes or 8, operand, comparand. -/
structure Atom where
  op   : Nat
  word : Bool
  x    : Word
  cmp  : Word
  deriving DecidableEq, Repr

/-- The word that waits for a write or a reply under way. -/
inductive Origin where
  /-- A part of an L word of a context, by sequence number and place in the word; the write-buffer entry that it drained from. -/
  | lword (c : CtxLoc) (seq : BitVec 32) (part : Nat) (buf : Option Nat)
  /-- An engine command: cluster, engine, number; the block that a read asks for. -/
  | engine (pcl e num : Nat) (block : Option Nat)
  /-- The fetch of a shard from another module: partition, address of its table, shard (R417). -/
  | shard (p : Nat) (table : Word) (i : Nat)
  /-- A write of the hardware to a save area: context, its strand, address (R354). -/
  | save (c : CtxLoc) (serial va : Nat)
  deriving DecidableEq, Repr

/-- A stamped write under way to its home (R253). -/
structure Transit where
  who   : Origin
  die   : Nat
  stamp : Stamp
  pa    : Nat
  data  : List Byte
  bad   : Bool := false
  atom  : Option Atom := none
  /-- The write goes to another module, which applies it (R392). -/
  chip  : Option Nat := none
  deriving DecidableEq, Repr

/-- An EventAdd under way to its counter (R206), with its maker's name, stamp and error bit, and the die that stamped it,
where it was stamped (R252). -/
structure EvAdd where
  who   : Nat
  pcl   : Nat
  n     : Nat
  inc   : Word
  set   : Bool := false
  err   : Bool := false
  stamp : Stamp := {}
  die   : Option Nat := none
  deriving DecidableEq, Repr

/-- An arrival or a lowering of a member count under way to its group entry (R202, R204). -/
structure Arrival where
  part  : Nat
  pa    : Nat
  group : Nat
  launch : Nat
  lower : Bool
  who   : CtxLoc
  serial : Nat
  rd    : Option Reg
  bar   : Bool
  stamp : Stamp := {}
  deriving DecidableEq, Repr

/-- A condition that a WAITING record is registered under (R186, R187). -/
inductive Cond where
  | counter (pcl n : Nat) (thr : Word)
  | group (launch group : Nat) (ph : BitVec 20)
  | ring (pcl : Nat) (off : Nat) (full : Bool)
  | pool (depth : Nat)
  deriving DecidableEq, Repr

/-- A WAITING record (R187): the record, the cluster in which it suspended, its condition. -/
structure Waiter where
  part   : Nat
  launch : Nat
  strand : Nat
  addr   : Word
  pcl    : Nat
  saved  : Bool
  cond   : Cond
  rd     : Option (Reg × Option (Nat × Nat)) := none
  deriving DecidableEq, Repr

/-- What a COLL command has read of its descriptor (R401): id, time-out, participants (chip, cluster, parent) and its own
index; with its cluster, its number at the engine and its partition. -/
structure Coll where
  own   : Nat
  num   : Nat
  part  : Nat
  cid   : Nat
  tmo   : Nat
  parts : List (Nat × Nat × Nat)
  me    : Nat
  deriving DecidableEq, Repr

/-- Collective data that has come in (R403): id, sender, towards the root or not, and the bytes, each with the poison that it
came with. -/
structure CollMsg where
  cid    : Nat
  sender : Nat
  up     : Bool
  bytes  : List (Byte × Bool)
  deriving DecidableEq, Repr

/-- A command in an engine queue (R265 to R280). `id` is the sequence number of its ENG word in the E queue, `num` its
number at its engine (R361). -/
structure Cmd where
  id      : Nat
  num     : Nat
  who     : CtxLoc
  serial  : Nat
  part    : Nat
  launch  : Nat
  strand  : Nat
  fn      : BitVec 7
  wait    : Bool
  reply   : Bool
  rd      : Reg
  rs1     : Word
  rs2     : Word
  /-- The record's bytes as read at submission; none for a record-less function. -/
  bytes   : List Byte
  pc      : Word
  /-- The tiles: granules, and row groups with their clusters. -/
  grans   : List Nat
  rgs     : List (Nat × Nat)
  obs     : Stamp
  /-- A start attempt found no energy or no slot. -/
  waited  : Bool := false
  started : Bool := false
  /-- It holds a current slot, and the energy of the chunk at `pos` is drawn (R298). -/
  slot    : Bool := false
  drawn   : Bool := false
  /-- Next element or row group. -/
  pos     : Nat := 0
  done    : Bool := false
  moved   : Nat := 0
  status  : BitVec 8 := 0
  code    : BitVec 8 := 0
  poison  : Bool := false
  rdinv   : Bool := false
  /-- Old value or reply; in GATHER and SCATTER the index of the row under way. -/
  result  : Word := 0
  alloc   : Option Nat := none
  /-- The two waits have been satisfied, and a satisfying counter carried the error bit (R274, R277). -/
  met0    : Bool := false
  met1    : Bool := false
  bad     : Bool := false
  /-- Parts of another module's memory that are under way, and what reads of it have brought: chip, 256-byte block,
  bytes, poison of its 64-byte units. -/
  left    : Nat := 0
  far     : List (Nat × Nat × List Byte × BitVec 4) := []
  /-- Elements of the chunk that are read from device memory ahead of their writes: number, value, poison, stamp (R261). -/
  early   : List (Nat × Nat × Bool × Stamp) := []
  /-- Writes to another module that the chunk has still to send: chip, address, bytes, poison of their flits. -/
  out     : List (Nat × Nat × List Byte × BitVec 4) := []
  /-- Bytes written of each destination unit that is begun, and the units into which poison was carried (R245). -/
  cover   : Tbl (BitVec 256) := []
  dirty   : List Nat := []
  /-- COLL: descriptor, stage, the values to write. -/
  coll    : Option Coll := none
  stage   : Nat := 0
  vals    : List Word := []
  valsBad : List Nat := []
  /-- WSWAP: group number and recorded phase (R289). -/
  group   : Nat := 0
  phase   : BitVec 32 := 0
  /-- Token watch: granules to write, notify signals, and the fault of a STOP (R313, R330, R333). -/
  gwrites : List (Nat × GranData) := []
  notes   : List Nat := []
  stop    : Option Word := none
  deriving DecidableEq, Repr

/-- A monitor (R363). -/
structure Mon where
  cfg   : Word := 0
  count : Word := 0
  sum   : Word := 0
  min   : BitVec 32 := 0
  max   : BitVec 32 := 0
  bins  : Tbl (BitVec 32) := []
  deriving DecidableEq, Repr

/-- An entry of the wait log (R359). -/
structure WaitEntry where
  loc   : Word
  kind  : BitVec 8
  ended : BitVec 8
  strand : BitVec 32
  obj   : Word
  cyc   : BitVec 32
  seq   : BitVec 32
  ender : BitVec 16
  eseq  : BitVec 32
  deriving DecidableEq, Repr

/-- A watch entry (R315). -/
structure TwEntry where
  len    : Nat
  wild   : BitVec 8
  action : Nat
  trig   : Bool
  budget : Nat
  count  : Nat
  pat    : List (BitVec 32)
  inject : List (BitVec 32)
  notify : Word
  deriving DecidableEq, Repr

/-- A budget counter (R317). -/
structure Budget where
  n  : BitVec 32 := 0
  on : Bool := false
  deriving DecidableEq, Repr

/-- A sequence slot of the token watch unit (R309); `pos` is conf plus the number of drafts. `hist` holds the confirmed tokens that are held, the newest
first; `drafts` the drafts from position conf up, with their pending masks. -/
structure TwSlot where
  state    : Nat := 0
  conf     : BitVec 32 := 0
  hist     : List (BitVec 32) := []
  drafts   : List (BitVec 32 × BitVec 16) := []
  entries  : Tbl TwEntry := []
  budgets  : Tbl Budget := []
  notify   : Word := 0
  hitmask  : BitVec 16 := 0
  skip     : BitVec 32 := 0
  stoppos  : BitVec 32 := 0
  forklost : BitVec 32 := 0
  forkLo   : Nat := 0
  forkHi   : Nat := 0
  ringOn   : Bool := false
  ringOff  : Nat := 0
  ringCap  : Nat := 0
  event    : BitVec 32 := 0
  deriving DecidableEq, Repr

/-- A cluster (R216 to R231, R250, R265, R292 to R305, R359 to R365, R425). -/
structure Cluster where
  moss      : List Host.Cell := []
  mstamps   : Tbl Stamp := []
  rgs       : Tbl RowGroup := []
  alloc     : Tbl AllocEntry := []
  rewrites  : List Rewrite := []
  counters  : Tbl Counter := []
  ready     : List Ready := []
  dispatches : Nat := 0
  engines   : Tbl (List Cmd) := []
  tw        : Tbl TwSlot := []
  /-- Commands that each engine has taken. -/
  engNum    : Tbl Nat := []
  /-- Engines under reset, whose commands have still to complete (R381). -/
  resetting : List Nat := []
  /-- Collective data that no command has used yet; the ids whose abort has come, with a mark for one that a command has met: the abort
  table holds those without the mark (R403, R404). -/
  inbox     : List CollMsg := []
  aborted   : List (Nat × Bool) := []
  wbuf      : List Buffered := []
  band      : BitVec 3 := 0
  temp      : BitVec 8 := 40
  /-- The band table in force since the last tick, where it was written (R222). -/
  limits    : Tbl Word := []
  /-- The power controller's grant, the grant and eighths in force, and those written for the next boundary. -/
  granted   : Nat := Config.grantTdp
  grant     : Nat := Config.grantTdp
  eng       : Nat := 1
  grantNext : Nat := Config.grantTdp
  engNext   : Nat := 1
  leaveslot : Word := 0x08102040_6080FF
  slotsHeld : Tbl Nat := []
  /-- The last winner of a contest for slots: a sub-core, or 128 and the engine (R295). -/
  lastWin   : Nat := 0
  /-- What is left of the engine pool, and the deficit (R298, R299). -/
  pool      : Nat := Config.grantTdp / 8
  deficit   : Nat := 0
  droopctl  : Word := 0x0028_0040
  droop     : Bool := false
  /-- More than one droop event fell into the droop freeze under way (R305). -/
  droopAgain : Bool := false
  biasman   : Bool := false
  biascode  : BitVec 4 := Config.biasFirst
  mons      : Tbl Mon := []
  monsnap   : Word := 0
  /-- The monitors' data that a running snapshot writes. -/
  snap      : Tbl Mon := []
  waitlog   : List WaitEntry := []
  /-- Physical address and entries of the wait-log ring. -/
  waitbase  : Nat := 0
  waitcap   : Nat := 0
  waitlost  : Nat := 0
  /-- The sub-core that last won a contest at a bank of Moss (R217). -/
  lastBank  : Tbl Nat := []
  /-- The one pre-emption request of the scheduler that is outstanding (R352). -/
  preempting : Option Nat := none
  deriving DecidableEq, Repr

/-- A launch request under way to the pool (R211). -/
structure LaunchReq where
  who    : CtxLoc
  serial : Nat
  part   : Nat
  rd     : Reg
  addr   : Word
  block  : Bool
  pc     : Word
  obs    : Stamp
  /-- Launch depth of the parent. -/
  depth  : Nat
  /-- The pool has found itself full for it, and the request waits for its parent. -/
  met    : Bool := false
  deriving DecidableEq, Repr

/-- A pending expiry: the allocator, the row group and its cluster (R231). -/
structure Expiry where
  launch : Nat
  strand : Nat
  n      : Nat
  pcl    : Nat
  deriving DecidableEq, Repr

/-- A host launch queue (R409). -/
structure HostQ where
  ring   : Word
  cap    : Nat
  mail   : Word
  head   : Word
  comp   : Word
  /-- Queue pair, remote key and host address of the notify target. -/
  notify : Option (Nat × BitVec 32 × Word)
  t      : BitVec 32 := 0
  h      : BitVec 32 := 0
  hc     : BitVec 32 := 0
  tc     : BitVec 32 := 0
  deriving DecidableEq, Repr

/-- A shard's fetch in flight (R417, R418): the bytes asked for and what has come from another module, by its address there; the
destination lines that are begun, with the bytes written of each, and those that poison came into; the retransmissions of its RDMA READ;
and the reason for which it has failed. -/
structure Fetch where
  shard  : Nat
  asked  : Nat := 0
  got    : List (Nat × List (Byte × Bool)) := []
  cover  : Tbl (BitVec 64) := []
  bad    : List Nat := []
  tries  : Nat := 0
  failed : Option (BitVec 8) := none
  deriving DecidableEq, Repr

/-- An armed weight-set table: its address, and the shards whose fetch is in flight (R415, R417). -/
structure Armed where
  addr    : Word
  fetches : List Fetch := []
  deriving DecidableEq, Repr

/-- Replay capture of a partition (R362): its buffer, what it has recorded, and what a replay has still to see. -/
structure Capture where
  on     : Bool := false
  buffer : Nat := 0
  log    : List (Nat × Nat × Nat) := []
  /-- A replay: the recorded actions that are still to come. -/
  replay : Option (List (Nat × Nat × Nat)) := none
  /-- A replay has diverged and every context of the partition is stopped. -/
  diverged : Bool := false
  deriving DecidableEq, Repr

/-- A partition (R376). -/
structure Partition where
  formed   : Bool := false
  clusters : BitVec 40 := 0
  root     : Nat := 0
  /-- Pages of 64 KiB that are assigned, by page number. -/
  pages    : List Nat := []
  tvec     : Word := 0
  expert   : Bool := false
  /-- Band registers that were written (R222). -/
  mosslim  : Tbl Word := []
  launches : Tbl Launch := []
  expiries : List Expiry := []
  queues   : Tbl HostQ := []
  armed    : List Armed := []
  /-- Address of the weight-set mailbox (R415). -/
  wmail    : Word := 0
  floor    : Nat := 0
  fchg     : Bool := false
  pwrevt   : BitVec 16 := 0x03FF
  capture  : Capture := {}
  /-- Queue pairs and remote keys that are assigned: port, queue pair and path MTU; key, first page and pages (R407). -/
  qps      : List (Nat × Nat × Nat) := []
  keys     : List (Nat × Nat × Nat) := []
  /-- The launch queue from which the rotation of the hub goes on (R411). -/
  turn     : Nat := 0
  /-- Its share of the Stavlos ports, and its numbers of the identity table (R376). -/
  ports    : List Nat := []
  ids      : List Nat := []
  /-- WSWAP decisions that hold a group's phase: group entry address and phase (R289). -/
  swaps    : List (Nat × BitVec 32) := []
  deriving DecidableEq, Repr

/-- A transaction in a replay or reorder buffer (R392, R393): its kind and its header. -/
structure Txn where
  kind  : Nat
  f     : Flit
  /-- The access of this module that waits for its reply. -/
  who   : Option Origin := none
  sent  : Bool := true
  deriving DecidableEq, Repr

/-- The counters and buffers of a pair of modules (R392 to R395), seen from this module; `told` is the acknowledgment that it has sent
last. -/
structure Pair where
  send     : BitVec 32 := 0
  applied  : BitVec 32 := 0
  released : BitVec 32 := 0
  told     : BitVec 32 := 0
  replay   : List Txn := []
  reorder  : List Txn := []
  /-- Requests of this module whose replies are to come, oldest first. -/
  waiting  : List Txn := []
  deriving DecidableEq, Repr

/-- A Stavlos link (R405, R406): up, in training, the consecutive retries of one flit that have failed, and the failed retrainings.
`buf` is the retry buffer: the last 256 flits sent on it, each with its poison bit. -/
structure Link where
  up       : Bool := false
  training : Bool := false
  retries  : Nat := 0
  fails    : Nat := 0
  buf      : List (List Byte × Bool) := []
  deriving DecidableEq, Repr

/-- The Stavlos router and the fabric's bookkeeping (R389 to R406). -/
structure Fabric where
  chip    : Nat := 0
  gen     : BitVec 8 := 0
  ids     : Tbl IdEntry := []
  /-- By own number and other number, own × 4096 + other. -/
  pairs   : Tbl Pair := []
  /-- Replies and aborts that wait for room in the replay buffer: own number, other number, kind, header (R392, R393). -/
  later   : List (Nat × Nat × Nat × Flit) := []
  /-- The retransmit interval in microseconds (R393). -/
  interval : Nat := 50
  links   : Tbl Link := []
  /-- The last checkpoint of this module (R395). -/
  image   : Option Image := none
  dropped : Nat := 0
  crc     : Nat := 0
  deriving DecidableEq, Repr

/-- The Ethernet ports (R407): up, discarded packets, refused accesses, and what was sent to the host. -/
structure Ethernet where
  down0   : Bool := true
  down1   : Bool := true
  discards : Nat := 0
  naks    : Nat := 0
  /-- NAKs sent: port, queue pair, and whether it says invalid request or remote access; those for a packet out of sequence. -/
  nakd    : List (Nat × Nat × Bool) := []
  seqNaks : List (Nat × Nat) := []
  /-- RDMA READs that the device has sent for shards: port, queue pair, remote key, host address, bytes (R417). -/
  reads   : List (Nat × Nat × Nat × Nat × Nat) := []
  /-- Completion entries sent to a notify target: port, queue pair, remote key, host address, bytes (R413). -/
  notes   : List (Nat × Nat × BitVec 32 × Word × List Byte) := []
  /-- RDMA READ responses sent: destination (port, queue pair) and bytes. -/
  sent    : List (Nat × Nat × List Byte) := []
  deriving DecidableEq, Repr

/-- The management controller (R376, R387, R420 to R431). -/
structure Manager where
  /-- The part's idle floor in watts, which the controller reports (R1, R420). -/
  idle     : Nat := Config.idleFloor
  cap      : Nat := Config.tdp
  clamped  : Bool := false
  /-- The measured mean that corrects the grants, while it does (R422). -/
  excess   : Option Nat := none
  /-- The status of the last cap request: 0 to 3 (R420). -/
  capReply : Nat := 0
  /-- The module has tripped (R428). -/
  tripped  : Bool := false
  /-- Stages of boot that have passed (R429). -/
  stage    : Nat := 5
  /-- Boot ended in a halt that only the recovery command ends (R429, stage 2). -/
  halted   : Bool := false
  bootFail : Bool := false
  /-- The fused rollback counter, the security version of the image that runs, and the boot log: the digests of the images that were
  measured, in order (R429, R430). -/
  rollback : BitVec 32 := 0
  version  : BitVec 32 := 0
  bootLog  : List (BitVec 384) := []
  /-- Links and memory stacks that stage 5 has found faulty (R429). -/
  badLinks : List Nat := []
  badHbms  : List Nat := []
  /-- Components that stay unpowered: the place of their image among those of stage 4 (R429). -/
  dead     : List Nat := []
  /-- Reports signed under the present device key, key generation, and the reports returned, with their signatures (R431). -/
  signed   : Nat := 0
  keygen   : Nat := 0
  reports  : List (List Byte) := []
  /-- Corrected single-bit errors, refetched instruction lines and replayed timing errors (R387). -/
  corrected : Nat := 0
  refetched : Nat := 0
  replayed : Nat := 0
  /-- Error log: class, unit and partition (R387). -/
  log      : List (Nat × Nat × Nat) := []
  /-- The stored configuration of partitions (R429), and the pages taken from a partition and not scrubbed since (R244). -/
  stored   : Tbl Form := []
  dirty    : List Nat := []
  /-- Contexts reported as halted for debugging (R358). -/
  told     : List Nat := []
  deriving DecidableEq, Repr

/-- A 64-byte line that the instruction cache of a core holds for a launch (R40, R42). -/
structure ILine where
  core   : Nat
  part   : Nat
  launch : Nat
  line   : Nat
  bytes  : List Byte
  deriving DecidableEq, Repr

/-- What a storage error can touch (R245, R387): a row group of Moss, a granule, a granule of a triple's ring area, a line of device memory, a buffered write, a write under
way between dies, a held instruction line. -/
inductive EccUnit where
  | moss (pcl n : Nat)
  | gran (c : CtxLoc) (g : Nat)
  | ring (pcl sub g : Nat)
  | line (u : Nat)
  | buffered (pcl k : Nat)
  | bridge (k : Nat)
  | icache (k : Nat)
  deriving DecidableEq, Repr

/-- What happens next, where the schedule is given: an event of some agent, or the issue of the next word of a
context (log 2). -/
inductive Move where
  | event (i : Instr)
  | issue (c : CtxLoc)
  /-- L: the next part of a started word is requested, its near reply late or not; a part that waits is sent; a returned part of a
  vector load is written (R32, R104, R160). -/
  | goOnL (c : CtxLoc) (k : Nat) (late : Bool)
  | sendL (c : CtxLoc) (k p : Nat)
  | writeQuarter (c : CtxLoc) (k : Nat)
  /-- V: a started word reads its next row, after contesting the crossbar cycles of L's transfers, which the bits of a number pick; its
  earliest write is made, or one quarter of it (R32, R125, R153). -/
  | goOnV (c : CtxLoc) (picks : Nat)
  | writeV (c : CtxLoc)
  | writeVQuarter (c : CtxLoc) (q : Nat)
  /-- M: a started word makes its next cycle (R167, R175). -/
  | goOnM (c : CtxLoc) (k : Nat)
  /-- The save area of a context that is being saved begins to leave it (R353). -/
  | beginStream (c : CtxLoc)
  /-- The controller writes bytes of a halted context's state, in the layout of R354 (R358). -/
  | debugWrite (c : CtxLoc) (off : Nat) (bs : List Byte)
  /-- One element of a chunk; an element of it is read ahead of its write (R261, R275). -/
  | chunkElem (pcl : Nat) (e : CEng)
  | chunkRead (pcl : Nat) (e : CEng) (k : Nat)
  /-- Near accesses of several sub-cores ask for one bank in one cycle: context, L item and part of each, and the length of the freeze that
  the winner's reply ends, if it was overdue (R217). -/
  | contestBank (pcl bank : Nat) (reqs : List (CtxLoc × Nat × Nat)) (cycles : Nat)
  /-- The home of a 64-byte unit begins to fail the hardware's accesses, or is mended (R412, R434). -/
  | homeFails (u : Nat) (on : Bool)
  /-- Several requesters ask for current slots, or for the engine pool, in one cycle: sub-cores, and engines as 128 and their number
  (R295, R298). -/
  | contestSlots (pcl : Nat) (reqs : List Nat)
  /-- An error of storage, corrected or not (R245, R387). -/
  | ecc (u : EccUnit) (fixed : Bool)
  /-- An acknowledgment-only flit is sent to a module; the retransmit interval is set; the retraining of a link fails; the flit for which a
  link waits gets through (R393, R405, R406). -/
  | sendAck (own n : Nat)
  | setInterval (us : Nat)
  | retrainFails (l : Nat)
  | flitPasses (l : Nat)
  /-- A shard's fetch asks for its next bytes; some of its bytes are written; its RDMA READ is answered neither by data nor by a NAK, or by
  a NAK, which is one of sequence or one that refuses it (R407, R417). -/
  | shardAsk (p t i : Nat)
  | shardBytes (p t i off : Nat) (bs : List Byte)
  | readTimeout (p t i : Nat)
  | readNak (p t i : Nat) (refused : Bool)
  /-- A packet out of sequence comes in on a queue pair; the controller sees what a strand or an engine has written to the weight-set
  mailbox (R407, R415). -/
  | packetGap (port qp : Nat)
  | mailboxSeen
  deriving DecidableEq, Repr

/-- The machine: one module. -/
structure State where
  /-- The context whose word issues next, and its state; the states of the other contexts. -/
  focus   : CtxLoc := ⟨0, 0, 0⟩
  cx      : Context := {}
  others  : Tbl Context := []
  subs    : Tbl SubCore := []
  clus    : Tbl Cluster := []
  parts   : Tbl Partition := []
  /-- Device memory by physical address (R239). -/
  mem     : List Host.Cell := []
  /-- Numbers of the poisoned 64-byte lines of device memory (R245). -/
  poison  : List Nat := []
  /-- The 64-byte units of device memory whose home fails the hardware's accesses (R412, R434). -/
  failing : List Nat := []
  /-- What strands and engines have written to a weight-set mailbox and the controller has still to see: partition, address (R415). -/
  rung    : List (Nat × Word) := []
  /-- What one vector-store row has written so far of a line of device memory that is poisoned: line, row (writer, strand, word, row), bytes
  (R245). -/
  covers  : List (Nat × (Nat × Nat × Nat × Nat) × BitVec 64) := []
  /-- Stored stamps of the 64-byte units of device memory (R252). -/
  stamps  : Tbl Stamp := []
  /-- Stored stamps of the 64-byte units of other modules' memory, by chip and address (R252). -/
  farStamps : Tbl Stamp := []
  /-- Die clocks (R252). -/
  clocks  : Tbl Stamp := []
  transit : List Transit := []
  adds    : List EvAdd := []
  arrivals : List Arrival := []
  launching : List LaunchReq := []
  waiters : List Waiter := []
  /-- Migration commands of the balancer under way: source, destination, count (R192). -/
  migrations : List (Nat × Nat × Nat) := []
  icache  : List ILine := []
  /-- Translations that a cluster holds: cluster, partition, first address, size, entry (R242). -/
  tlb     : List (Nat × Nat × Nat × Nat × Word) := []
  fabric  : Fabric := {}
  eth     : Ethernet := {}
  mgr     : Manager := {}
  /-- The schedule (log 2), empty where the machine's own order is to be taken. -/
  agenda  : List Move := []
  /-- The counter behind the free values (log 6). -/
  free    : Nat := 0
  /-- The counter that numbers commands, buffered writes and dispatches. -/
  uid     : Nat := 1
  deriving DecidableEq, Repr

/-- Why the machine stops. -/
inductive Fault where
  /-- Raised by an event that names a cluster, context, engine, partition, link, port or dispatch entry that the part
  does not have (R375). Safe: no such object exists. -/
  | noSuchObject (what : String)
  deriving DecidableEq, Repr

/-- Why an instruction is refused. -/
inductive Refusal where
  /-- Raised by the dispatcher for an instruction that has no meaning yet. Safe: the model stops. -/
  | notModelled (mnemonic : String)
  deriving DecidableEq, Repr

/-- The machine after reset: boot has passed stage 5 (R429), so device memory is scrubbed, no partition is formed
and no strand runs (log 4); registers without a stated reset value hold what log 5 names. -/
def State.reset : State := {}

end Sys2Proof.Machine
end

