-- ==== Sys2Proof/Machine/Table.lean ====
section
/-!
DEFINITION. Tables and memories: one reading and one writing operation for every table of the state, which keep
the canonical form (rising numbers, no entry equal to the default), and little-endian bytes (R2).
-/
namespace Sys2Proof.Machine

/-- The entry of number `k`, or the default. -/
def tget {α : Type} : Tbl α → Nat → α → α
  | [], _, d => d
  | (j, v) :: r, k, d => if k = j then v else tget r k d

/-- The table with entry `k` set to `v`; an entry equal to the default is not listed. -/
def tset {α : Type} [DecidableEq α] : Tbl α → Nat → α → α → Tbl α
  | [], k, v, d => if v = d then [] else [(k, v)]
  | (j, w) :: r, k, v, d =>
    if k < j then (if v = d then (j, w) :: r else (k, v) :: (j, w) :: r)
    else if k = j then (if v = d then r else (k, v) :: r)
    else (j, w) :: tset r k v d

/-- The entry of number `k` in a table without a default. -/
def tfind {α : Type} : Tbl α → Nat → Option α
  | [], _ => none
  | (j, v) :: r, k => if k = j then some v else tfind r k

/-- The table with entry `k` present and equal to `v`. -/
def tput {α : Type} : Tbl α → Nat → α → Tbl α
  | [], k, v => [(k, v)]
  | (j, w) :: r, k, v =>
    if k < j then (k, v) :: (j, w) :: r else if k = j then (k, v) :: r else (j, w) :: tput r k v

/-- The table without entry `k`. -/
def tdel {α : Type} (t : Tbl α) (k : Nat) : Tbl α := t.filter fun e => e.1 != k

/-- The lowest number from `k` up, among `fuel` numbers, that the table does not list. -/
def tfree {α : Type} (t : Tbl α) : Nat → Nat → Option Nat
  | _, 0 => none
  | k, n + 1 => if (tfind t k).isNone then some k else tfree t (k + 1) n

/-- Canonical form: rising numbers above `lo`. -/
def risingFrom {α : Type} : Option Nat → Tbl α → Bool
  | _, [] => true
  | none, (j, _) :: r => risingFrom (some j) r
  | some i, (j, _) :: r => i < j && risingFrom (some j) r

/-- Canonical form of a table with a default. -/
def twf {α : Type} [DecidableEq α] (t : Tbl α) (d : α) : Bool := risingFrom none t && t.all fun e => e.2 != d

/-- Canonical form of a memory: no listed byte is zero (R244, R218). -/
def Memory.wf (m : List Host.Cell) : Bool := twf m 0

/-- The `n` bytes from address `a` up; an unlisted byte is zero. -/
def loadBytes (m : List Host.Cell) (a : Nat) : Nat → List Byte
  | 0 => []
  | n + 1 => tget m a 0 :: loadBytes m (a + 1) n

/-- The memory with bytes written from address `a` up. -/
def storeBytes (m : List Host.Cell) (a : Nat) : List Byte → List Host.Cell
  | [] => m
  | b :: r => storeBytes (tset m a b 0) (a + 1) r

/-- The memory with the `n` bytes from `a` up zero. -/
def zeroBytes (m : List Host.Cell) (a n : Nat) : List Host.Cell := m.filter fun e => e.1 < a || a + n ≤ e.1

/-- The number that little-endian bytes hold (R2). -/
def leNat : List Byte → Nat
  | [] => 0
  | b :: r => b.toNat + 256 * leNat r

/-- The low `n` bytes of a number, little-endian (R2). -/
def toLE : Nat → Nat → List Byte
  | 0, _ => []
  | n + 1, v => BitVec.ofNat 8 v :: toLE n (v / 256)

/-- A number read from `n` bytes at `a`. -/
def loadNat (m : List Host.Cell) (a n : Nat) : Nat := leNat (loadBytes m a n)

/-- Bytes `o` to `o + n - 1` of a list of bytes, as a number. -/
def fieldAt (bs : List Byte) (o n : Nat) : Nat := leNat ((bs.drop o).take n)

/-- The bits `lo` to `lo + n - 1` of a bit vector, as a number. -/
def getAt {w : Nat} (d : BitVec w) (lo n : Nat) : Nat := (d >>> lo).toNat % 2 ^ n

/-- The bit vector with bits `lo` to `lo + n - 1` replaced. -/
def putAt {w : Nat} (d : BitVec w) (lo n v : Nat) : BitVec w :=
  (d &&& ~~~ BitVec.ofNat w ((2 ^ n - 1) <<< lo)) ||| BitVec.ofNat w ((v % 2 ^ n) <<< lo)

/-- The 256 bytes of a granule. -/
def granBytes (d : GranData) : List Byte := toLE 256 d.toNat

/-- Sign extension of the low `n` bits of a number to 64 bits. -/
def sextNat (n v : Nat) : Word :=
  let x := v % 2 ^ n
  if n = 0 then 0 else if x < 2 ^ (n - 1) then BitVec.ofNat 64 x else BitVec.ofInt 64 ((x : Int) - 2 ^ n)

/-- Splits bytes at the 64-byte lines of the address `a`. -/
def lines : Nat → Nat → List Byte → List (Nat × List Byte)
  | 0, _, _ => []
  | fuel + 1, a, bs =>
    if bs.isEmpty then []
    else
      let k := 64 - a % 64
      (a, bs.take k) :: lines fuel (a + k) (bs.drop k)

/-- The list with element `k` replaced. -/
def setNth {α : Type} : List α → Nat → α → List α
  | [], _, _ => []
  | _ :: r, 0, x => x :: r
  | y :: r, k + 1, x => y :: setNth r k x

/-- The list without element `k`. -/
def dropNth {α : Type} : List α → Nat → List α
  | [], _ => []
  | _ :: r, 0 => r
  | y :: r, k + 1 => y :: dropNth r k

end Sys2Proof.Machine
end

