-- ==== Sys2Proof/Machine/Flags.lean ====
section
/-!
DEFINITION. Number formats, the one rounding procedure, generated NaNs and flag computation (R66 to R89). Values are
exact: a sign, a natural number and a power of two, with a sticky bit for a value that lies strictly above it.
-/
namespace Sys2Proof.Machine

/-- The bits of `fpflags` (R82). -/
abbrev Flags := BitVec 16
def fNX : Flags := 0x0001
def fUF : Flags := 0x0002
def fOF : Flags := 0x0004
def fDZ : Flags := 0x0008
def fNV : Flags := 0x0010
def fNI : Flags := 0x0020
def fNS : Flags := 0x0040
def fQR : Flags := 0x0080
def fSAT : Flags := 0x0100
/-- `fpflags.ncause` bit of a cause (R82). -/
def fCause (c : Nat) : Flags := BitVec.ofNat 16 (2 ^ (9 + c))

/-- An exact value: `±(n + t)·2^e` with `0 < t < 1` when sticky and `t = 0` otherwise; an infinity; a NaN. -/
inductive Num where
  | fin (neg : Bool) (n : Nat) (e : Int) (sticky : Bool)
  | inf (neg : Bool)
  | nan
  deriving DecidableEq, Repr

/-- Rounding modes of R74; the stochastic mode brings its random value and width (R75). -/
inductive RMode where
  | rne | rtz | rup | rdn
  | sr (r w : Nat)
  deriving DecidableEq, Repr

/-- `fpctl.rm` as a mode (R81). -/
def rmOf (fpctl : Word) : RMode :=
  match bitsOf fpctl 0 2 with
  | 0 => .rne | 1 => .rtz | 2 => .rup | _ => .rdn

/-- Trailing mantissa bits, exponent bits and bias (R68). -/
def mantBits : Fmt → Nat
  | .fp32 => 23 | .fp16 => 10 | .bf16 => 7 | .e4m3 => 3 | _ => 2
def expoBits : Fmt → Nat
  | .fp32 | .bf16 => 8 | .e4m3 => 4 | _ => 5
def biasOf : Fmt → Nat
  | .fp32 | .bf16 => 127 | .e4m3 => 7 | _ => 15

/-- Encoding of the largest finite magnitude (R68, R69). -/
def maxBitsOf : Fmt → Nat
  | .e4m3 => 0x7E
  | f => (2 ^ expoBits f - 1) * 2 ^ mantBits f - 1

/-- The sign bit of a format as a number. -/
def signBit (f : Fmt) (neg : Bool) : Nat := if neg then 2 ^ (f.bits - 1) else 0

/-- The value of a floating-point element (R68, R69). -/
def decodeFp (f : Fmt) (bits : Nat) : Num :=
  let m := bits % 2 ^ mantBits f
  let x := bits / 2 ^ mantBits f % 2 ^ expoBits f
  let neg := bits / 2 ^ (f.bits - 1) % 2 = 1
  if x = 2 ^ expoBits f - 1 && f != .e4m3 then (if m = 0 then .inf neg else .nan)
  else if f = .e4m3 && x = 15 && m = 7 then .nan
  else if x = 0 then .fin neg m (1 - (biasOf f : Int) - mantBits f) false
  else .fin neg (2 ^ mantBits f + m) ((x : Int) - biasOf f - mantBits f) false

/-- The generated NaN of a cause and the flags that record it (R79). -/
def genNaN (f : Fmt) (cause : Nat) : Nat × Flags :=
  match f with
  | .fp32 => (0x7FC00000 + cause, 0)
  | .fp16 => (0x7E00 + cause, 0)
  | .bf16 => (0x7FC0 + cause, 0)
  | .e5m2 => (0x7E, fCause cause)
  | _ => (0x7F, fCause cause)

/-- Whether a magnitude with quotient `k`, remainder `r` of `2^d` and sticky bit goes to the neighbour away from zero
(R74, R75). -/
def goesAway (mode : RMode) (neg : Bool) (k r d : Nat) (sticky : Bool) : Bool :=
  match mode with
  | .rne => 2 ^ d < 2 * r || (2 * r = 2 ^ d && (sticky || k % 2 = 1))
  | .rtz => false
  | .rup => !neg
  | .rdn => neg
  | .sr v w => v < r * 2 ^ w / 2 ^ d

/-- Result of an infinity in a format (R76, R80). -/
def infResult (f : Fmt) (sat neg : Bool) : Nat × Flags :=
  if sat then (signBit f neg + maxBitsOf f, fSAT)
  else if f = .e4m3 then let (b, g) := genNaN f 5; (b, g ||| fNV)
  else (signBit f neg + (2 ^ expoBits f - 1) * 2 ^ mantBits f, 0)

/-- Result of an overflow (R76). -/
def overflow (f : Fmt) (mode : RMode) (sat neg : Bool) : Nat × Flags :=
  let inf := signBit f neg + (2 ^ expoBits f - 1) * 2 ^ mantBits f
  let top := signBit f neg + maxBitsOf f
  if sat then (top, fOF ||| fNX ||| fSAT)
  else if f = .e4m3 then (top, fOF ||| fNX)
  else
    (match mode with
      | .rne | .sr _ _ => inf
      | .rtz => top
      | .rup => if neg then top else inf
      | .rdn => if neg then inf else top, fOF ||| fNX)

/-- Round of R74 to R76 for a finite or infinite value: the element's bits and its flags. A NaN gives the generated
NaN of cause 1. -/
def roundTo (f : Fmt) (mode : RMode) (sat : Bool) : Num → Nat × Flags
  | .nan => genNaN f 1
  | .inf neg => infResult f sat neg
  | .fin neg n e sticky =>
    if n = 0 && !sticky then (signBit f neg, 0)
    else
      let emin : Int := 1 - (biasOf f : Int)
      let lead : Int := (Nat.log2 n : Int) + e
      let q : Int := max lead emin - mantBits f
      let d := (q - e).toNat
      let n' := n * 2 ^ (e - q).toNat
      let k := n' / 2 ^ d
      let r := n' % 2 ^ d
      let inexact := r != 0 || sticky
      let k' := if inexact && goesAway mode neg k r d sticky then k + 1 else k
      let bits : Int := (q + mantBits f + biasOf f - 1) * 2 ^ mantBits f + k'
      let uf : Flags := if lead < emin && inexact then fUF else 0
      if (maxBitsOf f : Int) < bits then overflow f mode sat neg
      else (signBit f neg + bits.toNat, (if inexact then fNX else 0) ||| uf)

/-- Whether a value is NaN, zero, below zero. -/
def Num.isNan : Num → Bool
  | .nan => true
  | _ => false
def Num.isZero : Num → Bool
  | .fin _ 0 _ false => true
  | _ => false
def Num.neg? : Num → Bool
  | .fin g _ _ _ => g
  | .inf g => g
  | .nan => false
def Num.negate : Num → Num
  | .fin g n e t => .fin (!g) n e t
  | .inf g => .inf (!g)
  | .nan => .nan

/-- A finite value scaled to an integer at exponent `e`, which is not above its own. -/
def scaled (g : Bool) (n : Nat) (x e : Int) : Int :=
  let v : Int := n * 2 ^ (x - e).toNat
  if g then -v else v

/-- The exact sum of two finite values; an exact zero is +0, or −0 under RDN, or keeps the sign that both have
(R74, R68). -/
def addFin (mode : RMode) (g : Bool) (n : Nat) (x : Int) (h : Bool) (m : Nat) (y : Int) : Num :=
  let e := min x y
  let v := scaled g n x e + scaled h m y e
  if v = 0 then .fin (if n = 0 && m = 0 && g = h then g else decide (mode = .rdn)) 0 0 false
  else .fin (v < 0) v.natAbs e false

/-- The exact product of two values; NaN for 0 × ∞ and NaN operands. -/
def mulNum : Num → Num → Num
  | .nan, _ | _, .nan => .nan
  | .inf g, .inf h => .inf (g != h)
  | .inf g, .fin h m _ _ | .fin h m _ _, .inf g => if m = 0 then .nan else .inf (g != h)
  | .fin g n x _, .fin h m y _ => .fin (g != h) (n * m) (x + y) false

/-- A result that is a NaN of a cause (R79, R80). -/
def nanOut (f : Fmt) (cause : Nat) (fl : Flags) : Nat × Flags :=
  let (b, g) := genNaN f cause
  (b, g ||| fl)

/-- Round of the sum of two values that are not NaN, with cause 3 for opposite infinities. -/
def sumNum (f : Fmt) (mode : RMode) (sat : Bool) : Num → Num → Nat × Flags
  | .inf g, .inf h => if g = h then infResult f sat g else nanOut f 3 fNV
  | .inf g, _ | _, .inf g => infResult f sat g
  | .fin g n x _, .fin h m y _ => roundTo f mode sat (addFin mode g n x h m y)
  | _, _ => nanOut f 1 fNI

/-- Addition (R74, R80). -/
def fpAdd (f : Fmt) (mode : RMode) (sat : Bool) (a b : Nat) : Nat × Flags :=
  let x := decodeFp f a
  let y := decodeFp f b
  if x.isNan || y.isNan then nanOut f 1 fNI else sumNum f mode sat x y

/-- Subtraction. -/
def fpSub (f : Fmt) (mode : RMode) (sat : Bool) (a b : Nat) : Nat × Flags :=
  let x := decodeFp f a
  let y := decodeFp f b
  if x.isNan || y.isNan then nanOut f 1 fNI else sumNum f mode sat x y.negate

/-- Multiplication. -/
def fpMul (f : Fmt) (mode : RMode) (sat : Bool) (a b : Nat) : Nat × Flags :=
  let x := decodeFp f a
  let y := decodeFp f b
  if x.isNan || y.isNan then nanOut f 1 fNI
  else
    match mulNum x y with
    | .nan => nanOut f 4 fNV
    | p => roundTo f mode sat p

/-- Fused multiply-add `c ± a·b`, one rounding (R97, R129). -/
def fpFma (f : Fmt) (mode : RMode) (sat minus : Bool) (a b c : Nat) : Nat × Flags :=
  let x := decodeFp f a
  let y := decodeFp f b
  let z := decodeFp f c
  if x.isNan || y.isNan || z.isNan then nanOut f 1 fNI
  else
    match mulNum x y with
    | .nan => nanOut f 4 fNV
    | p => sumNum f mode sat z (if minus then p.negate else p)

/-- Order of two values that are not NaN: −0 below +0 when `zeros`. -/
def numLt (zeros : Bool) : Num → Num → Bool
  | .inf g, .inf h => g && !h
  | .inf g, .fin _ _ _ _ => g
  | .fin _ _ _ _, .inf h => !h
  | .fin g n x _, .fin h m y _ =>
    let e := min x y
    let v := scaled g n x e
    let w := scaled h m y e
    v < w || (zeros && v = 0 && w = 0 && g && !h)
  | _, _ => false

/-- Exact minimum or maximum (R80, R97). -/
def fpMinMax (f : Fmt) (max : Bool) (a b : Nat) : Nat × Flags :=
  let x := decodeFp f a
  let y := decodeFp f b
  if x.isNan || y.isNan then nanOut f 1 fNI
  else if max then (if numLt true x y then b else a, 0) else (if numLt true y x then b else a, 0)

/-- Comparisons: equal, less, less or equal; a NaN operand gives `none` (R80). -/
def fpCmp (f : Fmt) (a b : Nat) : Option (Bool × Bool) :=
  let x := decodeFp f a
  let y := decodeFp f b
  if x.isNan || y.isNan then none else some (!numLt false x y && !numLt false y x, numLt false x y)

/-- Whether a target format has fewer mantissa bits (R77). -/
def narrower (src dst : Fmt) : Bool := mantBits dst < mantBits src

/-- Conversion between floating-point formats (R77). -/
def fpConvert (src dst : Fmt) (mode : RMode) (sat : Bool) (a : Nat) : Nat × Flags :=
  match decodeFp src a with
  | .nan => nanOut dst (if narrower src dst then 6 else 1) fNI
  | x => roundTo dst mode sat x

/-- Least and greatest value of an integer format (R66). -/
def intMin (f : Fmt) : Int := if f.signed then -2 ^ (f.bits - 1) else 0
def intMax (f : Fmt) : Int := if f.signed then 2 ^ (f.bits - 1) - 1 else 2 ^ f.bits - 1

/-- The integer that an element holds (R66). -/
def intOf (f : Fmt) (a : Nat) : Int :=
  if f.signed && 2 ^ (f.bits - 1) ≤ a then (a : Int) - 2 ^ f.bits else a

/-- An integer result: wrapped, or clamped with `fpflags.sat` (R67). -/
def intFit (f : Fmt) (sat : Bool) (v : Int) : Nat × Flags :=
  if sat && v < intMin f then ((intMin f % 2 ^ f.bits).toNat, fSAT)
  else if sat && intMax f < v then ((intMax f % 2 ^ f.bits).toNat, fSAT)
  else ((v % 2 ^ f.bits).toNat, 0)

/-- The value rounded to an integer, and whether that was inexact (R77). -/
def roundInt (mode : RMode) (g : Bool) (n : Nat) (e : Int) : Int × Bool :=
  let d := (-e).toNat
  let n' := n * 2 ^ e.toNat
  let k := n' / 2 ^ d
  let r := n' % 2 ^ d
  let k' := if r != 0 && goesAway mode g k r d false then k + 1 else k
  (if g then -(k' : Int) else k', r != 0)

/-- Conversion of a floating-point element to an integer format (R77). -/
def fpToInt (src dst : Fmt) (mode : RMode) (a : Nat) : Nat × Flags :=
  match decodeFp src a with
  | .nan => (0, fNV ||| fNI)
  | .inf g => (((if g then intMin dst else intMax dst) % 2 ^ dst.bits).toNat, fNV)
  | .fin g n e _ =>
    let (v, inexact) := roundInt mode g n e
    if v < intMin dst then ((intMin dst % 2 ^ dst.bits).toNat, fNV)
    else if intMax dst < v then ((intMax dst % 2 ^ dst.bits).toNat, fNV)
    else ((v % 2 ^ dst.bits).toNat, if inexact then fNX else 0)

/-- Conversion of an integer to a floating-point format (R77). -/
def intToFp (dst : Fmt) (mode : RMode) (sat : Bool) (v : Int) : Nat × Flags :=
  roundTo dst mode sat (.fin (v < 0) v.natAbs 0 false)

/-! ### Q4 (R71 to R73, R78) -/

/-- Twice-doubled values (in quarters) of the sixteen codes of a block type (R73). -/
def q4Table : Nat → List Int
  | 0 => [0, 4, 8, 12, 16, 20, 24, 28, -32, -28, -24, -20, -16, -12, -8, -4]
  | 1 => [0, 2, 4, 6, 8, 12, 16, 24, 0, -2, -4, -6, -8, -12, -16, -24]
  | 2 => [0, 1, 2, 4, 8, 16, 32, 64, 0, -1, -2, -4, -8, -16, -32, -64]
  | _ => [0, 4, 8, 12, 16, 20, 24, 28, 32, -32, 48, -48, 64, -64, 96, -96]

/-- The decoded code of a block with a scale byte, in quarters of the scale, or NaN for the NaN scale, with the flags
of the read (R72, R73). Code 1000 of E2M1 is −0. -/
def q4Decode (scale code : Nat) : Num × Flags :=
  let t := scale / 64
  let e := scale % 64
  if e = 63 then (.nan, fNS)
  else
    let v := (q4Table t).getD code 0
    (.fin (v < 0 || (t = 1 && code = 8)) v.natAbs ((e : Int) - 32 - 2) false,
      if t = 2 && code = 8 then fQR else 0)

/-- Codes of a type that an encoding may give (R78): for type 10 without the reserved code, for E2M1 without −0. -/
def q4Codes (t : Nat) : List Nat := (List.range 16).filter fun q => !((t = 2 || t = 1) && q = 8)

/-- Of two codes at the same distance, the one that a tie under RNE takes (R78). -/
def q4Tie (t a b : Nat) : Nat :=
  if t < 2 then (if a % 2 = 0 then a else b)
  else if ((q4Table t).getD a 0).natAbs ≤ ((q4Table t).getD b 0).natAbs then a else b

/-- The neighbour at or below, or at or above, an exact value `v·2^x` quarters among the codes of a type. -/
def q4Near (t : Nat) (below : Bool) (v : Int) (d : Nat) : Nat :=
  (q4Codes t).foldl
    (fun best q =>
      let w := (q4Table t).getD q 0 * 2 ^ d
      let b := (q4Table t).getD best 0 * 2 ^ d
      if below then (if w ≤ v && (b < w || v < b) then q else best)
      else (if v ≤ w && (w < b || b < v) then q else best))
    (if below then (match t with | 0 => 8 | 1 => 15 | 2 => 15 | _ => 15)
     else (match t with | 0 => 7 | 1 => 7 | 2 => 7 | _ => 14))

/-- Encodes a value into a block of type `t` with scale exponent `e` (R78). -/
def q4Encode (mode : RMode) (t e : Nat) : Num → Nat × Flags
  | .nan => (0, fNV ||| fNI ||| fCause 6)
  | .inf g => (if g then q4Near t true (-1000) 0 else q4Near t false 1000 0, fOF ||| fNX)
  | .fin g n x _ =>
    let y : Int := x - ((e : Int) - 32) + 2
    let v : Int := (if g then -(n : Int) else n) * 2 ^ y.toNat
    let d := (-y).toNat
    let tab := fun q => (q4Table t).getD q 0 * 2 ^ d
    let top := q4Near t false 100000 0
    let bot := q4Near t true (-100000) 0
    if n = 0 then (0, 0)
    else if tab top < v then (top, fOF ||| fNX)
    else if v < tab bot then (bot, fOF ||| fNX)
    else
      let lo := q4Near t true v d
      let hi := q4Near t false v d
      if tab lo = v then (lo, 0)
      else if tab hi = v then (hi, 0)
      else
        let away := if g then lo else hi
        let near := if g then hi else lo
        let dist := (v - tab near).natAbs
        let gap := (tab away - tab near).natAbs
        let q :=
          match mode with
          | .rne => if 2 * dist < gap then near else if gap < 2 * dist then away else q4Tie t lo hi
          | .rtz => near
          | .rup => hi
          | .rdn => lo
          | .sr r w => if r < dist * 2 ^ w / gap then away else near
        -- a zero keeps the sign of the value: E2M1 has a −0 (R73, R74)
        (if q = 0 && g && t = 1 then 8 else q, fNX)

/-! ### Special functions, correctly rounded (R88, R89) -/

/-- Square root rounded down, by Newton's iteration from above. -/
def isqrtFrom (n : Nat) : Nat → Nat → Nat
  | 0, x => x
  | fuel + 1, x =>
    let y := (x + n / x) / 2
    if y < x then isqrtFrom n fuel y else x

def isqrt (n : Nat) : Nat := if n = 0 then 0 else isqrtFrom n 64 (2 ^ (Nat.log2 n / 2 + 1))

/-- The quotient of two positive values, to 128 bits and a sticky bit. -/
def divNum (g : Bool) (n : Nat) (x : Int) (m : Nat) (y : Int) : Num :=
  let k := 128 + Nat.log2 m
  let a := n * 2 ^ k
  .fin g (a / m) (x - y - k) (a % m != 0)

/-- The square root of a positive value. -/
def sqrtNum (n : Nat) (x : Int) : Num :=
  let (n, x) := if x % 2 = 0 then (n, x) else (2 * n, x - 1)
  let a := n * 2 ^ 256
  let r := isqrt a
  .fin false r (x / 2 - 128) (r * r != a)

/-- The reciprocal square root of a positive value. -/
def rsqrtNum (n : Nat) (x : Int) : Num :=
  let (n, x) := if x % 2 = 0 then (n, x) else (2 * n, x - 1)
  let k := 128 + Nat.log2 n
  let r := isqrt (2 ^ (2 * k) / n)
  .fin false r (-(x / 2) - k) (r * r * n != 2 ^ (2 * k))

/-- `2^(f / 2^64)` for a 64-bit fraction, in units of `2^-192`, from the square roots of 2. -/
def exp2Frac : Nat → Nat → Nat → Nat → Nat
  | 0, _, _, acc => acc
  | b + 1, f, root, acc =>
    let acc := if f / 2 ^ b % 2 = 1 then acc * root / 2 ^ 192 else acc
    exp2Frac b f (isqrt (root * 2 ^ 192)) acc

/-- `2^x` for a finite non-zero `x` (R88). -/
def exp2Num (g : Bool) (n : Nat) (x : Int) : Num :=
  let lead : Int := (Nat.log2 n : Int) + x
  if 12 ≤ lead then (if g then .fin false 1 (-4000) true else .fin false 1 4000 false)
  else if lead < -60 then (if g then .fin false (2 ^ 62 - 1) (-62) true else .fin false (2 ^ 62) (-62) true)
  else
    -- x in units of 2^-128, exact: the formats have at most 24 bits of mantissa
    let v : Int := (if g then -(n : Int) else n) * 2 ^ (x + 128).toNat
    let i : Int := v / 2 ^ 128
    let f : Nat := (v % 2 ^ 128).toNat
    if f = 0 then .fin false 1 i false
    else .fin false (exp2Frac 128 f (isqrt (2 * 2 ^ 384)) (2 ^ 192)) (i - 192) true

/-- Bits of log₂ of `y / 2^320` in [1, 2), by squaring. -/
def log2Frac : Nat → Nat → Nat → Nat
  | 0, _, acc => acc
  | b + 1, y, acc =>
    let z := y * y / 2 ^ 320
    if 2 ^ 321 ≤ z then log2Frac b (z / 2) (2 * acc + 1) else log2Frac b z (2 * acc)

/-- log₂ of a positive value (R88). -/
def log2Num (n : Nat) (x : Int) : Num :=
  let l := Nat.log2 n
  let i : Int := (l : Int) + x
  if n = 2 ^ l then .fin (i < 0) i.natAbs 0 false
  else
    let t : Int := i * 2 ^ 128 + log2Frac 128 (n * 2 ^ 320 / 2 ^ l) 0
    if t < 0 then .fin true (-t - 1).toNat (-128) true else .fin false t.toNat (-128) true

/-- Partial sums of the exponential series of `r / 2^256`. -/
def expSeries : Nat → Nat → Nat → Nat → Nat → Nat
  | 0, _, _, _, acc => acc
  | fuel + 1, r, k, term, acc =>
    let t := term * r / 2 ^ 256 / k
    expSeries fuel r (k + 1) t (acc + t)

/-- Repeated squaring in units of `2^-256`. -/
def squareN : Nat → Nat → Nat
  | 0, y => y
  | k + 1, y => squareN k (y * y / 2 ^ 256)

/-- tanh of a finite non-zero value (R88). -/
def tanhNum (g : Bool) (n : Nat) (x : Int) : Num :=
  let lead : Int := (Nat.log2 n : Int) + x
  if 6 ≤ lead then .fin g (2 ^ 64 - 1) (-64) true
  else if lead < -40 then .fin g (n * 2 ^ 64 - 1) (x - 64) true
  else
    -- y = 2|x|, reduced by 2^8
    let r := n * 2 ^ (x + 1 + 256 - 8).toNat / 2 ^ (-(x + 1 + 256 - 8)).toNat
    let ey := squareN 8 (expSeries 64 r 1 (2 ^ 256) (2 ^ 256))
    .fin g ((ey - 2 ^ 256) * 2 ^ 256 / (ey + 2 ^ 256)) (-256) true

/-- VRCP (R88, R89). -/
def fpRcp (f : Fmt) (mode : RMode) (a : Nat) : Nat × Flags :=
  match decodeFp f a with
  | .nan => nanOut f 1 fNI
  | .inf g => (signBit f g, 0)
  | .fin g n e _ =>
    if n = 0 then let (b, _) := infResult f false g; (b, fDZ)
    else roundTo f mode false (divNum g 1 0 n e)

/-- VRSQ (R88, R89). -/
def fpRsq (f : Fmt) (mode : RMode) (a : Nat) : Nat × Flags :=
  match decodeFp f a with
  | .nan => nanOut f 1 fNI
  | .inf g => if g then nanOut f 5 fNV else (0, 0)
  | .fin g n e _ =>
    if n = 0 then let (b, _) := infResult f false g; (b, fDZ)
    else if g then nanOut f 5 fNV
    else roundTo f mode false (rsqrtNum n e)

/-- VSQRT (R88, R89). -/
def fpSqrt (f : Fmt) (mode : RMode) (a : Nat) : Nat × Flags :=
  match decodeFp f a with
  | .nan => nanOut f 1 fNI
  | .inf g => if g then nanOut f 5 fNV else infResult f false false
  | .fin g n e _ =>
    if n = 0 then (signBit f g, 0)
    else if g then nanOut f 5 fNV
    else roundTo f mode false (sqrtNum n e)

/-- VDIV (R88, R89). -/
def fpDiv (f : Fmt) (mode : RMode) (a b : Nat) : Nat × Flags :=
  match decodeFp f a, decodeFp f b with
  | .nan, _ | _, .nan => nanOut f 1 fNI
  | .inf _, .inf _ => nanOut f 5 fNV
  | .inf g, .fin h _ _ _ => infResult f false (g != h)
  | .fin g _ _ _, .inf h => (signBit f (g != h), 0)
  | .fin g n x _, .fin h m y _ =>
    if m = 0 then
      if n = 0 then nanOut f 5 fNV else let (v, _) := infResult f false (g != h); (v, fDZ)
    else if n = 0 then (signBit f (g != h), 0)
    else roundTo f mode false (divNum (g != h) n x m y)

/-- VEXP2 (R88, R89). -/
def fpExp2 (f : Fmt) (mode : RMode) (a : Nat) : Nat × Flags :=
  match decodeFp f a with
  | .nan => nanOut f 1 fNI
  | .inf g => if g then (0, 0) else infResult f false false
  | .fin g n e _ => roundTo f mode false (if n = 0 then .fin false 1 0 false else exp2Num g n e)

/-- VLOG2 (R88, R89). -/
def fpLog2 (f : Fmt) (mode : RMode) (a : Nat) : Nat × Flags :=
  match decodeFp f a with
  | .nan => nanOut f 1 fNI
  | .inf g => if g then nanOut f 5 fNV else infResult f false false
  | .fin g n e _ =>
    if n = 0 then let (v, _) := infResult f false true; (v, fDZ)
    else if g then nanOut f 5 fNV
    else roundTo f mode false (log2Num n e)

/-- VTANH (R88, R89). -/
def fpTanh (f : Fmt) (mode : RMode) (a : Nat) : Nat × Flags :=
  match decodeFp f a with
  | .nan => nanOut f 1 fNI
  | .inf g => roundTo f mode false (.fin g 1 0 false)
  | .fin g n e _ => if n = 0 then (signBit f g, 0) else roundTo f mode false (tanhNum g n e)

/-- Multiplication by a power of two, rounded once (VSCL, R129). -/
def fpScl (f : Fmt) (mode : RMode) (sat : Bool) (a : Nat) (k : Int) : Nat × Flags :=
  match decodeFp f a with
  | .nan => nanOut f 1 fNI
  | .inf g => infResult f sat g
  | .fin g n e t => roundTo f mode sat (.fin g n (e + k) t)

/-! ### Atomic operations (R46, R108, R109) -/

/-- The new value of an atomic of `w` bits on the old value: codes of R46, 9 is FADD, 10 is compare-and-swap. -/
def atomNew (op bits old x cmp : Nat) : Nat :=
  let sg := fun v : Nat => if v % 2 ^ bits < 2 ^ (bits - 1) then (v % 2 ^ bits : Int) else (v % 2 ^ bits : Int) - 2 ^ bits
  let o := old % 2 ^ bits
  let y := x % 2 ^ bits
  match op with
  | 0 => y
  | 1 => (o + y) % 2 ^ bits
  | 2 => Nat.land o y
  | 3 => Nat.lor o y
  | 4 => Nat.xor o y
  | 5 => if sg y < sg o then y else o
  | 6 => if sg o < sg y then y else o
  | 7 => min o y
  | 8 => max o y
  | 9 => (fpAdd .fp32 .rne false o y).1
  | _ => if o = cmp % 2 ^ bits then y else o

end Sys2Proof.Machine
end

