-- ==== Sys2Proof/Machine/Window.lean ====
section
/-!
DEFINITION. The registers of a context and its register window: active elements and bytes (R25, R26), the window check at issue (R20),
the tag check (R6, R23), the writing of a row (R24), and what a vector load writes of it (R158, R159).
-/
namespace Sys2Proof.Machine

/-! ### Registers of a context -/

/-- A scalar register: s0 reads zero (R8). -/
def Context.rg (x : Context) (r : Reg) : Word := if r = 0 then 0 else tget x.regs r.toNat 0

/-- Writes a scalar register: a write to s0 is discarded (R8). -/
def Context.setRg (x : Context) (r : Reg) (v : Word) : Context :=
  if r = 0 then x else { x with regs := tset x.regs r.toNat v 0 }

/-- A mask register: m0 reads all ones (R8). -/
def Context.mreg (x : Context) (m : Nat) : Mask := if m = 0 then BitVec.allOnes 2048 else tget x.masks m 0

/-- Writes a mask register: a write to m0 is discarded (R8). -/
def Context.setMreg (x : Context) (m : Nat) (v : Mask) : Context :=
  if m = 0 then x else { x with masks := tset x.masks m v 0 }

def Context.gran (x : Context) (g : Nat) : Gran := tget x.win g {}
def Context.setGran (x : Context) (g : Nat) (v : Gran) : Context := { x with win := tset x.win g v {} }
def Context.bank (x : Context) (k : Nat) : Bank := tget x.banks k {}
def Context.setBank (x : Context) (k : Nat) (v : Bank) : Context := { x with banks := tset x.banks k v {} }

/-- Fields of `stat` (R10). -/
def Context.sup (x : Context) : Bool := bitOf x.stat 0
def Context.intrap (x : Context) : Bool := bitOf x.stat 1
def Context.pe (x : Context) : Bool := bitOf x.stat 2
def Context.wte (x : Context) : Bool := bitOf x.stat 3
def Context.base (x : Context) : BitVec 3 := x.stat.extractLsb' 8 3

/-- Active rows and bytes of a row under a `vshape` (R14). -/
def shapeRows (v : Word) : Nat := bitsOf v 0 4 + 1
def shapeWidth (v : Word) : Nat := bitsOf v 4 8 + 1

def Context.queue (x : Context) : Eng → Queue
  | .v => x.qv | .m => x.qm | .l => x.ql | .e => x.qe
def Context.setQueue (x : Context) (e : Eng) (q : Queue) : Context :=
  match e with
  | .v => { x with qv := q } | .m => { x with qm := q } | .l => { x with ql := q } | .e => { x with qe := q }

/-- `stat` as it reads in a context: its number is in bits [7:6] (R10). -/
def fullStat (w : Word) (ctx : Nat) : Word := putBits w 6 2 ctx

/-! ### Rows -/

/-- The bit of a row's 128 mask bits that governs element `e` (R26). -/
def maskIndex (f : Fmt) (e : Nat) : Nat :=
  match f.bits with
  | 8 => e / 2
  | 4 => e / 4
  | _ => e

/-- The mask bit of element `e` of row `j` (R26). -/
def maskBit (m : Mask) (f : Fmt) (j e : Nat) : Bool := m.getLsbD (128 * j + maskIndex f e)

/-- Bytes that an element lies in (R25): its last byte must be within the width. -/
def elemEnd (f : Fmt) (e : Nat) : Nat := if f.bits = 4 then e / 2 + 1 else (e + 1) * (f.bits / 8)

/-- Element `e` of row `j` is active (R25); `j` is an active row. -/
def active (m : Mask) (f : Fmt) (vshape : Word) (j e : Nat) : Bool :=
  j < shapeRows vshape && elemEnd f e ≤ shapeWidth vshape && maskBit m f j e

/-- The active elements of a row, in order. -/
def actives (m : Mask) (f : Fmt) (vshape : Word) (j : Nat) : List Nat :=
  (List.range f.count).filter fun e => active m f vshape j e

/-- A write of row `j` covers the whole granule (R24). -/
def wholeRow (m : Mask) (f : Fmt) (vshape : Word) (j : Nat) : Bool :=
  shapeWidth vshape = 256 && (List.range f.count).all fun e => maskBit m f j e

/-- Bits of a row's data with the elements of a list put in. -/
def putElems {w : Nat} (bits : Nat) (d : BitVec w) : List (Nat × Nat) → BitVec w
  | [] => d
  | (e, v) :: r => putElems bits (putAt d (e * bits) bits v) r

/-- Element `e` of a row of a format. -/
def elemAt (d : GranData) (f : Fmt) (e : Nat) : Nat := getAt d (e * f.bits) f.bits

/-- The first granule of the operands, row by row, that lies at or above the window's size (R20). -/
def rowCheck (wsize rows : Nat) (ops : List (Nat × Nat)) : Option Nat :=
  ((List.range rows).flatMap fun j => ops.map fun o => o.1 + j * o.2).find? fun g => wsize ≤ g

/-- The granules that an operand covers. -/
def rowGrans (rows base stride : Nat) : List Nat := (List.range rows).map fun j => base + j * stride

/-- CheckTag (R6). -/
def tagOk (g : Gran) (f : Fmt) (bitwise : Bool) : Bool :=
  g.fmt = f || g.fmt = .empty || (bitwise && g.fmt = .raw)

/-- The bytes of a granule as they read: an EMPTY granule reads as zeros (R23). -/
def Gran.read (g : Gran) : GranData := if g.fmt = .empty then 0 else g.data

/-- A row's write under R24: `none` where a partial write meets a tag that is neither EMPTY nor the format. -/
def writeRow (g : Gran) (f : Fmt) (whole : Bool) (elems : List (Nat × Nat)) : Option Gran :=
  if whole then some { g with data := putElems f.bits g.data elems, fmt := f, poison := false }
  else if g.fmt = .empty then some { g with data := putElems f.bits 0 elems, fmt := f }
  else if g.fmt = f then some { g with data := putElems f.bits g.data elems }
  else none

/-- The signed 18-bit immediate of a vector word. -/
def simm (f : VF) : Word := f.imm.signExtend 64

/-! ### What a vector load writes (R24, R158, R159) -/

/-- The word takes its addresses from granules. -/
def indexed : Instr → Option VF
  | .vldx f | .vstx f => some f
  | _ => none

/-- Row j of a returned load is without error. -/
def rowGood (i : Item) (j : Nat) : Bool := i.parts.all fun p => p.row != j || p.isDone

/-- The index of the part of element e of row j (R160). -/
def elemIdx (i : Item) (f : VF) (j e : Nat) : Nat :=
  match indexed i.ins with
  | some _ => f.fmt.count * j + e
  | none => 4 * j + e * f.fmt.bits / 512

/-- The active elements of row j, of the parts that `sel` names, that this run of the word has not written: what lies before `time` was
written before the word stopped (R344). -/
def rowElems (i : Item) (f : VF) (sel : Nat → Bool) (j : Nat) : List (Nat × Nat) :=
  let r := i.rows.getD j ⟨0, false⟩
  ((actives i.mask f.fmt i.vshape j).filter fun e =>
    let k := elemIdx i f j e
    i.time ≤ k && !i.wrote.contains k && sel k).map fun e => (e, elemAt r.data f.fmt e)

/-- The rows that this run of the word writes. -/
def runRows (i : Item) (f : VF) : List Nat :=
  (List.range (shapeRows i.vshape)).filter fun j => i.time ≤ elemIdx i f j (f.fmt.count - 1)

/-- The rows of which something is to be written: an active row without active elements is a partial write of no bytes (R24, R128,
R158). -/
def loadRows (i : Item) (f : VF) (sel : Nat → Bool) : List Nat :=
  (runRows i f).filter fun j =>
    if (actives i.mask f.fmt i.vshape j).isEmpty then sel (elemIdx i f j 0) else !(rowElems i f sel j).isEmpty

/-- The check of a row before a load writes any: the tag of a granule that forbids a partial write (R24). Poison does not: the bytes
change and it stays (R246). -/
def loadCheck (x : Context) (i : Item) (f : VF) (j : Nat) : Option Flt :=
  let n := f.vd.toNat + j * f.sd.toNat
  let g := x.gran n
  if !wholeRow i.mask f.fmt i.vshape j && g.fmt != .empty && g.fmt != f.fmt then some ⟨0x04, BitVec.ofNat 64 n⟩ else none

/-- Puts elements into a granule and tags it; checked before (R24, R128). -/
def Gran.put (g : Gran) (f : Fmt) (whole : Bool) (elems : List (Nat × Nat)) : Gran :=
  { g with data := putElems f.bits g.read elems, fmt := f, poison := g.poison && !whole }

/-- Writes the elements of row j in the parts that `sel` names; poison comes with the row (R159). A whole row clears the granule's poison
with its last piece, if this run of the word has written them all (R245, log 20). -/
def writeElems (i : Item) (f : VF) (sel : Nat → Bool) (y : Context) (j : Nat) : Context :=
  let n := f.vd.toNat + j * f.sd.toNat
  let last := i.time ≤ elemIdx i f j 0 && (rowElems i f (fun k => !sel k) j).isEmpty
  let g := (y.gran n).put f.fmt (last && wholeRow i.mask f.fmt i.vshape j) (rowElems i f sel j)
  y.setGran n (if (i.rows.getD j ⟨0, false⟩).poison then { g with poison := true } else g)

/-- Writes the parts that `sel` names of a vector load's rows that `ok` names (R24, R158, R159): the first granule whose tag forbids a
partial write, or the context with the rows written. What has been written has passed the check. -/
def writeLoaded (x : Context) (i : Item) (f : VF) (ok sel : Nat → Bool) : Except Flt Context :=
  match (if i.wrote.isEmpty then ((runRows i f).filter ok).findSome? (loadCheck x i f) else none) with
  | some e => .error e
  | none => .ok (((loadRows i f sel).filter ok).foldl (writeElems i f sel) x)

/-- Writes rows of a mask register. It is one unit: only a load of all of it clears its poison (R159). -/
def writeMask (x : Context) (i : Item) (f : VF) (ok sel : Nat → Bool) : Context :=
  let js := (List.range (shapeRows i.vshape)).filter fun j => i.time ≤ j && ok j && sel j
  let m := js.foldl
    (fun m j => putAt m (128 * j) 128 (getAt (i.rows.getD j ⟨0, false⟩).data 0 128)) (x.mreg f.vd.toNat)
  let bad := (x.mbad.getLsbD f.vd.toNat && js.length != 16) || js.any fun j => (i.rows.getD j ⟨0, false⟩).poison
  let y := x.setMreg f.vd.toNat m
  if f.vd = 0 then y else { y with mbad := putAt y.mbad f.vd.toNat 1 (b2n bad) }

/-- The rows and parts of a vector or mask load that are named, in its destination. -/
def writeParts (x : Context) (i : Item) (ok sel : Nat → Bool) : Except Flt Context :=
  match i.ins with
  | .vld f | .vldx f => writeLoaded x i f ok sel
  | .mld f => .ok (writeMask x i f ok sel)
  | _ => .ok x

end Sys2Proof.Machine
end

