-- ==== Sys2Proof/Machine/Ops.lean ====
section
/-!
DEFINITION. The named operations that the meanings share: contexts and their registers, stamps, tokens, apertures and
translation, Moss and device memory, faults, the cut, trap entry and the end of a strand.
-/
namespace Sys2Proof.Machine

/-! ### Objects of the package -/

/-- The number of a context in the package (R375). -/
def ckey (c : CtxLoc) : Nat := (c.pcl * 128 + c.sub) * 3 + c.ctx

/-- The context with a number. -/
def cloc (k : Nat) : CtxLoc := ⟨k / 384, k / 3 % 128, k % 3⟩

/-- The compute die of a cluster (R375). -/
def dieOf (pcl : Nat) : Nat := pcl / 10

/-- The state of a context. -/
def State.ctxAt (s : State) (c : CtxLoc) : Context := if c = s.focus then s.cx else tget s.others (ckey c) {}

/-- The state with a context replaced. -/
def State.setCtx (s : State) (c : CtxLoc) (x : Context) : State :=
  if c = s.focus then { s with cx := x } else { s with others := tset s.others (ckey c) x {} }

/-- The state with a context changed. -/
def State.onCtx (s : State) (c : CtxLoc) (f : Context → Context) : State := s.setCtx c (f (s.ctxAt c))

/-- The state with another context in the focus. -/
def State.refocus (s : State) (c : CtxLoc) : State :=
  if c = s.focus then s
  else { s with focus := c, cx := tget s.others (ckey c) {},
                others := tset (tdel s.others (ckey c)) (ckey s.focus) s.cx {} }

def State.subAt (s : State) (pcl sub : Nat) : SubCore := tget s.subs (pcl * 128 + sub) {}
def State.setSub (s : State) (pcl sub : Nat) (x : SubCore) : State :=
  { s with subs := tset s.subs (pcl * 128 + sub) x {} }
def State.cluAt (s : State) (pcl : Nat) : Cluster := tget s.clus pcl {}
def State.setClu (s : State) (pcl : Nat) (x : Cluster) : State := { s with clus := tset s.clus pcl x {} }
def State.onClu (s : State) (pcl : Nat) (f : Cluster → Cluster) : State := s.setClu pcl (f (s.cluAt pcl))
def State.partAt (s : State) (p : Nat) : Partition := tget s.parts p {}
def State.setPart (s : State) (p : Nat) (x : Partition) : State := { s with parts := tset s.parts p x {} }
def State.onPart (s : State) (p : Nat) (f : Partition → Partition) : State := s.setPart p (f (s.partAt p))

/-- Whether a cluster belongs to a partition (R376). -/
def Partition.owns (p : Partition) (pcl : Nat) : Bool := p.formed && pcl < 40 && p.clusters.getLsbD pcl

/-- The clusters of a partition in package order. -/
def Partition.list (p : Partition) : List Nat := (List.range 40).filter fun c => p.owns c

/-- The partition that a cluster belongs to, if any. -/
def State.partOf (s : State) (pcl : Nat) : Option Nat := (List.range 16).find? fun p => (s.partAt p).owns pcl

/-- A next state. -/
abbrev Out := Host.Outcome State Fault Refusal

/-- A fault of the model for an object that the part does not have (R375). -/
def noObject (ok : Bool) (what : String) (s : State) (k : State → Out) : Out :=
  if ok then k s else .fault (.noSuchObject what)

/-- An event of a context. -/
def atCtx (c : CtxLoc) (s : State) (f : State → State) : Out := noObject c.ok "context" s fun s => .next (f s)

/-- An event of a cluster. -/
def atClu (pcl : Nat) (s : State) (f : State → State) : Out := noObject (pcl < 40) "cluster" s fun s => .next (f s)

/-- An event of a partition. -/
def atPart (p : Nat) (s : State) (f : State → State) : Out := noObject (p < 16) "partition" s fun s => .next (f s)

/-! ### Stamps (R252) -/

def wmax (a b : Word) : Word := if a.toNat < b.toNat then b else a
def Stamp.max (a b : Stamp) : Stamp := ⟨wmax a.d0 b.d0, wmax a.d1 b.d1, wmax a.d2 b.d2, wmax a.d3 b.d3⟩
def Stamp.at (a : Stamp) : Nat → Word
  | 0 => a.d0 | 1 => a.d1 | 2 => a.d2 | _ => a.d3
def Stamp.tick (a : Stamp) : Nat → Stamp
  | 0 => { a with d0 := a.d0 + 1 } | 1 => { a with d1 := a.d1 + 1 }
  | 2 => { a with d2 := a.d2 + 1 } | _ => { a with d3 := a.d3 + 1 }

/-- The stamping action of die `d` for a party with observed vector `o`: the stamp, and the state with the clock
advanced (R252). -/
def State.stampWrite (s : State) (d : Nat) (o : Stamp) : Stamp × State :=
  let v := ((tget s.clocks d {}).max o).tick d
  (v, { s with clocks := tset s.clocks d v {} })

/-- A context observes a stamp (R252). -/
def Context.observe (x : Context) (st : Stamp) : Context := { x with obs := x.obs.max st }

/-! ### Tokens (R30, R31) -/

def Eng.num : Eng → Nat
  | .v => 0 | .m => 1 | .l => 2 | .e => 3
def engOf : Nat → Eng
  | 0 => .v | 1 => .m | 2 => .l | _ => .e

/-- The number of a token queue within its context (R346). -/
def tq (snd rcv : Eng) : Nat := 4 * Eng.num snd + Eng.num rcv

/-- The queue id of R346. -/
def queueId (ctx q : Nat) : Word := BitVec.ofNat 64 (16 * ctx + q)

/-- The other three engines in the order V, M, L, E (R30). -/
def otherEngs : Eng → List Eng
  | .v => [.m, .l, .e] | .m => [.v, .l, .e] | .l => [.v, .m, .e] | .e => [.v, .m, .l]

/-- The engines that a pop or push field names (R30). -/
def named (e : Eng) (f : BitVec 3) : List Eng :=
  ((otherEngs e).zip [f.getLsbD 0, f.getLsbD 1, f.getLsbD 2]).filterMap fun p => if p.2 then some p.1 else none

/-- Pushes a token; `false` when the queue holds 8 already (R31). -/
def Context.pushTok (x : Context) (q : Nat) (m : Option Mark) : Context × Bool :=
  let t := tget x.toks q {}
  if 8 ≤ t.toks.length then (x, false)
  else ({ x with toks := tset x.toks q { t with toks := t.toks ++ [m], pushes := t.pushes + 1 } {} }, true)

/-- Takes the oldest token of a queue: its mark, or `none` for an empty queue. -/
def Context.popTok (x : Context) (q : Nat) : Option (Option Mark × Context) :=
  let t := tget x.toks q {}
  match t.toks with
  | [] => none
  | m :: r => some (m, { x with toks := tset x.toks q { t with toks := r, pops := t.pops + 1 } {} })

/-- Whether every named queue holds a token. -/
def Context.hasToks (x : Context) (qs : List Nat) : Bool := qs.all fun q => !(tget x.toks q {}).toks.isEmpty

/-- Takes one token from each named queue; the marks that came (R30, R278). -/
def Context.popAll (x : Context) : List Nat → List Mark × Context
  | [] => ([], x)
  | q :: r =>
    match x.popTok q with
    | none => x.popAll r
    | some (m, y) =>
      let (ms, z) := y.popAll r
      (m.toList ++ ms, z)

/-- Pushes one token to each named queue; the first queue that overflowed (R31). -/
def Context.pushAll (x : Context) : List Nat → Option Nat × Context
  | [] => (none, x)
  | q :: r =>
    let (y, ok) := x.pushTok q none
    let (o, z) := y.pushAll r
    (if ok then o else some q, z)

/-! ### Apertures (R21, R214) -/

/-- The first row of R214 that matches, within its limit. -/
def placeOf (wsize : Nat) (a : Word) : Option Place :=
  if bitsOf a 48 16 = 0 then some (.dev (bitsOf a 0 48))
  else if bitsOf a 60 4 = 1 then some (.remote (bitsOf a 48 12) (bitsOf a 0 48))
  else if bitsOf a 48 16 = 0xFFFD then if bitsOf a 26 22 = 0 then some (.moss (bitsOf a 0 26)) else none
  else if bitsOf a 48 16 = 0xFFFE then if bitsOf a 0 48 < wsize * 256 then some (.win (bitsOf a 0 48)) else none
  else none

/-- The generic address of a Moss offset and of a window granule. -/
def mossAddr (off : Nat) : Word := BitVec.ofNat 64 (0xFFFD * 2 ^ 48 + off)
def winAddr (off : Nat) : Word := BitVec.ofNat 64 (0xFFFE * 2 ^ 48 + off)

/-! ### Translation (R240 to R242) -/

/-- The kind of an access (R241). -/
inductive Acc where
  | load | store | atomic | fetch
  deriving DecidableEq, Repr

/-- Index bits, leaf size and place of the index at a level (R240). -/
def level : Nat → Nat × Nat
  | 1 => (32, 16) | 2 => (26, 6) | 3 => (21, 5) | _ => (16, 5)

/-- Whether the entry grants the access (R240, R241). -/
def grants (e : Word) : Acc → Bool
  | .load => bitOf e 2
  | .store => bitOf e 3
  | .atomic => bitOf e 2 && bitOf e 3 && bitOf e 4
  | .fetch => bitOf e 5

/-- Whether a physical address lies in a page of the partition (R241). -/
def assigned (p : Partition) (pa : Nat) : Bool := p.pages.contains (pa / 65536)

/-- Walks the table from level `4 - fuel + 1`: a leaf with the size of what it maps, or cause 0x08, with `true` for a malformed
entry; a poisoned entry counts as one (R241, R387). -/
def walk (s : State) (p : Partition) (va : Nat) : Nat → Nat → Except Bool (Word × Nat)
  | 0, _ => .error true
  | fuel + 1, table =>
    let (lo, n) := level (4 - fuel)
    let at_ := table + 8 * (va / 2 ^ lo % 2 ^ n)
    let e : Word := BitVec.ofNat 64 (loadNat s.mem at_ 8)
    let addr := bitsOf e 12 36 * 4096
    if s.poison.contains (at_ / 64) then .error true
    else if !bitOf e 0 then .error false
    else if bitsOf e 48 16 != 0 || bitsOf e 6 6 != 0 then .error true
    else if bitOf e 1 then if addr % 2 ^ lo = 0 then .ok (e, lo) else .error true
    else if !assigned p addr then .error true
    else walk s p va fuel addr

/-- The entry that maps an address, or cause 0x08, with `true` where it is malformed. A translation that the cluster holds is used as
it is, until an invalidation removes it (R242, R243). -/
def leafOf (s : State) (pcl part va : Nat) : Except Bool (Word × Nat) :=
  let p := s.partAt part
  let r :=
    match s.tlb.find? (fun e => e.1 = pcl && e.2.1 = part && e.2.2.1 ≤ va && va < e.2.2.1 + e.2.2.2.1) with
    | some e => Except.ok (e.2.2.2.2, Nat.log2 e.2.2.2.1)
    | none => walk s p va 4 p.root
  match r with
  | .error m => .error m
  | .ok (e, lo) =>
    let pa := bitsOf e 12 36 * 4096 + va % 2 ^ lo
    if !assigned p pa || Config.memBytes ≤ pa then .error true else .ok (e, lo)

/-- Translate (R6): the physical address, or the cause. -/
def translate (s : State) (pcl part va : Nat) (k : Acc) : Except (BitVec 8) Nat :=
  match leafOf s pcl part va with
  | .error _ => .error 0x08
  | .ok (e, lo) => if grants e k then .ok (bitsOf e 12 36 * 4096 + va % 2 ^ lo) else .error 0x09

/-- An access whose walk meets a malformed entry is reported to the management controller (R241, R387). -/
def State.noteWalk (s : State) (pcl part va : Nat) : State :=
  match leafOf s pcl part va with
  | .error true => { s with mgr := { s.mgr with log := s.mgr.log ++ [(241, va, part)] } }
  | _ => s

/-- A read of the hardware that has ended so is reported where its walk has met a malformed entry (R241). -/
def State.noteRead {α : Type} (s : State) (pcl part : Nat) (r : Except (BitVec 8 × Nat) α) : State :=
  match r with
  | .error e => if e.1 = 0x08 then s.noteWalk pcl part e.2 else s
  | .ok _ => s

/-- The state with the translation of an address in the cluster's cache (R242). -/
def fillTlb (s : State) (pcl part va : Nat) : State :=
  let p := s.partAt part
  if s.tlb.any (fun e => e.1 = pcl && e.2.1 = part && e.2.2.1 ≤ va && va < e.2.2.1 + e.2.2.2.1) then s
  else
    match walk s p va 4 p.root with
    | .ok (e, lo) => { s with tlb := (pcl, part, va / 2 ^ lo * 2 ^ lo, 2 ^ lo, e) :: s.tlb }
    | .error _ => s

/-- Virtual reads for the hardware's own use: bytes in 64-byte lines, each translated, at the home; with the address
that failed, an error of the home as cause 0x0F, or poison as cause 0x0D. -/
def vread (s : State) (pcl part : Nat) : List (Nat × Nat) → Except (BitVec 8 × Nat) (List Byte)
  | [] => .ok []
  | (va, n) :: r =>
    match translate s pcl part va .load with
    | .error c => .error (c, va)
    | .ok pa =>
      if s.failing.contains (pa / 64) then .error (0x0F, va)
      else if s.poison.contains (pa / 64) then .error (0x0D, va)
      else
        match vread s pcl part r with
        | .error e => .error e
        | .ok bs => .ok (loadBytes s.mem pa n ++ bs)

/-- The 64-byte pieces of a span. -/
def pieces : Nat → Nat → Nat → List (Nat × Nat)
  | 0, _, _ => []
  | fuel + 1, va, n =>
    if n = 0 then []
    else
      let k := min n (64 - va % 64)
      (va, k) :: pieces fuel (va + k) (n - k)

/-- `n` bytes of virtual memory from `va` up. -/
def vbytes (s : State) (pcl part va n : Nat) : Except (BitVec 8 × Nat) (List Byte) :=
  vread s pcl part (pieces (n / 64 + 2) va n)

/-! ### Device memory: homes, stamps, the write buffer (R245 to R254) -/

/-- The physical 64-byte units that a span touches. -/
def unitsOf (pa n : Nat) : List Nat := (List.range ((pa + n - 1) / 64 - pa / 64 + 1)).map (pa / 64 + ·)

/-- The stored stamps of units of device memory, together. -/
def unitStamp (s : State) (us : List Nat) : Stamp := us.foldl (fun a u => a.max (tget s.stamps u {})) {}

/-- Applies a write at its home: bytes, stamps of its units, and poison, which a write of a whole line clears and a
poisoned write brings (R245, R246, R252). -/
def applyBytes (s : State) (pa : Nat) (bs : List Byte) (bad : Bool) (st : Stamp) : State :=
  let us := unitsOf pa bs.length
  let whole := us.filter fun u => pa ≤ u * 64 && u * 64 + 64 ≤ pa + bs.length
  { s with
    mem := storeBytes s.mem pa bs
    poison := (s.poison.filter fun u => !whole.contains u) ++
      (if bad then us.filter fun u => whole.contains u || !s.poison.contains u else [])
    covers := if bad then s.covers.filter fun e => !us.contains e.1 else s.covers
    stamps := us.foldl (fun t u => tset t u ((tget t u {}).max st) {}) s.stamps }

/-- Whether an earlier write is in the dependency set of a write with stamp `st` (R253). -/
def dependsOn (st : Stamp) (u : Transit) : Bool := (u.stamp.at u.die).toNat ≤ (st.at u.die).toNat

/-- Whether a change of a counter, or an arrival at a group, is in the dependency set of a write with stamp `st` (R253). -/
def EvAdd.before (st : Stamp) (a : EvAdd) : Bool := a.die.any fun d => (a.stamp.at d).toNat ≤ (st.at d).toNat
def Arrival.before (st : Stamp) (a : Arrival) : Bool :=
  (a.stamp.at (dieOf a.who.pcl)).toNat ≤ (st.at (dieOf a.who.pcl)).toNat

/-- A launch request, whose release the pool has still to see, is in the dependency set of another write with stamp `st` (R253, R255). -/
def LaunchReq.before (st : Stamp) (r : LaunchReq) : Bool :=
  !r.met && r.obs != st && (r.obs.at (dieOf r.who.pcl)).toNat ≤ (st.at (dieOf r.who.pcl)).toNat

/-- Stamped writes of a dependency set that are still under way: to device memory other than `t`, to counters other than `a`, to
groups other than `r`, to the pool (R253). -/
def State.owed (s : State) (st : Stamp) (t : Option Transit) (a : Option EvAdd) (r : Option Arrival) : Bool :=
  (s.transit.any fun u => some u != t && dependsOn st u) || (s.adds.any fun u => some u != a && u.before st) ||
  (s.arrivals.any fun u => some u != r && u.before st) || s.launching.any fun u => u.before st

/-- Signed value of the low bits of an atomic's operand. -/
def atomInt (word : Bool) (w : Word) : Int := if word then (w.setWidth 32).toInt else w.toInt

/-- An atomic's old value as it returns: sign-extended from bit 31 at word width (R108). -/
def atomOld (word : Bool) (old : Word) : Word := if word then sextNat 32 old.toNat else old

/-- The home of a device address: its compute die (R239). -/
def homeDie (pa : Nat) : Nat := pa / 2 ^ 37 % 4

/-! ### Writes under way (R248 to R254) -/

/-- The queue with the item of a sequence number changed. -/
def Queue.onSeq (q : Queue) (seq : BitVec 32) (f : Item → Item) : Queue :=
  { q with items := q.items.map fun i => if i.seq = seq && !(match i.phase with | .idle => true | _ => false) then f i else i }

/-- A permute word, which passes the crossbar (R153). -/
def isPermute : Instr → Bool
  | .vperm _ | .vrgath _ | .vrscat _ => true
  | _ => false

/-- L makes a transfer in register space, a near reply or another: a permute word under way in the sub-core may have contested its
cycle (R153). -/
def State.transfer (s : State) (c : CtxLoc) (near : Bool) : State :=
  let permuting := (List.range 3).any fun k =>
    (s.ctxAt ⟨c.pcl, c.sub, k⟩).qv.items.head?.any fun i =>
      isPermute i.ins && (match i.phase with | .going => true | _ => false)
  if permuting then
    let u := s.subAt c.pcl c.sub
    s.setSub c.pcl c.sub { u with xlog := u.xlog ++ [near] }
  else s

/-- The address that a fault of a part names: the row's for VLD, VST, MLD and MST, else the part's own (R157). -/
def faultAddr (i : Item) (p : LPart) : Word :=
  match i.ins with
  | .vld f | .vst f | .mld f | .mst f => i.a + simm f + BitVec.ofNat 64 p.row * i.b
  | _ => p.addr

/-- A part is requested and not over. -/
def LPart.flying (p : LPart) : Bool := match p.st with | .asked | .due | .out => true | _ => false

/-- A part is not requested. -/
def LPart.isTodo (p : LPart) : Bool := match p.st with | .todo => true | _ => false

/-- A fault is found: the first stays. -/
def noteFault (f : Flt) (i : Item) : Item := { i with fault := i.fault.or (some f) }

/-- A word requests no further part after a fault, but for an error of a far row (R104, R159). -/
def Item.stops (i : Item) : Bool := i.fault.any fun f => f.cause != 0x0F

/-- A started word is complete when none of its parts is under way and none is to be requested (R30). -/
def Item.settleParts (i : Item) : Item :=
  if i.parts.any fun p => p.flying || (p.isTodo && !i.stops) then i else { i with phase := .complete }

/-- A part of a word with its state. -/
def Item.setPart (i : Item) (k : Nat) (st : PartSt) : Item :=
  match i.parts[k]? with
  | some p => { i with parts := setNth i.parts k { p with st := st } }
  | none => i

/-- A part that is under way ends: with a value, or with a fault (R104, R391). -/
def Item.partEnd (k : Nat) (v : Word) (st : Stamp) (flt : Option (BitVec 8)) (i : Item) : Item :=
  match i.parts[k]? with
  | none => i
  | some p =>
    if !p.flying then i
    else
      let i := { i.setPart k (if flt.isSome then .bad else .done) with stamp := i.stamp.max st }
      (match flt with
        | none => { i with val := v }
        | some c => noteFault ⟨c, faultAddr i p⟩ i).settleParts

/-- A change of a command of an engine, by its number. -/
def State.onCmd (s : State) (pcl e num : Nat) (f : Cmd → Cmd) : State :=
  s.onClu pcl fun cl =>
    let q := tget cl.engines e []
    { cl with engines := tset cl.engines e (q.map fun k => if k.num = num then f k else k) [] }

/-- One part of a command's remote accesses has ended (R277, R286). -/
def Cmd.arrived (v : Word) (st : Stamp) (flt : Option (BitVec 8)) (k : Cmd) : Cmd :=
  let k := { k with left := k.left - 1, obs := k.obs.max st, result := if k.fn = 0x30 || k.fn = 0x31 then v else k.result }
  match flt with
  | none => k
  | some _ => { k with done := true, status := 1, code := 0x0F }

/-- A change of a shard's fetch (R417). -/
def State.onFetch (s : State) (p : Nat) (table : Word) (i : Nat) (f : Fetch → Fetch) : State :=
  s.onPart p fun q => { q with armed := q.armed.map fun a =>
    if a.addr = table then { a with fetches := a.fetches.map fun x => if x.shard = i then f x else x } else a }

/-- Tells the word or the command that waits for a write that it has been applied. -/
def State.tell (s : State) (who : Origin) (v : Word) (st : Stamp) (flt : Option (BitVec 8)) : State :=
  match who with
  | .lword c seq part buf =>
    let f := Item.partEnd part v st flt
    let s := s.onCtx c fun x =>
      if x.lane.isEmpty then { x with ql := x.ql.onSeq seq f }
      else { x with lane := ({ x.ql with items := x.lane } : Queue).onSeq seq f |>.items }
    match buf with
    | none => s
    | some id => s.onClu c.pcl fun cl => { cl with wbuf := cl.wbuf.filter fun b => b.id != id }
  | .engine pcl e num _ => s.onCmd pcl e num (Cmd.arrived v st flt)
  | .shard _ _ _ => s
  | .save _ _ _ => s

/-- The vector-store row that a write under way belongs to: its writer, strand, word and row (R245). -/
def State.rowKey (s : State) (t : Transit) : Option (Nat × Nat × Nat × Nat) :=
  match t.who with
  | .lword c seq k _ =>
    let x := s.ctxAt c
    ((x.ql.items ++ x.lane).find? fun i => i.seq = seq && !i.parts.isEmpty).bind fun i =>
      (i.parts[k]?).map fun p => (ckey c, x.serial, seq.toNat, p.row)
  | _ => none

/-- The bytes of a 64-byte unit that a write covers. -/
def unitBytes (u pa n : Nat) : BitVec 64 :=
  (List.range 64).foldl (fun m b => if pa ≤ 64 * u + b && 64 * u + b < pa + n then m ||| BitVec.ofNat 64 (2 ^ b) else m) 0

/-- A row of a vector store has written bytes of a poisoned line: the line's poison is cleared once the row has written all 64 (R245). -/
def State.coverLine (key : Nat × Nat × Nat × Nat) (pa n : Nat) (s : State) (u : Nat) : State :=
  if !s.poison.contains u then s
  else
    let old := ((s.covers.find? fun e => e.1 = u && e.2.1 = key).map fun e => e.2.2).getD 0
    let new := old ||| unitBytes u pa n
    let rest := s.covers.filter fun e => !(e.1 = u && e.2.1 = key)
    if new = BitVec.allOnes 64 then
      { s with poison := s.poison.filter (· != u), covers := rest.filter fun e => e.1 != u }
    else { s with covers := rest ++ [(u, key, new)] }

/-- The lines that a write under way covers for the row that it belongs to. -/
def State.coverRow (s : State) (t : Transit) : State :=
  match s.rowKey t with
  | none => s
  | some key => if t.bad then s else (unitsOf t.pa t.data.length).foldl (State.coverLine key t.pa t.data.length) s

/-- A strand or an engine has written bytes of a partition's weight-set mailbox: the controller has its word to see (R415). -/
def State.ringMail (s : State) (pa n : Nat) : State :=
  { s with rung := s.rung ++ s.parts.filterMap fun e =>
      match e.2.formed, translate s 40 e.1 e.2.wmail.toNat .load with
      | true, .ok m => if m < pa + n && pa < m + 8 then some (e.1, BitVec.ofNat 64 (loadNat s.mem m 8)) else none
      | _, _ => none }

/-- A stamped write or atomic reaches its home, which applies it, or fails it with cause 0x0F (R102, R251, R253). An atomic on a
poisoned line faults and changes nothing (R108). -/
def State.applyOne (s : State) (t : Transit) (err : Bool) : State :=
  let s := { s with transit := s.transit.erase t }
  if err then s.tell t.who 0 {} (some 0x0F)
  else match t.atom with
  | none => (((applyBytes s t.pa t.data t.bad t.stamp).coverRow t).ringMail t.pa t.data.length).tell t.who 0 {} none
  | some a =>
    let n := if a.word then 4 else 8
    let old := loadNat s.mem t.pa n
    if s.poison.contains (t.pa / 64) then s.tell t.who 0 {} (some 0x0D)
    else
      let new := atomNew a.op (8 * n) old a.x.toNat a.cmp.toNat
      let s := (applyBytes s t.pa (toLE n new) t.bad t.stamp).ringMail t.pa n
      s.tell t.who (atomOld a.word (BitVec.ofNat 64 old)) (unitStamp s (unitsOf t.pa n)) none

/-- Applies in stamping order every write under way to this module's memory that a stamp depends on (R253). -/
def State.flush (s : State) (st : Stamp) : State :=
  s.transit.foldl (fun s t => if t.chip.isNone && dependsOn st t then s.applyOne t false else s) s

/-- A write with stamp `st` waits: a change of a counter, an arrival at a group, a launch or a write to another module that it depends on
is not applied yet (R253). What it depends on in device memory is applied with it (`State.flush`). -/
def State.awaits (s : State) (st : Stamp) : Bool :=
  (s.transit.any fun u => u.chip.isSome && dependsOn st u) || (s.adds.any fun u => u.before st) ||
  (s.arrivals.any fun u => u.before st) || s.launching.any fun u => u.before st

/-- A write that a party of a die with observed vector `obs` stamps now could be applied at once (R253). -/
def State.mayWrite (s : State) (die : Nat) (obs : Stamp) : Bool := !s.awaits (s.stampWrite die obs).1

/-- A write that the hardware makes itself to device memory. R252 does not list it among the stamped writes: it carries the O or the
stamp of its party and waits for nothing (R252, R253, log 24). -/
def State.hwWrite (s : State) (o : Stamp) (pa : Nat) (bs : List Byte) (bad : Bool) : State := applyBytes s pa bs bad o

/-- A stamped write of an engine, applied at its home after its dependency set (R252, R253). -/
def State.engWrite (s : State) (die : Nat) (obs : Stamp) (pa : Nat) (bs : List Byte) (bad : Bool) : State :=
  let (st, s) := s.stampWrite die obs
  (applyBytes (s.flush st) pa bs bad st).ringMail pa bs.length

/-- What a read-modify-write of an engine finds at its home: the dependency set of the write has been applied (R253). -/
def State.settleMemory (s : State) (die : Nat) (obs : Stamp) : State := s.flush (s.stampWrite die obs).1

/-- Hardware writes of virtual memory under one stamp, line by line; the cause and address of the first that failed. -/
def State.vwrite (s : State) (pcl part : Nat) (obs : Stamp) : List (Nat × List Byte) → State × Option (BitVec 8 × Nat)
  | [] => (s, none)
  | (va, bs) :: r =>
    match translate s pcl part va .store with
    | .error c => (s.noteWalk pcl part va, some (c, va))
    | .ok pa => if s.failing.contains (pa / 64) then (s, some (0x0F, va)) else (s.hwWrite obs pa bs false).vwrite pcl part obs r

/-- Hardware writes bytes at a virtual address. -/
def State.vstore (s : State) (pcl part : Nat) (obs : Stamp) (va : Nat) (bs : List Byte) :
    State × Option (BitVec 8 × Nat) :=
  s.vwrite pcl part obs (lines (bs.length / 64 + 2) va bs)

/-- Sends lines of a save area towards their homes, each an engine write under the context's O (R252, R354); the cause and address of the
first that failed. -/
def State.sendLines (s : State) (c : CtxLoc) (bad : Bool) : List (Nat × List Byte) → State × Option (BitVec 8 × Nat)
  | [] => (s, none)
  | (va, bs) :: r =>
    let x := s.ctxAt c
    match translate s c.pcl x.part va .store with
    | .error e => (s.noteWalk c.pcl x.part va, some (e, va))
    | .ok pa =>
      let (st, s) := s.stampWrite (dieOf c.pcl) x.obs
      { s with transit := s.transit ++ [(⟨.save c x.serial va, dieOf c.pcl, st, pa, bs, bad, none, none⟩ : Transit)] }.sendLines c bad r

/-- Sends bytes of a save area. -/
def State.sendSave (s : State) (c : CtxLoc) (va : Nat) (bs : List Byte) (bad : Bool) : State × Option (BitVec 8 × Nat) :=
  s.sendLines c bad (lines (bs.length / 64 + 2) va bs)

/-- A write to the save area of a context's strand is under way (R349, R354). -/
def State.savesOut (s : State) (c : CtxLoc) : Bool :=
  s.transit.any fun t => match t.who with | .save d n _ => d = c && n = (s.ctxAt c).serial | _ => false

/-! ### Event counters (R206) -/

/-- The exact sum, clamped to 64 bits, with the saturation bit (R206). -/
def counterAdd (k : Counter) (inc : Word) : Counter :=
  let v : Int := (k.val.toNat : Int) + inc.toInt
  if v < 0 then { k with val := 0, sat := true }
  else if 2 ^ 64 ≤ v then { k with val := BitVec.allOnes 64, sat := true }
  else { k with val := BitVec.ofInt 64 v }

/-- The cluster and counter of an event id that a party of cluster `own` uses (R205). -/
def eventOf (own : Nat) (id : Nat) : Nat × Nat := (if id / 1024 % 64 = 0 then own else id / 1024 % 64 - 1, id % 1024)

/-- The checks of an event id (R205): a cause, or none. -/
def eventBad (s : State) (p : Nat) (own : Nat) (id : Nat) : Option (BitVec 8) :=
  if 65536 ≤ id || 40 < id / 1024 % 64 then some 0x06
  else if !(s.partAt p).owns (eventOf own id).1 then some 0x09 else none

/-- An EventAdd is sent to its counter, stamped by a die or not (R206, R252). -/
def State.sendAdd (s : State) (who own id : Nat) (inc : Word) (set err : Bool) (st : Stamp) (die : Option Nat) : State :=
  let (pcl, n) := eventOf own id
  { s with adds := s.adds ++ [⟨who, pcl, n, inc, set, err, st, die⟩] }

/-! ### Launches, records and the end of a strand (R38, R184, R204, R213, R350, R434) -/

/-- The pool entry of a context's launch. -/
def State.launchOf (s : State) (x : Context) : Option Launch := tfind (s.partAt x.part).launches x.launchid.toNat

/-- Counts a strand of a launch as ended, with its error report if it ended with error (R213, R350, R413). -/
def State.countEnd (s : State) (p launch : Nat) (err : Option (BitVec 8 × Word × Nat × Word)) : State :=
  s.onPart p fun q =>
    match tfind q.launches launch with
    | none => q
    | some l =>
      let l' := { l with ended := l.ended + 1, errors := l.errors + (if err.isSome then 1 else 0),
                         report := l.report.or err }
      { q with launches := tput q.launches launch l' }

/-- `ctxloc` (R11). -/
def ctxloc (c : CtxLoc) : Word := BitVec.ofNat 64
  (c.pcl / 10 * 8192 + c.pcl % 10 * 512 + c.sub / 16 * 64 + c.sub % 16 * 4 + c.ctx)

/-- The 64 bytes of a continuation record (R184). -/
def recordBytes (pc : Word) (strand : Nat) (launch : Nat) (prio state : Nat) (save : Word) (yidx : Nat) (role flags : Nat)
    (count : Nat) (grp : BitVec 36) (cause : Nat) (s1 s2 s3 : Word) : List Byte :=
  toLE 8 pc.toNat ++ toLE 4 strand ++ toLE 2 launch ++ toLE 1 prio ++ toLE 1 state ++ toLE 8 save.toNat ++ toLE 2 yidx ++
  toLE 1 role ++ toLE 1 flags ++ toLE 4 count ++ toLE 4 (getAt grp 0 32) ++ toLE 4 cause ++ toLE 8 s1.toNat ++
  toLE 8 s2.toNat ++ toLE 8 s3.toNat

/-- The record of a context's strand as the dispatcher writes it (R184, R194). -/
def Context.record (x : Context) (pc : Word) (state flags count cause : Nat) : List Byte :=
  recordBytes pc x.strandid.toNat x.launchid.toNat x.base.toNat state x.savearea x.yindex.toNat x.role
    (getAt x.grp 32 4 + flags) count x.grp cause (x.rg 1) (x.rg 2) (x.rg 3)

/-- The reservation returns to the unreserved account under its cap (R302). -/
def State.returnLeave (s : State) (c : CtxLoc) : State :=
  let r := (s.ctxAt c).resv
  let u := s.subAt c.pcl c.sub
  (s.setSub c.pcl c.sub { u with account := min Config.accountCap (u.account + r) }).onCtx c fun x => { x with resv := 0 }

/-- A queue without its words; its sequence counts go past them. -/
def Queue.drop (q : Queue) : Queue := { q with items := [], started := q.issued, finished := q.issued }

/-- The parked words and points are gone (R350, R351). -/
def Context.dropWords (x : Context) : Context :=
  { x with qv := x.qv.drop, qm := x.qm.drop, ql := x.ql.drop, qe := x.qe.drop, lane := [], hold := .none }

/-- Every token queue is empty; the counts keep running (R351). -/
def Context.emptyToks (x : Context) : Context :=
  (List.range 16).foldl (fun x q => { x with toks := tset x.toks q { tget x.toks q {} with toks := [] } {} }) x

/-- The context without its strand: its words and tokens are gone, and nothing of it waits. Its registers, its window and its
accumulators keep their contents until a dispatch sets them (R33, R38). -/
def Context.idle (x : Context) : Context :=
  { x.dropWords.emptyToks with
    resident := false, serial := x.serial + 1, parked := false, halt := none, marked := none, debug := false, replies := [],
    drain := .none, heldPush := [], heldReply := [], heldWait := [], evreg := none, waits := [], preq := false,
    counting := false, slotsNext := none }

/-- The context holds no strand any more. -/
def State.idleCtx (s : State) (c : CtxLoc) : State :=
  let s := (s.returnLeave c).onCtx c Context.idle
  let u := s.subAt c.pcl c.sub
  let s := s.setSub c.pcl c.sub { u with waiters := u.waiters.filter fun w => w.1 != c.ctx }
  s.onClu c.pcl fun cl => if cl.preempting = some (ckey c) then { cl with preempting := none } else cl

/-- Physical address of a launch's group entry, for a strand of the partition (R202). -/
def groupEntry (s : State) (pcl p : Nat) (l : Launch) (g : Nat) : Except (BitVec 8) Nat :=
  translate s pcl p (l.groups.toNat + 16 * g) .atomic

/-- A strand whose record could not be written is not dispatched again: what stands in the record is of no account (R434). -/
def State.loseRecord (s : State) (p launch strand : Nat) : State :=
  s.onPart p fun q =>
    match tfind q.launches launch with
    | none => q
    | some l => { q with launches := tput q.launches launch { l with unmade := l.unmade ++ [strand] } }

/-- The end of a strand: memberships lowered (R204), the record EXITED (R434), the launch told (R213). A group entry that does not
translate for an atomic is not lowered, and nothing says so (DESIGN CHOICE, log 40). -/
def State.endStrand (s : State) (c : CtxLoc) (undrained : Bool) (err : Option (BitVec 8 × Word)) : State :=
  let x := s.ctxAt c
  let lower := fun (s : State) (k : Nat) =>
    if getAt x.grp (32 + k) 1 = 1 then
      match s.launchOf x with
      | none => s
      | some l =>
        let g := getAt x.grp (8 * k) 8
        match groupEntry s c.pcl x.part l g with
        | .error _ => s.noteWalk c.pcl x.part (l.groups.toNat + 16 * g)
        | .ok pa =>
          let (st, s) := s.stampWrite (dieOf c.pcl) x.obs
          { s with arrivals := s.arrivals ++ [⟨x.part, pa, g, x.launchid.toNat, true, c, x.serial, none, false, st⟩] }
    else s
  let s := (List.range 4).foldl lower s
  let (s, w) := s.vstore c.pcl x.part x.obs x.recaddr.toNat
    (x.record x.pc 6 (if undrained then 64 else 0) x.age.toNat 0)
  let rep := fun (e : BitVec 8 × Word) => (e.1, e.2, x.strandid.toNat, ctxloc c)
  let err := (err.map rep).or (w.map fun e => rep (e.1, x.recaddr))
  let s :=
    if w.isSome then
      { s with mgr := { s.mgr with log := s.mgr.log ++ [(434, ckey c, x.part)] } }.loseRecord x.part x.launchid.toNat x.strandid.toNat
    else s
  (s.countEnd x.part x.launchid.toNat err).idleCtx c

/-! ### What observes the machine: monitors (R363, R364), the wait log (R359) and replay capture (R362) -/

/-- A sample of a monitor: count, sum, minimum, maximum and one bin (R363). -/
def monSample (m : Mon) (v : BitVec 32) : Mon :=
  let shift := bitsOf m.cfg 40 4
  let origin := bitsOf m.cfg 8 32
  let bin := min 31 ((v.toNat - origin) / 2 ^ shift)
  let old := tget m.bins bin 0
  { m with
    count := m.count + 1
    sum := m.sum + v.setWidth 64
    min := if m.count = 0 || v.toNat < m.min.toNat then v else m.min
    max := if m.max.toNat < v.toNat then v else m.max
    bins := tset m.bins bin (if old = BitVec.allOnes 32 then old else old + 1) 0 }

/-- A sample of a source: every enabled monitor of the cluster on that source takes it (R363, R364). -/
def State.sample (s : State) (pcl src : Nat) (v : BitVec 32) : State :=
  s.onClu pcl fun cl =>
    { cl with mons := cl.mons.map fun e =>
        if bitOf e.2.cfg 0 && bitsOf e.2.cfg 48 8 = src then (e.1, monSample e.2 v) else e }

/-- A sample of a number, saturating. -/
def State.sampleNat (s : State) (pcl src n : Nat) : State := s.sample pcl src (BitVec.ofNat 32 (min n (2 ^ 32 - 1)))

/-- A sample whose cycles are a free value (log 6). -/
def State.sampleFree (s : State) (pcl src : Nat) : State :=
  { s.sample pcl src (Config.freeSample s.free) with free := s.free + 1 }

/-- The kinds of logged waits (R359). -/
def wTok : BitVec 8 := 1
def wEvent : BitVec 8 := 2
def wRing : BitVec 8 := 3
def wOwner : BitVec 8 := 4
def wLeave : BitVec 8 := 5
def wQueue : BitVec 8 := 6
def wGroup : BitVec 8 := 7
def wPool : BitVec 8 := 8

/-- A wait begins: unit 0 to 3 is an engine, 4 the front end (R359). -/
def Context.waitMark (x : Context) (unit : Nat) (kind : BitVec 8) (obj : Word) : Context :=
  if (tfind x.waits unit).isSome then x else { x with waits := tput x.waits unit (kind, obj) }

/-- The 32 bytes of an entry (R359). -/
def waitBytes (w : WaitEntry) : List Byte :=
  toLE 2 w.loc.toNat ++ toLE 1 w.kind.toNat ++ toLE 1 w.ended.toNat ++ toLE 4 w.strand.toNat ++ toLE 8 w.obj.toNat ++
  toLE 4 w.cyc.toNat ++ toLE 4 w.seq.toNat ++ toLE 2 w.ender.toNat ++ toLE 4 w.eseq.toNat ++ toLE 2 0

/-- An entry of the wait log is appended at its place in the ring; a full ring drops it and counts the loss (R359). -/
def State.logWait (s : State) (pcl : Nat) (w : WaitEntry) : State :=
  let cl := s.cluAt pcl
  let n := cl.waitlog.length
  if n < cl.waitcap then
    applyBytes (s.setClu pcl { cl with waitlog := cl.waitlog ++ [w] }) (cl.waitbase + 32 * n) (waitBytes w) false {}
  else s.setClu pcl { cl with waitlost := cl.waitlost + 1 }

/-- The party that has ended a wait, and its sequence number (R359): for a token of V, M or L the last word that its sender has
finished, for leave the control boundary that the head has waited through; else unknown. -/
def enderOf (s : State) (c : CtxLoc) (w : BitVec 8 × Word) : BitVec 16 × BitVec 32 :=
  if w.1 = wTok && bitsOf w.2 2 2 != 3 then
    let e := bitsOf w.2 2 2
    ((ctxloc c).setWidth 16, BitVec.ofNat 32 (e * 2 ^ 30 + (((s.ctxAt c).queue (engOf e)).finished - 1).toNat % 2 ^ 30))
  else if w.1 = wLeave && (s.subAt c.pcl c.sub).waiters.contains (c.ctx, true) then (0xFFFF, 0)
  else (0xFFFE, 0)

/-- The sequence number of the word that a wait of a unit is of: a V word that waits for the flip of its target, or the first word of the
queue that has not started or stands at a resumption step (R359). -/
def Context.waitingSeq (x : Context) (unit : Nat) : BitVec 32 :=
  let q := x.queue (engOf unit)
  let flip := q.items.find? fun i => unit = 0 && i.target.isSome && (match i.phase with | .going => true | _ => false)
  let next := q.items.find? fun i => match i.phase with | .idle | .parked _ => true | _ => false
  ((flip.or next).map Item.seq).getD q.started

/-- The entry of a wait of a context; the cycles waited are a free value (log 6). -/
def waitEntry (s : State) (c : CtxLoc) (unit : Nat) (w : BitVec 8 × Word) (ended : BitVec 8) (ender : BitVec 16)
    (eseq : BitVec 32) : WaitEntry where
  loc := ctxloc c
  kind := w.1
  ended := ended
  strand := (s.ctxAt c).strandid.setWidth 32
  obj := w.2
  cyc := Config.freeWait s.free
  seq := if unit < 4 then ((((s.ctxAt c).waitingSeq unit).setWidth 30).setWidth 32 : BitVec 32) ||| BitVec.ofNat 32 (unit * 2 ^ 30) else 0
  ender := ender
  eseq := eseq

/-- A wait ends: it is logged, and sampled as a wait length (R359, R364). -/
def State.waitEnd (s : State) (c : CtxLoc) (unit : Nat) (ended : BitVec 8) : State :=
  match tfind (s.ctxAt c).waits unit with
  | none => s
  | some w =>
    let by_ := if ended = 0 then enderOf s c w else (0xFFFE, 0)
    let e := waitEntry s c unit w ended by_.1 by_.2
    let s := (s.onCtx c fun x => { x with waits := tdel x.waits unit }).logWait c.pcl e
    { s.sample c.pcl 1 e.cyc with free := s.free + 1 }

/-- Every wait of a context ends, with one end code (R359). -/
def State.waitsEnd (s : State) (c : CtxLoc) (ended : BitVec 8) : State :=
  (List.range 5).foldl (fun s u => s.waitEnd c u ended) s

/-! ### Replay capture (R362): an action is a kind, a place and an actor -/

/-- Kinds of captured actions: a dispatch of a cluster, a balancer decision, a Moss atomic at a bank, a change of an
event counter. -/
def capDispatch : Nat := 0
def capBalance : Nat := 1
def capAtomic : Nat := 2
def capCounter : Nat := 3

/-- The name of a strand as an actor. -/
def whoOf (x : Context) : Nat := x.launchid.toNat * 2 ^ 24 + x.strandid.toNat

/-- The name of an engine command, and of the hardware, as actors. -/
def whoEngine (pcl e : Nat) : Nat := 2 ^ 40 + 16 * pcl + e
def whoHardware : Nat := 2 ^ 41

/-- Whether a replay lets an action take place: its recorded predecessors at that place have taken place. -/
def State.mayAct (s : State) (p kind place who : Nat) : Bool :=
  match (s.partAt p).capture.replay with
  | none => true
  | some l =>
    match l.find? fun e => e.1 = kind && e.2.1 = place with
    | some e => e.2.2 = who
    | none => true

/-- The bytes of a captured action in the capture buffer (log 45). -/
def captureBytes (kind place who : Nat) : List Byte := toLE 8 kind ++ toLE 8 place ++ toLE 8 who

/-- An action takes place: capture records it, in the buffer in device memory too; a replay crosses it off. -/
def State.acted (s : State) (p kind place who : Nat) : State :=
  let k := (s.partAt p).capture
  if k.on || k.replay.isSome then
    let s := if k.on then applyBytes s (k.buffer + 24 * k.log.length) (captureBytes kind place who) false {} else s
    s.onPart p fun q =>
      { q with capture := { k with log := if k.on then k.log ++ [(kind, place, who)] else k.log,
                                   replay := k.replay.map fun l => l.erase (kind, place, who) } }
  else s

/-! ### Halts, the cut, trap entry and return (R343 to R351) -/

/-- The resumption step of an item, in stop-record form (R346). -/
def stepCode (i : Item) : Nat :=
  match i.phase with
  | .parked n => n % 65536
  | .pushing qs => 2 ^ 31 + qs.toNat
  | .complete => 0xFFFF
  | _ => 0

/-- A point of a queue, and not a word of it (R115): TOKPOST, FENCE, and the words whose action is made at a post
point. -/
def Instr.isPoint : Instr → Bool
  | .tokpost _ _ | .fence _ _ | .evadd _ _ _ | .evset _ _ | .bar _ | .bararr _ _ | .launch _ _ | .launchBlock _ _
  | .mclass _ _ _ _ | .mfree _ _ _ | .mrefresh _ _ _ | .mage _ _ | .mquery _ _ _ => true
  | _ => false

/-- The item is the marked word: a point has the sequence number of the word after it, so the address tells them apart. -/
def Item.isMarked (i : Item) (e : Eng) (mark : Option (Eng × BitVec 32 × Word)) : Bool :=
  mark.any fun m => m.1 = e && m.2.1 = i.seq && m.2.2 = i.pc

/-- The head word of a queue: the first that is no point, or a marked TOKPOST (R344). -/
def Queue.head? (q : Queue) (e : Eng) (mark : Option (Eng × BitVec 32 × Word)) : Option Item :=
  q.items.find? fun i => !Instr.isPoint i.ins || i.isMarked e mark

/-- The stop record of an engine (R346). The cycles from the halt to the cut are a free value (log 6). -/
def stopRecord (x : Context) (e : Eng) (mark : Option (Eng × BitVec 32 × Word)) (cyc : BitVec 32) : List Byte :=
  let q := x.queue e
  let h := q.head? e mark
  let st :=
    match h with
    | none => 0
    | some i =>
      if i.isMarked e mark then 3
      else match i.phase with
        | .idle => 1
        | _ => 2
  let outq := (otherEngs e).map fun r => tget x.toks (tq e r) {}
  let inq := (otherEngs e).map fun r => tget x.toks (tq r e) {}
  toLE 1 (Eng.num e) ++ toLE 1 st ++ toLE 2 0 ++ toLE 4 cyc.toNat ++ toLE 4 q.started.toNat ++ toLE 4 q.finished.toNat ++
  toLE 4 (h.elim 0 stepCode) ++ toLE 4 0 ++ (outq.flatMap fun t => toLE 4 t.pushes.toNat) ++ toLE 4 0 ++
  (inq.flatMap fun t => toLE 4 t.pops.toNat) ++ toLE 4 0 ++ toLE 8 (h.elim 0 fun i => i.pc.toNat)

/-- The four stop records. -/
def stopRecords (x : Context) (mark : Option (Eng × BitVec 32 × Word)) (free : Nat) : List Byte :=
  stopRecord x .v mark (Config.freeWait free) ++ stopRecord x .m mark (Config.freeWait free) ++
  stopRecord x .l mark (Config.freeWait free) ++ stopRecord x .e mark (Config.freeWait free)

/-- A debug halt is taken: `epc`, `eissue` and `emark` are recorded, the queues are parked, and the management controller is told
(R344, R358). -/
def State.debugTaken (s : State) (c : CtxLoc) (epc : Word) (mark : Option (Eng × BitVec 32 × Word)) : State :=
  { s.onCtx c fun x =>
      { x with debug := true, halt := none, parked := true, epc := epc, eissue := x.pc,
               emark := mark.elim 0 (fun m => m.2.2 ||| 1), marked := mark.map (fun m => (m.1, m.2.1)) } with
    mgr := { s.mgr with told := s.mgr.told ++ [ckey c] } }

/-- A fault inside a handler, an unhandled trap or a failing save access: debug halt, or the strand ends with error (R350). A failing
save is given up for the debug halt. -/
def State.endError (s : State) (c : CtxLoc) (cause : BitVec 8) (tval : Word) : State :=
  let x := s.ctxAt c
  if x.dbgctl.getLsbD 2 then
    let s := s.onCtx c fun x =>
      { x with ecause := cause.setWidth 64, etval := tval, drain := match x.drain with | .saving _ _ _ _ _ _ => .none | d => d }
    match x.halt with
    | some h => s.debugTaken c h.epc h.mark
    | none => s.debugTaken c x.pc none
  else (s.onCtx c Context.dropWords).endStrand c false (some (cause, tval))

/-- `stat` in a handler: supervisor, handler running, data watches off (R348). -/
def trapStat (w : Word) : Word := putBits (putBits w 0 2 3) 3 1 0

/-- Trap entry (R344, R348): the saved registers, the stop records on their way to +0x0F00 of the save area (R354), the handler's mode
and the handler's address. With `tvec` 0 the trap is unhandled, and a failing stop-record write ends the strand (R350). -/
def State.trapEntry (s : State) (c : CtxLoc) (h : Halt) : State :=
  let x := s.ctxAt c
  if bitsOf x.tvec 2 62 = 0 then s.endError c (x.ecause.setWidth 8) x.etval
  else
    let recs := stopRecords x h.mark s.free
    let (s, w) := { s with free := s.free + 1 }.sendSave c (x.savearea.toNat + 0x0F00) recs false
    match w with
    | some (cause, va) => s.endError c cause (BitVec.ofNat 64 va)
    | none =>
      s.onCtx c fun x =>
        { x with estat := fullStat x.stat c.ctx, stat := trapStat x.stat, epc := h.epc, eissue := x.pc, pc := x.tvec,
                 emark := h.mark.elim 0 (fun m => m.2.2 ||| 1), marked := h.mark.map (fun m => (m.1, m.2.1)),
                 parked := true, halt := none, evreg := none }

/-- MOSS words (R233). -/
def isMossWord : Instr → Bool
  | .mclass _ _ _ _ | .mfree _ _ _ | .mrefresh _ _ _ | .mage _ _ | .mquery _ _ _ => true
  | _ => false

/-- The point at the head of a queue is reached: every word ahead of it has finished (R110, R115). -/
def Queue.atPoint (q : Queue) : Bool :=
  match q.items with
  | i :: _ => Instr.isPoint i.ins && !isMossWord i.ins && (match i.phase with | .idle => true | _ => false)
  | [] => false

/-- A context whose state is being saved or restored runs nothing (R353, R355). -/
def Drain.away : Drain → Bool
  | .saving _ _ _ _ _ _ | .saved _ _ _ _ _ | .restoring _ => true
  | _ => false

/-- The halt leads to a hardware save. -/
def Context.toSave (x : Context) : Bool := x.halt.any fun h => match h.why with | .save _ _ _ _ _ _ => true | _ => false

/-- A V or M word in flight, an L word whose part is in flight or whose finish is next, or a point that is reached
(R345). A save has no place for words of the handler lane, so its cut waits for them (R354, log 20). -/
def Context.inFlight (x : Context) : Bool :=
  (!x.parked && (x.qv.atPoint || x.qm.atPoint || x.ql.atPoint || x.qe.atPoint)) ||
  ((x.qv.items ++ x.qm.items ++ x.ql.items.filter fun i => Instr.isPoint i.ins).any fun i =>
    match i.phase with | .going => true | _ => false) ||
  (x.ql.items ++ x.lane).any (fun i => i.parts.any LPart.flying) || (x.toSave && !x.lane.isEmpty) ||
  (match x.ql.items with
    | i :: _ => (match i.phase with | .complete => i.fault.isNone | _ => false)
    | [] => false)

/-- An L word that only reads. -/
def Instr.readsOnly : Instr → Bool
  | .ld _ _ _ _ | .lda _ _ _ _ | .vld _ | .vldx _ | .mld _ => true
  | _ => false

/-- The resumption step of an L word that has found a fault (R104, R159, R344): of a store or an atomic, the first part that is not over;
of a load, whose data the fault drops, the part at which it started, or after an error of a far row the first part of that row. -/
def Item.nextPart (i : Item) : Nat :=
  match i.parts.find? fun p => !p.isDone with
  | none => i.time
  | some p =>
    if !Instr.readsOnly i.ins then p.idx
    else if i.fault.any fun f => f.cause = 0x0F then max i.time (((i.parts.find? fun q => q.row = p.row).map LPart.idx).getD p.idx)
    else i.time

/-- An L word that stands at a part: what it has captured for the parts is read again when it starts. -/
def Item.parkL (i : Item) (n : Nat) : Item :=
  { i with phase := .parked n, fault := none, parts := [], vis := [], rows := [], wrote := [],
           inv := i.inv || i.parts.any fun p => p.inv && p.idx < n }

/-- The first part of a load that has not returned. -/
def Item.reached (i : Item) : Nat := ((i.parts.find? fun p => !p.isDone).map LPart.idx).getD i.time

/-- The oldest L word at a cut: a load writes what it has had returned, and stands at its next part. It stays where it started if it has
found a fault or a row forbids its write: its check is repeated (R344, R345). -/
def Context.stopHead (x : Context) : Context :=
  match x.ql.items with
  | [] => x
  | i :: r =>
    match i.phase, i.fault, Instr.readsOnly i.ins with
    | .going, none, true =>
      match writeParts x i (fun _ => true) fun k => k < i.reached with
      | .ok y => { y.observe i.stamp with ql := { x.ql with items := i.parkL i.reached :: r } }
      | .error _ => x
    | _, _, _ => x

/-- A started L word at a cut: a store stands at its next part; a fault that it has found is not raised, and its check is repeated. A
complete store or atomic stays performed. A load, which writes nothing while an earlier word has not finished, is made again (R104, R160,
R344, R345). -/
def Item.stopL (i : Item) : Item :=
  match i.phase with
  | .going => i.parkL (if Instr.readsOnly i.ins then i.time else i.nextPart)
  | .complete =>
    if Instr.readsOnly i.ins then i.parkL i.time else if i.fault.isSome then i.parkL i.nextPart else i
  | _ => i

/-- The L words of a context at a cut. -/
def Context.stopL (x : Context) : Context :=
  let y := x.stopHead
  { y with ql := { y.ql with items := y.ql.items.map fun i => if Instr.isPoint i.ins then i else i.stopL } }

/-- The cut: what a raised halt leads to once no work of the context is in flight (R345, R348, R350, R353, R358). -/
def State.cut (s : State) (c : CtxLoc) : State :=
  let x := s.ctxAt c
  match x.halt with
  | none => s
  | some h =>
    let s := (s.onCtx c Context.stopL).waitsEnd c (match h.why with | .save r _ _ _ _ _ => if r = 0x14 then 1 else 4 | _ => 2)
    match h.why with
    | .fault => if x.intrap then s.endError c (x.ecause.setWidth 8) x.etval else s.trapEntry c h
    | .debug => s.debugTaken c h.epc h.mark
    | .save r f w k pc thr =>
      s.onCtx c fun x => { x with halt := none, drain := .saving r f w k pc thr }

/-- The cut at once, where nothing is in flight; STOP_RECORD_CUT makes it otherwise. -/
def State.settle (s : State) (c : CtxLoc) : State := if (s.ctxAt c).inFlight then s else s.cut c

/-- SignalFault (R6): the cause registers and the halt line. Only one fault is taken per halt (R345). Outside a handler a breakpoint or
a data watch takes a debug halt instead of trapping where `dbgctl` says so; inside one `fhalt` alone decides (R117, R350, R356). -/
def State.raise (s : State) (c : CtxLoc) (cause : BitVec 8) (tval epc : Word)
    (mark : Option (Eng × BitVec 32 × Word)) : State :=
  let x := s.ctxAt c
  if x.halt.isSome || x.debug || !x.resident then s
  else
    let debug : Bool := !x.intrap && ((cause = 0x16 && x.dbgctl.getLsbD 0) || (cause = 0x17 && x.dbgctl.getLsbD 1))
    (s.onCtx c fun x =>
      { x with ecause := cause.setWidth 64, etval := tval, halt := some ⟨if debug then .debug else .fault, epc, mark⟩ }).settle c

/-- A fault at issue or in the scalar unit of the focused context: `epc` is the word's address (R344). -/
def State.fault (s : State) (cause : BitVec 8) (tval : Word) : State := s.raise s.focus cause tval s.cx.pc none

/-- A debug halt (R358). -/
def State.debugHalt (s : State) (c : CtxLoc) : State :=
  let x := s.ctxAt c
  if x.halt.isSome || x.debug || !x.resident then s
  else (s.onCtx c fun x => { x with halt := some ⟨.debug, x.pc, none⟩ }).settle c

/-- Reserved bits of `stat` (R10). -/
def statReserved (w : Word) : Bool := bitsOf w 4 2 != 0 || bitsOf w 11 53 != 0

/-- A queue without the first item that satisfies a test; its sequence counts go past a word. -/
def Queue.dropItem (q : Queue) (t : Item → Bool) : Queue :=
  match q.items.find? t with
  | none => q
  | some i =>
    if Instr.isPoint i.ins then { q with items := q.items.erase i }
    else { q with items := q.items.erase i, finished := q.finished + 1,
                  started := match i.phase with | .idle => q.started + 1 | _ => q.started }

/-- The marked word is gone (R351), and with it what it held the front end for: an ENG word's command, a BAR's phase, the pool's reply. -/
def Context.discardMarked (x : Context) : Context :=
  match x.marked with
  | none => x
  | some (g, n) =>
    let gone := fun (i : Item) => i.isMarked g (some (g, n, putBits x.emark 0 1 0))
    let word := ((x.queue g).items.find? gone).map Item.ins
    let holds : Bool := match x.hold, word with
      | .command id, _ => g = .e && id = n.toNat
      | .arriving, some (.bar _) | .pool, some (.launchBlock _ _) => true
      | _, _ => false
    let x := if holds then { x with hold := .none } else x
    x.setQueue g ((x.queue g).dropItem gone)

/-- A redirect ends the drain of an EXIT, a YIELD or a SUSPEND: the front end issues again (R351, log 16). -/
def Drain.redirected : Drain → Drain
  | .exit | .yielded | .suspended _ _ _ _ => .none
  | d => d

/-- Continues a halted or returning context by the value of `epc` (R351): retry, continue or redirect. -/
def Context.resume (x : Context) : Context :=
  let x := { x with parked := false, debug := false }
  if bitOf x.emark 0 && x.epc = putBits x.emark 0 1 0 then { x with pc := x.eissue, marked := none }
  else if x.epc = x.eissue then { x.discardMarked with pc := x.eissue, marked := none }
  else { x.dropWords.emptyToks with pc := x.epc, marked := none, drain := x.drain.redirected }

/-- Return from a handler, its checks passed (R120, R351): `stat` from `estat` but for `stat.ctx`, then by `epc`. -/
def Context.trapReturn (x : Context) : Context :=
  { x with stat := putBits x.estat 6 2 (bitsOf x.stat 6 2) }.resume

end Sys2Proof.Machine
end

