-- ==== Sys2Proof/Machine/Operands.lean ====
section
/-!
DEFINITION. Operand forms and issue: which registers a word reads and writes, what holds a word at issue (R29), what
a handler may issue (R349), and how a word enters an engine queue with the values it captures (R26, R28).
-/
namespace Sys2Proof.Machine

/-- The scalar registers that an instruction reads at issue. -/
def reads : Instr → List Reg
  | .add _ a b | .sub _ a b | .and _ a b | .or _ a b | .xor _ a b | .shl _ a b | .shr _ a b | .sar _ a b | .rol _ a b
  | .slt _ a b | .sltu _ a b | .min _ a b | .max _ a b | .minu _ a b | .maxu _ a b | .andn _ a b
  | .mul _ a b | .mulh _ a b | .mulhu _ a b | .div _ a b | .divu _ a b | .rem _ a b | .remu _ a b
  | .fadd _ a b | .fsub _ a b | .fmul _ a b | .fmin _ a b | .fmax _ a b
  | .fcmpeq _ a b | .fcmplt _ a b | .fcmple _ a b => [a, b]
  | .ffma d a b => [d, a, b]
  | .clz _ a | .popc _ a | .addi _ a _ | .andi _ a _ | .ori _ a _ | .xori _ a _ | .slti _ a _ | .sltui _ a _
  | .shli _ a _ | .shri _ a _ | .sari _ a _ | .roli _ a _ | .fcvtif _ a | .fcvtfi _ a | .jalr _ a _ => [a]
  | .beq a b _ | .bne a b _ | .blt a b _ | .bge a b _ | .bltu a b _ | .bgeu a b _ => [a, b]
  | .ld _ _ a _ | .lda _ _ _ a => [a]
  | .st _ b a _ | .stl _ _ b a => [a, b]
  | .amoSwap _ _ _ _ a b | .amoAdd _ _ _ _ a b | .amoAnd _ _ _ _ a b | .amoOr _ _ _ _ a b | .amoXor _ _ _ _ a b
  | .amoMin _ _ _ _ a b | .amoMax _ _ _ _ a b | .amoMinu _ _ _ _ a b | .amoMaxu _ _ _ _ a b
  | .amoFadd _ _ _ a b => [a, b]
  | .cas _ _ _ d a b => [d, a, b]
  | .cvta _ _ _ a | .spchk _ _ a => [a]
  | .mts _ a | .mtsFpflags a | .mtsSlotmask a | .mtsPreq a | .mtsLeavegrant a | .mtsMosslim _ a | .mtsLeaveclus a
  | .mtsLeaveslot a | .mtsBiasctl a | .mtsMon _ a | .mtsMonsnap a | .mtsPwrevt a => [a]
  | .trap a | .ownwait a | .barwait _ a | .launch _ a | .launchBlock _ a | .evrd _ a | .rpsh _ a | .rinit _ a
  | .mage _ a | .leave _ a => [a]
  | .suspend _ a b | .evadd _ a b | .evwait _ a b | .evset a b | .mclass _ _ a b | .mfree _ a b | .mrefresh _ a b
  | .mquery _ a b => [a, b]
  | .engCopy f | .engFill f | .engRefresh f | .engGather f | .engScatter f | .engScatteradd f | .engColl f
  | .engFamo f | .engFcas f | .engEvsig f | .engTwset f | .engTwclr f | .engTwbud f | .engTkcmt f | .engTkconf f
  | .engTkrej f | .engTwstat f | .engSeqopen f | .engSeqclose f | .engWswap f | .engWstat f | .engCqry f => [f.rs1, f.rs2]
  | i =>
    match i.vparts with
    | some (op, f) =>
      (if op.isL then [f.va.setWidth 5] else []) ++
      (match op with
        | .vld | .vst | .mld | .mst => [f.vb.setWidth 5]
        | _ => if f.bs then [f.vb.setWidth 5] else [])
    | none => []

/-- The scalar register that an instruction writes. -/
def writes : Instr → Option Reg
  | .add d _ _ | .sub d _ _ | .and d _ _ | .or d _ _ | .xor d _ _ | .shl d _ _ | .shr d _ _ | .sar d _ _ | .rol d _ _
  | .slt d _ _ | .sltu d _ _ | .min d _ _ | .max d _ _ | .minu d _ _ | .maxu d _ _ | .andn d _ _
  | .mul d _ _ | .mulh d _ _ | .mulhu d _ _ | .div d _ _ | .divu d _ _ | .rem d _ _ | .remu d _ _
  | .fadd d _ _ | .fsub d _ _ | .fmul d _ _ | .ffma d _ _ | .fmin d _ _ | .fmax d _ _
  | .fcmpeq d _ _ | .fcmplt d _ _ | .fcmple d _ _
  | .clz d _ | .popc d _ | .addi d _ _ | .andi d _ _ | .ori d _ _ | .xori d _ _ | .slti d _ _ | .sltui d _ _
  | .shli d _ _ | .shri d _ _ | .sari d _ _ | .roli d _ _ | .fcvtif d _ | .fcvtfi d _ | .lui d _ | .addpc d _
  | .jal d _ | .jalr d _ _ | .ld _ d _ _ | .lda _ _ d _
  | .amoSwap _ _ _ d _ _ | .amoAdd _ _ _ d _ _ | .amoAnd _ _ _ d _ _ | .amoOr _ _ _ d _ _ | .amoXor _ _ _ d _ _
  | .amoMin _ _ _ d _ _ | .amoMax _ _ _ d _ _ | .amoMinu _ _ _ d _ _ | .amoMaxu _ _ _ d _ _ | .amoFadd _ _ d _ _
  | .cas _ _ _ d _ _ | .cvta _ _ d _ | .spchk _ d _ | .mfs _ d
  | .suspend d _ _ | .bararr d _ | .grpinfo d _ | .launch d _ | .launchBlock d _ | .evwait d _ _ | .evrd d _ | .rpop d _
  | .mclass _ d _ _ | .mfree d _ _ | .mrefresh d _ _ | .mage d _ | .mquery d _ _ | .leave d _ | .leaverd d => some d
  | .engCopy f | .engFill f | .engRefresh f | .engGather f | .engScatter f | .engScatteradd f | .engColl f
  | .engFamo f | .engFcas f | .engEvsig f | .engTwset f | .engTwclr f | .engTwbud f | .engTkcmt f | .engTkconf f
  | .engTkrej f | .engTwstat f | .engSeqopen f | .engSeqclose f | .engWswap f | .engWstat f | .engCqry f =>
    if f.reply then some f.rd else none
  | .mcnt f | .mfirst f => some (f.vd.setWidth 5)
  | _ => none

/-- The mask registers that an instruction reads (R26, R138, R143, R156). -/
def maskReads (i : Instr) : List Nat :=
  match i with
  | .mand f | .mor f | .mxor f => [f.va.toNat, f.vb.toNat]
  | .mnot f | .mcnt f | .mfirst f => [f.va.toNat]
  | .mst f => [f.vd.toNat]
  | .vretag _ => []
  | i =>
    match i.vparts with
    | some (_, f) => [f.mask.toNat]
    | none => []

/-- The mask register that an instruction writes. -/
def maskWrites : Instr → Option Nat
  | .vcmp f | .mand f | .mor f | .mxor f | .mnot f | .mld f => some f.vd.toNat
  | _ => none

/-- Scalar registers that earlier words have yet to write; in a handler only the handler's own words count
(R29, R349). -/
def Context.pending (x : Context) : List Nat :=
  if x.intrap then x.lane.filterMap fun i => (writes i.ins).map BitVec.toNat
  else (x.qv.items ++ x.ql.items ++ x.qe.items).filterMap (fun i => (writes i.ins).map BitVec.toNat) ++ x.replies

/-- Mask registers that earlier words have yet to write. -/
def Context.pendingMasks (x : Context) : List Nat :=
  if x.intrap then [] else (x.qv.items ++ x.ql.items).filterMap fun i => maskWrites i.ins

/-- The engine queue that a word enters (R28, R54). -/
def targetQueue : Instr → Option Eng
  | .ld _ _ _ _ | .st _ _ _ _ | .lda _ _ _ _ | .stl _ _ _ _ | .amoSwap _ _ _ _ _ _ | .amoAdd _ _ _ _ _ _
  | .amoAnd _ _ _ _ _ _ | .amoOr _ _ _ _ _ _ | .amoXor _ _ _ _ _ _ | .amoMin _ _ _ _ _ _ | .amoMax _ _ _ _ _ _
  | .amoMinu _ _ _ _ _ _ | .amoMaxu _ _ _ _ _ _ | .amoFadd _ _ _ _ _ | .cas _ _ _ _ _ _ => some .l
  | .mma _ | .mmaz _ | .aclr _ | .aswap _ | .adrain _ => some .m
  | .engCopy _ | .engFill _ | .engRefresh _ | .engGather _ | .engScatter _ | .engScatteradd _ | .engColl _
  | .engFamo _ | .engFcas _ | .engEvsig _ | .engTwset _ | .engTwclr _ | .engTwbud _ | .engTkcmt _ | .engTkconf _
  | .engTkrej _ | .engTwstat _ | .engSeqopen _ | .engSeqclose _ | .engWswap _ | .engWstat _ | .engCqry _ => some .e
  | i =>
    match i.vparts with
    | some (op, _) => some (if op.isL then .l else .v)
    | none => none

/-- Words that a queue holds (R28). -/
def Queue.words (q : Queue) : Nat := (q.items.filter fun i => !Instr.isPoint i.ins).length

/-- The queue that a word enters holds 16 words (R28, R29). -/
def Context.full (x : Context) (i : Instr) : Bool :=
  !x.intrap && (match targetQueue i with
    | some g => 16 ≤ (x.queue g).words
    | none => false)

/-- The hold of R29: for registers, where s0 and m0 hold nothing, and for a full queue. -/
def Context.holds (x : Context) (i : Instr) : Bool :=
  let p := x.pending
  let m := x.pendingMasks
  (reads i ++ (writes i).toList).any (fun r => r != 0 && p.contains r.toNat) ||
  (maskReads i).any (fun k => k != 0 && m.contains k) || x.full i

/-- The words that a handler may issue (R349). -/
def handlerOk : Instr → Bool
  | .evrd _ _ | .leaverd _ | .ownwait _ | .trap _ | .tret | .bkpt | .exit | .fence _ _ | .cvta _ _ _ _ | .spchk _ _ _
  | .mfs _ _ | .mts _ _ | .mtsFpflags _ | .mtsSlotmask _ | .mtsPreq _ | .mtsLeavegrant _ | .mtsMosslim _ _
  | .mtsLeaveclus _ | .mtsLeaveslot _ | .mtsBiasctl _ | .mtsMon _ _ | .mtsMonsnap _ | .mtsPwrevt _
  | .beq _ _ _ | .bne _ _ _ | .blt _ _ _ | .bge _ _ _ | .bltu _ _ _ | .bgeu _ _ _ | .st _ _ _ _ | .stl _ _ _ _ => true
  | .suspend _ _ _ | .bararr _ _ | .grpinfo _ _ | .launch _ _ | .launchBlock _ _ | .evwait _ _ _ | .rpop _ _
  | .mclass _ _ _ _ | .mfree _ _ _ | .mrefresh _ _ _ | .mage _ _ | .mquery _ _ _ | .leave _ _ | .mcnt _ | .mfirst _
  | .engCopy _ | .engFill _ | .engRefresh _ | .engGather _ | .engScatter _ | .engScatteradd _ | .engColl _
  | .engFamo _ | .engFcas _ | .engEvsig _ | .engTwset _ | .engTwclr _ | .engTwbud _ | .engTkcmt _ | .engTkconf _
  | .engTkrej _ | .engTwstat _ | .engSeqopen _ | .engSeqclose _ | .engWswap _ | .engWstat _ | .engCqry _ => false
  | i => (writes i).isSome

/-- An overdue near access of a sub-core's contexts freezes the sub-core (R34). -/
def State.frozen (s : State) (pcl sub : Nat) : Bool :=
  (List.range 3).any fun k =>
    let x := s.ctxAt ⟨pcl, sub, k⟩
    (x.ql.items ++ x.lane).any fun i => i.parts.any fun p => match p.st with | .due => true | _ => false

/-- The context holds a strand that its front end may issue for: no halt, no debug halt, not draining or saved, no
barrier or ENG wait (R28, R38, R203, R279, R345). A handler runs while the strand drains or waits. -/
def Context.live (x : Context) : Bool :=
  x.resident && x.halt.isNone && !x.debug &&
  (match x.drain with | .none => true | d => !d.away && x.intrap) &&
  (x.intrap || match x.hold with | .none => true | _ => false)

/-- The focused context may issue (R34, R362, R428). -/
def State.canIssue (s : State) : Bool :=
  s.cx.live && !s.frozen s.focus.pcl s.focus.sub && !s.mgr.tripped && !(s.partAt s.cx.part).capture.diverged

/-- `etval` of cause 0x01 for a word (R41). -/
def illegal (i : Instr) : Word := ((encode i).headD 0).setWidth 64

/-- A word at issue: it is held while R29 or a freeze holds it, it faults in a handler that may not issue it, and
otherwise it issues with the effect `k`. -/
def issue (i : Instr) (s : State) (k : State → Out) : Out :=
  if !s.canIssue then .next s
  else if s.cx.intrap && !handlerOk i then .next (s.fault 0x01 (illegal i))
  else if s.cx.holds i then .next s
  else k s

/-- What `issue` needs to let a word through. -/
def Issues (s : State) (i : Instr) : Prop :=
  s.canIssue = true ∧ (s.cx.intrap = true → handlerOk i = true) ∧ s.cx.holds i = false

/-- The focused context with a change. -/
def State.onCx (s : State) (f : Context → Context) : State := { s with cx := f s.cx }

/-- A word of one parcel completes at dispatch: pc past it (R91). -/
def Context.retire (x : Context) : Context := { x with pc := x.pc + 4 }

/-- A scalar word that writes rd and completes (R91, R93). -/
def scalarResult (i : Instr) (rd : Reg) (v : Context → Word) (s : State) : Out :=
  issue i s fun s => .next (s.onCx fun x => (x.setRg rd (v x)).retire)

/-! ### Queues -/

/-- A word for a queue with the values it captures (R26, R354). -/
def mkItem (x : Context) (i : Instr) (q : Queue) (a b d : Word) (mask : Mask) : Item where
  ins := i
  pc := x.pc
  seq := q.issued
  vshape := x.vshape
  fpctl := x.fpctl
  a := a
  b := b
  d := d
  mask := mask

/-- Points that a queue holds (R115). -/
def Queue.points (q : Queue) : Nat := (q.items.filter fun i => Instr.isPoint i.ins).length

/-- A word enters an engine queue and the front end goes past it (R28). -/
def enqueue (g : Eng) (i : Instr) (parcels : Nat) (a b d : Word) (mask : Mask) (s : State) : State :=
  s.onCx fun x =>
    let q := x.queue g
    { x.setQueue g { q with items := q.items ++ [mkItem x i q a b d mask], issued := q.issued + 1 } with
      pc := x.pc + BitVec.ofNat 64 (4 * parcels) }

/-- A point enters an engine queue; it is held while the queue holds 8 points (R115). The flag tells whether it
entered. -/
def enqueuePoint (g : Eng) (i : Instr) (a b d : Word) (s : State) : State × Bool :=
  let q := s.cx.queue g
  if 8 ≤ q.points then (s, false)
  else
    (s.onCx fun x =>
      { x.setQueue g { q with items := q.items ++ [mkItem x i q a b d 0] } with pc := x.pc + 4 }, true)

/-- The word of a data watch test: bytes `off` to `off + n - 1` of an aperture (R356, R357). -/
def watchHit (x : Context) (kinds : Nat) (p : Place) (n : Nat) : Option Nat :=
  if !x.wte then none
  else
    let (ap, off) :=
      match p with
      | .dev va => (0, va)
      | .moss o => (1, o)
      | .win o => (2, o)
      | .remote _ va => (3, va)
    ((List.range 4).filterMap fun k =>
      let w := tget x.dwatch k 0
      let size := 2 ^ (bitsOf w 56 4 + 3)
      let lo := bitsOf w 0 48 / size * size
      if Nat.land (bitsOf w 62 2) kinds != 0 && bitsOf w 60 2 = ap && ap != 3 && off < lo + size && lo < off + n then
        some (max lo off - off)
      else none).foldl (fun b d => some (match b with | none => d | some c => min c d)) none

/-- The checks of a scalar memory word's address at issue: aperture, alignment, data watch (R101, R357). -/
inductive AddrCheck where
  | ok (p : Place)
  | bad (cause : BitVec 8) (tval : Word)
  deriving DecidableEq, Repr

def checkAddr (x : Context) (kinds : Nat) (winOk : Bool) (a : Word) (w : Nat) : AddrCheck :=
  match placeOf x.wsize a with
  | none => .bad 0x06 a
  | some p =>
    if !winOk && (match p with | .win _ => true | _ => false) then .bad 0x06 a
    else if a.toNat % w != 0 then .bad 0x07 a
    else
      match watchHit x kinds p w with
      | some d => .bad 0x17 (a + BitVec.ofNat 64 d)
      | none => .ok p

/-- The first check that fails, in order; of data watches that are hit, the lowest byte (R343, R357). -/
def lowestWatch (l : List (Option Flt)) : Option Flt :=
  match l.findSome? id with
  | none => none
  | some f =>
    if f.cause = 0x17 then
      some (l.foldl (fun f o => match o with
        | some g => if g.cause = 0x17 && g.tval.toNat < f.tval.toNat then g else f
        | none => f) f)
    else some f

end Sys2Proof.Machine
end

