-- ==== Sys2Proof/Machine/Alu.lean ====
section
/-!
DEFINITION. Integer arithmetic and logic: ALU register and immediate forms, LUI, ADDPC, MULDIV (R93 to R96).
-/
namespace Sys2Proof.Machine

/-- Shift amount of a register form: bits [63:6] are ignored (R93). -/
def shamt (w : Word) : Nat := bitsOf w 0 6

/-- Leading zero bits of a word, 64 for zero (R93). -/
def clz64 (w : Word) : Word := if w = 0 then 64 else BitVec.ofNat 64 (63 - Nat.log2 w.toNat)

/-- One bits among the low `n` bits of a number. -/
def popBits : Nat → Nat → Nat
  | 0, _ => 0
  | n + 1, v => v % 2 + popBits n (v / 2)

/-- A 14-bit immediate, sign-extended (R94). -/
def imm14 (i : BitVec 14) : Word := i.signExtend 64

/-- The value of a U-form immediate: imm19 at [31:13], sign-extended from bit 31 (R43, R95). -/
def uvalue (i : BitVec 19) : Word := (i ++ 0#13).signExtend 64

/-- Signed quotient rounded toward zero; all ones for divisor 0 (R96). -/
def divS (a b : Word) : Word := if b = 0 then BitVec.allOnes 64 else BitVec.ofInt 64 (a.toInt.tdiv b.toInt)
/-- Signed remainder with the sign of the dividend; the dividend for divisor 0 (R96). -/
def remS (a b : Word) : Word := if b = 0 then a else BitVec.ofInt 64 (a.toInt.tmod b.toInt)
def divU (a b : Word) : Word := if b = 0 then BitVec.allOnes 64 else BitVec.ofNat 64 (a.toNat / b.toNat)
def remU (a b : Word) : Word := if b = 0 then a else BitVec.ofNat 64 (a.toNat % b.toNat)

/-- ADD (R93). -/
def execAdd (rd rs1 rs2 : Reg) (s : State) : Out :=
  scalarResult (.add rd rs1 rs2) rd (fun x => let a := x.rg rs1; let b := x.rg rs2; a + b) s

/-- SUB (R93). -/
def execSub (rd rs1 rs2 : Reg) (s : State) : Out :=
  scalarResult (.sub rd rs1 rs2) rd (fun x => let a := x.rg rs1; let b := x.rg rs2; a - b) s

/-- AND (R93). -/
def execAnd (rd rs1 rs2 : Reg) (s : State) : Out :=
  scalarResult (.and rd rs1 rs2) rd (fun x => let a := x.rg rs1; let b := x.rg rs2; a &&& b) s

/-- OR (R93). -/
def execOr (rd rs1 rs2 : Reg) (s : State) : Out :=
  scalarResult (.or rd rs1 rs2) rd (fun x => let a := x.rg rs1; let b := x.rg rs2; a ||| b) s

/-- XOR (R93). -/
def execXor (rd rs1 rs2 : Reg) (s : State) : Out :=
  scalarResult (.xor rd rs1 rs2) rd (fun x => let a := x.rg rs1; let b := x.rg rs2; a ^^^ b) s

/-- SHL (R93). -/
def execShl (rd rs1 rs2 : Reg) (s : State) : Out :=
  scalarResult (.shl rd rs1 rs2) rd (fun x => let a := x.rg rs1; let b := x.rg rs2; a <<< shamt b) s

/-- SHR (R93). -/
def execShr (rd rs1 rs2 : Reg) (s : State) : Out :=
  scalarResult (.shr rd rs1 rs2) rd (fun x => let a := x.rg rs1; let b := x.rg rs2; a >>> shamt b) s

/-- SAR (R93). -/
def execSar (rd rs1 rs2 : Reg) (s : State) : Out :=
  scalarResult (.sar rd rs1 rs2) rd (fun x => let a := x.rg rs1; let b := x.rg rs2; a.sshiftRight (shamt b)) s

/-- ROL (R93). -/
def execRol (rd rs1 rs2 : Reg) (s : State) : Out :=
  scalarResult (.rol rd rs1 rs2) rd (fun x => let a := x.rg rs1; let b := x.rg rs2; a.rotateLeft (shamt b)) s

/-- SLT (R93). -/
def execSlt (rd rs1 rs2 : Reg) (s : State) : Out :=
  scalarResult (.slt rd rs1 rs2) rd (fun x => let a := x.rg rs1; let b := x.rg rs2; b2w (a.slt b)) s

/-- SLTU (R93). -/
def execSltu (rd rs1 rs2 : Reg) (s : State) : Out :=
  scalarResult (.sltu rd rs1 rs2) rd (fun x => let a := x.rg rs1; let b := x.rg rs2; b2w (a.ult b)) s

/-- MIN (R93). -/
def execMin (rd rs1 rs2 : Reg) (s : State) : Out :=
  scalarResult (.min rd rs1 rs2) rd (fun x => let a := x.rg rs1; let b := x.rg rs2; if b.slt a then b else a) s

/-- MAX (R93). -/
def execMax (rd rs1 rs2 : Reg) (s : State) : Out :=
  scalarResult (.max rd rs1 rs2) rd (fun x => let a := x.rg rs1; let b := x.rg rs2; if a.slt b then b else a) s

/-- MINU (R93). -/
def execMinu (rd rs1 rs2 : Reg) (s : State) : Out :=
  scalarResult (.minu rd rs1 rs2) rd (fun x => let a := x.rg rs1; let b := x.rg rs2; if b.ult a then b else a) s

/-- MAXU (R93). -/
def execMaxu (rd rs1 rs2 : Reg) (s : State) : Out :=
  scalarResult (.maxu rd rs1 rs2) rd (fun x => let a := x.rg rs1; let b := x.rg rs2; if a.ult b then b else a) s

/-- ANDN (R93). -/
def execAndn (rd rs1 rs2 : Reg) (s : State) : Out :=
  scalarResult (.andn rd rs1 rs2) rd (fun x => let a := x.rg rs1; let b := x.rg rs2; a &&& ~~~ b) s

/-- CLZ (R93). -/
def execClz (rd rs1 : Reg) (s : State) : Out := scalarResult (.clz rd rs1) rd (fun x => clz64 (x.rg rs1)) s

/-- POPC (R93). -/
def execPopc (rd rs1 : Reg) (s : State) : Out :=
  scalarResult (.popc rd rs1) rd (fun x => BitVec.ofNat 64 (popBits 64 (x.rg rs1).toNat)) s

/-- ADDI (R94). -/
def execAddi (rd rs1 : Reg) (imm : BitVec 14) (s : State) : Out :=
  scalarResult (.addi rd rs1 imm) rd (fun x => let a := x.rg rs1; let b := imm14 imm; a + b) s

/-- ANDI (R94). -/
def execAndi (rd rs1 : Reg) (imm : BitVec 14) (s : State) : Out :=
  scalarResult (.andi rd rs1 imm) rd (fun x => let a := x.rg rs1; let b := imm14 imm; a &&& b) s

/-- ORI (R94). -/
def execOri (rd rs1 : Reg) (imm : BitVec 14) (s : State) : Out :=
  scalarResult (.ori rd rs1 imm) rd (fun x => let a := x.rg rs1; let b := imm14 imm; a ||| b) s

/-- XORI (R94). -/
def execXori (rd rs1 : Reg) (imm : BitVec 14) (s : State) : Out :=
  scalarResult (.xori rd rs1 imm) rd (fun x => let a := x.rg rs1; let b := imm14 imm; a ^^^ b) s

/-- SLTI (R94). -/
def execSlti (rd rs1 : Reg) (imm : BitVec 14) (s : State) : Out :=
  scalarResult (.slti rd rs1 imm) rd (fun x => let a := x.rg rs1; let b := imm14 imm; b2w (a.slt b)) s

/-- SLTUI (R94). -/
def execSltui (rd rs1 : Reg) (imm : BitVec 14) (s : State) : Out :=
  scalarResult (.sltui rd rs1 imm) rd (fun x => let a := x.rg rs1; let b := imm14 imm; b2w (a.ult b)) s

/-- SHLI (R94). -/
def execShli (rd rs1 : Reg) (amt : BitVec 6) (s : State) : Out :=
  scalarResult (.shli rd rs1 amt) rd (fun x => x.rg rs1 <<< amt.toNat) s

/-- SHRI (R94). -/
def execShri (rd rs1 : Reg) (amt : BitVec 6) (s : State) : Out :=
  scalarResult (.shri rd rs1 amt) rd (fun x => x.rg rs1 >>> amt.toNat) s

/-- SARI (R94). -/
def execSari (rd rs1 : Reg) (amt : BitVec 6) (s : State) : Out :=
  scalarResult (.sari rd rs1 amt) rd (fun x => (x.rg rs1).sshiftRight amt.toNat) s

/-- ROLI (R94). -/
def execRoli (rd rs1 : Reg) (amt : BitVec 6) (s : State) : Out :=
  scalarResult (.roli rd rs1 amt) rd (fun x => (x.rg rs1).rotateLeft amt.toNat) s

/-- LUI (R95). -/
def execLui (rd : Reg) (imm : BitVec 19) (s : State) : Out := scalarResult (.lui rd imm) rd (fun _ => uvalue imm) s

/-- ADDPC (R95). -/
def execAddpc (rd : Reg) (imm : BitVec 19) (s : State) : Out :=
  scalarResult (.addpc rd imm) rd (fun x => x.pc + uvalue imm) s

/-- MUL (R96). -/
def execMul (rd rs1 rs2 : Reg) (s : State) : Out :=
  scalarResult (.mul rd rs1 rs2) rd (fun x => let a := x.rg rs1; let b := x.rg rs2; a * b) s

/-- MULH (R96). -/
def execMulh (rd rs1 rs2 : Reg) (s : State) : Out :=
  scalarResult (.mulh rd rs1 rs2) rd (fun x => let a := x.rg rs1; let b := x.rg rs2; BitVec.ofInt 64 (a.toInt * b.toInt / 2 ^ 64)) s

/-- MULHU (R96). -/
def execMulhu (rd rs1 rs2 : Reg) (s : State) : Out :=
  scalarResult (.mulhu rd rs1 rs2) rd (fun x => let a := x.rg rs1; let b := x.rg rs2; BitVec.ofNat 64 (a.toNat * b.toNat / 2 ^ 64)) s

/-- DIV (R96). -/
def execDiv (rd rs1 rs2 : Reg) (s : State) : Out :=
  scalarResult (.div rd rs1 rs2) rd (fun x => let a := x.rg rs1; let b := x.rg rs2; divS a b) s

/-- DIVU (R96). -/
def execDivu (rd rs1 rs2 : Reg) (s : State) : Out :=
  scalarResult (.divu rd rs1 rs2) rd (fun x => let a := x.rg rs1; let b := x.rg rs2; divU a b) s

/-- REM (R96). -/
def execRem (rd rs1 rs2 : Reg) (s : State) : Out :=
  scalarResult (.rem rd rs1 rs2) rd (fun x => let a := x.rg rs1; let b := x.rg rs2; remS a b) s

/-- REMU (R96). -/
def execRemu (rd rs1 rs2 : Reg) (s : State) : Out :=
  scalarResult (.remu rd rs1 rs2) rd (fun x => let a := x.rg rs1; let b := x.rg rs2; remU a b) s

end Sys2Proof.Machine
end

