-- ==== Sys2Proof/Machine/Rows.lean ====
section
/-!
DEFINITION. What lets an engine start words (R34, R345), the parts of vector memory words (R156, R160), and the
head of the M queue (R172).
-/
namespace Sys2Proof.Machine

/-- A context's engines may start words: no halt, not parked, not saving (R345, R348). -/
def Context.running (x : Context) : Bool :=
  x.resident && x.halt.isNone && !x.debug && !x.parked &&
  !x.drain.away

/-- The engines of a context may start words (R34, R362, R428). -/
def State.engineOn (s : State) (c : CtxLoc) : Bool :=
  (s.ctxAt c).running && !s.frozen c.pcl c.sub && !s.mgr.tripped && !(s.partAt (s.ctxAt c).part).capture.diverged

/-- Whether some granule of a list is engine-owned. -/
def Context.owned (x : Context) (gs : List Nat) : Bool := gs.any fun g => (x.gran g).owner

/-- The element size in bytes by which an address is aligned; RAW and Q4 count as 1 (R157). -/
def esize (f : Fmt) : Nat := if f.bits < 8 then 1 else f.bits / 8

/-- Joins parts that continue one another: within a quarter of the row and a 64-byte line; for another module's memory, whose row is
one transaction, within the memory of one chip (R160, R389). -/
def joinParts (far : Bool) : List LPart → List LPart
  | [] => []
  | p :: r =>
    match joinParts far r with
    | [] => [p]
    | q :: r' =>
      if p.off + p.n = q.off && p.addr + BitVec.ofNat 64 p.n = q.addr &&
          (if far then q.addr.toNat % 2 ^ 48 != 0 else q.addr.toNat % 64 != 0 && q.off % 64 != 0) then
        { p with n := p.n + q.n } :: r'
      else p :: q :: r'

/-- The parts of a row of VLD or VST: the active bytes of its quarters, joined (R156, R160). The index of a quarter counts every quarter
of the word. -/
def rowParts (far : Word → Bool) (f : VF) (vshape : Word) (m : Mask) (base stride : Word) (j : Nat) : List LPart :=
  let a := base + simm f + BitVec.ofNat 64 j * stride
  let bs := (List.range 256).filterMap fun b =>
    let e := if f.fmt.bits = 4 then 2 * b else b / (f.fmt.bits / 8)
    if active m f.fmt vshape j e then
      some { idx := 4 * j + b / 64, row := j, off := b, n := 1, addr := a + BitVec.ofNat 64 b : LPart }
    else none
  joinParts (bs.head?.any fun p => far p.addr) bs

/-- The parts of a row of VLDX or VSTX, given the row of indices: its active elements (R156, R160). -/
def indexParts (f : VF) (vshape : Word) (m : Mask) (base : Word) (vi : GranData) (j : Nat) : List LPart :=
  (actives m f.fmt vshape j).map fun e =>
    { idx := f.fmt.count * j + e, row := j, off := e * (f.fmt.bits / 8), n := f.fmt.bits / 8,
      addr := base + simm f + sextNat 32 (elemAt vi .i32 e) }

/-! ### The head of the M queue (R169, R172) -/

/-- A queued M word as a step, with whether it zeroes. -/
def stepOf : Instr → Option (MF × Bool)
  | .mma f => some (f, false)
  | .mmaz f => some (f, true)
  | _ => none

/-- The first M word of a context that has not started, the head of its queue for R169 and R172: its index, and the word. -/
def mNext (x : Context) : Option (Nat × Item) :=
  match x.qm.items.findIdx? fun i => !Instr.isPoint i.ins && (match i.phase with | .idle | .parked _ => true | _ => false) with
  | none => none
  | some k => (x.qm.items[k]?).map fun i => (k, i)

/-- An item of the M queue with a change. -/
def Context.setMItem (x : Context) (k : Nat) (i : Item) : Context := { x with qm := { x.qm with items := setNth x.qm.items k i } }

/-- A step has reached the head of its queue: its declared energy is checked against the account and the reservation, once (R172). A
save keeps no mark of the check, so a restored step that had been checked and not started is checked again against the reservation that
its new context has (DESIGN CHOICE, log 50). -/
def checkHead (c : CtxLoc) (s : State) : State :=
  let x := s.ctxAt c
  match mNext x with
  | none => s
  | some (k, i) =>
    match stepOf i.ins, i.phase with
    | some (f, _), .idle =>
      if i.lost != 0 || x.halt.isSome || x.debug || x.parked then s
      else if 32768 + x.resv < f.en.toNat then s.raise c 0x13 (f.en.setWidth 64) i.pc (some (.m, i.seq, i.pc))
      else s.setCtx c (x.setMItem k { i with lost := 1 })
    | _, _ => s

end Sys2Proof.Machine
end

