-- ==== Sys2Proof/Machine/Access.lean ====
section
/-!
DEFINITION. Accesses of a context's L engine: Moss (R226 to R230), the window aperture (R103), device memory through
the cluster write buffer (R250 to R254), atomics (R108, R251) and remote memory (R215, R392).
-/
namespace Sys2Proof.Machine

/-! ### Moss -/

/-- The row groups that a span of Moss touches. -/
def rgsOf (off n : Nat) : List Nat := (List.range ((off + n - 1) / 4096 - off / 4096 + 1)).map (off / 4096 + ·)

def Cluster.rg (cl : Cluster) (n : Nat) : RowGroup := tget cl.rgs n {}
def Cluster.setRg (cl : Cluster) (n : Nat) (r : RowGroup) : Cluster := { cl with rgs := tset cl.rgs n r {} }

/-- What a read of Moss delivers: bytes, poison, and whether a row group that is not valid gave zeros (R226, R229). -/
structure MossGot where
  bytes : List Byte
  bad   : Bool
  inv   : Bool
  stamp : Stamp
  deriving DecidableEq, Repr

/-- MossRead (R6, R226): `none` for an EXPIRED row group. -/
def mossRead (cl : Cluster) (off n : Nat) : Option MossGot :=
  let gs := (rgsOf off n).map fun g => (g, cl.rg g)
  if gs.any fun g => !g.2.valid && g.2.xtrap then none
  else some {
    bytes := (List.range n).map fun i => if (cl.rg ((off + i) / 4096)).valid then tget cl.moss (off + i) 0 else 0
    bad := gs.any fun g => g.2.valid && g.2.poison
    inv := gs.any fun g => !g.2.valid
    stamp := (unitsOf off n).foldl (fun a u => a.max (tget cl.mstamps u {})) {} }

/-- The state of a row group after a write (R226, R228): a zero fill where it was not valid. -/
def touchRg (cl : Cluster) (bad : Bool) (g : Nat) : Cluster :=
  let r := cl.rg g
  let cl := if r.valid then cl else { cl with moss := zeroBytes cl.moss (g * 4096) 4096 }
  cl.setRg g { r with valid := true, age := 0, reqd := false, xtrap := false, poison := (r.valid && r.poison) || bad }

/-- MossWrite (R6, R226, R228): `none` for a FREE row group. -/
def mossWrite (cl : Cluster) (off : Nat) (bs : List Byte) (bad : Bool) (st : Stamp) : Option Cluster :=
  let gs := rgsOf off bs.length
  if gs.any fun g => (cl.rg g).cls = 0 then none
  else
    let cl := gs.foldl (fun cl g => touchRg cl bad g) cl
    some { cl with
      moss := storeBytes cl.moss off bs
      mstamps := (unitsOf off bs.length).foldl (fun t u => tset t u ((tget t u {}).max st) {}) cl.mstamps }

/-! ### The window aperture -/

/-- The bytes of a span of the window, and the first poisoned granule (R103). -/
def readWin (x : Context) (off n : Nat) : List Byte × Option Nat :=
  ((List.range n).map fun i => BitVec.ofNat 8 (getAt (x.gran ((off + i) / 256)).read (8 * ((off + i) % 256)) 8),
   ((List.range ((off + n - 1) / 256 - off / 256 + 1)).map (off / 256 + ·)).find? fun g => (x.gran g).poison)

/-- Stores a byte into the window: an EMPTY granule becomes RAW with zeros elsewhere (R103). -/
def writeWinByte (x : Context) (o : Nat) (b : Byte) : Context :=
  let g := x.gran (o / 256)
  x.setGran (o / 256)
    { g with data := putAt g.read (8 * (o % 256)) 8 b.toNat, fmt := if g.fmt = .empty then .raw else g.fmt }

def writeWin (x : Context) : Nat → List Byte → Context
  | _, [] => x
  | o, b :: r => writeWin (writeWinByte x o b) (o + 1) r

/-! ### Device memory of a context -/

/-- Whether spans overlap. -/
def overlaps (a n b m : Nat) : Bool := a < b + m && b < a + n

/-- The newest buffered write that covers an address (R250). -/
def newest (w : List Buffered) (pa : Nat) : Option Buffered :=
  w.foldl (fun o b => if b.pa ≤ pa && pa < b.pa + b.data.length then some b else o) none

/-- A device load of a context: each byte from the newest buffered write of its cluster, else from the home; the
context observes what it takes (R250, R252, R254). -/
def devRead (s : State) (c : CtxLoc) (pa n : Nat) : List Byte × Bool × Stamp × State :=
  let cl := s.cluAt c.pcl
  let src := (List.range n).map fun i => (pa + i, newest cl.wbuf (pa + i))
  let bytes := src.map fun p =>
    match p.2 with
    | some b => b.data.getD (p.1 - b.pa) 0
    | none => tget s.mem p.1 0
  let homes := (src.filter fun p => p.2.isNone).map fun p => p.1 / 64
  let used := src.filterMap Prod.snd
  let covered := fun u => used.any fun b => b.pa ≤ u * 64 && u * 64 + 64 ≤ b.pa + b.data.length
  let bad := (unitsOf pa n).any (fun u => s.poison.contains u && !covered u) || used.any fun b => b.bad
  let st := used.foldl (fun a b => a.max (b.stamp.getD {})) (unitStamp s homes)
  let fresh := used.filter fun b => b.stamp.isNone
  let ids := fresh.flatMap fun b => b.id :: b.seen
  let cl := { cl with wbuf := cl.wbuf.map fun b =>
    if b.stamp.isNone && ids.contains b.id && !b.seenBy.contains c then { b with seenBy := b.seenBy ++ [c] } else b }
  (bytes, bad, st, s.setClu c.pcl cl)

/-- A store enters the write buffer (R250, R254). -/
def State.buffer (s : State) (c : CtxLoc) (seq : BitVec 32) (part pa : Nat) (bs : List Byte) : State :=
  let s' := s.onClu c.pcl fun cl =>
    let seen := (cl.wbuf.filter fun b => b.stamp.isNone && b.seenBy.contains c).map Buffered.id
    { cl with wbuf := cl.wbuf ++ [⟨s.uid, c, seq, part, pa, bs, false, none, seen, []⟩] }
  { s' with uid := s'.uid + 1 }

/-- Drains one buffered write: it is stamped as its writer's, every context that observed it observes its stamp, and it
is sent towards its home (R250, R252, R254). -/
def State.drainOne (s : State) (pcl : Nat) (b : Buffered) : State :=
  let (st, s) := s.stampWrite (dieOf pcl) (s.ctxAt b.who).obs
  let s := s.onClu pcl fun cl => { cl with wbuf := cl.wbuf.map fun w =>
    if w.id = b.id then { w with stamp := some st, seenBy := [] } else { w with seen := w.seen.filter (· != b.id) } }
  let s := b.seenBy.foldl (fun s c => s.onCtx c fun x => x.observe st) s
  { s with transit := s.transit ++ [⟨.lword b.who b.seq b.part (some b.id), dieOf pcl, st, b.pa, b.data, b.bad, none, none⟩] }

/-- A buffered write and the undrained writes that have to drain before it, in entry order: those before it that overlap it, or one
of them (R250). -/
def drainChain (w : List Buffered) (b : Buffered) : List Buffered :=
  (w.takeWhile fun e => e.id != b.id).foldr
    (fun e l => if e.stamp.isNone && l.any fun d => overlaps e.pa e.data.length d.pa d.data.length then e :: l else l) [b]

/-- Drains a buffered write together with the writes that have to drain before it (R250). -/
def State.drainWith (s : State) (pcl : Nat) (b : Buffered) : State :=
  (drainChain (s.cluAt pcl).wbuf b).foldl (fun s w => s.drainOne pcl w) s

/-- Drains the first undrained write of a cluster that a test selects, again and again, up to a number of times. -/
def drainFirst (pcl : Nat) (p : Buffered → Bool) : Nat → State → State
  | 0, s => s
  | n + 1, s =>
    match (s.cluAt pcl).wbuf.find? fun w => w.stamp.isNone && p w with
    | some w => drainFirst pcl p n (s.drainWith pcl w)
    | none => s

/-- Drains every buffered write of a cluster that a test selects, in entry order (R251, R256). -/
def State.drainAll (s : State) (pcl : Nat) (p : Buffered → Bool) : State := drainFirst pcl p (s.cluAt pcl).wbuf.length s

/-- Step 2 of a release at die scope or wider: what the context has observed and has not drained drains, and its stamps
enter O (R256). -/
def State.releaseDrain (s : State) (c : CtxLoc) (sc : Scope) : State :=
  match sc with
  | .subcore | .core | .cluster => s
  | _ => s.drainAll c.pcl fun b => b.seenBy.contains c

/-- Die scope or wider. -/
def wide : Scope → Bool
  | .subcore | .core | .cluster => false
  | _ => true

/-! ### Remote memory -/

/-- A link can carry traffic (R382, R406). -/
def Link.open? (l : Link) : Bool := l.up && !l.training

/-- The identity entry of a number, and whether a transaction for it can be sent now: its entry is live, and its primary or its
alternate port is up (R397). -/
def Fabric.entry (fb : Fabric) (n : Nat) : IdEntry := tget fb.ids n ⟨0, 0, 0x1F, 0x1F, 0, false⟩
def Fabric.linkUp (fb : Fabric) (port : Nat) : Bool := port < 18 && (tget fb.links port {}).open?
def routed (fb : Fabric) (n : Nat) : Bool :=
  (fb.entry n).state = 1 && (fb.linkUp (fb.entry n).port || fb.linkUp (fb.entry n).alt)

/-- The link that carries transactions for a number: its primary port, or the alternate where the primary is down (R397). -/
def Fabric.route (fb : Fabric) (n : Nat) : Nat := if fb.linkUp (fb.entry n).port then (fb.entry n).port else (fb.entry n).alt

/-- Data flits of a transaction (R389, R390). -/
def flitCount (f : Flit) : Nat := (f.data.length + 63) / 64

/-- A compare-and-swap of 8 bytes, whose two values fill the operands (R390, log 25). -/
def isWideCas (kind : Nat) (f : Flit) : Bool := kind = 4 && f.op = 10

/-- The operands of a header, 16 bytes (R390). How they hold what the rule puts there is the model's choice (log 25, log 28): an atomic's
code and width in bytes, and in the second 8 bytes its value, or two of 4 bytes; the values alone of a compare-and-swap of 8 bytes; of
a reply the number that it answers, with its failure in bit 32, and the old value; of collective data and aborts the sender and
direction, and the cluster; of an event signal the id and the increment. -/
def operandBytes (kind : Nat) (f : Flit) : List Byte :=
  if isWideCas kind f then toLE 8 f.a.toNat ++ toLE 8 f.b.toNat
  else if kind = 4 then
    let n := if f.op % 16 = 11 || f.op % 16 = 12 then 2 else if f.op / 16 % 2 = 1 then 4 else 8
    toLE 1 (f.op % 16) ++ toLE 1 n ++ toLE 6 0 ++ (if f.op % 16 = 10 then toLE 4 f.a.toNat ++ toLE 4 f.b.toNat else toLE 8 f.a.toNat)
  else if kind = 8 || kind = 9 then toLE 8 f.a.toNat ++ toLE 8 f.op
  else toLE 8 (f.a.toNat + f.op * 2 ^ 32) ++ toLE 8 f.b.toNat

/-- The header flit (R390). -/
def flitHeader (kind : Nat) (f : Flit) : List Byte :=
  toLE 1 kind ++ toLE 1 (flitCount f) ++ toLE 2 (if isWideCas kind f then 16 else f.len) ++ toLE 2 (f.src % 4096) ++ toLE 1 f.srcGen.toNat ++ toLE 1 f.dstGen.toNat ++
  toLE 2 (f.dst % 4096) ++ toLE 1 f.part ++ toLE 1 0 ++ toLE 4 f.seq.toNat ++ toLE 8 f.va.toNat ++ operandBytes kind f ++
  toLE 4 f.ack.toNat ++ toLE 4 0 ++ toLE 4 f.cid.toNat ++ toLE 12 0

/-- The flits of a transaction, each with its poison bit: the header, whose bit stands for a value in the operands, then the data
(R386, R389). -/
def flitWire (kind : Nat) (f : Flit) : List (List Byte × Bool) :=
  (flitHeader kind f, f.data.isEmpty && f.poison != 0) ::
    (List.range (flitCount f)).map fun i => (((f.data.drop (64 * i)).take 64 ++ toLE 64 0).take 64, f.poison.getLsbD i)

/-- Flits leave on a link, whose retry buffer keeps the last 256 (R405). -/
def Fabric.sendOn (fb : Fabric) (l : Nat) (fs : List (List Byte × Bool)) : Fabric :=
  let k := tget fb.links l {}
  { fb with links := tset fb.links l { k with buf := (k.buf ++ fs).drop ((k.buf ++ fs).length - 256) } {} }

/-- The key of a pair: own number, other number (R392). -/
def pairKey (own n : Nat) : Nat := 4096 * own + n

/-- The generation under which a number of this module sends (R397, R398). -/
def Fabric.genOf (fb : Fabric) (own : Nat) : BitVec 8 := if own = fb.chip then fb.gen else (fb.entry own).gen

/-- A transaction of one of this module's numbers takes the pair's next send number and enters the replay buffer (R392, R393); one that
wants a reply waits for it. -/
def State.sendFrom (s : State) (own chip kind : Nat) (f : Flit) (who : Option Origin) : State :=
  let fb := s.fabric
  let p := tget fb.pairs (pairKey own chip) {}
  let e := fb.entry chip
  let g := { f with src := own, dst := chip, srcGen := fb.genOf own, dstGen := e.gen, part := e.part, seq := p.send + 1,
                    ack := p.released }
  let t : Txn := ⟨kind, g, who, routed fb chip⟩
  let p := { p with send := p.send + 1, replay := p.replay ++ [t], told := p.released,
                    waiting := if who.isSome && (kind = 1 || kind = 4) then p.waiting ++ [t] else p.waiting }
  let fb := if t.sent then fb.sendOn (fb.route chip) (flitWire kind g) else fb
  { s with fabric := { fb with pairs := tset fb.pairs (pairKey own chip) p {} } }

/-- A transaction under the module's own number. -/
def State.sendTxn (s : State) (chip kind : Nat) (f : Flit) (who : Option Origin) : State :=
  s.sendFrom s.fabric.chip chip kind f who

/-- A flit with nothing in it. -/
def emptyFlit : Flit := ⟨0, 0, 0, 0, 0, 0, 0, 0, [], 0, 0, 0, 0, 0, 0⟩

/-- The stamp unit of another module's memory (R252). -/
def farUnit (chip va : Nat) : Nat := chip * 2 ^ 42 + va % 2 ^ 48 / 64

/-- The stored stamps of units of another module's memory, together. -/
def State.farStamp (s : State) (chip va n : Nat) : Stamp :=
  (unitsOf va n).foldl (fun a u => a.max (tget s.farStamps (farUnit chip (u * 64)) {})) {}

/-- Sends a write, an atomic or an event signal to another module: it is stamped, and it is under way until its issuer is told
(R252, R253). -/
def State.sendWrite (s : State) (die : Nat) (obs : Stamp) (chip kind : Nat) (f : Flit) (who : Origin) : State :=
  let (st, s) := s.stampWrite die obs
  let va := f.va.toNat
  let s := { s with
    transit := s.transit ++ [(⟨who, die, st, va, [], false, none, some chip⟩ : Transit)]
    farStamps := if kind = 6 then s.farStamps
      else (unitsOf va f.len).foldl (fun t u => tset t (farUnit chip (u * 64)) ((tget t (farUnit chip (u * 64)) {}).max st) {}) s.farStamps }
  s.sendTxn chip kind f (some who)

/-- The chip number has no identity entry (R397). -/
def State.absentChip (s : State) (chip : Nat) : Bool :=
  !(chip = s.fabric.chip) && (s.fabric.entry chip).state = 0

/-- Transactions in the replay buffers of the module (R393). -/
def State.kept (s : State) : Nat := s.fabric.pairs.foldl (fun n p => n + p.2.replay.length) 0

/-- A reply or an abort is sent, or waits where the replay buffer has no room (R392, R393). -/
def State.sendLater (s : State) (own chip kind : Nat) (f : Flit) : State :=
  if s.kept < 2 ^ 20 then s.sendFrom own chip kind f none
  else { s with fabric := { s.fabric with later := s.fabric.later ++ [(own, chip, kind, f)] } }

/-- Whether the chip number is this module's, or its entry is local (R215, R397). -/
def State.isOwnChip (s : State) (chip : Nat) : Bool :=
  chip = s.fabric.chip || (s.fabric.entry chip).state = 3

/-- The aperture in which a remote address of this module is served (R215). -/
def State.localPlace (s : State) : Place → Place
  | .remote chip va => if s.isOwnChip chip then .dev va else .remote chip va
  | p => p

end Sys2Proof.Machine
end

