-- ==== Sys2Proof/Machine/Lunit.lean ====
section
/-!
DEFINITION. The L engine: what a queued memory word does when it starts, when it requests a part, when a reply comes and when it
finishes (R101 to R109, R156 to R161, R433).
-/
namespace Sys2Proof.Machine

/-- Bytes of a width code (R46). -/
def widthBytes : Width → Nat
  | .b | .bu => 1 | .h | .hu => 2 | .w | .wu => 4 | .d => 8

/-- A loaded value at 64 bits (R102). -/
def extend (w : Width) (v : Nat) : Word :=
  match w with
  | .b => sextNat 8 v | .h => sextNat 16 v | .w => sextNat 32 v
  | _ => BitVec.ofNat 64 v

/-- Operation code, width and scope of an atomic; code 10 is CAS (R108, R109). -/
def atomOf : Instr → Option (Nat × Bool × Scope × Bool)
  | .amoSwap w sc q _ _ _ => some (0, w, sc, q)
  | .amoAdd w sc q _ _ _ => some (1, w, sc, q)
  | .amoAnd w sc q _ _ _ => some (2, w, sc, q)
  | .amoOr w sc q _ _ _ => some (3, w, sc, q)
  | .amoXor w sc q _ _ _ => some (4, w, sc, q)
  | .amoMin w sc q _ _ _ => some (5, w, sc, q)
  | .amoMax w sc q _ _ _ => some (6, w, sc, q)
  | .amoMinu w sc q _ _ _ => some (7, w, sc, q)
  | .amoMaxu w sc q _ _ _ => some (8, w, sc, q)
  | .amoFadd sc q _ _ _ => some (9, true, sc, q)
  | .cas w sc q _ _ _ => some (10, w, sc, q)
  | _ => none

/-- The word is an atomic. -/
def isAtom (i : Instr) : Bool := (atomOf i).isSome

/-- Bytes of a scalar memory word's access. -/
def scalarBytes : Instr → Nat
  | .ld w _ _ _ | .lda w _ _ _ | .st w _ _ _ | .stl w _ _ _ => widthBytes w
  | i =>
    match atomOf i with
    | some (_, w, _, _) => if w then 4 else 8
    | none => 0

/-- Loads and stores among the L words; atomics are both (R110). -/
def isLoad (i : Instr) : Bool := Instr.readsOnly i || isAtom i
def isStore : Instr → Bool
  | .st _ _ _ _ | .stl _ _ _ _ | .vst _ | .vstx _ | .mst _ => true
  | i => isAtom i

/-- The scope of a release store, if the word is one (R255). -/
def storeScope : Instr → Option Scope
  | .stl _ sc _ _ => some sc
  | _ => none

/-- The scope of a release among the L words: STL, and an atomic with `.sc` (R255). -/
def releaseScope (i : Instr) : Option Scope :=
  match atomOf i with
  | some (_, _, sc, true) => some sc
  | some _ => none
  | none => storeScope i

/-- The word is a release at die scope or wider (R256). -/
def wideRelease (i : Instr) : Bool := (releaseScope i).any wide

/-- Pop and push fields of a vector or matrix word. -/
def popField (i : Instr) : BitVec 3 :=
  match i with
  | .mma f | .mmaz f => f.pop
  | .aclr f | .aswap f | .adrain f => f.pop
  | i => match i.vparts with
    | some (_, f) => f.pop
    | none => 0
def pushField (i : Instr) : BitVec 3 :=
  match i with
  | .mma f | .mmaz f => f.push
  | .aclr f | .aswap f | .adrain f => f.push
  | i => match i.vparts with
    | some (_, f) => f.push
    | none => 0

/-- Queues that a word of engine `g` pops from and pushes to (R30). -/
def popsOf (g : Eng) (i : Instr) : List Nat := (named g (popField i)).map fun r => tq r g
def pushesOf (g : Eng) (i : Instr) : List Nat := (named g (pushField i)).map fun r => tq g r

/-- A wait of the engine's head word is open (R6, R359). -/
def State.headWaits (s : State) (c : CtxLoc) (g : Eng) (kind : BitVec 8) (obj : Word) : State :=
  s.onCtx c fun x => x.waitMark (Eng.num g) kind obj

/-- The first of a word's pop queues that holds no token. -/
def emptyPop (x : Context) (g : Eng) (i : Instr) : Option Nat :=
  (popsOf g i).find? fun q => (tget x.toks q {}).toks.isEmpty

/-! ### Parts (R156, R157, R160) -/

/-- The granules of a vector memory word's register side (R158). -/
def lGrans (i : Item) : List Nat :=
  let rows := shapeRows i.vshape
  match i.ins with
  | .vld f | .vst f => rowGrans rows f.vd.toNat f.sd.toNat
  | .vldx f | .vstx f => rowGrans rows f.vd.toNat f.sd.toNat ++ rowGrans rows f.vb.toNat f.sb.toNat
  | _ => []

/-- The address lies in another module's memory. -/
def State.isFar (s : State) (x : Context) (a : Word) : Bool :=
  match (placeOf x.wsize a).map s.localPlace with
  | some (.remote _ _) => true
  | _ => false

/-- A store whose row has no active element still reads the row under its check (R158): a part of no bytes. -/
def checkOnly (store : Bool) (idx j : Nat) (ps : List LPart) : List LPart :=
  if store && ps.isEmpty then [{ idx := idx, row := j, off := 0, n := 0, addr := 0 }] else ps

/-- The parts of the rows of an L word that is not indexed. -/
def plainParts (s : State) (x : Context) (i : Item) : List LPart :=
  let rows := List.range (shapeRows i.vshape)
  match i.ins with
  | .vld f | .vst f =>
    rows.flatMap fun j => checkOnly (isStore i.ins) (4 * j) j (rowParts (s.isFar x) f i.vshape i.mask i.a i.b j)
  | .mld f | .mst f => rows.map fun j => { idx := j, row := j, off := 0, n := 16, addr := i.a + simm f + BitVec.ofNat 64 j * i.b }
  | ins => [{ row := 0, off := 0, n := scalarBytes ins, addr := i.a }]

/-- The checks of row j of the indices, when L has read it: the poison and the tag, then the addresses of the row's elements and the data
watch (R157, R357). -/
def viChecks (x : Context) (i : Item) (f : VF) (j : Nat) : List (Option Flt) :=
  let n := f.vb.toNat + j * f.sb.toNat
  let g := x.gran n
  let kinds := if isStore i.ins then 2 else 1
  let bad := fun (p : LPart) =>
    match checkAddr x kinds true p.addr (esize f.fmt) with
    | .bad c t => some (Flt.mk c t)
    | .ok _ =>
      if (placeOf x.wsize (p.addr + BitVec.ofNat 64 (p.n - 1))).isNone then some ⟨0x06, p.addr⟩ else none
  if g.poison then [some ⟨0x0E, BitVec.ofNat 64 n⟩]
  else if !tagOk g .i32 false then [some ⟨0x04, BitVec.ofNat 64 n⟩]
  else (indexParts f i.vshape i.mask i.a g.read j).map bad

/-- L reads row j of the indices: the item with the row, and the fault found so far. After a watched byte the rows that are left are read
too, since a lower byte of theirs may be watched (R343). -/
def readVi (x : Context) (i : Item) (f : VF) (j : Nat) : Item :=
  { i with vis := i.vis ++ [(x.gran (f.vb.toNat + j * f.sb.toNat)).read], fault := lowestWatch (i.fault :: viChecks x i f j) }

/-- The parts of an indexed word whose indices are read. -/
def indexedParts (i : Item) (f : VF) : List LPart :=
  (List.range i.vis.length).flatMap fun j =>
    checkOnly (isStore i.ins) (f.fmt.count * j) j (indexParts f i.vshape i.mask i.a (i.vis.getD j 0) j)

/-- The kind of a word's accesses (R241). -/
def accOf (i : Instr) : Acc := if isAtom i then .atomic else if isStore i then .store else .load

/-- A part with its place and its physical address, or the fault of its translation or permission, which comes before any part is
performed (R104, R157): a row group of Moss that is FREE denies a write (R226). -/
def resolve (s : State) (c : CtxLoc) (i : Item) (p : LPart) : Except Flt LPart :=
  let x := s.ctxAt c
  if p.n = 0 then .ok p
  else
    match (placeOf x.wsize p.addr).map s.localPlace with
    | none => .error ⟨0x06, faultAddr i p⟩
    | some (.dev va) =>
      match translate s c.pcl x.part va (accOf i.ins) with
      | .error e => .error ⟨e, faultAddr i p⟩
      | .ok pa => .ok { p with place := .dev va, pa := pa }
    | some (.moss o) =>
      if isStore i.ins && (rgsOf o p.n).any fun g => ((s.cluAt c.pcl).rg g).cls = 0 then .error ⟨0x09, faultAddr i p⟩
      else .ok { p with place := .moss o }
    | some u => .ok { p with place := u }

/-- The state with the translations of parts in the cluster's cache, and a malformed entry reported (R241, R242). -/
def noteParts (s : State) (c : CtxLoc) (ps : List LPart) : State :=
  let x := s.ctxAt c
  ps.foldl (fun s p =>
    match (placeOf x.wsize p.addr).map s.localPlace with
    | some (.dev va) => if p.n = 0 then s else (fillTlb s c.pcl x.part va).noteWalk c.pcl x.part va
    | _ => s) s

/-- The bytes of two parts lie at one place: in device memory, by physical address (R105). -/
def samePlaces (p q : LPart) : Bool :=
  p.n != 0 && q.n != 0 &&
  match p.place, q.place with
  | .dev _, .dev _ => overlaps p.pa p.n q.pa q.n
  | .moss a, .moss b => overlaps a p.n b q.n
  | .win a, .win b => overlaps a p.n b q.n
  | .remote c a, .remote d b => c = d && overlaps a p.n b q.n
  | _, _ => false

/-- An atomic on device memory that is not applied holds a later word of its context that touches its bytes (R251). -/
def atomHolds (a : Item) (ps : List LPart) : Bool :=
  isAtom a.ins && a.parts.any fun q =>
    (q.flying || q.isTodo) && (match q.place with | .dev _ => true | _ => false) && ps.any fun p => samePlaces q p

/-- A started word still requests parts. -/
def Item.requesting (i : Item) : Bool :=
  (match i.phase with | .going => true | _ => false) && !Instr.isPoint i.ins &&
  (i.parts.isEmpty || (!i.stops && i.parts.any LPart.isTodo))

/-- Whether the items ahead of an L word let it start (R107, R110, R233, R259): every earlier word has started,
acquires and sequentially consistent atomics have returned, fences hold their kinds, MOSS words that fence are done,
no earlier word has a fault to raise (R104), and no atomic holds its bytes. -/
def aheadOk (i : Item) (ps : List LPart) : List Item → List Item → Bool
  | _, [] => true
  | before, a :: r =>
    let done := fun (b : Item) => match b.phase with | .complete => b.fault.isNone | _ => false
    (match a.ins with
      | .lda _ _ _ _ => done a
      | .fence k sc =>
        -- the kinds ll, ls, sl and ss are bits 0 to 3 of the field (R46)
        !(before.any fun b => !Instr.isPoint b.ins &&
          ((k.getLsbD 0 && isLoad b.ins && isLoad i.ins) || (k.getLsbD 1 && isLoad b.ins && isStore i.ins) ||
           (k.getLsbD 2 && isStore b.ins && isLoad i.ins) || (k.getLsbD 3 && isStore b.ins && isStore i.ins))) &&
        -- at die scope and wider the point's drain comes before the later stores (R258)
        !(wide sc && (k.getLsbD 1 || k.getLsbD 3) && isStore i.ins)
      | .mclass _ _ _ _ | .mfree _ _ _ | .mrefresh _ _ _ => false
      | _ =>
        Instr.isPoint a.ins ||
        (a.fault.isNone && (match a.phase with | .idle | .parked _ => false | _ => true) && !atomHolds a ps &&
         (match atomOf a.ins with
          | some (_, _, _, true) => done a
          | _ => true))) && aheadOk i ps (before ++ [a]) r

/-- Words that wait until every earlier L word has finished: STL and atomics with `.sc` (R107, R259). -/
def waitsAll (i : Instr) : Bool := (releaseScope i).isSome

/-! ### What comes back -/

/-- Puts bytes into row `p.row` of a word's returned rows (R156). -/
def putRow (i : Item) (p : LPart) (bs : List Byte) (bad : Bool) : Item :=
  let r := i.rows.getD p.row ⟨0, false⟩
  let rows := if i.rows.length ≤ p.row then i.rows ++ List.replicate (p.row + 1 - i.rows.length) ⟨0, false⟩ else i.rows
  { i with rows := setNth rows p.row ⟨putAt r.data (8 * p.off) (8 * p.n) (leNat bs), r.poison || bad⟩ }

/-- Part `k` of a load ends with its bytes: the value of a scalar word, a row of a vector word; poison faults a scalar
word and is carried by a vector word (R102, R159). -/
def gotBytes (i : Item) (k : Nat) (p : LPart) (bs : List Byte) (bad : Bool) (cause : BitVec 8) (tval : Word) (st : Stamp) : Item :=
  let i := { i with stamp := i.stamp.max st }
  match i.ins with
  | .ld w _ _ _ | .lda w _ _ _ =>
    if bad then noteFault ⟨cause, tval⟩ (i.setPart k .bad) else { i.setPart k .done with val := extend w (leNat bs) }
  | _ => putRow (i.setPart k .done) p bs bad

/-- Part `k` has read a row group that was not valid, if `b` (R226). -/
def Item.markInv (i : Item) (k : Nat) (b : Bool) : Item :=
  match i.parts[k]? with
  | some p => { i with parts := setNth i.parts k { p with inv := p.inv || b } }
  | none => i

/-- A read that the word delivers found a row group that was not valid (R226). -/
def Item.sawInv (i : Item) : Bool := i.inv || i.parts.any fun p => p.inv && p.isDone

/-- Part `k` finds a fault. -/
def Item.failPart (i : Item) (k : Nat) (f : Flt) : Item := noteFault f (i.setPart k .bad)

/-- The bytes that a store sends for a part; the row is read under its check, poison first (R127, R158, R159). -/
def storeData (x : Context) (i : Item) (p : LPart) : Except Flt (List Byte) :=
  match i.ins with
  | .vst f | .vstx f =>
    let n := f.vd.toNat + p.row * f.sd.toNat
    let g := x.gran n
    if g.poison then .error ⟨0x0E, BitVec.ofNat 64 n⟩
    else if !tagOk g f.fmt true then .error ⟨0x04, BitVec.ofNat 64 n⟩
    else .ok (toLE p.n (getAt g.read (8 * p.off) (8 * p.n)))
  | .mst f =>
    -- the mask register and its poison were captured at issue (R26, R159)
    if i.d = 1 then .error ⟨0x0E, f.vd.setWidth 64⟩ else .ok (toLE 16 (getAt i.mask (128 * p.row) 128))
  | _ => .ok (toLE p.n i.b.toNat)

/-- A vector store keeps what it has read of a row until its bank grants it (R153). -/
def captureRow (i : Item) (p : LPart) (bs : List Byte) : Item :=
  match i.ins with
  | .vst _ | .vstx _ => putRow i p bs false
  | _ => i

/-- The bytes that a store writes for a part whose row it has read. -/
def keptData (x : Context) (i : Item) (p : LPart) : List Byte :=
  match i.ins with
  | .vst _ | .vstx _ => toLE p.n (getAt (i.rows.getD p.row ⟨0, false⟩).data (8 * p.off) (8 * p.n))
  | _ => match storeData x i p with | .ok bs => bs | .error _ => []

/-! ### Near accesses (R34, R217, R226 to R228) -/

/-- A write of the access finds a row group that is not valid: a zero fill (R228). -/
def fills (s : State) (c : CtxLoc) (i : Item) (p : LPart) : Bool :=
  match p.place with
  | .moss o => isStore i.ins && (rgsOf o p.n).any fun g =>
      let r := (s.cluAt c.pcl).rg g
      !r.valid && r.cls != 0 && !(isAtom i.ins && r.xtrap)
  | _ => false

/-- A rewrite runs at a bank of the access (R217). -/
def bankBusy (s : State) (c : CtxLoc) (p : LPart) : Bool :=
  match p.place with
  | .moss o => (rgsOf o p.n).any fun g => (s.cluAt c.pcl).rewrites.any fun r => r.running && r.n % 128 = g % 128
  | _ => false

/-- An earlier part of the context at the same bytes is still to be made: a later one is not requested (R105). -/
def partAhead (before : List Item) (p : LPart) : Bool :=
  before.any fun a => !Instr.isPoint a.ins && a.parts.any fun q => !q.isDone && !q.flying && samePlaces q p

/-- An earlier part of the context at the same bytes is under way and may not be passed. In device memory a store passes a buffered store
and a load takes its bytes, but neither passes an atomic, a load waits for a release, which is not buffered, and a store for a load; the
sequence of a pair keeps the order at another module (R105, R250, R392). -/
def partHeld (before : List Item) (i : Item) (p : LPart) : Bool :=
  before.any fun a => !Instr.isPoint a.ins && a.parts.any fun q =>
    q.flying && samePlaces q p &&
    (match p.place with
      | .dev _ => isAtom a.ins || (wideRelease a.ins && isLoad i.ins) || (isLoad a.ins && isStore i.ins)
      | .remote _ _ => false
      | _ => true)

/-- An earlier near part of the same word at the same bytes is not performed (R161). -/
def rowHeld (i : Item) (k : Nat) (p : LPart) : Bool := (i.parts.take k).any fun q => q.flying && samePlaces q p

/-- The bank can grant the near access of part `k`: no rewrite runs there, no earlier access of the context to the bytes waits, a replay
lets an atomic through, and what a release depends on is applied (R105, R161, R217, R253, R362). -/
def nearOk (s : State) (c : CtxLoc) (before : List Item) (i : Item) (k : Nat) (p : LPart) : Bool :=
  let x := s.ctxAt c
  !bankBusy s c p && !partHeld before i p && !rowHeld i k p &&
  (match p.place with
    | .moss o => !isAtom i.ins || s.mayAct x.part capAtomic (128 * c.pcl + o / 4096 % 128) (whoOf x)
    | _ => true) &&
  (!wideRelease i.ins || !s.owed (s.stampWrite (dieOf c.pcl) x.obs).1 none none none)

/-- The stamp of a write to Moss: a release at die scope or wider is stamped, another carries its writer's O (R252, R256). -/
def mossStamp (s : State) (c : CtxLoc) (i : Item) : Stamp × State :=
  if wideRelease i.ins then s.stampWrite (dieOf c.pcl) (s.ctxAt c).obs else ((s.ctxAt c).obs, s)

/-- Performs part `k` of a word at Moss (R102, R108, R226). -/
def nearPart (s : State) (c : CtxLoc) (i : Item) (k : Nat) (p : LPart) : Item × State :=
  let x := s.ctxAt c
  let cl := s.cluAt c.pcl
  match p.place with
  | .moss o =>
    match atomOf i.ins with
    | some (op, word, _, _) =>
      match mossRead cl o p.n with
      | none => (i.failPart k ⟨0x0A, p.addr⟩, s)
      | some g =>
        if g.bad then (i.failPart k ⟨0x0D, p.addr⟩, s)
        else
          let old := leNat g.bytes
          let (st, s) := mossStamp s c i
          match mossWrite cl o (toLE p.n (atomNew op (8 * p.n) old i.b.toNat i.d.toNat)) false st with
          | none => (i.failPart k ⟨0x09, p.addr⟩, s)
          | some cl =>
            ({ (i.setPart k .done).markInv k g.inv with val := atomOld word (BitVec.ofNat 64 old), stamp := i.stamp.max g.stamp },
             (s.setClu c.pcl cl).acted x.part capAtomic (128 * c.pcl + o / 4096 % 128) (whoOf x))
    | none =>
      if isStore i.ins then
        let (st, s) := mossStamp s c i
        match mossWrite cl o (keptData x i p) false st with
        | none => (i.failPart k ⟨0x09, faultAddr i p⟩, s)
        | some cl => (i.setPart k .done, s.setClu c.pcl cl)
      else
        match mossRead cl o p.n with
        | none => (i.failPart k ⟨0x0A, faultAddr i p⟩, s)
        | some g => ((gotBytes i k p g.bytes g.bad 0x0D p.addr g.stamp).markInv k g.inv, s)
  | _ => (i, s)

/-- The near access of part `k` has its reply: one sample for the pieces of one request (R364). -/
def nearDone (s : State) (c : CtxLoc) (i : Item) (k : Nat) (p : LPart) : Item × State :=
  let more := (List.range i.parts.length).any fun j => j != k && (i.parts[j]?).any fun q => q.idx = p.idx && (q.flying || q.isTodo)
  let s := if isStore i.ins then s else s.transfer c true
  nearPart (if more then s else s.sampleFree c.pcl 3) c i k p

/-! ### Requests (R160, R250, R251, R392) -/

/-- An atomic leaves its cluster: overlapping buffered writes drain, and it is stamped (R251). -/
def sendAtom (s : State) (c : CtxLoc) (i : Item) (k : Nat) (p : LPart) (op : Nat) (word : Bool) : Item × State :=
  let s := s.drainAll c.pcl fun b => overlaps b.pa b.data.length p.pa p.n
  let (st, s) := s.stampWrite (dieOf c.pcl) (s.ctxAt c).obs
  (i.setPart k .out,
   { s with transit := s.transit ++
      [⟨.lword c i.seq k none, dieOf c.pcl, st, p.pa, [], false, some ⟨op, word, i.b, i.d⟩, none⟩] })

/-- A write to another module may be sent: at system scope, what it depends on and what a fence put before it is applied (R256,
R258). -/
def farOk (s : State) (c : CtxLoc) (i : Item) : Bool :=
  let x := s.ctxAt c
  !isStore i.ins ||
  (!s.owed x.sysfence none none none &&
   (match releaseScope i.ins with
    | some .system => !s.owed (s.stampWrite (dieOf c.pcl) x.obs).1 none none none
    | _ => true))

/-- Parts of one request can be made now (R105, R250, R393). -/
def groupOk (s : State) (c : CtxLoc) (before : List Item) (i : Item) (ps : List LPart) : Bool :=
  let devs := (ps.filter fun p => match p.place with | .dev _ => p.n != 0 | _ => false).length
  let fars := (ps.filter fun p => match p.place with | .remote _ _ => true | _ => false).length
  (ps.all fun p => !partAhead before p && match p.place with
    | .dev _ => !partHeld before i p
    | .win _ => !partHeld before i p
    | .remote _ _ => farOk s c i
    | .moss _ => true) &&
  (!isStore i.ins || isAtom i.ins || wideRelease i.ins || devs = 0 || (s.cluAt c.pcl).wbuf.length + devs ≤ 512) &&
  (fars = 0 || s.kept + fars ≤ 2 ^ 20)

/-- Requests part `k` of a word: what is near is granted at once unless it is `late`; what is far is sent (R101, R102, R108, R158). -/
def askPart (late : Bool) (c : CtxLoc) (before : List Item) (s : State) (i : Item) (k : Nat) (p : LPart) : Item × State :=
  let data := if isStore i.ins && !isAtom i.ins then storeData (s.ctxAt c) i p else .ok []
  let win := match p.place with | .win _ => true | _ => false
  let s := if (isStore i.ins || win) && p.n != 0 then s.transfer c false else s
  let x := s.ctxAt c
  match p.place, data with
  | _, .error f => (i.failPart k f, s)
  | .moss _, .ok bs =>
    let i := captureRow i p bs
    if late || fills s c i p || !nearOk s c before i k p then (i.setPart k .asked, s) else nearDone s c i k p
  | .win o, .ok bs =>
    if isStore i.ins then (i.setPart k .done, s.onCtx c fun x => writeWin x o bs)
    else
      let (bs, g) := readWin x o p.n
      (gotBytes i k p bs g.isSome 0x0E (BitVec.ofNat 64 (g.getD 0)) {}, s)
  | .dev _, .ok bs =>
    if p.n = 0 then (i.setPart k .done, s)
    else
      match atomOf i.ins with
      | some (op, word, _, _) => if late then (i.setPart k .asked, s) else sendAtom s c i k p op word
      | none =>
        let i := i.setPart k .out
        if !isStore i.ins then (i, s)
        else if wideRelease i.ins then
          let (st, s) := s.stampWrite (dieOf c.pcl) x.obs
          (i, { s with transit := s.transit ++ [⟨.lword c i.seq k none, dieOf c.pcl, st, p.pa, bs, false, none, none⟩] })
        else (i, s.buffer c i.seq k p.pa bs)
  | .remote chip va, .ok bs =>
    if (s.fabric.entry chip).state = 0 then (i.failPart k ⟨0x0F, faultAddr i p⟩, s)
    else
      let s := s.sampleFree c.pcl 0x0B
      let f := { emptyFlit with va := BitVec.ofNat 64 va, len := p.n }
      let who : Origin := .lword c i.seq k none
      match atomOf i.ins with
      | some (op, word, _, _) =>
        (i.setPart k .out,
         s.sendWrite (dieOf c.pcl) x.obs chip 4 { f with op := op + (if word then 16 else 0), a := i.b, b := i.d } who)
      | none =>
        if isStore i.ins then (i.setPart k .out, s.sendWrite (dieOf c.pcl) x.obs chip 3 { f with data := bs } who)
        else ({ i.setPart k .out with stamp := i.stamp.max (s.farStamp chip va p.n) }, s.sendTxn chip 1 f (some who))

/-- Folds `askPart` over the parts of a request, by their places in the word; none after a fault. -/
def askParts (late : Bool) (c : CtxLoc) (before : List Item) : List Nat → Item → State → Item × State
  | [], i, s => (i, s)
  | k :: r, i, s =>
    match i.parts[k]? with
    | none => askParts late c before r i s
    | some p =>
      let (i, s) := if i.stops then (i, s) else askPart late c before s i k p
      askParts late c before r i s

/-- The parts of the next request of a word, by their places in the word: those of the least index that is not requested. -/
def nextGroup (i : Item) : List Nat :=
  match i.parts.find? LPart.isTodo with
  | none => []
  | some p => (List.range i.parts.length).filter fun k => (i.parts[k]?).any fun q => q.idx = p.idx && q.isTodo

/-- A word makes its next request, if it can be made. A release at die scope or wider first drains what its strand has observed
(R256, step 2). -/
def askNext (late : Bool) (c : CtxLoc) (before : List Item) (i : Item) (s : State) : Item × State :=
  let g := nextGroup i
  let s := match releaseScope i.ins with
    | some sc => s.releaseDrain c sc
    | none => s
  if i.stops || !groupOk s c before i (g.filterMap fun k => i.parts[k]?) then (i, s)
  else
    let (i, s) := askParts late c before g i s
    (i.settleParts, s)

/-! ### Start (R30, R160, R433) -/

/-- The L items that a context works on: the handler lane while it holds words, else the queue (R349). -/
def Context.litems (x : Context) : List Item := if x.lane.isEmpty then x.ql.items else x.lane
def Context.setLitems (x : Context) (l : List Item) : Context :=
  if x.lane.isEmpty then { x with ql := { x.ql with items := l } } else { x with lane := l }

/-- Item `k` of the L items of a context is replaced. -/
def State.setLitem (s : State) (c : CtxLoc) (k : Nat) (i : Item) : State :=
  s.onCtx c fun x => x.setLitems (setNth x.litems k i)

/-- The context's L engine may work: the lane in a handler, the queue otherwise. -/
def State.lOn (s : State) (c : CtxLoc) : Bool :=
  let x := s.ctxAt c
  if x.lane.isEmpty then s.engineOn c
  else x.resident && (x.halt.isNone || x.toSave) && !x.debug && !s.frozen c.pcl c.sub && !s.mgr.tripped

/-- The index of the first word of a list that has not started. -/
def firstIdle (l : List Item) : Option Nat :=
  l.findIdx? fun i => !Instr.isPoint i.ins && (match i.phase with | .idle | .parked _ => true | _ => false)

/-- A vector memory word. -/
def isVectorL (i : Instr) : Bool := i.vparts.any fun p => p.1.isL

/-- A vector memory word of the sub-core still requests parts: L starts no other word before; after a scalar word it can start another
(R160, R433). -/
def lBusy (s : State) (c : CtxLoc) : Bool :=
  (List.range 3).any fun k => s.lOn ⟨c.pcl, c.sub, k⟩ && (s.ctxAt ⟨c.pcl, c.sub, k⟩).litems.any fun i => isVectorL i.ins && i.requesting

/-- The tile that an engine owns among the granules and row groups of a word: its address (R103, R158, R268). -/
def ownedPlace (s : State) (c : CtxLoc) (i : Item) (ps : List LPart) : Option Word :=
  let x := s.ctxAt c
  (((lGrans i).find? fun g => (x.gran g).owner).map fun g => winAddr (256 * g)).or
  (ps.findSome? fun p =>
    if p.n = 0 then none
    else match (placeOf x.wsize p.addr).map s.localPlace with
    | some (.win o) =>
      ([o / 256, (o + p.n - 1) / 256].find? fun g => (x.gran g).owner).map fun g => winAddr (256 * g)
    | some (.moss o) => ((rgsOf o p.n).find? fun g => ((s.cluAt c.pcl).rg g).owner).map fun g => mossAddr (4096 * g)
    | _ => none)

/-- The parts of a word that can be named before it starts: for an indexed word, by the indices as they stand. -/
def lParts (s : State) (x : Context) (i : Item) : List LPart :=
  match indexed i.ins with
  | none => plainParts s x i
  | some f =>
    let vis := (List.range (shapeRows i.vshape)).map fun j => (x.gran (f.vb.toNat + j * f.sb.toNat)).read
    indexedParts { i with vis := vis } f

/-- The first unstarted L word of a context, if the words ahead of it let it start: its index, the item, its parts (R30, R433). In a
handler the stop records have been applied (R349, R354). -/
def lNext (s : State) (c : CtxLoc) : Option (Nat × Item × List LPart) :=
  let x := s.ctxAt c
  if !s.lOn c || lBusy s c || (!x.lane.isEmpty && s.savesOut c) then none
  else
    let l := x.litems
    match firstIdle l with
    | none => none
    | some k =>
      match l[k]? with
      | none => none
      | some i =>
        let ps := lParts s x i
        let placed := ps.map fun p => match resolve s c i p with | .ok q => q | .error _ => p
        if !aheadOk i placed [] (l.take k) || ((waitsAll i.ins || !x.lane.isEmpty) && k != 0) then none else some (k, i, ps)

/-- Takes the tokens of a starting word; an error mark is the word's fault (R30, R278). -/
def takeTokens (x : Context) (g : Eng) (i : Item) : Option Mark × Context :=
  match i.phase with
  | .idle =>
    let (ms, y) := x.popAll (popsOf g i.ins)
    (ms.head?, y)
  | _ => (none, x)

/-- The word is over with a fault before any part is requested. -/
def Item.failed (i : Item) (f : Flt) : Item := { noteFault f i with phase := .complete }

/-- The parts of a word are resolved, from the part of its resumption on; all of them before any is performed (R157). -/
def openParts (s : State) (c : CtxLoc) (i : Item) (ps : List LPart) : Item × State :=
  -- a row of another module's memory is one part (R389)
  let last := fun (p : LPart) => if (indexed i.ins).isSome then p.idx else p.idx + (p.off % 64 + p.n - 1) / 64
  let s := noteParts s c (ps.filter fun p => i.time ≤ last p)
  let r := ps.mapM fun p => if last p < i.time then .ok { p with st := .done } else resolve s c i p
  match r with
  | .error f => (i.failed f, s)
  | .ok qs => ({ i with parts := qs }.settleParts, s)

/-- Reads `n` rows of the indices of an indexed word (R160). -/
def readRows (x : Context) (f : VF) : Nat → Item → Item
  | 0, i => i
  | n + 1, i =>
    if (i.fault.any fun e => e.cause != 0x17) || shapeRows i.vshape ≤ i.vis.length then i
    else readRows x f n (readVi x i f i.vis.length)

/-- An indexed word goes on to read its indices; after the last row its parts are known, or it is over with a fault. -/
def readIndices (s : State) (c : CtxLoc) (f : VF) (n : Nat) (i : Item) : Item × State :=
  let i := readRows (s.ctxAt c) f n i
  if (i.fault.any fun e => e.cause != 0x17) || (i.fault.isSome && shapeRows i.vshape ≤ i.vis.length) then
    ({ i with phase := .complete }, s)
  else if shapeRows i.vshape ≤ i.vis.length then openParts s c i (indexedParts i f)
  else (i, s)

/-- L_WORD_START: the first unstarted L word takes its tokens and starts, or its wait is open; its first request is made. `late`: the
near access or atomic that it requests is not performed at once, or only the first row of indices is read (R34, R104, R433). -/
def startL (c : CtxLoc) (late : Bool) (s : State) : State :=
  match lNext s c with
  | none => s
  | some (k, i, ps) =>
    let x := s.ctxAt c
    match (match i.phase with | .idle => emptyPop x .l i.ins | _ => none), ownedPlace s c i ps with
    | some q, _ => s.headWaits c .l wTok (queueId c.ctx q)
    | none, some a => s.headWaits c .l wOwner a
    | none, none =>
      let s := s.waitEnd c 2 0
      let (m, x) := takeTokens (s.ctxAt c) .l i
      let fresh := match i.phase with | .idle => x.lane.isEmpty | _ => false
      let s := s.setCtx c { x with ql := { x.ql with started := if fresh then x.ql.started + 1 else x.ql.started } }
      let i := { i with phase := .going, time := match i.phase with | .parked n => n | _ => 0 }
      let before := x.litems.take k
      let (i, s) :=
        match m with
        | some m => (i.failed ⟨m.cause, m.tval⟩, s)
        | none =>
          let (i, s) := match indexed i.ins with
            | some f => readIndices s c f (if late then 1 else 16) i
            | none => openParts s c i ps
          if i.requesting && !i.parts.isEmpty then askNext late c before i s else (i, s)
      s.setLitem c k i

/-- A started word goes on: it reads a row of indices, or makes its next request (R160). -/
def goOnL (c : CtxLoc) (k : Nat) (late : Bool) (s : State) : State :=
  let x := s.ctxAt c
  match x.litems[k]? with
  | none => s
  | some i =>
    if !s.lOn c || !i.requesting then s
    else
      let (i, s) :=
        match i.parts.isEmpty, indexed i.ins with
        | true, some f => readIndices s c f 1 i
        | _, _ => askNext late c (x.litems.take k) i s
      s.setLitem c k i

/-- Item `k` of the L items and its part `p`, if they satisfy a test. -/
def lPart (x : Context) (k p : Nat) (t : Item → LPart → Bool) : Option (Item × LPart) :=
  match x.litems[k]? with
  | none => none
  | some i => (i.parts[p]?).bind fun q => if t i q then some (i, q) else none

/-- An atomic that is requested and has not left its cluster leaves it (R251, R260). -/
def sendL (c : CtxLoc) (k p : Nat) (s : State) : State :=
  match lPart (s.ctxAt c) k p fun i q => isAtom i.ins && (match q.place, q.st with | .dev _, .asked => true | _, _ => false) with
  | none => s
  | some (i, q) =>
    match atomOf i.ins with
    | none => s
    | some (op, word, _, _) =>
      if s.mgr.tripped then s
      else
        let (i, s) := sendAtom s c i p q op word
        s.setLitem c k i

/-! ### Replies (R34 to R36, R160) -/

/-- A near access that is requested and not performed. -/
def isNear (q : LPart) : Bool :=
  (match q.place with | .moss _ => true | _ => false) && (match q.st with | .asked | .due => true | _ => false)

/-- NEAR_REPLY_DUE: the reply of a near access is not there; the sub-core freezes (R34). -/
def nearDue (c : CtxLoc) (k p : Nat) (s : State) : State :=
  match lPart (s.ctxAt c) k p fun _ q => isNear q with
  | none => s
  | some (i, _) => s.setLitem c k (i.setPart p .due)

/-- Counters of a freeze of `n` cycles in the contexts that are not halted, and its sample (R17, R34, R364). -/
def countFreeze (s : State) (pcl sub n : Nat) : State :=
  (fun s : State => s.sampleNat pcl 2 n) <| (List.range 3).foldl
    (fun s k => s.onCtx ⟨pcl, sub, k⟩ fun x =>
      if x.resident && x.halt.isNone && !x.debug then
        { x with cycles := x.cycles + BitVec.ofNat 64 n, freezecyc := x.freezecyc + BitVec.ofNat 64 n }
      else x) s

/-- A freeze of a sub-core ends with the last overdue reply: its length, which lies below `freezewd` and, after a zero fill, is 16
cycles or more, is counted (R34, R36, R228). -/
def endFreeze (s : State) (pcl sub n : Nat) : State :=
  let u := s.subAt pcl sub
  countFreeze (s.setSub pcl sub { u with fill := 0 }) pcl sub n

/-- NEAR_REPLY_ARRIVAL: the access is granted and performed. If it was overdue and none is left, the freeze has lasted `n` cycles. A
zero fill is always late (R34, R228). -/
def nearArrives (c : CtxLoc) (k p n : Nat) (s : State) : State :=
  match lPart (s.ctxAt c) k p fun _ q => isNear q with
  | none => s
  | some (i, q) =>
    let was := match q.st with | .due => true | _ => false
    let fill := fills s c i q
    if !nearOk s c ((s.ctxAt c).litems.take k) i p q || (fill && !was) || s.mgr.tripped then s
    else
      let (j, t) := nearDone s c i p q
      let t := t.setLitem c k j.settleParts
      let u := t.subAt c.pcl c.sub
      let least := if fill then max 16 u.fill else u.fill
      let t := t.setSub c.pcl c.sub { u with fill := least }
      if !was || t.frozen c.pcl c.sub then t
      else if n = 0 || n < least || (u.freezewd.toNat ≤ n) then s
      else endFreeze t c.pcl c.sub n

/-- The first of several sub-cores in the rotation that starts after one of them (R217). -/
def nextSub (last : Nat) (subs : List Nat) : Option Nat :=
  ((List.range 128).map fun k => (last + 1 + k) % 128).find? subs.contains

/-- Near accesses of several sub-cores ask for one bank in one cycle: the grant rotates in sub-core order, starting after the last winner of a
contest at the bank; the winner's access is made, and the replies of the others are late (R34, R217). -/
def State.contestBank (s : State) (pcl bank : Nat) (reqs : List (CtxLoc × Nat × Nat)) (cycles : Nat) : State :=
  let here := fun (q : LPart) => match q.place with | .moss o => o / 4096 % 128 = bank | _ => false
  let subs := reqs.map fun r => r.1.sub
  if reqs.length < 2 || subs.eraseDups != subs ||
      !(reqs.all fun r => r.1.pcl = pcl && r.1.ok && (lPart (s.ctxAt r.1) r.2.1 r.2.2 fun _ q => isNear q && here q).isSome) then s
  else
    match (nextSub (tget (s.cluAt pcl).lastBank bank 127) subs).bind fun w => reqs.find? fun r => r.1.sub = w with
    | none => s
    | some r =>
      let t := nearArrives r.1 r.2.1 r.2.2 cycles s
      if t = s then s
      else
        let t := t.onClu pcl fun cl => { cl with lastBank := tset cl.lastBank bank r.1.sub 127 }
        (reqs.filter (· != r)).foldl (fun t q => nearDue q.1 q.2.1 q.2.2 t) t

/-- The overdue accesses of a word are abandoned with cause 0x0C; a store or atomic was performed or not, as the list says access by
access (R36). -/
def abandonPart (c : CtxLoc) (k : Nat) (r : State × List Bool) (p : Nat) : State × List Bool :=
  match lPart (r.1.ctxAt c) k p fun _ q => (match q.st with | .due => true | _ => false) with
  | none => r
  | some (i, q) =>
    let s := if r.2.headD false && isStore i.ins then (nearPart r.1 c i p q).2 else r.1
    let off := match q.place with | .moss o => o | _ => 0
    (s.setLitem c k (i.failPart p ⟨0x0C, BitVec.ofNat 64 off⟩).settleParts, r.2.drop 1)

/-- FREEZE_WATCHDOG_EXPIRY: every overdue access of the sub-core is abandoned (R36). While every context with one is halted for
debugging, from the halt on, the watchdog does not expire (R358). -/
def watchdog (pcl sub : Nat) (written : List Bool) (s : State) : State :=
  let ctxs := (List.range 3).map fun k => (⟨pcl, sub, k⟩ : CtxLoc)
  let overdue := fun (c : CtxLoc) => (s.ctxAt c).litems.any fun i => i.parts.any fun q => match q.st with | .due => true | _ => false
  let halted := fun (c : CtxLoc) =>
    (s.ctxAt c).debug || (s.ctxAt c).halt.any fun h => match h.why with | .debug => true | _ => false
  if !s.frozen pcl sub || (ctxs.all fun c => !overdue c || halted c) then s
  else
    let r := ctxs.foldl (fun r c =>
      (List.range (s.ctxAt c).litems.length).foldl (fun r k =>
        (List.range (((s.ctxAt c).litems[k]?).elim 0 fun i => i.parts.length)).foldl (abandonPart c k) r) r) (s, written)
    endFreeze r.1 pcl sub (s.subAt pcl sub).freezewd.toNat

/-- FAR_REPLY: the reply of a load of this module's device memory: its bytes as they stand now at the address translated at the start,
or an error of its home. It does not pass an earlier load of the context, nor an earlier part of its own word at its bytes (R35, R102,
R105, R161, R243). -/
def farReply (c : CtxLoc) (k p : Nat) (homeError : Bool) (s : State) : State :=
  let far := fun (i : Item) (q : LPart) =>
    Instr.readsOnly i.ins && (match q.place, q.st with | .dev _, .out => true | _, _ => false)
  match lPart (s.ctxAt c) k p far with
  | none => s
  | some (i, q) =>
    if rowHeld i p q || ((s.ctxAt c).litems.take k).any fun a => a.parts.any fun b => b.flying && isLoad a.ins && samePlaces b q then s
    else
      let (i, s) :=
        if homeError then (i.failPart p ⟨0x0F, faultAddr i q⟩, s)
        else
          let (bs, bad, st, s) := devRead s c q.pa q.n
          (gotBytes i p q bs bad 0x0D q.addr st, s.transfer c false)
      s.setLitem c k i.settleParts

/-! ### Finish (R30, R104, R159) -/

/-- The destination of a finishing L word: rd, the rows of vd, or a mask register (R101, R108, R156, R158). -/
def writeBack (x : Context) (i : Item) : Except Flt Context :=
  match i.ins with
  | .vld _ | .vldx _ | .mld _ => writeParts x i (rowGood i) fun _ => true
  | ins =>
    if isLoad ins then
      match writes ins with
      | some rd => .ok (x.setRg rd i.val)
      | none => .ok x
    else .ok x

/-- A returned part of a vector load may be written before the word finishes (R32, R160): its row has returned without error, and what is
left of the word can find no fault but that of a far row, after which the others stay (R104, R159). -/
def mayWritePart (i : Item) (k : Nat) : Bool :=
  (match i.phase with | .going | .complete => true | _ => false) && !i.parts.isEmpty &&
  (i.parts.all fun p => p.isDone || match p.place with | .dev _ | .remote _ _ => true | _ => false) &&
  match i.ins with
  | .vld _ => rowGood i (k / 4)
  | .vldx f => rowGood i (k / f.fmt.count)
  | _ => false

/-- A returned quarter, or element of an indexed load, is written before the word finishes: the word is the oldest, and no row forbids its
write (R32, R160). The parts may come in any order. -/
def writeQuarter (c : CtxLoc) (k : Nat) (s : State) : State :=
  let x := s.ctxAt c
  match x.ql.items with
  | [] => s
  | i :: r =>
    if !mayWritePart i k || i.wrote.contains k || k < i.time || i.stops || !x.lane.isEmpty || x.parked || x.debug || !x.resident ||
        s.frozen c.pcl c.sub || s.mgr.tripped then s
    else
      match writeParts x i (fun _ => true) (· = k) with
      | .error _ => s
      | .ok y => s.setCtx c { y.observe i.stamp with ql := { x.ql with items := { i with wrote := k :: i.wrote } :: r } }

/-- The pushes of a finished head word of engine `g`; the word leaves its queue unless a push overflowed, which is
cause 0x12 with the word marked (R30, R31). -/
def finishHead (g : Eng) (c : CtxLoc) (i : Item) (qs : List Nat) (s : State) : State :=
  let (o, x) := (s.ctxAt c).pushAll qs
  match o with
  | none =>
    s.setCtx c (x.setQueue g { x.queue g with items := (x.queue g).items.drop 1, finished := (x.queue g).finished + 1 })
  | some q =>
    let left := ((otherEngs g).zip [1, 2, 4]).foldl
      (fun (b : BitVec 3) p => if qs.contains (tq g p.1) && 8 ≤ (tget (s.ctxAt c).toks (tq g p.1) {}).toks.length then b ||| p.2 else b) 0
    let x := x.setQueue g { x.queue g with items := setNth (x.queue g).items 0 { i with phase := .pushing left } }
    (s.setCtx c x).raise c 0x12 (queueId c.ctx q) i.pc (some (g, i.seq, i.pc))

/-- The queues of a push mask. -/
def maskQueues (g : Eng) (m : BitVec 3) : List Nat := (named g m).map fun r => tq g r

/-- A word that still has pushes to make, made again after its halt (R344, R346). -/
def rePush (g : Eng) (c : CtxLoc) (s : State) : Option State :=
  match (s.ctxAt c |>.queue g).items with
  | i :: _ =>
    match i.phase with
    | .pushing m => if s.engineOn c then some (finishHead g c i (maskQueues g m) s) else none
    | _ => none
  | [] => none

/-- The oldest L word, complete with a fault: what survives of a load of far rows is written, and the fault is raised. The word
stands at its next part (R104, R159, R344). In a handler that is to be saved the fault ends the strand (R350, log 20). -/
def failL (c : CtxLoc) (i : Item) (r : List Item) (f : Flt) (s : State) : State :=
  let x := s.ctxAt c
  if !x.lane.isEmpty && x.toSave then s.endError c f.cause f.tval
  else
  let mark := if x.lane.isEmpty then some (.l, i.seq, i.pc) else none
  let park := fun (n : Nat) => x.setLitems (i.parkL n :: r)
  match (if f.cause = 0x0F && Instr.readsOnly i.ins && !(i.parts.isEmpty) && x.lane.isEmpty then writeBack x i else .error f), i.ins with
  | .ok y, .vld _ | .ok y, .vldx _ | .ok y, .mld _ =>
    (s.setCtx c ({ y.observe i.stamp with rdinv := y.rdinv || i.sawInv }.setLitems (i.parkL i.nextPart :: r))).raise c f.cause f.tval i.pc
      mark
  | .error _, _ => (s.setCtx c (park (if Instr.readsOnly i.ins then i.time else i.nextPart))).raise c f.cause f.tval i.pc mark
  | _, _ => (s.setCtx c (park i.nextPart)).raise c f.cause f.tval i.pc mark

/-- L_WORD_FINISH: the oldest L word is complete: it writes its destination and pushes, or its fault is raised
(R30, R104, R159). A halted context still finishes a word whose last part fell before the stop (R345). -/
def finishL (c : CtxLoc) (s : State) : State :=
  match rePush .l c s with
  | some s' => s'
  | none =>
    let x := s.ctxAt c
    match x.litems with
    | [] => s
    | i :: r =>
      let lane := !x.lane.isEmpty
      let ready := (match i.phase with | .complete => true | _ => false) && !Instr.isPoint i.ins && x.resident &&
        !s.frozen c.pcl c.sub && !s.mgr.tripped && (lane || (!x.parked && !x.debug)) && (i.fault.isNone || x.halt.isNone || (lane && x.toSave))
      if !ready then s
      else
        match i.fault with
        | some f => failL c i r f s
        | none =>
          match writeBack x i with
          | .error e => failL c { i with parts := [] } r e s
          | .ok y =>
            let y := { y.observe i.stamp with rdinv := y.rdinv || i.sawInv }
            if lane then s.setCtx c { y with lane := r }
            else finishHead .l c i (pushesOf .l i.ins) (s.setCtx c y)

/-! ### Issue of scalar memory words (R101, R107 to R109) -/

/-- A scalar memory word at issue: the address checks, then the L queue, or the handler lane (R101, R349). -/
def issueL (i : Instr) (kinds : Nat) (winOk : Bool) (n : Nat) (addr : Context → Word) (data old : Context → Word)
    (s : State) : Out :=
  issue i s fun s =>
    match checkAddr s.cx kinds winOk (addr s.cx) n with
    | .bad c t => .next (s.fault c t)
    | .ok _ =>
      if s.cx.intrap then
        .next (s.onCx fun x =>
          { x with lane := x.lane ++ [mkItem x i x.ql (addr x) (data x) (old x) 0], pc := x.pc + 4 })
      else .next (enqueue .l i 1 (addr s.cx) (data s.cx) (old s.cx) 0 s)

/-- LD (R101). -/
def execLd (wd : Width) (rd rs1 : Reg) (imm : BitVec 11) (s : State) : Out :=
  issueL (.ld wd rd rs1 imm) 1 true (widthBytes wd) (fun x => x.rg rs1 + imm.signExtend 64) (fun _ => 0) (fun _ => 0) s

/-- ST (R101). -/
def execSt (wd : Width) (rs2 rs1 : Reg) (imm : BitVec 11) (s : State) : Out :=
  issueL (.st wd rs2 rs1 imm) 2 true (widthBytes wd) (fun x => x.rg rs1 + imm.signExtend 64) (fun x => x.rg rs2)
    (fun _ => 0) s

/-- LDA (R107). -/
def execLda (wd : Width) (sc : Scope) (rd rs1 : Reg) (s : State) : Out :=
  issueL (.lda wd sc rd rs1) 1 true (widthBytes wd) (fun x => x.rg rs1) (fun _ => 0) (fun _ => 0) s

/-- STL (R107). -/
def execStl (wd : Width) (sc : Scope) (rs rs1 : Reg) (s : State) : Out :=
  issueL (.stl wd sc rs rs1) 2 true (widthBytes wd) (fun x => x.rg rs1) (fun x => x.rg rs) (fun _ => 0) s

/-- AMO.SWAP (R108). -/
def execAmoSwap (word : Bool) (sc : Scope) (seq : Bool) (rd rs1 rs2 : Reg) (s : State) : Out :=
  issueL (.amoSwap word sc seq rd rs1 rs2) 3 false (if word then 4 else 8) (fun x => x.rg rs1) (fun x => x.rg rs2)
    (fun _ => 0) s

/-- AMO.ADD (R108). -/
def execAmoAdd (word : Bool) (sc : Scope) (seq : Bool) (rd rs1 rs2 : Reg) (s : State) : Out :=
  issueL (.amoAdd word sc seq rd rs1 rs2) 3 false (if word then 4 else 8) (fun x => x.rg rs1) (fun x => x.rg rs2)
    (fun _ => 0) s

/-- AMO.AND (R108). -/
def execAmoAnd (word : Bool) (sc : Scope) (seq : Bool) (rd rs1 rs2 : Reg) (s : State) : Out :=
  issueL (.amoAnd word sc seq rd rs1 rs2) 3 false (if word then 4 else 8) (fun x => x.rg rs1) (fun x => x.rg rs2)
    (fun _ => 0) s

/-- AMO.OR (R108). -/
def execAmoOr (word : Bool) (sc : Scope) (seq : Bool) (rd rs1 rs2 : Reg) (s : State) : Out :=
  issueL (.amoOr word sc seq rd rs1 rs2) 3 false (if word then 4 else 8) (fun x => x.rg rs1) (fun x => x.rg rs2)
    (fun _ => 0) s

/-- AMO.XOR (R108). -/
def execAmoXor (word : Bool) (sc : Scope) (seq : Bool) (rd rs1 rs2 : Reg) (s : State) : Out :=
  issueL (.amoXor word sc seq rd rs1 rs2) 3 false (if word then 4 else 8) (fun x => x.rg rs1) (fun x => x.rg rs2)
    (fun _ => 0) s

/-- AMO.MIN (R108). -/
def execAmoMin (word : Bool) (sc : Scope) (seq : Bool) (rd rs1 rs2 : Reg) (s : State) : Out :=
  issueL (.amoMin word sc seq rd rs1 rs2) 3 false (if word then 4 else 8) (fun x => x.rg rs1) (fun x => x.rg rs2)
    (fun _ => 0) s

/-- AMO.MAX (R108). -/
def execAmoMax (word : Bool) (sc : Scope) (seq : Bool) (rd rs1 rs2 : Reg) (s : State) : Out :=
  issueL (.amoMax word sc seq rd rs1 rs2) 3 false (if word then 4 else 8) (fun x => x.rg rs1) (fun x => x.rg rs2)
    (fun _ => 0) s

/-- AMO.MINU (R108). -/
def execAmoMinu (word : Bool) (sc : Scope) (seq : Bool) (rd rs1 rs2 : Reg) (s : State) : Out :=
  issueL (.amoMinu word sc seq rd rs1 rs2) 3 false (if word then 4 else 8) (fun x => x.rg rs1) (fun x => x.rg rs2)
    (fun _ => 0) s

/-- AMO.MAXU (R108). -/
def execAmoMaxu (word : Bool) (sc : Scope) (seq : Bool) (rd rs1 rs2 : Reg) (s : State) : Out :=
  issueL (.amoMaxu word sc seq rd rs1 rs2) 3 false (if word then 4 else 8) (fun x => x.rg rs1) (fun x => x.rg rs2)
    (fun _ => 0) s

/-- AMO.FADD (R108). -/
def execAmoFadd (sc : Scope) (seq : Bool) (rd rs1 rs2 : Reg) (s : State) : Out :=
  issueL (.amoFadd sc seq rd rs1 rs2) 3 false 4 (fun x => x.rg rs1) (fun x => x.rg rs2) (fun _ => 0) s

/-- CAS: the comparand is rd as it was at issue (R109). -/
def execCas (word : Bool) (sc : Scope) (seq : Bool) (rd rs1 rs2 : Reg) (s : State) : Out :=
  issueL (.cas word sc seq rd rs1 rs2) 3 false (if word then 4 else 8) (fun x => x.rg rs1) (fun x => x.rg rs2)
    (fun x => x.rg rd) s

/-! ### Events of the L engine -/

/-- L_WORD_START (R433). -/
def execLWordStart (c : CtxLoc) (late : Bool) (s : State) : Out := atCtx c s (startL c late)

/-- NEAR_REPLY_DUE (R34). -/
def execNearReplyDue (c : CtxLoc) (k : PartRef) (s : State) : Out := atCtx c s (nearDue c k.item k.part)

/-- NEAR_REPLY_ARRIVAL (R34). -/
def execNearReplyArrival (c : CtxLoc) (k : PartRef) (cycles : Nat) (s : State) : Out :=
  atCtx c s (nearArrives c k.item k.part cycles)

/-- FREEZE_WATCHDOG_EXPIRY (R36). -/
def execFreezeWatchdogExpiry (pcl sub : Nat) (written : List Bool) (s : State) : Out :=
  noObject (pcl < 40 && sub < 128) "sub-core" s fun s => .next (watchdog pcl sub written s)

/-- FAR_REPLY (R160). -/
def execFarReply (c : CtxLoc) (k : PartRef) (homeError : Bool) (s : State) : Out :=
  atCtx c s (farReply c k.item k.part homeError)

/-- L_WORD_FINISH (R30). -/
def execLWordFinish (c : CtxLoc) (s : State) : Out := atCtx c s (finishL c)

/-- WRITE_BUFFER_DRAIN: buffered write `k` of a cluster drains (R250, R252). -/
def execWriteBufferDrain (pcl k : Nat) (s : State) : Out :=
  atClu pcl s fun s =>
    match (s.cluAt pcl).wbuf[k]? with
    | some b => if b.stamp.isNone && !s.mgr.tripped then s.drainWith pcl b else s
    | none => s

/-- The home has failed a write to the save area of a strand, which ends with error if it is still there (R102, R350). -/
def failedSave (s : State) (c : CtxLoc) (serial va : Nat) : State :=
  let x := s.ctxAt c
  if x.resident && x.serial = serial then s.endError c 0x0F (BitVec.ofNat 64 va) else s

/-- WRITE_APPLIED: a stamped write under way to this module's memory is applied at its home, once every write of its dependency set
has been; or its home fails it (R102, R248, R253). -/
def execWriteApplied (k : WriteRef) (s : State) : Out :=
  match s.transit[k.place]? with
  | none => .next s
  | some t =>
    if s.owed t.stamp (some t) none none || t.chip.isSome || s.mgr.tripped then .next s
    else .next (match t.who, k.homeError with
      | .save c n va, true => failedSave { s with transit := s.transit.erase t } c n va
      | _, _ => s.applyOne t k.homeError)

end Sys2Proof.Machine
end

