-- ==== Sys2Proof/Machine/Sregs.lean ====
section
/-!
DEFINITION. Special registers: MFS and MTS for every register that the spec describes (R9 to R18, R81, R82, R113, R193
to R196, R208, R222, R223, R293, R294, R300, R301, R304, R347, R356, R363 to R365, R377, R398, R423, R425).
-/
namespace Sys2Proof.Machine

/-- Defaults and guards of the band table, one word per band (R221, R223). -/
def guardWord (b : Nat) : Word :=
  let t : List (List Nat) :=
    [[24, 48, 96, 160, 240, 200], [16, 32, 64, 128, 200, 160], [12, 24, 48, 96, 150, 120], [8, 16, 32, 64, 100, 80],
     [6, 12, 24, 48, 72, 60], [4, 8, 16, 32, 48, 40], [3, 6, 12, 24, 32, 26], [2, 4, 8, 16, 20, 16]]
  BitVec.ofNat 64 (leNat ((t.getD b []).map (BitVec.ofNat 8)))

/-- `leavegrant`, the matrix share and the engine pool of a grant (R292). -/
def poolOf (cl : Cluster) : Nat := cl.grant * cl.eng / 8
def matrixShare (cl : Cluster) : Nat := cl.grant - poolOf cl

/-- The sum of the fixed grants of a cluster's other sub-cores (R301). -/
def fixedSum (s : State) (pcl but : Nat) : Nat :=
  ((List.range 128).filter (· != but)).foldl (fun n k => n + (s.subAt pcl k).fixed) 0

/-- The idle share i of a cluster, by the part's own idle floor (R1, R420). -/
def State.idleShare (s : State) : Nat := s.mgr.idle / 40

/-- Clusters in no partition, the sum of the floors, and the allowance S(p) under a cap (R420, R421). -/
def looseClusters (s : State) : Nat := ((List.range 40).filter fun c => (s.partOf c).isNone).length
def formedParts (s : State) : List Nat := (List.range 16).filter fun p => (s.partAt p).formed
def floorSum (s : State) : Nat := (formedParts s).foldl (fun n p => n + (s.partAt p).floor) 0
def allowance (s : State) (cap p : Nat) : Int :=
  let u := looseClusters s
  let surplus : Int := (cap : Int) - (s.idleShare * u : Nat) - (floorSum s : Nat)
  (s.partAt p).floor + Int.fdiv (surplus * ((s.partAt p).list.length : Nat)) ((40 - u : Nat) : Int)

/-- The special registers that exist (R113). -/
def assignedReg (n : Nat) : Bool :=
  n ≤ 0x006 || (0x010 ≤ n && n ≤ 0x014) || (0x018 ≤ n && n ≤ 0x01A) || (0x020 ≤ n && n ≤ 0x022) ||
  (0x030 ≤ n && n ≤ 0x03F) || (0x040 ≤ n && n ≤ 0x047) || n = 0x050 || n = 0x051 || (0x060 ≤ n && n ≤ 0x063) ||
  n = 0x070 || n = 0x071 || (0x080 ≤ n && n ≤ 0x083) || (0x0A0 ≤ n && n ≤ 0x0A4) || n = 0x100 || n = 0x101 ||
  n = 0x110 || n = 0x111 || (0x120 ≤ n && n ≤ 0x12F) || n = 0x130 || (0x140 ≤ n && n ≤ 0x143) || n = 0x150 ||
  (0x160 ≤ n && n ≤ 0x16F) || n = 0x170 || n = 0x180 || n = 0x190 || n = 0x191

/-- `leave` (R300); the position in the interval is a free value (log 6). -/
def leaveWord (s : State) : Word :=
  let u := s.subAt s.focus.pcl s.focus.sub
  BitVec.ofNat 64 ((Config.freePos s.free).toNat * 2 ^ 52 + min u.refill 0xFFFFF * 2 ^ 32 + s.cx.resv * 2 ^ 16 + u.account)

/-- The code within the bounds of the part (R425). -/
def clampBias (code : Nat) : BitVec 4 := BitVec.ofNat 4 (max Config.biasMin.toNat (min Config.biasMax.toNat code))

/-- The value of a special register as the focused context reads it. -/
def readReg (s : State) (n : Nat) : Word :=
  let x := s.cx
  let cl := s.cluAt s.focus.pcl
  let u := s.subAt s.focus.pcl s.focus.sub
  let p := s.partAt x.part
  if n = 0x000 then putBits x.stat 6 2 s.focus.ctx
  else if n = 0x001 then x.estat
  else if n = 0x002 then x.epc
  else if n = 0x003 then x.ecause
  else if n = 0x004 then x.etval
  else if n = 0x005 then x.tvec
  else if n = 0x006 then x.escratch
  else if n = 0x010 then x.strandid.setWidth 64
  else if n = 0x011 then x.launchid.setWidth 64
  else if n = 0x012 then ctxloc s.focus
  else if n = 0x013 then x.grp.setWidth 64
  else if n = 0x014 then BitVec.ofNat 64 (x.age.toNat * 2 ^ 32 + x.eff.toNat * 16 + x.base.toNat)
  else if n = 0x018 then x.cycles + Config.freeCycles s.free
  else if n = 0x019 then x.freezecyc
  else if n = 0x01A then x.waitcyc + Config.freeCycles s.free
  else if n = 0x020 then x.vshape
  else if n = 0x021 then x.fpctl
  else if n = 0x022 then x.fpflags
  else if 0x030 ≤ n && n ≤ 0x03F then tget x.tviews (n - 0x030) 0
  else if 0x040 ≤ n && n ≤ 0x047 then tget x.aviews (n - 0x040) 0
  else if n = 0x050 then BitVec.ofNat 64 (x.wsize * 512 + x.wbase)
  else if n = 0x051 then x.slots.setWidth 64
  else if n = 0x060 then b2w x.preq
  else if n = 0x061 then x.pdeadline.setWidth 64
  else if n = 0x062 then x.yieldtab
  else if n = 0x063 then x.savearea
  else if n = 0x070 then leaveWord s
  else if n = 0x071 then BitVec.ofNat 64 u.fixed
  else if 0x080 ≤ n && n ≤ 0x083 then tget x.rings (n - 0x080) 0
  else if n = 0x0A0 then x.dbgctl.setWidth 64
  else if 0x0A1 ≤ n && n ≤ 0x0A4 then
    let w := tget x.dwatch (n - 0x0A1) 0
    putBits w 0 (bitsOf w 56 4 + 3) 0
  else if n = 0x100 then x.eissue
  else if n = 0x101 then x.emark
  else if n = 0x110 then u.freezewd.setWidth 64
  else if n = 0x111 then x.evspin.setWidth 64
  else if 0x120 ≤ n && n ≤ 0x127 then tget p.mosslim (n - 0x120) (guardWord (n - 0x120))
  else if 0x128 ≤ n && n ≤ 0x12F then guardWord (n - 0x128)
  else if n = 0x130 then BitVec.ofNat 64 (cl.temp.toNat * 256 + cl.band.toNat)
  else if n = 0x140 then BitVec.ofNat 64 (cl.eng * 2 ^ 24 + cl.grant)
  else if n = 0x141 then cl.leaveslot
  else if n = 0x142 then cl.droopctl
  else if n = 0x143 then BitVec.ofNat 64
    (Config.biasMax.toNat * 2 ^ 12 + Config.biasMin.toNat * 2 ^ 8 + b2n cl.biasman * 16 + (clampBias cl.biascode.toNat).toNat)
  else if n = 0x150 then BitVec.ofNat 64 (p.clusters.toNat * 16 + x.part)
  else if 0x160 ≤ n && n ≤ 0x16F then (tget cl.mons (n - 0x160) {}).cfg
  else if n = 0x170 then cl.monsnap
  else if n = 0x180 then
    let up := (List.range 18).foldl
      (fun v l => if (tget s.fabric.links l {}).up && !(tget s.fabric.links l {}).training then v + 2 ^ (22 + l) else v) 0
    BitVec.ofNat 64 (up + s.fabric.gen.toNat * 2 ^ 12 + s.fabric.chip)
  else if n = 0x190 then BitVec.ofNat 64
    (b2n p.fchg * 2 ^ 49 + b2n s.mgr.clamped * 2 ^ 48 + s.mgr.cap * 2 ^ 32 + (allowance s s.mgr.cap x.part).toNat % 2 ^ 16 * 2 ^ 16 + p.floor % 2 ^ 16)
  else if n = 0x191 then p.pwrevt.setWidth 64
  else 0

/-- What reading a register leaves: a cycle counter that is read has grown to what was read (R17, log 6). -/
def afterRead (s : State) (n : Nat) : State :=
  if n = 0x018 then { s.onCx fun x => { x with cycles := x.cycles + Config.freeCycles s.free } with free := s.free + 1 }
  else if n = 0x01A then { s.onCx fun x => { x with waitcyc := x.waitcyc + Config.freeCycles s.free } with free := s.free + 1 }
  else if n = 0x070 then { s with free := s.free + 1 }
  else s

/-- MFS: number and privilege checks, then rd (R9, R41, R113). -/
def execMfs (n : BitVec 12) (rd : Reg) (s : State) : Out :=
  issue (.mfs n rd) s fun s =>
    if !assignedReg n.toNat then .next (s.fault 0x02 (n.setWidth 64))
    else if 0x100 ≤ n.toNat && !s.cx.sup then .next (s.fault 0x03 (n.setWidth 64))
    else
      let v := readReg s n.toNat
      .next ((afterRead s n.toNat).onCx fun x => (x.setRg rd v).retire)

/-- The privilege that an MTS to a register needs: none (RW), supervisor (RS), supervisor and the partition's expert
enable, or no privilege suffices (R). -/
inductive Need where
  | any | sup | expert | never
  deriving DecidableEq, Repr

/-- The privilege code of each register (R3, R9). -/
def needOf (n : Nat) : Need :=
  if n = 0x020 || n = 0x021 || n = 0x022 || (0x030 ≤ n && n ≤ 0x03F) || (0x040 ≤ n && n ≤ 0x047) || n = 0x051 then .any
  else if n ≤ 0x006 || n = 0x014 || (0x060 ≤ n && n ≤ 0x063) || (0x0A0 ≤ n && n ≤ 0x0A4) ||
    (0x160 ≤ n && n ≤ 0x170) || n = 0x191 then .sup
  else if n = 0x071 || n = 0x110 || n = 0x111 || (0x120 ≤ n && n ≤ 0x127) || (0x140 ≤ n && n ≤ 0x143) then .expert
  else .never

/-- Whether the focused context has the privilege. -/
def mayWrite (s : State) (n : Nat) : Bool :=
  match needOf n with
  | .any => true
  | .sup => s.cx.sup
  | .expert => s.cx.sup && (s.partAt s.cx.part).expert
  | .never => false

/-- An MTS: number, privilege, then the register's own effect; the word completes at dispatch (R9, R41, R113). A
value that the register refuses is an error with its cause and `etval`. -/
def mtsForm (i : Instr) (n : Nat) (rs1 : Reg) (k : State → Word → Except (BitVec 8 × Word) State) (s : State) : Out :=
  issue i s fun s =>
    if !assignedReg n then .next (s.fault 0x02 (BitVec.ofNat 64 n))
    else if !mayWrite s n then .next (s.fault 0x03 (BitVec.ofNat 64 n))
    else
      match k s (s.cx.rg rs1) with
      | .error e => .next (s.fault e.1 e.2)
      | .ok s' => .next (s'.onCx Context.retire)

/-- The registers whose MTS has no row of its own. -/
def writeReg (s : State) (n : Nat) (v : Word) : Except (BitVec 8 × Word) State :=
  if n = 0x000 then
    .ok (s.onCx fun x => { x with stat := putBits (putBits x.stat 0 4 (bitsOf v 0 4)) 8 3 (bitsOf v 8 3) })
  else if n = 0x001 then .ok (s.onCx fun x => { x with estat := v })
  else if n = 0x002 then .ok (s.onCx fun x => { x with epc := putBits v 0 2 0 })
  else if n = 0x003 then .ok (s.onCx fun x => { x with ecause := BitVec.ofNat 64 (bitsOf v 0 8) })
  else if n = 0x004 then .ok (s.onCx fun x => { x with etval := v })
  else if n = 0x005 then .ok (s.onCx fun x => { x with tvec := putBits v 0 2 0 })
  else if n = 0x006 then .ok (s.onCx fun x => { x with escratch := v })
  else if n = 0x014 then .ok (s.onCx fun x => { x with stat := putBits x.stat 8 3 (bitsOf v 0 3) })
  else if n = 0x020 then .ok (s.onCx fun x => { x with vshape := BitVec.ofNat 64 (bitsOf v 0 12) })
  else if n = 0x021 then .ok (s.onCx fun x => { x with fpctl := BitVec.ofNat 64 (bitsOf v 0 2) })
  else if 0x030 ≤ n && n ≤ 0x03F then
    .ok (s.onCx fun x => { x with tviews := tset x.tviews (n - 0x030) (BitVec.ofNat 64 (bitsOf v 0 34)) 0 })
  else if 0x040 ≤ n && n ≤ 0x047 then
    .ok (s.onCx fun x => { x with aviews := tset x.aviews (n - 0x040) (BitVec.ofNat 64 (bitsOf v 0 9)) 0 })
  else if n = 0x061 then .ok (s.onCx fun x => { x with pdeadline := BitVec.ofNat 32 (bitsOf v 0 32) })
  else if n = 0x062 then .ok (s.onCx fun x => { x with yieldtab := putBits v 0 6 0 })
  else if n = 0x063 then .ok (s.onCx fun x => { x with savearea := putBits (putBits v 0 8 0) 48 16 0 })
  else if n = 0x0A0 then .ok (s.onCx fun x => { x with dbgctl := BitVec.ofNat 3 (bitsOf v 0 3) })
  else if 0x0A1 ≤ n && n ≤ 0x0A4 then
    if bitsOf v 60 2 = 3 then .error (0x18, v)
    else .ok (s.onCx fun x => { x with dwatch := tset x.dwatch (n - 0x0A1) (putBits v 48 8 0) 0 })
  else if n = 0x110 then
    let u := s.subAt s.focus.pcl s.focus.sub
    .ok (s.setSub s.focus.pcl s.focus.sub { u with freezewd := BitVec.ofNat 16 (max 64 (bitsOf v 0 16)) })
  else if n = 0x111 then .ok (s.onCx fun x => { x with evspin := BitVec.ofNat 32 (bitsOf v 0 32) })
  else if n = 0x142 then
    .ok (s.onClu s.focus.pcl fun cl =>
      { cl with droopctl := putBits (putBits cl.droopctl 16 8 (max 16 (min 120 (bitsOf v 16 8)))) 0 12 (max 16 (bitsOf v 0 12)) })
  else .ok s

/-- MTS of the registers without a row of their own (R113). -/
def execMts (n : BitVec 12) (rs1 : Reg) (s : State) : Out :=
  mtsForm (.mts n rs1) n.toNat rs1 (fun s v => writeReg s n.toNat v) s

/-- MTS to `fpflags` replaces the register (R82, R83). -/
def execMtsFpflags (rs1 : Reg) (s : State) : Out :=
  mtsForm (.mtsFpflags rs1) 0x022 rs1 (fun s v => .ok (s.onCx fun x => { x with fpflags := v &&& 0xFDFF })) s

/-- Slots that the other resident contexts of the sub-core hold (R13). Only masks in effect count: a mask that is written and has not
taken effect, another context's or the own, is in no test, so that two such masks can overlap (DESIGN CHOICE, log 41). -/
def otherSlots (s : State) : BitVec 8 :=
  (List.range 3).foldl
    (fun m k =>
      let y := s.ctxAt ⟨s.focus.pcl, s.focus.sub, k⟩
      if k != s.focus.ctx && y.resident then m ||| y.slots else m) 0

/-- MTS to `slotmask` (R13): the mask takes effect at the next frame. -/
def execMtsSlotmask (rs1 : Reg) (s : State) : Out :=
  mtsForm (.mtsSlotmask rs1) 0x051 rs1
    (fun s v =>
      let m := BitVec.ofNat 8 (bitsOf v 0 8)
      if s.cx.sup then
        if m = 0 || m &&& otherSlots s != 0 then .error (0x18, v)
        else .ok (s.onCx fun x => { x with slotsNext := some m })
      else if m = 0 || m &&& ~~~ s.cx.slots != 0 then .error (0x03, 0x051)
      else .ok (s.onCx fun x => { x with slotsNext := some m })) s

/-- SLOTMASK_TAKES_EFFECT: a frame starts; in a freeze the frames stand still (R13, R27, R34). -/
def execSlotmaskTakesEffect (c : CtxLoc) (s : State) : Out :=
  atCtx c s fun s =>
    if s.frozen c.pcl c.sub then s
    else s.onCtx c fun x =>
      match x.slotsNext with
      | some m => { x with slots := m, slotsNext := none }
      | none => x

/-- MTS to `preq`: setting it starts the countdown, clearing it stops it (R195, R352). -/
def execMtsPreq (rs1 : Reg) (s : State) : Out :=
  mtsForm (.mtsPreq rs1) 0x060 rs1
    (fun s v => .ok (s.onCx fun x =>
      { x with preq := bitOf v 0, counting := bitOf v 0 && (if x.preq then x.counting else x.ystate != 1) })) s

/-- MTS to `leavegrant` (R301). -/
def execMtsLeavegrant (rs1 : Reg) (s : State) : Out :=
  mtsForm (.mtsLeavegrant rs1) 0x071 rs1
    (fun s v =>
      let n := bitsOf v 0 16
      let c := s.focus
      if 32768 < n || matrixShare (s.cluAt c.pcl) / 2 < fixedSum s c.pcl c.sub + n then .error (0x18, v)
      else .ok (s.setSub c.pcl c.sub { s.subAt c.pcl c.sub with fixed := n })) s

/-- MTS to a `mosslim` register: every field from 1 up to its guard (R222). -/
def execMtsMosslim (k : BitVec 3) (rs1 : Reg) (s : State) : Out :=
  mtsForm (.mtsMosslim k rs1) (0x120 + k.toNat) rs1
    (fun s v =>
      let ok := (List.range 6).all fun j =>
        1 ≤ bitsOf v (8 * j) 8 && bitsOf v (8 * j) 8 ≤ bitsOf (guardWord k.toNat) (8 * j) 8
      if ok then
        .ok (s.onPart s.cx.part fun p =>
          { p with mosslim := tset p.mosslim k.toNat (BitVec.ofNat 64 (bitsOf v 0 48)) (guardWord k.toNat) })
      else .error (0x18, v)) s

/-- MTS to `leaveclus`: for the next boundary, never above the controller's grant (R293). -/
def execMtsLeaveclus (rs1 : Reg) (s : State) : Out :=
  mtsForm (.mtsLeaveclus rs1) 0x140 rs1
    (fun s v =>
      let e := bitsOf v 24 3
      if e = 0 || 4 < e then .error (0x18, v)
      else .ok (s.onClu s.focus.pcl fun cl => { cl with grantNext := min (bitsOf v 0 23) cl.granted, engNext := e })) s

/-- MTS to `leaveslot`: no field may be 0 (R294). -/
def execMtsLeaveslot (rs1 : Reg) (s : State) : Out :=
  mtsForm (.mtsLeaveslot rs1) 0x141 rs1
    (fun s v =>
      if (List.range 7).any fun k => bitsOf v (8 * k) 8 = 0 then .error (0x18, v)
      else .ok (s.onClu s.focus.pcl fun cl => { cl with leaveslot := BitVec.ofNat 64 (bitsOf v 0 56) })) s

/-- MTS to `biasctl`: a code outside the bounds is stored as the nearer one (R425). -/
def execMtsBiasctl (rs1 : Reg) (s : State) : Out :=
  mtsForm (.mtsBiasctl rs1) 0x143 rs1
    (fun s v => .ok (s.onClu s.focus.pcl fun cl => { cl with biasman := bitOf v 4, biascode := clampBias (bitsOf v 0 4) })) s

/-- MTS to a monitor: a reserved source is refused; the data are cleared (R363, R364). -/
def execMtsMon (k : BitVec 4) (rs1 : Reg) (s : State) : Out :=
  mtsForm (.mtsMon k rs1) (0x160 + k.toNat) rs1
    (fun s v =>
      if 0x0B < bitsOf v 48 8 then .error (0x18, v)
      else .ok (s.onClu s.focus.pcl fun cl =>
        let m : Mon := {}
        { cl with mons := tset cl.mons k.toNat { m with cfg := v &&& 0x00FF0FFFFFFFFF01 } {} })) s

/-- MTS to `monsnap`: starts a snapshot of the selected monitors, unless one is in progress (R365). -/
def execMtsMonsnap (rs1 : Reg) (s : State) : Out :=
  mtsForm (.mtsMonsnap rs1) 0x170 rs1
    (fun s v =>
      let cl := s.cluAt s.focus.pcl
      if bitOf cl.monsnap 0 then .error (0x18, v)
      else
        let picked := (List.range 16).filter fun k => bitOf v (48 + k)
        .ok (s.setClu s.focus.pcl
          { cl with monsnap := putBits v 0 8 1, snap := picked.map fun k => (k, tget cl.mons k {}) })) s

/-- MTS to `pwrevt`: the id is checked and stored with an explicit cluster (R423). -/
def execMtsPwrevt (rs1 : Reg) (s : State) : Out :=
  mtsForm (.mtsPwrevt rs1) 0x191 rs1
    (fun s v =>
      let id := bitsOf v 0 16
      if id = 0x03FF then .ok (s.onPart s.cx.part fun p => { p with pwrevt := 0x03FF })
      else
        match eventBad s s.cx.part s.focus.pcl id with
        | some c => .error (c, BitVec.ofNat 64 id)
        | none =>
          let (pcl, n) := eventOf s.focus.pcl id
          .ok (s.onPart s.cx.part fun p => { p with pwrevt := BitVec.ofNat 16 ((pcl + 1) * 1024 + n) })) s

end Sys2Proof.Machine
end

