-- ==== Sys2Proof/Machine/Records.lean ====
section
/-!
DEFINITION. Continuation records in memory (R184 to R187, R434), ready queues (R190), wake-ups (R187), expiries that
wait for their allocator (R231), and rings (R208, R209).
-/
namespace Sys2Proof.Machine

/-- The contexts that are not at their reset value, with their places. -/
def State.contexts (s : State) : List (CtxLoc × Context) := (s.focus, s.cx) :: s.others.map fun e => (cloc e.1, e.2)

/-- The context in which a strand is resident. -/
def residentOf (s : State) (p launch strand : Nat) : Option CtxLoc :=
  (s.contexts.find? fun e =>
    e.2.resident && e.2.part = p && e.2.launchid.toNat = launch && e.2.strandid.toNat = strand).map Prod.fst

/-- Bytes with some of them replaced. -/
def patch (bs : List Byte) (off : Nat) (new : List Byte) : List Byte := bs.take off ++ new ++ bs.drop (off + new.length)

/-- A pc is a multiple of 4: of one that comes from a record or from a table the low 2 bits are dropped (R8; DESIGN CHOICE, log 42). -/
def alignPc (v : Word) : Word := putBits v 0 2 0

/-- Record `i` of a launch lies at continuation area + 64 × i (R210). -/
def recordAddr (l : Launch) (i : Nat) : Word := l.cont + BitVec.ofNat 64 (64 * i)

/-- The error report of a strand that ended with error without a context (R413). -/
def plainReport (cause : BitVec 8) (tval : Word) (strand : Nat) : BitVec 8 × Word × Nat × Word := (cause, tval, strand, 0)

/-- A record write failed: the strand ends with error, whatever its record still says, and the management controller is told (R434). -/
def State.recordFailed (s : State) (p launch strand : Nat) (cause : BitVec 8) (addr : Word) : State :=
  { (s.countEnd p launch (some (plainReport cause addr strand))).loseRecord p launch strand with
    mgr := { s.mgr with log := s.mgr.log ++ [(434, strand, p)] } }

/-- Rewrites the record of a strand, under a stamp; a failure ends the strand with error (R434). The flag tells success. -/
def State.editRecord (s : State) (pcl p launch strand : Nat) (addr : Word) (st : Stamp) (f : List Byte → List Byte) : State × Bool :=
  let r := vbytes s pcl p addr.toNat 64
  match r with
  | .error e => ((s.noteRead pcl p r).recordFailed p launch strand e.1 addr, false)
  | .ok bs =>
    let (s', w) := s.vstore pcl p st addr.toNat (f bs)
    match w with
    | none => (s', true)
    | some e => (s'.recordFailed p launch strand e.1 addr, false)

/-- A record enters a ready queue of a cluster with aging count 0 (R190). -/
def State.enterReady (s : State) (pcl p launch strand : Nat) (addr : Word) (prio : BitVec 3)
    (rd : Option (Reg × Option (Nat × Nat))) : State :=
  let s' := s.onClu pcl fun cl => { cl with ready := cl.ready ++ [⟨p, launch, strand, addr, prio, 0, s.uid, rd⟩] }
  { s' with uid := s'.uid + 1 }

/-- The oldest pending expiry of a strand, taken from the list (R231). -/
def State.takeExpiry (s : State) (p launch strand : Nat) : Option Expiry × State :=
  let q := s.partAt p
  match q.expiries.find? fun e => e.launch = launch && e.strand = strand with
  | none => (none, s)
  | some e => (some e, s.setPart p { q with expiries := q.expiries.erase e })

/-- An expiry enters the pending list, unless the list is full (R231). -/
def State.pendExpiry (s : State) (p : Nat) (e : Expiry) : State :=
  s.onPart p fun q => if q.expiries.length < 256 then { q with expiries := q.expiries ++ [e] } else q

/-- The wait cause of kind 4 (R186), and `etval` of cause 0x0B (R231). -/
def expiryCause (n pcl : Nat) : Nat := 4 * 2 ^ 28 + pcl * 2 ^ 14 + n
def expiryTval (n pcl : Nat) : Word := BitVec.ofNat 64 (pcl * 2 ^ 16 + n)

/-- A ready record takes its oldest pending expiry as its wait cause (R231). -/
def causeWith (e : Option Expiry) : Nat := e.elim 0 fun e => expiryCause e.n e.pcl

/-- The stamp of the group whose completed phase ends a wait, which the strand observes (R252, R255). The wake-up writes the record under
it, and the dispatch of the strand acquires it with the record (log 18). -/
def condStamp (s : State) (w : Waiter) : Stamp :=
  match w.cond, tfind (s.partAt w.part).launches w.launch with
  | .group _ g _, some l =>
    match groupEntry s w.pcl w.part l g with
    | .ok pa => unitStamp s [pa / 64]
    | .error _ => {}
  | _, _ => {}

/-- A WAITING record is made ready (R187): kind 0 or a pending expiry, aging count 0, HWSAVED if flag 4 is set and
RESUMABLE otherwise, in the cluster in which it suspended. -/
def State.wake (s : State) (w : Waiter) : State :=
  let s := { s with waiters := s.waiters.erase w }
  let (e, s) := s.takeExpiry w.part w.launch w.strand
  let prio := match vbytes s w.pcl w.part w.addr.toNat 64 with
    | .ok bs => BitVec.ofNat 3 (fieldAt bs 0x0E 1)
    | .error _ => 0
  let (s, ok) := s.editRecord w.pcl w.part w.launch w.strand w.addr (condStamp s w) fun bs =>
    patch (patch (patch bs 0x0F (toLE 1 (if w.saved then 3 else 2))) 0x1C (toLE 4 0)) 0x24 (toLE 4 (causeWith e))
  if ok then s.enterReady w.pcl w.part w.launch w.strand w.addr prio w.rd else s

/-- Wakes every waiter that a test selects, in the order of registration (R187). -/
def State.wakeAll (s : State) (f : Waiter → Bool) : State := (s.waiters.filter f).foldl (fun s w => s.wake w) s

/-! ### Rings (R208, R209) -/

/-- Capacity and header offset of a ring descriptor. -/
def ringKind (d : Word) : Nat := bitsOf d 62 2
def ringCap (d : Word) : Nat := bitsOf d 48 8 + 1
def ringOff (d : Word) : Nat := bitsOf d 0 26

/-- Bytes of a ring, or the cause: of Moss, poison or a read that it forbids; of a triple's ring area, a poisoned granule, by its number in
the area (R159, R208, R245, log 37). -/
def ringRead (s : State) (c : CtxLoc) (d : Word) (off n : Nat) : Except (BitVec 8 × Word) (Nat × Bool × Stamp) :=
  if ringKind d = 1 then
    match mossRead (s.cluAt c.pcl) off n with
    | none => .error (0x0A, mossAddr off)
    | some g => if g.bad then .error (0x0D, mossAddr off) else .ok (leNat g.bytes, g.inv, g.stamp)
  else
    let u := s.subAt c.pcl c.sub
    if u.ringBad.contains (off / 256) then .error (0x0E, BitVec.ofNat 64 (off / 256)) else .ok (loadNat u.ringMem off n, false, {})

/-- Writes 8 bytes of a ring. -/
def ringWrite (s : State) (c : CtxLoc) (d : Word) (off v : Nat) (st : Stamp) : Except (BitVec 8 × Word) State :=
  if ringKind d = 1 then
    match mossWrite (s.cluAt c.pcl) off (toLE 8 v) false st with
    | none => .error (0x09, mossAddr off)
    | some cl => .ok (s.setClu c.pcl cl)
  else
    let u := s.subAt c.pcl c.sub
    .ok (s.setSub c.pcl c.sub { u with ringMem := storeBytes u.ringMem off (toLE 8 v) })

/-- The row groups of a ring in Moss are free of engines (R268). -/
def ringFree (s : State) (c : CtxLoc) (d : Word) : Bool :=
  ringKind d != 1 || (rgsOf (ringOff d) (64 + 8 * ringCap d)).all fun g => !((s.cluAt c.pcl).rg g).owner

/-- The change of a ring's head or tail wakes the records that wait on it (R187). -/
def State.wakeRing (s : State) (c : CtxLoc) (d : Word) : State :=
  if ringKind d = 1 then
    s.wakeAll fun w => match w.cond with
      | .ring pcl off _ => pcl = c.pcl && off = ringOff d
      | _ => false
  else s

end Sys2Proof.Machine
end

