-- ==== Sys2Proof/Machine/System.lean ====
section
/-!
DEFINITION. Address conversion (R111, R112), the system words (R117 to R120, R351) and TOKTAKE (R114, R116).
-/
namespace Sys2Proof.Machine

/-- Whether an aperture code is that of a place. -/
def inAper (ap : Aper) (p : Place) : Bool :=
  match ap, p with
  | .dev, .dev _ => true
  | .remote, .remote _ _ => true
  | .moss, .moss _ => true
  | .win, .win _ => true
  | _, _ => false

/-- A valid generic address of an aperture (R111). -/
def genericOk (wsize : Nat) (ap : Aper) (a : Word) : Bool :=
  match placeOf wsize a with
  | some p => inAper ap p
  | none => false

/-- The generic address of a relative form, if the form is valid (R111). -/
def fromRelative (wsize : Nat) (ap : Aper) (a : Word) : Option Word :=
  match ap with
  | .dev => if bitsOf a 48 16 = 0 then some a else none
  | .remote => if bitsOf a 60 4 = 0 then some (putBits a 60 4 1) else none
  | .moss => if a.toNat < 2 ^ 26 then some (mossAddr a.toNat) else none
  | .win => if a.toNat < wsize * 256 then some (winAddr a.toNat) else none

/-- The relative form of a valid generic address (R111). -/
def toRelative (ap : Aper) (a : Word) : Word :=
  match ap with
  | .dev => a
  | .remote => putBits a 60 4 0
  | .moss => BitVec.ofNat 64 (bitsOf a 0 26)
  | .win => BitVec.ofNat 64 (bitsOf a 0 48)

/-- The converted address, if rs1 is valid for the direction (R111). -/
def convert (wsize : Nat) (gen : Bool) (ap : Aper) (a : Word) : Option Word :=
  if gen then fromRelative wsize ap a else if genericOk wsize ap a then some (toRelative ap a) else none

/-- CVTA (R111). -/
def execCvta (gen : Bool) (ap : Aper) (rd rs1 : Reg) (s : State) : Out :=
  issue (.cvta gen ap rd rs1) s fun s =>
    match convert s.cx.wsize gen ap (s.cx.rg rs1) with
    | some v => .next (s.onCx fun x => (x.setRg rd v).retire)
    | none => .next (s.fault 0x06 (s.cx.rg rs1))

/-- SPCHK (R112). -/
def execSpchk (ap : Aper) (rd rs1 : Reg) (s : State) : Out :=
  scalarResult (.spchk ap rd rs1) rd (fun x => b2w (genericOk x.wsize ap (x.rg rs1))) s

/-- TRAP: the word completes, then its trap is taken: `epc` and `eissue` name the word after it (R117, R344). -/
def execTrap (rs1 : Reg) (s : State) : Out :=
  issue (.trap rs1) s fun s =>
    let s' := s.onCx Context.retire
    .next (s'.raise s'.focus 0x15 (s.cx.rg rs1) s'.cx.pc none)

/-- BKPT (R117). -/
def execBkpt (s : State) : Out := issue .bkpt s fun s => .next (s.fault 0x16 0)

/-- The oldest pending expiry of a strand that has left its handler is delivered (R231). -/
def State.deliverPending (s : State) (c : CtxLoc) : State :=
  let x := s.ctxAt c
  if x.intrap || x.halt.isSome || x.debug then s
  else
    match s.takeExpiry x.part x.launchid.toNat x.strandid.toNat with
    | (none, _) => s
    | (some e, s') => s'.raise c 0x0B (expiryTval e.n e.pcl) x.pc none

/-! ### What engine commands deliver (R276 to R280) -/

/-- The context is halted: its halt line is up, it is in a debug halt, or its engines are parked for a handler (R280,
R345, R348). -/
def Context.halted (x : Context) : Bool := x.halt.isSome || x.debug || x.parked

/-- A fault from outside the queues: `epc` is the issue point, and a save under way is given up for it (R344). -/
def State.raiseLate (s : State) (c : CtxLoc) (m : Mark) : State :=
  let s := s.onCtx c fun x => { x with drain := match x.drain with | .saving _ _ _ _ _ _ => .none | d => d }
  s.raise c m.cause m.tval (s.ctxAt c).pc none

/-- A completion's token; one that finds its queue full is lost, with cause 0x12 (R278). -/
def State.pushLate (s : State) (c : CtxLoc) (q : Nat) (m : Option Mark) : State :=
  let (x, ok) := (s.ctxAt c).pushTok q m
  if ok then s.setCtx c x else s.raiseLate c ⟨0x12, queueId c.ctx q⟩

/-- A completion's reply (R279). -/
def Context.replyLate (x : Context) (r : Nat) (v : Word) : Context :=
  { x.setRg (BitVec.ofNat 5 r) v with replies := x.replies.erase r }

/-- The end of the wait of an ENG word, with the fault that it ends in (R279, R333). -/
def State.releaseLate (s : State) (c : CtxLoc) (id : Nat) (m : Option Mark) : State :=
  match (s.ctxAt c).hold with
  | .command j =>
    if j = id then
      let s := s.onCtx c fun x => { x with hold := .none }
      match m with
      | none => s
      | some m => s.raiseLate c m
    else s
  | _ => s

/-- The E port makes what it held while the context was halted (R280). -/
def State.deliverHeld (s : State) (c : CtxLoc) : State :=
  let x := s.ctxAt c
  let s := s.onCtx c fun x => { x with heldPush := [], heldReply := [], heldWait := [] }
  let s := x.heldPush.foldl (fun s p => s.pushLate c p.1 p.2) s
  let s := x.heldReply.foldl (fun s p => s.onCtx c fun x => x.replyLate p.1 p.2) s
  x.heldWait.foldl (fun s p => s.releaseLate c p.1 p.2) s

/-- A context whose queues run again, with the marked word gone or not: the E port makes what it held, and the step that is the head of the
M queue now is checked (R172, R280, R351). -/
def State.goesOn (s : State) (c : CtxLoc) : State := checkHead c (s.deliverHeld c)

/-- TRET: legal in a handler, with no reserved bit of `estat` set; it waits for the handler lane (R120, R351). An
expiry that waited for the end of the handler is delivered (R231). -/
def execTret (s : State) : Out :=
  issue .tret s fun s =>
    if !s.cx.intrap then .next (s.fault 0x01 (illegal .tret))
    else if statReserved s.cx.estat then .next (s.fault 0x18 s.cx.estat)
    else if !s.cx.lane.isEmpty then .next s
    else
      let s := s.onCx Context.trapReturn
      .next ((s.goesOn s.focus).deliverPending s.focus)

/-- The tile that OWNWAIT names is engine-owned (R119): `none` for an address without tiles. -/
def ownedTile (s : State) (a : Word) : Option Bool :=
  match placeOf s.cx.wsize a with
  | some (.win o) => some (s.cx.gran (o / 256)).owner
  | some (.moss o) => some ((s.cluAt s.focus.pcl).rg (o / 4096)).owner
  | _ => none

/-- A word that waits at issue: the wait is open from now on (R359). -/
def State.waiting (s : State) (kind : BitVec 8) (obj : Word) : State := s.onCx fun x => x.waitMark 4 kind obj

/-- The wait of the word at issue, if it waited, is over (R359). -/
def State.waited (s : State) : State := s.waitEnd s.focus 4 0

/-- OWNWAIT (R119). -/
def execOwnwait (rs1 : Reg) (s : State) : Out :=
  issue (.ownwait rs1) s fun s =>
    let a := s.cx.rg rs1
    match ownedTile s a with
    | none => .next (s.fault 0x06 a)
    | some true => .next (s.waiting wOwner a)
    | some false => .next (s.waited.onCx Context.retire)

/-- TOKTAKE: held while the queue is empty, then it takes one token; an error mark is its fault (R114, R116, R278). -/
def execToktake (snd rcv : Eng) (s : State) : Out :=
  issue (.toktake snd rcv) s fun s =>
    if snd = rcv then .next (s.fault 0x01 (illegal (.toktake snd rcv)))
    else
      match s.cx.popTok (tq snd rcv) with
      | none => .next (s.waiting wTok (queueId s.focus.ctx (tq snd rcv)))
      | some (m, x) =>
        let s := (s.onCx fun _ => x).waited
        match m with
        | none => .next (s.onCx Context.retire)
        | some m => .next (s.fault m.cause m.tval)

/-- The context after EXIT: the front end issues no more, and the strand drains. In a handler the pending trap is
discarded with its marked word, and the other parked words run on. It is a suspension point (R38, R352). -/
def Context.exiting (x : Context) : Context :=
  let x := { x.retire with drain := .exit, counting := false, heldPush := [], heldReply := [], heldWait := [] }
  if x.intrap then { x.discardMarked with parked := false, marked := none, stat := putBits x.stat 1 1 0 } else x

/-- EXIT (R37, R38). Where it ends a handler, the words that run on may have a new head of the M queue, which is checked (R172). -/
def execExit (s : State) : Out :=
  issue .exit s fun s => .next (if s.cx.intrap then checkHead s.focus (s.onCx Context.exiting) else s.onCx Context.exiting)

end Sys2Proof.Machine
end

