-- ==== Sys2Proof/Machine/Moss.lean ====
section
/-!
DEFINITION. Moss: lifetimes, the sweep, expiries and rewrites (R218 to R232, R299) and the MOSS words (R233 to R238).
-/
namespace Sys2Proof.Machine

/-! ### Limits and bands (R221 to R224) -/

/-- The limit of a lifetime class at the cluster's band: KEEP has its interval, FREE has 0 (R221, R237). -/
def classLimit (cl : Cluster) (cls : Nat) : Nat :=
  if cls = 0 || 6 < cls then 0 else bitsOf (tget cl.limits cl.band.toNat (guardWord cl.band.toNat)) (8 * (cls - 1)) 8

/-- The limit that applies to a row group (R220, R237). -/
def rgLimit (cl : Cluster) (r : RowGroup) : Nat := classLimit cl (if r.cls = 7 then r.limcls.toNat else r.cls.toNat)

/-- The request point of a limit (R221). -/
def requestPoint (limit : Nat) : Nat := max 1 (3 * limit / 4)

/-- The band that a temperature leads to (R224). -/
def nextBand (band temp : Nat) : Nat :=
  let up := ((List.range 8).filter fun b => 1 ≤ b && 35 + 10 * b ≤ temp).length
  let down := ((List.range 7).find? fun b => temp + 2 < 45 + 10 * b).getD 7
  if band < up then up else if down < band then down else band

/-! ### Delivery of an expiry (R231) -/

/-- Delivers the expiry of a row group to its allocator. -/
def State.deliverExpiry (s : State) (pcl n : Nat) : State :=
  let cl := s.cluAt pcl
  match tfind cl.alloc (cl.rg n).alloc.toNat with
  | none => s
  | some a =>
    match tfind (s.partAt a.part).launches a.launch with
    | none => s
    | some l =>
      let e : Expiry := ⟨a.launch, a.strand, n, pcl⟩
      match residentOf s a.part a.launch a.strand with
      | some c =>
        let x := s.ctxAt c
        let away := x.drain.away
        if x.intrap || x.halt.isSome || x.debug || away then s.pendExpiry a.part e
        else s.raise c 0x0B (expiryTval n pcl) x.pc none
      | none =>
        let r := vbytes s pcl a.part (recordAddr l a.strand).toNat 64
        match r with
        | .error _ => s.noteRead pcl a.part r
        | .ok bs =>
          let st := fieldAt bs 0x0F 1
          if st = 6 then s
          else if st ≤ 3 && fieldAt bs 0x24 4 = 0 then
            (s.editRecord pcl a.part a.launch a.strand (recordAddr l a.strand) {} fun bs =>
              patch bs 0x24 (toLE 4 (expiryCause n pcl))).1
          else s.pendExpiry a.part e

/-! ### The sweep (R225) -/

/-- Steps 1 to 4 of the sweep: aging, KEEP refresh, request, limit. -/
def sweepAge (r : RowGroup) : RowGroup :=
  if r.valid && r.cls != 0 then { r with age := BitVec.ofNat 8 (min 255 (r.age.toNat + 1)) } else r

/-- Step 2: a KEEP row group whose age has reached its interval is queued for refresh (R217, R225). -/
def keepDue (cl : Cluster) (r : RowGroup) : Bool := r.valid && r.cls = 6 && classLimit cl 6 ≤ r.age.toNat
def State.keepRefresh (s : State) (pcl n : Nat) : State :=
  s.onClu pcl fun cl => if keepDue cl (cl.rg n) then { cl with rewrites := cl.rewrites ++ [{ n := n }] } else cl

/-- Classes 1 to 5. -/
def timed (r : RowGroup) : Bool := 1 ≤ r.cls.toNat && r.cls.toNat ≤ 5

/-- Step 3: a row group that has reached its request point posts its request (R225). -/
def State.refreshRequest (s : State) (pcl n : Nat) : State :=
  let cl := s.cluAt pcl
  let r := cl.rg n
  if r.valid && timed r && !r.reqd && requestPoint (rgLimit cl r) ≤ r.age.toNat then
    let s := s.setClu pcl (cl.setRg n { r with reqd := true })
    if r.evid = 0x03FF then s else s.sendAdd whoHardware pcl r.evid.toNat 1 false false {} none
  else s

/-- Step 4: whether a row group has reached its limit. -/
def expires (cl : Cluster) (r : RowGroup) : Bool := r.valid && (timed r || r.cls = 7) && rgLimit cl r ≤ r.age.toNat

/-- Step 4: a row group at its limit is invalid; the expiry of a class 1 to 5 is delivered if `deliver` says so (R226,
R231). -/
def State.expireRg (s : State) (pcl n : Nat) (deliver : Bool) : State :=
  let cl := s.cluAt pcl
  let r := cl.rg n
  if expires cl r then
    let s := s.setClu pcl (cl.setRg n { r with valid := false, xtrap := r.xtrap || timed r })
    if timed r && deliver then s.deliverExpiry pcl n else s
  else s

/-- The sweep step of one row group; `seen` holds the allocation entries whose expiry this sweep has delivered. -/
def sweepOne (pcl : Nat) (a : State × List (BitVec 12)) (n : Nat) : State × List (BitVec 12) :=
  let (s, seen) := a
  let s := s.onClu pcl fun cl => cl.setRg n (sweepAge (cl.rg n))
  let s := (s.keepRefresh pcl n).refreshRequest pcl n
  let r := (s.cluAt pcl).rg n
  let due := expires (s.cluAt pcl) r
  (s.expireRg pcl n (!seen.contains r.alloc), if due && timed r && !seen.contains r.alloc then r.alloc :: seen else seen)

/-- A whole sweep, in ascending order; a row group that holds nothing is not listed. -/
def State.sweep (s : State) (pcl : Nat) : State :=
  (((s.cluAt pcl).rgs.map Prod.fst).foldl (sweepOne pcl) (s, [])).1

/-- An entry into band 7 signals `pwrevt` and ends manual bias control (R423, R425). -/
def State.enterBand7 (s : State) (pcl : Nat) : State :=
  let s := s.onClu pcl fun cl => { cl with biasman := false }
  match s.partOf pcl with
  | none => s
  | some p =>
    let id := (s.partAt p).pwrevt
    if id = 0x03FF then s
    else
      let (st, s) := s.stampWrite (dieOf pcl) {}
      s.sendAdd whoHardware pcl id.toNat 1 false false st (some (dieOf pcl))

/-- AGE_TICK: sensor, band, the band table in force, sweep (R222, R224, R225). -/
def State.ageTick (s : State) (pcl : Nat) (temp : BitVec 8) : State :=
  if s.mgr.tripped then s
  else
    let cl := s.cluAt pcl
    let band := nextBand cl.band.toNat temp.toNat
    let lim := match s.partOf pcl with
      | some p => (s.partAt p).mosslim
      | none => []
    let s := s.setClu pcl { cl with temp := temp, band := BitVec.ofNat 3 band, limits := lim }
    let s := if band = 7 && cl.band != 7 then s.enterBand7 pcl else s
    s.sweep pcl

/-! ### Rewrites (R217, R225, R236, R299) -/

/-- The refresh column of R226. -/
def refreshRg (cl : Cluster) (n : Nat) : Cluster :=
  let r := cl.rg n
  if r.valid && r.cls != 0 then cl.setRg n { r with age := 0, reqd := false } else cl

/-- A draw of the engine pool that is never delayed: the shortfall becomes the deficit (R299). -/
def Cluster.drawNow (cl : Cluster) (n : Nat) : Cluster :=
  if n ≤ cl.pool then { cl with pool := cl.pool - n } else { cl with pool := 0, deficit := cl.deficit + (n - cl.pool) }

/-- Whether a near request of the cluster waits at a bank. -/
def nearWaits (s : State) (pcl bank : Nat) : Bool :=
  s.contexts.any fun e => e.1.pcl = pcl && e.2.litems.any fun i => i.parts.any fun p =>
    isNear p && (match p.place with | .moss o => (rgsOf o p.n).any fun g => g % 128 = bank | _ => false)

/-- MOSS_REWRITE_START: the oldest rewrite of a bank begins; a KEEP refresh or an MREFRESH draws 2 units (R217, R299), a REFRESH has drawn
its command's energy (R283). -/
def State.rewriteStart (s : State) (pcl bank : Nat) : State :=
  let cl := s.cluAt pcl
  let here := cl.rewrites.filter fun r => r.n % 128 = bank
  match here.head? with
  | none => s
  | some r =>
    if r.running || nearWaits s pcl bank || s.mgr.tripped then s
    else
      let cl := if r.eng.isSome then cl else cl.drawNow 2
      s.setClu pcl { cl with rewrites := { r with running := true } :: cl.rewrites.erase r }

/-- A rewrite of an MREFRESH has ended: its word replies when none is left (R236). -/
def Context.rewritten (x : Context) (did : Bool) : Context :=
  match x.ql.items with
  | i :: r =>
    match i.ins, i.phase with
    | .mrefresh rd _ _, .going =>
      let i := { i with left := i.left - 1, val := i.val + b2w did }
      if i.left = 0 then { x.setRg rd i.val with ql := { x.ql with items := r } }
      else { x with ql := { x.ql with items := i :: r } }
    | _, _ => x
  | [] => x

/-- MOSS_REWRITE_END: the running rewrite of a bank ends (R225, R226, R236). -/
def State.rewriteEnd (s : State) (pcl bank : Nat) : State :=
  let cl := s.cluAt pcl
  match cl.rewrites.find? fun r => r.n % 128 = bank && r.running with
  | none => s
  | some r =>
    let g := cl.rg r.n
    let did := g.valid && g.cls != 0
    let s := s.setClu pcl { refreshRg cl r.n with rewrites := cl.rewrites.erase r }
    match r.who, r.eng with
    | some c, _ => s.onCtx c fun x => x.rewritten did
    | none, some (p, e, n) => s.onCmd p e n fun k => { k with left := k.left - 1, moved := if did then k.moved + 4096 else k.moved }
    | none, none => s

/-! ### Actions of the MOSS words -/

/-- One reference less to an allocation entry, which frees at zero (R219). -/
def Cluster.unref (cl : Cluster) (a : Nat) : Cluster :=
  match tfind cl.alloc a with
  | none => cl
  | some e =>
    if e.refs ≤ 1 then { cl with alloc := tdel cl.alloc a }
    else { cl with alloc := tput cl.alloc a { e with refs := e.refs - 1 } }

/-- Row groups `n0` to `n0 + c - 1`. -/
def rgRange (n0 c : Nat) : List Nat := (List.range c).map (n0 + ·)

/-- A row group allocated under a class (R234). -/
def claimRg (cls : BitVec 3) (evid : BitVec 16) (limcls : BitVec 3) (e : Nat) (cl : Cluster) (n : Nat) : Cluster :=
  cl.setRg n { cl.rg n with cls := cls, valid := false, age := 0, reqd := false, xtrap := false,
                            alloc := BitVec.ofNat 12 e, evid := evid, limcls := limcls }

/-- MCLASS (R234): the status, and the cluster. -/
def mclassAct (cl : Cluster) (n0 c : Nat) (cls : BitVec 3) (evid : BitVec 16) (limcls : BitVec 3)
    (p launch strand : Nat) : Word × Cluster :=
  if (rgRange n0 c).any fun n => (cl.rg n).cls != 0 then (1, cl)
  else
    match tfree cl.alloc 1 4095 with
    | none => (2, cl)
    | some e =>
      let cl := { cl with alloc := tput cl.alloc e ⟨p, launch, strand, evid, limcls, c⟩ }
      (0, (rgRange n0 c).foldl (claimRg cls evid limcls e) cl)

/-- A row group becomes FREE; its poison and its owner are kept. The rule says nothing of its allocation entry and its limit class, which
become 0 (R235; DESIGN CHOICE, log 51). -/
def freeRg (cl : Cluster) (n : Nat) : Cluster :=
  let r := cl.rg n
  if r.cls = 0 then cl
  else
    let fresh : RowGroup := {}
    (cl.unref r.alloc.toNat).setRg n { fresh with poison := r.poison, owner := r.owner }

/-- MFREE (R235). -/
def mfreeAct (cl : Cluster) (n0 c : Nat) : Word × Cluster :=
  if (rgRange n0 c).any fun n => (cl.rg n).owner then (1, cl) else (0, (rgRange n0 c).foldl freeRg cl)

/-- The result of MAGE (R237). -/
def mageWord (cl : Cluster) (n : Nat) : Word :=
  let r := cl.rg n
  let limit := rgLimit cl r
  BitVec.ofNat 64 (b2n r.valid * 2 ^ 30 + r.cls.toNat * 2 ^ 27 + cl.band.toNat * 2 ^ 24 +
    (limit - r.age.toNat) * 2 ^ 16 + limit * 2 ^ 8 + r.age.toNat)

/-- The R218 word of a row group. -/
def rgWord (r : RowGroup) (rdinv : Bool) : Word :=
  BitVec.ofNat 64 (b2n rdinv * 2 ^ 63 + r.alloc.toNat * 2 ^ 36 + r.limcls.toNat * 2 ^ 33 + r.evid.toNat * 2 ^ 16 +
    b2n r.xtrap * 2 ^ 15 + b2n r.reqd * 2 ^ 14 + b2n r.poison * 2 ^ 13 + b2n r.owner * 2 ^ 12 +
    b2n r.valid * 2 ^ 11 + r.cls.toNat * 2 ^ 8 + r.age.toNat)

/-- First row group of a MOSS word's address, and its count (R233). -/
def mossN (a : Word) : Nat := bitsOf a 0 26 / 4096
def mossC (b : Word) : Nat := bitsOf b 0 16

/-- A store or an atomic that has passed its check of class FREE writes to some of these row groups and is not over: in no other order
could it keep its promise that no later word has an effect where it faults (R104, log 51). -/
def storing (s : State) (pcl n0 c : Nat) : Bool :=
  s.contexts.any fun e => e.1.pcl = pcl && (e.2.ql.items ++ e.2.lane).any fun i =>
    !Instr.readsOnly i.ins && i.parts.any fun p =>
      (p.flying || (p.isTodo && !i.stops)) &&
      (match p.place with | .moss o => n0 ≤ (o + p.n - 1) / 4096 && o / 4096 < n0 + c | _ => false)

/-- The action of a MOSS word at its post point, its captured operands in hand (R233): the value for rd and the state, or
`none` while the word waits for an engine-owned row group (R268). -/
def mossAction (s : State) (c : CtxLoc) (i : Item) : Option (Reg × Word × State) :=
  let x := s.ctxAt c
  let cl := s.cluAt c.pcl
  let owned := fun (k : Nat) => (rgRange (mossN i.a) k).any fun n => (cl.rg n).owner
  match i.ins with
  | .mclass cls rd _ _ =>
    if owned (mossC i.b) then none
    else
      let (v, cl) := mclassAct cl (mossN i.a) (mossC i.b) cls (BitVec.ofNat 16 (bitsOf i.b 16 16))
        (BitVec.ofNat 3 (bitsOf i.b 32 3)) x.part x.launchid.toNat x.strandid.toNat
      some (rd, v, s.setClu c.pcl cl)
  | .mfree rd _ _ =>
    let (v, cl) := mfreeAct cl (mossN i.a) (mossC i.b)
    some (rd, v, s.setClu c.pcl cl)
  | .mage rd _ => if owned 1 then none else some (rd, mageWord cl (mossN i.a), s)
  | .mquery rd _ _ =>
    if owned 1 then none
    else some (rd, rgWord (cl.rg (mossN i.a)) x.rdinv,
      if bitOf i.b 0 then s.onCtx c fun x => { x with rdinv := false } else s)
  | .mrefresh rd _ _ => if owned (mossC i.b) then none else some (rd, 0, s)
  | _ => none

/-- The row groups that an MREFRESH rewrites (R236). -/
def refreshed (cl : Cluster) (n0 c : Nat) : List Nat :=
  (rgRange n0 c).filter fun n => (cl.rg n).valid && (cl.rg n).cls != 0

/-- A MOSS word at the head of the L queue takes its action and replies; an MREFRESH with rewrites to make stays until
the last of them ends. -/
def State.mossPoint (s : State) (c : CtxLoc) (i : Item) (rest : List Item) : State :=
  let started := match i.phase with | .going => true | _ => false
  let frees := match i.ins with | .mfree _ _ _ => storing s c.pcl (mossN i.a) (mossC i.b) | _ => false
  match mossAction s c i with
  | none => s.headWaits c .l wOwner i.a
  | some (rd, v, s') =>
    if frees then s else
    let s := s.waitEnd c 2 0
    let s' := s'.waitEnd c 2 0
    let pop := s'.onCtx c fun x => { x.setRg rd v with ql := { x.ql with items := rest } }
    match i.ins with
    | .mrefresh _ _ _ =>
      let ns := refreshed (s.cluAt c.pcl) (mossN i.a) (mossC i.b)
      if started then s
      else if ns.isEmpty then pop
      else
        (s.onClu c.pcl fun cl =>
          { cl with rewrites := cl.rewrites ++ ns.map fun n => { n := n, who := some c } }).onCtx c fun x =>
            { x with ql := { x.ql with items := { i with phase := .going, left := ns.length } :: rest } }
    | _ => pop

/-! ### Checks at issue (R233 to R238) -/

/-- The checks of address and count. `count`: the word takes a count in rs2[15:0]. -/
def mossCheck (a b : Word) (count : Bool) : Option (BitVec 8 × Word) :=
  if bitsOf a 48 16 != 0xFFFD || bitsOf a 26 22 != 0 then some (0x06, a)
  else if bitsOf a 0 12 != 0 then some (0x07, a)
  else if count && (mossC b = 0 || 16384 < mossC b) then some (0x18, b)
  else if count && 16384 < mossN a + mossC b then some (0x06, a)
  else none

/-- The checks of MCLASS on rs2 (R234). -/
def mclassCheck (s : State) (cls : BitVec 3) (b : Word) : Option (BitVec 8 × Word) :=
  let ev := bitsOf b 16 16
  let lim := bitsOf b 32 3
  if bitsOf b 35 29 != 0 then some (0x18, b)
  else if cls.toNat ≤ 5 then
    if lim != 0 then some (0x18, b)
    else (eventBad s s.cx.part s.focus.pcl ev).map fun c => (c, BitVec.ofNat 64 ev)
  else if cls = 6 then if ev != 0x03FF || lim != 0 then some (0x18, b) else none
  else if ev != 0x03FF || lim = 0 || 5 < lim then some (0x18, b) else none

/-- The checks of a MOSS word at issue. -/
def mossIssueCheck (s : State) (i : Instr) (a b : Word) : Option (BitVec 8 × Word) :=
  match i with
  | .mclass cls _ _ _ => (mossCheck a b true).or (mclassCheck s cls b)
  | .mfree _ _ _ | .mrefresh _ _ _ => (mossCheck a b true).or (if bitsOf b 16 48 != 0 then some (0x18, b) else none)
  | .mquery _ _ _ => (mossCheck a b false).or (if bitsOf b 1 63 != 0 then some (0x18, b) else none)
  | _ => mossCheck a b false

/-! ### Events -/

/-- REFRESH_REQUEST (R225). -/
def execRefreshRequest (pcl n : Nat) (s : State) : Out := atClu pcl s fun s => s.refreshRequest pcl n

/-- ROW_GROUP_EXPIRY (R226, R231). -/
def execRowGroupExpiry (pcl n : Nat) (s : State) : Out := atClu pcl s fun s => s.expireRg pcl n true

/-- KEEP_REFRESH_DUE (R225). -/
def execKeepRefreshDue (pcl n : Nat) (s : State) : Out := atClu pcl s fun s => s.keepRefresh pcl n

/-- MOSS_REWRITE_START (R217). -/
def execMossRewriteStart (pcl bank : Nat) (s : State) : Out := atClu pcl s fun s => s.rewriteStart pcl bank

/-- MOSS_REWRITE_END (R236). -/
def execMossRewriteEnd (pcl bank : Nat) (s : State) : Out := atClu pcl s fun s => s.rewriteEnd pcl bank

end Sys2Proof.Machine
end

