-- ==== Sys2Proof/Machine/Points.lean ====
section
/-!
DEFINITION. Words whose action is made at a post point (R115, R203, R207, R211, R233): TOKPOST, FENCE, EVADD, EVSET, BAR,
BARARR, LAUNCH and the MOSS words, and the event POST_POINT_REACHED.
-/
namespace Sys2Proof.Machine

/-- The item at the head of a queue is done and leaves it. -/
def Context.popItem (x : Context) (g : Eng) : Context :=
  x.setQueue g { x.queue g with items := (x.queue g).items.drop 1 }

/-- A release of a context at a scope, for a write that goes to cluster `home` or to device memory: the drains of R256 and
the stamp with its die; below die scope a write on the own die carries O (R252, R256). -/
def State.release (s : State) (c : CtxLoc) (sc : Scope) (home : Nat) : Stamp × Option Nat × State :=
  let s := s.releaseDrain c sc
  let o := (s.ctxAt c).obs
  if wide sc || dieOf home != dieOf c.pcl then
    let (st, s) := s.stampWrite (dieOf c.pcl) o
    (st, some (dieOf c.pcl), s)
  else (o, none, s)

/-- TOKPOST at its point: the push, or the overflow with the TOKPOST marked (R115, R344). -/
def State.tokPoint (s : State) (c : CtxLoc) (g rcv : Eng) (i : Item) : State :=
  let (x, ok) := (s.ctxAt c).pushTok (tq g rcv) none
  if ok then s.setCtx c (x.popItem g)
  else
    let bit : BitVec 3 := ((otherEngs g).zip [1, 2, 4]).foldl (fun b p => if p.1 = rcv then p.2 else b) 0
    let x := x.setQueue g { x.queue g with items := setNth (x.queue g).items 0 { i with phase := .pushing bit } }
    (s.setCtx c x).raise c 0x12 (queueId c.ctx (tq g rcv)) i.pc (some (g, i.seq, i.pc))

/-- The point at the head of the L queue faults: it stands where it is, marked, and a retry makes its action again (R104, R344, R351). -/
def State.pointFault (s : State) (c : CtxLoc) (i : Item) (cause : BitVec 8) (tval : Word) : State :=
  (s.onCtx c fun x => { x with ql := { x.ql with items := setNth x.ql.items 0 { i with phase := .parked 0 } } }).raise c cause tval i.pc
    (some (.l, i.seq, i.pc))

/-- EVADD and EVSET at their point: a release, and the change under way to its counter (R206, R207). -/
def State.countPoint (s : State) (c : CtxLoc) (sc : Scope) (i : Item) (set : Bool) : State :=
  let (st, d, s) := s.release c sc (eventOf c.pcl i.a.toNat).1
  (s.sendAdd (whoOf (s.ctxAt c)) c.pcl i.a.toNat i.b set false st d).onCtx c fun x => x.popItem .l

/-- BAR and BARARR at their point: the arrival as a release at device scope, under way to the group's entry (R203). -/
def State.arrivePoint (s : State) (c : CtxLoc) (i : Item) (k : BitVec 2) (rd : Option Reg) (bar : Bool) : State :=
  let x := s.ctxAt c
  match s.launchOf x with
  | none => s.onCtx c fun x => x.popItem .l
  | some l =>
    let g := getAt x.grp (8 * k.toNat) 8
    match groupEntry s c.pcl x.part l g with
    | .error e =>
      (s.noteWalk c.pcl x.part (l.groups.toNat + 16 * g)).pointFault c i e (l.groups + BitVec.ofNat 64 (16 * g))
    | .ok pa =>
      let (st, _, s) := s.release c .device c.pcl
      let s := { s with arrivals := s.arrivals ++
        [(⟨x.part, pa, g, x.launchid.toNat, false, c, x.serial, rd, bar, st⟩ : Arrival)] }
      s.onCtx c fun x => { x.popItem .l with replies := x.replies ++ (rd.map BitVec.toNat).toList }

/-- What the point of a LAUNCH finds unreadable in its record, but for poison, which the pool answers with status 2 (R211, R387). -/
def launchUnread (s : State) (c : CtxLoc) (a : Word) : Option (BitVec 8 × Nat) :=
  match vbytes s c.pcl (s.ctxAt c).part a.toNat 128 with
  | .error e => if e.1 = 0x0D then none else some e
  | .ok _ => none

/-- LAUNCH at its point: the record must be mapped for a read; then the request is under way to the pool, as a release at device
scope (R211). -/
def State.launchPoint (s : State) (c : CtxLoc) (i : Item) (rd : Reg) (block : Bool) : State :=
  let x := s.ctxAt c
  match launchUnread s c i.a with
  | some e =>
    let s := if e.1 = 0x08 then s.noteWalk c.pcl x.part e.2 else s
    s.pointFault c i e.1 (BitVec.ofNat 64 e.2)
  | none =>
    let (st, _, s) := s.release c .device c.pcl
    let s := { s with launching := s.launching ++ [(⟨c, x.serial, x.part, rd, i.a, block, i.pc, st, x.depth, false⟩ : LaunchReq)] }
    s.onCtx c fun x => { x.popItem .l with replies := x.replies ++ [rd.toNat] }

/-- A FENCE at its point: it drains as a release of its scope does; at system scope, with kind ss or ls, what it has put under the
context's O comes before later writes to other modules (R110, R258). -/
def State.fencePoint (s : State) (c : CtxLoc) (k : BitVec 4) (sc : Scope) : State :=
  let s := s.releaseDrain c sc
  match sc with
  | .system =>
    if k.getLsbD 1 || k.getLsbD 3 then s.onCtx c fun x => { x with sysfence := x.sysfence.max x.obs } else s
  | _ => s

/-- The point at the head of an engine's queue is reached and makes its action. -/
def State.reachPoint (s : State) (c : CtxLoc) (g : Eng) : State :=
  match ((s.ctxAt c).queue g).items with
  | [] => s
  | i :: rest =>
    match i.ins with
    | .tokpost _ rcv => s.tokPoint c g rcv i
    | .fence k sc => (s.fencePoint c k sc).onCtx c fun x => x.popItem g
    | .evadd sc _ _ => s.countPoint c sc i false
    | .evset _ _ => s.countPoint c .device i true
    | .bar k => s.arrivePoint c i k none true
    | .bararr rd k => s.arrivePoint c i k (some rd) false
    | .launch rd _ => s.launchPoint c i rd false
    | .launchBlock rd _ => s.launchPoint c i rd true
    | .mclass _ _ _ _ | .mfree _ _ _ | .mrefresh _ _ _ | .mage _ _ | .mquery _ _ _ => s.mossPoint c i rest
    | _ => s

/-- Whether the point at the head of a queue may make its action: the context is not parked, a MOSS word and a push that
is made again need the context to run, and no halt is up for them (R344, R345). -/
def State.pointReady (s : State) (c : CtxLoc) (g : Eng) : Bool :=
  let x := s.ctxAt c
  x.resident && !x.parked && !x.debug && !s.frozen c.pcl c.sub && !s.mgr.tripped &&
  !x.drain.away &&
  (match (x.queue g).items with
    | i :: _ => Instr.isPoint i.ins && ((x.queue g).atPoint || s.engineOn c)
    | [] => false)

/-- A point word at issue, its checks passed: it enters the queue of engine `g`, and when nothing is ahead of it its
action is made in the same step (R115). It is held while 8 points are queued. -/
def placePoint (g : Eng) (i : Instr) (a b : Word) (k : State → State) (s : State) : State :=
  let first := (s.cx.queue g).items.isEmpty
  let (s, ok) := enqueuePoint g i a b 0 s
  if !ok then s
  else
    let s := k s
    if first && s.pointReady s.focus g then s.reachPoint s.focus g else s

/-- POST_POINT_REACHED (R115). -/
def execPostPointReached (c : CtxLoc) (en : Eng) (s : State) : Out :=
  atCtx c s fun s => if s.pointReady c en then s.reachPoint c en else s

/-- TOKPOST (R115, R116). -/
def execTokpost (snd rcv : Eng) (s : State) : Out :=
  issue (.tokpost snd rcv) s fun s =>
    if snd = rcv then .next (s.fault 0x01 (illegal (.tokpost snd rcv)))
    else .next (placePoint snd (.tokpost snd rcv) 0 0 id s)

/-- FENCE: a fence point in the L queue; in a handler it is held until the handler lane is empty, and then acts at once
(R110, R258, R349). -/
def execFence (kinds : BitVec 4) (sc : Scope) (s : State) : Out :=
  issue (.fence kinds sc) s fun s =>
    if s.cx.intrap then
      if s.cx.lane.isEmpty then .next ((s.fencePoint s.focus kinds sc).onCx Context.retire) else .next s
    else .next (placePoint .l (.fence kinds sc) 0 0 id s)

/-- An event word at issue: the checks of its id, then its point (R205, R207). -/
def countWord (i : Instr) (rs1 rs2 : Reg) (s : State) : Out :=
  issue i s fun s =>
    let id := s.cx.rg rs1
    match eventBad s s.cx.part s.focus.pcl id.toNat with
    | some c => .next (s.fault c id)
    | none => .next (placePoint .l i id (s.cx.rg rs2) (fun s => s) s)

/-- EVADD (R207). -/
def execEvadd (sc : Scope) (rs1 rs2 : Reg) (s : State) : Out := countWord (.evadd sc rs1 rs2) rs1 rs2 s

/-- EVSET (R207). -/
def execEvset (rs1 rs2 : Reg) (s : State) : Out := countWord (.evset rs1 rs2) rs1 rs2 s

/-- A group's entry as it is read: its physical address, member count, arrival count, phase and the stamp of what supplied it (R202). -/
structure GroupView where
  pa       : Nat
  members  : BitVec 32
  arrivals : BitVec 32
  phase    : BitVec 32
  stamp    : Stamp
  deriving DecidableEq, Repr

/-- The entry as its home has it. -/
def groupAt (s : State) (pa : Nat) : GroupView :=
  ⟨pa, BitVec.ofNat 32 (loadNat s.mem pa 4), BitVec.ofNat 32 (loadNat s.mem (pa + 4) 4),
   BitVec.ofNat 32 (loadNat s.mem (pa + 8) 4), tget s.stamps (pa / 64) {}⟩

/-- The entry as a strand reads it: through its cluster's write buffer (R248). -/
def groupSeen (s : State) (c : CtxLoc) (pa : Nat) : GroupView × Bool :=
  let (bs, bad, st, _) := devRead s c pa 12
  (⟨pa, BitVec.ofNat 32 (fieldAt bs 0 4), BitVec.ofNat 32 (fieldAt bs 4 4), BitVec.ofNat 32 (fieldAt bs 8 4), st⟩, bad)

/-- The focused context takes what a view holds: it observes the view's stamp, and the buffered writes that supplied it (R250, R252). -/
def State.seeGroup (s : State) (v : GroupView) : State :=
  (devRead s s.focus v.pa 12).2.2.2.onCx fun x => x.observe v.stamp

/-- The group of slot `k` of the focused context: the view, or the fault of R203. -/
def groupView (s : State) (k : BitVec 2) : Except (BitVec 8 × Word) GroupView :=
  let x := s.cx
  if !x.grp.getLsbD (32 + k.toNat) then .error (0x1C, k.setWidth 64)
  else
    match s.launchOf x with
    | none => .error (0x1C, k.setWidth 64)
    | some l =>
      let g := getAt x.grp (8 * k.toNat) 8
      let va := l.groups.toNat + 16 * g
      match translate s s.focus.pcl x.part va .load with
      | .error e => .error (e, BitVec.ofNat 64 va)
      | .ok pa =>
        let (v, bad) := groupSeen s s.focus pa
        if bad then .error (0x0D, BitVec.ofNat 64 va)
        else if v.members = 0 then .error (0x1C, BitVec.ofNat 64 (0x200 + g)) else .ok v

/-- A group word that faults: a walk that has met a malformed entry is reported (R203, R241). -/
def State.groupFault (s : State) (e : BitVec 8 × Word) : State :=
  (if e.1 = 0x08 then s.noteWalk s.focus.pcl s.cx.part e.2.toNat else s).fault e.1 e.2

/-- BAR: arrives, and holds the front end until the phase has completed (R203). -/
def execBar (k : BitVec 2) (s : State) : Out :=
  issue (.bar k) s fun s =>
    match groupView s k with
    | .error e => .next (s.groupFault e)
    | .ok _ =>
      .next (placePoint .l (.bar k) 0 0
        (fun s => s.onCx fun x => { x with hold := .arriving }.waitMark 4 wGroup (BitVec.ofNat 64 (getAt x.grp (8 * k.toNat) 8))) s)

/-- BARARR (R203). -/
def execBararr (rd : Reg) (k : BitVec 2) (s : State) : Out :=
  issue (.bararr rd k) s fun s =>
    match groupView s k with
    | .error e => .next (s.groupFault e)
    | .ok _ => .next (placePoint .l (.bararr rd k) 0 0 id s)

/-- BARWAIT: held until phase − rs1[31:0] lies in 1 to 2^31; the completed wait is an acquire (R203). -/
def execBarwait (k : BitVec 2) (rs1 : Reg) (s : State) : Out :=
  issue (.barwait k rs1) s fun s =>
    match groupView s k with
    | .error e => .next (s.groupFault e)
    | .ok v =>
      let d := (v.phase - (s.cx.rg rs1).setWidth 32).toNat
      if 1 ≤ d && d ≤ 2 ^ 31 then .next ((s.seeGroup v).waited.onCx Context.retire)
      else .next (s.waiting wGroup (BitVec.ofNat 64 (getAt s.cx.grp (8 * k.toNat) 8)))

/-- GRPINFO (R203). -/
def execGrpinfo (rd : Reg) (k : BitVec 2) (s : State) : Out :=
  issue (.grpinfo rd k) s fun s =>
    match groupView s k with
    | .error e => .next (s.groupFault e)
    | .ok v => .next ((s.seeGroup v).onCx fun x => (x.setRg rd (v.phase ++ v.members)).retire)

/-- The blocking form holds the front end until the pool has replied, a wait on the launch pool, whose object no rule names (R212, R359,
log 52). -/
def Context.poolHeld (x : Context) : Context := { x with hold := .pool }.waitMark 4 wPool 0

/-- A launch word at issue: the aperture and the alignment of its record (R211). -/
def launchWord (i : Instr) (rs1 : Reg) (block : Bool) (s : State) : Out :=
  issue i s fun s =>
    let a := s.cx.rg rs1
    match placeOf s.cx.wsize a with
    | some (.dev _) =>
      if a.toNat % 128 != 0 then .next (s.fault 0x07 a)
      else .next (placePoint .l i a 0 (fun s => if block then s.onCx Context.poolHeld else s) s)
    | _ => .next (s.fault 0x06 a)

/-- LAUNCH (R211). -/
def execLaunch (rd rs1 : Reg) (s : State) : Out := launchWord (.launch rd rs1) rs1 false s

/-- LAUNCH.BLOCK (R212). -/
def execLaunchBlock (rd rs1 : Reg) (s : State) : Out := launchWord (.launchBlock rd rs1) rs1 true s

/-- A MOSS word at issue (R233). -/
def mossWord (i : Instr) (a b : Context → Word) (s : State) : Out :=
  issue i s fun s =>
    match mossIssueCheck s i (a s.cx) (b s.cx) with
    | some e => .next (s.fault e.1 e.2)
    | none => .next (placePoint .l i (a s.cx) (b s.cx) id s)

/-- MCLASS (R234). -/
def execMclass (cls : BitVec 3) (rd rs1 rs2 : Reg) (s : State) : Out :=
  mossWord (.mclass cls rd rs1 rs2) (fun x => x.rg rs1) (fun x => x.rg rs2) s

/-- MFREE (R235). -/
def execMfree (rd rs1 rs2 : Reg) (s : State) : Out :=
  mossWord (.mfree rd rs1 rs2) (fun x => x.rg rs1) (fun x => x.rg rs2) s

/-- MREFRESH (R236). -/
def execMrefresh (rd rs1 rs2 : Reg) (s : State) : Out :=
  mossWord (.mrefresh rd rs1 rs2) (fun x => x.rg rs1) (fun x => x.rg rs2) s

/-- MAGE (R237). -/
def execMage (rd rs1 : Reg) (s : State) : Out := mossWord (.mage rd rs1) (fun x => x.rg rs1) (fun _ => 0) s

/-- MQUERY (R238). -/
def execMquery (rd rs1 rs2 : Reg) (s : State) : Out :=
  mossWord (.mquery rd rs1 rs2) (fun x => x.rg rs1) (fun x => x.rg rs2) s

end Sys2Proof.Machine
end

