-- ==== Sys2Proof/Machine/Fetch.lean ====
section
/-!
DEFINITION. Fetching the parcels of a word (R39, R40, R42, R100).
-/
namespace Sys2Proof.Machine

/-- The line that the core's instruction cache holds for the launch, if it does (R42). -/
def cachedLine (s : State) (c : CtxLoc) (x : Context) (line : Nat) : Option (List Byte) :=
  (s.icache.find? fun l =>
    l.core = c.pcl * 8 + c.sub / 16 && l.part = x.part && l.launch = x.launchid.toNat && l.line = line).map ILine.bytes

/-- The parcel at an address, or the cause of the fetch fault (R40, R100). -/
def fetchParcel (s : State) (c : CtxLoc) (x : Context) (va : Word) : Except (BitVec 8 × Word) Parcel :=
  if bitsOf va 48 16 != 0 then .error (0x06, va)
  else
    match cachedLine s c x (va.toNat / 64) with
    | some bs => .ok (BitVec.ofNat 32 (fieldAt bs (va.toNat % 64) 4))
    | none =>
      match translate s c.pcl x.part va.toNat .fetch with
      | .error e => .error (e, va)
      | .ok pa =>
        if s.poison.contains (pa / 64) then .error (0x0D, va) else .ok (BitVec.ofNat 32 (loadNat s.mem pa 4))

/-- `n` parcels from an address up. -/
def fetchParcels (s : State) (c : CtxLoc) (x : Context) : Nat → Word → Except (BitVec 8 × Word) (List Parcel)
  | 0, _ => .ok []
  | n + 1, va =>
    match fetchParcel s c x va with
    | .error e => .error e
    | .ok p =>
      match fetchParcels s c x n (va + 4) with
      | .error e => .error e
      | .ok r => .ok (p :: r)

/-- The word at an address of a context: fetched whole, then decoded (R39, R41); or its fault. -/
def fetchWord (s : State) (c : CtxLoc) (va : Word) : Except (BitVec 8 × Word) Instr :=
  let x := s.ctxAt c
  match fetchParcel s c x va with
  | .error e => .error e
  | .ok p0 =>
    match fetchParcels s c x (wordParcels p0) va with
    | .error e => .error e
    | .ok ps =>
      match decode ps with
      | .ok (i, _) => .ok i
      | .error e => .error (e.cause, e.tval)

/-- The 64-byte lines that a core's instruction cache of 128 KiB holds (R40). -/
def cacheLines : Nat := 2048

/-- A line enters a core's instruction cache, in the place of one of them where the cache is full: which one is a free value (log 6). -/
def State.cacheLine (s : State) (l : ILine) : State :=
  let mine := s.icache.filter fun e => e.core = l.core
  if mine.length < cacheLines then { s with icache := s.icache ++ [l] }
  else
    match mine[Config.freeVictim s.free % cacheLines]? with
    | some e => { s with icache := s.icache.erase e ++ [l], free := s.free + 1 }
    | none => s

/-- The front end of a context fetches the line of an address into its core's cache; a fetch that fails leaves nothing (R40, R42). -/
def State.fetchLine (s : State) (c : CtxLoc) (va : Nat) : State :=
  let x := s.ctxAt c
  let line := va / 64
  if !x.resident || 2 ^ 48 ≤ va || (cachedLine s c x line).isSome then s
  else
    match translate s c.pcl x.part (line * 64) .fetch with
    | .error _ => s.noteWalk c.pcl x.part (line * 64)
    | .ok pa =>
      if s.poison.contains (pa / 64) then s
      else s.cacheLine ⟨c.pcl * 8 + c.sub / 16, x.part, x.launchid.toNat, line, loadBytes s.mem pa 64⟩

/-- The lines of the parcels of the word at an address: that of parcel 0, and that of its last parcel (R39, R40). -/
def State.fetchLines (s : State) (c : CtxLoc) (va : Word) : State :=
  let s := s.fetchLine c va.toNat
  match fetchParcel s c (s.ctxAt c) va with
  | .error _ => s
  | .ok p => s.fetchLine c (va + BitVec.ofNat 64 (4 * (wordParcels p - 1))).toNat

/-- INSTRUCTION_LINE_FETCH (R40, R42). -/
def execInstructionLineFetch (c : CtxLoc) (va : Word) (s : State) : Out := atCtx c s fun s => s.fetchLine c va.toNat

end Sys2Proof.Machine
end

