-- ==== Sys2Proof/Machine/Sync.lean ====
section
/-!
DEFINITION. Event counters (R205 to R207), groups (R202 to R204), rings (R209), LEAVE (R300 to R303), YIELD and SUSPEND
(R197, R200, R201).
-/
namespace Sys2Proof.Machine

/-! ### Event counters -/

def Cluster.counter (cl : Cluster) (n : Nat) : Counter := tget cl.counters n {}

/-- A command's wait `id ≥ thr` as its counter stands: satisfied, with the error bit (R274, R277). -/
def waitHolds (s : State) (own : Nat) (id : Nat) (thr : Word) : Option (Bool × Stamp) :=
  if id = 0x03FF then some (false, {})
  else
    let (pcl, n) := eventOf own id
    let k := (s.cluAt pcl).counter n
    if thr.toNat ≤ k.val.toNat then some (k.err, k.stamp) else none

/-- The command at the head of a queue, its waits tested; a satisfied wait stays satisfied (R206, R274). -/
def testWaits (s : State) (q : List Cmd) : List Cmd :=
  match q with
  | [] => []
  | c :: r =>
    if c.started || c.bytes.isEmpty then c :: r
    else
      let w0 := if c.met0 then none else waitHolds s c.who.pcl (fieldAt c.bytes 0x08 4) (BitVec.ofNat 64 (fieldAt c.bytes 0x10 8))
      let w1 := if c.met1 then none else waitHolds s c.who.pcl (fieldAt c.bytes 0x0C 4) (BitVec.ofNat 64 (fieldAt c.bytes 0x18 8))
      let take := fun (c : Cmd) (w : Option (Bool × Stamp)) =>
        match w with
        | some (b, st) => { c with bad := c.bad || b, obs := c.obs.max st }
        | none => c
      let c' := take (take c w0) w1
      { c' with met0 := c.met0 || w0.isSome, met1 := c.met1 || w1.isSome } :: r

/-- Tests the waits of every queue head of a cluster. -/
def State.testQueues (s : State) (pcl : Nat) : State :=
  s.onClu pcl fun cl => { cl with engines := cl.engines.map fun e => (e.1, testWaits s e.2) }

/-- Tests the waits of every queue head of the package, after a change of a counter. -/
def State.testAll (s : State) : State := (s.clus.map Prod.fst).foldl (fun s p => s.testQueues p) s

/-- A held EVWAIT that the counter now satisfies has seen this value (R206, R207). -/
def EvReg.changed (r : EvReg) (pcl n : Nat) (k : Counter) : EvReg :=
  if r.pcl = pcl && r.n = n && r.thr.toNat ≤ k.val.toNat && r.seen.isNone then { r with seen := some (k.val, k.stamp) }
  else r

/-- Applies a change at its counter: the add or the set, the stamp, the wake-ups of every waiter that it satisfies
(R187, R206, R252, R277). -/
def State.applyAdd (s : State) (a : EvAdd) : State :=
  let k := (s.cluAt a.pcl).counter a.n
  let k' := if a.set then { k with val := a.inc, sat := false, err := false } else counterAdd k a.inc
  let k' := { k' with err := k'.err || a.err, stamp := k.stamp.max a.stamp }
  let s := { s with adds := s.adds.erase a }
  let s := s.onClu a.pcl fun cl => { cl with counters := tset cl.counters a.n k' {} }
  let s := match s.partOf a.pcl with
    | some p => s.acted p capCounter (1024 * a.pcl + a.n) a.who
    | none => s
  let hit := fun (x : Context) => { x with evreg := x.evreg.map fun r => r.changed a.pcl a.n k' }
  let s := (s.contexts.filter fun e => e.2.evreg.isSome).foldl (fun s e => s.onCtx e.1 hit) s
  let s := s.testAll
  s.wakeAll fun w => match w.cond with
    | .counter pcl n thr => pcl = a.pcl && n = a.n && thr.toNat ≤ k'.val.toNat
    | _ => false

/-- A change of a counter may be applied: its dependency set has been, and a replay lets it (R253, R362). -/
def addReady (s : State) (a : EvAdd) : Bool :=
  !(a.die.isSome && s.owed a.stamp none (some a) none) && !s.mgr.tripped &&
  (match s.partOf a.pcl with
    | some p => s.mayAct p capCounter (1024 * a.pcl + a.n) a.who
    | none => true)

/-- EVENT_ADD: change `k` under way is applied (R206). -/
def execEventAdd (k : Nat) (s : State) : Out :=
  match s.adds[k]? with
  | none => .next s
  | some a => if addReady s a then .next (s.applyAdd a) else .next s

/-- EVWAIT: held until the counter reaches rs2; rd := the value it saw (R207). -/
def execEvwait (rd rs1 rs2 : Reg) (s : State) : Out :=
  issue (.evwait rd rs1 rs2) s fun s =>
    let id := s.cx.rg rs1
    match eventBad s s.cx.part s.focus.pcl id.toNat with
    | some c => .next (s.fault c id)
    | none =>
      let (pcl, n) := eventOf s.focus.pcl id.toNat
      let k := (s.cluAt pcl).counter n
      let thr := s.cx.rg rs2
      let held : EvReg := ⟨pcl, n, thr, none⟩
      let r := match s.cx.evreg with
        | some r => if r.pcl = pcl && r.n = n && r.thr = thr then r else held
        | none => held
      match (r.changed pcl n k).seen with
      | some (v, st) =>
        .next ((s.onCx fun x => (({ x with evreg := none }.observe st).setRg rd v).retire).waited)
      | none => .next ((s.onCx fun x => { x with evreg := some r }).waiting wEvent id)

/-- EVRD (R207). -/
def execEvrd (rd rs1 : Reg) (s : State) : Out :=
  issue (.evrd rd rs1) s fun s =>
    let id := s.cx.rg rs1
    match eventBad s s.cx.part s.focus.pcl id.toNat with
    | some c => .next (s.fault c id)
    | none =>
      let k := (s.cluAt (eventOf s.focus.pcl id.toNat).1).counter (eventOf s.focus.pcl id.toNat).2
      .next (s.onCx fun x => ((x.observe k.stamp).setRg rd k.val).retire)

/-! ### Groups -/

/-- An update of a group's entry: member count, arrival count, phase and whether the phase is complete (R202, R204). -/
def groupUpdate (v : GroupView) (lower hold : Bool) : GroupView × Bool :=
  let v := if lower then { v with members := v.members - 1 } else { v with arrivals := v.arrivals + 1 }
  if v.members != 0 && v.arrivals = v.members && !hold then ({ v with arrivals := 0, phase := v.phase + 1 }, true)
  else (v, false)

/-- The bytes of an entry's three counts. -/
def groupBytes (v : GroupView) : List Byte :=
  toLE 4 v.members.toNat ++ toLE 4 v.arrivals.toNat ++ toLE 4 v.phase.toNat

/-- The completion of a phase reaches the held BARs and the waiting records of the group (R187, R203). -/
def State.phaseDone (s : State) (p launch g : Nat) (ph : BitVec 32) (st : Stamp) : State :=
  let held := s.contexts.filter fun e =>
    e.2.resident && e.2.part = p && e.2.launchid.toNat = launch &&
    (match e.2.hold with | .phase g' ph' => g' = g && ph' = ph | _ => false)
  let s := held.foldl
    (fun s e => (s.onCtx e.1 fun x => { x.observe st with hold := .none }).waitEnd e.1 4 0) s
  s.wakeAll fun w => match w.cond with
    | .group l g' ph' => w.part = p && l = launch && g' = g && ph' = ph.setWidth 20
    | _ => false

/-- Applies an arrival, or the lowering of a member count, at its entry; the phase that it completes is held while a
weight-set swap waits on it (R202 to R204, R289). The arriver gets its phase. -/
def State.applyArrival (s : State) (a : Arrival) : State :=
  let v := groupAt s a.pa
  let hold := (s.partAt a.part).swaps.contains (a.pa, v.phase)
  let (v', done) := groupUpdate v a.lower hold
  let s := { s with arrivals := s.arrivals.erase a }
  let s := applyBytes s a.pa (groupBytes v') false a.stamp
  let st := tget s.stamps (a.pa / 64) {}
  let x := s.ctxAt a.who
  let s :=
    if a.lower || !x.resident || x.serial != a.serial then s
    else
      s.onCtx a.who fun x =>
        let x := match a.rd with
          | some rd => { (x.observe st).setRg rd (v.phase.setWidth 64) with replies := x.replies.erase rd.toNat }
          | none => x
        match a.bar, x.hold with
        | true, .arriving => { x with hold := .phase a.group v.phase }
        | _, _ => x
  if done then s.phaseDone a.part a.launch a.group v.phase st else s

/-- GROUP_ARRIVAL: arrival `k` under way is applied at its entry, after its dependency set (R202 to R204, R253). -/
def execGroupArrival (k : Nat) (s : State) : Out :=
  match s.arrivals[k]? with
  | none => .next s
  | some a => if s.owed a.stamp none none (some a) || s.mgr.tripped then .next s else .next (s.applyArrival a)

/-! ### Rings -/

/-- Head and tail of a ring (R208). -/
def ringEnds (s : State) (c : CtxLoc) (d : Word) : Except (BitVec 8 × Word) (Nat × Nat × Bool × Stamp) :=
  match ringRead s c d (ringOff d) 8, ringRead s c d (ringOff d + 8) 8 with
  | .ok (h, i, st), .ok (t, j, _) => .ok (h, t, i || j, st)
  | .error e, _ => .error e
  | _, .error e => .error e

/-- Entry `i` of a ring (R208). -/
def ringEntry (d : Word) (i : Nat) : Nat := ringOff d + 64 + 8 * (i % ringCap d)

/-- The context with its read-invalid flag set if zeros were read; a word that is held, or that faults, has read nothing (R5, R229,
log 44). -/
def Context.sawInvalid (x : Context) (b : Bool) : Context := if b then { x with rdinv := true } else x

/-- RPSH: held until every earlier L word has finished and the ring has room; then the entry and the tail in one
action, as a release at cluster scope (R209). -/
def execRpsh (n : BitVec 2) (rs1 : Reg) (s : State) : Out :=
  issue (.rpsh n rs1) s fun s =>
    let c := s.focus
    let d := tget s.cx.rings n.toNat 0
    if ringKind d = 0 then .next (s.fault 0x18 (n.setWidth 64))
    else if !ringFree s c d then .next (s.waiting wOwner (mossAddr (ringOff d)))
    else
      match ringEnds s c d with
      | .error e => .next (s.fault e.1 e.2)
      | .ok (h, t, inv, _) =>
        if !s.cx.ql.items.isEmpty || ringCap d ≤ t - h then
          .next (s.waiting wRing (BitVec.ofNat 64 (ringOff d)))
        else
          match ringWrite s c d (ringEntry d t) (s.cx.rg rs1).toNat s.cx.obs with
          | .error e => .next (s.fault e.1 e.2)
          | .ok s1 =>
            match ringWrite s1 c d (ringOff d + 8) ((t + 1) % 2 ^ 64) s.cx.obs with
            | .error e => .next (s.fault e.1 e.2)
            | .ok s2 => .next (((s2.onCx fun x => (x.sawInvalid inv).retire).waited).wakeRing c d)

/-- RPOP: held until the ring holds an entry; then rd and the head in one action, an acquire at cluster scope
(R209). -/
def execRpop (rd : Reg) (n : BitVec 2) (s : State) : Out :=
  issue (.rpop rd n) s fun s =>
    let c := s.focus
    let d := tget s.cx.rings n.toNat 0
    if ringKind d = 0 then .next (s.fault 0x18 (n.setWidth 64))
    else if !ringFree s c d then .next (s.waiting wOwner (mossAddr (ringOff d)))
    else
      match ringEnds s c d with
      | .error e => .next (s.fault e.1 e.2)
      | .ok (h, t, inv, st) =>
        if t ≤ h then .next (s.waiting wRing (BitVec.ofNat 64 (ringOff d)))
        else
          match ringRead s c d (ringEntry d h) 8 with
          | .error e => .next (s.fault e.1 e.2)
          | .ok (v, inv', st') =>
            match ringWrite s c d (ringOff d) ((h + 1) % 2 ^ 64) s.cx.obs with
            | .error e => .next (s.fault e.1 e.2)
            | .ok s1 =>
              .next (((s1.onCx fun x =>
                ((((x.observe st).observe st').sawInvalid (inv || inv')).setRg rd (BitVec.ofNat 64 v)).retire).waited).wakeRing c d)

/-- RINIT: checks the descriptor, clears head and tail if [61] asks for it, and writes the register (R209). -/
def execRinit (n : BitVec 2) (rs1 : Reg) (s : State) : Out :=
  issue (.rinit n rs1) s fun s =>
    let c := s.focus
    let v := s.cx.rg rs1
    let d := putBits v 61 1 0
    let limit := if ringKind d = 1 then 2 ^ 26 else 12288
    if ringKind v = 3 || bitsOf v 56 5 != 0 || bitsOf v 26 22 != 0 then .next (s.fault 0x18 v)
    else if ringKind v = 2 && !s.cx.ringArea then .next (s.fault 0x06 v)
    else if ringKind v != 0 && (ringOff v % 64 != 0 || limit < ringOff v + 64 + 8 * ringCap v) then .next (s.fault 0x06 v)
    else if bitOf v 61 && ringKind v != 0 then
      if !ringFree s c d then .next (s.waiting wOwner (mossAddr (ringOff d)))
      else
        match ringWrite s c d (ringOff d) 0 s.cx.obs with
        | .error e => .next (s.fault e.1 e.2)
        | .ok s1 =>
          match ringWrite s1 c d (ringOff d + 8) 0 s.cx.obs with
          | .error e => .next (s.fault e.1 e.2)
          | .ok s2 =>
            .next (((s2.onCx fun x => { x with rings := tset x.rings n.toNat d 0 }.retire).waited).wakeRing c d)
    else .next (s.onCx fun x => { x with rings := tset x.rings n.toNat d 0 }.retire)

/-! ### LEAVE -/

/-- The context whose M head is first for leave (R297). -/
def SubCore.first (u : SubCore) : Option Nat := (u.waiters.find? fun w => w.2).map Prod.fst

/-- LEAVE (R302). -/
def execLeave (rd rs1 : Reg) (s : State) : Out :=
  issue (.leave rd rs1) s fun s =>
    let c := s.focus
    let v := s.cx.rg rs1
    let u := s.subAt c.pcl c.sub
    if !(s.partAt s.cx.part).expert then .next (s.fault 0x03 0)
    else if 32768 < v.toNat then .next (s.fault 0x18 v)
    else if 32768 < s.cx.resv + v.toNat then .next (s.fault 0x13 v)
    else if v = 0 then .next ((s.returnLeave c).onCx fun x => (x.setRg rd 0).retire)
    else if u.account < v.toNat || (match u.first with | some k => k != c.ctx | none => false) then
      .next (s.waiting wLeave 0)
    else
      .next (((s.setSub c.pcl c.sub { u with account := u.account - v.toNat }).onCx fun x =>
        ({ x with resv := x.resv + v.toNat }.setRg rd (BitVec.ofNat 64 (x.resv + v.toNat))).retire).waited)

/-- LEAVERD (R303). -/
def execLeaverd (rd : Reg) (s : State) : Out :=
  issue (.leaverd rd) s fun s =>
    let v := readReg s 0x070
    .next ((afterRead s 0x070).onCx fun x => (x.setRg rd v).retire)

/-! ### YIELD and SUSPEND -/

/-- Looks an index up in a yield table in ascending order: the save and the restore offset (R64, R197). -/
def yieldLookup (s : State) (pcl p : Nat) (idx : Nat) : Nat → Nat → Except (BitVec 8 × Nat) (Option (Nat × Nat))
  | 0, _ => .ok none
  | n + 1, va =>
    match vbytes s pcl p va 16 with
    | .error e => .error e
    | .ok bs => if fieldAt bs 0 2 = idx then .ok (some (fieldAt bs 4 4, fieldAt bs 8 4)) else yieldLookup s pcl p idx n (va + 64)

/-- The entry of an index in a context's yield table. -/
def yieldEntry (s : State) (pcl p : Nat) (ytab : Word) (idx : Nat) : Except (BitVec 8 × Nat) (Option (Nat × Nat)) :=
  yieldLookup s pcl p idx (bitsOf ytab 48 16) (bitsOf ytab 6 42 * 64)

/-- YIELD: ends a save or a restore; with a pre-emption request it starts the save sequence; otherwise it has no effect
(R197, R199). -/
def execYield (idx : BitVec 16) (s : State) : Out :=
  issue (.yield idx) s fun s =>
    let x := s.cx
    if x.ystate = 2 then .next (s.onCx fun x => { x with ystate := 0, pc := x.ypc })
    else if x.ystate = 1 then .next (s.onCx fun x => { x.retire with drain := .yielded })
    else if !x.preq then .next (s.onCx Context.retire)
    else
      let r := yieldEntry s s.focus.pcl x.part x.yieldtab idx.toNat
      match r with
      | .error e => .next ((s.noteRead s.focus.pcl x.part r).fault e.1 (BitVec.ofNat 64 e.2))
      | .ok none => .next (s.fault 0x18 (idx.setWidth 64))
      | .ok (some (save, _)) =>
        .next (s.onCx fun x => { x with ystate := 1, yindex := idx, ypc := x.pc + 4, counting := false,
                                        pc := alignPc (x.text + BitVec.ofNat 64 save) })

/-- A wait cause as SUSPEND writes it: an event's cluster is explicit, and the bits that R186 gives as zero are zero, whatever rs1 holds
there (R186; log 40). -/
def explicitCause (pcl : Nat) (v : Word) : BitVec 32 :=
  if bitsOf v 28 4 = 1 then
    let (k, n) := eventOf pcl (bitsOf v 0 16)
    BitVec.ofNat 32 (2 ^ 28 + (k + 1) * 1024 + n)
  else putBits (putBits v 26 1 0) 0 6 0 |>.setWidth 32

/-- SUSPEND: the checks; then the front end issues no more and the strand drains towards its write-back (R189, R200,
R201). -/
def execSuspend (rd rs1 rs2 : Reg) (s : State) : Out :=
  issue (.suspend rd rs1 rs2) s fun s =>
    let v := s.cx.rg rs1
    let thr := s.cx.rg rs2
    let kind := bitsOf v 28 4
    let bad := if kind = 1 then eventBad s s.cx.part s.focus.pcl (bitsOf v 0 16) else none
    if s.cx.triple then .next (s.fault 0x1C 0x100)
    else if s.cx.ystate != 0 || bitsOf v 32 32 != 0 || (kind != 1 && kind != 3) || (kind = 1 && 2 ^ 32 ≤ thr.toNat) then
      .next (s.fault 0x18 v)
    else
      match bad with
      | some c => .next (s.fault c (BitVec.ofNat 64 (bitsOf v 0 16)))
      | none =>
        .next (s.onCx fun x =>
          { x.retire with drain := .suspended rd (explicitCause s.focus.pcl v) (thr.setWidth 32) (x.pc + 4),
                          counting := false })

end Sys2Proof.Machine
end

