-- ==== Sys2Proof/Machine/Launches.lean ====
section
/-!
DEFINITION. Launches: the launch record and its checks (R210, R211), the pool (R212), the creation of strands and the
end of a launch (R213, R434), and the host's launch queues (R409 to R413).
-/
namespace Sys2Proof.Machine

/-- A launch record as the pool takes it (R210). -/
def parseLaunch (bs : List Byte) (depth pcl : Nat) (host : Option (Nat × BitVec 32)) : Launch where
  depth := depth
  n := fieldAt bs 0x08 4
  triple := fieldAt bs 0x0C 1 = 1
  prio := BitVec.ofNat 3 (fieldAt bs 0x0D 1)
  units := fieldAt bs 0x0E 1
  slots := fieldAt bs 0x0F 1
  entry := BitVec.ofNat 64 (fieldAt bs 0x00 8)
  image := BitVec.ofNat 64 (fieldAt bs 0x10 8)
  imageN := if fieldAt bs 0x10 8 = 0 then 0 else fieldAt bs 0x18 2
  ytabN := fieldAt bs 0x1A 2
  ytab := BitVec.ofNat 64 (fieldAt bs 0x20 8)
  groups := BitVec.ofNat 64 (fieldAt bs 0x28 8)
  members := BitVec.ofNat 64 (fieldAt bs 0x30 8)
  cont := BitVec.ofNat 64 (fieldAt bs 0x38 8)
  save := BitVec.ofNat 64 (fieldAt bs 0x40 8)
  stride := fieldAt bs 0x48 4
  event := BitVec.ofNat 32 (fieldAt bs 0x4C 4)
  home := pcl
  s1 := BitVec.ofNat 64 (fieldAt bs 0x50 8)
  s2 := BitVec.ofNat 64 (fieldAt bs 0x58 8)
  s3 := BitVec.ofNat 64 (fieldAt bs 0x60 8)
  tunits := [fieldAt bs 0x68 1, fieldAt bs 0x69 1, fieldAt bs 0x6A 1]
  tmasks := [BitVec.ofNat 8 (fieldAt bs 0x6C 1), BitVec.ofNat 8 (fieldAt bs 0x6D 1), BitVec.ofNat 8 (fieldAt bs 0x6E 1)]
  ring := fieldAt bs 0x6B 1 = 1
  text := BitVec.ofNat 64 (if fieldAt bs 0x70 8 = 0 then fieldAt bs 0x00 8 else fieldAt bs 0x70 8)
  host := host

/-- The smallest window, in granules, of the strands that receive the image (R211). -/
def leastWindow (l : Launch) : Nat := 48 * (if l.triple then l.tunits.foldl min 8 else l.units)

/-- The header of image record `k` is acceptable (R65, R211). -/
def imageOk (s : State) (pcl p : Nat) (l : Launch) (k : Nat) : Bool :=
  match vbytes s pcl p (l.image.toNat + 264 * k) 8 with
  | .error _ => false
  | .ok bs => fieldAt bs 3 5 = 0 && fieldAt bs 0 2 < leastWindow l

/-- The fields of R210 that the kind of launch decides; those of a triple are zero in a plain launch (log 42). -/
def kindOk (bs : List Byte) (l : Launch) : Bool :=
  if l.triple then
    fieldAt bs 0x0E 1 = 0 && fieldAt bs 0x0F 1 = 0 && l.n % 3 = 0 && (l.tunits.all fun u => 1 ≤ u && u ≤ 8) &&
    fieldAt bs 0x6B 1 ≤ 1 && l.tunits.foldl (· + ·) (b2n l.ring) ≤ 8 && (l.tmasks.all fun m => m != 0) &&
    l.tmasks.getD 0 0 &&& l.tmasks.getD 1 0 = 0 && l.tmasks.getD 0 0 &&& l.tmasks.getD 2 0 = 0 &&
    l.tmasks.getD 1 0 &&& l.tmasks.getD 2 0 = 0 && fieldAt bs 0x6F 1 = 0
  else 1 ≤ l.units && l.units ≤ 8 && 1 ≤ l.slots && l.slots ≤ 8 && fieldAt bs 0x68 8 = 0

/-- A record that passes R210 and R211. `own` is the cluster that an event id with cluster field 0 names. -/
def launchOk (s : State) (pcl p : Nat) (bs : List Byte) (l : Launch) : Bool :=
  l.entry.toNat % 4 = 0 && 1 ≤ l.n && l.n ≤ 2 ^ 24 && fieldAt bs 0x0C 1 ≤ 1 && fieldAt bs 0x0D 1 < 8 && kindOk bs l &&
  fieldAt bs 0x18 2 ≤ 384 && fieldAt bs 0x1C 4 = 0 && l.ytab.toNat % 64 = 0 && l.groups.toNat % 4096 = 0 &&
  l.cont.toNat % 64 = 0 && l.save.toNat % 256 = 0 && l.stride % 256 = 0 && l.text.toNat % 4 = 0 &&
  fieldAt bs 0x78 8 = 0 && (l.event = 0x03FF || (eventBad s p pcl l.event.toNat).isNone) &&
  (List.range l.imageN).all (imageOk s pcl p l)

/-- The free entry that a launch at a depth takes: entries 256 d to 256 d + 255 are reserved for depth d, entries 2,048
up are common (R212). -/
def poolEntry (p : Partition) (depth : Nat) : Option Nat :=
  (tfree p.launches (256 * depth) 256).or (tfree p.launches 2048 2048)

/-- The membership flags and groups of strand `i` (R210). Bits [14:8] of an entry are reserved; no check of R211 reads the table, and an
entry in which they are not zero is taken without them (DESIGN CHOICE, log 42). -/
def membership (s : State) (pcl p : Nat) (l : Launch) (i : Nat) : Except (BitVec 8 × Nat) (BitVec 36) :=
  if l.members = 0 then .ok 0
  else
    match vbytes s pcl p (l.members.toNat + 8 * i) 8 with
    | .error e => .error e
    | .ok bs =>
      .ok (BitVec.ofNat 36 ((List.range 4).foldl
        (fun v k => v + fieldAt bs (2 * k) 1 * 2 ^ (8 * k) + fieldAt bs (2 * k + 1) 1 / 128 * 2 ^ (32 + k)) 0))

/-- Creates the record of strand `i` (R213): the state, and the cause where it cannot be created (R434). -/
def createRecord (s : State) (pcl p id : Nat) (l : Launch) (obs : Stamp) (i : Nat) : State × Option (BitVec 8) :=
  let r := membership s pcl p l i
  match r with
  | .error e => (s.noteRead pcl p r, some e.1)
  | .ok grp =>
    let bs := recordBytes l.entry i id l.prio.toNat 0 (l.save + BitVec.ofNat 64 (i * l.stride)) 0
      (if l.triple then i % 3 + 1 else 0) (getAt grp 32 4) 0 grp 0 l.s1 l.s2 l.s3
    let (s, w) := s.vstore pcl p obs (recordAddr l i).toNat bs
    (s, w.map Prod.fst)

/-- Creates record `j` of a unit: with the strands of the unit whose record is made. A record that cannot be created counts as a strand
that ended with error (R434). -/
def makeRecord (pcl p id : Nat) (l : Launch) (obs : Stamp) (a : State × List Nat) (j : Nat) : State × List Nat :=
  match createRecord a.1 pcl p id l obs j with
  | (s, none) => (s, a.2 ++ [j])
  | (s, some e) => (s.recordFailed p id j e (recordAddr l j), a.2)

/-- Creates the strands from `i` on, one unit (a strand, or a triple) at a time: each enters the ready queue of the
`i mod C`-th cluster of the partition (R188, R213). -/
def createStrands (pcl p id : Nat) (l : Launch) (obs : Stamp) : Nat → Nat → State → State
  | 0, _, s => s
  | fuel + 1, i, s =>
    let unit := if l.triple then [i, i + 1, i + 2] else [i]
    let (s, made) := unit.foldl (makeRecord pcl p id l obs) (s, [])
    let cs := (s.partAt p).list
    let s := if made.isEmpty then s else s.enterReady (cs.getD (i % cs.length) pcl) p id i (recordAddr l i) l.prio none
    createStrands pcl p id l obs fuel (i + unit.length) s

/-- A launch takes entry `id` and its strands are created (R212, R213). -/
def State.startLaunch (s : State) (pcl p id : Nat) (l : Launch) (obs : Stamp) : State :=
  let s := s.onPart p fun q => { q with launches := tput q.launches id l }
  createStrands pcl p id l obs (if l.triple then l.n / 3 else l.n) 0 s

/-! ### Requests of LAUNCH words -/

/-- The reply of the pool (R211). -/
def State.launchReply (s : State) (r : LaunchReq) (v : Word) : State :=
  let x := s.ctxAt r.who
  if x.resident && x.serial = r.serial then
    let t := s.onCtx r.who fun x => { x.setRg r.rd v with replies := x.replies.erase r.rd.toNat,
                                                          hold := if r.block then .none else x.hold }
    if r.block then t.waitEnd r.who 4 0 else t
  else s

/-- A halt that leads to a hardware save (R198, R212, R353). -/
def State.beginSave (s : State) (c : CtxLoc) (reason : BitVec 8) (forced waiting : Bool) (cause : BitVec 32) (pc : Word)
    (thr : BitVec 32) : State :=
  let x := s.ctxAt c
  if x.halt.isSome || x.debug || !x.resident then s
  else
    (s.onCtx c fun x => { x with halt := some ⟨.save reason forced waiting cause pc thr, x.pc, none⟩, counting := false }).settle c

/-- The blocking form finds its pool full: a triple member faults, any other parent is written back with its pc at the
LAUNCH (R189, R212). -/
def State.poolFull (s : State) (r : LaunchReq) : State :=
  let x := s.ctxAt r.who
  if !x.resident || x.serial != r.serial then s
  else
    let s := s.onCtx r.who fun x => { x with pc := r.pc, hold := .none, replies := x.replies.erase r.rd.toNat }
    if x.triple then s.raise r.who 0x1B r.addr r.pc none
    else s.beginSave r.who 0 false true (BitVec.ofNat 32 (5 * 2 ^ 28 + (r.depth + 1))) r.pc 0

/-- LAUNCH_POOL_ACCEPT: the pool decides request `k` (R211, R212). The record's reads come after every write that the
request's release covers (R253). A full pool leaves the request of a parent that has halted until it runs again; its release is over. -/
def execLaunchPoolAccept (k : Nat) (s : State) : Out :=
  match s.launching[k]? with
  | none => .next s
  | some r =>
    let x := s.ctxAt r.who
    let stuck := r.block && x.resident && x.serial = r.serial && (x.halt.isSome || x.debug || x.parked)
    if s.owed r.obs none none none || s.mgr.tripped then .next s
    else
      let t := { s with launching := s.launching.erase r }
      let full := poolEntry (t.partAt r.part) (r.depth + 1)
      if 7 ≤ r.depth then .next (t.launchReply r 3)
      else
        let rec128 := vbytes t r.who.pcl r.part r.addr.toNat 128
        match rec128 with
        | .error e =>
          let t := t.noteRead r.who.pcl r.part rec128
          -- a poisoned record is told to the controller (R387)
          let t := if e.1 = 0x0D then { t with mgr := { t.mgr with log := t.mgr.log ++ [(3877, r.who.pcl, r.part)] } } else t
          .next (t.launchReply r 2)
        | .ok bs =>
          let l := parseLaunch bs (r.depth + 1) r.who.pcl none
          if !launchOk t r.who.pcl r.part bs l then .next (t.launchReply r 2)
          else
            match full with
            | some id => .next ((t.startLaunch r.who.pcl r.part id l r.obs).launchReply r (BitVec.ofNat 64 (id * 2 ^ 16)))
            | none =>
              if !r.block then .next (t.launchReply r 1)
              else if stuck then .next { s with launching := setNth s.launching k { r with met := true } }
              else .next (t.poolFull r)

/-! ### Host launch queues -/

/-- The cluster whose number stands for the hub's accesses to a partition's memory. -/
def hubClu (s : State) (p : Nat) : Nat := (s.partAt p).list.headD 0

/-- The head word of a queue (R409). -/
def headWord (q : HostQ) : List Byte := toLE 4 q.h.toNat ++ toLE 4 q.tc.toNat

/-- The port is up (R407). -/
def Ethernet.up (e : Ethernet) (port : Nat) : Bool := if port = 0 then !e.down0 else !e.down1

/-- The 32 bytes go to the notify target of a queue, over the port on which the partition has the queue pair, if it is up (R407, R413,
log 49). -/
def State.notifyHost (s : State) (p : Nat) (q : HostQ) (entry : List Byte) : State :=
  match q.notify with
  | none => s
  | some (qp, key, addr) =>
    match (s.partAt p).qps.find? fun e => e.2.1 = qp && s.eth.up e.1 with
    | none => s
    | some e => { s with eth := { s.eth with notes := s.eth.notes ++ [(e.1, qp, key, addr, entry)] } }

/-- Writes a completion entry and the head word, and notifies the host (R413). -/
def State.complete (s : State) (p k : Nat) (entry : List Byte) : State :=
  match tfind (s.partAt p).queues k with
  | none => s
  | some q =>
    let (s, _) := s.vstore (hubClu s p) p {} (q.comp.toNat + 32 * (q.tc.toNat % q.cap)) entry
    let q := { q with tc := q.tc + 1 }
    let (s, _) := s.vstore (hubClu s p) p {} q.head.toNat (headWord q)
    (s.onPart p fun r => { r with queues := tput r.queues k q }).notifyHost p q entry

/-- A completion entry (R413). -/
def entryBytes (idx : BitVec 32) (id status errors : Nat) (rep : BitVec 8 × Word × Nat × Word) : List Byte :=
  toLE 4 idx.toNat ++ toLE 2 id ++ toLE 1 status ++ toLE 1 0 ++ toLE 4 errors ++ toLE 1 rep.1.toNat ++ toLE 3 0 ++
  toLE 8 rep.2.1.toNat ++ toLE 4 rep.2.2.1 ++ toLE 2 rep.2.2.2.toNat ++ toLE 2 0

/-- An entry of the pool has freed: the blocked parents of the depths that may use it are woken (R187, R212). -/
def State.wakePool (s : State) (p id : Nat) : State :=
  s.wakeAll fun w => match w.cond with
    | .pool d => w.part = p && (2048 ≤ id || id / 256 = d)
    | _ => false

/-- LAUNCH_END: every strand has ended; the entry frees, its cached lines go, the completion counter receives its
EventAdd, and the host its entry (R42, R213, R413). Chapter 19 gives completion entries to launch queues only: of a launch that a LAUNCH
word made, nothing but the counter tells how it has ended (DESIGN CHOICE, log 52). -/
def State.endLaunch (s : State) (p id : Nat) : State :=
  match tfind (s.partAt p).launches id with
  | none => s
  | some l =>
    let told := l.host.isSome && l.event != 0x03FF && !s.mayWrite (dieOf l.home) {}
    if l.ended < l.n || told then s
    else
      let s := s.onPart p fun q => { q with launches := tdel q.launches id }
      let s := { s with icache := s.icache.filter fun e => !(e.part = p && e.launch = id) }
      -- what is left of a strand that R434 has ended
      let s := (List.range 40).foldl (fun s c => s.onClu c fun cl =>
        { cl with ready := cl.ready.filter fun r => !(r.part = p && r.launch = id) }) s
      let s :=
        if l.event = 0x03FF then s
        else
          let (st, s) := s.stampWrite (dieOf l.home) {}
          let (pcl, n) := eventOf l.home l.event.toNat
          -- a host launch's add comes before its completion entry
          if l.host.isSome then (s.flush st).applyAdd ⟨whoHardware, pcl, n, 1, false, false, st, some (dieOf l.home)⟩
          else s.sendAdd whoHardware l.home l.event.toNat 1 false false st (some (dieOf l.home))
      let s := match l.host with
        | none => s
        | some (k, idx) => s.complete p k (entryBytes idx id (if l.errors = 0 then 0 else 1) l.errors (l.report.getD (0, 0, 0, 0)))
      s.wakePool p id

/-- LAUNCH_END (R213). -/
def execLaunchEnd (p id : Nat) (s : State) : Out := atPart p s fun s => s.endLaunch p id

/-- LAUNCH_MAILBOX_WRITE: the host writes tail and completion head; a tail counts only where R410 accepts it. With an accepted tail, or
with the tail that stands, the completion head moves forward, and no further than the completion tail; a write with another tail changes
nothing (R410, log 42). -/
def State.mailbox (s : State) (p k : Nat) (tail head : BitVec 32) : State :=
  match tfind (s.partAt p).queues k with
  | none => s
  | some q =>
    if s.mgr.tripped then s
    else
      let (s, _) := s.vstore (hubClu s p) p {} q.mail.toNat (toLE 4 tail.toNat ++ toLE 4 head.toNat)
      let fwd := (tail - q.t).toNat
      let ok := 1 ≤ fwd && fwd ≤ q.cap && (tail - q.h).toNat ≤ q.cap
      let hc := if (ok || fwd = 0) && (head - q.hc).toNat ≤ (q.tc - q.hc).toNat then head else q.hc
      let s := s.onPart p fun r => { r with queues := tput r.queues k { q with t := if ok then tail else q.t, hc := hc } }
      if ok || fwd = 0 || 2 ^ 31 ≤ fwd then s else { s with mgr := { s.mgr with log := s.mgr.log ++ [(410, k, p)] } }

/-- LAUNCH_MAILBOX_WRITE (R410). -/
def execLaunchMailboxWrite (p q : Nat) (tail head : BitVec 32) (s : State) : Out :=
  atPart p s fun s => s.mailbox p q tail head

/-- The head of a queue has passed a record, and the rotation goes on behind it (R411). -/
def State.passRecord (s : State) (p k : Nat) : State :=
  match tfind (s.partAt p).queues k with
  | none => s
  | some q =>
    let q := { q with h := q.h + 1 }
    let (s, _) := s.vstore (hubClu s p) p {} q.head.toNat (headWord q)
    s.onPart p fun r => { r with queues := tput r.queues k q, turn := k + 1 }

/-- What the hub finds at the head of queue `k`, if it can take it: a record to refuse, with its status and the class under which the
controller is told, or a launch and its free entry. A launch that finds no free entry stays (R411, R412). -/
def hubFinds (s : State) (p k : Nat) (q : HostQ) : Option (Except (Nat × Option Nat) (Nat × Launch)) :=
  if q.h = q.t || q.cap ≤ (q.h - q.hc).toNat then none
  else
    let pcl := hubClu s p
    match vbytes s pcl p (q.ring.toNat + 128 * (q.h.toNat % q.cap)) 128 with
    | .error (cause, _) => some (.error (if cause = 0x0D then (3, some 3877) else (2, some 412)))
    | .ok bs =>
      let l := parseLaunch bs 0 pcl (some (k, q.h))
      if launchOk s pcl p bs l then (poolEntry (s.partAt p) 0).map fun id => .ok (id, l) else some (.error (2, none))

/-- The queue whose turn it is: the first in the rotation that has a record to take (R411). -/
def hubTurn (s : State) (p : Nat) : Option Nat :=
  let q := s.partAt p
  let ks := (q.queues.filter fun e => (hubFinds s p e.1 e.2).isSome).map Prod.fst
  (ks.find? fun k => q.turn ≤ k).or ks.head?

/-- A record is refused: its entry says so, and the controller is told of a failed read (R412). -/
def State.refuseRecord (s : State) (p k : Nat) (idx : BitVec 32) (status : Nat) (cls : Option Nat) : State :=
  let s := match cls, tfind (s.partAt p).queues k with
    | some c, some q =>
      let r := vbytes s (hubClu s p) p (q.ring.toNat + 128 * (q.h.toNat % q.cap)) 128
      let s := s.noteRead (hubClu s p) p r
      { s with mgr := { s.mgr with log := s.mgr.log ++ [(c, k, p)] } }
    | _, _ => s
  (s.passRecord p k).complete p k (entryBytes idx 0xFFFF status 0 (0, 0, 0, 0))

/-- The hub takes the record at the head of a queue, where it is that queue's turn. A launch is a release at device scope: it waits for its
dependency set, and what that holds in device memory is applied with it (R253, R255, R411, R412). -/
def State.takeRecord (s : State) (p k : Nat) : State :=
  match tfind (s.partAt p).queues k with
  | none => s
  | some q =>
    if s.mgr.tripped || hubTurn s p != some k then s
    else
      match hubFinds s p k q with
      | none => s
      | some (.error (status, cls)) => s.refuseRecord p k q.h status cls
      | some (.ok (id, l)) =>
        if s.mayWrite (dieOf (hubClu s p)) {} then
          let (st, s) := s.stampWrite (dieOf (hubClu s p)) {}
          ((s.flush st).startLaunch (hubClu s p) p id l st).passRecord p k
        else s

/-- HOST_LAUNCH_TAKE (R411). -/
def execHostLaunchTake (p q : Nat) (s : State) : Out := atPart p s fun s => s.takeRecord p q

end Sys2Proof.Machine
end

