-- ==== Sys2Proof/Machine/Save.lean ====
section
/-!
DEFINITION. The save area (R354): what the hardware save writes and what the hardware restore reads (R353, R355).
-/
namespace Sys2Proof.Machine

/-- Token queues in ascending (sending, receiving) order. -/
def tokOrder : List Nat := [1, 2, 3, 4, 6, 7, 8, 9, 11, 12, 13, 14]

/-- Bank format code: 0 EMPTY, 1 FP32, 2 I32. -/
def bankCode (b : Bank) : Nat :=
  match b.fmt with
  | .fp32 => 1 | .i32 => 2 | _ => 0
def bankFmt : Nat → Fmt
  | 1 => .fp32 | 2 => .i32 | _ => .empty

/-- Eight-byte fields in order. -/
def words (ws : List Word) : List Byte := ws.flatMap fun w => toLE 8 w.toNat

/-- Number of slots of a mask. -/
def slotCount (m : BitVec 8) : Nat := ((List.range 8).filter fun k => m.getLsbD k).length

/-- `fpflags` as the area holds it, with the flags that the rows of stopped V words have raised: an entry has no place for them, and the
word's finish would OR them (R83, R354; DESIGN CHOICE, log 20). -/
def savedFlags (x : Context) : Word := x.qv.items.foldl (fun v i => v ||| i.val) x.fpflags

/-- Offsets 0x0000 to 0x00FF, of a context with number `ctx`. -/
def saveHead (x : Context) (ctx : Nat) (reason : BitVec 8) (pc : Word) : List Byte :=
  toLE 2 1 ++ toLE 1 reason.toNat ++ toLE 1 (b2n x.intrap) ++ toLE 2 x.wsize ++ toLE 1 (slotCount x.slots) ++ toLE 1 0 ++
  words ([pc, fullStat x.stat ctx, x.estat, x.epc, x.ecause, x.etval, x.tvec, x.escratch, x.eissue, x.emark, x.fpctl, savedFlags x, x.vshape,
    BitVec.ofNat 64 (b2n x.rdinv + (List.range 8).foldl (fun v k => v + bankCode (x.bank k) * 2 ^ (2 + 2 * k)) 0),
    x.pdeadline.setWidth 64, x.yieldtab] ++ (List.range 4).map (fun k => tget x.rings k 0) ++ [x.dbgctl.setWidth 64] ++
    (List.range 4).map fun k => tget x.dwatch k 0) ++
  toLE 4 (x.ystate + x.yindex.toNat * 2 ^ 16) ++ toLE 4 0 ++ toLE 8 x.ypc.toNat ++ toLE 32 0

/-- The parcels of a word in 24 bytes (R354). -/
def parcelBytes (i : Instr) : List Byte :=
  let bs := (encode i).flatMap fun p => toLE 4 p.toNat
  bs ++ toLE (24 - bs.length) 0

/-- An entry of the V, L or M queue: parcels, sequence number, resumption step, captured values, and the word's address
in the last 8 captured bytes (log 20). -/
def queueEntry (g : Eng) (i : Item) : List Byte :=
  let done := match i.phase with | .complete => true | _ => false
  let vals := match g with
    | .v => [i.vshape, i.fpctl, i.a, i.pc]
    | .m => [i.a, i.b, i.d, i.pc]
    | _ => [if done then i.val else i.a, i.b, if (i.ins.vparts).isSome then i.vshape else i.d, i.pc]
  parcelBytes i.ins ++ toLE 4 i.seq.toNat ++ toLE 4 (stepCode i) ++ words vals ++
    (match g with | .m => [] | _ => toLE 256 i.mask.toNat)

/-- An entry of the E queue. -/
def eEntry (i : Item) : List Byte :=
  toLE 4 ((encode i.ins).headD 0).toNat ++ toLE 4 i.seq.toNat ++ toLE 8 i.a.toNat ++ toLE 8 i.b.toNat ++ toLE 8 0

/-- A point entry. -/
def pointEntry (i : Item) : List Byte :=
  toLE 4 ((encode i.ins).headD 0).toNat ++ toLE 4 i.seq.toNat ++ toLE 8 i.pc.toNat ++ toLE 8 i.a.toNat ++ toLE 8 i.b.toNat

/-- `n` entries of `size` bytes, the unused ones zero. -/
def slotsOf (n size : Nat) (es : List (List Byte)) : List Byte := es.flatten ++ toLE (size * (n - es.length)) 0

def Queue.wordItems (q : Queue) : List Item := q.items.filter fun i => !Instr.isPoint i.ins
def Queue.pointItems (q : Queue) : List Item := q.items.filter fun i => Instr.isPoint i.ins

/-- Offsets 0x0100 to 0x03FF. -/
def saveScalars (x : Context) : List Byte :=
  words ((List.range 32).map fun k => x.rg (BitVec.ofNat 5 k)) ++
  words ((List.range 16).map fun k => tget x.tviews k 0) ++ words ((List.range 8).map fun k => tget x.aviews k 0) ++
  toLE 320 0

/-- Offsets 0x0C00 to 0x0EFF. The error marks of tokens have no place (log 20). -/
def saveTags (x : Context) : List Byte :=
  ((List.range 384).flatMap fun g => toLE 1 ((x.gran g).fmt.code.toNat + 16 * b2n (x.gran g).owner)) ++ toLE 128 0 ++
  (tokOrder.flatMap fun q =>
    let t := tget x.toks q {}
    toLE 1 t.toks.length ++ toLE 3 0 ++ toLE 4 t.pushes.toNat ++ toLE 4 t.pops.toNat ++ toLE 4 0) ++ toLE 64 0

/-- Offsets 0x1000 to 0x47FF: queues and points. -/
def saveQueues (x : Context) : List Byte :=
  slotsOf 16 320 (x.qv.wordItems.map (queueEntry .v)) ++ slotsOf 16 320 (x.ql.wordItems.map (queueEntry .l)) ++
  slotsOf 16 64 (x.qm.wordItems.map (queueEntry .m)) ++ slotsOf 16 32 (x.qe.wordItems.map eEntry) ++
  toLE 512 0 ++ slotsOf 8 32 (x.qv.pointItems.map pointEntry) ++ slotsOf 8 32 (x.qm.pointItems.map pointEntry) ++
  slotsOf 8 32 (x.ql.pointItems.map pointEntry) ++ slotsOf 8 32 (x.qe.pointItems.map pointEntry) ++ toLE 1024 0

/-- The save area of a context in pieces: offset, bytes, and the poison that travels with them (R246, R354). -/
def savePieces (x : Context) (ctx : Nat) (reason : BitVec 8) (pc : Word) (free : Nat) : List (Nat × List Byte × Bool) :=
  [(0, saveHead x ctx reason pc ++ saveScalars x, false)] ++
  ((List.range 8).map fun k => (0x400 + 256 * k, toLE 256 (x.mreg k).toNat, x.mbad.getLsbD k)) ++
  [(0xC00, saveTags x, false),
   (0xF00, stopRecords x (x.marked.map fun m => (m.1, m.2, putBits x.emark 0 1 0)) free, false), (0x1000, saveQueues x, false)] ++
  ((List.range 8).map fun k => (0x4800 + 1024 * k, toLE 1024 (x.bank k).data.toNat, (x.bank k).bad)) ++
  [(0x6800, toLE 0x1800 0, false)] ++
  ((List.range x.wsize).map fun g => (0x8000 + 256 * g, toLE 256 (x.gran g).data.toNat, (x.gran g).poison))

/-- Sends the pieces of an area from its address on; the cause and address of the first write that failed. -/
def State.sendPieces (s : State) (c : CtxLoc) (base : Nat) : List (Nat × List Byte × Bool) → State × Option (BitVec 8 × Nat)
  | [] => (s, none)
  | (o, bs, bad) :: r =>
    match s.sendSave c (base + o) bs bad with
    | (s, none) => s.sendPieces c base r
    | (s, e) => (s, e)

/-- The writes of a save leave the context (R353, R354); the cause and address of a write that failed (R350). -/
def State.streamSave (s : State) (c : CtxLoc) (reason : BitVec 8) (pc : Word) : State × Option (BitVec 8 × Nat) :=
  let x := s.ctxAt c
  { s with free := s.free + 1 }.sendPieces c x.savearea.toNat (savePieces x c.ctx reason pc s.free)

/-- Writes the save area of a context, and every write is applied (R353). -/
def State.writeSave (s : State) (c : CtxLoc) (reason : BitVec 8) (pc : Word) : State × Option (BitVec 8 × Nat) :=
  let (s, w) := s.streamSave c reason pc
  (s.settleMemory (dieOf c.pcl) (s.ctxAt c).obs, w)

/-! ### The restore -/

/-- Bytes of virtual memory with the poison of their lines: `none` for the poison where none is to be carried. -/
def vget (s : State) (pcl p va n : Nat) : Except (BitVec 8 × Nat) (List Byte × Bool) :=
  (pieces (n / 64 + 2) va n).foldl
    (fun a q => match a with
      | .error e => .error e
      | .ok (bs, b) =>
        match translate s pcl p q.1 .load with
        | .error e => .error (e, q.1)
        | .ok pa =>
          if s.failing.contains (pa / 64) then .error (0x0F, q.1)
          else .ok (bs ++ loadBytes s.mem pa q.2, b || s.poison.contains (pa / 64))) (.ok ([], false))

/-- A field of the area. -/
def wordAt (bs : List Byte) (o : Nat) : Word := BitVec.ofNat 64 (fieldAt bs o 8)

/-- The parcels of a saved word. -/
def savedInstr (bs : List Byte) (n : Nat) : Option Instr :=
  match decode ((List.range n).map fun k => BitVec.ofNat 32 (fieldAt bs (4 * k) 4)) with
  | .ok (i, _) => some i
  | .error _ => none

/-- The phase of a restored entry: the entries that had started stand at their resumption step (R346). -/
def phaseOf (started : Bool) (step : Nat) : Phase :=
  if !started then .idle
  else if 2 ^ 31 ≤ step then .pushing (BitVec.ofNat 3 step)
  else if step = 0xFFFF then .complete
  else .parked step

/-- A queue entry read back. A step that has started has drawn its energy, whatever its resumption step (R173). -/
def readEntry (g : Eng) (bs : List Byte) (started : Bool) : Option Item :=
  (savedInstr bs 6).map fun i =>
    let w := fun k => wordAt bs (32 + 8 * k)
    let step := fieldAt bs 28 4
    let vec := (i.vparts).isSome
    { ins := i, pc := w 3, seq := BitVec.ofNat 32 (fieldAt bs 24 4),
      vshape := (match g with | .v => w 0 | .l => if vec then w 2 else 0xFFF | _ => 0xFFF),
      fpctl := (match g with | .v => w 1 | _ => 0),
      a := (match g with | .v => w 2 | _ => w 0), b := (match g with | .v => 0 | _ => w 1),
      d := (match g with | .v => 0 | .l => if vec then 0 else w 2 | _ => w 2),
      mask := (match g with | .m => 0 | _ => BitVec.ofNat 2048 (fieldAt bs 64 256)),
      phase := phaseOf started step, val := if step = 0xFFFF then w 0 else 0
      lost := (match g with | .m => if started then 2 else 0 | _ => 0) }

/-- An entry of the E queue read back; its address is not saved: that of the head is in the stop record, any other is a
free value (log 6). -/
def readE (bs : List Byte) (started : Bool) (pc : Word) : Option Item :=
  (savedInstr bs 1).map fun i =>
    { ins := i, pc := pc, seq := BitVec.ofNat 32 (fieldAt bs 4 4), vshape := 0xFFF, fpctl := 0, a := wordAt bs 8,
      b := wordAt bs 16, d := 0, mask := 0, phase := if started then .parked 0 else .idle }

/-- A point entry read back. -/
def readPoint (bs : List Byte) : Option Item :=
  (savedInstr bs 1).map fun i =>
    { ins := i, pc := wordAt bs 8, seq := BitVec.ofNat 32 (fieldAt bs 4 4), vshape := 0xFFF, fpctl := 0, a := wordAt bs 16,
      b := wordAt bs 24, d := 0, mask := 0 }

/-- Words and points of a queue in their order: a point comes before the word whose sequence number it carries
(R115). -/
def mergeItems : List Item → List Item → List Item
  | [], ps => ps
  | w :: ws, ps =>
    let before := ps.takeWhile fun p => (w.seq - p.seq).toNat < 2 ^ 31
    before ++ w :: mergeItems ws (ps.drop before.length)

/-- The entries that are in use: those that decode, up to the first that does not. -/
def takeSome {α : Type} : List (Option α) → List α
  | some a :: r => a :: takeSome r
  | _ => []

/-- Entry `k` of a part of the area, and whether it is in use: an unused entry is zero. -/
def entryAt (bs : List Byte) (o size k : Nat) : Option (List Byte) :=
  let e := (bs.drop (o + size * k)).take size
  if e.all (· == 0) then none else some e

/-- A queue read back: its entries at `o` of `size` bytes, its points at `po`, its stop record at `so`. -/
def readQueue (g : Eng) (bs : List Byte) (o size po so free : Nat) : Queue :=
  let started := fieldAt bs (so + 8) 4
  let finished := fieldAt bs (so + 12) 4
  let flying := (started + 2 ^ 32 - finished) % 2 ^ 32
  let head := wordAt bs (so + 0x38)
  let item := fun (k : Nat) => (entryAt bs o size k).bind fun e =>
    match g with
    | .e => readE e (k < flying) (if k = 0 then head else Config.freeCycles (free + k))
    | _ => readEntry g e (k < flying)
  let ws := takeSome ((List.range 16).map item)
  let ps := takeSome ((List.range 8).map fun k => (entryAt bs po 32 k).bind readPoint)
  -- a marked TOKPOST stands at its push (R344, log 20)
  let mark := fun (i : Item) =>
    if Instr.isPoint i.ins && fieldAt bs (so + 1) 1 = 3 && i.pc = head then { i with phase := phaseOf true (fieldAt bs (so + 0x10) 4) } else i
  { items := (mergeItems ws ps).map mark, started := BitVec.ofNat 32 started, finished := BitVec.ofNat 32 finished,
    issued := match ws.getLast? with | some w => w.seq + 1 | none => BitVec.ofNat 32 finished }

/-- The engine whose stop record names a marked word, with the sequence number of that word (R346). -/
def readMarked (x : Context) (bs : List Byte) : Option (Eng × BitVec 32) :=
  if !bitOf x.emark 0 then none
  else
    ([Eng.v, .m, .l, .e].find? fun g => fieldAt bs (0xF00 + 64 * Eng.num g + 1) 1 = 3).bind fun g =>
      ((x.queue g).items.find? fun i => i.pc = putBits x.emark 0 1 0).map fun i => (g, i.seq)

/-- The reserved bytes of token queues, of stop records and of E entries, as offset and number (R346, R354). -/
def reservedBytes : List (Nat × Nat) :=
  ((List.range 12).flatMap fun k => [(0xE00 + 16 * k + 1, 3), (0xE00 + 16 * k + 12, 4)]) ++
  ((List.range 4).flatMap fun k => [2, 0x24, 0x34, 0x14].map fun o => (0xF00 + 64 * k + o, if o = 2 then 2 else 4)) ++
  (List.range 16).map fun k => (0x3C00 + 32 * k + 24, 8)

/-- Whether the restore can accept an area (R355): version, reason, flags, reserved fields, and the sizes of the
context. -/
def areaOk (x : Context) (bs : List Byte) : Bool :=
  fieldAt bs 0 2 = 1 && (fieldAt bs 2 1 = 0 || fieldAt bs 2 1 = 0x14) && fieldAt bs 3 1 ≤ 1 && fieldAt bs 4 2 = x.wsize &&
  fieldAt bs 6 1 = slotCount x.slots && fieldAt bs 7 1 = 0 && fieldAt bs 0xD0 4 / 4 % 2 ^ 14 = 0 && fieldAt bs 0xD0 4 % 4 < 3 &&
  fieldAt bs 0xD4 4 = 0 && (((bs.drop 0xE0).take 32).all (· == 0)) && reservedBytes.all fun r => fieldAt bs r.1 r.2 = 0

/-- The registers of a context from an area (R354, R355); reserved bits read zero (R9, log 20). `stat.ctx` reads as the new context's
number. -/
def readRegs (x : Context) (bs : List Byte) : Context :=
  let flags := wordAt bs 0x70
  { x with
    pc := alignPc (wordAt bs 0x08), stat := wordAt bs 0x10 &&& 0x70F, estat := wordAt bs 0x18, epc := putBits (wordAt bs 0x20) 0 2 0,
    ecause := wordAt bs 0x28 &&& 0xFF, etval := wordAt bs 0x30, tvec := putBits (wordAt bs 0x38) 0 2 0, escratch := wordAt bs 0x40,
    eissue := putBits (wordAt bs 0x48) 0 2 0, emark := putBits (wordAt bs 0x50) 1 1 0, fpctl := wordAt bs 0x58 &&& 3, fpflags := wordAt bs 0x60 &&& 0xFDFF,
    vshape := wordAt bs 0x68 &&& 0xFFF, rdinv := bitOf flags 0, pdeadline := BitVec.ofNat 32 (fieldAt bs 0x78 4),
    yieldtab := putBits (wordAt bs 0x80) 0 6 0
    rings := (List.range 4).foldl (fun t k => tset t k (wordAt bs (0x88 + 8 * k) &&& 0xC0FF000003FFFFC0) 0) []
    dbgctl := BitVec.ofNat 3 (fieldAt bs 0xA8 1)
    dwatch := (List.range 4).foldl (fun t k => tset t k (putBits (wordAt bs (0xB0 + 8 * k)) 48 8 0) 0) []
    ystate := fieldAt bs 0xD0 4 % 4, yindex := BitVec.ofNat 16 (fieldAt bs 0xD2 2), ypc := alignPc (wordAt bs 0xD8)
    regs := (List.range 32).foldl (fun t k => if k = 0 then t else tset t k (wordAt bs (0x100 + 8 * k)) 0) []
    tviews := (List.range 16).foldl (fun t k => tset t k (BitVec.ofNat 64 (bitsOf (wordAt bs (0x200 + 8 * k)) 0 34)) 0) []
    aviews := (List.range 8).foldl (fun t k => tset t k (BitVec.ofNat 64 (bitsOf (wordAt bs (0x280 + 8 * k)) 0 9)) 0) []
    masks := (List.range 8).foldl
      (fun t k => if k = 0 then t else tset t k (BitVec.ofNat 2048 (fieldAt bs (0x400 + 256 * k) 256)) 0) []
    banks := (List.range 8).foldl
      (fun t k => tset t k ⟨BitVec.ofNat 8192 (fieldAt bs (0x4800 + 1024 * k) 1024), bankFmt (bitsOf flags (2 + 2 * k) 2), false⟩ {}) []
    toks := (List.range 12).foldl
      (fun t k =>
        let o := 0xE00 + 16 * k
        tset t (tokOrder.getD k 0) ⟨List.replicate (fieldAt bs o 1) none, BitVec.ofNat 32 (fieldAt bs (o + 4) 4),
          BitVec.ofNat 32 (fieldAt bs (o + 8) 4)⟩ {}) []
    parked := fieldAt bs 3 1 = 1 }

/-- The wait of the last ENG word of a queue that is not submitted yet, if its wait bit is set (R279). -/
def Queue.waitHold (q : Queue) : Hold :=
  match q.wordItems.getLast? with
  | none => .none
  | some i => if ((encode i.ins).headD 0).getLsbD 31 then .command i.seq.toNat else .none

/-- The group slot of a BAR whose point is still to be reached (R203). -/
def Queue.barPoint (q : Queue) : Option (BitVec 2) := q.items.findSome? fun i => match i.ins with | .bar k => some k | _ => none

/-- What a point of the queue that is still to be reached holds the front end for: the phase of a BAR, the reply of LAUNCH.BLOCK (R203,
R212). -/
def Queue.pointHold (q : Queue) : Option Hold :=
  q.items.findSome? fun i => match i.ins with | .bar _ => some .arriving | .launchBlock _ _ => some .pool | _ => none

/-- Everything that an area holds, but for poison (R355). A BAR or a LAUNCH.BLOCK whose point is still to be reached holds the front end
(R203, R212). -/
def readArea (x : Context) (bs : List Byte) (free : Nat) : Context :=
  let x := readRegs x bs
  let x := { x with
    qv := readQueue .v bs 0x1000 320 0x4000 0xF00 free, qm := readQueue .m bs 0x3800 64 0x4100 0xF40 free,
    ql := readQueue .l bs 0x2400 320 0x4200 0xF80 free, qe := readQueue .e bs 0x3C00 32 0x4300 0xFC0 free
    win := (List.range x.wsize).foldl
      (fun t g => tset t g ⟨BitVec.ofNat 2048 (fieldAt bs (0x8000 + 256 * g) 256),
        Fmt.ofCode (BitVec.ofNat 4 (fieldAt bs (0xC00 + g) 1)), false, false⟩ {}) [] }
  { x with marked := readMarked x bs, hold := x.ql.pointHold.getD x.qe.waitHold }

end Sys2Proof.Machine
end

