-- ==== Sys2Proof/Machine/Strands.lean ====
section
/-!
DEFINITION. Strands: EXIT and suspension (R38, R197 to R201), dispatch (R33, R185 to R191, R199, R355), balancing (R192),
pre-emption and the hardware save (R352, R353), time-out suspensions (R198) and debug resumption (R358).
-/
namespace Sys2Proof.Machine

/-! ### Draining (R38, R280) -/

/-- A command of the context's strand with a push, reply or wait bit has not completed, in an engine of any cluster (R280, R311). -/
def cmdsOut (s : State) (c : CtxLoc) : Bool :=
  let x := s.ctxAt c
  s.clus.any fun cl => cl.2.engines.any fun e => e.2.any fun k =>
    k.who = c && k.serial = x.serial && (k.wait || k.reply || fieldAt k.bytes 1 1 / 16 % 8 != 0)

/-- The queues of a context are empty. -/
def Context.emptyQueues (x : Context) : Bool :=
  x.qv.items.isEmpty && x.qm.items.isEmpty && x.ql.items.isEmpty && x.qe.items.isEmpty && x.lane.isEmpty

/-- The head of a queue waits on a pop, or there is none (R38). -/
def Context.waitsPop (x : Context) (g : Eng) : Bool :=
  match (x.queue g).items with
  | [] => true
  | i :: _ => !Instr.isPoint i.ins && (match i.phase with | .idle => true | _ => false) && !x.hasToks (popsOf g i.ins)

/-- A draining context has drained: `some true` where its words wait on pops that nothing can satisfy any more (R38). -/
def drained (s : State) (c : CtxLoc) : Option Bool :=
  let x := s.ctxAt c
  if !x.resident || x.halt.isSome || x.debug || x.parked || s.mgr.tripped then none
  else if x.emptyQueues then some false
  else if x.waitsPop .v && x.waitsPop .m && x.waitsPop .l && x.qe.items.isEmpty && x.lane.isEmpty &&
      (!cmdsOut s c || match x.drain with | .exit => true | _ => false) then some true
  else none

/-- EXIT_DRAIN_COMPLETE: the strand ends (R38, R204, R213). -/
def State.exitDone (s : State) (c : CtxLoc) : State :=
  match (s.ctxAt c).drain, drained s c with
  | .exit, some u => (s.releaseDrain c .device).endStrand c u none
  | _, _ => s

/-- EXIT_DRAIN_COMPLETE (R38). -/
def execExitDrainComplete (c : CtxLoc) (s : State) : Out := atCtx c s fun s => s.exitDone c

/-! ### Write-back (R187, R197, R201, R353, R434) -/

/-- The descriptor under which a Moss ring is tested: one of the strand's own, or else one with a single entry, so that only an empty
ring is known to have a free entry (R201, log 42). -/
def ringOf (rings : Tbl Word) (off : Nat) : Word :=
  ((rings.find? fun e => ringKind e.2 = 1 && ringOff e.2 = off).map Prod.snd).getD (BitVec.ofNat 64 (2 ^ 62 + off))

/-- The condition of a waiting record holds; `rings` are the descriptors of the strand that registers it. A phase that is waited out
has completed where the present phase lies 1 to 2^19 beyond its low 20 bits (R186, R187, R203). -/
def condHolds (s : State) (w : Waiter) (rings : Tbl Word) : Bool :=
  match w.cond with
  | .counter pcl n thr => thr.toNat ≤ ((s.cluAt pcl).counter n).val.toNat
  | .group launch g ph =>
    match tfind (s.partAt w.part).launches launch with
    | none => true
    | some l =>
      match groupEntry s w.pcl w.part l g with
      | .error _ => false
      | .ok pa =>
        let d := ((groupAt s pa).phase.setWidth 20 - ph : BitVec 20).toNat
        1 ≤ d && d ≤ 2 ^ 19
  | .ring pcl off full =>
    let d := ringOf rings off
    match ringEnds s ⟨pcl, 0, 0⟩ d with
    | .error _ => true
    | .ok (h, t, _, _) => if full then t - h < ringCap d else h < t
  | .pool depth => (poolEntry (s.partAt w.part) depth).isSome

/-- A record enters WAITING, its condition registered and tested in one action (R187). -/
def State.register (s : State) (w : Waiter) (rings : Tbl Word) : State :=
  let t := { s with waiters := s.waiters ++ [w] }
  if condHolds s w rings then t.wake w else t

/-- The condition of a wait cause (R186). -/
def condOf (pcl launch : Nat) (cause thr : BitVec 32) : Cond :=
  let w := cause.setWidth 64
  match bitsOf w 28 4 with
  | 1 => let (k, n) := eventOf pcl (bitsOf w 0 16); .counter k n (thr.setWidth 64)
  | 2 => .group launch (bitsOf w 0 8) (BitVec.ofNat 20 (bitsOf w 8 20))
  | 3 => .ring pcl (bitsOf w 6 20 * 64) (bitOf w 27)
  | _ => .pool (bitsOf w 0 3)

/-- The release of a write-back could be applied at once (R253, R256). -/
def State.canWriteBack (s : State) (c : CtxLoc) : Bool :=
  let s := s.releaseDrain c .device
  s.mayWrite (dieOf c.pcl) (s.ctxAt c).obs

/-- Writes a context's record, as a release at device scope, applied after its dependency set (R253, R255). A record that cannot be
written ends its strand with error (R434). -/
def State.writeRecord (s : State) (c : CtxLoc) (pc : Word) (state flags count : Nat) (cause : Nat) : State × Bool :=
  let s := s.releaseDrain c .device
  let x := s.ctxAt c
  let (st, s) := s.stampWrite (dieOf c.pcl) x.obs
  let (t, w) := (s.flush st).vstore c.pcl x.part st x.recaddr.toNat (x.record pc state flags count cause)
  match w with
  | none => (t, true)
  | some e => ((t.onCtx c Context.dropWords).endStrand c false (some (e.1, x.recaddr)), false)

/-- A strand is written back in a ready state and leaves its context. -/
def State.backReady (s : State) (c : CtxLoc) (pc : Word) (state flags : Nat) : State :=
  let x := s.ctxAt c
  let (e, s) := s.takeExpiry x.part x.launchid.toNat x.strandid.toNat
  let (s, ok) := s.writeRecord c pc state flags 0 (causeWith e)
  if ok then
    (s.idleCtx c).enterReady c.pcl x.part x.launchid.toNat x.strandid.toNat x.recaddr x.base none
  else s

/-- A strand is written back WAITING and leaves its context; its condition is registered. -/
def State.backWaiting (s : State) (c : CtxLoc) (pc : Word) (flags : Nat) (cause thr : BitVec 32)
    (rd : Option (Reg × Option (Nat × Nat))) : State :=
  let x := s.ctxAt c
  let (s, ok) := s.writeRecord c pc 5 flags thr.toNat cause.toNat
  if ok then
    (s.idleCtx c).register
      ⟨x.part, x.launchid.toNat, x.strandid.toNat, x.recaddr, c.pcl, flags / 16 % 2 = 1, condOf c.pcl x.launchid.toNat cause thr, rd⟩
      x.rings
  else s

/-- The members of a triple: the contexts of its sub-core. -/
def members (c : CtxLoc) : List CtxLoc := [⟨c.pcl, c.sub, 0⟩, ⟨c.pcl, c.sub, 1⟩, ⟨c.pcl, c.sub, 2⟩]

/-- A member of a triple that is ready for the write-back of all three, or a context without a member (R189). -/
def memberReady (s : State) (c : CtxLoc) : Bool :=
  let x := s.ctxAt c
  !x.resident || !x.triple ||
  match x.drain with
  | .yielded => (drained s c).isSome && !cmdsOut s c && x.replies.isEmpty && s.canWriteBack c
  | .saved _ _ _ _ _ => !s.savesOut c && s.canWriteBack c
  | _ => false

/-- The wait cause that a save of a strand whose BAR holds its front end puts into the record, so that its restore goes
on waiting (log 21). -/
def holdCause (x : Context) : BitVec 32 :=
  match x.hold with
  | .phase g ph => BitVec.ofNat 32 (2 * 2 ^ 28 + ph.toNat % 2 ^ 20 * 256 + g)
  | _ => 0

/-- Writes the record of a saved strand: a pending expiry is its wait cause, unless a BAR's wait is (R231, R353, log 21). -/
def State.savedRecord (s : State) (c : CtxLoc) (forced : Bool) (pc : Word) : State × Bool :=
  let x := s.ctxAt c
  let (e, s) := if holdCause x = 0 then s.takeExpiry x.part x.launchid.toNat x.strandid.toNat else (none, s)
  s.writeRecord c pc 3 (if forced then 48 else 16) 0 (causeWith e + (holdCause x).toNat)

/-- Writes the record of a triple's member, at its yield or its save; the context becomes idle. -/
def State.backMember (s : State) (c : CtxLoc) : State :=
  let x := s.ctxAt c
  if !x.resident || !x.triple then s
  else
    let (s, ok) := match x.drain with
      | .saved forced _ _ _ _ => s.savedRecord c forced x.pc
      | _ =>
        let (e, s) := s.takeExpiry x.part x.launchid.toNat x.strandid.toNat
        s.writeRecord c x.ypc 1 (if drained s c = some true then 64 else 0) 0 (causeWith e)
    if ok then s.idleCtx c else s

/-- The base priority of a triple: that of its loader's record (R188, R189). -/
def triplePrio (s : State) (c : CtxLoc) (p : Nat) (addr : Word) : BitVec 3 :=
  match vbytes s c.pcl p addr.toNat 64 with
  | .ok bs => BitVec.ofNat 3 (fieldAt bs 0x0E 1)
  | .error _ => (s.ctxAt c).base

/-- All three members of a triple are written back, and the triple is requeued under its loader's record (R189). -/
def State.backTriple (s : State) (c : CtxLoc) : State :=
  if (members c).all (memberReady s) then
    let x := s.ctxAt c
    let s := (members c).foldl (fun s m => s.backMember m) s
    let k := x.strandid.toNat % 3
    let addr := x.recaddr - BitVec.ofNat 64 (64 * k)
    s.enterReady c.pcl x.part x.launchid.toNat (x.strandid.toNat - k) addr (triplePrio s c x.part addr) none
  else s

/-- RECORD_WRITE_BACK: a drained yielding or suspending strand is written back (R189, R197, R201, R280). -/
def State.writeBack (s : State) (c : CtxLoc) : State :=
  let x := s.ctxAt c
  if x.triple && (match x.drain with | .yielded | .saved _ _ _ _ _ => true | _ => false) then s.backTriple c
  else
    match drained s c with
    | none => s
    | some u =>
      let fl := if u then 64 else 0
      if cmdsOut s c || !x.replies.isEmpty || !s.canWriteBack c then s
      else
        match x.drain with
        | .yielded => s.backReady c x.ypc 1 fl
        | .suspended rd cause thr pc =>
          let src := if bitsOf (cause.setWidth 64) 28 4 = 1 then some (eventOf c.pcl (bitsOf (cause.setWidth 64) 0 16)) else none
          s.backWaiting c pc fl cause thr (some (rd, src))
        | _ => s

/-- RECORD_WRITE_BACK (R197, R201). -/
def execRecordWriteBack (c : CtxLoc) (s : State) : Out := atCtx c s fun s => s.writeBack c

/-! ### The hardware save (R353) -/

/-- The record of a saved strand is written back, and the strand leaves its context: WAITING after a time-out or a pool wait, with the
phase that its BAR waits for by now, else ready (R198, R212, R353). -/
def State.backSaved (s : State) (c : CtxLoc) (forced waiting : Bool) (cause : BitVec 32) (pc : Word) (thr : BitVec 32) : State :=
  let x := s.ctxAt c
  let cause := if cause = 0 then holdCause x else cause
  if waiting && cause != 0 then s.backWaiting c pc 16 cause thr none
  else
    let (s, ok) := s.savedRecord c forced pc
    if ok then (s.idleCtx c).enterReady c.pcl x.part x.launchid.toNat x.strandid.toNat x.recaddr x.base none else s

/-- A save can begin: the strand's commands have completed, no granule is engine-owned, and what its words wait for from outside has
come: the reply to a BAR's arrival or to a LAUNCH.BLOCK's request that is made; one whose point is still to be reached is saved with its
point (R280, R353). -/
def State.canSave (s : State) (c : CtxLoc) : Bool :=
  let x := s.ctxAt c
  !cmdsOut s c && !(x.win.any fun e => e.2.owner) && x.replies.isEmpty &&
  !(match x.hold with | .arriving | .pool => x.ql.pointHold.isNone | _ => false) && x.resident && !x.debug && !s.mgr.tripped

/-- The writes of a save leave the context, and are applied one by one (R353, R354). -/
def State.beginStream (s : State) (c : CtxLoc) : State :=
  let s := match (s.ctxAt c).drain with | .saving _ _ _ _ _ _ => s.deliverHeld c | _ => s
  let x := s.ctxAt c
  match x.drain with
  | .saving reason forced waiting cause pc thr =>
    if !s.canSave c then s
    else
      let at_ := if waiting then pc else x.pc
      let (s, w) := s.streamSave c reason at_
      match w with
      | some e => s.endError c e.1 (BitVec.ofNat 64 e.2)
      | none => s.onCtx c fun x => { x with drain := .saved forced waiting cause at_ thr }
  | _ => s

/-- HARDWARE_SAVE: the cut is made and the strand's commands have completed: the state goes to the save area, and, once every write of
it has been applied, the record is written back (R353, R354, R198, R212). -/
def State.hardwareSave (s : State) (c : CtxLoc) : State :=
  let s := match (s.ctxAt c).drain with | .saving _ _ _ _ _ _ => s.deliverHeld c | _ => s
  let x := s.ctxAt c
  match x.drain with
  | .saving reason forced waiting cause pc thr =>
    if !s.canSave c || !s.canWriteBack c then s
    else
      let at_ := if waiting then pc else x.pc
      let (s, w) := s.writeSave c reason at_
      match w with
      | some e => s.endError c e.1 (BitVec.ofNat 64 e.2)
      | none =>
        if x.triple then s.onCtx c fun x => { x with drain := .saved forced waiting cause at_ thr }
        else s.backSaved c forced waiting cause at_ thr
  | .saved forced waiting cause pc thr =>
    if x.triple || s.savesOut c || !s.canWriteBack c || s.mgr.tripped then s else s.backSaved c forced waiting cause pc thr
  | _ => s

/-- HARDWARE_SAVE (R353). -/
def execHardwareSave (c : CtxLoc) (s : State) : Out := atCtx c s fun s => s.hardwareSave c

/-- PREEMPTION_DEADLINE: the countdown, which runs in unfrozen cycles, reaches zero and the forced save begins (R352, R353). -/
def execPreemptionDeadline (c : CtxLoc) (s : State) : Out :=
  atCtx c s fun s =>
    let x := s.ctxAt c
    if x.preq && x.counting && x.pe && (match x.drain with | .none => true | _ => false) && (x.hold != .pool || x.ql.pointHold.isSome) && !s.frozen c.pcl c.sub && !s.mgr.tripped then
      s.beginSave c 0x14 true false 0 0 0
    else s

/-- What a time-out suspension of the word at issue writes: pc of the record, wait cause, threshold (R198). -/
def timeoutOf (s : State) (c : CtxLoc) : Option (Word × BitVec 32 × BitVec 32) :=
  let x := s.ctxAt c
  match x.hold with
  | .phase _ _ => some (x.pc, holdCause x, 0)
  -- the phase is known when the arrival has been applied; a BAR that has not arrived does not wait for a phase yet
  | .arriving => if x.ql.barPoint.isSome then none else some (x.pc, 0, 0)
  | .none =>
    if (tfind x.waits 4).isNone then none
    else
      match fetchWord s c x.pc with
      | .ok (.evwait _ a b) =>
        let (k, n) := eventOf c.pcl (x.rg a).toNat
        if 2 ^ 32 ≤ (x.rg b).toNat || x.evreg.any (fun r => r.seen.isSome) then none
        else some (x.pc, BitVec.ofNat 32 (2 ^ 28 + (k + 1) * 1024 + n), (x.rg b).setWidth 32)
      | .ok (.barwait k a) =>
        some (x.pc + 4, BitVec.ofNat 32 (2 * 2 ^ 28 + (x.rg a).toNat % 2 ^ 20 * 256 + getAt x.grp (8 * k.toNat) 8), 0)
      | .ok (.rpsh n _) =>
        let d := tget x.rings n.toNat 0
        if ringKind d = 1 then some (x.pc, BitVec.ofNat 32 (3 * 2 ^ 28 + 2 ^ 27 + ringOff d), 0) else none
      | .ok (.rpop _ n) =>
        let d := tget x.rings n.toNat 0
        if ringKind d = 1 then some (x.pc, BitVec.ofNat 32 (3 * 2 ^ 28 + ringOff d), 0) else none
      | _ => none
  | _ => none

/-- TIMEOUT_SUSPENSION: a wait has been held for `evspin` cycles (R198). -/
def execTimeoutSuspension (c : CtxLoc) (s : State) : Out :=
  atCtx c s fun s =>
    let x := s.ctxAt c
    if x.evspin = 0xFFFFFFFF || !x.pe || x.intrap || x.triple || !x.resident || s.frozen c.pcl c.sub || s.mgr.tripped ||
        !(match x.drain with | .none => true | _ => false) then s
    else
      match timeoutOf s c with
      | none => s
      | some (pc, cause, thr) => s.beginSave c 0 false true cause pc thr

/-! ### Dispatch -/

/-- Effective priority of a ready record (R190). -/
def effOf (r : Ready) : Nat := min 7 (r.prio.toNat + r.age.toNat / 64)

/-- The record of a list that became ready first. -/
def oldest : List Ready → Option Ready
  | [] => none
  | r :: rest =>
    match oldest rest with
    | none => some r
    | some q => if q.time < r.time then some q else some r

/-- The heads of the ready queues. -/
def readyHeads (cl : Cluster) : List Ready := (List.range 8).filterMap fun p => oldest (cl.ready.filter fun r => r.prio.toNat = p)

/-- A context that holds no strand and no engine-owned granule of an earlier one. Placement waits for such a granule, whose window is not
free, though R38 calls the context idle and the balancer's count takes it as idle (R190, R192; DESIGN CHOICE, log 22). -/
def isIdle (x : Context) : Bool := !x.resident && !x.win.any fun e => e.2.owner

/-- The bank group of the ring area of a triple, while a member is resident: it follows the three windows (R188). -/
def ringGroup (s : State) (pcl sub : Nat) : Option Nat :=
  (List.range 3).findSome? fun k =>
    let x := s.ctxAt ⟨pcl, sub, k⟩
    if x.resident && x.ringArea then (s.launchOf x).map fun l => l.tunits.foldl (· + ·) 0 else none

/-- Bank groups of a sub-core that are in use: windows, and a triple's ring area (R188). -/
def groupsUsed (s : State) (pcl sub : Nat) : List Nat :=
  (ringGroup s pcl sub).toList ++ (List.range 3).flatMap fun k =>
    let x := s.ctxAt ⟨pcl, sub, k⟩
    if isIdle x then [] else (List.range (x.wsize / 48)).map (x.wbase / 48 + ·)

/-- The lowest base, in bank groups, that leaves `w` groups free (R188). -/
def freeBase (used : List Nat) (w : Nat) : Option Nat :=
  (List.range (9 - w)).find? fun b => (List.range w).all fun k => !used.contains (b + k)

/-- The `n` lowest free slots of a sub-core (R188). -/
def lowSlots (s : State) (pcl sub n : Nat) : Option (BitVec 8) :=
  let used := (List.range 3).foldl (fun m k => let x := s.ctxAt ⟨pcl, sub, k⟩; if x.resident then m ||| x.slots else m) (0 : BitVec 8)
  let free := (List.range 8).filter fun k => !used.getLsbD k
  if free.length < n then none else some ((free.take n).foldl (fun m k => m ||| BitVec.ofNat 8 (2 ^ k)) 0)

/-- Where a strand goes: context, window base and size, slots. -/
structure Seat where
  c     : CtxLoc
  base  : Nat
  size  : Nat
  slots : BitVec 8
  deriving DecidableEq, Repr

/-- A place for a plain strand in a sub-core. -/
def seatPlain (s : State) (pcl w n sub : Nat) : Option (List Seat) :=
  match (List.range 3).find? fun k => isIdle (s.ctxAt ⟨pcl, sub, k⟩) with
  | none => none
  | some k =>
    match freeBase (groupsUsed s pcl sub) w, lowSlots s pcl sub n with
    | some b, some m => some [⟨⟨pcl, sub, k⟩, 48 * b, 48 * w, m⟩]
    | _, _ => none

/-- Slots that the record at an address needs: a hardware-saved one as many as were saved, else as many as its launch gives (R355). -/
def slotsNeeded (s : State) (pcl p : Nat) (addr : Word) (n : Nat) : Nat :=
  match vbytes s pcl p addr.toNat 64 with
  | .error _ => n
  | .ok bs =>
    if fieldAt bs 0x0F 1 != 3 then n
    else
      match vbytes s pcl p (fieldAt bs 0x10 8) 8 with
      | .error _ => n
      | .ok a => if 1 ≤ fieldAt a 6 1 && fieldAt a 6 1 ≤ 8 then fieldAt a 6 1 else n

/-- The `n` lowest slots of a mask. -/
def lowBits (m : BitVec 8) (n : Nat) : BitVec 8 :=
  (((List.range 8).filter fun k => m.getLsbD k).take n).foldl (fun v k => v ||| BitVec.ofNat 8 (2 ^ k)) 0

/-- The places of a triple in a sub-core without resident contexts; a member that was saved with fewer slots than its role's mask has takes
as many of the mask's, the lowest (R188, R355, log 22). -/
def seatTriple (s : State) (pcl : Nat) (r : Ready) (l : Launch) (sub : Nat) : Option (List Seat) :=
  if (List.range 3).all fun k => isIdle (s.ctxAt ⟨pcl, sub, k⟩) then
    let u := fun k => l.tunits.getD k 0
    let m := fun k =>
      let all := l.tmasks.getD k 0
      lowBits all (slotsNeeded s pcl r.part (r.addr + BitVec.ofNat 64 (64 * k)) (slotCount all))
    some [⟨⟨pcl, sub, 0⟩, 0, 48 * u 0, m 0⟩, ⟨⟨pcl, sub, 1⟩, 48 * u 0, 48 * u 1, m 1⟩,
          ⟨⟨pcl, sub, 2⟩, 48 * (u 0 + u 1), 48 * u 2, m 2⟩]
  else none

/-- The first place of a cluster that meets a record's needs; among several the lowest sub-core and context (log 22). -/
def findSeats (s : State) (pcl : Nat) (r : Ready) : Option (List Seat) :=
  match tfind (s.partAt r.part).launches r.launch with
  | none => some []
  | some l =>
    if l.triple then (List.range 128).findSome? (seatTriple s pcl r l)
    else
      let n := slotsNeeded s pcl r.part r.addr l.slots
      (List.range 128).findSome? (seatPlain s pcl l.units n)

/-- The head that is dispatched next: placeable, of the highest effective priority, ready first (R190). -/
def bestHead (s : State) (pcl : Nat) : Option (Ready × List Seat) :=
  ((readyHeads (s.cluAt pcl)).filterMap fun r => (findSeats s pcl r).map fun p => (r, p)).foldl
    (fun b a =>
      match b with
      | none => some a
      | some b =>
        if effOf b.1 < effOf a.1 || (effOf a.1 = effOf b.1 && a.1.time < b.1.time) then some a else some b) none

/-- A wait cause with a reserved kind, or with bits that its kind has zero (R186). -/
def causeBad (w : Nat) : Bool :=
  match w / 2 ^ 28 with
  | 0 => w != 0
  | 1 => w / 2 ^ 16 % 2 ^ 12 != 0
  | 2 => false
  | 3 => w / 2 ^ 26 % 2 != 0 || w % 64 != 0
  | 4 => w / 2 ^ 20 % 2 ^ 8 != 0 || 40 ≤ w / 2 ^ 14 % 64
  | 5 => w / 8 % 2 ^ 25 != 0
  | _ => true

/-- A record that cannot be dispatched (R185); the states 4 to 6, which no record in a ready queue has, are refused with it
(log 42). -/
def recordBad (bs : List Byte) : Bool :=
  4 ≤ fieldAt bs 0x0F 1 || fieldAt bs 0x0B 1 != 0 || 8 ≤ fieldAt bs 0x0E 1 || 3 < fieldAt bs 0x1A 1 ||
  128 ≤ fieldAt bs 0x1B 1 || causeBad (fieldAt bs 0x24 4)

/-- The context of a dispatched record before its first word (R10 to R12, R33, R193 to R195, R347). `yieldtab` is the launch's, also where
a supervisor had written it before a yield: R199 has it survive, but the record has no place for it, and R195 gives it this value at
dispatch (DESIGN CHOICE, log 42). -/
def freshContext (s : State) (old : Context) (seat : Seat) (r : Ready) (l : Launch) (addr : Word) (bs : List Byte) : Context where
  resident := true
  part := r.part
  serial := old.serial + 1
  pc := alignPc l.entry
  regs := [0x28, 0x30, 0x38].foldl (fun t o => tset t (o / 8 - 4) (wordAt bs o) 0) []
  stat := BitVec.ofNat 64 (4 + fieldAt bs 0x0E 1 % 8 * 256)
  tvec := (s.partAt r.part).tvec
  strandid := BitVec.ofNat 24 (fieldAt bs 0x08 4)
  launchid := BitVec.ofNat 16 r.launch
  grp := BitVec.ofNat 36 (fieldAt bs 0x1B 1 % 16 * 2 ^ 32 + fieldAt bs 0x20 4)
  age := r.age
  eff := BitVec.ofNat 3 (effOf r)
  yieldtab := BitVec.ofNat 64 (l.ytabN * 2 ^ 48 + l.ytab.toNat % 2 ^ 48)
  savearea := putBits (putBits (wordAt bs 0x10) 0 8 0) 48 16 0
  wbase := seat.base
  wsize := seat.size
  slots := seat.slots
  role := fieldAt bs 0x1A 1
  triple := l.triple
  ringArea := l.triple && l.ring
  depth := l.depth
  text := l.text
  recaddr := addr
  since := (s.cluAt seat.c.pcl).dispatches
  obs := match translate s seat.c.pcl r.part addr.toNat .load with
    | .ok pa => unitStamp s [pa / 64]
    | .error _ => {}

/-- Copies the launch's register image into a window (R33, R65); the cause and address of a failing read. Of a tag byte above 0x0F
the low 4 bits are the format code (DESIGN CHOICE, log 42). -/
def copyImage (s : State) (pcl : Nat) (l : Launch) (x : Context) : Nat → Nat → Except (BitVec 8 × Nat) Context
  | 0, _ => .ok x
  | n + 1, k =>
    match vbytes s pcl x.part (l.image.toNat + 264 * k) 264 with
    | .error e => .error e
    | .ok bs =>
      copyImage s pcl l (x.setGran (fieldAt bs 0 2)
        ⟨BitVec.ofNat 2048 (fieldAt bs 8 256), Fmt.ofCode (BitVec.ofNat 4 (fieldAt bs 2 1)), false, false⟩) n (k + 1)

/-- The value that a clean resume gives rd, with the stamp of the counter that supplied it (R201, R252). -/
def resumeValue (s : State) : Option (Nat × Nat) → Word × Stamp
  | some (pcl, n) => (((s.cluAt pcl).counter n).val, ((s.cluAt pcl).counter n).stamp)
  | none => (0, {})

/-- The Moss-expiry trap of a wait cause of kind 4, before the first word (R186). -/
def State.expiryTrap (s : State) (c : CtxLoc) (cause : Nat) : State :=
  if cause / 2 ^ 28 = 4 then
    let x := s.ctxAt c
    let n := cause % 2 ^ 14
    let pcl := cause / 2 ^ 14 % 64
    if x.intrap then s.pendExpiry x.part ⟨x.launchid.toNat, x.strandid.toNat, n, pcl⟩
    else s.raise c 0x0B (expiryTval n pcl) x.pc none
  else s

/-- A record that is not dispatched becomes EXITED, and its strand has ended with error (R185, R387, R434). -/
def State.markExited (s : State) (pcl p launch strand : Nat) (addr : Word) : State :=
  match s.vstore pcl p {} (addr.toNat + 0x0F) (toLE 1 6) with
  | (s, none) => s.countEnd p launch (some (plainReport 0 0 strand))
  | (s, some e) => s.recordFailed p launch strand e.1 addr

/-- A dispatched record becomes RESIDENT, and a wait cause of kind 4 returns to 0 (R185, R186). -/
def seatedBytes (bs : List Byte) : List Byte :=
  let bs := patch bs 0x0F (toLE 1 4)
  if fieldAt bs 0x24 4 / 2 ^ 28 = 4 then patch bs 0x24 (toLE 4 0) else bs

/-- Puts a strand into the context of its seat, by the state of its record (R33, R199, R201, R355). -/
def State.seatStrand (s : State) (c : CtxLoc) (r : Ready) (l : Launch) (x : Context) (bs : List Byte) : State :=
  let cause := fieldAt bs 0x24 4
  match fieldAt bs 0x0F 1 with
  | 0 =>
    let r := copyImage s c.pcl l x l.imageN 0
    match r with
    | .error e => ((s.noteRead c.pcl x.part r).setCtx c x).endStrand c false (some (e.1, BitVec.ofNat 64 e.2))
    | .ok y => (s.setCtx c y).expiryTrap c cause
  | 1 =>
    let idx := fieldAt bs 0x18 2
    let e := yieldEntry s c.pcl r.part x.yieldtab idx
    match e with
    | .error f => ((s.noteRead c.pcl r.part e).setCtx c x).endStrand c false (some (f.1, BitVec.ofNat 64 f.2))
    | .ok none => (s.setCtx c x).endStrand c false (some (0x18, BitVec.ofNat 64 idx))
    | .ok (some (_, restore)) =>
      (s.setCtx c { x with pc := alignPc (l.text + BitVec.ofNat 64 restore), ystate := 2, yindex := BitVec.ofNat 16 idx,
                           ypc := alignPc (wordAt bs 0) }).expiryTrap c cause
  | 2 =>
    let x := { x with pc := alignPc (wordAt bs 0) }
    let x := match r.rd with
      | some (rd, src) => (x.setRg rd (resumeValue s src).1).observe (resumeValue s src).2
      | none => x
    (s.setCtx c x).expiryTrap c cause
  | _ => s.setCtx c { x with pc := alignPc (wordAt bs 0), drain := .restoring (BitVec.ofNat 32 cause) }

/-- Dispatches one record to its seat, if its strand can be dispatched, as the flag says (R33, R185, R186, R199, R201, R355). A poisoned
record is told to the controller (R387). -/
def State.seatRecord (s : State) (r : Ready) (l : Launch) (seat : Seat) (addr : Word) (strand : Nat) : State × Bool :=
  let c := seat.c
  let got := vbytes s c.pcl r.part addr.toNat 64
  if l.unmade.contains strand then (s, false)
  else match got with
  | .error e =>
    (if e.1 = 0x0D then
      { s with mgr := { s.mgr with log := s.mgr.log ++ [(3876, strand, r.part)] } }.markExited c.pcl r.part r.launch strand addr
    else (s.noteRead c.pcl r.part got).recordFailed r.part r.launch strand e.1 addr, false)
  | .ok bs =>
    if l.triple && fieldAt bs 0x0F 1 = 6 then (s, false)
    else if recordBad bs then (s.markExited c.pcl r.part r.launch strand addr, false)
    else
      let x := freshContext s (s.ctxAt c) seat r l addr bs
      match s.vstore c.pcl r.part {} addr.toNat (seatedBytes bs) with
      | (s, some e) => (s.recordFailed r.part r.launch strand e.1 addr, false)
      | (s, none) => (s.seatStrand c r l x bs, true)

/-- Dispatches the records of a strand or of a triple to their seats; the flag says whether one was dispatched. -/
def State.seatAll (r : Ready) (l : Launch) : List (Seat × Nat) → State × Bool → State × Bool
  | [], a => a
  | (seat, k) :: rest, a =>
    let b := a.1.seatRecord r l seat (r.addr + BitVec.ofNat 64 (64 * k)) (r.strand + k)
    State.seatAll r l rest (b.1, a.2 || b.2)

/-- The cluster counts a dispatch, and its other ready records age (R190). -/
def Cluster.dispatched (cl : Cluster) : Cluster :=
  { cl with dispatches := cl.dispatches + 1
            ready := cl.ready.map fun q => { q with age := if q.age = BitVec.allOnes 32 then q.age else q.age + 1 } }

/-- DISPATCH: the best placeable head goes to its seat; the other ready records age, also where the dispatched strand ends at once (R188 to
R191, R199). No strand runs before the last stage of boot (R429). -/
def State.dispatch (s : State) (pcl : Nat) : State :=
  match bestHead s pcl with
  | none => s
  | some (r, seats) =>
    if s.mgr.tripped || s.mgr.stage != 6 || !s.mayAct r.part capDispatch pcl (r.launch * 2 ^ 24 + r.strand) then s
    else
      let s := (s.acted r.part capDispatch pcl (r.launch * 2 ^ 24 + r.strand)).onClu pcl fun cl =>
        { cl with ready := cl.ready.erase r }
      let s := s.sampleNat pcl 0x0A (s.cluAt pcl).ready.length
      match tfind (s.partAt r.part).launches r.launch with
      | none => s
      | some l =>
        let (s, did) := State.seatAll r l (seats.zip (List.range seats.length)) (s, false)
        if did then s.onClu pcl Cluster.dispatched else s

/-- DISPATCH (R190). -/
def execDispatch (pcl : Nat) (s : State) : Out := atClu pcl s fun s => s.dispatch pcl

/-- The phase of a group whose low 20 bits a wait cause gives, not before the present one (R186). -/
def wholePhase (s : State) (c : CtxLoc) (x : Context) (g low : Nat) : BitVec 32 :=
  match s.launchOf x with
  | none => BitVec.ofNat 32 low
  | some l =>
    match groupEntry s c.pcl x.part l g with
    | .error _ => BitVec.ofNat 32 low
    | .ok pa =>
      let now := (groupAt s pa).phase
      now + ((BitVec.ofNat 20 low - now.setWidth 20 : BitVec 20).setWidth 32)

/-- HARDWARE_RESTORE: the area is read, every item set, and the engines resume; the step at the head of the M queue is checked (R172, R355).
A BAR's wait goes on while its phase is not complete; one that is complete the strand observes (R252, log 21). -/
def State.hardwareRestore (s : State) (c : CtxLoc) : State :=
  let x := s.ctxAt c
  match x.drain with
  | .restoring cause =>
    if s.mgr.tripped || x.debug then s
    else
      let got := vget s c.pcl x.part x.savearea.toNat (0x8000 + 256 * x.wsize)
      match got with
      | .error e => (s.noteRead c.pcl x.part got).endError c e.1 (BitVec.ofNat 64 e.2)
      | .ok (bs, _) =>
        if !areaOk x bs then s.endStrand c false (some (0, 0))
        else
          let spoiled := fun (o n : Nat) => match vget s c.pcl x.part (x.savearea.toNat + o) n with
            | .ok (_, b) => b
            | .error _ => false
          let bad := fun (o : Nat) => spoiled o 256
          let y := readArea x bs s.free
          let y := ((List.range x.wsize).filter fun g => bad (0x8000 + 256 * g)).foldl
            (fun y g => y.setGran g { y.gran g with poison := true }) y
          let y := { y with mbad := (List.range 8).foldl (fun m k => if k != 0 && bad (0x400 + 256 * k) then putAt m k 1 1 else m) 0 }
          let y := ((List.range 8).filter fun k => spoiled (0x4800 + 1024 * k) 1024).foldl
            (fun y k => y.setBank k { y.bank k with bad := true }) y
          let w := cause.setWidth 64
          let waiter : Waiter := ⟨x.part, x.launchid.toNat, x.strandid.toNat, x.recaddr, c.pcl, true,
            condOf c.pcl x.launchid.toNat cause 0, none⟩
          let ended := bitsOf w 28 4 != 2 || condHolds s waiter []
          let hold : Hold := if ended then y.hold else .phase (bitsOf w 0 8) (wholePhase s c x (bitsOf w 0 8) (bitsOf w 8 20))
          let y := if bitsOf w 28 4 = 2 && ended then y.observe (condStamp s waiter) else y
          let y := match hold with
            | .phase g _ => y.waitMark 4 wGroup (BitVec.ofNat 64 g)
            | .pool => y.waitMark 4 wPool 0
            | .arriving => y.waitMark 4 wGroup (y.ql.barPoint.elim 0 fun k => BitVec.ofNat 64 (getAt y.grp (8 * k.toNat) 8))
            | _ => y
          let s := { s.setCtx c { y with drain := .none, counting := y.counting && y.ystate != 1, hold := hold } with free := s.free + 16 }
          checkHead c (s.expiryTrap c cause.toNat)
  | _ => s

/-- HARDWARE_RESTORE (R355). -/
def execHardwareRestore (c : CtxLoc) (s : State) : Out := atCtx c s fun s => s.hardwareRestore c

/-! ### Balancing and pre-emption -/

/-- Idle contexts of a cluster. -/
def idleCount (s : State) (pcl : Nat) : Nat := 384 - (s.contexts.filter fun e => e.1.pcl = pcl && e.2.resident).length

/-- The cluster of a list with the greatest measure; the lowest number among equals. -/
def most (f : Nat → Nat) : List Nat → Option Nat
  | [] => none
  | c :: r =>
    match most f r with
    | none => some c
    | some d => if f c < f d then some d else some c

/-- The migration of a partition in a balancing period: source, destination, count (R192). -/
def migration (s : State) (p : Nat) : Option (Nat × Nat × Nat) :=
  let cs := (s.partAt p).list
  let ready := fun c => (s.cluAt c).ready.length
  match most ready (cs.filter fun c => idleCount s c = 0), most (idleCount s) cs with
  | some a, some b =>
    let n := min (min ((ready a - ready b) / 2) (idleCount s b)) 64
    if n = 0 then none else some (a, b, n)
  | _, _ => none

/-- BALANCING_PERIOD: one migration command for each partition that needs one (R192). -/
def execBalancingPeriod (s : State) : Out :=
  .next ((formedParts s).foldl
    (fun t p => match migration s p with
      | none => t
      | some m =>
        let code := (m.1 * 40 + m.2.1) * 128 + m.2.2
        if t.mgr.tripped || !t.mayAct p capBalance p code then t
        else { t.acted p capBalance p code with migrations := t.migrations ++ [m] }) s)

/-- The `n` oldest ready records of a cluster. -/
def oldestN : Nat → List Ready → List Ready
  | 0, _ => []
  | n + 1, rs =>
    match oldest rs with
    | none => []
    | some r => r :: oldestN n (rs.erase r)

/-- MIGRATION_COMMAND: command `k` under way moves the oldest records, with their aging counts and ready times (R191,
R192). -/
def execMigrationCommand (k : Nat) (s : State) : Out :=
  match s.migrations[k]? with
  | none => .next s
  | some m =>
    let moved := oldestN m.2.2 (s.cluAt m.1).ready
    let s := { s with migrations := s.migrations.erase m }
    let s := s.onClu m.1 fun cl => { cl with ready := cl.ready.filter fun r => !moved.contains r }
    .next (s.onClu m.2.1 fun cl => { cl with ready := cl.ready ++ moved })

/-- Raises `preq` in a strand, and the countdown of its deadline with it unless it is saving or at a suspension point (R195, R200,
R352). -/
def Context.request (x : Context) : Context :=
  if x.resident && !x.preq then
    { x with preq := true, counting := x.ystate != 1 && (match x.drain with | .none | .restoring _ => true | _ => false) }
  else x

/-- Raises `preq` in a strand, and in all three of a triple (R189). -/
def State.request (s : State) (c : CtxLoc) : State :=
  if (s.ctxAt c).triple then
    ((members c).filter fun m => (s.ctxAt m).triple).foldl (fun s m => s.onCtx m Context.request) s
  else s.onCtx c Context.request

/-- The resident strand of a cluster with the lowest effective priority, dispatched earliest (R352). -/
def victim (s : State) (pcl : Nat) : Option CtxLoc :=
  ((s.contexts.filter fun e => e.1.pcl = pcl && e.2.resident).foldl
    (fun (b : Option (CtxLoc × Context)) e =>
      match b with
      | none => some e
      | some b =>
        if e.2.eff.toNat < b.2.eff.toNat || (e.2.eff = b.2.eff && e.2.since < b.2.since) then some e else some b) none).map Prod.fst

/-- PREEMPTION_REQUEST: a ready head that no idle context can place outranks a resident strand (R352). -/
def State.preempt (s : State) (pcl : Nat) : State :=
  let cl := s.cluAt pcl
  let out := match cl.preempting with
    | some k => (s.ctxAt (cloc k)).preq
    | none => false
  match victim s pcl with
  | none => s
  | some c =>
    let e := (s.ctxAt c).eff.toNat
    if !out && !s.mgr.tripped && (readyHeads cl).any fun r => e < effOf r && (findSeats s pcl r).isNone then
      (s.onClu pcl fun cl => { cl with preempting := some (ckey c) }).request c
    else s

/-- PREEMPTION_REQUEST (R352). -/
def execPreemptionRequest (pcl : Nat) (s : State) : Out := atClu pcl s fun s => s.preempt pcl

/-- PARTITION_DRAIN: the management controller requests every resident strand of the partition (R352). -/
def execPartitionDrain (p : Nat) (s : State) : Out :=
  atPart p s fun s => (s.contexts.filter fun e => e.2.resident && e.2.part = p).foldl (fun s e => s.request e.1) s

/-- The bytes of an area, in the order of its offsets. -/
def areaBytes (x : Context) (ctx free : Nat) : List Byte := (savePieces x ctx 0 x.pc free).flatMap fun p => p.2.1

/-- A granule after the controller has written an area: one whose bytes and tag stand as they were keeps its poison. -/
def pokedGran (old new : Gran) : Gran :=
  if old.data = new.data && old.fmt = new.fmt then old else { new with owner := old.owner }

/-- The management controller writes bytes of a debug-halted context's state in the layout of R354 (R358). What the layout does not
show, and what the bytes leave as it was, stays. -/
def State.debugWrite (s : State) (c : CtxLoc) (off : Nat) (bs : List Byte) : State :=
  let x := s.ctxAt c
  let a := areaBytes x c.ctx s.free
  if !x.debug || !x.resident || a.length < off + bs.length then s
  else
    let b := patch a off bs
    let y := readArea x b s.free
    let same := fun (o n : Nat) => (a.drop o).take n == (b.drop o).take n
    let keep := fun (o n po so : Nat) (q r : Queue) => if same o n && same po 256 && same so 64 then q else r
    s.setCtx c { y with
      parked := x.parked, marked := x.marked, hold := x.hold
      fpflags := if same 0x60 8 then x.fpflags else y.fpflags
      qv := keep 0x1000 5120 0x4000 0xF00 x.qv y.qv, qm := keep 0x3800 1024 0x4100 0xF40 x.qm y.qm
      ql := keep 0x2400 5120 0x4200 0xF80 x.ql y.ql, qe := keep 0x3C00 512 0x4300 0xFC0 x.qe y.qe
      toks := if same 0xE00 192 then x.toks else y.toks
      banks := (List.range 8).foldl (fun t k => tset t k (if same (0x4800 + 1024 * k) 1024 && (x.bank k).fmt = (y.bank k).fmt then x.bank k else y.bank k) {}) []
      win := (List.range x.wsize).foldl (fun t g => tset t g (pokedGran (x.gran g) (y.gran g)) {}) x.win }

/-- DEBUG_RESUME: the management controller resumes a debug-halted context, with another `epc` if it gives one; the
course is that of R351, `stat` unchanged, and inside a handler the queues stay parked (R349, R358). -/
def execDebugResume (c : CtxLoc) (epc : Option Word) (s : State) : Out :=
  atCtx c s fun s =>
    let x := s.ctxAt c
    if x.debug && x.resident then
      (s.onCtx c fun x => { ({ x with epc := (epc.map fun v => putBits v 0 2 0).getD x.epc }).resume with parked := x.intrap }).goesOn c
    else s

end Sys2Proof.Machine
end

