-- ==== Sys2Proof/Machine/Vector.lean ====
section
/-!
DEFINITION. The vector unit (R121 to R128, R145): the frame of rows, reads and writes that every V word keeps, and the
words of R129 to R143, each with the sources that it checks, the rows that it writes and its issue.
-/
namespace Sys2Proof.Machine

/-! ### The frame -/

/-- What a row does when it is read: its writes, its flags, and a fault that its crossbar cycles find (R152). -/
structure RowOut where
  writes : List VWrite := []
  flags  : Flags := 0
  fault  : Option Flt := none
  /-- A target that an engine owns: its crossbar cycle repeats (R152). -/
  target : Option Nat := none
  deriving DecidableEq, Repr

/-- A V word within the frame (R123, R127, R145). -/
structure VWord where
  /-- The granules that row j checks as sources, in order: format, and whether the check is bitwise. -/
  srcs  : Nat → List (Nat × Fmt × Bool) := fun _ => []
  /-- The granules that row j writes: format, and whether the write is whole. -/
  dests : Context → Nat → List (Nat × Fmt × Bool) := fun _ _ => []
  /-- The granules on the read ports in row j. -/
  ports : Nat → List Nat := fun _ => []
  /-- Cycles from a row's read to its write. -/
  lat   : Nat := 6
  /-- Every write falls after the last read. -/
  late  : Bool := false
  /-- A row also sees what is written in its own read cycle (VRSCAT, R152). -/
  sees  : Bool := false
  row   : Context → Nat → RowOut

/-- Granules of row j. -/
def vaG (f : VF) (j : Nat) : Nat := f.va.toNat + j * f.sa.toNat
def vbG (f : VF) (j : Nat) : Nat := f.vb.toNat + j * f.sb.toNat
def vdG (f : VF) (j : Nat) : Nat := f.vd.toNat + j * f.sd.toNat

/-- The rounding mode of a word (R49, R81). -/
def vmode (i : Item) (f : VF) : RMode :=
  match f.rnd with
  | .rtz => .rtz | .rup => .rup | .rdn => .rdn | .dyn => rmOf i.fpctl | _ => .rne

/-- Makes a write. VCMP into a mask register that holds poison changes its bits and leaves the poison, as a write of a part of a unit does; the
spec does not say (DESIGN CHOICE, log 40). -/
def Context.make (x : Context) : VWrite → Context
  | .gran g f whole es => x.setGran g ((x.gran g).put f whole es)
  | .bytes g f whole bs =>
    let t := x.gran g
    x.setGran g { t with data := putElems 8 t.read bs, fmt := f, poison := t.poison && !whole }
  | .tag g f =>
    let t := x.gran g
    x.setGran g (if f = .empty then { t with data := 0, fmt := .empty, poison := false } else { t with fmt := f })
  | .bits m bs => x.setMreg m (bs.foldl (fun v b => putAt v b.1 1 (b2n b.2)) (x.mreg m))
  | .mask m v => { x.setMreg m v with mbad := putAt x.mbad m 1 0 }
  | .reg r v => x.setRg r v
  | .flags _ => x

/-- The flags that a list of writes brings to its word. -/
def flagsIn (ws : List VWrite) : Word := ws.foldl (fun v w => match w with | .flags g => v ||| g | _ => v) 0

/-- The quarter of a granule in which a bit lies. -/
def inQuarter (q bit : Nat) : Bool := bit / 512 = q

/-- The piece of a write that lies in one quarter of its granule, and the rest. The rest keeps what the row does as a whole (R24, R32). -/
def VWrite.split (q : Nat) : VWrite → Option (VWrite × VWrite)
  | .gran g f whole es =>
    let (a, b) := es.partition fun e => inQuarter q (e.1 * f.bits)
    if a.isEmpty then none else some (.gran g f false a, .gran g f whole b)
  | .bytes g f whole bs =>
    let (a, b) := bs.partition fun e => inQuarter q (e.1 * 8)
    if a.isEmpty then none else some (.bytes g f false a, .bytes g f whole b)
  | _ => none

/-- A word under way: what is written, what waits for its write cycle, and the time. -/
structure VRun where
  x      : Context
  pend   : List (Nat × Nat × List VWrite) := []
  /-- The flags of the rows whose writes have been made (R83, R127). -/
  flags  : Word := 0
  fault  : Option Flt := none
  target : Option Nat := none
  next   : Nat
  t      : Nat := 0
  /-- The first source of the rows that were read, for a word whose writes come last. -/
  vis    : List GranData := []

/-- The word as its item holds it, and the item that holds the word. -/
def VRun.of (x : Context) (i : Item) : VRun :=
  { x := x, pend := i.pend, next := i.left, t := i.time, vis := i.vis }
def VRun.item (r : VRun) (i : Item) : Item :=
  { i with left := r.next, time := r.t, pend := r.pend, vis := r.vis, target := r.target, val := i.val ||| r.flags }

/-- The writes of a list of pending rows are made. -/
def VRun.make (r : VRun) (now : Nat × Nat × List VWrite → Bool) : VRun :=
  { r with x := (r.pend.filter now).foldl (fun x p => p.2.2.foldl Context.make x) r.x, pend := r.pend.filter fun p => !now p,
           flags := (r.pend.filter now).foldl (fun v p => v ||| flagsIn p.2.2) r.flags }

/-- The writes that fall before a cycle are made (R125). -/
def VRun.due (r : VRun) (sees : Bool) : VRun := r.make fun p => p.1 < r.t || (sees && p.1 = r.t)

/-- Every write of the rows that were read is made, on schedule. -/
def VRun.flush (r : VRun) : VRun := r.make fun _ => true

/-- The word stops at a row without later writes, nor their flags: its step is the first row without a result (R5, R127, R344). -/
def VRun.stop (r : VRun) (j : Nat) (f : Flt) : VRun :=
  { r with fault := some f, pend := [], next := r.pend.foldl (fun m p => min m p.2.1) j }

/-- The first check of row j that fails (R127). -/
def VWord.check (w : VWord) (x : Context) (j : Nat) : Option Flt :=
  ((w.srcs j).findSome? fun o =>
    if (x.gran o.1).poison then some (Flt.mk 0x0E (BitVec.ofNat 64 o.1))
    else if tagOk (x.gran o.1) o.2.1 o.2.2 then none
    else some ⟨0x04, BitVec.ofNat 64 o.1⟩).or
  ((w.dests x j).findSome? fun o =>
    if o.2.2 then none
    else if (x.gran o.1).fmt != .empty && (x.gran o.1).fmt != o.2.1 then some (Flt.mk 0x04 (BitVec.ofNat 64 o.1))
    else if (x.gran o.1).poison then some ⟨0x0E, BitVec.ofNat 64 o.1⟩
    else none)

/-- What row j sees: for a word whose writes come last, earlier rows as they were read (R125). -/
def VWord.seen (w : VWord) (r : VRun) (j : Nat) : Context :=
  if w.late then
    (List.range (min j r.vis.length)).foldl
      (fun x k => match (w.srcs k).head? with
        | some o => x.setGran o.1 { x.gran o.1 with data := r.vis.getD k 0, fmt := o.2.1 }
        | none => x) r.x
  else r.x

/-- Row j is read, `lost` crossbar cycles late (R123, R127, R145, R153). Two sources of one bank group take the row
twice the time (R19). A target that an engine owns holds the row; the writes before it go on. -/
def VWord.step (w : VWord) (lost : Nat) (r : VRun) (j : Nat) : VRun :=
  if r.fault.isSome || r.target.isSome then r
  else
    let r := r.due w.sees
    match w.check r.x j with
    | some f => r.stop j f
    | none =>
      let o := w.row (w.seen r j) j
      match o.fault, o.target with
      | some f, _ => r.stop j f
      | none, some g => { r.flush with target := some g }
      | none, none =>
        let c := match w.ports j with
          | [a, b] => if a / 48 = b / 48 then 2 else 1
          | _ => 1
        let vis := match w.late, (w.srcs j).head? with
          | true, some s => r.vis ++ [(r.x.gran s.1).read]
          | _, _ => r.vis
        { r with pend := r.pend ++ [(r.t + lost + w.lat, j, o.writes ++ [.flags (o.flags.setWidth 64)])], next := j + 1,
                 t := r.t + 4 * c + lost, vis := vis }

/-! ### Element-wise words -/

/-- Element e of a second operand: a granule's, or the scalar's low bits (R121). -/
def srcB (i : Item) (f : VF) (fmt : Fmt) (x : Context) (j e : Nat) : Nat :=
  if f.bs then i.a.toNat % 2 ^ fmt.bits else elemAt (x.gran (vbG f j)).read fmt e

/-- A row whose elements in a list take results from the old elements of va, vb and vd. A row without such an element makes a partial
write of no bytes: it is checked, and an EMPTY vd is tagged (R24, R128; DESIGN CHOICE, log 44). -/
def elemRow (i : Item) (f : VF) (es : Nat → List Nat) (whole : Nat → Bool) (fn : Nat → Nat → Nat → Nat → Nat → Nat × Flags)
    (x : Context) (j : Nat) : RowOut :=
  let a := (x.gran (vaG f j)).read
  let d := (x.gran (vdG f j)).read
  let rs := (es j).map fun e => (e, fn j e (elemAt a f.fmt e) (srcB i f f.fmt x j e) (elemAt d f.fmt e))
  { writes := [.gran (vdG f j) f.fmt (whole j) (rs.map fun r => (r.1, r.2.1))],
    flags := rs.foldl (fun g r => g ||| r.2.2) 0 }

/-- An element-wise word: two or three operands, arithmetic or bitwise checks (R129 to R135, R146). -/
def elementwise (i : Item) (f : VF) (bitwise two three : Bool) (lat : Nat) (fn : Nat → Nat → Nat → Nat × Flags) :
    VWord where
  srcs := fun j => (vaG f j, f.fmt, bitwise) :: (if two && !f.bs then [(vbG f j, f.fmt, bitwise)] else []) ++
    if three then [(vdG f j, f.fmt, bitwise)] else []
  dests := fun _ j => [(vdG f j, f.fmt, wholeRow i.mask f.fmt i.vshape j)]
  ports := fun j => vaG f j :: if two && !f.bs then [vbG f j] else []
  lat := lat
  row := elemRow i f (actives i.mask f.fmt i.vshape) (wholeRow i.mask f.fmt i.vshape) fun _ _ a b d => fn a b d

/-- A value without flags. -/
def plain (v : Nat) : Nat × Flags := (v, 0)

def vwVadd (i : Item) (f : VF) : VWord :=
  elementwise i f false true false 6 fun a b _ => fpAdd f.fmt (vmode i f) f.sat a b
def vwVsub (i : Item) (f : VF) : VWord :=
  elementwise i f false true false 6 fun a b _ => fpSub f.fmt (vmode i f) f.sat a b
def vwVmul (i : Item) (f : VF) : VWord :=
  elementwise i f false true false 6 fun a b _ => fpMul f.fmt (vmode i f) f.sat a b
def vwVfma (i : Item) (f : VF) : VWord :=
  elementwise i f false true true 6 fun a b d => fpFma f.fmt (vmode i f) f.sat false a b d
def vwVfms (i : Item) (f : VF) : VWord :=
  elementwise i f false true true 6 fun a b d => fpFma f.fmt (vmode i f) f.sat true a b d
def vwVmin (i : Item) (f : VF) : VWord := elementwise i f false true false 6 fun a b _ => fpMinMax f.fmt false a b
def vwVmax (i : Item) (f : VF) : VWord := elementwise i f false true false 6 fun a b _ => fpMinMax f.fmt true a b
def vwVabs (i : Item) (f : VF) : VWord :=
  elementwise i f false false false 6 fun a _ _ => plain (a % 2 ^ (f.fmt.bits - 1))
def vwVneg (i : Item) (f : VF) : VWord :=
  elementwise i f false false false 6 fun a _ _ => plain (Nat.xor a (2 ^ (f.fmt.bits - 1)))
def vwVscl (i : Item) (f : VF) : VWord :=
  elementwise i f false false false 6 fun a _ _ => fpScl f.fmt (vmode i f) f.sat a f.imm.toInt

/-- VCPY writes its active bytes under the tag of its source (R130). -/
def vwVcpy (i : Item) (f : VF) : VWord :=
  let wf := fun (x : Context) (j : Nat) => if (x.gran (vaG f j)).fmt = .empty then f.fmt else (x.gran (vaG f j)).fmt
  { elementwise i f true false false 6 fun a _ _ => plain a with
    dests := fun x j => [(vdG f j, wf x j, wholeRow i.mask f.fmt i.vshape j)]
    row := fun x j =>
      let a := (x.gran (vaG f j)).read
      let on := fun (b : Nat) => active i.mask f.fmt i.vshape j (if f.fmt.bits = 4 then 2 * b else b / (f.fmt.bits / 8))
      { writes := [.bytes (vdG f j) (wf x j) (wholeRow i.mask f.fmt i.vshape j)
          (((List.range 256).filter on).map fun b => (b, getAt a (8 * b) 8))] } }

/-- VBCST: an element of va, or a scalar (R131). -/
def vwVbcst (i : Item) (f : VF) : VWord where
  srcs := fun j => if f.bs then [] else [(vaG f j, f.fmt, false)]
  dests := fun _ j => [(vdG f j, f.fmt, wholeRow i.mask f.fmt i.vshape j)]
  ports := fun j => if f.bs then [] else [vaG f j]
  row := fun x j =>
    elemRow i f (actives i.mask f.fmt i.vshape) (wholeRow i.mask f.fmt i.vshape)
      (fun j _ _ b _ => plain (if f.bs then b else elemAt (x.gran (vaG f j)).read f.fmt f.imm.toNat)) x j

/-! ### Integers (R132) -/

/-- An integer word: the exact result on the values of the operands, wrapped or clamped (R67). -/
def integerWord (i : Item) (f : VF) (two three : Bool) (fn : Int → Int → Int → Int) : VWord :=
  elementwise i f false two three 6 fun a b d => intFit f.fmt f.sat (fn (intOf f.fmt a) (intOf f.fmt b) (intOf f.fmt d))

def vwViadd (i : Item) (f : VF) : VWord := integerWord i f true false fun a b _ => a + b
def vwVisub (i : Item) (f : VF) : VWord := integerWord i f true false fun a b _ => a - b
def vwVimul (i : Item) (f : VF) : VWord := integerWord i f true false fun a b _ => a * b
def vwVimulh (i : Item) (f : VF) : VWord := integerWord i f true false fun a b _ => a * b / 2 ^ f.fmt.bits
def vwVimad (i : Item) (f : VF) : VWord := integerWord i f true true fun a b d => d + a * b
def vwVimin (i : Item) (f : VF) : VWord := integerWord i f true false fun a b _ => min a b
def vwVimax (i : Item) (f : VF) : VWord := integerWord i f true false fun a b _ => max a b
def vwViabs (i : Item) (f : VF) : VWord := integerWord i f false false fun a _ _ => a.natAbs
def vwVclz (i : Item) (f : VF) : VWord :=
  elementwise i f false false false 6 fun a _ _ => plain (if a = 0 then f.fmt.bits else f.fmt.bits - 1 - Nat.log2 a)
def vwVpopc (i : Item) (f : VF) : VWord :=
  elementwise i f false false false 6 fun a _ _ => plain ((List.range f.fmt.bits).countP a.testBit)

/-! ### Logic, lookup and shifts (R133 to R135) -/

/-- Three-input lookup, bit by bit (R133). -/
def lut3 (bits table a b d : Nat) : Nat :=
  (List.range bits).foldl
    (fun v k => v + if table.testBit (4 * b2n (d.testBit k) + 2 * b2n (a.testBit k) + b2n (b.testBit k)) then 2 ^ k else 0) 0

def vwVand (i : Item) (f : VF) : VWord := elementwise i f true true false 6 fun a b _ => plain (Nat.land a b)
def vwVor (i : Item) (f : VF) : VWord := elementwise i f true true false 6 fun a b _ => plain (Nat.lor a b)
def vwVxor (i : Item) (f : VF) : VWord := elementwise i f true true false 6 fun a b _ => plain (Nat.xor a b)
def vwVlut3 (i : Item) (f : VF) : VWord :=
  elementwise i f true true true 6 fun a b d => plain (lut3 f.fmt.bits (f.imm.toNat % 256) a b d)

/-- A shift word: k is the amount's value modulo the element size (R134). -/
def shiftWord (i : Item) (f : VF) (fn : Nat → Nat → Nat → Nat) : VWord :=
  elementwise i f true true false 6 fun a b _ => plain (fn f.fmt.bits a (b % f.fmt.bits) % 2 ^ f.fmt.bits)

/-- An arithmetic right shift of the low `n` bits (R134). -/
def asr (n a k : Nat) : Nat :=
  let v : Int := if a < 2 ^ (n - 1) then (a : Int) else (a : Int) - 2 ^ n
  (v / 2 ^ k % 2 ^ n).toNat

def vwVshl (i : Item) (f : VF) : VWord := shiftWord i f fun _ a k => a * 2 ^ k
def vwVshr (i : Item) (f : VF) : VWord := shiftWord i f fun _ a k => a / 2 ^ k
def vwVsar (i : Item) (f : VF) : VWord := shiftWord i f asr
def vwVrot (i : Item) (f : VF) : VWord := shiftWord i f fun n a k => a * 2 ^ k + a / 2 ^ (n - k)

/-- The two-operand shifts (R135). -/
def vwVfshl (i : Item) (f : VF) : VWord :=
  elementwise i f true true false 6 fun a b _ =>
    plain ((a * 2 ^ f.fmt.bits + b) * 2 ^ f.imm.toNat / 2 ^ f.fmt.bits % 2 ^ f.fmt.bits)
def vwVfshr (i : Item) (f : VF) : VWord :=
  elementwise i f true true false 6 fun a b _ => plain ((a * 2 ^ f.fmt.bits + b) / 2 ^ f.imm.toNat % 2 ^ f.fmt.bits)

/-! ### Comparison, selection, masks (R136 to R139) -/

/-- The condition of VCMP on two elements, and its flags (R51, R136). -/
def vcond (fmt : Fmt) (fn a b : Nat) : Bool × Flags :=
  let by_ := fun (eq lt : Bool) =>
    match fn with
    | 0 => eq | 1 => !eq | 2 => lt | 3 => lt || eq | 4 => !(lt || eq) | 5 => !lt | 6 => false | _ => true
  if fmt.isFp then
    match fpCmp fmt a b with
    | some (eq, lt) => (by_ eq lt, 0)
    | none => (fn = 1 || fn = 6, fNI)
  else (by_ (intOf fmt a = intOf fmt b) (intOf fmt a < intOf fmt b), 0)

/-- VCMP: an 8-bit pair's bit is the AND of its active results (R136). -/
def vwVcmp (i : Item) (f : VF) : VWord where
  srcs := fun j => (vaG f j, f.fmt, false) :: if f.bs then [] else [(vbG f j, f.fmt, false)]
  ports := fun j => vaG f j :: if f.bs then [] else [vbG f j]
  row := fun x j =>
    let a := (x.gran (vaG f j)).read
    let rs := (actives i.mask f.fmt i.vshape j).map fun e => (e, vcond f.fmt f.fn.toNat (elemAt a f.fmt e) (srcB i f f.fmt x j e))
    let bit := fun (e : Nat) => 128 * j + maskIndex f.fmt e
    { writes := if f.vd = 0 then [] else [.bits f.vd.toNat
        (rs.map fun r => (bit r.1, rs.all fun q => bit q.1 != bit r.1 || q.2.1))],
      flags := rs.foldl (fun g r => g ||| r.2.2) 0 }

/-- VSEL writes every element within the width (R137). -/
def vwVsel (i : Item) (f : VF) : VWord :=
  let es := fun (_ : Nat) => (List.range f.fmt.count).filter fun e => elemEnd f.fmt e ≤ shapeWidth i.vshape
  let whole := fun (_ : Nat) => shapeWidth i.vshape = 256
  { elementwise i f true true false 6 fun a _ _ => plain a with
    dests := fun _ j => [(vdG f j, f.fmt, whole j)]
    row := elemRow i f es (fun j => whole j) fun j e a b _ => plain (if maskBit i.mask f.fmt j e then a else b) }

/-- The mask words write what their sources gave at issue, which the item carries (R138). -/
def vwMand (i : Item) (f : VF) : VWord := { lat := 2, row := fun _ _ => { writes := [.mask f.vd.toNat i.mask] } }
def vwMor (i : Item) (f : VF) : VWord := { lat := 2, row := fun _ _ => { writes := [.mask f.vd.toNat i.mask] } }
def vwMxor (i : Item) (f : VF) : VWord := { lat := 2, row := fun _ _ => { writes := [.mask f.vd.toNat i.mask] } }
def vwMnot (i : Item) (f : VF) : VWord := { lat := 2, row := fun _ _ => { writes := [.mask f.vd.toNat i.mask] } }

/-- The bits of a mask in the active rows (R139). -/
def maskRows (i : Item) : Nat := getAt i.mask 0 (128 * shapeRows i.vshape)

/-- One bits of a number of at most 2,048 bits. -/
def ones (v : Nat) : Nat := (List.range 2048).countP v.testBit

def vwMcnt (i : Item) (f : VF) : VWord :=
  { lat := 2, row := fun _ _ => { writes := [.reg (f.vd.setWidth 5) (BitVec.ofNat 64 (ones (maskRows i)))] } }
def vwMfirst (i : Item) (f : VF) : VWord :=
  { lat := 2, row := fun _ _ => { writes := [.reg (f.vd.setWidth 5)
      (match (List.range 2048).find? (maskRows i).testBit with
        | some k => BitVec.ofNat 64 k
        | none => BitVec.allOnes 64)] } }

/-! ### Conversion (R140 to R143) -/

/-- The random value and width of destination element e under rounding code 4 (R75). -/
def randMode (i : Item) (f : VF) (bits : Nat) (x : Context) (j e : Nat) : RMode :=
  match f.rnd with
  | .sr => let w := min 16 bits
    .sr (getAt (x.gran (vbG f j)).read (w * e) w) w
  | _ => vmode i f

/-- One conversion (R77). A negative integer into an unsigned format is clamped to 0 and sets sat where the word saturates, also where the
format is as wide or wider (R67; DESIGN CHOICE, log 43). -/
def convertElem (src dst : Fmt) (mode : RMode) (sat : Bool) (a : Nat) : Nat × Flags :=
  if src.isFp then
    if dst.isFp then
      let (v, g) := fpConvert src dst mode sat a
      (v, if (decodeFp src a).isNan then g ||| fNI else g)
    else fpToInt src dst mode a
  else if dst.isFp then intToFp dst mode sat (intOf src a)
  else intFit dst sat (intOf src a)

/-- The pairs of source and result elements of a part (R140). -/
def vcvtPairs (src dst : Fmt) (p : Nat) : List (Nat × Nat) :=
  if dst.bits < src.bits then (List.range src.count).map fun k => (k, p * src.count + k)
  else if src.bits < dst.bits then (List.range dst.count).map fun k => (p * dst.count + k, k)
  else (List.range src.count).map fun k => (k, k)

def vwVcvt (i : Item) (f : VF) : VWord :=
  let src := f.srcFmt
  let whole := fun (j : Nat) => src.bits ≤ f.fmt.bits && wholeRow i.mask f.fmt i.vshape j
  { srcs := fun j => (vaG f j, src, false) :: if f.rnd = .sr then [(vbG f j, .raw, true)] else []
    dests := fun _ j => [(vdG f j, f.fmt, whole j)]
    ports := fun j => vaG f j :: if f.rnd = .sr then [vbG f j] else []
    row := fun x j =>
      let a := (x.gran (vaG f j)).read
      let rs := ((vcvtPairs src f.fmt (f.imm.toNat % 8)).filter fun p => active i.mask f.fmt i.vshape j p.2).map fun p =>
        (p.2, convertElem src f.fmt (randMode i f f.fmt.bits x j p.2) f.sat (elemAt a src p.1))
      { writes := [.gran (vdG f j) f.fmt (whole j) (rs.map fun r => (r.1, r.2.1))],
        flags := rs.foldl (fun g r => g ||| r.2.2) 0 } }

/-- top(T) of R141. -/
def q4Top : Nat → Nat
  | 0 => 7 | 1 => 6 | 2 => 16 | _ => 24

/-- Order of the magnitudes of two values that are not NaN. -/
def absLt (a b : Num) : Bool :=
  let pos : Num → Num := fun v => match v with
    | .fin _ n e t => .fin false n e t
    | .inf _ => .inf false
    | .nan => .nan
  numLt false (pos a) (pos b)

/-- The scale exponent of a block with largest magnitude m: 32 plus the least q with m ≤ top × 2^q, limited (R141). -/
def q4Scale (top : Nat) (m : Num) : Nat :=
  match m with
  | .nan => 0
  | .inf _ => 62
  | .fin _ n e _ =>
    if n = 0 then 0
    else
      match (List.range 62).find? fun k : Nat =>
        !absLt (.fin false top ((k : Int) - 32) false) (.fin false n e false) with
      | some k => k
      | none => 62

/-- The scale granule and part of VQNT and VDQ, and the type of VQNT (R122). -/
def scaleG (f : VF) : Nat := f.imm.toNat % 512
def partOf (f : VF) : Nat := f.imm.toNat / 512 % 8
def typeOf (f : VF) : Nat := f.imm.toNat / 4096 % 4

/-- VQNT (R141). -/
def vwVqnt (i : Item) (f : VF) : VWord where
  srcs := fun j => (vaG f j, f.fmt, false) :: if f.rnd = .sr then [(vbG f j, .raw, true)] else []
  dests := fun _ j => [(vdG f j, .q4, false), (scaleG f, .u8, false)]
  ports := fun j => vaG f j :: if f.rnd = .sr then [vbG f j] else []
  lat := 8
  row := fun x j =>
    let a := (x.gran (vaG f j)).read
    let n := f.fmt.count
    let es := actives i.mask f.fmt i.vshape j
    let blocks := (es.map fun e => (partOf f * n + e) / 32).dedup
    let scaleOf := fun (b : Nat) =>
      let vs := (es.filter fun e => (partOf f * n + e) / 32 = b).map fun e => decodeFp f.fmt (elemAt a f.fmt e)
      let m := vs.foldl (fun m v => if v.isNan then m else if absLt m v then v else m) (.fin false 0 0 false)
      q4Scale (q4Top (typeOf f)) m
    let rs := es.map fun e =>
      let c := partOf f * n + e
      (c, q4Encode (randMode i f 4 x j c) (typeOf f) (scaleOf (c / 32)) (decodeFp f.fmt (elemAt a f.fmt e)))
    { writes := [.gran (vdG f j) .q4 false (rs.map fun r => (r.1, r.2.1)),
        .gran (scaleG f) .u8 false (blocks.map fun b => (16 * j + b, typeOf f * 64 + scaleOf b))],
      flags := rs.foldl (fun g r => g ||| r.2.2) 0 }

/-- A Q4 code under its scale byte, rounded to a format (R77, R142). -/
def q4ToFp (fmt : Fmt) (mode : RMode) (sat : Bool) (scale code : Nat) : Nat × Flags :=
  match q4Decode scale code with
  | (.nan, g) => nanOut fmt 2 g
  | (v, g) => let (b, h) := roundTo fmt mode sat v
    (b, g ||| h)

/-- VDQ (R142). -/
def vwVdq (i : Item) (f : VF) : VWord where
  srcs := fun j => [(vaG f j, .q4, false), (scaleG f, .u8, false)]
  dests := fun _ j => [(vdG f j, f.fmt, wholeRow i.mask f.fmt i.vshape j)]
  ports := fun j => [vaG f j, scaleG f]
  row := fun x j =>
    let a := (x.gran (vaG f j)).read
    let sc := (x.gran (scaleG f)).read
    let rs := (actives i.mask f.fmt i.vshape j).map fun e =>
      let c := partOf f * f.fmt.count + e
      (e, q4ToFp f.fmt (vmode i f) f.sat (elemAt sc .u8 (16 * j + c / 32)) (elemAt a .q4 c))
    { writes := [.gran (vdG f j) f.fmt (wholeRow i.mask f.fmt i.vshape j) (rs.map fun r => (r.1, r.2.1))],
      flags := rs.foldl (fun g r => g ||| r.2.2) 0 }

/-- VRETAG (R143). -/
def vwVretag (_ : Item) (f : VF) : VWord :=
  { lat := 2, dests := fun _ j => [(vdG f j, f.fmt, true)], row := fun _ j => { writes := [.tag (vdG f j) f.fmt] } }

/-! ### Issue -/

/-- The first mask register of a word that holds poison (R159). -/
def badMask (x : Context) (i : Instr) : Option Nat := (maskReads i).find? fun m => m != 0 && x.mbad.getLsbD m

/-- A V word at issue: the window check of its granule operands, row by row, then of its single granule; a poisoned
mask register, whose number is `etval` (DESIGN CHOICE, log 40); then the V queue, with the values that it captures (R20, R26, R28, R127,
R159). -/
def issueV (i : Instr) (f : VF) (ops : List (Nat × Nat)) (extra : List Nat) (mask : Context → Mask) (s : State) : Out :=
  issue i s fun s =>
    match (rowCheck s.cx.wsize (shapeRows s.cx.vshape) ops).or (extra.find? fun g => s.cx.wsize ≤ g) with
    | some g => .next (s.fault 0x06 (BitVec.ofNat 64 g))
    | none =>
      match badMask s.cx i with
      | some m => .next (s.fault 0x0E (BitVec.ofNat 64 m))
      | none => .next (enqueue .v i 3 (if f.bs then s.cx.rg (f.vb.setWidth 5) else 0) 0 0 (mask s.cx) s)

/-- Operands as granule and stride. -/
def opA (f : VF) : Nat × Nat := (f.va.toNat, f.sa.toNat)
def opB (f : VF) : Nat × Nat := (f.vb.toNat, f.sb.toNat)
def opD (f : VF) : Nat × Nat := (f.vd.toNat, f.sd.toNat)

/-- The governing mask. -/
def govMask (f : VF) (x : Context) : Mask := x.mreg f.mask.toNat

/-- va, vb and vd, where vb is a granule unless it is a scalar. -/
def opsABD (f : VF) : List (Nat × Nat) := if f.bs then [opA f, opD f] else [opA f, opB f, opD f]

/-- VADD (R129). -/
def execVadd (f : VF) (s : State) : Out := issueV (.vadd f) f (opsABD f) [] (govMask f) s

/-- VSUB (R129). -/
def execVsub (f : VF) (s : State) : Out := issueV (.vsub f) f (opsABD f) [] (govMask f) s

/-- VMUL (R129). -/
def execVmul (f : VF) (s : State) : Out := issueV (.vmul f) f (opsABD f) [] (govMask f) s

/-- VFMA (R129). -/
def execVfma (f : VF) (s : State) : Out := issueV (.vfma f) f (opsABD f) [] (govMask f) s

/-- VFMS (R129). -/
def execVfms (f : VF) (s : State) : Out := issueV (.vfms f) f (opsABD f) [] (govMask f) s

/-- VMIN (R129). -/
def execVmin (f : VF) (s : State) : Out := issueV (.vmin f) f (opsABD f) [] (govMask f) s

/-- VMAX (R129). -/
def execVmax (f : VF) (s : State) : Out := issueV (.vmax f) f (opsABD f) [] (govMask f) s

/-- VABS (R129). -/
def execVabs (f : VF) (s : State) : Out := issueV (.vabs f) f [opA f, opD f] [] (govMask f) s

/-- VNEG (R129). -/
def execVneg (f : VF) (s : State) : Out := issueV (.vneg f) f [opA f, opD f] [] (govMask f) s

/-- VSCL (R129). -/
def execVscl (f : VF) (s : State) : Out := issueV (.vscl f) f [opA f, opD f] [] (govMask f) s

/-- VCPY (R130). -/
def execVcpy (f : VF) (s : State) : Out := issueV (.vcpy f) f [opA f, opD f] [] (govMask f) s

/-- VBCST (R131). -/
def execVbcst (f : VF) (s : State) : Out :=
  issueV (.vbcst f) f (if f.bs then [opD f] else [opA f, opD f]) [] (govMask f) s

/-- VIADD (R132). -/
def execViadd (f : VF) (s : State) : Out := issueV (.viadd f) f (opsABD f) [] (govMask f) s

/-- VISUB (R132). -/
def execVisub (f : VF) (s : State) : Out := issueV (.visub f) f (opsABD f) [] (govMask f) s

/-- VIMUL (R132). -/
def execVimul (f : VF) (s : State) : Out := issueV (.vimul f) f (opsABD f) [] (govMask f) s

/-- VIMULH (R132). -/
def execVimulh (f : VF) (s : State) : Out := issueV (.vimulh f) f (opsABD f) [] (govMask f) s

/-- VIMAD (R132). -/
def execVimad (f : VF) (s : State) : Out := issueV (.vimad f) f (opsABD f) [] (govMask f) s

/-- VIMIN (R132). -/
def execVimin (f : VF) (s : State) : Out := issueV (.vimin f) f (opsABD f) [] (govMask f) s

/-- VIMAX (R132). -/
def execVimax (f : VF) (s : State) : Out := issueV (.vimax f) f (opsABD f) [] (govMask f) s

/-- VIABS (R132). -/
def execViabs (f : VF) (s : State) : Out := issueV (.viabs f) f [opA f, opD f] [] (govMask f) s

/-- VCLZ (R132). -/
def execVclz (f : VF) (s : State) : Out := issueV (.vclz f) f [opA f, opD f] [] (govMask f) s

/-- VPOPC (R132). -/
def execVpopc (f : VF) (s : State) : Out := issueV (.vpopc f) f [opA f, opD f] [] (govMask f) s

/-- VAND (R133). -/
def execVand (f : VF) (s : State) : Out := issueV (.vand f) f (opsABD f) [] (govMask f) s

/-- VOR (R133). -/
def execVor (f : VF) (s : State) : Out := issueV (.vor f) f (opsABD f) [] (govMask f) s

/-- VXOR (R133). -/
def execVxor (f : VF) (s : State) : Out := issueV (.vxor f) f (opsABD f) [] (govMask f) s

/-- VLUT3 (R133). -/
def execVlut3 (f : VF) (s : State) : Out := issueV (.vlut3 f) f (opsABD f) [] (govMask f) s

/-- VSHL (R134). -/
def execVshl (f : VF) (s : State) : Out := issueV (.vshl f) f (opsABD f) [] (govMask f) s

/-- VSHR (R134). -/
def execVshr (f : VF) (s : State) : Out := issueV (.vshr f) f (opsABD f) [] (govMask f) s

/-- VSAR (R134). -/
def execVsar (f : VF) (s : State) : Out := issueV (.vsar f) f (opsABD f) [] (govMask f) s

/-- VROT (R134). -/
def execVrot (f : VF) (s : State) : Out := issueV (.vrot f) f (opsABD f) [] (govMask f) s

/-- VFSHL (R135). -/
def execVfshl (f : VF) (s : State) : Out := issueV (.vfshl f) f (opsABD f) [] (govMask f) s

/-- VFSHR (R135). -/
def execVfshr (f : VF) (s : State) : Out := issueV (.vfshr f) f (opsABD f) [] (govMask f) s

/-- VCMP (R136). -/
def execVcmp (f : VF) (s : State) : Out :=
  issueV (.vcmp f) f (if f.bs then [opA f] else [opA f, opB f]) [] (govMask f) s

/-- VSEL: the mask field is the selector (R137). -/
def execVsel (f : VF) (s : State) : Out := issueV (.vsel f) f (opsABD f) [] (govMask f) s

/-- MAND (R138). -/
def execMand (f : VF) (s : State) : Out :=
  issueV (.mand f) f [] [] (fun x => x.mreg f.va.toNat &&& x.mreg f.vb.toNat) s

/-- MOR (R138). -/
def execMor (f : VF) (s : State) : Out :=
  issueV (.mor f) f [] [] (fun x => x.mreg f.va.toNat ||| x.mreg f.vb.toNat) s

/-- MXOR (R138). -/
def execMxor (f : VF) (s : State) : Out :=
  issueV (.mxor f) f [] [] (fun x => x.mreg f.va.toNat ^^^ x.mreg f.vb.toNat) s

/-- MNOT (R138). -/
def execMnot (f : VF) (s : State) : Out := issueV (.mnot f) f [] [] (fun x => ~~~ x.mreg f.va.toNat) s

/-- MCNT (R139). -/
def execMcnt (f : VF) (s : State) : Out := issueV (.mcnt f) f [] [] (fun x => x.mreg f.va.toNat) s

/-- MFIRST (R139). -/
def execMfirst (f : VF) (s : State) : Out := issueV (.mfirst f) f [] [] (fun x => x.mreg f.va.toNat) s

/-- VCVT (R140). -/
def execVcvt (f : VF) (s : State) : Out :=
  issueV (.vcvt f) f (if f.rnd = .sr then [opA f, opB f, opD f] else [opA f, opD f]) [] (govMask f) s

/-- VQNT (R141). -/
def execVqnt (f : VF) (s : State) : Out :=
  issueV (.vqnt f) f (if f.rnd = .sr then [opA f, opB f, opD f] else [opA f, opD f]) [scaleG f] (govMask f) s

/-- VDQ (R142). -/
def execVdq (f : VF) (s : State) : Out := issueV (.vdq f) f [opA f, opD f] [scaleG f] (govMask f) s

/-- VRETAG (R143). -/
def execVretag (f : VF) (s : State) : Out := issueV (.vretag f) f [opD f] [] (govMask f) s

end Sys2Proof.Machine
end

