-- ==== Sys2Proof/Machine/VSpecial.lean ====
section
/-!
DEFINITION. Special functions, reductions, permutes and sampling (R144 to R155), and the start and the finish of V words
(R30, R124, R127).
-/
namespace Sys2Proof.Machine

/-! ### Special functions (R146) -/

def vwVrcp (i : Item) (f : VF) : VWord := elementwise i f false false false 14 fun a _ _ => fpRcp f.fmt (vmode i f) a
def vwVrsq (i : Item) (f : VF) : VWord := elementwise i f false false false 14 fun a _ _ => fpRsq f.fmt (vmode i f) a
def vwVsqrt (i : Item) (f : VF) : VWord := elementwise i f false false false 14 fun a _ _ => fpSqrt f.fmt (vmode i f) a
def vwVdiv (i : Item) (f : VF) : VWord := elementwise i f false true false 14 fun a b _ => fpDiv f.fmt (vmode i f) a b
def vwVexp2 (i : Item) (f : VF) : VWord := elementwise i f false false false 16 fun a _ _ => fpExp2 f.fmt (vmode i f) a
def vwVlog2 (i : Item) (f : VF) : VWord := elementwise i f false false false 16 fun a _ _ => fpLog2 f.fmt (vmode i f) a
def vwVtanh (i : Item) (f : VF) : VWord := elementwise i f false false false 20 fun a _ _ => fpTanh f.fmt (vmode i f) a

/-! ### Reductions and scans (R87, R147 to R149) -/

/-- The tree of R87; the combine gives a value and its flags. -/
def treeOf (comb : Nat → Nat → Nat × Flags) : Nat → List Nat → Nat × Flags
  | 0, xs => (xs.headD 0, 0)
  | fuel + 1, xs =>
    if xs.length ≤ 1 then (xs.headD 0, 0)
    else
      let h := 2 ^ Nat.log2 (xs.length - 1)
      let l := treeOf comb fuel (xs.take h)
      let r := treeOf comb fuel (xs.drop h)
      let v := comb l.1 r.1
      (v.1, l.2 ||| r.2 ||| v.2)

/-- Accumulation format of a sum (R147). -/
def sumFmt (long : Bool) (f : Fmt) : Fmt :=
  if !long then f else if f.isFp then .fp32 else if f.signed then .i64 else .u64

/-- An element in the accumulation format; a NaN is the generated NaN of cause 1 (R77, R147). -/
def sumIn (acc f : Fmt) (a : Nat) : Nat × Flags :=
  if f.isFp then fpConvert f acc .rne false a else intFit acc false (intOf f a)

/-- What an inactive element enters (R87, R147): −0, or 0. -/
def sumNone (acc : Fmt) : Nat := if acc.isFp then signBit acc true else 0

/-- One combine of a sum (R87). -/
def sumComb (acc : Fmt) (mode : RMode) (sat : Bool) (a b : Nat) : Nat × Flags :=
  if acc.isFp then fpAdd acc mode sat a b else intFit acc sat (intOf acc a + intOf acc b)

/-- A sum as delivered: under the saturate bit an infinite input that passes to the result is the largest finite value
(R76). -/
def sumOut (acc : Fmt) (sat : Bool) (v : Nat) : Nat × Flags :=
  if acc.isFp && sat then
    match decodeFp acc v with
    | .inf g => infResult acc true g
    | _ => (v, 0)
  else (v, 0)

/-- The elements that a row's reduction or scan covers: those within the width (R148). -/
def inWidth (f : Fmt) (vshape : Word) : List Nat :=
  (List.range f.count).filter fun e => elemEnd f e ≤ shapeWidth vshape

/-- The elements of a list of (value, active) as they enter a sum, with their flags. -/
def sumEnter (acc f : Fmt) (xs : List (Nat × Bool)) : List Nat × Flags :=
  let ys := xs.map fun p => if p.2 then sumIn acc f p.1 else (sumNone acc, 0)
  (ys.map Prod.fst, ys.foldl (fun g p => g ||| p.2) 0)

/-- A tree sum; with no active element it is +0 (R87). -/
def sumTree (acc f : Fmt) (mode : RMode) (sat : Bool) (xs : List (Nat × Bool)) : Nat × Flags :=
  if xs.any Prod.snd then
    let (ys, g) := sumEnter acc f xs
    let (v, h) := treeOf (sumComb acc mode sat) 12 ys
    let (w, k) := sumOut acc sat v
    (w, g ||| h ||| k)
  else (0, 0)

/-- Row j of va within the width: values and activity. -/
def rowIn (i : Item) (f : VF) (x : Context) (j : Nat) : List (Nat × Bool) :=
  (inWidth f.fmt i.vshape).map fun e =>
    (elemAt (x.gran (vaG f j)).read f.fmt e, active i.mask f.fmt i.vshape j e)

/-- The rows of a word. -/
def rowsOf (i : Item) : List Nat := List.range (shapeRows i.vshape)

/-- A reduction word in its row or its block form (R148): `one` reduces a row, `all` the rows' results. -/
def reduction (i : Item) (f : VF) (acc : Fmt) (one : Context → Nat → Nat × Flags) (all : List Nat → Nat × Flags) : VWord :=
  let block := f.fn = 1
  { srcs := fun j => [(vaG f j, f.fmt, false)]
    dests := fun _ _ => [(f.vd.toNat, acc, false)]
    ports := fun j => [vaG f j]
    lat := if block then 14 else 10
    late := block
    row := fun x j =>
      if block then
        if j + 1 = shapeRows i.vshape then
          let rs := (rowsOf i).map (one x)
          let v := all (rs.map Prod.fst)
          { writes := [.gran f.vd.toNat acc false [(0, v.1)]], flags := rs.foldl (fun g r => g ||| r.2) v.2 }
        else {}
      else
        let v := one x j
        { writes := [.gran f.vd.toNat acc false [(j, v.1)]], flags := v.2 } }

def vwVrsum (i : Item) (f : VF) : VWord :=
  let acc := sumFmt true f.fmt
  reduction i f acc (fun x j => sumTree acc f.fmt (vmode i f) f.sat (rowIn i f x j))
    (treeOf (sumComb acc (vmode i f) f.sat) 12)

/-- The value of a maximum or a minimum with no active element (R147). -/
def extNone (max : Bool) (f : Fmt) : Nat :=
  if f.isFp then signBit f max + (2 ^ expoBits f - 1) * 2 ^ mantBits f
  else ((if max then intMin f else intMax f) % 2 ^ f.bits).toNat

/-- The exact maximum or minimum of a list; a NaN gives the generated NaN of cause 1 (R147). -/
def extOf (max : Bool) (f : Fmt) (none : Nat) (xs : List Nat) : Nat × Flags :=
  if f.isFp then
    if xs.any fun a => (decodeFp f a).isNan then nanOut f 1 fNI
    else
      match xs with
      | [] => (none, 0)
      | a :: r => (r.foldl (fun m b => (fpMinMax f max m b).1) a, 0)
  else
    match xs with
    | [] => (none, 0)
    | a :: r => (r.foldl (fun m b => if (if max then intOf f m < intOf f b else intOf f b < intOf f m) then b else m) a, 0)

/-- The active elements of row j of va. -/
def rowActive (i : Item) (f : VF) (x : Context) (j : Nat) : List Nat :=
  (actives i.mask f.fmt i.vshape j).map (elemAt (x.gran (vaG f j)).read f.fmt)

def vwVrmax (i : Item) (f : VF) : VWord :=
  let e := extOf true f.fmt (extNone true f.fmt)
  reduction i f f.fmt (fun x j => e (rowActive i f x j)) e
def vwVrmin (i : Item) (f : VF) : VWord :=
  let e := extOf false f.fmt (extNone false f.fmt)
  reduction i f f.fmt (fun x j => e (rowActive i f x j)) e
def vwVramax (i : Item) (f : VF) : VWord :=
  let e := extOf true f.fmt 0
  reduction i f f.fmt (fun x j => e ((rowActive i f x j).map fun a => a % 2 ^ (f.fmt.bits - 1))) e

/-- Inclusive prefixes from left to right (R87). -/
def prefixes (comb : Nat → Nat → Nat × Flags) : Nat → List Nat → List Nat × Flags
  | _, [] => ([], 0)
  | p, a :: r =>
    let v := comb p a
    let (ps, g) := prefixes comb v.1 r
    (v.1 :: ps, v.2 ||| g)

/-- VSCAN (R149). -/
def vwVscan (i : Item) (f : VF) : VWord :=
  { elementwise i f false false false 12 fun a _ _ => plain a with
    row := fun x j =>
      let (ys, g) := sumEnter f.fmt f.fmt (rowIn i f x j)
      let (ps, h) :=
        match ys with
        | [] => ([], 0)
        | a :: r => let (ps, h) := prefixes (sumComb f.fmt (vmode i f) f.sat) a r
          (a :: ps, h)
      let outs := (((inWidth f.fmt i.vshape).zip ps).filter fun p => active i.mask f.fmt i.vshape j p.1).map fun p =>
        (p.1, sumOut f.fmt f.sat p.2)
      { writes := [.gran (vdG f j) f.fmt (wholeRow i.mask f.fmt i.vshape j) (outs.map fun o => (o.1, o.2.1))],
        flags := outs.foldl (fun k o => k ||| o.2.2) (g ||| h) } }

/-- VCSUM (R149). -/
def vwVcsum (i : Item) (f : VF) : VWord :=
  let whole := shapeWidth i.vshape = 256
  { srcs := fun j => [(vaG f j, f.fmt, false)]
    dests := fun _ _ => [(f.vd.toNat, f.fmt, whole)]
    ports := fun j => [vaG f j]
    lat := 10
    late := true
    row := fun x j =>
      if j + 1 = shapeRows i.vshape then
        let col := fun (e : Nat) => (rowsOf i).map fun k =>
          (elemAt (x.gran (vaG f k)).read f.fmt e, active i.mask f.fmt i.vshape k e)
        let rs := (inWidth f.fmt i.vshape).map fun e => (e, sumTree f.fmt f.fmt (vmode i f) f.sat (col e))
        { writes := [.gran f.vd.toNat f.fmt whole (rs.map fun r => (r.1, r.2.1))],
          flags := rs.foldl (fun g r => g ||| r.2.2) 0 }
      else {} }

/-! ### Permutes (R150 to R152) -/

/-- VPERM (R150). -/
def vwVperm (i : Item) (f : VF) : VWord where
  srcs := fun j => [(vaG f j, f.fmt, true), (vbG f j, .u8, false)]
  dests := fun _ j => [(vdG f j, f.fmt, wholeRow i.mask f.fmt i.vshape j)]
  ports := fun j => [vaG f j, vbG f j]
  lat := 8
  row := fun x j =>
    let a := (x.gran (vaG f j)).read
    let b := (x.gran (vbG f j)).read
    { writes := [.gran (vdG f j) f.fmt (wholeRow i.mask f.fmt i.vshape j)
        ((actives i.mask f.fmt i.vshape j).map fun e => (e, elemAt a f.fmt (elemAt b .u8 e % f.fmt.count)))] }

/-- The source of element e of a VSHUF row: whether it is vb's, and its number (R150). -/
def shufSrc (pat h e : Nat) : Bool × Nat :=
  match pat with
  | 0 => (e % 2 = 1, e / 2)
  | 1 => (e % 2 = 1, h + e / 2)
  | 2 => if e < h then (false, 2 * e) else (true, 2 * (e - h))
  | _ => if e < h then (false, 2 * e + 1) else (true, 2 * (e - h) + 1)

/-- VSHUF (R150). -/
def vwVshuf (i : Item) (f : VF) : VWord where
  srcs := fun j => [(vaG f j, f.fmt, true), (vbG f j, f.fmt, true)]
  dests := fun _ j => [(vdG f j, f.fmt, wholeRow i.mask f.fmt i.vshape j)]
  ports := fun j => [vaG f j, vbG f j]
  lat := 8
  row := fun x j =>
    let a := (x.gran (vaG f j)).read
    let b := (x.gran (vbG f j)).read
    { writes := [.gran (vdG f j) f.fmt (wholeRow i.mask f.fmt i.vshape j)
        ((actives i.mask f.fmt i.vshape j).map fun e =>
          let (v, k) := shufSrc (f.imm.toNat % 4) (f.fmt.count / 2) e
          (e, elemAt (if v then b else a) f.fmt k))] }

/-- VTRN (R151). -/
def vwVtrn (i : Item) (f : VF) : VWord :=
  let rows := shapeRows i.vshape
  let whole := fun (j : Nat) => rows = 16 && wholeRow i.mask f.fmt i.vshape j
  { srcs := fun j => [(vaG f j, f.fmt, true)]
    dests := fun _ j => [(vdG f j, f.fmt, whole j)]
    ports := fun j => [vaG f j]
    lat := 8
    late := true
    row := fun x j =>
      if j + 1 = rows then
        { writes := (rowsOf i).map fun k => .gran (vdG f k) f.fmt (whole k)
            (((actives i.mask f.fmt i.vshape k).filter fun e => e % 16 < rows).map fun e =>
              (e, elemAt (x.gran (vaG f (e % 16))).read f.fmt (e / 16 * 16 + k))) }
      else {} }

/-- The target of an index of VRGATH or VRSCAT: granule and element (R152). -/
def xtarget (f : VF) (x : Context) (j e : Nat) : Nat × Nat :=
  let u := elemAt (x.gran (vbG f j)).read .u32 e
  (u / f.fmt.count, u % f.fmt.count)

/-- What stops the crossbar cycles of a row first, in element order: a target outside the window, a target that an engine owns, or a
check of the target (R152). -/
def xstop (i : Item) (f : VF) (x : Context) (scatter : Bool) (j : Nat) : Option (Except Flt Nat) :=
  (actives i.mask f.fmt i.vshape j).findSome? fun e =>
    let g := (xtarget f x j e).1
    if x.wsize ≤ g then some (.error ⟨0x06, BitVec.ofNat 64 g⟩)
    else if (x.gran g).owner then some (.ok g)
    else if !tagOk (x.gran g) f.fmt (!scatter) then some (.error ⟨0x04, BitVec.ofNat 64 g⟩)
    else if (x.gran g).poison then some (.error ⟨0x0E, BitVec.ofNat 64 g⟩)
    else none

/-- A row of a gather or scatter: its writes, unless something stops it. -/
def xrow (i : Item) (f : VF) (x : Context) (scatter : Bool) (j : Nat) (ws : List VWrite) : RowOut :=
  match xstop i f x scatter j with
  | some (.error e) => { fault := some e }
  | some (.ok g) => { target := some g }
  | none => { writes := ws }

/-- VRGATH (R152). -/
def vwVrgath (i : Item) (f : VF) : VWord where
  srcs := fun j => [(vbG f j, .u32, false)]
  dests := fun _ j => [(vdG f j, f.fmt, wholeRow i.mask f.fmt i.vshape j)]
  ports := fun j => [vbG f j]
  lat := 8
  row := fun x j =>
    xrow i f x false j
      [.gran (vdG f j) f.fmt (wholeRow i.mask f.fmt i.vshape j)
        ((actives i.mask f.fmt i.vshape j).map fun e =>
          let (g, k) := xtarget f x j e
          (e, elemAt (x.gran g).read f.fmt k))]

/-- VRSCAT (R152). -/
def vwVrscat (i : Item) (f : VF) : VWord where
  srcs := fun j => [(vaG f j, f.fmt, true), (vbG f j, .u32, false)]
  ports := fun j => [vaG f j, vbG f j]
  lat := 8
  sees := true
  row := fun x j =>
    let a := (x.gran (vaG f j)).read
    xrow i f x true j <| (actives i.mask f.fmt i.vshape j).map fun e =>
      let (g, k) := xtarget f x j e
      .gran g f.fmt false [(k, elemAt a f.fmt e)]

/-! ### Sampling (R154, R155) -/

/-- A candidate of VTOPK comes before another: larger value, +0 above −0, then smaller index (R154). -/
def topBefore (f : Fmt) (a b : Nat × Nat) : Bool :=
  let x := decodeFp f a.1
  let y := decodeFp f b.1
  numLt true y x || (!numLt true x y && a.2 < b.2)

def insertTop (f : Fmt) (a : Nat × Nat) : List (Nat × Nat) → List (Nat × Nat)
  | [] => [a]
  | b :: r => if topBefore f a b then a :: b :: r else b :: insertTop f a r

/-- The candidates of row j with their indices, and the flag of a NaN. -/
def topRow (i : Item) (f : VF) (x : Context) (first j : Nat) : List (Nat × Nat) × Flags :=
  let xs := (actives i.mask f.fmt i.vshape j).map fun e => (elemAt (x.gran (vaG f j)).read f.fmt e, (first + e) % 2 ^ 32)
  (xs.filter fun a => !(decodeFp f.fmt a.1).isNan, if xs.any fun a => (decodeFp f.fmt a.1).isNan then fNI else 0)

/-- VTOPK (R154). -/
def vwVtopk (i : Item) (f : VF) : VWord :=
  let block := f.fn = 1
  let k := f.imm.toNat % 16 + 1
  let base := f.imm.toNat / 16
  let put := fun (j : Nat) (cs : List (Nat × Nat)) (g : Flags) =>
    let top := cs.foldl (fun l a => (insertTop f.fmt a l).take k) []
    let out := (List.range k).map fun t => (t, top.getD t (extNone true f.fmt, 2 ^ 32 - 1))
    ({ writes := [.gran (vdG f j) f.fmt false (out.map fun o => (o.1, o.2.1)),
                  .gran (vbG f j) .u32 false (out.map fun o => (o.1, o.2.2))], flags := g } : RowOut)
  { srcs := fun j => [(vaG f j, f.fmt, false)]
    dests := fun _ j => let j := if block then 0 else j
      [(vdG f j, f.fmt, false), (vbG f j, .u32, false)]
    ports := fun j => [vaG f j]
    lat := if block then 16 else 12
    late := block
    row := fun x j =>
      if block then
        if j + 1 = shapeRows i.vshape then
          let rs := (rowsOf i).map fun j => topRow i f x (base + f.fmt.count * j) j
          put 0 (rs.flatMap Prod.fst) (rs.foldl (fun g r => g ||| r.2) 0)
        else {}
      else
        let r := topRow i f x base j
        put j r.1 r.2 }

/-- The state of a draw: prefix, prefixes so far (newest first), first +∞, flags (R155). -/
def sampleStep (s : Nat × List Nat × Option Nat × Flags) (w : Nat × Nat × Flags × Bool) :
    Nat × List Nat × Option Nat × Flags :=
  let (p, ps, pick, g) := s
  let (e, v, h, isInf) := w
  let (p', k) := fpAdd .fp32 .rne false p v
  (p', p' :: ps, if isInf && pick.isNone then some e else pick, g ||| h ||| (k &&& fOF))

/-- One weight: element number, FP32 bits, flags, whether it is +∞ (R155). -/
def sampleIn (f : Fmt) (e a : Nat) : Nat × Nat × Flags × Bool :=
  match decodeFp f a with
  | .nan => (e, 0, fNI, false)
  | v =>
    if v.neg? && !v.isZero then (e, 0, fNV, false)
    else (e, (fpConvert f .fp32 .rne false a).1, 0, match v with | .inf _ => true | _ => false)

/-- The index that a draw d picks, before the base (R155). -/
def sampleRow (f : Fmt) (d : Nat) (ws : List (Nat × Nat)) : Option Nat × Flags :=
  let (p, ps, pick, g) := (ws.map fun w => sampleIn f w.1 w.2).foldl sampleStep (0, [], none, 0)
  match pick with
  | some e => (some e, g)
  | none =>
    match decodeFp .fp32 p with
    | .fin _ 0 _ _ => (none, g ||| fNV)
    | v =>
      let (n, e) := match v with
        | .fin _ n e _ => (n, e)
        | _ => (2 ^ 24 - 1, (104 : Int))
      let theta := decodeFp .fp32 (roundTo .fp32 .rdn false (.fin false (d * n) (e - 32) false)).1
      (ps.reverse.findIdx? fun q => numLt false theta (decodeFp .fp32 q), g)

/-- VSAMPLE (R155). -/
def vwVsample (i : Item) (f : VF) : VWord where
  srcs := fun j => (vaG f j, f.fmt, false) :: if f.bs then [] else [(f.vb.toNat, .u32, false)]
  dests := fun _ _ => [(f.vd.toNat, .u32, false)]
  ports := fun j => vaG f j :: if f.bs then [] else [f.vb.toNat]
  lat := 12
  row := fun x j =>
    let d := if f.bs then i.a.toNat % 2 ^ 32 else elemAt (x.gran f.vb.toNat).read .u32 j
    let ws := (List.range f.fmt.count).map fun e =>
      (e, if active i.mask f.fmt i.vshape j e then elemAt (x.gran (vaG f j)).read f.fmt e else 0)
    let (r, g) := sampleRow f.fmt d ws
    { writes := [.gran f.vd.toNat .u32 false
        [(j, match r with | some e => (f.imm.toNat / 16 + e) % 2 ^ 32 | none => 2 ^ 32 - 1)]], flags := g }

/-! ### Issue -/

/-- VRCP (R146). -/
def execVrcp (f : VF) (s : State) : Out := issueV (.vrcp f) f [opA f, opD f] [] (govMask f) s

/-- VRSQ (R146). -/
def execVrsq (f : VF) (s : State) : Out := issueV (.vrsq f) f [opA f, opD f] [] (govMask f) s

/-- VSQRT (R146). -/
def execVsqrt (f : VF) (s : State) : Out := issueV (.vsqrt f) f [opA f, opD f] [] (govMask f) s

/-- VDIV (R146). -/
def execVdiv (f : VF) (s : State) : Out := issueV (.vdiv f) f (opsABD f) [] (govMask f) s

/-- VEXP2 (R146). -/
def execVexp2 (f : VF) (s : State) : Out := issueV (.vexp2 f) f [opA f, opD f] [] (govMask f) s

/-- VLOG2 (R146). -/
def execVlog2 (f : VF) (s : State) : Out := issueV (.vlog2 f) f [opA f, opD f] [] (govMask f) s

/-- VTANH (R146). -/
def execVtanh (f : VF) (s : State) : Out := issueV (.vtanh f) f [opA f, opD f] [] (govMask f) s

/-- VRSUM (R148). -/
def execVrsum (f : VF) (s : State) : Out := issueV (.vrsum f) f [opA f, opD f] [] (govMask f) s

/-- VRMAX (R148). -/
def execVrmax (f : VF) (s : State) : Out := issueV (.vrmax f) f [opA f, opD f] [] (govMask f) s

/-- VRMIN (R148). -/
def execVrmin (f : VF) (s : State) : Out := issueV (.vrmin f) f [opA f, opD f] [] (govMask f) s

/-- VRAMAX (R148). -/
def execVramax (f : VF) (s : State) : Out := issueV (.vramax f) f [opA f, opD f] [] (govMask f) s

/-- VSCAN (R149). -/
def execVscan (f : VF) (s : State) : Out := issueV (.vscan f) f [opA f, opD f] [] (govMask f) s

/-- VCSUM (R149). -/
def execVcsum (f : VF) (s : State) : Out := issueV (.vcsum f) f [opA f, opD f] [] (govMask f) s

/-- VPERM (R150). -/
def execVperm (f : VF) (s : State) : Out := issueV (.vperm f) f [opA f, opB f, opD f] [] (govMask f) s

/-- VSHUF (R150). -/
def execVshuf (f : VF) (s : State) : Out := issueV (.vshuf f) f [opA f, opB f, opD f] [] (govMask f) s

/-- VTRN (R151). -/
def execVtrn (f : VF) (s : State) : Out := issueV (.vtrn f) f [opA f, opD f] [] (govMask f) s

/-- VRGATH (R152). -/
def execVrgath (f : VF) (s : State) : Out := issueV (.vrgath f) f [opB f, opD f] [] (govMask f) s

/-- VRSCAT (R152). -/
def execVrscat (f : VF) (s : State) : Out := issueV (.vrscat f) f [opA f, opB f] [] (govMask f) s

/-- VTOPK (R154). -/
def execVtopk (f : VF) (s : State) : Out := issueV (.vtopk f) f [opA f, opB f, opD f] [] (govMask f) s

/-- VSAMPLE (R155). -/
def execVsample (f : VF) (s : State) : Out := issueV (.vsample f) f (opsABD f) [] (govMask f) s

/-! ### Starts and finishes -/

/-- What a queued V word does within the frame. -/
def vwordOf (i : Item) : Option VWord :=
  match i.ins with
  | .vadd f => some (vwVadd i f) | .vsub f => some (vwVsub i f) | .vmul f => some (vwVmul i f)
  | .vfma f => some (vwVfma i f) | .vfms f => some (vwVfms i f) | .vmin f => some (vwVmin i f)
  | .vmax f => some (vwVmax i f) | .vabs f => some (vwVabs i f) | .vneg f => some (vwVneg i f)
  | .vscl f => some (vwVscl i f) | .vcpy f => some (vwVcpy i f) | .vbcst f => some (vwVbcst i f)
  | .viadd f => some (vwViadd i f) | .visub f => some (vwVisub i f) | .vimul f => some (vwVimul i f)
  | .vimulh f => some (vwVimulh i f) | .vimad f => some (vwVimad i f) | .vimin f => some (vwVimin i f)
  | .vimax f => some (vwVimax i f) | .viabs f => some (vwViabs i f) | .vclz f => some (vwVclz i f)
  | .vpopc f => some (vwVpopc i f) | .vand f => some (vwVand i f) | .vor f => some (vwVor i f)
  | .vxor f => some (vwVxor i f) | .vlut3 f => some (vwVlut3 i f) | .vshl f => some (vwVshl i f)
  | .vshr f => some (vwVshr i f) | .vsar f => some (vwVsar i f) | .vrot f => some (vwVrot i f)
  | .vfshl f => some (vwVfshl i f) | .vfshr f => some (vwVfshr i f) | .vcmp f => some (vwVcmp i f)
  | .vsel f => some (vwVsel i f) | .mand f => some (vwMand i f) | .mor f => some (vwMor i f)
  | .mxor f => some (vwMxor i f) | .mnot f => some (vwMnot i f) | .mcnt f => some (vwMcnt i f)
  | .mfirst f => some (vwMfirst i f) | .vcvt f => some (vwVcvt i f) | .vqnt f => some (vwVqnt i f)
  | .vdq f => some (vwVdq i f) | .vretag f => some (vwVretag i f) | .vrcp f => some (vwVrcp i f)
  | .vrsq f => some (vwVrsq i f) | .vsqrt f => some (vwVsqrt i f) | .vdiv f => some (vwVdiv i f)
  | .vexp2 f => some (vwVexp2 i f) | .vlog2 f => some (vwVlog2 i f) | .vtanh f => some (vwVtanh i f)
  | .vrsum f => some (vwVrsum i f) | .vrmax f => some (vwVrmax i f) | .vrmin f => some (vwVrmin i f)
  | .vramax f => some (vwVramax i f) | .vscan f => some (vwVscan i f) | .vcsum f => some (vwVcsum i f)
  | .vperm f => some (vwVperm i f) | .vshuf f => some (vwVshuf i f) | .vtrn f => some (vwVtrn i f)
  | .vrgath f => some (vwVrgath i f) | .vrscat f => some (vwVrscat i f) | .vtopk f => some (vwVtopk i f)
  | .vsample f => some (vwVsample i f)
  | _ => none

/-- The granules that a V word names: those of its rows (R124). -/
def vGrans (x : Context) (i : Item) : List Nat :=
  match vwordOf i with
  | none => []
  | some w => (rowsOf i).flatMap fun j => (w.srcs j).map Prod.fst ++ (w.dests x j).map Prod.fst

/-- A word whose targets are known only from data (R152, R153). -/
def isGatherScatter : Instr → Bool
  | .vrgath _ | .vrscat _ => true
  | _ => false

/-- The step at which a word stands, if it may start: it has not started, or stands at a resumption step. -/
def startStep (i : Item) : Option (Bool × Nat) :=
  match i.phase with
  | .idle => some (true, 0)
  | .parked n => some (false, n)
  | _ => none

/-- V_WORD_START: the head V word takes its tokens and starts, or its wait is open (R30, R124, R278). -/
def startV (c : CtxLoc) (s : State) : State :=
  let x := s.ctxAt c
  match x.qv.items with
  | [] => s
  | i :: r =>
    match startStep i, vwordOf i with
    | some (fresh, n), some w =>
      if !s.engineOn c || (s.cluAt c.pcl).droop then s
      else
        match (if fresh then emptyPop x .v i.ins else none), (vGrans x i).find? fun g => (x.gran g).owner with
        | some q, _ => s.headWaits c .v wTok (queueId c.ctx q)
        | none, some g => s.headWaits c .v wOwner (winAddr (256 * g))
        | none, none =>
          let s := s.waitEnd c 0 0
          let (m, x) := takeTokens (s.ctxAt c) .v i
          let q := { x.qv with started := if fresh then x.qv.started + 1 else x.qv.started }
          match m with
          | some m =>
            (s.setCtx c { x with qv := { q with items := { i with phase := .parked 0 } :: r } }).raise c m.cause m.tval i.pc
              (some (.v, i.seq, i.pc))
          | none =>
            let i := { i with phase := .going, left := if w.late then 0 else n, time := 0, pend := [], vis := [],
                              lost := if fresh then 0 else i.lost, target := none }
            let s := s.setCtx c { x with qv := { q with items := i :: r } }
            if isPermute i.ins then s.setSub c.pcl c.sub { s.subAt c.pcl c.sub with xlog := [] } else s
    | _, _ => s

/-- V_WORD_START (R124). -/
def execVWordStart (c : CtxLoc) (s : State) : Out := atCtx c s (startV c)

/-- Contests of V and L for the crossbar, in order: a near reply wins, and of any other transfer the party that lost the last contest. The
record of the last loser, and the cycles that V loses (R153). -/
def contests : Bool → List Bool → Bool × Nat
  | v, [] => (v, 0)
  | v, near :: r =>
    let lost := near || !v
    let (w, n) := contests lost r
    (w, n + if lost then 1 else 0)

/-- A row of a permute word contests the transfers of L that the bits of a number pick from those it can have met; what lies before the
last of them is past (R153). -/
def State.contest (s : State) (c : CtxLoc) (i : Item) (picks : Nat) : State × Nat :=
  if !isPermute i.ins then (s, 0)
  else
    let u := s.subAt c.pcl c.sub
    let on := (List.range u.xlog.length).filter picks.testBit
    let (v, n) := contests u.vlost (on.map fun k => u.xlog.getD k false)
    (s.setSub c.pcl c.sub { u with xlog := u.xlog.drop ((on.getLast?.map (· + 1)).getD 0), vlost := v }, n)

/-- The head V word of a context, if it is under way. -/
def vGoing (x : Context) : Option (Item × VWord) :=
  match x.qv.items with
  | i :: _ =>
    match i.phase, vwordOf i with
    | .going, some w => some (i, w)
    | _, _ => none
  | [] => none

/-- The mask words' one step (R123). -/
def stepWord : Instr → Bool
  | .mand _ | .mor _ | .mxor _ | .mnot _ | .mcnt _ | .mfirst _ => true
  | _ => false

/-- The rows that a started word has still to read. -/
def vRows (i : Item) : List Nat := (if stepWord i.ins then [0] else rowsOf i).drop i.left

/-- Rows of a word are read, with the contests that are given, or that free values give (log 6). -/
def readRowsV (c : CtxLoc) (w : VWord) (m : Option Nat) : List Nat → State × VRun × Item → State × VRun × Item
  | [], a => a
  | j :: js, (s, r, i) =>
    if r.fault.isSome || r.target.isSome then (s, r, i)
    else
      let k := m.getD (Config.freeContests s.free)
      let free := if m.isNone && isPermute i.ins then s.free + 1 else s.free
      let (s, lost) := State.contest { s with free := free } c i k
      readRowsV c w m js (s, w.step lost r j, { i with lost := i.lost + lost })

/-- A V word is over: its flags are ORed, its pushes made, and a permute word's lost cycles sampled (R30, R83, R153). -/
def overV (c : CtxLoc) (i : Item) (r : VRun) (s : State) : State :=
  let s := if isPermute i.ins then s.sampleNat c.pcl 7 i.lost else s
  let i := (r.flush).item i
  finishHead .v c { i with left := 0 } (pushesOf .v i.ins)
    (s.setCtx c { r.flush.x with fpflags := r.x.fpflags ||| i.val })

/-- The head V word as it stands. -/
def holdV (c : CtxLoc) (r : VRun) (i : Item) (s : State) : State :=
  s.setCtx c { r.x with qv := { r.x.qv with items := setNth r.x.qv.items 0 (r.item i) } }

/-- Rows of a word are read: a fault stops it at its row, an owned target holds it, and with the last row it ends if `whole` (R30,
R127, R152). -/
def rowsV (c : CtxLoc) (n : Nat) (m : Option Nat) (whole : Bool) (s : State) : State :=
  match vGoing (s.ctxAt c) with
  | none => s
  | some (i, w) =>
    let (t, r, i) := readRowsV c w m ((vRows i).take n) (s, { VRun.of (s.ctxAt c) i with target := none }, i)
    match r.fault, r.target with
    | some f, _ =>
      let j := { r.item i with phase := .parked (if w.late then 0 else r.next), left := 0, time := 0, pend := [], vis := [] }
      (t.setCtx c { r.x with qv := { r.x.qv with items := setNth r.x.qv.items 0 j } }).raise c f.cause f.tval i.pc
        (some (.v, i.seq, i.pc))
    | none, some g => (holdV c r i t).headWaits c .v wOwner (winAddr (256 * g))
    | none, none =>
      let t := if i.target.isSome then t.waitEnd c 0 0 else t
      let r := { r with x := { r.x with waits := (t.ctxAt c).waits } }
      if whole && (vRows (r.item i)).isEmpty then overV c i r t else holdV c r i t

/-- V_WORD_FINISH: the rows that are left are read, and the word ends; or its pushes are made again (R123, R125, R127, R145). -/
def finishV (c : CtxLoc) (s : State) : State :=
  match rePush .v c s with
  | some s' => s'
  | none => if s.engineOn c then rowsV c 2048 none true s else s

/-- V_WORD_FINISH (R123, R125, R127, R145). -/
def execVWordFinish (c : CtxLoc) (s : State) : Out := atCtx c s (finishV c)

/-- A V word reads its next row, before its last (R32, R125). -/
def goOnV (c : CtxLoc) (picks : Nat) (s : State) : State :=
  if s.engineOn c then rowsV c 1 (some picks) false s else s

/-- The earliest write of a V word under way is made, when it falls before the next row is read (R32, R125). -/
def writeV (c : CtxLoc) (s : State) : State :=
  match vGoing (s.ctxAt c) with
  | none => s
  | some (i, _) =>
    match i.pend with
    | [] => s
    | p :: r =>
      if !s.engineOn c || !((vRows i).isEmpty || p.1 < i.time) then s
      else
        let x := p.2.2.foldl Context.make (s.ctxAt c)
        s.setCtx c { x with qv := { x.qv with items := setNth x.qv.items 0 { i with pend := r, val := i.val ||| flagsIn p.2.2 } } }

/-- One quarter of the granules that the earliest write of a V word touches is written before the others (R32). -/
def writeVQuarter (c : CtxLoc) (q : Nat) (s : State) : State :=
  match vGoing (s.ctxAt c) with
  | none => s
  | some (i, _) =>
    match i.pend with
    | [] => s
    | p :: r =>
      if !s.engineOn c || !((vRows i).isEmpty || p.1 < i.time) then s
      else
        let x := (p.2.2.filterMap fun w => (w.split q).map Prod.fst).foldl Context.make (s.ctxAt c)
        let ws := p.2.2.map fun w => ((w.split q).map Prod.snd).getD w
        s.setCtx c { x with qv := { x.qv with items := setNth x.qv.items 0 { i with pend := (p.1, p.2.1, ws) :: r } } }

/-- A V word under way at a halt: the rows read before its stop are written on schedule; with all of them it finishes,
else it stands at the next row (R345). -/
def stopV (c : CtxLoc) (n : Nat) (s : State) : State :=
  match vGoing (s.ctxAt c) with
  | none => s
  | some (i, w) =>
    let rows := if stepWord i.ins then vRows i else (vRows i).take n
    let (t, r, i) := readRowsV c w none rows (s, { VRun.of (s.ctxAt c) i with target := none }, i)
    let r := r.flush
    if r.fault.isNone && r.target.isNone && (vRows (r.item i)).isEmpty then overV c i r t
    else
      let j := { r.item i with phase := .parked r.next, left := 0, time := 0, pend := [], vis := [], target := none }
      t.setCtx c { r.x with qv := { r.x.qv with items := setNth r.x.qv.items 0 j } }

end Sys2Proof.Machine
end

