-- ==== Sys2Proof/Machine/VMemory.lean ====
section
/-!
DEFINITION. Issue of the vector memory words (R156 to R158): the window check, the address checks and the data watch, and
what the words capture for the L engine.
-/
namespace Sys2Proof.Machine

/-- Two places of one aperture (R157): remote memory is one aperture, whichever the modules (R214). -/
def samePlace : Place → Place → Bool
  | .dev _, .dev _ => true
  | .remote _ _, .remote _ _ => true
  | .moss _, .moss _ => true
  | .win _, .win _ => true
  | _, _ => false

/-- The checks of one row at issue: the span from the first to the last active byte in one aperture, the alignment, the
data watch on the parts (R157, R357). -/
def rowAddrCheck (x : Context) (kinds n : Nat) (a : Word) (ps : List LPart) : Option Flt :=
  match ps.head?, ps.getLast? with
  | some p, some q =>
    let last := q.addr + BitVec.ofNat 64 (q.n - 1)
    let one := match placeOf x.wsize p.addr, placeOf x.wsize last with
      | some u, some v => samePlace u v
      | _, _ => false
    if !one then some ⟨0x06, a⟩
    else if a.toNat % n != 0 then some ⟨0x07, a⟩
    else
      lowestWatch (ps.map fun p =>
        match placeOf x.wsize p.addr with
        | none => none
        | some u => (watchHit x kinds u p.n).map fun d => Flt.mk 0x17 (p.addr + BitVec.ofNat 64 d))
  | _, _ => none

/-- A vector memory word at issue: the window check, a poisoned governing mask, whose number is `etval`, its address checks row by row;
then the L queue with the values that it captures (R20, R26, R157, R159). The spec gives neither the place of the mask's check among
these nor its `etval` (log 40). -/
def issueVM (i : Instr) (f : VF) (ops : List (Nat × Nat)) (rows : Context → List (Option Flt)) (stride : Bool)
    (d : Context → Word) (mask : Context → Mask) (s : State) : Out :=
  issue i s fun s =>
    match rowCheck s.cx.wsize (shapeRows s.cx.vshape) ops with
    | some g => .next (s.fault 0x06 (BitVec.ofNat 64 g))
    | none =>
      if f.mask != 0 && s.cx.mbad.getLsbD f.mask.toNat then .next (s.fault 0x0E (f.mask.setWidth 64))
      else
        match lowestWatch (rows s.cx) with
        | some e => .next (s.fault e.cause e.tval)
        | none =>
          .next (enqueue .l i 3 (s.cx.rg (f.va.setWidth 5)) (if stride then s.cx.rg (f.vb.setWidth 5) else 0) (d s.cx)
            (mask s.cx) s)

/-- The address of row j (R156). -/
def rowAddr (f : VF) (x : Context) (j : Nat) : Word :=
  x.rg (f.va.setWidth 5) + simm f + BitVec.ofNat 64 j * x.rg (f.vb.setWidth 5)

/-- The checks of the rows of VLD or VST. -/
def vldChecks (f : VF) (kinds : Nat) (x : Context) : List (Option Flt) :=
  (List.range (shapeRows x.vshape)).map fun j =>
    rowAddrCheck x kinds (esize f.fmt) (rowAddr f x j)
      (rowParts (fun _ => false) f x.vshape (govMask f x) (x.rg (f.va.setWidth 5)) (x.rg (f.vb.setWidth 5)) j)

/-- The checks of the rows of MLD or MST: the whole 16 bytes. -/
def mldChecks (f : VF) (kinds : Nat) (x : Context) : List (Option Flt) :=
  (List.range (shapeRows x.vshape)).map fun j => rowAddrCheck x kinds 16 (rowAddr f x j) [{ row := j, off := 0, n := 16, addr := rowAddr f x j }]

/-- VLD (R156). -/
def execVld (f : VF) (s : State) : Out :=
  issueVM (.vld f) f [opD f] (vldChecks f 1) true (fun _ => 0) (govMask f) s

/-- VST (R156). -/
def execVst (f : VF) (s : State) : Out :=
  issueVM (.vst f) f [opD f] (vldChecks f 2) true (fun _ => 0) (govMask f) s

/-- VLDX: its addresses are checked when the L engine reads vi (R157). -/
def execVldx (f : VF) (s : State) : Out :=
  issueVM (.vldx f) f [opB f, opD f] (fun _ => []) false (fun _ => 0) (govMask f) s

/-- VSTX (R157). -/
def execVstx (f : VF) (s : State) : Out :=
  issueVM (.vstx f) f [opB f, opD f] (fun _ => []) false (fun _ => 0) (govMask f) s

/-- MLD (R156). -/
def execMld (f : VF) (s : State) : Out :=
  issueVM (.mld f) f [] (mldChecks f 1) true (fun _ => 0) (fun _ => 0) s

/-- MST: the mask register, and whether it is poisoned, are captured at issue (R26, R159). -/
def execMst (f : VF) (s : State) : Out :=
  issueVM (.mst f) f [] (mldChecks f 2) true
    (fun x => b2w (f.vd != 0 && x.mbad.getLsbD f.vd.toNat)) (fun x => x.mreg f.vd.toNat) s

end Sys2Proof.Machine
end

