-- ==== Sys2Proof/Machine/Matrix.lean ====
section
/-!
DEFINITION. The matrix array and its words (R84 to R86, R162 to R176), and the leave and the current slots of a step
(R171, R172, R295, R297).
-/
namespace Sys2Proof.Machine

/-! ### Formats, tiles and views (R162 to R164) -/

/-- What a tile format brings: values of k in a k-block and in a group, rated energy, minimum class, and whether it is
integer (R162). -/
structure MKind where
  k     : Nat
  g     : Nat
  rated : Nat
  cls   : Nat
  int   : Bool := false
  deriving DecidableEq, Repr

def mkindOf : Fmt → Option MKind
  | .u8 | .i8 => some ⟨32, 32, 28, 2, true⟩
  | .fp16 | .bf16 => some ⟨16, 4, 30, 2, false⟩
  | .e4m3 | .e5m2 => some ⟨32, 8, 34, 3, false⟩
  | .q4 => some ⟨64, 32, 44, 3, false⟩
  | _ => none

/-- The B formats that an A format takes (R162). -/
def mpair (a b : Fmt) : Bool :=
  match a, b with
  | .u8, .u8 | .u8, .i8 | .i8, .u8 | .i8, .i8 | .fp16, .fp16 | .bf16, .bf16
  | .e4m3, .e4m3 | .e4m3, .e5m2 | .e5m2, .e4m3 | .e5m2, .e5m2 | .q4, .q4 => true
  | _, _ => false

/-- Fields of a tile view (R15). -/
def viewFmt (v : Word) : Fmt := Fmt.ofCode (BitVec.ofNat 4 (bitsOf v 21 4))
def viewBlocks (v : Word) : Nat := bitsOf v 13 8 + 1

/-- Granule n of a tile: half n mod 2 of k-block ⌊n/2⌋ (R163). -/
def tileG (v : Word) (n : Nat) : Nat := bitsOf v 0 9 + n / 2 * bitsOf v 9 4 + n % 2

/-- The scale granule of code granule n (R72, R163). -/
def tileS (v : Word) (n : Nat) : Nat := bitsOf v 25 9 + n / 16

/-- The granules of a tile of nb k-blocks, and its scale granules. -/
def tileGrans (v : Word) (nb : Nat) : List Nat := (List.range (2 * nb)).map (tileG v)
def tileScales (v : Word) (nb : Nat) : List Nat := if viewFmt v = .q4 then (List.range (2 * nb)).map (tileS v) else []

/-- The visible bank of a view (R16). -/
def visible (av : Word) : List Nat := (List.range 4).map (bitsOf av 0 9 + ·)

/-- The placement check of a visible bank (R16). -/
def visCheck (wsize : Nat) (av : Word) (k : BitVec 3) : Option Flt :=
  let g := bitsOf av 0 9
  if wsize ≤ g + 3 then some ⟨0x06, k.setWidth 64⟩
  else if g / 48 != (g + 3) / 48 then some ⟨0x05, k.setWidth 64⟩
  else none

/-- Illegal instruction with the parcel of its lowest offending bit (R41). -/
def illegalAt (i : Instr) (parcel : Nat) : Word := putBits (illegal i) 32 3 parcel

/-- k-blocks of a step (R163). -/
def blocksOf (f : MF) (k : MKind) : Nat := f.k.toNat / k.k

/-- Every granule of a list lies in the bank group of the first (R19). -/
def oneGroup (gs : List Nat) : Bool := gs.all fun g => g / 48 = gs.headD 0 / 48

/-- The checks of a step at issue, in the order of R174: formats, K and blocks, taps, window, groups, visible bank,
declared energy and class. Where several granules lie outside the window, `etval` is the first of the A tile, the B tile, A's scales and
B's scales in that order; where both tiles cross a bank group, it is A's view (R164; DESIGN CHOICE, log 50). -/
def stepCheck (i : Instr) (f : MF) (wsize : Nat) (va vb av : Word) : Option Flt :=
  match mkindOf (viewFmt va) with
  | none => some ⟨0x01, illegalAt i 0⟩
  | some k =>
    let nb := blocksOf f k
    let ta := tileGrans va nb
    let tb := tileGrans vb nb
    if !mpair (viewFmt va) (viewFmt vb) || f.int != k.int || (viewFmt va = .q4 && (f.trA || f.trB)) then
      some ⟨0x01, illegalAt i 0⟩
    else if f.k = 0 || f.k.toNat % k.k != 0 || viewBlocks va < nb || viewBlocks vb < nb ||
        f.tapA.toNat > f.tapB.toNat + 32 || f.tapB.toNat > f.tapA.toNat + 32 then some ⟨0x01, illegalAt i 1⟩
    else
      match (ta ++ tb ++ tileScales va nb ++ tileScales vb nb).find? fun g => wsize ≤ g with
      | some g => some ⟨0x06, BitVec.ofNat 64 g⟩
      | none =>
        if !oneGroup ta then some ⟨0x05, f.tA.setWidth 64⟩
        else if !oneGroup tb then some ⟨0x05, f.tB.setWidth 64⟩
        else if ta.headD 0 / 48 = tb.headD 0 / 48 then
          some ⟨0x05, BitVec.ofNat 64 (0x100 + 16 * f.tB.toNat + f.tA.toNat)⟩
        else
          (if f.swap then visCheck wsize av f.acc else none).or
            (if f.en.toNat < nb * k.rated || f.cc.toNat < k.cls then
              some ⟨0x13, BitVec.ofNat 64 (k.cls * 2 ^ 32 + nb * k.rated)⟩
            else none)

/-- A step at issue: its checks, then the M queue with its three views, and the check of R172 where it is the head (R26, R174). -/
def issueStep (i : Instr) (f : MF) (s : State) : Out :=
  issue i s fun s =>
    let va := tget s.cx.tviews f.tA.toNat 0
    let vb := tget s.cx.tviews f.tB.toNat 0
    let av := tget s.cx.aviews f.acc.toNat 0
    match stepCheck i f s.cx.wsize va vb av with
    | some e => .next (s.fault e.cause e.tval)
    | none => .next (checkHead s.focus (enqueue .m i 6 va vb av 0 s))

/-- An accumulator word at issue (R16, R175). -/
def issueAcc (i : Instr) (f : AF) (s : State) : Out :=
  issue i s fun s =>
    let av := tget s.cx.aviews f.acc.toNat 0
    match visCheck s.cx.wsize av f.acc with
    | some e => .next (s.fault e.cause e.tval)
    | none => .next (enqueue .m i 6 0 0 av 0 s)

/-- MMA (R174). -/
def execMma (f : MF) (s : State) : Out := issueStep (.mma f) f s

/-- MMAZ (R174). -/
def execMmaz (f : MF) (s : State) : Out := issueStep (.mmaz f) f s

/-- ACLR (R175). -/
def execAclr (f : AF) (s : State) : Out := issueAcc (.aclr f) f s

/-- ASWAP (R175). -/
def execAswap (f : AF) (s : State) : Out := issueAcc (.aswap f) f s

/-- ADRAIN (R175). -/
def execAdrain (f : AF) (s : State) : Out := issueAcc (.adrain f) f s

/-! ### What a step computes (R84 to R86, R163, R174) -/

/-- A tile as a step has read it: format, transposition, code granules and the scale granule of each (R163). -/
structure Tile where
  fmt    : Fmt
  tr     : Bool
  codes  : List GranData
  scales : List GranData
  deriving DecidableEq, Repr

/-- The cycle, counted from u, in which quarter p of granule n is read by a tap (R167). -/
def tapCycle (tap n p : Nat) : Nat := tap + 16 * (n / 2) + 4 * (n % 2) + p

/-- The low `p` quarters of one granule with the rest of another. -/
def mixQuarters (p : Nat) (old new : GranData) : GranData :=
  (List.range p).foldl (fun d q => putAt d (512 * q) 512 (getAt old (512 * q) 512)) new

/-- A tile of nb k-blocks: what its tap read in the first `t` cycles, kept in `cap`, each code granule followed by its scale granule,
and the rest as the window stands (R167, R168). -/
def tileOf (x : Context) (v : Word) (tr : Bool) (nb tap t : Nat) (cap : List GranData) : Tile :=
  let seen := fun (n : Nat) => ((List.range 4).filter fun p => tapCycle tap n p < t).length
  { fmt := viewFmt v, tr := tr
    codes := (List.range (2 * nb)).map fun n => mixQuarters (seen n) (cap.getD (2 * n) 0) (x.gran (tileG v n)).read
    scales := (List.range (2 * nb)).map fun n => if seen n = 0 then (x.gran (tileS v n)).read else cap.getD (2 * n + 1) 0 }

/-- Bits of the element for line l at offset c of tile granule n (R163). -/
def tileElem (t : Tile) (n l c : Nat) : Nat :=
  let d := t.codes.getD n 0
  if t.fmt = .q4 then getAt d (4 * (32 * l + c)) 4
  else
    let z := t.fmt.bits / 8
    getAt d (8 * (if t.tr then 16 * z * c + l * z else 16 * l + c * z)) t.fmt.bits

/-- Its value with the flags of reading it; a NaN scale makes a NaN (R73, R85). -/
def tileNum (t : Tile) (n l c : Nat) : Num × Flags :=
  let e := tileElem t n l c
  if t.fmt = .q4 then q4Decode (elemAt (t.scales.getD n 0) .u8 (16 * (n % 16) + l)) e
  else (decodeFp t.fmt e, 0)

/-- The sum of a group: the cause of a NaN (0 for none), an infinity, or the exact value, and flags (R80, R84, R85). An invalid
operation sets nv beside the flag of the delivered cause, whichever that is (DESIGN CHOICE, log 43). -/
def groupSum (q4 : Bool) (ps : List (Num × Num)) : Nat × Option Bool × Num × Flags :=
  let isNan := ps.any fun p => p.1.isNan || p.2.isNan
  let prods := (ps.filter fun p => !(p.1.isNan || p.2.isNan)).map fun p => mulNum p.1 p.2
  let zeroInf := prods.any Num.isNan
  let pos := prods.any fun v => match v with | .inf false => true | _ => false
  let neg := prods.any fun v => match v with | .inf true => true | _ => false
  let cause := if isNan then (if q4 then 2 else 1) else if pos && neg then 3 else if zeroInf then 4 else 0
  let fl := (if isNan && !q4 then fNI else 0) ||| (if zeroInf || (pos && neg) then fNV else 0)
  let sum := prods.foldl
    (fun s v => match s, v with
      | .fin g n e _, .fin h m y _ => addFin .rne g n e h m y
      | s, _ => s) (.fin false 0 0 false)
  let sum := if sum.isZero then .fin false 0 0 false else sum
  (cause, if pos then some false else if neg then some true else none, sum, fl)

/-- c := Round(c + s, FP32, RNE) (R84). Where s is a generated NaN and c is none, the cause of s is delivered, and ni is set for cause 1
only (DESIGN CHOICE, log 43). -/
def accumulate (c : Nat) (s : Nat × Option Bool × Num × Flags) : Nat × Flags :=
  let x := decodeFp .fp32 c
  if x.isNan then nanOut .fp32 1 (fNI ||| s.2.2.2)
  else if s.1 != 0 then nanOut .fp32 s.1 s.2.2.2
  else
    let y := match s.2.1 with | some g => .inf g | none => s.2.2.1
    let (v, g) := sumNum .fp32 .rne false x y
    (v, g ||| s.2.2.2)

/-- k-block s of element (i, j): its groups in order (R84 to R86). -/
def blockStep (k : MKind) (ta tb : Tile) (i j : Nat) (c : Nat × Flags) (s : Nat) : Nat × Flags :=
  let q := k.k / 2
  (List.range (k.k / k.g)).foldl
    (fun c g =>
      let ks := (List.range k.g).map fun t => g * k.g + t
      if k.int then
        let sum : Int := ks.foldl
          (fun a t => a + intOf ta.fmt (tileElem ta (2 * s + t / q) i (t % q)) *
            intOf tb.fmt (tileElem tb (2 * s + t / q) j (t % q))) 0
        (((c.1 + sum) % 2 ^ 32).toNat, c.2)
      else
        let ps := ks.map fun t =>
          (tileNum ta (2 * s + t / q) i (t % q), tileNum tb (2 * s + t / q) j (t % q))
        let (v, h) := accumulate c.1 (groupSum (ta.fmt = .q4) (ps.map fun p => (p.1.1, p.2.1)))
        (v, ps.foldl (fun g p => g ||| p.1.2 ||| p.2.2) (c.2 ||| h))) c

/-- D of R167. -/
def tapMax (f : MF) : Nat := max f.tapA.toNat f.tapB.toNat

/-- The k-blocks of element (i, j) that are complete at a stop in cycle u + t (R173). -/
def blocksDone (f : MF) (nb i j t : Nat) : Nat := min nb ((t - (tapMax f + i + j + 15) + 15) / 16)

/-- The accumulator's words after k-blocks `m0 i j` to `m1 i j - 1` of each active element, and the flags (R173, R174). -/
def stepWords (f : MF) (k : MKind) (ta tb : Tile) (m0 m1 : Nat → Nat → Nat) (d : BankData) :
    BankData × Flags :=
  ((List.range (f.rows.toNat + 1)).flatMap fun i => (List.range (f.cols.toNat + 1)).map fun j => (i, j)).foldl
    (fun a e =>
      let (i, j) := e
      let ss := (List.range (m1 i j)).drop (m0 i j)
      let (v, g) := ss.foldl (blockStep k ta tb i j) (getAt a.1 (32 * (16 * i + j)) 32, a.2)
      (putAt a.1 (32 * (16 * i + j)) 32 v, g)) (d, 0)

/-- The check of a tile granule in the cycle in which its quarter 0 is read, and of its scale granule (R168). -/
def tapCheck (x : Context) (v : Word) (n : Nat) : Option Flt :=
  let chk := fun (g : Nat) (t : Fmt) =>
    if (x.gran g).poison then some (Flt.mk 0x0E (BitVec.ofNat 64 g))
    else if tagOk (x.gran g) t false then none
    else some ⟨0x04, BitVec.ofNat 64 g⟩
  (chk (tileG v n) (viewFmt v)).or (if viewFmt v = .q4 then chk (tileS v n) .u8 else none)

/-- A tap reads in cycle `t` of a step: quarter 0 with its checks, later quarters over what it has read (R167, R168). -/
def tapRead (x : Context) (v : Word) (nb tap t : Nat) (cap : List GranData) : Except Flt (List GranData) :=
  let o := t - tap
  let n := 2 * (o / 16) + o % 16 / 4
  if t < tap || 8 ≤ o % 16 || 2 * nb ≤ n then .ok cap
  else
    let d := (x.gran (tileG v n)).read
    if o % 4 = 0 then
      match tapCheck x v n with
      | some e => .error e
      | none => .ok (cap ++ [d, (x.gran (tileS v n)).read])
    else .ok (setNth cap (2 * n) (mixQuarters (o % 4) (cap.getD (2 * n) 0) d))

/-- The checks of the granules that a step has not read in its first `t0` cycles, in their cycles: the earliest that fails; where both
taps read in one cycle, that of A (R167, R168). -/
def tapFault (x : Context) (f : MF) (va vb : Word) (nb t0 : Nat) : Option (Nat × Flt) :=
  let one := fun (v : Word) (tap n : Nat) =>
    if tapCycle tap n 0 < t0 then none else (tapCheck x v n).map fun e => (tapCycle tap n 0, e)
  let all := (List.range (2 * nb)).filterMap (one va f.tapA.toNat) ++ (List.range (2 * nb)).filterMap (one vb f.tapB.toNat)
  all.foldl (fun b e => match b with | some m => if e.1 < m.1 then some e else b | none => some e) none

/-! ### Visible banks (R165, R175) -/

/-- A visible granule takes rows 4m to 4m + 3 of a bank (R165). -/
def Context.putVisible (x : Context) (g : Nat) (b : Bank) (m : Nat) : Context :=
  x.setGran g { x.gran g with
    data := if b.fmt = .empty then 0 else (b.data >>> (2048 * m)).setWidth 2048, fmt := b.fmt, poison := b.bad }

/-- The format of a visible granule, as an exchange has read it. -/
def seenFmt : Nat × Nat × List VWrite → Fmt
  | (_, _, .tag _ t :: _) => t
  | _ => .empty

/-- The check of a visible granule that an exchange reads: poisoned, or tagged with another format than FP32 or I32, or with one of
them where an earlier granule has the other (R175). -/
def swapCheck (x : Context) (seen : List Fmt) (g : Nat) : Option Flt :=
  let t := x.gran g
  if t.poison then some ⟨0x0E, BitVec.ofNat 64 g⟩
  else if t.fmt = .empty || (t.fmt = .fp32 && !seen.contains .i32) || (t.fmt = .i32 && !seen.contains .fp32) then none
  else some ⟨0x04, BitVec.ofNat 64 g⟩

/-- Cycle `t` of the exchange of working bank k with its visible bank: four reads, then four writes, granule by granule; the bank has
its new format with the last (R175). What was read, and the format that the bank had, stay with the word. -/
def swapCycle (k : Nat) (av : Word) (t : Nat) (x : Context) (i : Item) : Except Flt (Context × Item) :=
  let g := bitsOf av 0 9 + t % 4
  let b := x.bank k
  if t < 4 then
    match swapCheck x (i.pend.map seenFmt) g with
    | some e => .error e
    | none =>
      .ok (x, { i with time := t + 1, vis := i.vis ++ [(x.gran g).read],
                       pend := i.pend ++ [(t, 0, [.tag g (x.gran g).fmt])] ++ (if t = 3 then [(4, 0, [.tag g b.fmt])] else []) })
  else
    let m := t - 4
    let fmts := i.pend.map seenFmt
    let y := x.putVisible g { b with fmt := fmts.getD 4 .empty } m
    let new : Bank := { b with data := putAt b.data (2048 * m) 2048 (i.vis.getD m 0).toNat }
    let new : Bank := if m = 3 then ⟨new.data, ((fmts.take 4).find? (· != .empty)).getD .empty, false⟩ else new
    .ok (y.setBank k new, { i with time := t + 1 })

/-- The cycles of an exchange that are left. -/
def swapRest (k : Nat) (av : Word) : Nat → Context → Item → Except Flt (Context × Item)
  | 0, x, i => .ok (x, i)
  | n + 1, x, i =>
    match swapCycle k av i.time x i with
    | .error e => .error e
    | .ok (y, j) => swapRest k av n y j

/-- A word or step makes the rest of its exchange. -/
def exchange (k : Nat) (x : Context) (i : Item) : Except Flt Context := (swapRest k i.d (8 - i.time) x i).map Prod.fst

/-- Cycle `t` of ADRAIN: visible granule t takes its rows of the bank (R175). -/
def drainCycle (k : Nat) (av : Word) (t : Nat) (x : Context) : Context := x.putVisible (bitsOf av 0 9 + t) (x.bank k) t

/-- The cycles of ADRAIN that are left. -/
def drainRest (k : Nat) (x : Context) (i : Item) : Context :=
  ((List.range 4).drop i.time).foldl (fun x t => drainCycle k i.d t x) x

/-! ### Leave and slots of a step (R171, R172, R295 to R297) -/

/-- Slots of a class that the cluster has (R294), and those that are held. -/
def Cluster.slotCount (cl : Cluster) (c : Nat) : Nat := bitsOf cl.leaveslot (8 * (c - 1)) 8
def Cluster.slotsHeldOf (cl : Cluster) (c : Nat) : Nat := tget cl.slotsHeld c 0

/-- A slot of a class is free; class 0 takes none (R295). -/
def Cluster.slotFree (cl : Cluster) (c : Nat) : Bool := c = 0 || cl.slotsHeldOf c < cl.slotCount c

/-- Takes or returns a slot. -/
def Cluster.takeSlot (cl : Cluster) (c : Nat) : Cluster :=
  if c = 0 then cl else { cl with slotsHeld := tset cl.slotsHeld c (cl.slotsHeldOf c + 1) 0 }
def Cluster.giveSlot (cl : Cluster) (c : Nat) : Cluster :=
  if c = 0 then cl else { cl with slotsHeld := tset cl.slotsHeld c (cl.slotsHeldOf c - 1) 0 }

/-- A step is covered: the reservation, and the unreserved account unless another context's head is first (R297). -/
def covered (u : SubCore) (ctx resv en : Nat) : Bool :=
  en ≤ resv + (match u.first with | some k => if k = ctx then u.account else 0 | none => u.account)

/-- The context's M head no longer waits for leave. -/
def SubCore.noWait (u : SubCore) (ctx : Nat) : SubCore := { u with waiters := u.waiters.filter fun w => w.1 != ctx }

/-- The context's M head waits for leave. -/
def SubCore.waitFor (u : SubCore) (ctx : Nat) : SubCore :=
  if u.waiters.any fun w => w.1 = ctx then u else { u with waiters := u.waiters ++ [(ctx, false)] }

/-- A step draws its energy, from the reservation first (R171, R297). -/
def State.drawLeave (s : State) (c : CtxLoc) (en : Nat) : State :=
  let r := min (s.ctxAt c).resv en
  let u := (s.subAt c.pcl c.sub).noWait c.ctx
  (s.setSub c.pcl c.sub { u with account := u.account - (en - r), drawn := u.drawn + en }).onCtx c fun x =>
    { x with resv := x.resv - r }

/-! ### Starts and finishes -/

/-- A queued M word as an accumulator word. -/
def accOfM : Instr → Option AF
  | .aclr f | .aswap f | .adrain f => some f
  | _ => none

/-- The granules that an M word reads or writes (R169). -/
def mGrans (i : Item) : List Nat :=
  match i.ins with
  | .mma f | .mmaz f =>
    match mkindOf (viewFmt i.a) with
    | none => []
    | some k =>
      let nb := blocksOf f k
      tileGrans i.a nb ++ tileGrans i.b nb ++ tileScales i.a nb ++ tileScales i.b nb ++ (if f.swap then visible i.d else [])
  | .aswap _ | .adrain _ => visible i.d
  | _ => []

/-- A step that has taken its energy: it has started before (R173). -/
def Item.drawn (i : Item) (n : Nat) : Bool := 2 ≤ i.lost || n != 0

/-- Word `k` of the M queue starts, its conditions met: a step with its bank format, its energy and its slot; or the fault of an
error-marked token (R166, R171, R173, R174, R278). The next word is the head. -/
def beginM (c : CtxLoc) (k : Nat) (i : Item) (fresh : Bool) (n : Nat) (s : State) : State :=
  let (m, x) := takeTokens (s.ctxAt c) .m i
  let x := { x with qm := { x.qm with started := if fresh then x.qm.started + 1 else x.qm.started } }
  match m with
  | some m => (s.setCtx c (x.setMItem k { i with phase := .parked 0 })).raise c m.cause m.tval i.pc (some (.m, i.seq, i.pc))
  | none =>
    let j := { i with phase := .going, left := n, time := 0, vis := [], rows := [], pend := [], target := none, lost := 2 }
    let s := s.setCtx c (x.setMItem k j)
    match stepOf i.ins with
    | none => checkHead c s
    | some (f, _) =>
      let s := if i.drawn n then s.setSub c.pcl c.sub ((s.subAt c.pcl c.sub).noWait c.ctx) else s.drawLeave c f.en.toNat
      let s := s.onClu c.pcl fun cl => cl.takeSlot f.cc.toNat
      let s := s.onCtx c fun x =>
        let b := x.bank f.acc.toNat
        x.setBank f.acc.toNat { b with fmt := if f.int then .i32 else .fp32 }
      checkHead c s

/-- The words ahead of an M word let it start: steps that have started, the last without an exchange on its accumulator; for an
accumulator word none at all (R169, condition 1). -/
def mOrder (ahead : List Item) (i : Item) : Bool :=
  let ws := ahead.filter fun a => !Instr.isPoint a.ins
  match stepOf i.ins with
  | none => ws.isEmpty
  | some (f, _) =>
    (ws.all fun a => (stepOf a.ins).isSome && (match a.phase with | .going => true | _ => false)) &&
    !(ws.getLast?.any fun a => (stepOf a.ins).any fun g => g.1.swap && g.1.acc = f.acc)

/-- M_WORD_START: the check of the head, order, tokens, ownership, droop, and for a step its slot and leave, and then its bank format
(R166, R169, R172). A bank in the other format raises its fault before a token is popped, so that of a step with both that fault and an
error-marked token (R278) it is the one raised, and the token stays (DESIGN CHOICE, log 50). -/
def startM (c : CtxLoc) (s : State) : State :=
  let s := if s.engineOn c then checkHead c s else s
  match mNext (s.ctxAt c) with
  | none => s
  | some (k, i) =>
    match startStep i with
    | none => s
    | some (fresh, n) =>
      if !s.engineOn c || (s.cluAt c.pcl).droop || ((stepOf i.ins).isNone && (accOfM i.ins).isNone) ||
          !mOrder ((s.ctxAt c).qm.items.take k) i then s
      else
        let x := s.ctxAt c
        match (if fresh then emptyPop x .m i.ins else none), (mGrans i).find? fun g => (x.gran g).owner with
        | some q, _ => s.headWaits c .m wTok (queueId c.ctx q)
        | none, some g => s.headWaits c .m wOwner (winAddr (256 * g))
        | none, none =>
          match stepOf i.ins with
          | none => beginM c k i fresh n (s.waitEnd c 1 0)
          | some (f, _) =>
            let b := x.bank f.acc.toNat
            if !(s.cluAt c.pcl).slotFree f.cc.toNat ||
                (!i.drawn n && !covered (s.subAt c.pcl c.sub) c.ctx x.resv f.en.toNat) then
              (s.setSub c.pcl c.sub ((s.subAt c.pcl c.sub).waitFor c.ctx)).headWaits c .m wLeave
                (BitVec.ofNat 64 (f.cc.toNat * 2 ^ 32 + f.en.toNat))
            else if b.fmt != .empty && b.fmt != (if f.int then .i32 else .fp32) then
              s.raise c 0x04 (f.acc.setWidth 64) i.pc (some (.m, i.seq, i.pc))
            else
              let waited : Bool := match tfind x.waits 1 with | some w => w.1 == wLeave | none => false
              let s := if waited then s.sampleFree c.pcl 5 else s.sampleNat c.pcl 5 0
              beginM c k i fresh n (s.waitEnd c 1 0)

/-- M_WORD_START (R169). -/
def execMWordStart (c : CtxLoc) (s : State) : Out := atCtx c s (startM c)

/-- The oldest M word of a context, if it is under way. -/
def mGoing (x : Context) : Option Item :=
  match x.qm.items with
  | i :: _ => match i.phase with | .going => some i | _ => none
  | [] => none

/-- The finish cycle f of a step, counted from u (R167). -/
def finishCycle (f : MF) (nb : Nat) : Nat := tapMax f + 16 * nb + 33

/-- A started step at cycle `sig` after its start, or at the end of its schedule: the context with the bank's words, the flags, and the
stop cycle and fault where it stops. A check that has failed stops it in that check's cycle. A step that has reached its finish cycle by then does not stop (R168, R173). An MMAZ zeroes with
its first start (R174). -/
def stepEnd (x : Context) (i : Item) (f : MF) (z : Bool) (sig : Option Nat) : Context × Flags × Option (Nat × Option Flt) :=
  match mkindOf (viewFmt i.a) with
  | none => (x, 0, none)
  | some k =>
    let nb := blocksOf f k
    let bad := match i.fault with
      | some e => some (i.time, e)
      | none => tapFault x f i.a i.b nb i.time
    let stop : Option (Nat × Option Flt) :=
      match sig, bad with
      | some t, some (u, e) => if u < t then some (u, some e) else some (max t i.time, none)
      | some t, none => if finishCycle f nb ≤ t then none else some (max t i.time, none)
      | none, some (u, e) => some (u, some e)
      | none, none => none
    let m0 := fun a b => blocksDone f nb a b i.left
    let m1 := match stop with
      | some (t, _) => fun a b => blocksDone f nb a b t
      | none => fun _ _ => nb
    let b := x.bank f.acc.toNat
    let b := if z && i.left = 0 then { b with data := 0, bad := false } else b
    let (d, g) := stepWords f k (tileOf x i.a f.trA nb f.tapA.toNat i.time i.vis)
      (tileOf x i.b f.trB nb f.tapB.toNat i.time (i.rows.map RowData.data)) m0 m1 b.data
    (x.setBank f.acc.toNat { b with data := d }, g, stop)

/-- The resumption step of a step that has its result, all of its k-blocks applied, and its exchange to make. R175 gives no σ − u for it:
the model takes one by which every cell is over, and the retry makes the exchange alone again (DESIGN CHOICE, log 50). -/
def swapStep (f : MF) : Nat := tapMax f + 5000

/-- Started M word `k` stands at a resumption step. -/
def Context.parkM (x : Context) (k : Nat) (i : Item) (n : Nat) : Context :=
  x.setMItem k { i with phase := .parked n, left := 0, time := 0, vis := [], rows := [], pend := [], target := none, val := 0, fault := none }

/-- The M word at the head of the queue is over, with its flags and its pushes (R30, R83). -/
def overM (c : CtxLoc) (i : Item) (x : Context) (s : State) : State :=
  finishHead .m c { i with left := 0 } (pushesOf .m i.ins) (s.setCtx c { x with fpflags := x.fpflags ||| i.val })

/-- The exchange of a step is made, or its fault ends the step, whose result stays (R175). -/
def endSwap (c : CtxLoc) (i : Item) (f : MF) (x : Context) (s : State) : State :=
  match exchange f.acc.toNat x i with
  | .ok y => overM c i y s
  | .error e => (s.setCtx c (x.parkM 0 i (swapStep f))).raise c e.cause e.tval i.pc (some (.m, i.seq, i.pc))

/-- A step with its result: the flags of its k-blocks, and its exchange to come. -/
def Item.computed (i : Item) (g : Flags) : Item :=
  { i with val := i.val ||| g.setWidth 64, time := 0, vis := [], rows := [], pend := [], target := some 0 }

/-- Started M word `k` ends: at the head of the queue it finishes with its flags, its exchange and its pushes; or it stops, with the
fault of a check where a halt does not hold that back (R83, R173 to R175, R345). A step that was restarted and stops earlier than before
keeps the greater σ − u, since the k-blocks of the first start are applied (R173; DESIGN CHOICE, log 50). -/
def endM (c : CtxLoc) (k : Nat) (i : Item) (sig : Option Nat) (s : State) : State :=
  match stepOf i.ins with
  | some (f, z) =>
    if i.target.isSome then
      endSwap c i f (s.ctxAt c) (s.onClu c.pcl fun cl => cl.giveSlot f.cc.toNat)
    else
      let s := s.onClu c.pcl fun cl => cl.giveSlot f.cc.toNat
      let (x, g, stop) := stepEnd (s.ctxAt c) i f z sig
      match stop with
      | some (t, e) =>
        let s := s.setCtx c (x.parkM k i (max i.left t))
        match e with
        | some e => s.raise c e.cause e.tval i.pc (some (.m, i.seq, i.pc))
        | none => s
      | none => if f.swap then endSwap c (i.computed g) f x s else overM c (i.computed g) x s
  | none =>
    let x := s.ctxAt c
    match i.ins with
    | .aclr f => overM c i (x.setBank f.acc.toNat {}) s
    | .adrain f => overM c i (drainRest f.acc.toNat x i) s
    | .aswap f =>
      match exchange f.acc.toNat x i with
      | .ok x => overM c i x s
      | .error e => (s.setCtx c (x.parkM k i 0)).raise c e.cause e.tval i.pc (some (.m, i.seq, i.pc))
    | _ => s

/-- M_WORD_FINISH (R167, R174, R175). -/
def finishM (c : CtxLoc) (s : State) : State :=
  match rePush .m c s with
  | some s' => s'
  | none =>
    match mGoing (s.ctxAt c) with
    | none => s
    | some i => if s.engineOn c then endM c 0 i none s else s

/-- M_WORD_FINISH. -/
def execMWordFinish (c : CtxLoc) (s : State) : Out := atCtx c s (finishM c)

/-- A failed check of step `k`: the oldest word stops at once. A later one is halted with its fault and stops when its turn at the stop
comes, after the words ahead of it, whose results the bank takes first (R168, R169, R173). -/
def checkFails (c : CtxLoc) (k : Nat) (i : Item) (e : Flt) (s : State) : State :=
  if k = 0 then endM c k { i with fault := some e } (some (i.time + 1)) s
  else (s.onCtx c fun x => x.setMItem k { i with fault := some e }).raise c e.cause e.tval i.pc (some (.m, i.seq, i.pc))

/-- A step makes its next cycle: its taps read; or, at the head of the queue and with its schedule over, it has its result (R167,
R168). A failed check stops it. -/
def stepCycle (c : CtxLoc) (k : Nat) (i : Item) (f : MF) (z : Bool) (s : State) : State :=
  let x := s.ctxAt c
  match mkindOf (viewFmt i.a) with
  | none => s
  | some kd =>
    let nb := blocksOf f kd
    if i.time < finishCycle f nb then
      match tapRead x i.a nb f.tapA.toNat i.time i.vis, tapRead x i.b nb f.tapB.toNat i.time (i.rows.map RowData.data) with
      | .ok a, .ok b => s.setCtx c (x.setMItem k { i with time := i.time + 1, vis := a, rows := b.map fun d => ⟨d, false⟩ })
      | .error e, _ => checkFails c k i e s
      | _, .error e => checkFails c k i e s
    else if k = 0 && f.swap then
      let (y, g, _) := stepEnd x i f z none
      s.setCtx c (y.setMItem 0 (i.computed g))
    else s

/-- A started M word makes its next cycle (R167, R168, R175). -/
def goOnM (c : CtxLoc) (k : Nat) (s : State) : State :=
  let x := s.ctxAt c
  let swap := fun (a : Nat) (i : Item) (n : Nat) (s : State) =>
    if 8 ≤ i.time then s
    else match swapCycle a i.d i.time x i with
      | .ok (y, j) => s.setCtx c (y.setMItem k j)
      | .error e => (s.setCtx c (x.parkM k i n)).raise c e.cause e.tval i.pc (some (.m, i.seq, i.pc))
  match x.qm.items[k]? with
  | none => s
  | some i =>
    if !s.engineOn c || i.fault.isSome || (match i.phase with | .going => false | _ => true) then s
    else
      match stepOf i.ins with
      | some (f, z) =>
        if i.target.isSome then
          match swapCycle f.acc.toNat i.d i.time x i with
          | .ok (y, j) => if 8 ≤ i.time then s else s.setCtx c (y.setMItem k j)
          | .error _ => endM c k i none s
        else stepCycle c k i f z s
      | none =>
        match i.ins with
        | .aswap f => swap f.acc.toNat i 0 s
        | .adrain f =>
          if 4 ≤ i.time then s else s.setCtx c ((drainCycle f.acc.toNat i.d i.time x).setMItem k { i with time := i.time + 1 })
        | _ => s

/-- The cycles between the starts of two successive steps, at the least (R169, condition 2). -/
def stepGap (p i : Item) : Nat :=
  match stepOf p.ins, stepOf i.ins, mkindOf (viewFmt p.a) with
  | some (g, _), some (f, _), some k =>
    max 1 (max (g.tapA.toNat + 16 * blocksOf g k - f.tapA.toNat) (g.tapB.toNat + 16 * blocksOf g k - f.tapB.toNat))
  | _, _, _ => 1

/-- The cycles that the started M words of a context have run at a stop: those given, raised so far that they suit what the words have
done and the order of their starts (R169, R173). -/
def stopCycles : List Item → List Nat → List Nat
  | [], _ => []
  | [i], ts => [if i.fault.isSome then i.time + 1 else max (ts.headD 0) (max 1 i.time)]
  | i :: j :: r, ts =>
    match stopCycles (j :: r) (ts.drop 1) with
    | [] => []
    | t :: l => (if i.fault.isSome then i.time + 1 else max (ts.headD 0) (max i.time (t + stepGap i j))) :: t :: l

/-- The first M word under way, with its index. -/
def firstGoing (x : Context) : Option (Nat × Item) :=
  match x.qm.items.findIdx? fun i => match i.phase with | .going => true | _ => false with
  | none => none
  | some k => (x.qm.items[k]?).map fun i => (k, i)

/-- The M words under way at a halt, the oldest first: each stops after its cycles, or it has passed its last cycle by then (R173,
R345). -/
def stopEach (c : CtxLoc) : List Nat → State → State
  | [], s => s
  | t :: ts, s =>
    match firstGoing (s.ctxAt c) with
    | none => s
    | some (k, i) => stopEach c ts (endM c k i (some t) s)

def stopM (c : CtxLoc) (sigs : List Nat) (s : State) : State :=
  stopEach c (stopCycles ((s.ctxAt c).qm.items.filter fun i => match i.phase with | .going => true | _ => false) sigs) s

/-! ### STOP_RECORD_CUT (R345, R346) -/

/-- STOP_RECORD_CUT: after a halt, `vRows` more rows of the V word and `mSigs` cycles of the M words under way fall before the stop;
then, once nothing is in flight, the cut (R345). -/
def execStopRecordCut (c : CtxLoc) (vRows : Nat) (mSigs : List Nat) (s : State) : Out :=
  atCtx c s fun s =>
    if (s.ctxAt c).halt.isNone || s.mgr.tripped || s.frozen c.pcl c.sub then s
    else (stopM c mSigs (stopV c vRows s)).settle c

end Sys2Proof.Machine
end

