-- ==== Sys2Proof/Machine/TokenWatch.lean ====
section
/-!
DEFINITION. The token watch unit: sequence slots, watch entries, budgets, commit, confirmation and rejection, and what a
hit does (R308 to R333).
-/
namespace Sys2Proof.Machine

/-! ### Slots -/

def State.slotAt (s : State) (pcl n : Nat) : TwSlot := tget (s.cluAt pcl).tw n {}
def State.setSlot (s : State) (pcl n : Nat) (t : TwSlot) : State :=
  s.onClu pcl fun cl => { cl with tw := tset cl.tw n t {} }
def State.onSlot (s : State) (pcl n : Nat) (f : TwSlot → TwSlot) : State := s.setSlot pcl n (f (s.slotAt pcl n))

/-- Number of positions of a slot (R309). -/
def TwSlot.pos (t : TwSlot) : Nat := t.conf.toNat + t.drafts.length

def TwSlot.budget (t : TwSlot) (k : Nat) : Budget := tget t.budgets k {}

/-- The mask of the valid entries (R315). -/
def TwSlot.valid (t : TwSlot) : BitVec 16 := t.entries.foldl (fun m e => m ||| BitVec.ofNat 16 (2 ^ e.1)) 0

/-- A confirmed token takes the next position; 16 confirmed tokens are held (R309). -/
def TwSlot.place (t : TwSlot) (w : BitVec 32) : TwSlot :=
  { t with hist := (w :: t.hist).take 16, conf := t.conf + 1 }

/-- The tokens held, newest first: drafts, then confirmed tokens. -/
def TwSlot.held (t : TwSlot) : List (BitVec 32) := t.drafts.reverse.map Prod.fst ++ t.hist

/-- The id of a token word (R308). -/
def tokId (w : BitVec 32) : Nat := w.toNat % 2 ^ 24

/-- A pattern entry hits at the newest of the held tokens (R322). -/
def patHits (held : List (BitVec 32)) (e : TwEntry) : Bool :=
  1 ≤ e.len && (List.range e.len).all fun i =>
    match held[e.len - 1 - i]? with
    | none => false
    | some w => e.wild.getLsbD i || tokId (e.pat.getD i 0) = tokId w

/-- Matching at the newest held token: the hits, but for the entry excluded (R322). -/
def matchMask (t : TwSlot) (held : List (BitVec 32)) (excluded : Option Nat) : BitVec 16 :=
  t.entries.foldl
    (fun m e => if some e.1 != excluded && patHits held e.2 then m ||| BitVec.ofNat 16 (2 ^ e.1) else m) 0

/-- Counts the confirmed token against the budgets: the slot, and the entries that hit (R317). -/
def countBudgets (t : TwSlot) (excluded : Option Nat) : TwSlot × BitVec 16 :=
  let zero := (List.range 4).filter fun k => (t.budget k).on && (t.budget k).n = 1
  let t' := (List.range 4).foldl
    (fun u k => let b := u.budget k
      if b.on && b.n != 0 then { u with budgets := tset u.budgets k { b with n := b.n - 1 } {} } else u) t
  (t', t.entries.foldl
    (fun m e => if e.2.trig && zero.contains e.2.budget && some e.1 != excluded then m ||| BitVec.ofNat 16 (2 ^ e.1) else m) 0)

/-! ### Firing (R325 to R330) -/

/-- A pair under way: its slot, the state, the signals made, whether a STOP or an INJECT has fired, the deferred INJECT,
and the forced tokens. -/
structure PairRun where
  s        : State
  notes    : List Nat
  stop     : Bool := false
  inj      : Bool := false
  deferred : Option Nat := none
  forced   : Nat := 0
  deriving DecidableEq, Repr

/-- The descriptor of a slot's fork ring (R208). -/
def forkRing (t : TwSlot) : Word := BitVec.ofNat 64 (2 ^ 62 + (t.ringCap - 1) * 2 ^ 48 + t.ringOff)

/-- A push to a fork ring, as RPSH pushes (R209): `none` where the ring is full, or the push cannot be made (R329). -/
def pushFork (s : State) (pcl : Nat) (t : TwSlot) (obs : Stamp) (v : Nat) : Option State :=
  let c : CtxLoc := ⟨pcl, 0, 0⟩
  let d := forkRing t
  match ringRead s c d (ringOff d) 8, ringRead s c d (ringOff d + 8) 8 with
  | .ok (h, _, _), .ok (tl, _, _) =>
    if ringCap d ≤ tl - h then none
    else
      match ringWrite s c d (ringOff d + 64 + 8 * (tl % ringCap d)) v obs with
      | .error _ => none
      | .ok s1 =>
        match ringWrite s1 c d (ringOff d + 8) ((tl + 1) % 2 ^ 64) obs with
        | .error _ => none
        | .ok s2 => some (s2.wakeRing c d)
  | _, _ => none

/-- The record of a FORK (R329). -/
def forkRecord (parent k x : Nat) (child : Option Nat) : Nat :=
  k % 2 ^ 32 * 2 ^ 32 + x * 2 ^ 28 + (if child.isNone then 2 ^ 27 else 0) + child.getD 0x3FF * 2 ^ 16 + parent

/-- A FORK fires at position `k` (R329). -/
def fireFork (pcl n : Nat) (obs : Stamp) (k x : Nat) (s : State) : State :=
  let t := s.slotAt pcl n
  let child := ((List.range (t.forkHi + 1)).drop t.forkLo).find? fun c => (s.slotAt pcl c).state = 0
  match (if t.ringOn then pushFork s pcl t obs (forkRecord n k x child) else some s) with
  | none => s.setSlot pcl n { t with forklost := t.forklost + 1 }
  | some s =>
    match child with
    | none => s
    | some c =>
      s.setSlot pcl c { t with drafts := [], notify := 0, hitmask := 0, skip := 0, forklost := 0,
                               stoppos := BitVec.allOnes 32, state := 1 }

/-- A NOTIFY fires: the notify register, and a signal where the slot has an event (R330). -/
def fireNotify (pcl n : Nat) (e : TwEntry) (r : PairRun) : PairRun :=
  let t := r.s.slotAt pcl n
  { r with s := r.s.setSlot pcl n { t with notify := e.notify }
           notes := if t.event = 0x03FF then r.notes else r.notes ++ [t.event.toNat] }

/-- The lowest entry of a hit mask that is a STOP or an INJECT (R325). -/
def leader (t : TwSlot) (h : BitVec 16) : Option (Nat × TwEntry) :=
  t.entries.find? fun e => h.getLsbD e.1 && (e.2.action = 0 || e.2.action = 1)

/-- Steps 1 to 4 of resolution: the dropped hits, and the FORKs and NOTIFYs that fire; the STOP or INJECT that is left
(R325). -/
def fireHits (pcl n : Nat) (obs : Stamp) (k : Nat) (h : BitVec 16) (r : PairRun) : PairRun × Option (Nat × TwEntry) :=
  let t := r.s.slotAt pcl n
  let y := leader t h
  let firing := fun (x : Nat) => match y with | some (b, _) => x ≤ b | none => true
  let dropped := (List.range 16).foldl
    (fun (m : BitVec 16) x => if h.getLsbD x && !firing x then m ||| BitVec.ofNat 16 (2 ^ x) else m) 0
  let r := { r with s := r.s.setSlot pcl n { t with hitmask := t.hitmask ||| dropped } }
  let r := t.entries.foldl
    (fun (r : PairRun) e =>
      if h.getLsbD e.1 && firing e.1 then
        if e.2.action = 3 then fireNotify pcl n e.2 r
        else if e.2.action = 2 then { r with s := fireFork pcl n obs k e.1 r.s }
        else r
      else r) r
  (r, y)

/-- A STOP fires at position `k` (R326). -/
def fireStop (pcl n k : Nat) (r : PairRun) : PairRun :=
  { r with stop := true
           s := r.s.onSlot pcl n fun t => { t with drafts := [], stoppos := BitVec.ofNat 32 k, state := 2 } }

/-- The token at `k`, which is confirmed now, with its initial hits: budgets, then the hits fire (R324). -/
def confirmed (pcl n : Nat) (obs : Stamp) (k : Nat) (h : BitVec 16) (excluded : Option Nat) (r : PairRun) :
    PairRun × Option (Nat × TwEntry) :=
  let (t, b) := countBudgets (r.s.slotAt pcl n) excluded
  fireHits pcl n obs k (h ||| b) { r with s := r.s.setSlot pcl n t }

/-- A forced token of a unit of entry `y`: placed, matched and confirmed; an INJECT that fires is deferred, or dropped
where one is deferred already or `last` holds (R325, R327). -/
def forceToken (pcl n : Nat) (obs : Stamp) (y : Nat) (last : Bool) (r : PairRun) (w : BitVec 32) : PairRun :=
  if r.stop then r
  else
    let t := r.s.slotAt pcl n
    let k := t.conf.toNat
    let t := { t.place (w ||| 0x2000000) with skip := if t.skip = BitVec.allOnes 32 then t.skip else t.skip + 1 }
    let h := matchMask t t.hist (some y)
    let (r, z) := confirmed pcl n obs k h (some y) { r with s := r.s.setSlot pcl n t, forced := r.forced + 1 }
    match z with
    | none => r
    | some (z, e) =>
      if e.action = 0 then fireStop pcl n k r
      else if last || r.deferred.isSome then
        { r with s := r.s.onSlot pcl n fun t => { t with hitmask := t.hitmask ||| BitVec.ofNat 16 (2 ^ z) } }
      else { r with deferred := some z }

/-- The unit of an INJECT entry (R327). -/
def runUnit (pcl n : Nat) (obs : Stamp) (y : Nat) (e : TwEntry) (last : Bool) (r : PairRun) : PairRun :=
  let r := { r with inj := true, s := r.s.onSlot pcl n fun t => { t with drafts := [] } }
  (e.inject.take e.count).foldl (forceToken pcl n obs y last) r

/-- Confirmation at `k` outside a unit: a STOP, or an INJECT's unit and then the deferred one's (R324 to R327). -/
def confirmAt (pcl n : Nat) (obs : Stamp) (k : Nat) (h : BitVec 16) (r : PairRun) : PairRun :=
  let (r, y) := confirmed pcl n obs k h none r
  match y with
  | none => r
  | some (y, e) =>
    if e.action = 0 then fireStop pcl n k r
    else
      let r := runUnit pcl n obs y e false r
      match r.stop, r.deferred with
      | false, some z =>
        match tfind (r.s.slotAt pcl n).entries z with
        | some f => runUnit pcl n obs z f true r
        | none => r
      | _, _ => r

/-! ### Pairs (R319 to R323, R332) -/

/-- TKCMT of one pair on an OPEN slot: outcome and run (R323). -/
def commitPair (pcl n : Nat) (obs : Stamp) (w : BitVec 32) (r : PairRun) : Nat × PairRun :=
  let t := r.s.slotAt pcl n
  if w.getLsbD 24 then
    if t.drafts.length = 8 then (4, r)
    else
      let h := matchMask t (w :: t.held) none
      (0, { r with s := r.s.setSlot pcl n { t with drafts := t.drafts ++ [(w, h)] } })
  else if !t.drafts.isEmpty then (5, r)
  else
    let k := t.conf.toNat
    let t := t.place w
    (0, confirmAt pcl n obs k (matchMask t t.hist none) { r with s := r.s.setSlot pcl n t })

/-- Confirms the oldest draft, where nothing has fired that ends the pair (R332). -/
def confirmNext (pcl n : Nat) (obs : Stamp) (r : PairRun) : PairRun :=
  if r.stop || r.inj then r
  else
    let t := r.s.slotAt pcl n
    match t.drafts with
    | [] => r
    | (w, h) :: ds =>
      let t' := { t.place (w &&& ~~~ 0x1000000#32) with drafts := ds }
      confirmAt pcl n obs t.conf.toNat h { r with s := r.s.setSlot pcl n t' }

/-- TKCONF and TKREJ of one pair on an OPEN slot (R332). -/
def settlePair (pcl n : Nat) (obs : Stamp) (reject : Bool) (p : BitVec 32) (r : PairRun) : Nat × PairRun :=
  let t := r.s.slotAt pcl n
  if p.toNat < t.conf.toNat || t.pos < p.toNat then (6, r)
  else
    let m := p.toNat - t.conf.toNat
    if reject then (0, { r with s := r.s.setSlot pcl n { t with drafts := t.drafts.take m } })
    else (0, (List.range m).foldl (fun r _ => confirmNext pcl n obs r) r)

/-- One pair: its outcome, and the run with the pair's own fields (R320, R323, R332). -/
def runPair (fn : Nat) (pcl : Nat) (obs : Stamp) (slot value : BitVec 32) (s : State) (notes : List Nat) :
    Nat × PairRun :=
  let r : PairRun := { s := s, notes := notes }
  let n := slot.toNat % 1024
  if slot.toNat / 1024 % 64 != 0 then (7, r)
  else if fn = 0x43 && value.toNat / 2 ^ 25 != 0 then (6, r)
  else if (s.slotAt pcl n).state != 1 then (3, r)
  else
    let (o, r) := if fn = 0x43 then commitPair pcl n obs value r else settlePair pcl n obs (fn = 0x45) value r
    (if o != 0 then o else if r.stop then 1 else if r.inj then 2 else 0, r)

/-! ### Commands -/

/-- What a command of the unit leaves: state, status, code, reply, granules to write, signals, and the fault of a
STOP. -/
structure TwOut where
  s       : State
  status  : BitVec 8 := 0
  code    : BitVec 8 := 0
  reply   : Word := 0
  gwrites : List (Nat × GranData) := []
  notes   : List Nat := []
  stop    : Option Word := none
  deriving DecidableEq, Repr

/-- A batch under way: state, signals, slot granule, counts of pairs done, refused and stopped, and the first pair that
stopped with its slot and `stoppos`. -/
structure BatchRun where
  s       : State
  notes   : List Nat := []
  words   : GranData
  ok      : Nat := 0
  refused : Nat := 0
  stops   : Nat := 0
  first   : Option (Nat × Nat × BitVec 32) := none
  deriving DecidableEq, Repr

/-- Pair `i` of a batch (R319, R320). -/
def batchPair (fn pcl : Nat) (obs : Stamp) (values : GranData) (b : BatchRun) (i : Nat) : BatchRun :=
  let slot := BitVec.ofNat 32 (getAt b.words (32 * i) 32 % 65536)
  let (o, r) := runPair fn pcl obs slot (BitVec.ofNat 32 (getAt values (32 * i) 32)) b.s b.notes
  let n := slot.toNat % 1024
  { b with s := r.s, notes := r.notes, words := putAt b.words (32 * i + 16) 16 (o * 256 + r.forced)
           ok := b.ok + b2n (o < 3), refused := b.refused + b2n (3 ≤ o), stops := b.stops + b2n (o = 1)
           first := b.first.or (if o = 1 then some (i, n, (r.s.slotAt pcl n).stoppos) else none) }

/-- TKCMT, TKCONF and TKREJ (R319 to R321, R333). -/
def runBatch (fn pcl : Nat) (c : Cmd) (s : State) : TwOut :=
  let x := s.ctxAt c.who
  let gs := bitsOf c.rs1 0 9
  let b := (List.range (bitsOf c.rs2 0 7)).foldl (batchPair fn pcl c.obs (x.gran (bitsOf c.rs1 16 9)).read)
    { s := s, words := (x.gran gs).read }
  { s := b.s
    reply := BitVec.ofNat 64 (b.ok + b.refused * 2 ^ 8 + b.stops * 2 ^ 16 + (b.first.elim 0xFF Prod.fst) * 2 ^ 24)
    gwrites := [(gs, b.words)]
    notes := b.notes
    stop := match b.first with
      | some (i, n, p) =>
        if c.wait && !bitOf c.rs1 25 then some (BitVec.ofNat 64 (p.toNat * 2 ^ 32 + i * 2 ^ 16 + (pcl + 1) * 2 ^ 10 + n))
        else none
      | none => none }

/-- The entry that a TWSET record describes (R315). -/
def recordEntry (bs : List Byte) : TwEntry where
  len := fieldAt bs 0x3B 1
  wild := BitVec.ofNat 8 (fieldAt bs 0x3C 1)
  action := fieldAt bs 0x3D 1
  trig := 128 ≤ fieldAt bs 0x3E 1
  budget := fieldAt bs 0x3E 1 % 4
  count := fieldAt bs 0x3F 1
  pat := (List.range 8).map fun k => BitVec.ofNat 32 (fieldAt bs (0x40 + 4 * k) 4)
  inject := (List.range 6).map fun k => BitVec.ofNat 32 (fieldAt bs (0x60 + 4 * k) 4)
  notify := BitVec.ofNat 64 (fieldAt bs 0x78 8)

/-- Entries of a mask lose their bits in every pending mask (R316). -/
def TwSlot.unpend (t : TwSlot) (m : BitVec 16) : TwSlot := { t with drafts := t.drafts.map fun d => (d.1, d.2 &&& ~~~ m) }

/-- TWSET on a slot (R316). -/
def TwSlot.setEntry (t : TwSlot) (k : Nat) (e : TwEntry) : TwSlot :=
  { t with entries := tput t.entries k e }.unpend (BitVec.ofNat 16 (2 ^ k))

/-- TWCLR on a slot (R316). -/
def TwSlot.clear (t : TwSlot) (m : BitVec 16) : TwSlot :=
  { t with entries := t.entries.filter fun e => !m.getLsbD e.1 }.unpend m

/-- The slot that a SEQOPEN record opens, in the unit of a cluster (R318). -/
def openedSlot (bs : List Byte) (pcl : Nat) : TwSlot :=
  let h := fieldAt bs 0x3A 1
  let id := fieldAt bs 0x3C 4
  { state := 1
    conf := BitVec.ofNat 32 (fieldAt bs 0x40 4)
    hist := ((List.range h).map fun k => BitVec.ofNat 32 (fieldAt bs (0x50 + 4 * k) 4)).reverse
    stoppos := BitVec.allOnes 32
    forkLo := fieldAt bs 0x44 2
    forkHi := fieldAt bs 0x46 2
    ringOn := 2 ^ 31 ≤ fieldAt bs 0x48 4
    ringOff := fieldAt bs 0x48 4 % 2 ^ 26
    ringCap := fieldAt bs 0x4C 1 + 1
    event := BitVec.ofNat 32 (if id = 0x03FF then id else ((eventOf pcl id).1 + 1) * 1024 + id % 1024) }

/-- Saturation at 16 bits. -/
def sat16 (n : Nat) : Nat := min n 0xFFFF

/-- The granule that TWSTAT writes (R331). -/
def statusGran (t : TwSlot) : GranData :=
  let w := fun (n : Nat) => toLE 4 n
  let conf := (List.range 16).flatMap fun i => w ((t.hist[15 - i]?).elim 0xFFFFFFFF BitVec.toNat)
  let drafts := (List.range 8).flatMap fun i => w ((t.drafts[i]?).elim 0xFFFFFFFF fun d => d.1.toNat)
  let bs := w (t.state + t.drafts.length * 256 + t.hitmask.toNat * 65536) ++ w t.pos ++ w t.conf.toNat ++ w t.skip.toNat ++
    toLE 8 t.notify.toNat ++ w t.stoppos.toNat ++ w t.forklost.toNat ++
    ((List.range 4).flatMap fun k => w (t.budget k).n.toNat) ++
    w (((List.range 4).foldl (fun m k => m + b2n (t.budget k).on * 2 ^ k) 0) + t.valid.toNat * 65536) ++ toLE 12 0 ++
    conf ++ drafts
  BitVec.ofNat 2048 (leNat bs)

/-- A command of the unit of a cluster, as one indivisible action on slot state at its start (R314, R316 to R318,
R331). -/
def runWatch (pcl : Nat) (c : Cmd) (s : State) : TwOut :=
  let fn := c.fn.toNat
  let rec_ := fn = 0x40 || fn = 0x47
  let n := if rec_ then fieldAt c.bytes 0x38 2 % 1024 else bitsOf c.rs1 0 10
  let t := s.slotAt pcl n
  if fn = 0x40 then
    if t.state != 1 then { s := s, status := 4, code := 0x19 }
    else { s := s.setSlot pcl n (t.setEntry (fieldAt c.bytes 0x3A 1) (recordEntry c.bytes)) }
  else if fn = 0x47 then
    if t.state = 1 then { s := s, status := 4, code := 0x19 } else { s := s.setSlot pcl n (openedSlot c.bytes pcl) }
  else if fn = 0x41 then
    { s := if t.state = 1 then s.setSlot pcl n (t.clear (c.rs2.setWidth 16)) else s, reply := t.valid.setWidth 64 }
  else if fn = 0x42 then
    let b := t.budget (bitsOf c.rs1 16 2)
    { s := if t.state = 1 then
        s.setSlot pcl n { t with budgets := tset t.budgets (bitsOf c.rs1 16 2) ⟨c.rs2.setWidth 32, bitOf c.rs1 18⟩ {} }
      else s
      reply := BitVec.ofNat 64 (b2n b.on * 2 ^ 32 + b.n.toNat) }
  else if fn = 0x46 then
    { s := if bitOf c.rs1 25 then s.setSlot pcl n { t with hitmask := 0, skip := 0 } else s
      reply := BitVec.ofNat 64 (t.state * 2 ^ 48 + sat16 t.skip.toNat * 2 ^ 32 + t.pos % 2 ^ 32)
      gwrites := [(bitsOf c.rs1 16 9, statusGran t)] }
  else if fn = 0x48 then
    { s := s.setSlot pcl n { t with drafts := [], state := 0 }, reply := BitVec.ofNat 64 (t.state * 2 ^ 32 + t.pos % 2 ^ 32) }
  else runBatch fn pcl c s

/-! ### Checks of records and operands (R311, R313, R315, R318, R319) -/

/-- The code with which a TWSET record is rejected, or 0 (R315). -/
def twsetCode (bs : List Byte) : Nat :=
  let l := fieldAt bs 0x3B 1
  let wild := fieldAt bs 0x3C 1
  let act := fieldAt bs 0x3D 1
  let bud := fieldAt bs 0x3E 1
  let cnt := fieldAt bs 0x3F 1
  let pat := fun k => fieldAt bs (0x40 + 4 * k) 4
  let inj := fun k => fieldAt bs (0x60 + 4 * k) 4
  let trig : Bool := 128 ≤ bud
  if 16 ≤ fieldAt bs 0x3A 1 || 8 < l || 3 < act || bud / 4 % 32 != 0 || wild / 2 ^ l != 0 ||
      ((List.range 8).any fun k => 2 ^ 24 ≤ pat k || (l ≤ k && pat k != 0)) || ((l = 0) != trig) ||
      (act = 1 && (cnt = 0 || 6 < cnt)) || (act != 1 && cnt != 0) ||
      ((List.range 6).any fun k => 2 ^ 24 ≤ inj k || (cnt ≤ k && inj k != 0)) || (act != 3 && fieldAt bs 0x78 8 != 0)
  then 0x01 else 0

/-- The code with which a SEQOPEN record is rejected, or 0 (R318). -/
def seqopenCode (bs : List Byte) : Nat :=
  let h := fieldAt bs 0x3A 1
  let ring := fieldAt bs 0x48 4
  let tok := fun k => fieldAt bs (0x50 + 4 * k) 4
  if 8 < h || fieldAt bs 0x3B 1 != 0 || fieldAt bs 0x40 4 < h || fieldAt bs 0x46 2 < fieldAt bs 0x44 2 ||
      1023 < fieldAt bs 0x46 2 || ring / 2 ^ 26 % 32 != 0 || fieldAt bs 0x4D 3 != 0 || fieldAt bs 0x70 16 != 0 ||
      ((List.range 8).any fun k => 2 ^ 24 ≤ tok k || (h ≤ k && tok k != 0)) then 0x01
  else if 2 ^ 31 ≤ ring && ring % 64 != 0 then 0x07
  else if 2 ^ 31 ≤ ring && 2 ^ 26 < ring % 2 ^ 26 + 64 + 8 * (fieldAt bs 0x4C 1 + 1) then 0x06
  else 0

/-- Whether a cluster field names a cluster of the strand's partition: a cause, or none (R205, R311). -/
def fieldBad (s : State) (p own f : Nat) : Option (BitVec 8) := eventBad s p own (f * 1024)

/-- The cluster of the unit that a record-less function names (R311, R319). -/
def unitField (fn : Nat) (rs1 : Word) : Nat := if 0x43 ≤ fn && fn ≤ 0x45 then bitsOf rs1 26 6 else bitsOf rs1 10 6

/-- The granules that a record-less function names (R313). -/
def unitGrans (fn : Nat) (rs1 : Word) : List Nat :=
  if 0x43 ≤ fn && fn ≤ 0x45 then [bitsOf rs1 0 9, bitsOf rs1 16 9] else if fn = 0x46 then [bitsOf rs1 16 9] else []

/-- Bits of rs1 and rs2 that a record-less function uses (R311, R319). -/
def usedBits (fn : Nat) : Word × Word :=
  if fn = 0x41 then (0xFFFF, 0xFFFF)
  else if fn = 0x42 then (0x7FFFF, 0xFFFFFFFF)
  else if fn = 0x46 then (0x3FFFFFF, 0)
  else if fn = 0x48 then (0xFFFF, 0)
  else (0xFFFFFFFF - 0xFE00, 0x7F)

/-- The checks of a record-less function of the unit at issue (R311, R313, R319). -/
def unitIssueCheck (s : State) (fn : Nat) (a b : Word) : Option (BitVec 8 × Word) :=
  let (ua, ub) := usedBits fn
  let batch : Bool := 0x43 ≤ fn && fn ≤ 0x45
  if a &&& ~~~ ua != 0 then some (0x18, a)
  else if b &&& ~~~ ub != 0 then some (0x18, b)
  else
    match fieldBad s s.cx.part s.focus.pcl (unitField fn a) with
    | some c => some (c, a)
    | none =>
      if batch && bitsOf a 0 9 = bitsOf a 16 9 then some (0x18, a)
      else if batch && (b = 0 || 64 < b.toNat) then some (0x18, b)
      else
        match (unitGrans fn a).find? fun g => s.cx.wsize ≤ g with
        | some g => some (0x06, BitVec.ofNat 64 g)
        | none => none

end Sys2Proof.Machine
end

