-- ==== Sys2Proof/Machine/EngCheck.lean ====
section
/-!
DEFINITION. The ENG words: issue (R266, R287, R288, R290, R311), the command record and its checks (R269 to R273, R281,
R291), the tiles (R268), and ENG_SUBMISSION (R267).
-/
namespace Sys2Proof.Machine

/-! ### Issue -/

/-- The func7 value of an ENG word (R54). -/
def fnOf : Instr → Nat
  | .engCopy _ => 0x00 | .engFill _ => 0x01 | .engRefresh _ => 0x02 | .engGather _ => 0x10 | .engScatter _ => 0x11
  | .engScatteradd _ => 0x12 | .engColl _ => 0x20 | .engFamo _ => 0x30 | .engFcas _ => 0x31 | .engEvsig _ => 0x38
  | .engTwset _ => 0x40 | .engTwclr _ => 0x41 | .engTwbud _ => 0x42 | .engTkcmt _ => 0x43 | .engTkconf _ => 0x44
  | .engTkrej _ => 0x45 | .engTwstat _ => 0x46 | .engSeqopen _ => 0x47 | .engSeqclose _ => 0x48 | .engWswap _ => 0x50
  | .engWstat _ => 0x51 | .engCqry _ => 0x60
  | _ => 0x7F

/-- The fields of an ENG word. -/
def engFields : Instr → Option EF
  | .engCopy f | .engFill f | .engRefresh f | .engGather f | .engScatter f | .engScatteradd f | .engColl f | .engFamo f
  | .engFcas f | .engEvsig f | .engTwset f | .engTwclr f | .engTwbud f | .engTkcmt f | .engTkconf f | .engTkrej f
  | .engTwstat f | .engSeqopen f | .engSeqclose f | .engWswap f | .engWstat f | .engCqry f => some f
  | _ => none

/-- Functions with a command record (R266, R311). -/
def hasRecord (fn : Nat) : Bool := [0x00, 0x01, 0x02, 0x10, 0x11, 0x12, 0x20, 0x30, 0x31, 0x40, 0x47, 0x50].contains fn

/-- Operand checks of an ENG word at issue: cause and `etval`, or none (R266, R287, R288, R290, R311). -/
def engIssueCheck (s : State) (fn : Nat) (a b : Word) : Option (BitVec 8 × Word) :=
  if hasRecord fn then
    match placeOf s.cx.wsize a with
    | some (.win _) => if a.toNat % 256 != 0 then some (0x07, a) else none
    | _ => some (0x06, a)
  else if fn = 0x38 then
    if bitsOf a 29 35 != 0 then some (0x06, a)
    else if bitOf a 28 then (if 1 ≤ bitsOf a 10 6 && bitsOf a 10 6 ≤ 40 then none else some (0x06, a))
    else if bitsOf a 16 12 != 0 then some (0x06, a)
    else (eventBad s s.cx.part s.focus.pcl (bitsOf a 0 16)).map fun c => (c, a)
  else if fn = 0x60 then
    match eventBad s s.cx.part s.focus.pcl a.toNat with
    | some c => some (c, a)
    | none => if 1 < b.toNat then some (0x18, b) else none
  else if fn = 0x51 then
    if bitsOf a 48 16 != 0 then some (0x06, a) else if a.toNat % 64 != 0 then some (0x07, a) else none
  else unitIssueCheck s fn a b

/-- An ENG word at issue: its checks, then the E queue; with the wait bit the front end holds the next word (R54, R266,
R279). -/
def engWord (i : Instr) (f : EF) (s : State) : Out :=
  issue i s fun s =>
    let a := s.cx.rg f.rs1
    let b := s.cx.rg f.rs2
    match engIssueCheck s (fnOf i) a b with
    | some e => .next (s.fault e.1 e.2)
    | none =>
      let id := s.cx.qe.issued.toNat
      .next ((enqueue .e i 1 a b 0 0 s).onCx fun x => if f.wait then { x with hold := .command id } else x)

/-- ENG COPY (R282). -/
def execEngCopy (f : EF) (s : State) : Out := engWord (.engCopy f) f s
/-- ENG FILL (R282). -/
def execEngFill (f : EF) (s : State) : Out := engWord (.engFill f) f s
/-- ENG REFRESH (R283). -/
def execEngRefresh (f : EF) (s : State) : Out := engWord (.engRefresh f) f s
/-- ENG GATHER (R284). -/
def execEngGather (f : EF) (s : State) : Out := engWord (.engGather f) f s
/-- ENG SCATTER (R284). -/
def execEngScatter (f : EF) (s : State) : Out := engWord (.engScatter f) f s
/-- ENG SCATTERADD (R284). -/
def execEngScatteradd (f : EF) (s : State) : Out := engWord (.engScatteradd f) f s
/-- ENG COLL (R285). -/
def execEngColl (f : EF) (s : State) : Out := engWord (.engColl f) f s
/-- ENG FAMO (R286). -/
def execEngFamo (f : EF) (s : State) : Out := engWord (.engFamo f) f s
/-- ENG FCAS (R286). -/
def execEngFcas (f : EF) (s : State) : Out := engWord (.engFcas f) f s
/-- ENG EVSIG (R287). -/
def execEngEvsig (f : EF) (s : State) : Out := engWord (.engEvsig f) f s
/-- ENG TWSET (R315). -/
def execEngTwset (f : EF) (s : State) : Out := engWord (.engTwset f) f s
/-- ENG TWCLR (R316). -/
def execEngTwclr (f : EF) (s : State) : Out := engWord (.engTwclr f) f s
/-- ENG TWBUD (R317). -/
def execEngTwbud (f : EF) (s : State) : Out := engWord (.engTwbud f) f s
/-- ENG TKCMT (R323). -/
def execEngTkcmt (f : EF) (s : State) : Out := engWord (.engTkcmt f) f s
/-- ENG TKCONF (R332). -/
def execEngTkconf (f : EF) (s : State) : Out := engWord (.engTkconf f) f s
/-- ENG TKREJ (R332). -/
def execEngTkrej (f : EF) (s : State) : Out := engWord (.engTkrej f) f s
/-- ENG TWSTAT (R331). -/
def execEngTwstat (f : EF) (s : State) : Out := engWord (.engTwstat f) f s
/-- ENG SEQOPEN (R318). -/
def execEngSeqopen (f : EF) (s : State) : Out := engWord (.engSeqopen f) f s
/-- ENG SEQCLOSE (R318). -/
def execEngSeqclose (f : EF) (s : State) : Out := engWord (.engSeqclose f) f s
/-- ENG WSWAP (R289). -/
def execEngWswap (f : EF) (s : State) : Out := engWord (.engWswap f) f s
/-- ENG WSTAT (R290). -/
def execEngWstat (f : EF) (s : State) : Out := engWord (.engWstat f) f s
/-- ENG CQRY (R288). -/
def execEngCqry (f : EF) (s : State) : Out := engWord (.engCqry f) f s

/-! ### The body of a record (R272) -/

/-- The 4-byte field at an offset, as a signed stride. -/
def strideAt (bs : List Byte) (o : Nat) : Int := (BitVec.ofNat 32 (fieldAt bs o 4)).toInt

def bodyA (bs : List Byte) : Word := BitVec.ofNat 64 (fieldAt bs 0x38 8)
def bodyB (bs : List Byte) : Word := BitVec.ofNat 64 (fieldAt bs 0x40 8)
def bodyE (bs : List Byte) (k : Nat) : Nat := fieldAt bs (0x48 + 4 * k) 4
def bodyW (bs : List Byte) (k : Nat) : Int := strideAt bs (0x58 + 4 * k)
def bodyX (bs : List Byte) (k : Nat) : Int := strideAt bs (0x68 + 4 * k)
/-- The address in W0:W1. -/
def bodyL (bs : List Byte) : Word := BitVec.ofNat 64 (fieldAt bs 0x58 8)
def bodyFmt (bs : List Byte) : Fmt := Fmt.ofCode (BitVec.ofNat 4 (fieldAt bs 0x78 1))
def bodyClass (bs : List Byte) : Nat := fieldAt bs 0x79 1
def bodySub (bs : List Byte) : Nat := fieldAt bs 0x7A 1
def bodyLim (bs : List Byte) : Nat := fieldAt bs 0x7B 1
def bodyAux (bs : List Byte) : Nat := fieldAt bs 0x7C 4

/-- Bytes of an element of a command (R272). -/
def elemBytes (bs : List Byte) : Nat := esize (bodyFmt bs)

/-- Width in bytes of a FAMO or FCAS (R281, R46). -/
def famoBytes (bs : List Byte) : Nat := if bodyAux bs / 16 % 2 = 1 then 4 else 8

/-! ### Sides (R275) -/

/-- The storage that an address of a record names. -/
inductive SideK where
  | win | moss (pcl : Nat) | dev | far (chip : Nat)
  deriving DecidableEq, Repr

/-- A side of a command: its storage and its address there. -/
structure Side where
  k    : SideK
  base : Nat
  deriving DecidableEq, Repr

/-- The side that a generic or engine-only address names, for a command of a context (R214, R215, R275). -/
def sideOf (s : State) (c : CtxLoc) (part wsize : Nat) (a : Word) : Except (BitVec 8) Side :=
  if bitsOf a 48 16 = 0xFFFC then
    if bitsOf a 38 10 != 0 || bitsOf a 26 6 != 0 || 40 ≤ bitsOf a 32 6 then .error 0x06
    else if !(s.partAt part).owns (bitsOf a 32 6) then .error 0x09
    else .ok ⟨.moss (bitsOf a 32 6), bitsOf a 0 26⟩
  else
    match (placeOf wsize a).map s.localPlace with
    | none => .error 0x06
    | some (.dev va) => .ok ⟨.dev, va⟩
    | some (.remote chip va) => .ok ⟨.far chip, va⟩
    | some (.moss o) => .ok ⟨.moss c.pcl, o⟩
    | some (.win o) => .ok ⟨.win, o⟩

/-- Access rate of a side (R291). -/
def Side.rate (own : Nat) (d : Side) : Nat :=
  match d.k with
  | .win => 1
  | .moss p => if p = own then 1 else 2
  | .dev => 4
  | .far _ => 8

/-- Bytes of a side's storage. -/
def Side.limit (wsize : Nat) (d : Side) : Int :=
  match d.k with
  | .win => 256 * wsize
  | .moss _ => 2 ^ 26
  | .dev | .far _ => 2 ^ 48

/-- A side's lowest and highest byte under dimensions (extent, stride) and elements of `z` bytes; a cause where its
address or a stride is misaligned or the span leaves the storage (R268, R273). -/
def Side.span (wsize : Nat) (d : Side) (dims : List (Nat × Int)) (z : Nat) : Except (BitVec 8) (Nat × Nat) :=
  if d.base % z != 0 || dims.any fun e => e.2 % z != 0 then .error 0x07
  else
    let reach := fun (e : Nat × Int) => ((e.1 : Int) - 1) * e.2
    let lo : Int := dims.foldl (fun a e => a + min 0 (reach e)) d.base
    let hi : Int := dims.foldl (fun a e => a + max 0 (reach e)) (d.base : Int) + z - 1
    if lo < 0 || d.limit wsize ≤ hi then .error 0x06 else .ok (lo.toNat, hi.toNat)

/-- The tiles of a span: granules, row groups with their cluster (R268). -/
def Side.tiles (d : Side) (lo hi : Nat) : List Nat × List (Nat × Nat) :=
  match d.k with
  | .win => ((List.range (hi / 256 + 1)).drop (lo / 256), [])
  | .moss p => ([], ((List.range (hi / 4096 + 1)).drop (lo / 4096)).map fun n => (p, n))
  | .dev | .far _ => ([], [])

/-- The sides of a function's body: address, dimensions, alignment (R281). -/
def bodySides (fn : Nat) (bs : List Byte) : List (Word × List (Nat × Int) × Nat) :=
  let z := elemBytes bs
  let e := bodyE bs
  let shape := fun (f : Nat → Int) => (List.range 4).map fun k => (e k, f k)
  let idx : Word × List (Nat × Int) × Nat := (bodyL bs, [(e 1, 4)], 4)
  if fn = 0x00 then [(bodyA bs, shape (bodyW bs), z), (bodyB bs, shape (bodyX bs), z)]
  else if fn = 0x01 then [(bodyB bs, shape (bodyX bs), z)]
  else if fn = 0x10 then
    [(bodyA bs, [(e 0, (z : Int)), (e 2, bodyW bs 2)], z), (bodyB bs, [(e 0, (z : Int)), (e 1, bodyX bs 0)], z), idx]
  else if fn = 0x11 || fn = 0x12 then
    [(bodyA bs, [(e 0, (z : Int)), (e 1, bodyX bs 0)], z), (bodyB bs, [(e 0, (z : Int)), (e 2, bodyW bs 2)], z), idx]
  else if fn = 0x20 then [(bodyA bs, [(e 0, (z : Int))], z), (bodyB bs, [(e 0, (z : Int))], z)]
  else if fn = 0x30 || fn = 0x31 then [(bodyA bs, [], famoBytes bs)]
  else []

/-- Tiles of the sides of a list, or the cause of the first that fails. -/
def sidesTiles (s : State) (c : CtxLoc) (part wsize : Nat) :
    List (Word × List (Nat × Int) × Nat) → Except (BitVec 8) (List Nat × List (Nat × Nat))
  | [] => .ok ([], [])
  | (a, dims, z) :: r =>
    match sideOf s c part wsize a with
    | .error e => .error e
    | .ok d =>
      match d.span wsize dims z with
      | .error e => .error e
      | .ok (lo, hi) =>
        match sidesTiles s c part wsize r with
        | .error e => .error e
        | .ok (g, m) => .ok ((d.tiles lo hi).1 ++ g, (d.tiles lo hi).2 ++ m)

/-! ### Checks of a record (R273) -/

/-- The record's header: function, flags, class, reserved bytes, counter ids, a signal without a counter (R269, R270,
R205). -/
def headerCode (s : State) (c : CtxLoc) (part fn : Nat) (bs : List Byte) : Nat :=
  let fl := fieldAt bs 1 1
  let id := fun o => fieldAt bs o 4
  let ids := [0x08, 0x0C, 0x20, 0x24].filterMap fun o =>
    if id o = 0x03FF then none else eventBad s part c.pcl (id o)
  if fieldAt bs 0 1 != fn || fieldAt bs 5 3 != 0 || 7 < fieldAt bs 4 1 || 5 < fl / 2 % 8 || (fl % 2 = 1 && 2 < fn) then 0x01
  else
    match ids with
    | e :: _ => e.toNat
    | [] =>
      if (id 0x20 = 0x03FF && id 0x28 != 0) || (id 0x24 = 0x03FF && id 0x2C != 0) then 0x01 else 0

/-- Fields of the body that R281 leaves zero, or fixes to a range. -/
def fieldsOk (fn : Nat) (bs : List Byte) : Bool :=
  let e := bodyE bs
  let zero := fun (l : List Int) => l.all fun v => v = 0
  let w := bodyW bs
  let x := bodyX bs
  let f := fieldAt bs 0x78 1
  let one := fun (l : List Nat) => l.all fun k => e k = 1
  let ext := (List.range 4).all fun k => 1 ≤ e k && e k ≤ 2 ^ 24
  let size : Bool := e 0 * e 1 * e 2 * e 3 * elemBytes bs < 2 ^ 40
  let cls := bodyClass bs ≤ 7 && (if bodyClass bs = 7 then 1 ≤ bodyLim bs && bodyLim bs ≤ 5 else bodyLim bs = 0)
  let plain := bodyClass bs = 0 && bodyLim bs = 0
  let aux := bodyAux bs
  ext && size && f ≤ 15 &&
  (if fn = 0x00 then 1 ≤ f && cls && bodySub bs = 0 && aux = 0
   else if fn = 0x01 then 1 ≤ f && cls && bodySub bs = 0 && aux = 0 && zero [w 0, w 1, w 2, w 3]
   else if fn = 0x02 then
     bodyA bs = 0 && e 0 ≤ 16384 && one [1, 2, 3] && zero [w 0, w 1, w 2, w 3, x 0, x 1, x 2, x 3] && f = 0 && plain &&
       bodySub bs = 0 && aux = 0
   else if fn = 0x10 || fn = 0x11 then
     1 ≤ f && cls && bodySub bs = 0 && aux = 0 && one [3] && zero [w 3, x 1, x 2, x 3]
   else if fn = 0x12 then
     6 ≤ f && f ≤ 12 && cls && bodySub bs = 0 && aux = 0 && one [3] && zero [w 3, x 1, x 2, x 3]
   else if fn = 0x20 then
     (f = 6 || f = 7 || (10 ≤ f && f ≤ 12)) && plain && bodySub bs ≤ 4 && (if bodySub bs ≤ 1 then aux ≤ 2 else aux = 0) &&
       one [1, 2, 3] && zero [w 2, w 3, x 0, x 1, x 2, x 3]
   else if fn = 0x30 then
     f = 0 && plain && bodySub bs = 0 && aux < 32 && aux % 16 ≤ 9 && (aux % 16 != 9 || 16 ≤ aux) && one [0, 1, 2, 3] &&
       zero [w 0, w 1, w 2, w 3, x 0, x 1, x 2, x 3]
   else if fn = 0x31 then
     f = 0 && plain && bodySub bs = 0 && (aux = 0 || aux = 16) && one [0, 1, 2, 3] && zero [w 2, w 3, x 0, x 1, x 2, x 3]
   else
     f = 0 && plain && bodySub bs = 0 && aux ≤ 3 && one [0, 1, 2, 3] && zero [w 0, w 1, w 2, w 3, x 0, x 1, x 2, x 3])

/-- Rated energy per chunk and minimum class of a record (R291). -/
def rating (s : State) (c : CtxLoc) (part wsize fn : Nat) (bs : List Byte) : Nat × Nat :=
  let rate := fun (a : Word) =>
    match sideOf s c part wsize a with
    | .ok d => d.rate c.pcl
    | .error _ => 0
  let a := rate (bodyA bs)
  let b := rate (bodyB bs)
  if fn = 0x00 then (64 * (a + b), 1)
  else if fn = 0x01 then (64 * b, 1)
  else if fn = 0x02 then (2, 1)
  else if fn = 0x10 || fn = 0x11 then (64 * (a + b) + 4, 1)
  else if fn = 0x12 then (64 * (a + 2 * b) + 4, 1)
  else if fn = 0x20 then (1024, 2)
  else if fn = 0x30 || fn = 0x31 then (8, 0)
  else (0, 0)

/-- The row groups of a REFRESH, or the cause of a bad B (R283). -/
def refreshTiles (s : State) (c : CtxLoc) (part wsize : Nat) (bs : List Byte) :
    Except (BitVec 8) (List Nat × List (Nat × Nat)) :=
  match sideOf s c part wsize (bodyB bs) with
  | .error e => .error e
  | .ok d =>
    match d.k with
    | .moss p =>
      if d.base % 4096 != 0 then .error 0x07
      else if 16384 < d.base / 4096 + bodyE bs 0 then .error 0x06
      else .ok ([], (List.range (bodyE bs 0)).map fun k => (p, d.base / 4096 + k))
    | _ => .error 0x06

/-- An address of a record that must be a device address with an alignment (R281, R289, R401). -/
def devAligned (a : Word) (n : Nat) : Option (BitVec 8) :=
  if bitsOf a 48 16 != 0 then some 0x06 else if a.toNat % n != 0 then some 0x07 else none

/-- The tiles of a body, or the cause of the first address that fails (R268, R273). -/
def bodyTiles (s : State) (c : CtxLoc) (fn : Nat) (bs : List Byte) : Except (BitVec 8) (List Nat × List (Nat × Nat)) :=
  let x := s.ctxAt c
  let all := sidesTiles s c x.part x.wsize (bodySides fn bs)
  if fn = 0x02 then refreshTiles s c x.part x.wsize bs
  else if fn = 0x30 || fn = 0x31 then
    match sideOf s c x.part x.wsize (bodyA bs) with
    | .ok ⟨.win, _⟩ => .error 0x06
    | _ => all
  else if fn = 0x50 then
    match (devAligned (bodyA bs) 64).or (devAligned (bodyB bs) 8) with
    | some e => .error e
    | none => .ok ([], [])
  else if fn = 0x20 then
    match devAligned (bodyL bs) 64 with
    | some e => .error e
    | none => all
  else all

/-- The reason for which a record is rejected, 0 for none, and the tiles of its body (R273, R289, R311). -/
def recordCode (s : State) (c : CtxLoc) (fn : Nat) (bs : List Byte) : Nat × List Nat × List (Nat × Nat) :=
  let x := s.ctxAt c
  let h := headerCode s c x.part fn bs
  if h != 0 then (h, [], [])
  else if fn = 0x40 || fn = 0x47 then
    match fieldBad s x.part c.pcl (fieldAt bs 0x39 1 / 4) with
    | some e => (e.toNat, [], [])
    | none =>
      let k := if fn = 0x40 then twsetCode bs else seqopenCode bs
      let id := fieldAt bs 0x3C 4
      if k != 0 then (k, [], [])
      else
        match (if fn = 0x47 && id != 0x03FF then eventBad s x.part c.pcl id else none) with
        | some e => (e.toNat, [], [])
        | none => (0, [], [])
  else if !fieldsOk fn bs then (0x01, [], [])
  else if fn = 0x50 && !x.grp.getLsbD (32 + bodyAux bs % 4) then (0x1C, [], [])
  else
    match bodyTiles s c fn bs with
    | .error e => (e.toNat, [], [])
    | .ok (g, m) =>
      let (en, cc) := rating s c x.part x.wsize fn bs
      if fieldAt bs 2 2 < en || fieldAt bs 4 1 < cc then (0x13, [], []) else (0, g, m)

/-! ### ENG_SUBMISSION (R267) -/

/-- Granules that started words of V and M hold against engines: all of the window under a started VRGATH or VRSCAT
(R128, R153, R176). -/
def heldGrans (x : Context) : List Nat :=
  (match x.qv.items with
    | i :: _ =>
      (match i.phase with
        | .going | .parked _ => if isGatherScatter i.ins then List.range x.wsize else vGrans x i
        | _ => [])
    | [] => []) ++
  (x.qm.items.flatMap fun i => match i.phase with | .going => mGrans i | _ => [])

/-- The cluster and the engine that a command goes to (R265, R270, R311). -/
def engineFor (s : State) (c : CtxLoc) (fn : Nat) (rs1 : Word) (bs : List Byte) : Nat × Nat :=
  let unit := fun (f : Nat) => (eventOf c.pcl (f * 1024)).1
  if fn ≤ 2 then
    let len := fun e => (tget (s.cluAt c.pcl).engines e []).length
    (c.pcl, if fieldAt bs 1 1 % 2 = 1 then ([1, 2, 3].foldl (fun b e => if len e < len b then e else b) 0) else c.sub % 4)
  else if fn = 0x20 then (c.pcl, 5)
  else if fn = 0x40 || fn = 0x47 then (unit (fieldAt bs 0x39 1 / 4), 6)
  else if 0x41 ≤ fn && fn ≤ 0x48 then (unit (unitField fn rs1), 6)
  else if fn = 0x50 || fn = 0x51 then (c.pcl, 7)
  else (c.pcl, 4)

/-- The E port writes the completion word of a record (R271, R273, R276). -/
def Context.putCompletion (x : Context) (a : Word) (v : Nat) : Context := writeWin x (bitsOf a 0 48 + 0x30) (toLE 8 v)

/-- The tiles of a command flip to the engine (R267). -/
def State.flip (s : State) (c : CtxLoc) (grans : List Nat) (rgs : List (Nat × Nat)) (v : Bool) : State :=
  let s := s.onCtx c fun x => grans.foldl (fun x g => x.setGran g { x.gran g with owner := v }) x
  rgs.foldl (fun s t => s.onClu t.1 fun cl => cl.setRg t.2 { cl.rg t.2 with owner := v }) s

/-- The points that follow the submitted word make their actions, as far as the next word (R115, R267). -/
def State.pointsBehind (s : State) (c : CtxLoc) : Nat → State
  | 0 => s
  | n + 1 => if s.pointReady c .e then (s.reachPoint c .e).pointsBehind c n else s

/-- A command enters its engine queue and the ENG word finishes (R267). -/
def State.submit (s : State) (c : CtxLoc) (i : Item) (f : EF) (bs : List Byte) (grans : List Nat)
    (rgs : List (Nat × Nat)) : State :=
  let x := s.ctxAt c
  let fn := fnOf i.ins
  let (pcl, e) := engineFor s c fn i.a bs
  let n := tget (s.cluAt pcl).engNum e 0
  let slot := bodyAux bs % 4
  let cmd : Cmd :=
    { id := i.seq.toNat, num := n, who := c, serial := x.serial, part := x.part, launch := x.launchid.toNat,
      strand := x.strandid.toNat, fn := BitVec.ofNat 7 fn, wait := f.wait, reply := f.reply, rd := f.rd, rs1 := i.a,
      rs2 := i.b, bytes := bs, pc := i.pc, grans := grans, rgs := rgs, obs := x.obs,
      group := if fn = 0x50 then getAt x.grp (8 * slot) 8 else 0 }
  let s := s.flip c grans rgs true
  let s := s.onClu pcl fun cl =>
    { cl with engines := tset cl.engines e (tget cl.engines e [] ++ [cmd]) [], engNum := tset cl.engNum e (n + 1) 0 }
  let s := (s.testQueues pcl).waitEnd c 3 0
  let s := s.onCtx c fun x =>
    { x with qe := x.qe.dropItem fun _ => true, replies := if f.reply then x.replies ++ [f.rd.toNat] else x.replies }
  s.pointsBehind c 8

/-- Why an attempt to submit does not end yet: the kind and the object of the wait, if one is met. An engine queue, which may be in another
cluster, has its cluster and its engine as object (R267, R311, R359, log 52). -/
def submitWait (s : State) (c : CtxLoc) (fn : Nat) (rs1 : Word) (bs : List Byte) (grans : List Nat)
    (rgs : List (Nat × Nat)) : Option (BitVec 8 × Word) :=
  let x := s.ctxAt c
  let held := heldGrans x
  let (pcl, e) := engineFor s c fn rs1 bs
  match grans.find? fun g => (x.gran g).owner || held.contains g with
  | some g => some (wOwner, winAddr (256 * g))
  | none =>
    match rgs.find? fun t => ((s.cluAt t.1).rg t.2).owner with
    | some t =>
      some (wOwner, if t.1 = c.pcl then mossAddr (4096 * t.2) else BitVec.ofNat 64 (0xFFFC * 2 ^ 48 + t.1 * 2 ^ 32 + 4096 * t.2))
    | none =>
      if 64 ≤ (tget (s.cluAt pcl).engines e []).length || (s.cluAt pcl).resetting.contains e then
        some (wQueue, BitVec.ofNat 64 (512 * pcl + e))
      else none

/-- The attempt of the head ENG word: it waits for its record's granule, then the record is read and checked, and then the
command is submitted, rejected with cause 0x10, or the attempt is abandoned (R267, R273, R313). -/
def submitHead (c : CtxLoc) (i : Item) (f : EF) (s : State) : State :=
  let x := s.ctxAt c
  let fn := fnOf i.ins
  let own := if hasRecord fn then [bitsOf i.a 8 40] else unitGrans fn i.a
  let mark := some (Eng.e, i.seq, i.pc)
  let stopAt := fun (s : State) (cause : BitVec 8) (tval : Word) =>
    (s.onCtx c fun x =>
      { x with qe := { x.qe with items := setNth x.qe.items 0 { i with phase := .parked 0 },
                                 started := match i.phase with | .idle => x.qe.started + 1 | _ => x.qe.started } }).raise
      c cause tval i.pc mark
  match own.find? fun g => (x.gran g).owner with
  | some g => s.headWaits c .e wOwner (winAddr (256 * g))
  | none =>
    match own.find? fun g => (x.gran g).poison with
    | some g => stopAt s 0x0E (BitVec.ofNat 64 g)
    | none =>
      match (if hasRecord fn then none else own.find? fun g => !tagOk (x.gran g) .u32 false) with
      | some g => stopAt s 0x04 (BitVec.ofNat 64 g)
      | none =>
        let bs := if hasRecord fn then (granBytes (x.gran (bitsOf i.a 8 40)).read).take 128 else []
        let (code, g, m) := if hasRecord fn then recordCode s c fn bs else (0, [], [])
        if code != 0 then stopAt (s.onCtx c fun x => x.putCompletion i.a (3 + code * 256)) 0x10 i.a
        else
          match submitWait s c fn i.a bs (own ++ g).eraseDups m with
          | some w => s.headWaits c .e w.1 w.2
          | none => s.submit c i f bs (own ++ g).eraseDups m.eraseDups

/-- ENG_SUBMISSION: the head of the E queue is an ENG word (R267). -/
def State.submission (s : State) (c : CtxLoc) : State :=
  match (s.ctxAt c).qe.items with
  | [] => s
  | i :: _ =>
    match engFields i.ins with
    | none => s
    | some f => if s.engineOn c then submitHead c i f s else s

/-- ENG_SUBMISSION (R267). -/
def execEngSubmission (c : CtxLoc) (s : State) : Out := atCtx c s fun s => s.submission c

end Sys2Proof.Machine
end

