-- ==== Sys2Proof/Machine/EngData.lean ====
section
/-!
DEFINITION. What engines do to storage: reading and writing an element of a side, tags, poison and allocation (R232, R245,
R261, R275, R277, R282), and the element steps of COPY, FILL, GATHER, SCATTER, SCATTERADD, REFRESH, FAMO and FCAS (R282 to
R286).
-/
namespace Sys2Proof.Machine

/-! ### Reading -/

/-- What a read of a side gives: a value, its poison, zeros from invalid Moss, its stamp; a code (R277); or a block of
another module's memory that has still to be fetched; or the read waits at a bank of Moss (R217). -/
inductive Got where
  | ok (v : Nat) (bad inv : Bool) (st : Stamp)
  | busy
  | fail (code : BitVec 8)
  | need (chip block : Nat)
  deriving DecidableEq, Repr

/-- An engine's access to Moss is not granted: a near request waits at its bank, or a rewrite occupies the bank or waits for it, which
takes precedence (R217). -/
def bankHeld (s : State) (p off n : Nat) : Bool :=
  (rgsOf off n).any fun g => nearWaits s p (g % 128) || (s.cluAt p).rewrites.any fun r => r.n % 128 = g % 128

/-- An engine's read of `n` bytes (R232, R261, R275); a window granule passes CheckTag (R282). -/
def readAt (s : State) (k : Cmd) (d : SideK) (a n : Nat) (f : Fmt) (bitwise : Bool) : Got :=
  match d with
  | .win =>
    let g := (s.ctxAt k.who).gran (a / 256)
    if tagOk g f bitwise then .ok (getAt g.read (8 * (a % 256)) (8 * n)) g.poison false {} else .fail 0x04
  | .moss p =>
    if bankHeld s p a n then .busy
    else
    match mossRead (s.cluAt p) a n with
    | none => .fail 0x0A
    | some g => .ok (leNat g.bytes) g.bad g.inv g.stamp
  | .dev =>
    match translate s k.who.pcl k.part a .load with
    | .error e => .fail e
    | .ok pa => .ok (loadNat s.mem pa n) (s.poison.contains (pa / 64)) false (unitStamp s [pa / 64])
  | .far chip =>
    if s.absentChip chip then .fail 0x0F
    else
    match k.far.find? fun b => b.1 = chip && b.2.1 = a / 256 with
    | some b => .ok (leNat ((b.2.2.1.drop (a % 256)).take n)) (b.2.2.2.getLsbD (a % 256 / 64)) false {}
    | none => .need chip (a / 256)

/-! ### Writing -/

/-- The destination unit of a byte: a device line, a granule, a row group (R245). -/
def lineKey (pa : Nat) : Nat := pa / 64
def granKey (g : Nat) : Nat := 2 ^ 40 + g
def rgKey (p n : Nat) : Nat := 2 ^ 41 + p * 16384 + n

/-- Bytes `lo` to `lo + n - 1` of a unit of `w` bytes are written: the command, and, when the unit is now written whole,
whether poison was carried into it. -/
def Cmd.touch (k : Cmd) (key lo n w : Nat) (bad : Bool) : Cmd × Option Bool :=
  let old := (tfind k.cover key).getD 0
  let m := old ||| BitVec.ofNat 256 ((2 ^ n - 1) * 2 ^ lo)
  let dirty := if bad && !k.dirty.contains key then key :: k.dirty else k.dirty
  if m = BitVec.ofNat 256 (2 ^ w - 1) then
    ({ k with cover := tput k.cover key 0, dirty := dirty.filter (· != key) }, some (dirty.contains key))
  else ({ k with cover := tput k.cover key m, dirty := dirty }, none)

/-- Whether an element of a shape holds the byte `t` bytes above the base; the innermost dimension is the last. -/
def covers (z : Nat) : List (Nat × Int) → Int → Bool
  | [], t => 0 ≤ t && t < z
  | [(e, st)], t => if st = 0 then 0 ≤ t && t < z else 0 ≤ t / st && t / st < e && t % st < z
  | (e, st) :: r, t => (List.range e).any fun i => covers z r (t - i * st)

/-- The index of row `r`, where it can be read at once (R284). -/
def peekIndex (s : State) (k : Cmd) (r : Nat) : Option Nat :=
  match sideOf s k.who k.part (s.ctxAt k.who).wsize (bodyL k.bytes) with
  | .error _ => none
  | .ok d =>
    match readAt s k d.k (d.base + 4 * r) 4 .u32 true with
    | .ok v _ _ _ => some v
    | _ => none

/-- Elements that a collective command writes (R402). -/
def Cmd.collCount (k : Cmd) : Nat :=
  match k.coll with
  | some c => if bodySub k.bytes = 1 then bodyE k.bytes 0 / c.parts.length else bodyE k.bytes 0
  | none => bodyE k.bytes 0

/-- Whether a byte of the destination side, `t` bytes above B, is written by the command (R282). -/
def Cmd.writesByte (s : State) (k : Cmd) (t : Int) : Bool :=
  let bs := k.bytes
  let z := elemBytes bs
  let fn := k.fn.toNat
  if fn ≤ 1 then covers z [(bodyE bs 3, bodyX bs 3), (bodyE bs 2, bodyX bs 2), (bodyE bs 1, bodyX bs 1), (bodyE bs 0, bodyX bs 0)] t
  else if fn = 0x10 then covers z [(bodyE bs 1, bodyX bs 0), (bodyE bs 0, (z : Int))] t
  else if fn = 0x20 then 0 ≤ t && t < k.collCount * z
  else (List.range (bodyE bs 1)).any fun r =>
    match peekIndex s k r with
    | some x => let u := t - x * bodyW bs 2; 0 ≤ u && u < bodyE bs 0 * z
    | none => false

/-- A window granule every byte of which is a destination byte is written whole (R282). -/
def wholeGran (s : State) (k : Cmd) (g : Nat) : Bool :=
  (List.range 256).all fun b => k.writesByte s ((256 * g + b : Nat) - (bitsOf (bodyB k.bytes) 0 48 : Int))

/-- An engine's write to a granule of the submitter's window (R245, R282). -/
def writeGran (s : State) (k : Cmd) (a n v : Nat) (bad : Bool) (f : Fmt) : Except (BitVec 8) (Cmd × State) :=
  let x := s.ctxAt k.who
  let g := x.gran (a / 256)
  if g.fmt = .empty || g.fmt = f || (k.fn != 0x12 && wholeGran s k (a / 256)) then
    let (k, full) := k.touch (granKey (a / 256)) (a % 256) n 256 bad
    .ok (k, s.setCtx k.who (x.setGran (a / 256)
      { g with data := putAt g.read (8 * (a % 256)) (8 * n) v, fmt := f, poison := full.getD (g.poison || bad) }))
  else .error 0x04

/-- A row group that an engine's write needs: allocated under the record's class if it is FREE (R219, R232). -/
def allocFor (cl : Cluster) (k : Cmd) (n : Nat) : Except (BitVec 8) (Cmd × Cluster) :=
  if (cl.rg n).cls != 0 then .ok (k, cl)
  else if bodyClass k.bytes = 0 then .error 0x09
  else
    let lim := BitVec.ofNat 3 (bodyLim k.bytes)
    let claim := fun (e : Nat) (cl : Cluster) => claimRg (BitVec.ofNat 3 (bodyClass k.bytes)) 0x03FF lim e cl n
    match k.alloc.bind fun e => (tfind cl.alloc e).map fun a => (e, a) with
    | some (e, a) => .ok (k, claim e { cl with alloc := tput cl.alloc e { a with refs := a.refs + 1 } })
    | none =>
      match tfree cl.alloc 1 4095 with
      | none => .error 0x09
      | some e => .ok ({ k with alloc := some e }, claim e { cl with alloc := tput cl.alloc e ⟨k.part, k.launch, k.strand, 0x03FF, lim, 1⟩ })

/-- An engine's write to Moss (R226, R232, R252). -/
def writeMoss (s : State) (own : Nat) (k : Cmd) (p a n v : Nat) (bad : Bool) : Except (BitVec 8) (Cmd × State) :=
  match allocFor (s.cluAt p) k (a / 4096) with
  | .error e => .error e
  | .ok (k, cl) =>
    let (st, s) := if dieOf p = dieOf own then (k.obs, s) else s.stampWrite (dieOf own) k.obs
    let s := if dieOf p = dieOf own then s else s.flush st
    match mossWrite cl a (toLE n v) bad st with
    | none => .error 0x09
    | some cl =>
      let (k, _) := k.touch (rgKey p (a / 4096)) 0 0 256 bad
      .ok (k, s.setClu p cl)

/-- An engine's write to device memory, at its home (R245, R252, R253). -/
def writeDev (s : State) (own : Nat) (k : Cmd) (va n v : Nat) (bad : Bool) : Except (BitVec 8) (Cmd × State) :=
  match translate s k.who.pcl k.part va .store with
  | .error e => .error e
  | .ok pa =>
    let s := (fillTlb s k.who.pcl k.part va).engWrite (dieOf own) k.obs pa (toLE n v) bad
    let (k, full) := k.touch (lineKey pa) (pa % 64) n 64 bad
    .ok (k, if full = some false then { s with poison := s.poison.filter (· != pa / 64) } else s)

/-- The poison bit of the flit that holds byte `o` of a transaction's data. -/
def flitBad (o : Nat) (bad : Bool) : BitVec 4 := if bad then BitVec.ofNat 4 (2 ^ (o / 64)) else 0

/-- A write to another module waits in the chunk, joined to the one before it within a block of 256 bytes (R389). -/
def writeFar (k : Cmd) (chip a n v : Nat) (bad : Bool) : Cmd :=
  let k := { k with far := k.far.filter fun b => !(b.1 = chip && b.2.1 = a / 256) }
  match k.out.getLast? with
  | some (c, b, bs, p) =>
    if c = chip && b + bs.length = a && a % 256 != 0 then
      { k with out := k.out.dropLast ++ [(c, b, bs ++ toLE n v, p ||| flitBad bs.length bad)] }
    else { k with out := k.out ++ [(chip, a, toLE n v, flitBad 0 bad)] }
  | none => { k with out := [(chip, a, toLE n v, flitBad 0 bad)] }

/-- An engine's write of an element (R275). -/
def writeAt (s : State) (own : Nat) (k : Cmd) (d : SideK) (a n v : Nat) (bad : Bool) (f : Fmt) :
    Except (BitVec 8) (Cmd × State) :=
  match d with
  | .win => writeGran s k a n v bad f
  | .moss p => writeMoss s own k p a n v bad
  | .dev => writeDev s own k a n v bad
  | .far chip => if s.absentChip chip then .error 0x0F else .ok (writeFar k chip a n v bad, s)

/-- Poisons the lines of device memory that hold bytes of a virtual span. -/
def State.vpoison (s : State) (pcl p va n : Nat) : State :=
  (pieces (n / 64 + 2) va n).foldl
    (fun s a => match translate s pcl p a.1 .store with
      | .error _ => s
      | .ok pa => if s.poison.contains (pa / 64) then s else { s with poison := s.poison ++ [pa / 64] }) s

/-- Poisons the destination units of `n` bytes of a side (R277, R381, R404). -/
def poisonAt (s : State) (k : Cmd) (d : SideK) (a n : Nat) : State :=
  if n = 0 then s
  else
    match d with
    | .win => s.onCtx k.who fun x =>
        ((List.range ((a + n - 1) / 256 + 1)).drop (a / 256)).foldl (fun x g => x.setGran g { x.gran g with poison := true }) x
    | .moss p => s.onClu p fun cl =>
        (rgsOf a n).foldl (fun cl g => cl.setRg g { cl.rg g with poison := true }) cl
    | .dev => s.vpoison k.who.pcl k.part a n
    | .far _ => s

/-! ### Steps -/

/-- How a step of a chunk ends: done; with a code; waiting for a block of another module; or held back for now. -/
inductive Prog where
  | ok (k : Cmd) (s : State)
  | fail (code : BitVec 8) (k : Cmd) (s : State)
  | need (chip block : Nat) (k : Cmd) (s : State)
  | hold (k : Cmd) (s : State)
  deriving DecidableEq, Repr

/-- Goes on with the value of a read: the command notes zeros from invalid Moss, and observes the stamp (R252, R271). -/
def withGot (g : Got) (k : Cmd) (s : State) (f : Nat → Bool → Cmd → State → Prog) : Prog :=
  match g with
  | .fail c => .fail c k s
  | .need a b => .need a b k s
  | .busy => .hold k s
  | .ok v bad inv st => f v bad { k with rdinv := k.rdinv || inv, obs := k.obs.max st } s

/-- The result of a write, with `n` more bytes performed and the poison noted (R271). -/
def wrote (r : Except (BitVec 8) (Cmd × State)) (k : Cmd) (s : State) (n : Nat) (bad : Bool) : Prog :=
  match r with
  | .error c => .fail c k s
  | .ok (k, s) => .ok { k with moved := k.moved + n, poison := k.poison || bad, pos := k.pos + 1 } s

/-- A write to a side has to wait: its bank is not granted (R217), or it is stamped, and a change that it depends on is not applied
(R252, R253). -/
def writeHeld (s : State) (own : Nat) (k : Cmd) (d : SideK) (a n : Nat) : Bool :=
  match d with
  | .win | .far _ => false
  | .moss p => bankHeld s p a n || (dieOf p != dieOf own && !s.mayWrite (dieOf own) k.obs)
  | .dev => !s.mayWrite (dieOf own) k.obs

/-- An element is stored; bytes of another module's memory count as performed when its reply says so (R271, R277). -/
def storeElem (own : Nat) (k : Cmd) (s : State) (d : SideK) (a n v : Nat) (bad : Bool) (f : Fmt) : Prog :=
  if writeHeld s own k d a n then .hold k s
  else wrote (writeAt s own k d a n v bad f) k s (match d with | .far _ => 0 | _ => n) bad

/-- The offset of element `e` under a shape, the innermost dimension first (R282). -/
def shapeOffset : List (Nat × Int) → Nat → Int
  | [], _ => 0
  | (n, st) :: r, e => (e % n : Nat) * st + shapeOffset r (e / n)

/-- The side of an address of the command's record; the checks of the submission have passed. -/
def Cmd.side (s : State) (k : Cmd) (a : Word) : Side :=
  match sideOf s k.who k.part (s.ctxAt k.who).wsize a with
  | .ok d => d
  | .error _ => ⟨.dev, 0⟩

/-- An address of a side at an offset. -/
def Side.off (d : Side) (o : Int) : Nat := (d.base + o).toNat

/-- The sum of an element and its addend at the home (R284). -/
def addElem (f : Fmt) (a b : Nat) : Nat :=
  match f with
  | .fp32 | .fp16 | .bf16 => (fpAdd f .rne false a b).1
  | f => (a + b) % 2 ^ f.bits

/-- The operation code with which an addend travels to another module: R46 for the widths of R108; 11 and 12 for FP16 and
BF16 (log 25). -/
def farAddOp : Fmt → Nat
  | .fp32 => 9 | .fp16 => 11 | .bf16 => 12 | _ => 1

/-- The source of element `e` of COPY, GATHER, SCATTER, SCATTERADD or COLL, where it can be told: of a GATHER while the index of its row is
at hand. -/
def srcOf (s : State) (k : Cmd) (e : Nat) : Option (SideK × Nat) :=
  let bs := k.bytes
  let z := elemBytes bs
  let fn := k.fn.toNat
  let a := k.side s (bodyA bs)
  let o : Int := (e % bodyE bs 0 * z : Nat)
  if fn = 0 then some (a.k, a.off (shapeOffset ((List.range 4).map fun j => (bodyE bs j, bodyW bs j)) e))
  else if fn = 0x10 then
    if e / bodyE bs 0 = k.pos / bodyE bs 0 && k.pos % bodyE bs 0 != 0 then some (a.k, a.off (o + k.result.toNat * bodyW bs 2)) else none
  else if fn = 0x11 || fn = 0x12 then some (a.k, a.off (o + (e / bodyE bs 0 : Nat) * bodyX bs 0))
  else if fn = 0x20 then some (a.k, a.base + e * z)
  else none

/-- Element `e` of a source: of device memory as it has been read ahead, if it has (R261). -/
def readSrc (s : State) (k : Cmd) (d : SideK) (a n : Nat) (f : Fmt) (e : Nat) : Got :=
  match d, k.early.find? fun r => r.1 = e with
  | .dev, some (_, v, bad, st) => .ok v bad false st
  | _, _ => readAt s k d a n f true

/-- One element of COPY or FILL (R282). -/
def copyStep (own : Nat) (k : Cmd) (s : State) : Prog :=
  let bs := k.bytes
  let z := elemBytes bs
  let f := bodyFmt bs
  let e := k.pos
  let dims := fun (w : Nat → Int) => (List.range 4).map fun j => (bodyE bs j, w j)
  let d := k.side s (bodyB bs)
  let put := fun (v : Nat) (bad : Bool) (k : Cmd) (s : State) =>
    storeElem own k s d.k (d.off (shapeOffset (dims (bodyX bs)) e)) z v bad f
  if k.fn = 0x01 then put ((bodyA bs).toNat % 2 ^ (8 * z)) false k s
  else
    let a := k.side s (bodyA bs)
    withGot (readSrc s k a.k (a.off (shapeOffset (dims (bodyW bs)) e)) z f e) k s put

/-- The index of the row of element `pos`: read when the row begins, and then kept (R284). -/
def withIndex (k : Cmd) (s : State) (f : Nat → Cmd → State → Prog) : Prog :=
  let bs := k.bytes
  if k.pos % bodyE bs 0 != 0 then f k.result.toNat k s
  else
    let d := k.side s (bodyL bs)
    withGot (readAt s k d.k (d.base + 4 * (k.pos / bodyE bs 0)) 4 .u32 true) k s fun x bad k s =>
      if bodyE bs 2 ≤ x then .fail 0x06 k s
      else f x { k with result := BitVec.ofNat 64 x, stage := b2n bad } s

/-- An addend is added to an element at its home in one action (R284). -/
def addAt (own e : Nat) (k : Cmd) (s : State) (d : SideK) (a v : Nat) (bad : Bool) : Prog :=
  let f := bodyFmt k.bytes
  let z := elemBytes k.bytes
  match d with
  | .far chip =>
    if s.absentChip chip then .fail 0x0F k s
    else
    let s := s.sendWrite (dieOf own) k.obs chip 4
      { emptyFlit with va := BitVec.ofNat 64 a, len := z, op := farAddOp f + (if z = 4 then 16 else 0), a := BitVec.ofNat 64 v,
                       poison := BitVec.ofNat 4 (b2n bad) }
      (.engine own e k.num none)
    .ok { k with left := k.left + 1, pos := k.pos + 1, poison := k.poison || bad } s
  | d =>
    let place := match d with | .moss p => some (128 * p + a / 4096 % 128) | _ => none
    if writeHeld s own k d a z || place.any fun b => !s.mayAct k.part capAtomic b (whoEngine own e) then .hold k s
    else
      let s := match d with | .dev => s.settleMemory (dieOf own) k.obs | _ => s
      withGot (readAt s k d a z f false) k s fun y worse k s =>
        let s := match place with | some b => s.acted k.part capAtomic b (whoEngine own e) | none => s
        storeElem own k s d a z (addElem f y v) (bad || worse) f

/-- One element of GATHER, SCATTER or SCATTERADD (R284). -/
def rowStep (own e : Nat) (k : Cmd) (s : State) : Prog :=
  let bs := k.bytes
  let z := elemBytes bs
  let f := bodyFmt bs
  withIndex k s fun x k s =>
    let r := k.pos / bodyE bs 0
    let o : Int := (k.pos % bodyE bs 0 * z : Nat)
    let row := o + r * bodyX bs 0
    let tbl := o + x * bodyW bs 2
    let a := k.side s (bodyA bs)
    let b := k.side s (bodyB bs)
    let (so, dt) := if k.fn = 0x10 then (tbl, row) else (row, tbl)
    withGot (readSrc s k a.k (a.off so) z f k.pos) k s fun v bad k s =>
      let bad := bad || k.stage = 1
      if k.fn = 0x12 then addAt own e k s b.k (b.off dt) v bad
      else storeElem own k s b.k (b.off dt) z v bad f

/-- One row group of REFRESH: its rewrite enters its bank's queue (R217, R226, R283). -/
def refreshStep (own e : Nat) (k : Cmd) (s : State) : Prog :=
  let d := k.side s (bodyB k.bytes)
  match d.k with
  | .moss p =>
    .ok { k with pos := k.pos + 1, left := k.left + 1 }
      (s.onClu p fun cl => { cl with rewrites := cl.rewrites ++ [{ n := d.base / 4096 + k.pos, eng := some (own, e, k.num) }] })
  | _ => .fail 0x06 k s

/-- FAMO and FCAS (R286): the old value, and the new one written in one action at the home. -/
def famoStep (own e : Nat) (k : Cmd) (s : State) : Prog :=
  let bs := k.bytes
  let n := famoBytes bs
  let word : Bool := n = 4
  let op := if k.fn = 0x31 then 10 else bodyAux bs % 16
  let d := k.side s (bodyA bs)
  let new := fun (old : Nat) => atomNew op (8 * n) old (bodyB bs).toNat (bodyL bs).toNat
  let fin := fun (old : Nat) (bad : Bool) (k : Cmd) (s : State) =>
    Prog.ok { k with moved := n, pos := 1, result := atomOld word (BitVec.ofNat 64 old), poison := k.poison || bad } s
  match d.k with
  | .far chip =>
    if s.absentChip chip then .fail 0x0F k s
    else
    let s := s.sendWrite (dieOf own) k.obs chip 4
      { emptyFlit with va := BitVec.ofNat 64 d.base, len := n, op := op + (if word then 16 else 0), a := bodyB bs, b := bodyL bs }
      (.engine own e k.num none)
    .ok { k with left := k.left + 1, pos := 1 } s
  | .dev =>
    match translate s k.who.pcl k.part d.base .atomic with
    | .error c => .fail c k s
    | .ok pa =>
      if writeHeld s own k .dev d.base n then .hold k s
      else
      let s := s.settleMemory (dieOf own) k.obs
      let old := loadNat s.mem pa n
      fin old (s.poison.contains (pa / 64)) { k with obs := k.obs.max (unitStamp s [pa / 64]) }
        ((fillTlb s k.who.pcl k.part d.base).engWrite (dieOf own) (k.obs.max (unitStamp s [pa / 64])) pa (toLE n (new old)) false)
  | .moss p =>
    let bank := 128 * p + d.base / 4096 % 128
    if writeHeld s own k (.moss p) d.base n || !s.mayAct k.part capAtomic bank (whoEngine own e) then .hold k s
    else
      withGot (readAt s k (.moss p) d.base n .raw true) k s fun old bad k s =>
        match writeMoss (s.acted k.part capAtomic bank (whoEngine own e)) own k p d.base n (new old) false with
        | .error c => .fail c k s
        | .ok (k, s) => fin old bad k s
  | .win => .fail 0x06 k s

/-- Elements, or row groups, of a command in all. -/
def Cmd.total (k : Cmd) : Nat :=
  let e := bodyE k.bytes
  let fn := k.fn.toNat
  if fn ≤ 1 then e 0 * e 1 * e 2 * e 3
  else if fn = 0x02 then e 0
  else if 0x10 ≤ fn && fn ≤ 0x12 then e 0 * e 1
  else if fn = 0x20 then k.collCount
  else 1

/-- Elements of the chunk that begins at `pos` (R275). -/
def Cmd.chunkLen (k : Cmd) : Nat :=
  let fn := k.fn.toNat
  if fn ≤ 1 || (0x10 ≤ fn && fn ≤ 0x20) then
    let n := 4096 / elemBytes k.bytes
    min (n - k.pos % n) (k.total - k.pos)
  else 1

/-- A step of a command's chunk by its function. -/
def dataStep (own e : Nat) (k : Cmd) (s : State) : Prog :=
  let fn := k.fn.toNat
  if fn ≤ 1 then copyStep own k s
  else if fn = 0x02 then refreshStep own e k s
  else if fn ≤ 0x12 then rowStep own e k s
  else famoStep own e k s

/-- `n` steps. -/
def runSteps (step : Cmd → State → Prog) : Nat → Cmd → State → Prog
  | 0, k, s => .ok k s
  | n + 1, k, s =>
    match step k s with
    | .ok k s => runSteps step n k s
    | r => r

/-- The destination of element `e`, where it can be told: side, address, bytes. -/
def destOf (s : State) (k : Cmd) (e : Nat) : Option (SideK × Nat × Nat) :=
  let bs := k.bytes
  let z := elemBytes bs
  let fn := k.fn.toNat
  let d := k.side s (bodyB bs)
  if fn ≤ 1 then some (d.k, d.off (shapeOffset ((List.range 4).map fun j => (bodyE bs j, bodyX bs j)) e), z)
  else if fn = 0x10 then some (d.k, d.off ((e % bodyE bs 0 * z : Nat) + (e / bodyE bs 0 : Nat) * bodyX bs 0), z)
  else if fn = 0x11 || fn = 0x12 then
    (if e / bodyE bs 0 = k.pos / bodyE bs 0 && k.pos % bodyE bs 0 != 0 then some k.result.toNat
     else peekIndex s k (e / bodyE bs 0)).map fun x =>
      (d.k, d.off ((e % bodyE bs 0 * z : Nat) + x * bodyW bs 2), z)
  else if fn = 0x20 then some (d.k, d.base + e * z, z)
  else none

/-- The device addresses that the element under way uses, in their order: of its index, its source and its destination (R284). -/
def Cmd.uses (s : State) (k : Cmd) : List Nat :=
  let bs := k.bytes
  let fn := k.fn.toNat
  let dev := fun (d : SideK) (a : Nat) => match d with | .dev => [a] | _ => []
  let src := fun (e : Nat) => (srcOf s k e).toList.flatMap fun d => dev d.1 d.2
  let dst := (destOf s k k.pos).toList.flatMap fun d => dev d.1 d.2.1
  if fn = 0x20 then (if k.stage = 0 then (List.range (bodyE bs 0)).flatMap src else dst)
  else if 0x10 ≤ fn && fn ≤ 0x12 then
    let l := k.side s (bodyL bs)
    dev l.k (l.base + 4 * (k.pos / bodyE bs 0)) ++ src k.pos ++ dst
  else if fn = 0x30 || fn = 0x31 then let a := k.side s (bodyA bs); dev a.k a.base
  else src k.pos ++ dst

/-- The walk at which a command has failed is reported where it has met a malformed entry (R241). -/
def State.noteCmd (s : State) (k : Cmd) (code : BitVec 8) : State :=
  if code != 0x08 then s
  else
    match (k.uses s).find? fun a => (match leafOf s k.who.pcl k.part a with | .error _ => true | .ok _ => false) with
    | some a => s.noteWalk k.who.pcl k.part a
    | none => s

/-- Element `e` of a command's source is read ahead of its write: device memory, and no element to be written before it lies in its bytes
(R261, R282). -/
def Cmd.readAhead (s : State) (k : Cmd) (e : Nat) : Option Cmd :=
  let z := elemBytes k.bytes
  let inChunk : Bool := if k.fn = 0x20 then k.stage = 0 && e < bodyE k.bytes 0 else k.pos ≤ e && e < k.pos + k.chunkLen
  if !inChunk || k.early.any (fun r => r.1 = e) then none
  else
    match srcOf s k e with
    | some (.dev, a) =>
      let meets := fun (j : Nat) =>
        match destOf s k (k.pos + j), translate s k.who.pcl k.part a .load with
        | some (.dev, b, n), .ok pa =>
          (match translate s k.who.pcl k.part b .store with
            | .ok pb => overlaps pa z pb n
            | .error _ => true)
        | some (.dev, _, _), .error _ => true
        | none, _ => true
        | _, _ => false
      if k.fn != 0x20 && (List.range (e - k.pos)).any meets then none
      else
        match readAt s k .dev a z (bodyFmt k.bytes) true with
        | .ok v bad _ st => some { k with early := k.early ++ [(e, v, bad, st)] }
        | _ => none
    | _ => none

/-- The destination unit of an address of a side. -/
def unitKey (s : State) (k : Cmd) (d : SideK) (a : Nat) : Option Nat :=
  match d with
  | .win => some (granKey (a / 256))
  | .moss p => some (rgKey p (a / 4096))
  | .dev =>
    match translate s k.who.pcl k.part a .store with
    | .ok pa => some (lineKey pa)
    | .error _ => none
  | .far _ => none

/-- Poisons every unit that the command has begun to write and has not finished (R381). -/
def poisonBegun (k : Cmd) (s : State) : State :=
  (List.range (k.total - k.pos)).foldl
    (fun t j =>
      match destOf s k (k.pos + j) with
      | none => t
      | some (d, a, n) =>
        match unitKey s k d a with
        | some u => if (tfind k.cover u).isSome then poisonAt t k d a n else t
        | none => t) s

/-- Bytes of another module's memory that element `e` writes: chip, address, number. -/
def farDest (s : State) (k : Cmd) (e : Nat) : Option (Nat × Nat × Nat) :=
  match destOf s k e with
  | some (.far chip, a, n) => some (chip, a, n)
  | _ => none

/-- The elements of a stopped command that leave a 64-byte line of another module's memory begun and not finished, one for each such line
(R381). Writes that still wait in the chunk are not made. -/
def farBegun (s : State) (k : Cmd) : List (Nat × Nat × Nat) :=
  let waits := fun (d : Nat × Nat × Nat) => k.out.any fun w => w.1 = d.1 && w.2.1 ≤ d.2.1 && d.2.1 < w.2.1 + w.2.2.1.length
  let before := (List.range k.pos).filterMap (farDest s k)
  let sent := (before.filter fun d => !waits d).map fun d => (d.1, d.2.1 / 64)
  let rest := before.filter waits ++ (List.range (k.total - k.pos)).filterMap fun j => farDest s k (k.pos + j)
  (rest.foldl
    (fun (a : List (Nat × Nat × Nat) × List (Nat × Nat)) d =>
      let u := (d.1, d.2.1 / 64)
      if sent.contains u && !a.2.contains u then (a.1 ++ [d], u :: a.2) else a) ([], [])).1

/-- A stopped command poisons those lines: poisoned writes of bytes that it would have written, whose values are free (R381, R386,
log 24). -/
def State.poisonFarBegun (s : State) (own e : Nat) (k : Cmd) : State :=
  (farBegun s k).foldl
    (fun t d =>
      let bs := (toLE 8 (Config.freeReply t.free).toNat).take d.2.2
      let f : Flit := { emptyFlit with va := BitVec.ofNat 64 d.2.1, len := bs.length, data := bs, poison := 1 }
      let t := { t.sendWrite (dieOf own) k.obs d.1 3 f (.engine own e k.num none) with free := t.free + 1 }
      t.onCmd own e k.num fun k => { k with left := k.left + 1 }) s

end Sys2Proof.Machine
end

