-- ==== Sys2Proof/Machine/Collective.lean ====
section
/-!
DEFINITION. Collectives (R285, R401 to R404): the descriptor, the tree, the spans, and aborts; and the weight-set table as
WSTAT and WSWAP read it (R289, R290, R414).
-/
namespace Sys2Proof.Machine

/-! ### The descriptor (R401) -/

/-- Reaches the root from participant `i` along the parents. -/
def reachesRoot (parts : List (Nat × Nat × Nat)) : Nat → Nat → Bool
  | 0, _ => false
  | n + 1, i =>
    match parts[i]? with
    | none => false
    | some (_, _, p) => p = 0xFFFF || reachesRoot parts n p

/-- Whether every entry of a list differs from the later ones. -/
def allDiffer {α : Type} [DecidableEq α] : List α → Bool
  | [] => true
  | a :: r => !r.contains a && allDiffer r

/-- The participant's chip number is this module's (R215). -/
def isHere (s : State) (part : Nat × Nat × Nat) : Bool := s.isOwnChip part.1

/-- The checks of a descriptor (R401). -/
def collOk (parts : List (Nat × Nat × Nat)) (sub e0 : Nat) : Bool :=
  let p := parts.length
  2 ≤ p && p ≤ 1024 && (parts.filter fun e => e.2.2 = 0xFFFF).length = 1 &&
  (List.range p).all (fun i => reachesRoot parts p i) && allDiffer (parts.map fun e => (e.1, e.2.1)) &&
  (!(sub = 1 || sub = 2 || sub = 4) || e0 % p = 0)

/-- The descriptor of a COLL command as the engine of a cluster reads it, and whether it passes the checks; a code where the
read fails, and `none` where the descriptor is poisoned (R401). -/
def readColl (s : State) (own : Nat) (k : Cmd) : Except (BitVec 8) (Option (Coll × Bool)) :=
  let va := (bodyL k.bytes).toNat
  match vbytes s k.who.pcl k.part va 64 with
  | .error (c, _) => if c = 0x0D then .ok none else .error c
  | .ok h =>
    let p := fieldAt h 4 2
    match vbytes s k.who.pcl k.part (va + 64) (8 * p) with
    | .error (c, _) => if c = 0x0D then .ok none else .error c
    | .ok bs =>
      let parts := (List.range p).map fun i =>
        let v := fieldAt bs (8 * i) 8
        (v % 4096, v / 2 ^ 16 % 64, v / 2 ^ 32 % 65536)
      let coll := fun (me : Nat) => (⟨own, k.num, k.part, fieldAt h 0 4, fieldAt h 8 4, parts, me⟩ : Coll)
      match parts.findIdx? fun e => isHere s e && e.2.1 = own with
      | none => .ok (some (coll p, false))
      | some me => .ok (some (coll me, collOk parts (bodySub k.bytes) (bodyE k.bytes 0)))

/-- Children of a participant, in ascending index (R403). -/
def Coll.children (c : Coll) (i : Nat) : List Nat :=
  (List.range c.parts.length).filter fun j => (c.parts.getD j (0, 0, 0xFFFF)).2.2 = i
def Coll.parent (c : Coll) : Nat := (c.parts.getD c.me (0, 0, 0xFFFF)).2.2
def Coll.isRoot (c : Coll) : Bool := c.parent = 0xFFFF

/-! ### Messages -/

/-- Data comes in at the collective engine of a cluster: it joins what the sender has sent before. Data for a cluster outside the
partition `p` that it is addressed to reaches nothing (R378). -/
def State.collArrive (s : State) (p pcl : Nat) (m : CollMsg) : State :=
  if !(s.partAt p).owns pcl then s
  else s.onClu pcl fun cl =>
    match cl.inbox.find? fun b => b.cid = m.cid && b.sender = m.sender && b.up = m.up with
    | none => { cl with inbox := cl.inbox ++ [m] }
    | some b =>
      { cl with inbox := cl.inbox.map fun c => if c = b then { c with bytes := c.bytes ++ m.bytes } else c }

/-- Elements `lo` to `lo + n - 1` of a list with its poisoned elements, renumbered. -/
def sliceOf (vs : List Word) (bad : List Nat) (lo n : Nat) : List Word × List Nat :=
  ((vs.drop lo).take n, (bad.filter fun b => lo ≤ b && b < lo + n).map (· - lo))

/-- Elements of `z` bytes with their poison as bytes, and back. -/
def packVals (z : Nat) (vs : List Word) (bad : List Nat) : List (Byte × Bool) :=
  (vs.zip (List.range vs.length)).flatMap fun p => (toLE z p.1.toNat).map fun b => (b, bad.contains p.2)
def unpackVals (z n : Nat) (bs : List (Byte × Bool)) : List Word × List Nat :=
  let at_ := fun (i : Nat) => (bs.drop (i * z)).take z
  ((List.range n).map fun i => BitVec.ofNat 64 (leNat ((at_ i).map Prod.fst)), (List.range n).filter fun i => (at_ i).any Prod.snd)

/-- The header of a piece of collective data for a cluster of another module: the sender's index and the direction lie in the operands,
the cluster in the operation (R389, R390, log 28). -/
def collFlit (c : Coll) (pcl : Nat) (up : Bool) (p : List (Byte × Bool)) : Flit :=
  { emptyFlit with cid := BitVec.ofNat 32 c.cid, a := BitVec.ofNat 64 (2 * c.me + b2n up), op := pcl, len := p.length,
                   data := p.map Prod.fst
                   poison := (List.range 4).foldl
                     (fun m k => if ((p.drop (64 * k)).take 64).any Prod.snd then m ||| flitBad (64 * k) true else m) 0 }

/-- Sends data to a participant: of this module at once, of another over the fabric in pieces of 256 bytes (R389,
R390). -/
def State.collSend (s : State) (c : Coll) (z : Nat) (dest : Nat) (up : Bool) (vals : List Word) (bad : List Nat) : State :=
  match c.parts[dest]? with
  | none => s
  | some e =>
    let bs := packVals z vals bad
    if isHere s e then s.collArrive c.part e.2.1 ⟨c.cid, c.me, up, bs⟩
    else
      (List.range ((bs.length + 255) / 256)).foldl
        (fun s i => s.sendTxn e.1 8 (collFlit c e.2.1 up ((bs.drop (256 * i)).take 256)) (some (.engine c.own 5 c.num none))) s

/-- Elements that a participant has sent: values, and the poisoned ones. -/
structure CollGot where
  sender : Nat
  vals   : List Word
  bad    : List Nat
  deriving DecidableEq, Repr

/-- Takes `n` elements of `z` bytes of a sender from a cluster's box, once they are all there. -/
def collTake (s : State) (own cid sender z n : Nat) (up : Bool) : Option (CollGot × State) :=
  match (s.cluAt own).inbox.find? fun m => m.cid = cid && m.sender = sender && m.up = up && n * z ≤ m.bytes.length with
  | none => none
  | some m =>
    let (v, b) := unpackVals z n m.bytes
    let rest := m.bytes.drop (n * z)
    some (⟨sender, v, b⟩,
      s.onClu own fun cl =>
        { cl with inbox := cl.inbox.erase m ++ (if rest.isEmpty then [] else [({ m with bytes := rest } : CollMsg)]) })

/-- Takes the data of every sender of a list, in its order, or nothing. -/
def collTakeAll (own cid z n : Nat) (up : Bool) : List Nat → State → Option (List CollGot × State)
  | [], s => some ([], s)
  | i :: r, s =>
    match collTake s own cid i z n up with
    | none => none
    | some (m, s) => (collTakeAll own cid z n up r s).map fun p => (m :: p.1, p.2)

/-! ### Values (R402, R403) -/

/-- One combine of a reduction: 0 sum, 1 maximum, 2 minimum (R403). -/
def combine (f : Fmt) (red a b : Nat) : Nat :=
  match f with
  | .fp32 | .fp16 | .bf16 => if red = 0 then (fpAdd f .rne false a b).1 else (fpMinMax f (red = 1) a b).1
  | f =>
    if red = 0 then (a + b) % 2 ^ f.bits
    else if red = 1 then (if intOf f a < intOf f b then b else a)
    else (if intOf f b < intOf f a then b else a)

/-- Folds the children's values into the own ones, element by element (R403). -/
def combineAll (f : Fmt) (red : Nat) (own : List Word) (ms : List CollGot) : List Word :=
  ms.foldl (fun vs m => (vs.zip m.vals).map fun p => BitVec.ofNat 64 (combine f red p.1.toNat p.2.toNat)) own

/-- Elements read from a side: values, the poisoned ones. -/
inductive ReadList where
  | ok (vals : List Word) (bad : List Nat) (k : Cmd)
  | fail (code : BitVec 8)
  | need (chip block : Nat)
  | busy
  deriving DecidableEq, Repr

/-- Reads elements `i` up, `n` of them, of a COLL command's source, some of them as they have been read ahead (R261). -/
def readSource (s : State) (d : Side) (z : Nat) (f : Fmt) : Nat → Nat → Cmd → ReadList
  | 0, _, k => .ok [] [] k
  | n + 1, i, k =>
    match readSrc s k d.k (d.base + i * z) z f i with
    | .fail c => .fail c
    | .need a b => .need a b
    | .busy => .busy
    | .ok v bad inv st =>
      match readSource s d z f n (i + 1) { k with rdinv := k.rdinv || inv, obs := k.obs.max st, poison := k.poison || bad } with
      | .ok vs bs k => .ok (BitVec.ofNat 64 v :: vs) (if bad then i :: bs else bs) k
      | r => r

/-- Goes on with the first `n` source elements. -/
def withSource (n : Nat) (k : Cmd) (s : State) (f : List Word → List Nat → Cmd → State → Prog) : Prog :=
  match readSource s (k.side s (bodyA k.bytes)) (elemBytes k.bytes) (bodyFmt k.bytes) n 0 k with
  | .fail c => .fail c k s
  | .need a b => .need a b k s
  | .busy => .hold k s
  | .ok vs bs k => f vs bs k s

/-- The result is sent to the children from the `i`-th on, as far as the replay buffer has room for the whole of it; then the command begins
to write. Stage 3 + i says which child is next (R393, R403). -/
def collDown (c : Coll) (z : Nat) : Nat → List Nat → Cmd → State → Prog
  | _, [], k, s => .ok { k with stage := 2 } s
  | i, j :: r, k, s =>
    match c.parts[j]? with
    | none => collDown c z (i + 1) r k s
    | some e =>
      if isHere s e then collDown c z (i + 1) r k (s.collSend c z j false k.vals k.valsBad)
      else if s.absentChip e.1 then .fail 0x0F k s
      else if 2 ^ 20 < s.kept + (k.vals.length * z + 255) / 256 then .hold { k with stage := 3 + i } s
      else collDown c z (i + 1) r k (s.collSend c z j false k.vals k.valsBad)

/-- The result is known, and goes down the tree (R403). -/
def collResult (c : Coll) (z : Nat) (vs : List Word) (bad : List Nat) (k : Cmd) (s : State) : Prog :=
  collDown c z 0 (c.children c.me) { k with vals := vs, valsBad := bad } s

/-- All spans of an all-gather or an all-to-all, in the order of the participants. -/
def joinSpans (p me n : Nat) (own : List Word × List Nat) (ms : List CollGot) : List Word × List Nat :=
  (List.range p).foldl
    (fun a j =>
      let m := if j = me then own
        else match ms.find? fun m => m.sender = j with
          | some m => (m.vals, m.bad)
          | none => ([], [])
      (a.1 ++ m.1.take n, a.2 ++ m.2.map (· + j * n))) ([], [])

/-- The own part of a COLL: its source is read and sent on (R402, R403). -/
def collBegin (own : Nat) (c : Coll) (k : Cmd) (s : State) : Prog :=
  let bs := k.bytes
  let z := elemBytes bs
  let e0 := bodyE bs 0
  let p := c.parts.length
  let others := (List.range p).filter (· != c.me)
  match bodySub bs with
  | 2 =>
    withSource (e0 / p) k s fun vs bad k s =>
      .ok { k with vals := vs, valsBad := bad, stage := 1 } (others.foldl (fun s j => s.collSend c z j false vs bad) s)
  | 3 =>
    if c.isRoot then withSource e0 k s fun vs bad k s => collResult c z vs bad k s else .ok { k with stage := 1 } s
  | 4 =>
    withSource e0 k s fun vs bad k s =>
      let span := fun j => sliceOf vs bad (j * (e0 / p)) (e0 / p)
      .ok { k with vals := (span c.me).1, valsBad := (span c.me).2, stage := 1 }
        (others.foldl (fun s j => s.collSend c z j false (span j).1 (span j).2) s)
  | _ =>
    match collTakeAll own c.cid z e0 true (c.children c.me) s with
    | none => .hold k s
    | some (ms, t) =>
      withSource e0 k s fun vs bad k _ =>
        let r := combineAll (bodyFmt bs) (bodyAux bs) vs ms
        let bad := (bad ++ ms.flatMap CollGot.bad).eraseDups
        let k := { k with poison := k.poison || !bad.isEmpty }
        if c.isRoot then collResult c z r bad k t
        else .ok { k with stage := 1 } (t.collSend c z c.parent true r bad)

/-- A COLL waits for what the others send (R402, R403). -/
def collAwait (own : Nat) (c : Coll) (k : Cmd) (s : State) : Prog :=
  let bs := k.bytes
  let z := elemBytes bs
  let p := c.parts.length
  let sub := bodySub bs
  if sub = 2 || sub = 4 then
    match collTakeAll own c.cid z (bodyE bs 0 / p) false ((List.range p).filter (· != c.me)) s with
    | none => .hold k s
    | some (ms, s) =>
      let (vs, bad) := joinSpans p c.me (bodyE bs 0 / p) (k.vals, k.valsBad) ms
      .ok { k with vals := vs, valsBad := bad, stage := 2, poison := k.poison || !bad.isEmpty } s
  else
    match collTake s own c.cid c.parent z (bodyE bs 0) false with
    | none => .hold k s
    | some (m, s) => collResult c z m.vals m.bad { k with poison := k.poison || !m.bad.isEmpty } s

/-- One element of a COLL's destination is written (R402). -/
def collWrite (own : Nat) (c : Coll) (k : Cmd) (s : State) : Prog :=
  let bs := k.bytes
  let z := elemBytes bs
  let d := k.side s (bodyB bs)
  let i := if bodySub bs = 1 then c.me * (bodyE bs 0 / c.parts.length) + k.pos else k.pos
  let bad := k.valsBad.contains i
  storeElem own k s d.k (d.base + k.pos * z) z (k.vals.getD i 0).toNat bad (bodyFmt bs)

/-- The participants to which a COLL sends data. -/
def collDests (c : Coll) (sub : Nat) : List Nat :=
  if sub = 2 || sub = 4 then (List.range c.parts.length).filter (· != c.me)
  else (if c.isRoot || sub = 3 then [] else [c.parent]) ++ c.children c.me

/-- One of them is on a module without an identity entry (R397). -/
def collAbsent (s : State) (c : Coll) (sub : Nat) : Bool :=
  (collDests c sub).any fun j => (c.parts[j]?).any fun e => !isHere s e && s.absentChip e.1

/-- A chunk of a COLL: as far as it can go, and when the values are known `n` elements of the destination (R275, R402). -/
def collChunk (own n : Nat) (k : Cmd) (s : State) : Prog :=
  match k.coll with
  | none => .fail 0x1A k s
  | some c =>
    let first : Prog :=
      if k.stage < 2 && collAbsent s c (bodySub k.bytes) then .fail 0x0F k s
      else if k.stage = 0 then collBegin own c k s else .ok k s
    let second := match first with
      | .ok k s =>
        if k.stage = 1 then collAwait own c k s
        else if 3 ≤ k.stage then collDown c (elemBytes k.bytes) (k.stage - 3) ((c.children c.me).drop (k.stage - 3)) k s
        else .ok k s
      | r => r
    match second with
    | .ok k s => if k.stage = 2 then runSteps (collWrite own c) (min n k.chunkLen) k s else .ok k s
    | r => r

/-! ### Aborts (R404) -/

/-- The first element of the first span that is not final: spans of one participant each, one span for reduce-scatter. -/
def notFinal (k : Cmd) : Nat :=
  match k.coll with
  | none => 0
  | some c =>
    if bodySub k.bytes = 1 then 0
    else ((List.range (c.parts.length + 1)).map fun i => i * bodyE k.bytes 0 / c.parts.length).foldl
      (fun a b => if b ≤ k.pos then max a b else a) 0

/-- Poisons the destination spans that are not final (R404). -/
def poisonSpans (k : Cmd) (s : State) : State :=
  let z := elemBytes k.bytes
  let d := k.side s (bodyB k.bytes)
  if k.total ≤ k.pos then s else poisonAt s k d.k (d.base + notFinal k * z) ((k.total - notFinal k) * z)

/-- A command ends as aborted (R277, R404). -/
def Cmd.abort (k : Cmd) : Cmd := { k with status := 2, code := 0x1A, done := true, vals := [], valsBad := [] }

/-- The abort of an id is noted. The abort table keeps the ids without a command: it holds 256, and drops its oldest (R404). -/
def Cluster.noteAbort (cl : Cluster) (cid : Nat) (met : Bool) : Cluster :=
  let l := cl.aborted.filter fun e => e.1 != cid
  let waiting := l.filter fun e => !e.2
  let l := if !met && 256 ≤ waiting.length then l.erase (waiting.headD (0, false)) else l
  { cl with aborted := l ++ [(cid, met)], inbox := cl.inbox.filter fun m => m.cid != cid }

/-- The collective of a command: of a running one as it has read it, of a queued one by its descriptor (R404). -/
def Cmd.collOf (s : State) (pcl : Nat) (k : Cmd) : Option Coll :=
  if k.fn != 0x20 then none
  else match k.coll with
  | some c => some c
  | none =>
    if k.started then none
    else match readColl s pcl k with
      | .ok (some (c, _)) => some c
      | _ => none

/-- A participant of partition `p` learns of an abort: its running or queued command ends with it, or the id is kept for a command that
has not come; a second abort of one id is ignored (R378, R404). -/
def State.collAborted (s : State) (p pcl cid : Nat) : State :=
  let cl := s.cluAt pcl
  let q := tget cl.engines 5 []
  if (cl.aborted.any fun e => e.1 = cid) || !(s.partAt p).owns pcl then s
  else
    match q.findIdx? fun k => (k.collOf s pcl).any fun c => c.cid = cid with
    | none => s.onClu pcl fun cl => cl.noteAbort cid false
    | some i =>
      match q[i]? with
      | none => s
      | some k =>
        let k := { k with coll := k.collOf s pcl }
        let t := if k.done then s else poisonSpans k s
        let k := if k.status.toNat = 0 then { k.abort with started := true } else k
        t.onClu pcl fun cl => { cl.noteAbort cid true with engines := tset cl.engines 5 (setNth q i k) [] }

/-- An aborting participant tells every other one (R404). -/
def State.collTell (s : State) (c : Coll) : State :=
  ((List.range c.parts.length).filter (· != c.me)).foldl
    (fun s j =>
      match c.parts[j]? with
      | none => s
      | some e =>
        if isHere s e then s.collAborted c.part e.2.1 c.cid
        else if s.absentChip e.1 then s
        else s.sendLater s.fabric.chip e.1 9 { emptyFlit with cid := BitVec.ofNat 32 c.cid, op := e.2.1 }) s

/-- A COLL that fails before its start tells the others, where its descriptor can be read (R404). -/
def State.collLost (s : State) (pcl : Nat) (k : Cmd) : State :=
  if k.fn != 0x20 || k.started then s
  else
    match readColl s pcl k with
    | .ok (some (c, _)) => (s.onClu pcl fun cl => cl.noteAbort c.cid true).collTell c
    | _ => s

/-- The walk at which the descriptor of a COLL could not be read is reported where it has met a malformed entry (R241). -/
def State.noteColl (s : State) (k : Cmd) : State :=
  let va := (bodyL k.bytes).toNat
  let h := vbytes s k.who.pcl k.part va 64
  match h with
  | .error _ => s.noteRead k.who.pcl k.part h
  | .ok h => s.noteRead k.who.pcl k.part (vbytes s k.who.pcl k.part (va + 64) (8 * fieldAt h 4 2))

/-- The start of a COLL: the descriptor, its checks, and an abort that has come before (R401, R404). -/
def collStart (own : Nat) (k : Cmd) (s : State) : Cmd × State :=
  match readColl s own k with
  | .error c => ({ k with status := 1, code := c, done := true }, s.noteColl k)
  | .ok none => (k.abort, poisonSpans k s)
  | .ok (some (c, false)) =>
    (k.abort, ((poisonSpans (if c.parts.isEmpty then k else { k with coll := some c }) s).onClu own fun cl => cl.noteAbort c.cid true).collTell c)
  | .ok (some (c, true)) =>
    let k := { k with coll := some c }
    let s' := s.onClu own fun cl => { cl with aborted := cl.aborted.filter fun e => e.1 != c.cid }
    if (s.cluAt own).aborted.contains (c.cid, false) then
      (k.abort, (poisonSpans k s).onClu own fun cl => cl.noteAbort c.cid true)
    else (k, s')

/-- COLLECTIVE_TIMEOUT: the time-out of the running collective of a cluster expires (R401, R404). -/
def State.collTimeout (s : State) (pcl : Nat) : State :=
  match tget (s.cluAt pcl).engines 5 [] with
  | [] => s
  | k :: r =>
    match k.coll with
    | none => s
    | some c =>
      if !k.started || k.done || c.tmo = 0 || s.mgr.tripped then s
      else
        let s := (poisonSpans k s).onClu pcl fun cl =>
          { cl.noteAbort c.cid true with engines := tset cl.engines 5 (k.abort :: r) [] }
        s.collTell c

/-- COLLECTIVE_TIMEOUT (R404). -/
def execCollectiveTimeout (pcl : Nat) (s : State) : Out := atClu pcl s fun s => s.collTimeout pcl

/-! ### Weight-set tables (R414) -/

/-- Words of a bitmap of `n` shards, and where the parts of a table lie. -/
def bitWords (n : Nat) : Nat := (n + 63) / 64
def presentAt (t : Nat) : Nat := t + 0x40
def flaggedAt (t n : Nat) : Nat := t + 0x40 + 8 * bitWords n
def shardAt (t n i : Nat) : Nat := t + 0x40 + 64 * ((n + 255) / 256) + 32 * i

/-- A table as it is read: shard count, time-out, bitmaps (R414, R419); the code of a failed read, and whether the
header failed. -/
structure WTable where
  n       : Nat
  tmo     : Nat
  present : Nat
  flagged : Nat
  deriving DecidableEq, Repr

def readTable (s : State) (pcl p t : Nat) : Except (BitVec 8) WTable :=
  match vbytes s pcl p t 64 with
  | .error e => .error e.1
  | .ok h =>
    let n := fieldAt h 0 4
    if n = 0 || 65535 < n then .error 0x08
    else
      match vbytes s pcl p (presentAt t) (16 * bitWords n) with
      | .error e => .error e.1
      | .ok bs => .ok ⟨n, fieldAt h 4 4, fieldAt bs 0 (8 * bitWords n) % 2 ^ n, fieldAt bs (8 * bitWords n) (8 * bitWords n) % 2 ^ n⟩

/-- The walk at which a table could not be read is reported where it has met a malformed entry (R241). -/
def State.noteTable (s : State) (pcl p t : Nat) : State :=
  let h := vbytes s pcl p t 64
  match h with
  | .error _ => s.noteRead pcl p h
  | .ok bs => if 65535 < fieldAt bs 0 4 then s else s.noteRead pcl p (vbytes s pcl p (presentAt t) (16 * bitWords (fieldAt bs 0 4)))

/-- Bits that are set. -/
def countBits (n v : Nat) : Nat := (List.range n).foldl (fun c k => c + v / 2 ^ k % 2) 0

/-- The reply of WSTAT (R290): [63] where the header cannot be read. Where it can, and the shard count is none of R414 or the bitmaps
cannot be read, the counts of the bitmaps are a free value (log 6). -/
def wstatReply (s : State) (pcl p t : Nat) : Word :=
  match vbytes s pcl p t 64, readTable s pcl p t with
  | .error _, _ => BitVec.ofNat 64 (2 ^ 63)
  | .ok h, .error _ => BitVec.ofNat 64 (fieldAt h 0 2 + (Config.freeReply s.free).toNat % 2 ^ 32 * 2 ^ 16)
  | .ok _, .ok w => BitVec.ofNat 64 (w.n + countBits w.n w.present * 2 ^ 16 + countBits w.n w.flagged * 2 ^ 32)

end Sys2Proof.Machine
end

