-- ==== Sys2Proof/Machine/Engines.lean ====
section
/-!
DEFINITION. How engine commands run: ENGINE_COMMAND_START (R274, R298), ENGINE_CHUNK (R275, R277), WSWAP_DECISION (R289),
ENGINE_COMMAND_COMPLETION (R276 to R280) and ENGINE_RESET (R381).
-/
namespace Sys2Proof.Machine

/-- The number of an engine of a cluster (R359). -/
def CEng.num : CEng → Nat
  | .copy0 => 0 | .copy1 => 1 | .copy2 => 2 | .copy3 => 3 | .gs => 4 | .coll => 5 | .twu => 6 | .wsc => 7

/-- The queue of an engine. -/
def State.engQueue (s : State) (pcl e : Nat) : List Cmd := tget (s.cluAt pcl).engines e []

/-- The head of an engine's queue replaced. -/
def State.putHead (s : State) (pcl e : Nat) (k : Cmd) : State :=
  s.onClu pcl fun cl => { cl with engines := tset cl.engines e (k :: (tget cl.engines e []).drop 1) [] }

/-- Energy per chunk: declared, or none for a function that draws none (R291, R312). -/
def Cmd.energy (k : Cmd) : Nat := if k.bytes.isEmpty || k.fn = 0x50 then 0 else fieldAt k.bytes 2 2

/-- Current class (R269, R291). -/
def Cmd.cls (k : Cmd) : Nat := if k.bytes.isEmpty then 0 else fieldAt k.bytes 4 1

/-- A command has nothing more to do. -/
def Cmd.finish (k : Cmd) (status code : BitVec 8) : Cmd := { k with started := true, done := true, status := status, code := code }

/-! ### Start -/

/-- The two waits of the head hold (R274). -/
def Cmd.ready (k : Cmd) : Bool := k.bytes.isEmpty || (k.met0 && k.met1)

/-- A WSWAP at its start: it records the group's phase, whose completion is held from now on (R289). -/
def wswapStart (k : Cmd) (s : State) : Cmd × State :=
  match tfind (s.partAt k.part).launches k.launch with
  | none => (k.finish 1 0x1C, s)
  | some l =>
    match groupEntry s k.who.pcl k.part l k.group with
    | .error c => (k.finish 1 c, s.noteWalk k.who.pcl k.part (l.groups.toNat + 16 * k.group))
    | .ok pa =>
      let v := groupAt s pa
      if v.members = 0 || (s.partAt k.part).swaps.any (fun w => w.1 = pa) then (k.finish 1 0x1C, s)
      else ({ k with phase := v.phase }, s.onPart k.part fun q => { q with swaps := q.swaps ++ [(pa, v.phase)] })

/-- A command of the token watch unit acts on its slots at its start, and then only completes (R314). -/
def watchStart (pcl : Nat) (k : Cmd) (s : State) : Cmd × State :=
  let o := runWatch pcl k s
  ({ k.finish o.status o.code with result := o.reply, gwrites := o.gwrites, notes := o.notes, stop := o.stop }, o.s)

/-- What an admitted command does at its start. -/
def Cmd.begin (pcl : Nat) (k : Cmd) (s : State) : Cmd × State :=
  let k := { k with started := true }
  if k.fn = 0x20 then collStart pcl k s
  else if k.fn = 0x50 then wswapStart k s
  else if 0x40 ≤ k.fn.toNat && k.fn.toNat ≤ 0x48 then watchStart pcl k s
  else (k, s)

/-- Admission: energy and slot in one action, or the command waits (R298). -/
def State.takeOn (s : State) (pcl e : Nat) (k : Cmd) : State :=
  let cl := s.cluAt pcl
  if poolOf cl / 2 < k.energy then (s.putHead pcl e (k.finish 1 0x13)).collLost pcl k
  else if !cl.slotFree k.cls || cl.pool < k.energy then s.putHead pcl e { k with waited := true }
  else
    let s := s.setClu pcl { cl.takeSlot k.cls with pool := cl.pool - k.energy }
    let s := if k.bytes.isEmpty then s else if k.waited then s.sampleFree pcl 5 else s.sampleNat pcl 5 0
    let (k, s) := Cmd.begin pcl { k with slot := true, drawn := true, waited := false } s
    s.putHead pcl e k

/-- ENGINE_COMMAND_START: the head of a queue starts once its waits hold and it is admitted; a wait that was satisfied
with the error bit ends it at once, whatever the other wait (R274, R277, R298). -/
def State.cmdStart (s : State) (pcl e : Nat) : State :=
  match s.engQueue pcl e with
  | [] => s
  | k :: _ =>
    if k.started || s.mgr.tripped then s
    else if k.bad then (s.putHead pcl e (k.finish 1 0x10)).collLost pcl k
    else if !k.ready then s
    else s.takeOn pcl e k

/-! ### Chunks -/

/-- A write that waits in the chunk is for a module without an identity entry (R397). -/
def outAbsent (k : Cmd) (s : State) : Bool := k.out.any fun w => s.absentChip w.1

/-- The 256-byte pieces of a chunk's writes to other modules are sent, as far as their modules have identity entries (R389, R397). -/
def sendOut (own e : Nat) (k : Cmd) (s : State) : Cmd × State :=
  (k.out.takeWhile fun w => !s.absentChip w.1).foldl
    (fun p w =>
      ({ p.1 with left := p.1.left + 1 },
       p.2.sendWrite (dieOf own) p.1.obs w.1 3
         { emptyFlit with va := BitVec.ofNat 64 w.2.1, len := w.2.2.1.length, data := w.2.2.1, poison := w.2.2.2 }
         (.engine own e p.1.num none)))
    ({ k with out := [] }, s)

/-- EVSIG: the event is added at its target as a release; at system scope it leaves once what it depends on is applied (R256, R287). -/
def evsigStep (own e : Nat) (k : Cmd) (s : State) : Prog :=
  let id := bitsOf k.rs1 0 16
  let chip := bitsOf k.rs1 16 12
  let fin := fun (s : State) => Prog.ok { k with pos := 1 } s
  let here := fun (s : State) =>
    let (st, s) := s.stampWrite (dieOf own) k.obs
    fin (s.sendAdd (whoEngine own e) k.who.pcl id k.rs2 false false st (some (dieOf own)))
  if !bitOf k.rs1 28 then here s
  else if s.isOwnChip chip then
    match eventBad s k.part k.who.pcl id with
    | some _ => .fail 0x0F k s
    | none => here s
  else if s.absentChip chip then .fail 0x0F k s
  else
    if !s.mayWrite (dieOf own) k.obs then .hold k s
    else
      .ok { k with pos := 1, left := k.left + 1 }
        ((s.settleMemory (dieOf own) k.obs).sendWrite (dieOf own) k.obs chip 6 { emptyFlit with a := BitVec.ofNat 64 id, b := k.rs2 }
          (.engine own e k.num none))

/-- CQRY (R288). -/
def cqryValue (s : State) (k : Cmd) : Word :=
  let (pcl, n) := eventOf k.who.pcl k.rs1.toNat
  let c := (s.cluAt pcl).counter n
  if k.rs2 = 0 then c.val else BitVec.ofNat 64 (b2n c.sat + 2 * b2n c.err)

/-- The stamp that a CQRY absorbs with its counter (R252). -/
def cqryStamp (s : State) (k : Cmd) : Stamp :=
  let (pcl, n) := eventOf k.who.pcl k.rs1.toNat
  ((s.cluAt pcl).counter n).stamp

/-- Up to `n` elements of the chunk of a started command. -/
def Cmd.chunk (pcl e n : Nat) (k : Cmd) (s : State) : Prog :=
  if k.fn = 0x38 then evsigStep pcl e k s
  else if k.fn = 0x60 then .ok { k with pos := 1, result := cqryValue s k, obs := k.obs.max (cqryStamp s k) } s
  else if k.fn = 0x51 then
    .ok { k with pos := 1, result := wstatReply s k.who.pcl k.part k.rs1.toNat }
      { s.noteTable k.who.pcl k.part k.rs1.toNat with free := s.free + 1 }
  else if k.fn = 0x20 then collChunk pcl n k s
  else runSteps (dataStep pcl e) (min n k.chunkLen) k s

/-- The command stands at the end of a chunk (R275). -/
def Cmd.chunkEnd (k : Cmd) : Bool :=
  let fn := k.fn.toNat
  !(fn ≤ 1 || (0x10 ≤ fn && fn ≤ 0x20)) || k.total ≤ k.pos || (k.fn = 0x20 && k.pos = 0) || k.pos % (4096 / elemBytes k.bytes) = 0

/-- The destinations of the rest of a chunk are poisoned (R277, R406). -/
def poisonRest (k : Cmd) (s : State) : State :=
  (List.range k.chunkLen).foldl
    (fun t j => match destOf s k (k.pos + j) with
      | none => t
      | some (d, a, n) => poisonAt t k d a n) s

/-- A command stops at its first failure; a collective tells its other participants (R277, R404). -/
def State.cmdFails (s : State) (pcl e : Nat) (code : BitVec 8) (k : Cmd) : State :=
  let (k, s) := sendOut pcl e k (s.noteCmd k code)
  let s := if code = 0x0F && k.fn != 0x20 then poisonRest k s else s
  match k.fn, k.coll with
  | 0x20, some c =>
    let s := (poisonSpans k s).onClu pcl fun cl => cl.noteAbort c.cid true
    (s.putHead pcl e (k.finish 1 code)).collTell c
  | _, _ => s.putHead pcl e (k.finish 1 code)

/-- A chunk sends what it has for other modules and goes on so; a module that has no identity entry by now fails the command (R397). -/
def sendThen (pcl e : Nat) (k : Cmd) (s : State) (f : Cmd → State → State) : State :=
  if outAbsent k s then s.cmdFails pcl e 0x0F k else let (k, s) := sendOut pcl e k s; f k s

/-- What a chunk, or a part of one, leaves. -/
def chunkDone (pcl e : Nat) : Prog → State
  | .ok k t =>
    if !k.chunkEnd then t.putHead pcl e k
    else
    sendThen pcl e k t fun k t =>
    let fin := k.total ≤ k.pos && (k.fn != 0x20 || k.stage = 2)
    t.putHead pcl e { k with drawn := false, far := [], early := [], done := fin }
  | .need chip block k t =>
    sendThen pcl e k t fun k t =>
    (t.sendTxn chip 1 { emptyFlit with va := BitVec.ofNat 64 (256 * block), len := 256 }
      (some (.engine pcl e k.num (some block)))).putHead pcl e { k with left := k.left + 1 }
  | .fail c k t => t.cmdFails pcl e c k
  | .hold k t => sendThen pcl e k t fun k t => t.putHead pcl e k

/-- A chunk that sends to other modules took a sample of its wait for the replay buffer (R364). -/
def chunkSample (s t : State) (pcl : Nat) : State := if s.kept < t.kept then t.sampleFree pcl 0x0B else t

/-- Up to `n` elements of the next chunk of the running command, once its energy is drawn; it waits where the replay buffer has no
room for what it sends (R275, R298, R393). -/
def State.cmdChunk (s : State) (pcl e n : Nat) : State :=
  match s.engQueue pcl e with
  | [] => s
  | k :: _ =>
    let cl := s.cluAt pcl
    if !k.started || k.done || k.left != 0 || s.mgr.tripped || k.fn = 0x50 then s
    else if !k.drawn && cl.pool < k.energy then s.putHead pcl e { k with waited := true }
    else
      let t := if k.drawn then s else s.setClu pcl { cl with pool := cl.pool - k.energy }
      let t := if k.waited then t.sampleFree pcl 5 else t
      let k := { k with drawn := true, waited := false }
      let r := chunkDone pcl e (Cmd.chunk pcl e n k t)
      if 2 ^ 20 < r.kept then s else chunkSample s r pcl

/-- A move: element `n` of the chunk under way, or of the chunk that the command draws the energy of now, is read ahead of its write
(R261). -/
def State.chunkRead (s : State) (pcl e n : Nat) : State :=
  match s.engQueue pcl e with
  | [] => s
  | k :: _ =>
    let cl := s.cluAt pcl
    if !k.started || k.done || s.mgr.tripped || (!k.drawn && (k.left != 0 || cl.pool < k.energy)) then s
    else
      match k.readAhead s n with
      | none => s
      | some j =>
        let t := if k.drawn then s else s.setClu pcl { cl with pool := cl.pool - k.energy }
        let t := if k.waited then t.sampleFree pcl 5 else t
        t.putHead pcl e { j with drawn := true, waited := false }

/-! ### WSWAP_DECISION (R289) -/

/-- The decision makes stamped writes: it waits until what they depend on is applied, and what that is in device memory is applied with
them (R253). The pointer word is switched if the new table shows every shard present and none flagged; then the held phase
completes. -/
def State.decideSwap (s : State) (pcl : Nat) (k : Cmd) (pa : Nat) (v : GroupView) : State :=
  let tbl := readTable s k.who.pcl k.part (bodyA k.bytes).toNat
  let good := match tbl with
    | .ok w => w.present = 2 ^ w.n - 1 && w.flagged = 0
    | .error _ => false
  let place : Except (BitVec 8) (Option Nat) :=
    if good then (translate s k.who.pcl k.part (bodyB k.bytes).toNat .store).map some else .ok none
  let s := match place, tbl with
    | .ok (some pa), _ => s.engWrite (dieOf pcl) k.obs pa (toLE 8 (bodyA k.bytes).toNat) false
    | .error _, _ => s.noteWalk k.who.pcl k.part (bodyB k.bytes).toNat
    | _, .error _ => s.noteTable k.who.pcl k.part (bodyA k.bytes).toNat
    | _, _ => s
  let code : BitVec 8 := match tbl, place with
    | .error c, _ => c
    | _, .error c => c
    | _, _ => 0
  let k := match place with
    | .ok (some _) => { k.finish 0 0 with moved := 8 }
    | _ => k.finish 4 code
  let (st, s) := s.stampWrite (dieOf pcl) k.obs
  let s := s.flush st
  let s := (s.onPart k.part fun q => { q with swaps := q.swaps.filter fun w => w.1 != pa }).putHead pcl 7 k
  let s := applyBytes s pa (groupBytes { groupAt s pa with arrivals := 0, phase := v.phase + 1 }) false st
  s.phaseDone k.part k.launch k.group v.phase (tget s.stamps (pa / 64) {})

/-- The decision is due when the recorded phase would complete; a WSWAP whose group has gone, or whose phase has passed,
ends with status 4. -/
def State.wswap (s : State) (pcl : Nat) : State :=
  match s.engQueue pcl 7 with
  | [] => s
  | k :: _ =>
    if k.fn != 0x50 || !k.started || k.done || s.mgr.tripped then s
    else
      match tfind (s.partAt k.part).launches k.launch with
      | none => s.putHead pcl 7 (k.finish 4 0)
      | some l =>
        match groupEntry s k.who.pcl k.part l k.group with
        | .error c => (s.noteWalk k.who.pcl k.part (l.groups.toNat + 16 * k.group)).putHead pcl 7 (k.finish 4 c)
        | .ok pa =>
          let v := groupAt s pa
          if v.phase != k.phase then s.putHead pcl 7 (k.finish 4 0)
          else if v.members != 0 && v.members ≤ v.arrivals && s.mayWrite (dieOf pcl) k.obs then s.decideSwap pcl k pa v
          else s

/-- WSWAP_DECISION (R289). -/
def execWswapDecision (pcl : Nat) (s : State) : Out := atClu pcl s fun s => s.wswap pcl

/-! ### Completion -/

/-- The completion word (R271). -/
def Cmd.word (k : Cmd) : Nat :=
  k.moved % 2 ^ 40 * 2 ^ 24 + b2n k.poison * 2 ^ 18 + b2n k.rdinv * 2 ^ 17 + k.code.toNat * 2 ^ 8 + k.status.toNat

/-- The reply (R266, R287, R311). Where the spec names no value, after a failure, it is a free value (log 6). -/
def Cmd.replyValue (k : Cmd) (free : Nat) : Word :=
  if k.fn = 0x38 || (!k.bytes.isEmpty && k.fn != 0x30 && k.fn != 0x31) then BitVec.ofNat 64 k.word
  else if k.status = 0 then k.result else Config.freeReply free

/-- The error mark of a command's tokens, and of the end of its wait (R278, R279). -/
def Cmd.mark (k : Cmd) : Option Mark :=
  if k.status = 0 || k.bytes.isEmpty || fieldAt k.bytes 1 1 / 128 = 1 then none
  else some ⟨if k.status = 2 then 0x1A else 0x10, k.rs1⟩

/-- The token queues that a completion pushes to (R270). -/
def Cmd.pushes (k : Cmd) : List Nat :=
  if k.bytes.isEmpty then [] else (named .e (BitVec.ofNat 3 (fieldAt k.bytes 1 1 / 16))).map fun r => tq .e r

/-- The fault that the wait of an ENG word ends in (R279, R333). -/
def Cmd.waitFault (k : Cmd) : Option Mark :=
  match k.stop with
  | some v => some ⟨0x19, v⟩
  | none => k.mark

/-- The strand that submitted a command is still to hear of it (R280). -/
def Cmd.heard (s : State) (k : Cmd) : Bool :=
  let x := s.ctxAt k.who
  x.resident && x.serial = k.serial && (match x.drain with | .exit => false | _ => true)

/-- Tokens, reply and the end of the wait reach the strand, or are held for it (R276, R279, R280). -/
def State.deliverCmd (s : State) (k : Cmd) : State :=
  let v := k.replyValue s.free
  let s := { s with free := s.free + 1 }
  if !k.heard s then s
  else if (s.ctxAt k.who).halted then
    s.onCtx k.who fun x =>
      { x with heldPush := x.heldPush ++ k.pushes.map fun q => (q, k.mark)
               heldReply := if k.reply then x.heldReply ++ [(k.rd.toNat, v)] else x.heldReply
               heldWait := if k.wait then x.heldWait ++ [(k.id, k.waitFault)] else x.heldWait }
  else
    let s := if k.reply then s.onCtx k.who fun x => x.replyLate k.rd.toNat v else s
    let s := k.pushes.foldl (fun s q => s.pushLate k.who q k.mark) s
    if k.wait then s.releaseLate k.who k.id k.waitFault else s

/-- The scope of a record's signals (R270). -/
def Cmd.wideSignals (k : Cmd) : Bool := 3 ≤ fieldAt k.bytes 1 1 / 2 % 8

/-- A signal: an EventAdd as a release; at die scope and wider, and to a counter of another die, it is stamped (R252, R261,
R276, R277). -/
def State.signal (s : State) (pcl e : Nat) (k : Cmd) (id : Nat) (inc : Word) (err wide : Bool) : State :=
  let stamped := wide || dieOf (eventOf k.who.pcl id).1 != dieOf pcl
  let (st, s) := if stamped then s.stampWrite (dieOf pcl) k.obs else (k.obs, s)
  s.sendAdd (whoEngine pcl e) k.who.pcl id inc false err st (if stamped then some (dieOf pcl) else none)

/-- The two signals of a record (R269). -/
def State.signals (s : State) (pcl e : Nat) (k : Cmd) : State :=
  if k.bytes.isEmpty then s
  else
    [(0x20, 0x28), (0x24, 0x2C)].foldl
      (fun s p =>
        let id := fieldAt k.bytes p.1 4
        if id = 0x03FF then s
        else s.signal pcl e k id (sextNat 32 (fieldAt k.bytes p.2 4)) (k.status != 0) k.wideSignals) s

/-- The granules that the token watch unit writes in c, each a whole write, which clears poison (R245, R313, R331). -/
def Context.unitWrites (x : Context) (ws : List (Nat × GranData)) : Context :=
  ws.foldl (fun x w => x.setGran w.1 { x.gran w.1 with data := w.2, fmt := .u32, poison := false }) x

/-- The completion of a command: its word, the tiles, the strand, the signals (R276). -/
def State.complete1 (s : State) (pcl e : Nat) (k : Cmd) : State :=
  let s := if k.bytes.isEmpty then s else s.onCtx k.who fun x => x.putCompletion k.rs1 k.word
  let s := s.onCtx k.who fun x => x.unitWrites k.gwrites
  let s := s.flip k.who k.grans k.rgs false
  let s := if k.slot then s.onClu pcl fun cl => cl.giveSlot k.cls else s
  let s := s.onClu pcl fun cl => { cl with engines := tset cl.engines e ((tget cl.engines e []).drop 1) [] }
  let s := (s.deliverCmd k).signals pcl e k
  (k.notes.foldl (fun s id => s.signal pcl e k id 1 false false) s).testQueues pcl

/-- The EventAdd of an EVSIG to a counter of this module is still under way (R276, R287). -/
def signalOut (s : State) (pcl e : Nat) (k : Cmd) : Bool :=
  k.fn = 0x38 && s.adds.any fun a =>
    a.who = whoEngine pcl e && (a.pcl, a.n) = eventOf k.who.pcl (bitsOf k.rs1 0 16) && a.inc = k.rs2 && !a.set

/-- A reset of the engine is over when its last command has completed (R381). -/
def State.resetOver (s : State) (pcl e : Nat) : State :=
  if (s.engQueue pcl e).isEmpty && (s.cluAt pcl).resetting.contains e then
    s.onClu pcl fun cl => { cl with resetting := cl.resetting.filter (· != e) }
  else s

/-- ENGINE_COMMAND_COMPLETION: the head has done its work, and all its writes are applied (R276). -/
def State.cmdComplete (s : State) (pcl e : Nat) : State :=
  match s.engQueue pcl e with
  | [] => s
  | k :: _ =>
    if k.started && k.done && k.left = 0 && !signalOut s pcl e k && !s.mgr.tripped then (s.complete1 pcl e k).resetOver pcl e else s

/-- ENGINE_COMMAND_START (R274). -/
def execEngineCommandStart (pcl : Nat) (e : CEng) (s : State) : Out := atClu pcl s fun s => s.cmdStart pcl (CEng.num e)

/-- ENGINE_CHUNK (R275). -/
def execEngineChunk (pcl : Nat) (e : CEng) (s : State) : Out := atClu pcl s fun s => s.cmdChunk pcl (CEng.num e) 4096

/-- ENGINE_COMMAND_COMPLETION (R276). -/
def execEngineCommandCompletion (pcl : Nat) (e : CEng) (s : State) : Out :=
  atClu pcl s fun s => s.cmdComplete pcl (CEng.num e)

/-! ### ENGINE_RESET (R381) -/

/-- A collective of a reset engine aborts: its open spans are poisoned, and the others are told (R404). -/
def State.resetColl (s : State) (pcl : Nat) (k : Cmd) : State :=
  match k.coll with
  | none => s
  | some c => ((poisonSpans k s).onClu pcl fun cl => cl.noteAbort c.cid true).collTell c

/-- The running command stops: what it has begun and not finished is poisoned. -/
def State.stopRunning (s : State) (pcl e : Nat) (k : Cmd) : State :=
  if !k.started then s.collLost pcl k
  else if k.done then s
  else ((poisonBegun k s).poisonFarBegun pcl e k).resetColl pcl k

/-- Rewrites that a REFRESH has queued and that have not begun leave their banks' queues (R217, R381). -/
def State.dropRewrites (s : State) (pcl e : Nat) : State :=
  s.clus.foldl (fun s c => s.onClu c.1 fun cl =>
    { cl with rewrites := cl.rewrites.filter fun r => r.running || !(r.eng.any fun t => t.1 = pcl && t.2.1 = e) }) s

/-- What a stopped command still waits for: its writes to other modules, and a rewrite that has begun (R276, R381). -/
def leftOf (s : State) (pcl e : Nat) (k : Cmd) : Nat :=
  if k.fn = 0x02 then s.clus.foldl (fun n c => n + (c.2.rewrites.filter fun r => r.eng = some (pcl, e, k.num)).length) 0 else k.left

/-- Every command of the queue is over with status 1 and code 0x10. -/
def State.endQueue (s : State) (pcl e : Nat) : State :=
  let s := ((s.engQueue pcl e).foldl (fun s k => s.stopRunning pcl e k) s).dropRewrites pcl e
  s.onClu pcl fun cl =>
    { cl with
      engines := tset cl.engines e
        ((tget cl.engines e []).map fun k => { k.finish 1 0x10 with out := [], stop := none, left := leftOf s pcl e k }) []
      resetting := e :: cl.resetting.filter (· != e) }

/-- Commands that are over complete, in queue order, as far as their writes are applied (R276, R381). -/
def State.completeAll (pcl e : Nat) : Nat → State → State
  | 0, s => s
  | n + 1, s => State.completeAll pcl e n (s.cmdComplete pcl e)

/-- Every slot of a token watch unit becomes FREE, with nothing in it. -/
def State.clearSlots (s : State) (pcl : Nat) : State := s.onClu pcl fun cl => { cl with tw := [] }

/-- An engine reset. -/
def State.engReset (s : State) (pcl e : Nat) : State :=
  let n := (s.engQueue pcl e).length
  let s := if n = 0 then s else State.completeAll pcl e n (s.endQueue pcl e)
  if e = 6 then s.clearSlots pcl else s

/-- ENGINE_RESET: of an engine of the cluster; the weight-set controller is none of them (R379, R381). -/
def execEngineReset (pcl : Nat) (e : CEng) (s : State) : Out :=
  atClu pcl s fun s => match e with
    | .wsc => s
    | e => s.engReset pcl (CEng.num e)

end Sys2Proof.Machine
end

