-- ==== Sys2Proof/Machine/Leave.lean ====
section
/-!
DEFINITION. The control boundary (R292 to R299), droop (R304, R305), timing errors (R383 to R385) and monitors (R363 to
R365).
-/
namespace Sys2Proof.Machine

/-! ### LEAVE_BOUNDARY -/

/-- An M head that would start but for energy or a slot is waiting for leave, whether or not it has been tried (R297). -/
def State.noteWaiter (s : State) (c : CtxLoc) : State :=
  let t := startM c s
  if (t.subAt c.pcl c.sub).waiters.any fun w => w.1 = c.ctx then t else s

/-- Energy that the M head of a context asks for: that of its first word which has not started (R296). -/
def headEnergy (x : Context) : Nat := (mNext x).elim 0 fun k => (stepOf k.2.ins).elim 0 fun f => f.1.en.toNat

/-- The demand d of a sub-core: what its steps drew, and what its waiting heads ask for (R296). -/
def demand (s : State) (pcl sub : Nat) : Nat :=
  let u := s.subAt pcl sub
  u.waiters.foldl (fun n w => n + headEnergy (s.ctxAt ⟨pcl, sub, w.1⟩)) u.drawn

/-- The refill of a sub-core: its fixed grant, or `m` and its part of `rest` (R296). -/
def refillOf (fixed m rest d sum n : Nat) : Nat :=
  if fixed != 0 then fixed else m + (if sum = 0 then rest / n else rest * d / sum)

/-- The account of a sub-core after a refill of `r`; its waiters have waited through a boundary (R296, R297). -/
def SubCore.refilled (u : SubCore) (r : Nat) : SubCore :=
  { u with account := min Config.accountCap (u.account + r), refill := r, drawn := 0,
           waiters := u.waiters.map fun w => (w.1, true) }

/-- The refill of the accounts of a cluster from its matrix share (R296). -/
def State.refill (s : State) (pcl share : Nat) : State :=
  let subs := List.range 128
  let fixed := fun k => (s.subAt pcl k).fixed
  let auto := subs.filter fun k => fixed k = 0
  let n := auto.length
  let a := share - subs.foldl (fun t k => t + fixed k) 0
  let m := a / (4 * n)
  let sum := auto.foldl (fun t k => t + demand s pcl k) 0
  subs.foldl (fun t k => t.setSub pcl k ((t.subAt pcl k).refilled (refillOf (fixed k) m (a - n * m) (demand s pcl k) sum n))) s

/-- The grant of the next interval: the lower of the controller's and the written one, halved in band 7 (R293, R427). -/
def Cluster.nextGrant (cl : Cluster) : Nat :=
  let g := min cl.grantNext cl.granted
  if cl.band = 7 then g / 2 else g

/-- The grant and the engine pool of the next interval (R292, R298). -/
def Cluster.boundary (cl : Cluster) : Cluster :=
  let cl := { cl with grant := cl.nextGrant, eng := cl.engNext }
  let p := poolOf cl
  { cl with pool := p - min cl.deficit (p / 2), deficit := 0 }

/-- LEAVE_BOUNDARY: the heads that wait are noted with the lower context first (R292, R296 to R298). -/
def State.boundary (s : State) (pcl : Nat) : State :=
  if s.mgr.tripped then s
  else
    let heads := (s.contexts.filter fun e => e.1.pcl = pcl && !e.2.qm.items.isEmpty).map Prod.fst
    let s := ([0, 1, 2].flatMap fun k => heads.filter fun c => c.ctx = k).foldl State.noteWaiter s
    let s := s.onClu pcl Cluster.boundary
    s.refill pcl (matrixShare (s.cluAt pcl))

/-- LEAVE_BOUNDARY (R292). -/
def execLeaveBoundary (pcl : Nat) (s : State) : Out := atClu pcl s fun s => s.boundary pcl

/-! ### Contests for slots and for the engine pool (R295, R298) -/

/-- The place of a requester in the rotation that begins after the last winner: 128 sub-cores, then 7 engines. -/
def turnOf (last r : Nat) : Nat := (r + 134 - last) % 135

/-- Requesters in the order of the rotation. -/
def turns (last : Nat) (reqs : List Nat) : List Nat := (List.range 135).flatMap fun t => reqs.filter fun r => turnOf last r = t

/-- What a cluster has left to give: its held slots and its pool. -/
def given (s : State) (pcl : Nat) : Tbl Nat × Nat := ((s.cluAt pcl).slotsHeld, (s.cluAt pcl).pool)

/-- The M heads of a sub-core ask for their slots, until one has its own. -/
def askStep (pcl sub : Nat) (s : State) : State :=
  [0, 1, 2].foldl (fun t k => if given t pcl = given s pcl then startM ⟨pcl, sub, k⟩ t else t) s

/-- A requester asks: a sub-core with its M heads, an engine for the start or the next chunk of its command. -/
def askOne (pcl r : Nat) (s : State) : State :=
  if r < 128 then askStep pcl r s
  else match s.engQueue pcl (r - 128) with
    | [] => s
    | k :: _ => if k.started then s.cmdChunk pcl (r - 128) 4096 else s.cmdStart pcl (r - 128)

/-- What a grant has taken: a slot of a class, and units of the pool. -/
def taken (s t : State) (pcl : Nat) : Option Nat × Nat :=
  ((List.range 8).find? fun c => (t.cluAt pcl).slotsHeldOf c != (s.cluAt pcl).slotsHeldOf c, (s.cluAt pcl).pool - (t.cluAt pcl).pool)

/-- The requesters of a list that could each be granted alone, with what they would take. -/
def rivals (s : State) (pcl : Nat) (reqs : List Nat) : List (Option Nat × Nat) :=
  reqs.filterMap fun r => let t := askOne pcl r s; if given t pcl = given s pcl then none else some (taken s t pcl)

/-- A class of which more requesters can take a slot than it has free ones; the pool, where it does not hold what they ask for (R295,
R298). -/
def contested (s : State) (pcl : Nat) (rs : List (Option Nat × Nat)) (took : Option Nat × Nat) : Bool :=
  let cl := s.cluAt pcl
  (took.1.any fun c => cl.slotCount c - cl.slotsHeldOf c < (rs.filter fun r => r.1 = some c).length) ||
  (took.2 != 0 && cl.pool < rs.foldl (fun n r => n + r.2) 0)

/-- The requesters of one cycle are served in the rotation; the last of them that was granted what they contest has won (R295, R298). -/
def State.contestSlots (s : State) (pcl : Nat) (reqs : List Nat) : State :=
  let rs := rivals s pcl reqs.eraseDups
  let step := fun (a : State × List Nat) (r : Nat) =>
    let t := askOne pcl r a.1
    (t, if given t pcl != given a.1 pcl && contested s pcl rs (taken a.1 t pcl) then a.2 ++ [r] else a.2)
  let (t, won) := (turns (s.cluAt pcl).lastWin reqs.eraseDups).foldl step (s, [])
  match won.getLast? with
  | some r => t.onClu pcl fun cl => { cl with lastWin := r }
  | none => t

/-! ### Droop -/

/-- A droop event: it is counted, and V and M words start no more (R304, R305). -/
def Cluster.droops (cl : Cluster) : Cluster :=
  { cl with droop := true, droopAgain := cl.droop, droopctl := putBits cl.droopctl 48 16 (min 0xFFFF (bitsOf cl.droopctl 48 16 + 1)) }

/-- DROOP_EVENT (R305). -/
def execDroopEvent (pcl : Nat) (s : State) : Out :=
  atClu pcl s fun s => if s.mgr.tripped then s else s.onClu pcl Cluster.droops

/-- The end of a droop freeze: one event makes it `droopctl.len` cycles long, later ones make it longer, by free cycles (R305, R364,
log 6). -/
def State.droopEnd (s : State) (pcl : Nat) : State :=
  let cl := s.cluAt pcl
  let t := s.setClu pcl { cl with droop := false, droopAgain := false }
  if cl.droopAgain then t.sampleFree pcl 9 else t.sampleNat pcl 9 (bitsOf cl.droopctl 0 12)

/-- DROOP_FREEZE_END: `droopctl.len` cycles after the latest event (R305). -/
def execDroopFreezeEnd (pcl : Nat) (s : State) : Out :=
  atClu pcl s fun s => if (s.cluAt pcl).droop && !s.mgr.tripped then s.droopEnd pcl else s

/-! ### Timing errors -/

/-- The freeze in which a mismatch is made good, in cycles: 2 for a V row or a visible-bank write, 18 for a k-block; none
where the engine writes nothing that the latches check (R383, R384). -/
def replayCycles (x : Context) : Eng → Nat
  | .v => match vGoing x with
    | some (i, _) => (match i.ins with | .mcnt _ | .mfirst _ => 0 | _ => 2)
    | none => 0
  | .m => match mGoing x with
    | none => 0
    | some i => if (stepOf i.ins).isSome && i.target.isNone then 18 else match i.ins with | .aclr _ => 0 | _ => 2
  | _ => 0

/-- TIMING_ERROR: the row, k-block or visible granule is computed and written again during a freeze, and counted (R383, R387). -/
def execTimingError (c : CtxLoc) (en : Eng) (s : State) : Out :=
  atCtx c s fun s =>
    let n := replayCycles (s.ctxAt c) en
    if n = 0 || s.mgr.tripped then s
    else countFreeze { s with mgr := { s.mgr with replayed := s.mgr.replayed + 1 } } c.pcl c.sub n

/-- A granule, or the destination of a row's write, is poisoned. -/
def Context.spoil (x : Context) (g : Nat) : Context := x.setGran g { x.gran g with poison := true }
def Context.spoilWrite (x : Context) : VWrite → Context
  | .gran g _ _ _ | .bytes g _ _ _ | .tag g _ => x.spoil g
  | .bits m _ | .mask m _ => if m = 0 then x else { x with mbad := putAt x.mbad m 1 1 }
  | .reg _ _ | .flags _ => x

/-- The next row that the V word writes is written and poisoned, the rows read before the stop are written on schedule, and the word
stands behind them; nothing where its next row has no write to come (R345, R385). -/
def spoilV (c : CtxLoc) (s : State) : Option State :=
  match vGoing (s.ctxAt c) with
  | none => none
  | some (i, w) =>
    let rows := if w.late || stepWord i.ins then vRows i else if i.pend.isEmpty then (vRows i).take 1 else []
    let (t, r, i) := readRowsV c w none rows (s, { VRun.of (s.ctxAt c) i with target := none }, i)
    match r.pend with
    | [] => none
    | p :: _ =>
      if r.fault.isSome || r.target.isSome then none
      else
        let r := r.flush
        let x := p.2.2.foldl Context.spoilWrite r.x
        let j := r.item i
        let whole : Bool := (vRows j).isEmpty
        let x := if whole then { x with fpflags := x.fpflags ||| j.val } else x
        let phase := if whole then Phase.pushing (pushField i.ins) else .parked r.next
        let j := { j with phase := phase, left := 0, time := 0, pend := [], vis := [], target := none,
                          val := if whole then 0 else j.val }
        some (t.setCtx c { x with qv := { x.qv with items := setNth x.qv.items 0 j } })

/-- The next visible granule that an exchange of bank k writes is written and poisoned, and the exchange ends; of one that has made all of
its writes it is the last. -/
def spoilSwap (k : Nat) (x : Context) (i : Item) : Option Context :=
  match exchange k x i with
  | .ok y => some (y.spoil (bitsOf i.d 0 9 + min (i.time - 4) 3))
  | .error _ => none

/-- The next k-block of the step is applied, poisoned; or the next visible granule of an exchange or a drain is written, poisoned (R385).
The word stands behind it. -/
def spoilM (c : CtxLoc) (s : State) : Option State :=
  match mGoing (s.ctxAt c) with
  | none => none
  | some i =>
    let finished := fun (s : State) (x : Context) (fl : Word) =>
      (s.setCtx c { x with fpflags := x.fpflags ||| fl }).onCtx c fun x => x.setMItem 0
        { i with phase := .pushing (pushField i.ins), left := 0, time := 0, vis := [], rows := [], pend := [], target := none, val := 0 }
    match stepOf i.ins with
    | some (f, z) =>
      let s := s.onClu c.pcl fun cl => cl.giveSlot f.cc.toNat
      if i.target.isSome then (spoilSwap f.acc.toNat (s.ctxAt c) i).map fun x => finished s x i.val
      else
        let t := max (max i.left i.time) (tapMax f + 30) + 16
        let (x, g, stop) := stepEnd (s.ctxAt c) i f z (some t)
        let x := x.setBank f.acc.toNat { x.bank f.acc.toNat with bad := true }
        match stop with
        | some (_, some _) => none
        | some (u, none) => some (s.setCtx c (x.parkM 0 i (max i.left u)))
        | none =>
          if f.swap then some (s.setCtx c ({ x with fpflags := x.fpflags ||| i.val ||| g.setWidth 64 }.parkM 0 i (swapStep f)))
          else some (finished s x (i.val ||| g.setWidth 64))
    | none =>
      let x := s.ctxAt c
      match i.ins with
      | .adrain f => some (finished s ((drainRest f.acc.toNat x i).spoil (bitsOf i.d 0 9 + min i.time 3)) i.val)
      | .aswap f => (spoilSwap f.acc.toNat x i).map fun y => finished s y i.val
      | _ => none

/-- TIMING_REPLAY_FAILURE: the row, k-block or visible granule is written and poisoned, the word raises cause 0x1D, and the
management controller is told (R385, R387). -/
def execTimingReplayFailure (c : CtxLoc) (en : Eng) (s : State) : Out :=
  atCtx c s fun s =>
    let x := s.ctxAt c
    if replayCycles x en = 0 || s.mgr.tripped then s
    else
      match (x.queue en).items, (match en with | .v => spoilV c s | _ => spoilM c s) with
      | [], _ | _, none => s
      | i :: _, some t =>
        let t := { t with mgr := { t.mgr with log := t.mgr.log ++ [(385, ckey c, x.part)] } }
        t.raise c 0x1D (BitVec.ofNat 64 (i.seq.toNat * 2 ^ 32 + Eng.num en)) i.pc (some (en, i.seq, i.pc))

/-! ### Monitors -/

/-- The 256 bytes of a monitor's data (R365). -/
def monBytes (m : Mon) : List Byte :=
  toLE 8 m.count.toNat ++ toLE 4 m.min.toNat ++ toLE 4 m.max.toNat ++ toLE 8 m.sum.toNat ++ toLE 8 0 ++
  ((List.range 32).flatMap fun k => toLE 4 (tget m.bins k 0).toNat) ++ toLE 96 0

/-- Every page that a snapshot writes is mapped for it. -/
def snapOk (s : State) (pcl p base : Nat) (ms : Tbl Mon) : Bool :=
  ms.all fun e => match translate s pcl p (base + 256 * e.1) .store with | .ok _ => true | .error _ => false

/-- MONITOR_SNAPSHOT_DONE: the data taken are written as a release at cluster scope, or nothing where a translation fails
(R365). -/
def State.snapDone (s : State) (pcl : Nat) : State :=
  let cl := s.cluAt pcl
  let p := (s.partOf pcl).getD 0
  let base := bitsOf cl.monsnap 8 40 * 256
  if !bitOf cl.monsnap 0 || s.mgr.tripped then s
  else
    let ok := snapOk s pcl p base cl.snap
    let s := if ok then cl.snap.foldl (fun s e => (s.vstore pcl p {} (base + 256 * e.1) (monBytes e.2)).1) s else s
    s.onClu pcl fun cl => { cl with monsnap := putBits cl.monsnap 0 2 (if ok then 0 else 2), snap := [] }

/-- MONITOR_SNAPSHOT_DONE (R365). -/
def execMonitorSnapshotDone (pcl : Nat) (s : State) : Out := atClu pcl s fun s => s.snapDone pcl

/-- A store of a context waits for room in the write buffer (R250). -/
def storeWaits (s : State) (c : CtxLoc) (x : Context) : Bool :=
  let next := fun (ps : List LPart) => ps.find? LPart.isTodo
  let dev := fun (p : LPart) => match p.place with | .dev _ => p.n != 0 | _ => false
  512 ≤ (s.cluAt c.pcl).wbuf.length &&
  (x.litems.any fun i => !Instr.isPoint i.ins && isStore i.ins && !isAtom i.ins && !wideRelease i.ins && ((next i.parts).any dev)) ||
  match (firstIdle x.litems).bind fun k => x.litems[k]? with
  | none => false
  | some i => 512 ≤ (s.cluAt c.pcl).wbuf.length && isStore i.ins && !isAtom i.ins && !wideRelease i.ins && (next (lParts s x i)).any dev

/-- MONITOR_PERIODIC_SAMPLE: the sources that are sampled every 128 cycles (R364). -/
def State.periodic (s : State) (pcl : Nat) : State :=
  let cl := s.cluAt pcl
  let deep := cl.engines.foldl (fun n e => max n e.2.length) 0
  let held := cl.slotsHeld.foldl (fun n e => n + e.2) 0
  let full := s.contexts.any fun e => e.1.pcl = pcl && storeWaits s e.1 e.2
  ((s.sampleNat pcl 4 deep).sampleNat pcl 6 held).sampleNat pcl 8 (if full then 512 else cl.wbuf.length)

/-- MONITOR_PERIODIC_SAMPLE (R364). -/
def execMonitorPeriodicSample (pcl : Nat) (s : State) : Out :=
  atClu pcl s fun s => if s.mgr.tripped then s else s.periodic pcl

end Sys2Proof.Machine
end

