-- ==== Sys2Proof/Machine/Fabric.lean ====
section
/-!
DEFINITION. The Stavlos fabric (R389 to R406): what the router takes in, the sequence numbers and replay buffers of a pair of
modules, remote requests at this module and replies to it, the identity table, checkpoints, resoling, and links.
-/
namespace Sys2Proof.Machine

/-! ### Pairs and sequence numbers -/

def State.pairAt (s : State) (own n : Nat) : Pair := tget s.fabric.pairs (pairKey own n) {}
def State.onPair (s : State) (own n : Nat) (f : Pair → Pair) : State :=
  { s with fabric := { s.fabric with pairs := tset s.fabric.pairs (pairKey own n) (f (s.pairAt own n)) {} } }

/-- The own numbers of the pairs that this module has with a number (R392). -/
def State.ownsOf (s : State) (n : Nat) : List Nat :=
  (s.fabric.pairs.filter fun e => e.1 % 4096 = n).map fun e => e.1 / 4096

/-- How far a sequence number lies ahead of another (R392). -/
def ahead (seq base : BitVec 32) : Nat := (seq - base).toNat

/-- The number is at or below the base (R392). -/
def isPast (seq base : BitVec 32) : Bool := ahead seq base = 0 || 2 ^ 31 ≤ ahead seq base

/-- The router takes a flit: it is for this module, and both generations are those of the entries (R397). -/
def takesFlit (s : State) (f : Flit) : Bool :=
  s.isOwnChip f.dst && f.dstGen = (s.fabric.entry f.dst).gen && f.srcGen = (s.fabric.entry f.src).gen && f.src < 4096 && f.dst < 4096 &&
  !s.mgr.tripped

/-- A kept transaction as it is sent now: its number, the current generations and the present acknowledgment (R393, R397). -/
def Txn.resend (fb : Fabric) (own n : Nat) (p : Pair) (t : Txn) : Txn :=
  { t with f := { t.f with srcGen := fb.genOf own, dstGen := (fb.entry n).gen, part := (fb.entry n).part, ack := p.released },
           sent := routed fb n }

/-- The kept transactions of a pair that a test selects are sent again, in the order of their numbers, where a route is up; the others
wait (R393, R397, R405). -/
def State.resendWhere (s : State) (own n : Nat) (f : Txn → Bool) : State :=
  let fb := s.fabric
  let p := s.pairAt own n
  let replay := p.replay.map fun t => if f t then t.resend fb own n p else t
  let flits := if routed fb n then (replay.filter fun t => f t).flatMap fun t => flitWire t.kind t.f else []
  let fb := if flits.isEmpty then fb else fb.sendOn (fb.route n) flits
  { s with fabric := fb }.onPair own n fun p => { p with replay := replay, told := if flits.isEmpty then p.told else p.released }

/-- Replies and aborts that have waited for room are sent (R392, R393). -/
def State.sendWaiting : Nat → State → State
  | 0, s => s
  | n + 1, s =>
    match s.fabric.later with
    | [] => s
    | (own, chip, kind, f) :: r =>
      if 2 ^ 20 ≤ s.kept then s
      else State.sendWaiting n ({ s with fabric := { s.fabric with later := r } }.sendFrom own chip kind f none)

/-! ### Ends of this module's own transactions -/

/-- A write to another module is over: nothing waits for it any more (R253). -/
def State.landed (s : State) (t : Txn) : State :=
  match s.transit.find? fun w => w.chip = some t.f.dst && t.who = some w.who && w.pa = t.f.va.toNat with
  | some w => { s with transit := s.transit.erase w }
  | none => s

/-- A command, which heads its engine's queue, fails for a part of it (R277). Data of a collective is none of its counted parts. -/
def State.cmdFar (s : State) (pcl e num : Nat) (counted : Bool) : State :=
  match s.engQueue pcl e with
  | [] => s
  | k :: _ =>
    if k.num = num then
      let k := if counted then { k with left := k.left - 1 } else k
      if k.status != 0 then s.putHead pcl e k else s.cmdFails pcl e 0x0F k
    else s

/-- A transaction ends at its issuer with the far-access error (R391, R394, R397). -/
def State.txnFails (s : State) (t : Txn) : State :=
  let s := s.landed t
  match t.who with
  | none => s
  | some (.engine pcl e num _) => s.cmdFar pcl e num (t.kind != 8)
  | some (.shard p table i) => s.onFetch p table i fun f => { f with failed := f.failed.or (some 2) }
  | some w => s.tell w 0 {} (some 0x0F)

/-- A transaction fails for want of a route: a shard's fetch has no retries left (R406, R418). -/
def State.txnLost (s : State) (t : Txn) : State :=
  let s := match t.who with
    | some (.shard p table i) => s.onFetch p table i fun f => { f with failed := f.failed.or (some 1) }
    | _ => s
  s.txnFails t

/-- Bytes as they come in data flits, with the poison of their flits. -/
def flitBytes (f : Flit) : List (Byte × Bool) :=
  (f.data.zip (List.range f.data.length)).map fun b => (b.1, f.poison.getLsbD (b.2 / 64))

/-- The generic address that a transaction of this module accesses (R214). -/
def Txn.addr (t : Txn) : Word := BitVec.ofNat 64 (2 ^ 60 + t.f.dst * 2 ^ 48 + t.f.va.toNat % 2 ^ 48)

/-- Part `k` of an L word has its reply: the bytes of a read, or an atomic's old value; poison is for the word to fault or to carry (R102,
R108, R159, R391). -/
def Item.farGot (i : Item) (k : Nat) (t : Txn) (f : Flit) (st : Stamp) : Item :=
  let bad := f.poison != 0
  if t.kind = 4 then
    (if bad then noteFault ⟨0x0D, t.addr⟩ i else i).partEnd k (atomOld (t.f.len = 4) f.b) st none
  else
    match i.parts[k]? with
    | none => i
    | some p => if p.flying then (gotBytes i k p f.data bad 0x0D t.addr st).settleParts else i

/-- The L items of a context changed at a sequence number. -/
def Context.onLseq (x : Context) (seq : BitVec 32) (f : Item → Item) : Context :=
  if x.lane.isEmpty then { x with ql := x.ql.onSeq seq f }
  else { x with lane := (({ x.ql with items := x.lane } : Queue).onSeq seq f).items }

/-- A reply at its issuer: bytes for a part of an L word, for a command's block or for a shard's fetch, or an atomic's old value, with the
stamp of the units (R252, R390, R391, R417). -/
def State.txnReply (s : State) (t : Txn) (f : Flit) : State :=
  let s := s.landed t
  let st := s.farStamp t.f.dst t.f.va.toNat t.f.len
  match t.who with
  | some (.lword c seq k _) => s.onCtx c fun x => x.onLseq seq fun i => i.farGot k t f st
  | some (.engine pcl e num (some b)) => s.onCmd pcl e num fun k =>
      { k with left := k.left - 1, far := k.far ++ [(t.f.dst, b, f.data, f.poison)], obs := k.obs.max st }
  | some (.engine pcl e num none) => s.onCmd pcl e num fun k =>
      { Cmd.arrived (atomOld (t.f.len = 4) f.b) st none k with
          poison := k.poison || f.poison != 0, moved := k.moved + t.f.len }
  | some (.shard p table i) => s.onFetch p table i fun x => { x with got := x.got ++ [(t.f.va.toNat, flitBytes f)] }
  | _ => s

/-- A write or an event of this module has taken effect; its bytes are performed, also where the command has failed since (R256, R271, R277,
R393). -/
def State.txnApplied (s : State) (t : Txn) : State :=
  if t.kind != 3 && t.kind != 6 then s
  else
    let s := s.landed t
    match t.who with
    | some (.engine pcl e num b) =>
      (s.onCmd pcl e num fun k => if t.kind = 3 then { k with moved := k.moved + t.f.len } else k).tell
        (.engine pcl e num b) 0 {} none
    | some w => s.tell w 0 {} none
    | none => s

/-- An acknowledgment frees what it covers (R393). -/
def State.takeAck (s : State) (own n : Nat) (ack : BitVec 32) : State :=
  let freed := (s.pairAt own n).replay.filter fun t => isPast t.f.seq ack
  let s := s.onPair own n fun p => { p with replay := p.replay.filter fun t => !isPast t.f.seq ack }
  let s := freed.foldl State.txnApplied s
  State.sendWaiting s.fabric.later.length s

/-! ### Requests of other modules (R391) -/

/-- The pseudo-cluster of the hub die, which holds no translations of its own. -/
def hubPcl : Nat := 40

/-- The physical pieces of a span that another module accesses, within 64-byte lines; nothing where the partition refuses it
or a piece fails to translate (R391). -/
def farPieces (s : State) (p va n : Nat) (k : Acc) : Option (List (Nat × Nat)) :=
  if !(s.partAt p).formed || n = 0 then none
  else (pieces (n / 64 + 2) va n).mapM fun q =>
    match translate s hubPcl p q.1 k with
    | .ok pa => some (pa, q.2)
    | .error _ => none

/-- The walk at which such an access has failed is reported where it has met a malformed entry (R241). -/
def State.noteSpan (s : State) (p va n : Nat) : State :=
  if !(s.partAt p).formed then s
  else
    match (pieces (n / 64 + 2) va n).find? fun q => (match leafOf s hubPcl p q.1 with | .error _ => true | .ok _ => false) with
    | some q => s.noteWalk hubPcl p q.1
    | none => s

/-- Reads physical pieces at their homes: each byte with the poison of its line. -/
def readPieces (s : State) (ps : List (Nat × Nat)) : List (Byte × Bool) :=
  ps.flatMap fun q => (loadBytes s.mem q.1 q.2).map fun b => (b, s.poison.contains (q.1 / 64))

/-- The poison bits of the data flits that carry bytes (R389). -/
def flitPoison (bs : List (Byte × Bool)) : BitVec 4 :=
  (List.range 4).foldl (fun m k => if ((bs.drop (64 * k)).take 64).any Prod.snd then m ||| flitBad (64 * k) true else m) 0

/-- Writes bytes at physical pieces, each at its home (R248, R249, R391). -/
def State.writePieces (s : State) : List (Nat × Nat) → List (Byte × Bool) → State
  | [], _ => s
  | q :: r, bs =>
    let here := bs.take q.2
    State.writePieces (s.hwWrite {} q.1 (here.map Prod.fst) (here.any Prod.snd)) r (bs.drop q.2)

/-- A reply to a request carries the request's number, and an error in its operation (log 27); a number without an entry gets none
(R390, R397). -/
def State.reply (s : State) (f : Flit) (kind : Nat) (g : Flit) (failed : Bool) : State :=
  if s.absentChip f.src then s
  else s.sendLater f.dst f.src kind { g with a := f.seq.setWidth 64, op := b2n failed }

/-- The reply to a read: its bytes in data flits, zeros after a failure (R390). -/
def State.replyRead (s : State) (f : Flit) (bs : List (Byte × Bool)) (failed : Bool) : State :=
  s.reply f 2 { emptyFlit with len := bs.length, data := bs.map Prod.fst, poison := flitPoison bs } failed

/-- The reply to an atomic, without data flits: the old value in the operands, its poison on the header; or the refusal of a request that
has no value (R389, R390, log 27). -/
def State.replyAtom (s : State) (f : Flit) (old : Nat) (bad failed : Bool) : State :=
  s.reply f 5 { emptyFlit with b := BitVec.ofNat 64 old, poison := BitVec.ofNat 4 (b2n bad) } failed

/-- The new value of an atomic request: the codes of R46, and 11 and 12 for an FP16 or BF16 addend (log 25). -/
def farAtom (op n old : Nat) (x cmp : Word) : Nat :=
  if op = 11 then addElem .fp16 old x.toNat
  else if op = 12 then addElem .bf16 old x.toNat
  else atomNew op (8 * n) old x.toNat cmp.toNat

/-- Bytes that an atomic request accesses. -/
def atomLen (f : Flit) : Nat := if f.op % 16 = 11 || f.op % 16 = 12 then 2 else if f.op / 16 % 2 = 1 then 4 else 8

/-- An atomic request is performed at its home; on a poisoned line it changes nothing, and its reply is poisoned; a poisoned operand
poisons its result (R108, R386, R391). -/
def State.farAtomic (s : State) (f : Flit) : State :=
  let n := atomLen f
  match farPieces s f.part f.va.toNat n .atomic with
  | some [(pa, _)] =>
    let s := s.settleMemory (homeDie pa) {}
    let bs := readPieces s [(pa, n)]
    let old := leNat (bs.map Prod.fst)
    if bs.any Prod.snd then s.replyAtom f old true false
    else (s.hwWrite {} pa (toLE n (farAtom (f.op % 16) n old f.a f.b)) (f.poison != 0)).replyAtom f old false false
  | _ => (s.noteSpan f.part f.va.toNat n).replyAtom f 0 false true

/-- A signal from another module: its id names a cluster of the partition (R205, R287). -/
def State.farSignal (s : State) (f : Flit) : State :=
  let id := f.a.toNat
  let bad : Bool := id / 1024 % 64 = 0 || !(s.partAt f.part).formed || (eventBad s f.part 0 id).isSome
  if bad then s.replyAtom f 0 false true
  else
    let (st, s) := s.stampWrite (dieOf (eventOf 0 id).1) {}
    (s.flush st).sendAdd whoHardware 0 id f.b false false st (some (dieOf (eventOf 0 id).1))

/-- A reply reaches its issuer: it answers a request, or reports that a write or an event was refused (log 27). -/
def State.answered (s : State) (f : Flit) : State :=
  let p := s.pairAt f.dst f.src
  let num := f.a.setWidth 32
  match p.waiting.find? fun t => t.f.seq = num with
  | some t =>
    let s := s.onPair f.dst f.src fun p => { p with waiting := p.waiting.erase t }
    if f.op != 0 then s.txnFails t else s.txnReply t f
  | none =>
    match p.replay.find? fun t => t.f.seq = num && (t.kind = 3 || t.kind = 6) && t.who.isSome with
    | some t =>
      if f.op = 0 then s
      else
        (s.onPair f.dst f.src fun p =>
          { p with replay := p.replay.map fun u => if u = t then { u with who := none } else u }).txnFails t
    | none => s

/-- The effect of a transaction at this module (R390, R391). -/
def State.effect (s : State) (kind : Nat) (f : Flit) : State :=
  if kind = 1 then
    match farPieces s f.part f.va.toNat f.len .load with
    | some ps => s.replyRead f (readPieces s ps) false
    | none => (s.noteSpan f.part f.va.toNat f.len).replyRead f (List.replicate f.len (0, false)) true
  else if kind = 3 then
    match farPieces s f.part f.va.toNat f.data.length .store with
    | some ps => s.writePieces ps (flitBytes f)
    | none => (s.noteSpan f.part f.va.toNat f.data.length).replyAtom f 0 false true
  else if kind = 4 then s.farAtomic f
  else if kind = 2 || kind = 5 then s.answered f
  else if kind = 6 then s.farSignal f
  else if kind = 8 then
    if f.op < 40 then s.collArrive f.part f.op ⟨f.cid.toNat, f.a.toNat / 2, f.a.getLsbD 0, flitBytes f⟩ else s
  else if kind = 9 then
    if f.op < 40 then s.collAborted f.part f.op f.cid.toNat else s
  else s

/-! ### Receipt (R392, R393, R397) -/

/-- A transaction is applied, and secured at once unless the partition of its number names a spare (R392, R395); then the acknowledgment that
it carries frees what it covers, so that no write counts as applied before its failure, which has an earlier number, has come (R391,
R393). -/
def State.applyTxn (s : State) (kind : Nat) (f : Flit) : State :=
  let spare := (s.fabric.entry f.dst).state = 3 && (s.fabric.entry f.dst).spare
  ((s.effect kind f).onPair f.dst f.src fun p =>
    { p with applied := p.applied + 1, released := if spare then p.released else p.applied + 1 }).takeAck f.dst f.src f.ack

/-- Transactions of the reorder store that the gap held back are applied in their order (R392). -/
def State.applyNext (own n : Nat) : Nat → State → State
  | 0, s => s
  | fuel + 1, s =>
    let p := s.pairAt own n
    match p.reorder.find? fun t => ahead t.f.seq p.applied = 1 with
    | none => s
    | some t =>
      let s := s.onPair own n fun p => { p with reorder := p.reorder.erase t }
      State.applyNext own n fuel (s.applyTxn t.kind t.f)

/-- A numbered transaction comes in: it is next, it waits for a gap to fill, or it is a duplicate, for which a kept reply is
sent again, and whose acknowledgment is due again (R392, R393). A duplicate's own acknowledgment may run ahead of a failure that has
still to come, and counts for nothing (R391, log 27). -/
def State.numbered (s : State) (kind : Nat) (f : Flit) : State :=
  let p := s.pairAt f.dst f.src
  let d := ahead f.seq p.applied
  if d = 1 then
    let s := s.applyTxn kind f
    State.applyNext f.dst f.src (s.pairAt f.dst f.src).reorder.length s
  else if isPast f.seq p.applied then
    (s.resendWhere f.dst f.src fun t => (t.kind = 2 || t.kind = 5) && t.f.a = f.seq.setWidth 64).onPair f.dst f.src fun p =>
      { p with told := p.released - 1 }
  else if d ≤ 2 ^ 20 && !(p.reorder.any fun t => t.f.seq = f.seq) then
    s.onPair f.dst f.src fun p => { p with reorder := p.reorder ++ [⟨kind, f, none, true⟩] }
  else s

/-- A flit that got through ends the run of failed retries of the link that it came over: that on which this module reaches its source,
where no move says otherwise (R405, log 33). -/
def State.linkGood (s : State) (n : Nat) : State :=
  let l := s.fabric.route n
  let k := tget s.fabric.links l {}
  if 18 ≤ l then s else { s with fabric := { s.fabric with links := tset s.fabric.links l { k with retries := 0 } {} } }

/-- A transaction comes in over a link, if the router takes it (R393, R397, R405). An acknowledgment alone carries the number that its
sender has sent last, and counts once everything up to that number is applied (R391, log 27). -/
def State.receive (s : State) (kind : Nat) (f : Flit) : State :=
  let s := s.linkGood f.src
  if !takesFlit s f then s
  else if kind != 7 then s.numbered kind f
  else if isPast f.seq (s.pairAt f.dst f.src).applied then s.takeAck f.dst f.src f.ack
  else s

/-- READ_REQUEST (R391). -/
def execReadRequest (f : Flit) (s : State) : Out := .next (s.receive 1 f)

/-- READ_REPLY (R391). -/
def execReadReply (f : Flit) (s : State) : Out := .next (s.receive 2 f)

/-- WRITE (R391). -/
def execWrite (f : Flit) (s : State) : Out := .next (s.receive 3 f)

/-- ATOMIC_REQUEST (R391). -/
def execAtomicRequest (f : Flit) (s : State) : Out := .next (s.receive 4 f)

/-- ATOMIC_REPLY (R391). -/
def execAtomicReply (f : Flit) (s : State) : Out := .next (s.receive 5 f)

/-- EVENT_SIGNAL (R287). -/
def execEventSignal (f : Flit) (s : State) : Out := .next (s.receive 6 f)

/-- ACKNOWLEDGMENT_ONLY (R393). -/
def execAcknowledgmentOnly (f : Flit) (s : State) : Out := .next (s.receive 7 f)

/-- COLLECTIVE_DATA (R386, R403). -/
def execCollectiveData (f : Flit) (s : State) : Out := .next (s.receive 8 f)

/-- COLLECTIVE_ABORT (R404). -/
def execCollectiveAbort (f : Flit) (s : State) : Out := .next (s.receive 9 f)

/-- VOID (R394). -/
def execVoid (f : Flit) (s : State) : Out := .next (s.receive 10 f)

/-- RESERVED_KIND_FLIT: kinds 0 and 11 to 255 are discarded and counted (R390). -/
def execReservedKindFlit (kind : Nat) (s : State) : Out :=
  if (kind = 0 || (11 ≤ kind && kind < 256)) && !s.mgr.tripped then
    .next { s with fabric := { s.fabric with dropped := s.fabric.dropped + 1 } }
  else .next s

/-! ### Retransmission and the identity table -/

/-- RETRANSMIT_TIMEOUT: an unacknowledged transaction is sent again (R393). -/
def execRetransmitTimeout (dst : Nat) (seq : BitVec 32) (s : State) : Out :=
  if s.mgr.tripped then .next s
  else .next ((s.ownsOf dst).foldl (fun s own => s.resendWhere own dst fun t => t.f.seq = seq) s)

/-- An acknowledgment that has not been sent yet goes out in a flit of kind 7 (R393). -/
def State.sendAck (s : State) (own n : Nat) : State :=
  let p := s.pairAt own n
  let fb := s.fabric
  if p.told = p.released || !routed fb n || s.mgr.tripped then s
  else
    let e := fb.entry n
    let f := { emptyFlit with src := own, dst := n, srcGen := fb.genOf own, dstGen := e.gen, part := e.part, seq := p.send, ack := p.released }
    { s with fabric := fb.sendOn (fb.route n) (flitWire 7 f) }.onPair own n fun p => { p with told := p.released }

/-- The controller sets the retransmit interval, 5 to 5,000 microseconds (R393). -/
def State.setInterval (s : State) (us : Nat) : State :=
  if 5 ≤ us && us ≤ 5000 then { s with fabric := { s.fabric with interval := us } } else s

/-- Every kept transaction for a number is sent again, in sequence order (R399). -/
def State.resendAll (s : State) (n : Nat) : State := (s.ownsOf n).foldl (fun s own => s.resendWhere own n fun _ => true) s

/-- Transactions of a pair that an access of this module waits for: requests whose replies are to come, and what else is kept. -/
def Pair.open? (p : Pair) : List Txn :=
  p.waiting ++ p.replay.filter fun t => t.who.isSome && t.kind != 1 && t.kind != 4

/-- A number's entry becomes absent: what waits for it ends with error, its counters are 0, its voids and kept transactions
are gone (R394). -/
def State.forget (s : State) (n : Nat) : State :=
  let ts := (s.ownsOf n).flatMap fun own => (s.pairAt own n).open?
  let fb := { s.fabric with pairs := s.fabric.pairs.filter fun e => e.1 % 4096 != n
                            later := s.fabric.later.filter fun e => e.2.1 != n }
  ts.foldl State.txnFails { s with fabric := fb }

/-- The entry as the table holds it: its fields in their widths (R396). -/
def idFields (e : IdEntry) : IdEntry :=
  { e with state := e.state % 4, alt := e.alt % 32, port := e.port % 32, part := e.part % 16 }

/-- An identity entry is written (R394, R396, R399). -/
def State.writeEntry (s : State) (n : Nat) (e : IdEntry) : State :=
  let e := idFields e
  let s := { s with fabric := { s.fabric with ids := tset s.fabric.ids n e ⟨0, 0, 0x1F, 0x1F, 0, false⟩ } }
  if e.state = 0 then s.forget n else if e.state = 1 then s.resendAll n else s

/-- IDENTITY_ENTRY_WRITE (R396). -/
def execIdentityEntryWrite (n : Nat) (e : IdEntry) (s : State) : Out :=
  noObject (n < 4096) "identity entry" s fun s => if s.mgr.tripped then .next s else .next (s.writeEntry n e)

/-! ### Checkpoints and resoling (R395, R399, R400) -/

/-- The record under which a resident strand comes back: of a triple, the loader's, once (R188, R189). -/
def residentStrand (s : State) (e : CtxLoc × Context) : Option Strand :=
  let x := e.2
  let k := if x.triple then x.strandid.toNat % 3 else 0
  let first := !x.triple || (List.range e.1.ctx).all fun j =>
    let y := s.ctxAt { e.1 with ctx := j }
    !(y.resident && y.triple)
  if x.resident && first then
    some ⟨e.1.pcl, x.part, x.launchid.toNat, x.strandid.toNat - k, x.recaddr - BitVec.ofNat 64 (64 * k), x.base, none⟩
  else none

/-- The strands of a module: resident ones, ready records, WAITING records (R399). -/
def moduleStrands (s : State) : List Strand :=
  s.contexts.filterMap (residentStrand s) ++
  (s.clus.flatMap fun e => e.2.ready.map fun r => (⟨e.1, r.part, r.launch, r.strand, r.addr, r.prio, r.rd⟩ : Strand)) ++
  s.waiters.map fun w => (⟨w.pcl, w.part, w.launch, w.strand, w.addr, 0, w.rd⟩ : Strand)

/-- A word after which the front end only drains issues again when its strand comes back (R38, R197, R201). -/
def Drain.ends : Drain → Bool
  | .exit | .yielded | .suspended _ _ _ _ => true
  | _ => false

/-- A resident strand as the image of a checkpoint has it: its words stand at their resumption steps, its save area and its record are
written as a hardware save writes them (R353, R354, R399, log 33). -/
def State.saveFor (s : State) (c : CtxLoc) : State :=
  match (s.ctxAt c).drain with
  | .saved forced waiting cause pc thr =>
    if waiting && cause != 0 then (s.writeRecord c pc 5 16 thr.toNat cause.toNat).1 else (s.savedRecord c forced pc).1
  | .restoring cause => (s.writeRecord c (s.ctxAt c).pc 3 16 0 cause.toNat).1
  | d =>
    let s := ((stopM c [] (stopV c 0 s)).onCtx c Context.stopL).settle c
    let x := s.ctxAt c
    if !x.resident then s
    else
      let pc := if d.ends then x.pc - 4 else x.pc
      match s.writeSave c 0x14 pc with
      | (s, some _) => s
      | (s, none) => (s.savedRecord c true pc).1

/-- The module as the image of a checkpoint has it: every write has reached its home, and every resident strand is saved. -/
def State.imaged (s : State) : State :=
  let t := s.clus.foldl (fun t e => t.drainAll e.1 fun _ => true) s
  let t := t.transit.foldl (fun t w => if w.chip.isNone then t.applyOne w false else t) t
  let t := ((s.contexts.filter fun e => e.2.resident).map Prod.fst).foldl State.saveFor t
  t.transit.foldl (fun t w => if w.chip.isNone then t.applyOne w false else t) t

/-- The image of the module (R395, R399). -/
def moduleImage (s : State) : Image where
  mem := s.imaged.mem
  poison := s.imaged.poison
  counters := s.fabric.pairs.map fun e => (e.1, e.2.send, e.2.applied, e.2.replay.map fun t => (t.kind, t.f))
  strands := moduleStrands s
  launches := s.parts.flatMap fun p => p.2.launches.map fun l => (p.1, l.1, l.2)

/-- A part of an L word is under way to another module. -/
def farWords (s : State) : Bool :=
  s.fabric.pairs.any fun e => e.2.open?.any fun t => match t.who with | some (.lword _ _ _ _) => true | _ => false

/-- CHECKPOINT_COMMIT: image and counters are stored, and the released counters advance to the applied ones (R395). It waits for the remote
parts of L words that are under way: a restored word makes again what has not been answered, and would make them twice (R400,
log 33). -/
def execCheckpointCommit (p : Nat) (s : State) : Out :=
  atPart p s fun s =>
    if s.mgr.tripped || !(s.partAt p).formed || farWords s then s
    else
      { s with fabric := { s.fabric with
          image := some (moduleImage s), pairs := s.fabric.pairs.map fun e => (e.1, { e.2 with released := e.2.applied }) } }

/-- A pair as a checkpoint gives it: its counters, and its replay buffer, which lies in device memory (R393, R400). -/
def restoredPair (e : Nat × BitVec 32 × BitVec 32 × List (Nat × Flit)) : Pair :=
  { send := e.2.1, applied := e.2.2.1, released := e.2.2.1, told := e.2.2.1, replay := e.2.2.2.map fun t => ⟨t.1, t.2, none, false⟩ }

/-- A strand of a checkpoint comes back: a WAITING record is registered under its wait cause, any other enters its ready queue
(R187, R190, R399). -/
def State.bringBack (s : State) (r : Strand) : State :=
  if 40 ≤ r.pcl then s
  else
    match vbytes s r.pcl r.part r.addr.toNat 64 with
    | .error e => s.recordFailed r.part r.launch r.strand e.1 r.addr
    | .ok bs =>
      if fieldAt bs 0x0F 1 = 5 then
        s.register ⟨r.part, r.launch, r.strand, r.addr, r.pcl, fieldAt bs 0x1B 1 / 16 % 2 = 1,
          condOf r.pcl r.launch (BitVec.ofNat 32 (fieldAt bs 0x24 4)) (BitVec.ofNat 32 (fieldAt bs 0x1C 4)), r.rd⟩ []
      else s.enterReady r.pcl r.part r.launch r.strand r.addr r.prio r.rd

/-- SPARE_RESTORE: a spare takes number `n`, whose old generation was `gen`, with the memory, the counters, the launches and the strands
of a checkpoint; what its replay buffers hold is sent again (R399, R400). -/
def State.spareRestore (s : State) (n : Nat) (gen : BitVec 8) (m : Image) : State :=
  let fb := { s.fabric with
    chip := n, gen := gen + 1, later := []
    pairs := m.counters.foldl (fun t e => tset t e.1 (restoredPair e) {}) [] }
  let s := { s with
    fabric := fb, poison := m.poison.eraseDups
    mem := m.mem.foldl (fun t c => if c.1 < Config.memBytes then tset t c.1 c.2 0 else t) [] }
  let s := m.launches.foldl (fun s l => s.onPart l.1 fun q => { q with launches := tput q.launches l.2.1 l.2.2 }) s
  let s := m.strands.foldl State.bringBack s
  s.fabric.pairs.foldl (fun s e => s.resendWhere (e.1 / 4096) (e.1 % 4096) fun _ => true) s

/-- SPARE_RESTORE (R399). -/
def execSpareRestore (n : Nat) (gen : BitVec 8) (m : Image) (s : State) : Out :=
  noObject (n < 4096) "chip number" s fun s => if s.mgr.tripped then .next s else .next (s.spareRestore n gen m)

/-! ### Links (R382, R405, R406) -/

/-- An event of a link. -/
def atLink (l : Nat) (s : State) (f : State → State) : Out :=
  noObject (l < 18) "link" s fun s => if s.mgr.tripped then .next s else .next (f s)

/-- The state with a link changed. -/
def State.onLink (s : State) (l : Nat) (f : Link → Link) : State :=
  { s with fabric := { s.fabric with links := tset s.fabric.links l (f (tget s.fabric.links l {})) {} } }

/-- LINK_RESET: the link retrains; what it would carry takes the alternate port or is held (R382, R406). -/
def State.linkReset (s : State) (l : Nat) : State := s.onLink l fun k => { k with training := true, retries := 0, fails := 0 }

/-- LINK_RESET (R406). -/
def execLinkReset (l : Nat) (s : State) : Out := atLink l s fun s => s.linkReset l

/-- Held transactions of every pair are sent as soon as a route is up (R397). -/
def State.sendHeld (s : State) : State :=
  s.fabric.pairs.foldl
    (fun s e => if routed s.fabric (e.1 % 4096) then s.resendWhere (e.1 / 4096) (e.1 % 4096) fun t => !t.sent else s) s

/-- A link has trained. -/
def State.linkTrained (s : State) (l : Nat) : State :=
  (s.onLink l fun k => { k with up := true, training := false, fails := 0 }).sendHeld

/-- LINK_RETRAIN_COMPLETE (R406). -/
def execLinkRetrainComplete (l : Nat) (s : State) : Out :=
  atLink l s fun s => if (tget s.fabric.links l {}).training then s.linkTrained l else s

/-- A retraining of a link fails (R406). -/
def State.retrainFails (s : State) (l : Nat) : State :=
  if l < 18 && (tget s.fabric.links l {}).training && !s.mgr.tripped then s.onLink l fun k => { k with fails := k.fails + 1 } else s

/-- The void that takes a transaction's place (R394). -/
def Txn.void (t : Txn) : Txn :=
  { t with kind := 10, who := none, f := { t.f with data := [], len := 0, va := 0, a := 0, b := 0, op := 0, poison := 0, cid := 0 } }

/-- The held transactions of a pair without a route, which are those that are not acknowledged, leave voids, and those that this module has
issued end with error. A request that has been acknowledged is not held: its reply is still to come (R394, R406). -/
def State.voidPair (s : State) (own n : Nat) : State :=
  let p := s.pairAt own n
  let held := fun (t : Txn) => p.replay.any fun u => u.f.seq = t.f.seq
  let s := s.onPair own n fun p => { p with waiting := p.waiting.filter fun t => !held t, replay := p.replay.map Txn.void }
  (p.replay.filter fun t => t.who.isSome).foldl State.txnLost s

/-- The partition whose share of the ports a link is, or 16 (R376, R387). -/
def linkPart (s : State) (l : Nat) : Nat :=
  ((List.range 16).find? fun p => (s.partAt p).formed && (s.partAt p).ports.contains l).getD 16

/-- The flit for which a link waits gets through: its run of failed retries is over (R405). -/
def State.flitPasses (s : State) (l : Nat) : State :=
  if 18 ≤ l || s.mgr.tripped then s else s.onLink l fun k => { k with retries := 0 }

/-- LINK_DOWN: after three failed retrainings the link is down and the controller is told; transactions without another route end
(R406). -/
def State.linkDown (s : State) (l : Nat) : State :=
  let k := tget s.fabric.links l {}
  if !k.training || k.fails < 3 then s
  else
    let s := s.onLink l fun k => { k with up := false, training := false, retries := 0 }
    let s := { s with mgr := { s.mgr with log := s.mgr.log ++ [(406, l, linkPart s l)] } }
    let gone := s.fabric.pairs.filter fun e =>
      let i := s.fabric.entry (e.1 % 4096)
      i.state = 1 && (i.port = l || i.alt = l) && !routed s.fabric (e.1 % 4096)
    gone.foldl (fun s e => s.voidPair (e.1 / 4096) (e.1 % 4096)) s

/-- LINK_DOWN (R406). -/
def execLinkDown (l : Nat) (s : State) : Out := atLink l s fun s => s.linkDown l

/-- FLIT_CRC_FAILURE: counted; a flit that has failed its first sending and 16 retries resets the link (R405). -/
def execFlitCrcFailure (l : Nat) (s : State) : Out :=
  atLink l s fun s =>
    let s := s.onLink l fun k => { k with retries := k.retries + 1 }
    let s := { s with fabric := { s.fabric with crc := s.fabric.crc + 1 } }
    if 16 < (tget s.fabric.links l {}).retries then
      let s := s.linkReset l
      { s with mgr := { s.mgr with log := s.mgr.log ++ [(405, l, linkPart s l)] } }
    else s

end Sys2Proof.Machine
end

