-- ==== Sys2Proof/Machine/Weights.lean ====
section
/-!
DEFINITION. The host's Ethernet ports (R407, R408) and weight sets (R414 to R419).
-/
namespace Sys2Proof.Machine

/-! ### RDMA (R407, R408) -/

/-- An event of an Ethernet port. -/
def atPort (port : Nat) (s : State) (f : State → State) : Out := noObject (port < 2) "port" s fun s => .next (f s)

/-- A NAK is sent, for an invalid request or for an access that is refused; those of the second kind are counted (R407). -/
def State.nak (s : State) (port qp : Nat) (invalid : Bool) : State :=
  { s with eth := { s.eth with nakd := s.eth.nakd ++ [(port, qp, invalid)], naks := s.eth.naks + b2n (!invalid) } }

/-- The partition to which a queue pair is assigned, if one of its keys registers every page of a span (R407). -/
def rdmaPart (s : State) (port qp : Nat) (key : BitVec 32) (va n : Nat) : Option Nat :=
  (formedParts s).find? fun p =>
    let q := s.partAt p
    (q.qps.any fun e => e.1 = port && e.2.1 = qp) &&
    q.keys.any fun k => k.1 = key.toNat && k.2.1 * 65536 ≤ va && va + n ≤ (k.2.1 + k.2.2) * 65536

/-- The path MTU of a queue pair (R407). -/
def mtuOf (s : State) (port qp : Nat) : Nat :=
  ((formedParts s).findSome? fun p => ((s.partAt p).qps.find? fun e => e.1 = port && e.2.1 = qp).map fun e => e.2.2).getD 4096

/-- Bytes in packets of a path MTU. -/
def packets (mtu : Nat) (bs : List Byte) : List (List Byte) :=
  (List.range ((bs.length + mtu - 1) / mtu)).map fun k => (bs.drop (mtu * k)).take mtu

/-- An entry of the controller's log. -/
def State.note (s : State) (cls unit p : Nat) : State := { s with mgr := { s.mgr with log := s.mgr.log ++ [(cls, unit, p)] } }

/-! ### Arming a table (R414, R415) -/

/-- A shard that is neither present nor flagged (R417). -/
def WTable.missing (w : WTable) (i : Nat) : Bool := i < w.n && w.present / 2 ^ i % 2 = 0 && w.flagged / 2 ^ i % 2 = 0

/-- The shards whose fetch is in flight (R417). -/
def Armed.flying (a : Armed) : List Nat := a.fetches.map Fetch.shard

/-- Works on armed table `t` of a partition, as it reads now. -/
def State.onTable (s : State) (p t : Nat) (f : Armed → WTable → State → State) : State :=
  if s.mgr.tripped then s
  else
    match (s.partAt p).armed[t]? with
    | none => s
    | some a =>
      match readTable s hubPcl p a.addr.toNat with
      | .error _ => s.noteTable hubPcl p a.addr.toNat
      | .ok w => f a w s

/-- The table is disarmed once every shard is present or flagged (R417). -/
def State.disarm (s : State) (p t : Nat) : State :=
  s.onTable p t fun _ w s =>
    if (List.range w.n).any w.missing then s else s.onPart p fun q => { q with armed := dropNth q.armed t }

/-- The controller sees the word written to the mailbox: it arms the table, or it ignores and logs the write. A table that misses no shard
is disarmed at once (R415, R417). -/
def State.armNow (s : State) (p : Nat) (addr : Word) : State :=
  let q := s.partAt p
  if !q.formed || s.mgr.tripped then s
  else
    let bad : Bool := addr.toNat % 64 != 0 || 2 ^ 48 ≤ addr.toNat ||
      (match translate s hubPcl p addr.toNat .load with | .ok _ => false | .error _ => true)
    if q.armed.any fun a => a.addr = addr then s
    else if bad || 8 ≤ q.armed.length then s.note 415 0 p
    else (s.setPart p { q with armed := q.armed ++ [{ addr := addr }] }).disarm p q.armed.length

/-- The host writes the weight-set mailbox (R415). -/
def State.armTable (s : State) (p : Nat) (addr : Word) : State :=
  if !(s.partAt p).formed || s.mgr.tripped then s
  else (s.vstore hubPcl p {} (s.partAt p).wmail.toNat (toLE 8 addr.toNat)).1.armNow p addr

/-- The controller sees the oldest write that a strand or an engine has made to a weight-set mailbox (R415). -/
def State.mailboxSeen (s : State) : State :=
  match s.rung with
  | [] => s
  | (p, addr) :: r => if s.mgr.tripped then s else { s with rung := r }.armNow p addr

/-- The mailboxes of which a write by the host has written any byte: the hub sees the words as they now stand, the address of a table, or the
tail and the completion head (R410, R415). -/
def State.mailboxes (s : State) (p va n : Nat) : State :=
  let hit := fun (a : Word) => a.toNat < va + n && va < a.toNat + 8
  let w := (s.partAt p).wmail
  let s := if hit w then
      match vbytes s hubPcl p w.toNat 8 with
      | .ok bs => s.armNow p (BitVec.ofNat 64 (leNat bs))
      | .error _ => s
    else s
  (s.partAt p).queues.foldl
    (fun s e =>
      if hit e.2.mail then
        match vbytes s hubPcl p e.2.mail.toNat 8 with
        | .ok bs => s.mailbox p e.1 (BitVec.ofNat 32 (fieldAt bs 0 4)) (BitVec.ofNat 32 (fieldAt bs 4 4))
        | .error _ => s
      else s) s

/-! ### Packets -/

/-- An RDMA WRITE, one packet: applied at the homes of its lines, or refused whole; a packet above the path MTU is an invalid request
(R407, R408, log 34). -/
def State.rdmaWrite (s : State) (port qp : Nat) (key : BitVec 32) (va : Nat) (bs : List Byte) : State :=
  if !s.eth.up port || s.mgr.tripped then s
  else
    match rdmaPart s port qp key va bs.length with
    | none => s.nak port qp false
    | some p =>
      if mtuOf s port qp < bs.length then s.nak port qp true
      else
      match farPieces s p va bs.length .store with
      | none => (s.noteSpan p va bs.length).nak port qp false
      | some ps => (s.writePieces ps (bs.map fun b => (b, false))).mailboxes p va bs.length

/-- RDMA_WRITE (R408). -/
def execRdmaWrite (port qp : Nat) (key : BitVec 32) (va : Word) (data : List Byte) (s : State) : Out :=
  atPort port s fun s => s.rdmaWrite port qp key va.toNat data

/-- An RDMA READ is answered with the bytes at their homes, in packets of the path MTU; poisoned ones are never read as good data (R246,
R407). -/
def State.rdmaRead (s : State) (port qp : Nat) (key : BitVec 32) (va n : Nat) : State :=
  if !s.eth.up port || s.mgr.tripped then s
  else
    match rdmaPart s port qp key va n with
    | none => s.nak port qp false
    | some p =>
    match farPieces s p va n .load with
    | none => (s.noteSpan p va n).nak port qp false
    | some ps =>
      let bs := readPieces s ps
      if bs.any Prod.snd then s.nak port qp false
      else { s with eth := { s.eth with sent := s.eth.sent ++ (packets (mtuOf s port qp) (bs.map Prod.fst)).map fun b => (port, qp, b) } }

/-- RDMA_READ (R407). -/
def execRdmaRead (port qp : Nat) (key : BitVec 32) (va : Word) (len : Nat) (s : State) : Out :=
  atPort port s fun s => s.rdmaRead port qp key va.toNat len

/-- RDMA_INVALID_REQUEST: SEND and atomics are answered with a NAK (R407). -/
def execRdmaInvalidRequest (port qp : Nat) (s : State) : Out :=
  atPort port s fun s => if s.eth.up port && qp < 4096 && !s.mgr.tripped then s.nak port qp true else s

/-- A packet comes in out of sequence on a queue pair: the standard answers it with a NAK of sequence, and it is applied nowhere (R407). -/
def State.packetGap (s : State) (port qp : Nat) : State :=
  if s.eth.up port && qp < 4096 && !s.mgr.tripped then { s with eth := { s.eth with seqNaks := s.eth.seqNaks ++ [(port, qp)] } } else s

/-- UNRELIABLE_TRANSPORT_PACKET: discarded and counted (R407). -/
def execUnreliableTransportPacket (port : Nat) (s : State) : Out :=
  atPort port s fun s =>
    if s.eth.up port && !s.mgr.tripped then { s with eth := { s.eth with discards := s.eth.discards + 1 } } else s

/-- ETHERNET_PORT_DOWN: the port's queue pairs end; the other port keeps running (R407). -/
def State.portDown (s : State) (port : Nat) : State :=
  let s := { s with eth := if port = 0 then { s.eth with down0 := true } else { s.eth with down1 := true } }
  (formedParts s).foldl (fun s p => s.onPart p fun q => { q with qps := q.qps.filter fun e => e.1 != port }) s

/-- ETHERNET_PORT_DOWN (R407). -/
def execEthernetPortDown (port : Nat) (s : State) : Out := atPort port s fun s => s.portDown port

/-! ### Weight sets (R414 to R419) -/

/-- WEIGHT_SET_ARM (R415). -/
def execWeightSetArm (p : Nat) (addr : Word) (s : State) : Out := atPart p s fun s => s.armTable p addr

/-- A descriptor: destination, length, source kind, source address; for a host source the queue pair and the remote key (R414). -/
structure Shard where
  dest : Nat
  len  : Nat
  kind : Nat
  src  : Nat
  qp   : Nat
  key  : Nat
  deriving DecidableEq, Repr

def readShard (s : State) (p : Nat) (a : Armed) (w : WTable) (i : Nat) : Option Shard :=
  match vbytes s hubPcl p (shardAt a.addr.toNat w.n i) 32 with
  | .error _ => none
  | .ok bs => some ⟨fieldAt bs 0 8, fieldAt bs 8 4, fieldAt bs 0x0C 1, fieldAt bs 0x10 8, fieldAt bs 0x18 2, fieldAt bs 0x1A 4⟩

/-- Destination and length keep the rules of R414. -/
def Shard.ok (d : Shard) : Bool := d.dest % 64 = 0 && d.len % 64 = 0 && 64 ≤ d.len && d.len ≤ 2 ^ 30

/-- The fetch of a host shard sends an RDMA READ on the named queue pair, on the port to which the partition has it (R407, R417). -/
def State.sendRead (s : State) (p : Nat) (d : Shard) : State :=
  match ((s.partAt p).qps.find? fun e => e.2.1 = d.qp && s.eth.up e.1) with
  | none => s
  | some e => { s with eth := { s.eth with reads := s.eth.reads ++ [(e.1, d.qp, d.key, d.src, d.len)] } }

/-- The bytes of a line, all of them. -/
def lineFull (f : Fetch) (k : Nat) : Bool := tget f.cover k 0 = BitVec.allOnes 64

/-- A fetch has written bytes of line `k` of its destination, poisoned or not (R418). -/
def Fetch.wrote (f : Fetch) (k : Nat) (m : BitVec 64) (bad : Bool) : Fetch :=
  { f with cover := tset f.cover k (tget f.cover k 0 ||| m) 0, bad := if bad && !f.bad.contains k then f.bad ++ [k] else f.bad }

/-- A piece of a shard within one line of its destination is applied at its home; once the fetch has written the whole line, with no poisoned
byte, the line's poison is cleared (R245, R408, R417). It fails where the destination faults. -/
def State.shardPiece (s : State) (p : Nat) (table : Word) (i dest off : Nat) (bs : List (Byte × Bool)) : State × Bool :=
  match translate s hubPcl p (dest + off) .store with
  | .error _ => (s.noteWalk hubPcl p (dest + off), false)
  | .ok pa =>
    let s := s.hwWrite {} pa (bs.map Prod.fst) (bs.any Prod.snd)
    let s := s.onFetch p table i fun f => f.wrote (off / 64) (unitBytes 0 (off % 64) bs.length) (bs.any Prod.snd)
    let whole := ((s.partAt p).armed.find? fun a => a.addr = table).any fun a =>
      a.fetches.any fun f => f.shard = i && lineFull f (off / 64) && !f.bad.contains (off / 64)
    (if whole then { s with poison := s.poison.filter (· != pa / 64) } else s, true)

/-- Pieces of a shard, by their offset, are written up to the first whose destination faults (R417, R418). -/
def writeShard (p : Nat) (table : Word) (i dest : Nat) : List (Nat × List (Byte × Bool)) → State → State × Bool
  | [], s => (s, true)
  | q :: r, s =>
    match s.shardPiece p table i dest q.1 q.2 with
    | (s, true) => writeShard p table i dest r s
    | (s, false) => (s, false)

/-- Bytes from an offset on, cut at the lines of the destination. -/
def shardPieces (off : Nat) (bs : List (Byte × Bool)) : List (Nat × List (Byte × Bool)) :=
  (pieces (bs.length / 64 + 2) off bs.length).map fun q => (q.1, (bs.drop (q.1 - off)).take q.2)

/-- What a fetch has still to write of a shard's bytes, line by line. -/
def restOf (f : Fetch) (bs : List (Byte × Bool)) : List (Nat × List (Byte × Bool)) :=
  (shardPieces 0 bs).filter fun q => !lineFull f (q.1 / 64)

/-- Every line of the destination is written. -/
def Fetch.full (f : Fetch) (len : Nat) : Bool := (List.range (len / 64)).all (lineFull f)

/-- A fetch has failed; the first reason counts (R418). -/
def Fetch.fails (f : Fetch) (reason : BitVec 8) : Fetch := { f with failed := f.failed.or (some reason) }

/-- Writes pieces of a shard; a destination that faults fails the fetch (R418). -/
def State.putShard (s : State) (p : Nat) (table : Word) (i dest : Nat) (ps : List (Nat × List (Byte × Bool))) : State :=
  match writeShard p table i dest ps s with
  | (s, true) => s
  | (s, false) => s.onFetch p table i fun f => f.fails 3

/-- The fetch of a remote shard asks for its next piece, within 256 bytes of the source, by a read of kind 1; where the source is this
module's own memory, it is read at its home. It waits while the replay buffers are full; an absent module, an address that is no generic
or device address, and a span that this module's own translation refuses are refusals of the source (R214, R391 to R397, R417, log 49). -/
def State.askFar (s : State) (p : Nat) (table : Word) (f : Fetch) (d : Shard) : State :=
  let n := min (256 - (d.src + f.asked) % 256) (d.len - f.asked)
  let next := fun (x : Fetch) => { x with asked := x.asked + n }
  if d.len ≤ f.asked || f.failed.isSome then s
  else
    match (placeOf 0 (BitVec.ofNat 64 (d.src + f.asked))).map s.localPlace with
    | some (.remote chip va) =>
      if s.absentChip chip then s.onFetch p table f.shard fun x => x.fails 2
      else if 2 ^ 20 ≤ s.kept then s
      else (s.sendTxn chip 1 { emptyFlit with va := BitVec.ofNat 64 va, len := n } (some (.shard p table f.shard))).onFetch p table f.shard next
    | some (.dev va) =>
      match farPieces s p va n .load with
      | none => (s.noteSpan p va n).onFetch p table f.shard fun x => x.fails 2
      | some ps => s.onFetch p table f.shard fun x => { next x with got := x.got ++ [(va, readPieces s ps)] }
    | _ => s.onFetch p table f.shard fun x => x.fails 2

/-- A fetch in flight. -/
def Armed.fetch? (a : Armed) (i : Nat) : Option Fetch := a.fetches.find? fun f => f.shard = i

/-- Works on a fetch in flight whose descriptor can be read. -/
def State.onShard (s : State) (p t i : Nat) (g : Armed → Fetch → Shard → State → State) : State :=
  s.onTable p t fun a w s =>
    match a.fetch? i, readShard s p a w i with
    | some f, some d => g a f d s
    | some _, none => s.noteRead hubPcl p (vbytes s hubPcl p (shardAt a.addr.toNat w.n i) 32)
    | none, _ => s

/-- The next shard's fetch begins, in ascending order, with up to 16 in flight; it sends its RDMA READ or its first read of another module
(R417). -/
def State.fetchStart (s : State) (p t : Nat) : State :=
  s.onTable p t fun a w s =>
    if 16 ≤ a.fetches.length then s
    else
      match (List.range w.n).find? fun i => w.missing i && !a.flying.contains i with
      | none => s
      | some i =>
        let s := s.onPart p fun q => { q with armed := setNth q.armed t { a with fetches := a.fetches ++ [{ shard := i }] } }
        match readShard s p a w i with
        | some d =>
          if !d.ok then s
          else if d.kind = 0 then s.sendRead p d
          else if d.kind = 1 then s.askFar p a.addr { shard := i } d
          else s
        | none => s.noteRead hubPcl p (vbytes s hubPcl p (shardAt a.addr.toNat w.n i) 32)

/-- SHARD_FETCH_START (R417). -/
def execShardFetchStart (p t : Nat) (s : State) : Out := atPart p s fun s => s.fetchStart p t

/-- A remote shard's fetch asks for its next bytes (R417). -/
def State.shardAsk (s : State) (p t i : Nat) : State :=
  s.onShard p t i fun a f d s => if d.ok && d.kind = 1 then s.askFar p a.addr f d else s

/-- The RDMA READ of a host shard is sent again: up to 7 times, after which the fetch has failed (R407, R418). -/
def State.readAgain (s : State) (p : Nat) (table : Word) (f : Fetch) (d : Shard) : State :=
  if d.kind != 0 || f.failed.isSome then s
  else if 7 ≤ f.tries then s.onFetch p table f.shard fun x => x.fails 1
  else (s.onFetch p table f.shard fun x => { x with tries := x.tries + 1 }).sendRead p d

/-- No data and no NAK comes for a host shard's RDMA READ (R407). -/
def State.readTimeout (s : State) (p t i : Nat) : State := s.onShard p t i fun a f d s => s.readAgain p a.addr f d

/-- The host answers the RDMA READ of a shard with a NAK: of sequence, after which it is sent again, or of a refusal (R407, R418). -/
def State.readNak (s : State) (p t i : Nat) (refused : Bool) : State :=
  s.onShard p t i fun a f d s =>
    if refused && d.kind = 0 then s.onFetch p a.addr i fun x => x.fails 2 else s.readAgain p a.addr f d

/-- The bytes that another module has sent for a shard, by their offset in it. -/
def Fetch.pieces (f : Fetch) (d : Shard) : List (Nat × List (Byte × Bool)) :=
  f.got.flatMap fun g => shardPieces ((g.1 + 2 ^ 48 - d.src % 2 ^ 48) % 2 ^ 48) g.2

/-- Some bytes of a shard are written: those of the host from an offset on; those of another module, as they have come; those that a device
source's home gives for as many bytes from the offset on (R417). -/
def State.shardBytes (s : State) (p t i off : Nat) (bs : List Byte) : State :=
  s.onShard p t i fun a f d s =>
    if !d.ok || d.len < off + bs.length || f.failed.isSome then s
    else if d.kind = 0 then s.putShard p a.addr i d.dest (shardPieces off (bs.map fun b => (b, false)))
    else if d.kind = 1 then
      (s.onFetch p a.addr i fun x => { x with got := [] }).putShard p a.addr i d.dest (f.pieces d)
    else
      match farPieces s p (d.src + off) bs.length .load with
      | none => (s.noteSpan p (d.src + off) bs.length).onFetch p a.addr i fun x => x.fails 2
      | some ps => s.putShard p a.addr i d.dest (shardPieces off (readPieces s ps))

/-! ### A fetch ends (R417 to R419) -/

/-- Atomic OR of a bit into an 8-byte word of device memory (R419). -/
def State.orBit (s : State) (p va bit : Nat) : State :=
  match translate s hubPcl p va .load with
  | .error _ => s.noteWalk hubPcl p va
  | .ok pa =>
    let s := s.settleMemory (homeDie pa) {}
    let v := loadNat s.mem pa 8
    s.hwWrite {} pa (toLE 8 (v ||| 2 ^ bit)) false

/-- A shard's fetch is over. -/
def State.shardOver (s : State) (p : Nat) (table : Word) (i : Nat) : State :=
  s.onPart p fun q => { q with armed := q.armed.map fun a =>
    if a.addr = table then { a with fetches := a.fetches.filter fun f => f.shard != i } else a }

/-- A shard is present (R417, R419). -/
def State.shardPresent (s : State) (p t : Nat) (a : Armed) (i : Nat) : State :=
  ((s.orBit p (presentAt a.addr.toNat + 8 * (i / 64)) (i % 64)).shardOver p a.addr i).disarm p t

/-- The lines of its destination that a fetch has written in part are poisoned (R246, R418). -/
def State.spoilBegun (s : State) (p : Nat) (table : Word) (i dest : Nat) : State :=
  match ((s.partAt p).armed.find? fun a => a.addr = table).bind fun a => a.fetch? i with
  | none => s
  | some f =>
    (f.cover.filter fun e => e.2 != BitVec.allOnes 64).foldl
      (fun s e => match translate s hubPcl p (dest + 64 * e.1) .store with
        | .ok pa => if s.poison.contains (pa / 64) then s else { s with poison := s.poison ++ [pa / 64] }
        | .error _ => s) s

/-- A shard is flagged with a reason, which the controller writes into its descriptor; a destination line written in part is poisoned (R414,
R418). -/
def State.flagShard (s : State) (p : Nat) (a : Armed) (w : WTable) (reason : BitVec 8) (i : Nat) : State :=
  let s := match readShard s p a w i with | some d => s.spoilBegun p a.addr i d.dest | none => s
  let (s, _) := s.vstore hubPcl p {} (shardAt a.addr.toNat w.n i + 0x0D) [reason]
  (s.orBit p (flaggedAt a.addr.toNat w.n + 8 * (i / 64)) (i % 64)).shardOver p a.addr i

/-- A fetch ends with every byte of its destination written, or with a fault of the destination (R417, R418). -/
def State.fetchWith (s : State) (p t : Nat) (a : Armed) (w : WTable) (i : Nat) (d : Shard) (ps : List (Nat × List (Byte × Bool))) :
    State :=
  match writeShard p a.addr i d.dest ps s with
  | (s, true) => s.shardPresent p t a i
  | (s, false) => (s.flagShard p a w 3 i).disarm p t

/-- SHARD_FETCH_COMPLETE: every byte is applied at its home, then the present bit is set; a destination that faults flags the
shard (R417, R418), and so does a descriptor that cannot be read or breaks R414, whose reason is the model's choice (log 49). The event
brings the bytes of a host source; those of a device source are read at their home; those of another module have come in its replies. -/
def State.fetchDone (s : State) (p t i : Nat) (data : List Byte) : State :=
  s.onTable p t fun a w s =>
    match a.fetch? i with
    | none => s
    | some f =>
      match readShard s p a w i with
      | none => ((s.noteRead hubPcl p (vbytes s hubPcl p (shardAt a.addr.toNat w.n i) 32)).flagShard p a w 3 i).disarm p t
      | some d =>
        if !d.ok then (s.flagShard p a w 3 i).disarm p t
        else if 2 < d.kind then (s.flagShard p a w 2 i).disarm p t
        else if f.failed.isSome then s
        else if d.kind = 0 then
          if data.length = d.len then s.fetchWith p t a w i d (restOf f (data.map fun b => (b, false))) else s
        else if d.kind = 1 then
          let all := (f.pieces d).foldl (fun g q => g.wrote (q.1 / 64) (unitBytes 0 (q.1 % 64) q.2.length) false) f
          if all.full d.len then s.fetchWith p t a w i d (f.pieces d) else s
        else
          match farPieces s p d.src d.len .load with
          | none => ((s.noteSpan p d.src d.len).flagShard p a w 2 i).disarm p t
          | some ps => s.fetchWith p t a w i d (restOf f (readPieces s ps))

/-- SHARD_FETCH_COMPLETE (R417). -/
def execShardFetchComplete (p t shard : Nat) (data : List Byte) (s : State) : Out :=
  atPart p s fun s => s.fetchDone p t shard data

/-- The reasons for which a fetch can fail now: the one that it has met; for a host source also a refusal, and no answer to the last of its 7
retransmissions (R407, R418). -/
def Fetch.mayFail (f : Fetch) (d : Shard) (reason : BitVec 8) : Bool :=
  match f.failed with
  | some r => r = reason
  | none => d.kind = 0 && (reason = 2 || (reason = 1 && 7 ≤ f.tries))

/-- SHARD_FETCH_FAILURE: what the host's answer has still brought, the first bytes of the shard, is written; a line written in part is
poisoned, and the shard is flagged (R418). -/
def State.fetchFails (s : State) (p t i : Nat) (reason : BitVec 8) (data : List Byte) : State :=
  s.onTable p t fun a w s =>
    match readShard s p a w i with
    | none => s
    | some d =>
      let u := if d.ok && d.kind = 0 && data.length < d.len then
          s.putShard p a.addr i d.dest (shardPieces 0 (data.map fun b => (b, false))) else s
      match ((u.partAt p).armed[t]?).bind fun b => b.fetch? i with
      | none => s
      | some f => if f.mayFail d reason then (u.flagShard p a w reason i).disarm p t else s

/-- SHARD_FETCH_FAILURE (R418). -/
def execShardFetchFailure (p t shard : Nat) (reason : BitVec 8) (data : List Byte) (s : State) : Out :=
  atPart p s fun s => s.fetchFails p t shard reason data

/-- SHARD_TIMEOUT: every shard that is neither present nor flagged takes reason 4 (R418). -/
def State.tableTimeout (s : State) (p t : Nat) : State :=
  s.onTable p t fun a w s =>
    if w.tmo = 0 then s
    else (((List.range w.n).filter w.missing).foldl (fun s i => s.flagShard p a w 4 i) s).disarm p t

/-- SHARD_TIMEOUT (R418). -/
def execShardTimeout (p t : Nat) (s : State) : Out := atPart p s fun s => s.tableTimeout p t

end Sys2Proof.Machine
end

