-- ==== Sys2Proof/Machine/Resets.lean ====
section
/-!
DEFINITION. PARTITION_RESET (R380), and what a cluster keeps across it.
-/
namespace Sys2Proof.Machine

/-- The cluster of the access that a transaction or a write under way belongs to; the controller's have none. -/
def Origin.clu : Origin → Nat
  | .lword c _ _ _ => c.pcl
  | .engine pcl _ _ _ => pcl
  | .save c _ _ => c.pcl
  | .shard _ _ _ => 40

/-- Step 2: the collectives of a cluster abort: the others are told (R404). -/
def State.abortColl (s : State) (pcl : Nat) : State :=
  (s.engQueue pcl 5).foldl
    (fun s k =>
      match k.coll with
      | some c => if k.started && !k.done then s.collTell c else s
      | none => s.collLost pcl k) s

/-- Step 3: the write buffers of a cluster drain, and what it has under way is applied at its home. -/
def State.drainCluster (s : State) (pcl : Nat) : State :=
  let s := s.drainAll pcl fun _ => true
  (s.transit.filter fun t => t.who.clu = pcl && t.chip.isNone).foldl (fun s t => s.flush t.stamp) s

/-- A context at its reset values. -/
def State.clearCtx (s : State) (c : CtxLoc) : State :=
  let idle : Context := {}
  s.onCtx c fun x => { idle with serial := x.serial + 1 }

/-- Step 4: a cluster at its reset values, expert controls at their basic defaults (R3). Sensor, band, the controller's grant and the
wait-log ring are not the partition's. -/
def Cluster.reset (cl : Cluster) : Cluster :=
  let fresh : Cluster := {}
  { fresh with temp := cl.temp, band := cl.band, granted := cl.granted, grant := cl.granted, grantNext := cl.granted,
               pool := cl.granted / 8, droop := cl.droop, droopAgain := cl.droopAgain, waitbase := cl.waitbase, waitcap := cl.waitcap }

/-- Step 4: the contexts, the sub-cores and the cluster. -/
def State.resetCluster (s : State) (pcl : Nat) : State :=
  let s := ((s.contexts.filter fun e => e.1.pcl = pcl).map Prod.fst).foldl State.clearCtx s
  { s.onClu pcl Cluster.reset with subs := s.subs.filter fun e => e.1 / 128 != pcl }

/-- Step 5: the replies of a cluster's accesses on the fabric are discarded. -/
def Pair.forgetClu (p : Pair) (pcl : Nat) : Pair :=
  let mine := fun (t : Txn) => t.who.any fun w => w.clu = pcl
  { p with waiting := p.waiting.filter fun t => !mine t
           replay := p.replay.map fun t => if mine t then { t with who := none } else t }

/-- Step 5: what a cluster has under way to other modules, and to its counters, is nobody's any more. -/
def State.cutCluster (s : State) (pcl : Nat) : State :=
  { s with
    adds := s.adds.filter fun a => a.pcl != pcl
    transit := s.transit.filter fun t => t.who.clu != pcl
    fabric := { s.fabric with pairs := s.fabric.pairs.map fun e => (e.1, e.2.forgetClu pcl) } }

/-- The steps of R380 for a list of clusters, each for all of them before the next. -/
def State.resetClusters (s : State) (l : List Nat) : State :=
  l.foldl State.cutCluster (l.foldl State.resetCluster (l.foldl State.drainCluster (l.foldl State.abortColl s)))

/-- A partition at its reset values; what the management controller has set up for it stays. -/
def Partition.reset (p : Partition) : Partition :=
  { p with mosslim := [], launches := [], expiries := [], fchg := false, pwrevt := 0x03FF, capture := {}, swaps := [] }

/-- PARTITION_RESET. -/
def State.partReset (s : State) (p : Nat) : State :=
  let s := s.resetClusters (s.partAt p).list
  let mine := (s.partAt p).list
  { s.onPart p Partition.reset with
    arrivals := s.arrivals.filter fun a => a.part != p
    launching := s.launching.filter fun r => r.part != p
    waiters := s.waiters.filter fun w => w.part != p
    migrations := s.migrations.filter fun m => !mine.contains m.1
    icache := s.icache.filter fun l => l.part != p }

/-- PARTITION_RESET (R380). -/
def execPartitionReset (p : Nat) (s : State) : Out :=
  atPart p s fun s => if (s.partAt p).formed && !s.mgr.tripped then s.partReset p else s

end Sys2Proof.Machine
end

