-- ==== Sys2Proof/Machine/Power.lean ====
section
/-!
DEFINITION. Power and thermal control (R420 to R428).
-/
namespace Sys2Proof.Machine

/-! ### Caps, floors and grants -/

/-- Clusters of a partition, and their idle shares in watts (R420). -/
def partClus (s : State) (p : Nat) : Nat := (s.partAt p).list.length
def idleOf (s : State) (p : Nat) : Nat := partClus s p * s.idleShare

/-- The grant G of an allowance `a` of a partition (R421). -/
def grantOf (s : State) (p : Nat) (a : Int) : Nat :=
  let top := (a - (idleOf s p : Nat)).toNat
  min Config.grantTdp (Config.grantTdp * top * 40 / (partClus s p * (Config.tdp - s.mgr.idle)))

/-- The controller's new grant of a cluster, for its next boundary; a lower one that software wrote stays (R293, R421). -/
def Cluster.regrant (cl : Cluster) (g : Nat) : Cluster :=
  { cl with granted := g, grantNext := if cl.grantNext = cl.granted then g else cl.grantNext }

/-- The grant of the floor alone, below which no correction takes a cluster (R422). -/
def floorGrant (s : State) (p : Nat) : Nat := grantOf s p ((s.partAt p).floor : Nat)

/-- The grant of a cluster of a partition: that of the standing cap; while a measured mean corrects the grants, no more than the corrected
one (R421, R422, log 30). -/
def grantNow (s : State) (p : Nat) (cl : Cluster) : Nat :=
  let g := grantOf s p (allowance s s.mgr.cap p)
  match s.mgr.excess with
  | none => g
  | some mean => max (min cl.granted (g * s.mgr.cap / mean)) (floorGrant s p)

/-- Every cluster's grant follows from the standing cap, and from the correction that stands (R421, R422). -/
def State.regrant (s : State) : State :=
  (formedParts s).foldl (fun t p => (s.partAt p).list.foldl (fun t c => t.onClu c fun cl => cl.regrant (grantNow s p cl)) t) s

/-- The `pwrevt` event of a partition, as a release at device scope (R423). -/
def State.pwrSignal (s : State) (p : Nat) : State :=
  let id := (s.partAt p).pwrevt
  if id = 0x03FF then s
  else
    let (st, s) := s.stampWrite (dieOf (eventOf 0 id.toNat).1) {}
    s.sendAdd whoHardware 0 id.toNat 1 false false st (some (dieOf (eventOf 0 id.toNat).1))

/-- The sums of the idle shares, and of the floors above them (R420). -/
def idleSum (s : State) : Nat := (formedParts s).foldl (fun n p => n + idleOf s p) 0

/-- The floor of a partition under a forced cap (R420, step 4). -/
def forcedFloor (s : State) (cap p : Nat) : Nat :=
  let top := floorSum s - idleSum s
  if top = 0 then (s.partAt p).floor
  else idleOf s p + ((s.partAt p).floor - idleOf s p) * (cap - s.idleShare * looseClusters s - idleSum s) / top

/-- A forced cap lowers the floors, and tells the partitions whose floor it lowered. -/
def State.forceFloors (s : State) (cap : Nat) : State :=
  let new := (formedParts s).map fun p => (p, forcedFloor s cap p)
  new.foldl
    (fun t e =>
      if e.2 < (s.partAt e.1).floor then
        (t.onPart e.1 fun q => { q with floor := e.2, fchg := true }).pwrSignal e.1
      else t.onPart e.1 fun q => { q with floor := e.2 }) s

/-- A cap stands: the grants follow from it, and it governs over an earlier correction (R420 to R422). -/
def State.acceptCap (s : State) (cap : Nat) (clamped : Bool) (status : Nat) : State :=
  { s with mgr := { s.mgr with cap := cap, clamped := clamped, capReply := status, excess := none } }.regrant

/-- CAP_REQUEST: the steps of R420. -/
def State.capRequest (s : State) (cap : Nat) (force authority : Bool) : State :=
  let c := max s.mgr.idle (min Config.tdp cap)
  let clamped : Bool := c != cap
  let need := floorSum s + s.idleShare * looseClusters s
  let refuse : State := { s with mgr := { s.mgr with capReply := 2 } }
  if s.mgr.halted then s
  else if force && !authority then refuse
  else if c < need then
    if force then (s.forceFloors c).acceptCap c clamped 3 else refuse
  else s.acceptCap c clamped (b2n clamped)

/-- CAP_REQUEST (R420). -/
def execCapRequest (cap : Nat) (force authority : Bool) (s : State) : Out := .next (s.capRequest cap force authority)

/-- FLOOR_REQUEST: a floor never lies below the idle shares (R420). -/
def State.floorRequest (s : State) (p watts : Nat) : State :=
  if !(s.partAt p).formed || s.mgr.halted then s
  else (s.onPart p fun q => { q with floor := max watts (idleOf s p) }).regrant

/-- FLOOR_REQUEST (R420). -/
def execFloorRequest (p watts : Nat) (s : State) : Out := atPart p s fun s => s.floorRequest p watts

/-- A grant multiplied by cap / mean, not below the grant of the floor alone, but never raised (R422). -/
def corrected (s : State) (p mean g : Nat) : Nat := min g (max (g * s.mgr.cap / mean) (floorGrant s p))

/-- The correction of every cluster's grant by a measured mean, also of one that software has lowered (R293, R422). -/
def State.correct (s : State) (mean : Nat) : State :=
  (formedParts s).foldl
    (fun t p => (s.partAt p).list.foldl
      (fun t c => t.onClu c fun cl =>
        { cl with granted := corrected s p mean cl.granted, grantNext := corrected s p mean cl.grantNext }) t) s

/-- POWER_MEASUREMENT: `mean` over the last millisecond; `below` says that it has stayed below the cap for that long
(R422). -/
def State.measure (s : State) (mean : Nat) (below : Bool) : State :=
  if s.mgr.tripped || s.mgr.halted then s
  else if s.mgr.cap < mean then { s.correct mean with mgr := { s.mgr with excess := some mean } }
  else if below && s.mgr.excess.isSome then { s with mgr := { s.mgr with excess := none } }.regrant
  else s

/-- POWER_MEASUREMENT (R422). -/
def execPowerMeasurement (mean : Nat) (below : Bool) (s : State) : Out := .next (s.measure mean below)

/-! ### Body bias (R424, R425) -/

/-- BIAS_SELECTION: the controller's code, unless software holds it (R424, R425). -/
def execBiasSelection (pcl : Nat) (code : BitVec 4) (s : State) : Out :=
  atClu pcl s fun s =>
    if s.mgr.tripped then s
    else s.onClu pcl fun cl => if cl.biasman then cl else { cl with biascode := clampBias code.toNat }

/-! ### Thermal trip (R428) -/

/-- Transfers of the module end: their accesses are gone, and their transactions leave voids. -/
def Pair.cut (p : Pair) : Pair :=
  { p with waiting := [], replay := p.replay.map fun t => if t.who.isSome then t.void else t }

/-- The module trips: contexts, engines and transfers end, every link is down, and the clusters' state is lost; device memory and the hub
die stay (R428). -/
def State.trip (s : State) (pcl : Nat) (temp : BitVec 8) : State :=
  let hot : Cluster := { temp := temp }
  { s with
    cx := {}, others := [], subs := [], clus := tset [] pcl hot {}
    covers := [], transit := [], adds := [], arrivals := [], launching := [], waiters := [], migrations := [], icache := [], tlb := []
    fabric := { s.fabric with links := [], later := [], pairs := s.fabric.pairs.map fun e => (e.1, e.2.cut) }
    mgr := { s.mgr with tripped := true, log := s.mgr.log ++ [(428, pcl, (s.partOf pcl).getD 16)] } }

/-- AGE_TICK: a sweep at a reading of the cluster's sensor; a reading that trips the module leaves nothing to sweep (R222 to R225,
R428). -/
def execAgeTick (pcl : Nat) (temp : BitVec 8) (s : State) : Out :=
  atClu pcl s fun s => if 115 ≤ temp.toNat && !s.mgr.tripped then s.trip pcl temp else s.ageTick pcl temp

/-- THERMAL_TRIP (R428). -/
def execThermalTrip (pcl : Nat) (temp : BitVec 8) (s : State) : Out :=
  atClu pcl s fun s => if 115 ≤ temp.toNat && !s.mgr.tripped then s.trip pcl temp else s

/-- The wait-log rings of a form, as the controller has set them up (R359). -/
def State.setRings (s : State) (f : Form) : State :=
  f.waitlogs.foldl (fun s w => s.onClu w.1 fun cl => { cl with waitbase := w.2.1, waitcap := w.2.2 }) s

/-- TRIP_RECOVERY: the host's command with every sensor below 95 °C; every partition passes through its reset, and the grants in force
follow from the standing cap (R293, R428). -/
def State.recover (s : State) (hottest : BitVec 8) : State :=
  if !s.mgr.tripped || 95 ≤ hottest.toNat then s
  else
    let s := { s with mgr := { s.mgr with tripped := false } }
    let s := (formedParts s).foldl State.partReset s
    let s := (s.mgr.stored.foldl (fun s e => if (s.partAt e.1).formed then s.setRings e.2 else s) s).regrant
    (List.range 40).foldl (fun s c => s.onClu c fun cl => { cl with grant := min cl.grantNext cl.granted }) s

/-- TRIP_RECOVERY (R428). -/
def execTripRecovery (hottest : BitVec 8) (s : State) : Out := .next (s.recover hottest)

end Sys2Proof.Machine
end

