-- ==== Sys2Proof/Machine/Manage.lean ====
section
/-!
DEFINITION. What the management controller does for partitions (R3, R243, R244, R347, R359 to R362, R376), boot (R429) and
attestation (R431).
-/
namespace Sys2Proof.Machine

/-! ### Forming a partition (R376) -/

/-- A launch queue that R409 allows. -/
def queueOk (q : QueueForm) : Bool :=
  q.ring.toNat % 4096 = 0 && 16 ≤ q.cap && q.cap ≤ 4096 && 2 ^ Nat.log2 q.cap = q.cap

def hostQ (q : QueueForm) : HostQ := { ring := q.ring, cap := q.cap, mail := q.mail, head := q.head, comp := q.comp, notify := q.notify }

/-- The other partitions that are formed. -/
def othersOf (s : State) (p : Nat) : List Partition := ((formedParts s).filter (· != p)).map s.partAt

/-- The controller accepts a form: whole clusters and pages of no other partition, every new page scrubbed (R244, R376), queues
and queue pairs as R407 and R409 allow, ports of the module, and identity entries of no other partition (R376). -/
def formOk (s : State) (p : Nat) (f : Form) : Bool :=
  let os := othersOf s p
  f.clusters != 0 && f.root % 4096 = 0 && f.root < Config.memBytes &&
  (os.all fun q => q.clusters &&& f.clusters = 0) &&
  (f.pages.all fun g => g < Config.memBytes / 65536 && !(os.any fun q => q.pages.contains g) &&
    ((s.partAt p).pages.contains g || !s.mgr.dirty.contains g)) &&
  f.queues.length ≤ 4 && f.queues.all queueOk &&
  (f.qps.all fun e => e.1 < 2 && e.2.1 < 4096 && [1024, 2048, 4096].contains e.2.2 &&
    !(os.any fun q => q.qps.any fun d => d.1 = e.1 && d.2.1 = e.2.1)) &&
  (f.waitlogs.all fun w => f.clusters.getLsbD w.1 && w.2.1 + 32 * w.2.2 ≤ Config.memBytes) &&
  (f.ports.all fun l => l < 18) && f.ids.all fun n => n < 4096 && !(os.any fun q => q.ids.contains n)

/-- The partition has a share of a faulty link, or a page on the die of a faulty stack: 4 KiB blocks alternate between the stacks of a
die, so that every page lies on both (R239, R375, R429). -/
def formFaulty (f : Form) (m : Manager) : Bool :=
  (f.ports.any fun l => m.badLinks.contains l) || (f.pages.any fun g => m.badHbms.any fun h => h / 2 = g * 65536 / 2 ^ 37)

/-- What the controller does for a partition; a halted module answers only the recovery command, and a tripped one does nothing (R428,
R429). -/
def byManager (p : Nat) (s : State) (f : State → State) : Out :=
  atPart p s fun s => if s.mgr.tripped || s.mgr.halted then s else f s

/-- The partition that a form gives; the trap vector and the expert enable that the controller has set stay. -/
def formed (old : Partition) (f : Form) : Partition where
  formed := true
  clusters := f.clusters
  root := f.root
  pages := f.pages
  tvec := old.tvec
  expert := old.expert
  queues := (List.range f.queues.length).zip (f.queues.map hostQ)
  wmail := f.wmail
  qps := f.qps
  keys := f.keys
  ports := f.ports
  ids := f.ids

/-- PARTITION_FORM: the clusters that leave and those that join take their reset values (R218), the floor is the idle shares
(R420), and pages that are taken away wait for their scrub (R244). A partition on a part that has been found faulty is not formed (R429). -/
def State.formPart (s : State) (p : Nat) (f : Form) : State :=
  if !formOk s p f || formFaulty f s.mgr || s.mgr.tripped || s.mgr.halted || s.mgr.bootFail then s
  else
    let old := s.partAt p
    let s := if old.formed then s.partReset p else s
    let lost := old.pages.filter fun g => !f.pages.contains g
    let s := s.setPart p (formed old f)
    let s := s.resetClusters (s.partAt p).list
    let s := s.onPart p fun q => { q with floor := idleOf s p }
    let s := { s with mgr := { s.mgr with stored := tput s.mgr.stored p f, dirty := (s.mgr.dirty ++ lost).eraseDups } }
    (s.setRings f).regrant

/-- PARTITION_FORM (R376). -/
def execPartitionForm (p : Nat) (f : Form) (s : State) : Out := atPart p s fun s => s.formPart p f

/-- EXPERT_ENABLE_SET (R3). -/
def execExpertEnableSet (p : Nat) (on : Bool) (s : State) : Out :=
  byManager p s fun s => s.onPart p fun q => { q with expert := on }

/-- PARTITION_TRAP_VECTOR_SET (R347). -/
def execPartitionTrapVectorSet (p : Nat) (addr : Word) (s : State) : Out :=
  byManager p s fun s => s.onPart p fun q => { q with tvec := putBits addr 0 2 0 }

/-- TRANSLATION_INVALIDATION: no cluster holds a translation of the range from before (R243). -/
def execTranslationInvalidation (p : Nat) (lo hi : Word) (s : State) : Out :=
  byManager p s fun s =>
    { s with tlb := s.tlb.filter fun e => !(e.2.1 = p && e.2.2.1 < hi.toNat && lo.toNat < e.2.2.1 + e.2.2.2.1) }

/-- PAGE_SCRUB: a page of no partition is zeroed, with fresh check bits and no poison (R244). -/
def State.scrub (s : State) (page : Nat) : State :=
  if (formedParts s).any fun p => (s.partAt p).pages.contains page then s
  else
    { s with
      mem := zeroBytes s.mem (page * 65536) 65536
      poison := s.poison.filter fun u => u / 1024 != page
      mgr := { s.mgr with dirty := s.mgr.dirty.filter (· != page) } }

/-- PAGE_SCRUB (R244). -/
def execPageScrub (page : Nat) (s : State) : Out :=
  noObject (page < Config.memBytes / 65536) "page" s fun s => if s.mgr.tripped || s.mgr.halted then .next s else .next (s.scrub page)

/-! ### Capture, replay, dump (R359 to R362) -/

/-- REPLAY_CAPTURE_START: the four orders are recorded from now on (R362). -/
def execReplayCaptureStart (p buffer : Nat) (s : State) : Out :=
  byManager p s fun s =>
    if (s.partAt p).formed then s.onPart p fun q => { q with capture := { on := true, buffer := buffer } } else s

/-- A replay that runs is over once every recorded action has come; where one never comes, every context of the partition is
stopped, and the divergence is reported (R362). -/
def State.endReplay (s : State) (p : Nat) (left : List (Nat × Nat × Nat)) : State :=
  if left.isEmpty then s.onPart p fun q => { q with capture := { q.capture with replay := none } }
  else
    let s := (s.onPart p fun q => { q with capture := { q.capture with diverged := true } }).note 362 0 p
    ((s.contexts.filter fun e => e.2.resident && e.2.part = p).map Prod.fst).foldl State.debugHalt s

/-- PARTITION_REPLAY: a replay of what was recorded starts, or the one that runs is found complete or diverged (R362). -/
def execPartitionReplay (p : Nat) (s : State) : Out :=
  byManager p s fun s =>
    if !(s.partAt p).formed then s
    else
      match (s.partAt p).capture.replay with
      | none => s.onPart p fun q => { q with capture := { q.capture with on := false, replay := some q.capture.log } }
      | some l => s.endReplay p l

/-- An engine as an ender: its place and its command's number (R359). -/
def engineEnder (pcl e num : Nat) : BitVec 16 × BitVec 32 := (BitVec.ofNat 16 (2 ^ 15 + pcl * 512 + e), BitVec.ofNat 32 num)

/-- The sending engine of a token queue, by its head word (R360). -/
def tokenEnder (s : State) (c : CtxLoc) (obj : Word) : BitVec 16 × BitVec 32 :=
  let e := bitsOf obj 2 2
  let q := (s.ctxAt c).queue (engOf e)
  let n := match q.head? (engOf e) none with
    | some i => i.seq
    | none => q.issued
  ((ctxloc c).setWidth 16, BitVec.ofNat 32 (e * 2 ^ 30 + n.toNat % 2 ^ 30))

/-- The engine command that owns a tile (R360). -/
def ownerEnder (s : State) (c : CtxLoc) (obj : Word) : Option (BitVec 16 × BitVec 32) :=
  let owns := fun (k : Cmd) =>
    match placeOf (s.ctxAt c).wsize obj with
    | some (.win o) => k.who = c && k.grans.contains (o / 256)
    | some (.moss o) => k.rgs.contains (c.pcl, o / 4096)
    | _ => k.rgs.contains (bitsOf obj 32 6, bitsOf obj 0 26 / 4096)
  (s.clus.findSome? fun e => e.2.engines.findSome? fun q => (q.2.find? owns).map fun k => engineEnder e.1 q.1 k.num)

/-- The one party that can end an open wait, where there is one (R360). -/
def openEnder (s : State) (c : CtxLoc) (w : BitVec 8 × Word) : BitVec 16 × BitVec 32 :=
  if w.1 = wTok then tokenEnder s c w.2
  else if w.1 = wOwner then (ownerEnder s c w.2).getD (0xFFFE, 0)
  else if w.1 = wQueue then
    let (pcl, e) := (w.2.toNat / 512, w.2.toNat % 512)
    match s.engQueue pcl e with
    | k :: _ => engineEnder pcl e k.num
    | [] => (0xFFFE, 0)
  else (0xFFFE, 0)

/-- The dump adds an entry with end code 3 for every wait that a context has open (R359). -/
def State.dumpCtx (s : State) (c : CtxLoc) : State :=
  (s.ctxAt c).waits.foldl
    (fun s e =>
      let w := openEnder s c e.2
      { s.logWait c.pcl (waitEntry s c e.1 e.2 3 w.1 w.2) with free := s.free + 1 }) s

/-- PARTITION_DUMP (R359, R360). -/
def execPartitionDump (p : Nat) (s : State) : Out :=
  byManager p s fun s => ((s.contexts.filter fun e => e.2.resident && e.2.part = p).map Prod.fst).foldl State.dumpCtx s

/-! ### Boot and attestation (R429 to R431) -/

/-- What survives a power cycle: the stored configuration, the fused rollback counter, the controller's keys, and the part's idle
floor, which is its own (R1, R430). -/
def poweredOn (s : State) : State :=
  { mgr := { stored := s.mgr.stored, rollback := s.mgr.rollback, signed := s.mgr.signed, keygen := s.mgr.keygen,
             reports := s.mgr.reports, idle := s.mgr.idle } }

/-- An image verifies: both signatures, and a security version of at least the rollback counter (R430). -/
def imageVerifies (i : FwImage) (counter : BitVec 32) : Bool := i.ecdsa && i.lms && counter ≤ i.version

/-- A verified image is measured into the boot log, and raises the rollback counter where it asks for that (R429, R430). -/
def Manager.measure (m : Manager) (i : FwImage) : Manager :=
  { m with bootLog := m.bootLog ++ [i.digest]
           rollback := match i.raise with
             | some v => if m.rollback < v then v else m.rollback
             | none => m.rollback }

/-- Stage 6: the stored partitions, the cap, the first bias selections, the Ethernet ports (R429). -/
def State.lastStage (s : State) : State :=
  let s := s.mgr.stored.foldl (fun s e => s.formPart e.1 e.2) s
  { s with mgr := { s.mgr with stage := 6, cap := Config.tdp }, eth := { s.eth with down0 := false, down1 := false } }.regrant

/-- Stage 5: the links are trained; faulty links and stacks are reported (R429). -/
def State.trainLinks (s : State) (k : BootParts) : State :=
  let s := ((List.range 18).filter fun l => !k.links.contains l).foldl State.linkTrained s
  let s := { s with mgr := { s.mgr with badLinks := k.links, badHbms := k.hbms } }
  let s := k.links.foldl (fun s l => s.note 429 l 16) s
  k.hbms.foldl (fun s h => s.note 375 h 16) s

/-- Stage 4: the hub, die and engine firmware, image by image, in the same way. A component whose image does not verify stays unpowered
(R429). -/
def Manager.loadParts (m : Manager) : Nat → List FwImage → Manager
  | _, [] => m
  | n, i :: l =>
    (if imageVerifies i m.rollback then m.measure i else { m with dead := m.dead ++ [n], bootFail := true }).loadParts (n + 1) l

/-- Stages 3 to 6, with a first image that has verified; a boot failure ends them at stage 4 (R429, log 48). -/
def State.bootOn (s : State) (i : FwImage) (k : BootParts) : State :=
  let m := { s.mgr with version := i.version, bootLog := [], dead := [], bootFail := false }
  let m := (m.measure i).loadParts 0 k.images
  if m.bootFail then { s with mgr := { m with stage := 4 } } else ({ s with mgr := m }.trainLinks k).lastStage

/-- The image that runs at power-up: the first one, or, where it cannot be read or does not verify, the recovery image (R429). -/
def bootImage (m : Manager) (main recovery : Option FwImage) : Option FwImage :=
  (main.filter fun i => imageVerifies i m.rollback).or (recovery.filter fun i => imageVerifies i m.rollback)

/-- POWER_UP: the images that the module's flash holds, where they can be read, and what the later stages find (R429). -/
def execPowerUp (main recovery : Option FwImage) (parts : BootParts) (s : State) : Out :=
  let s := poweredOn s
  match bootImage s.mgr main recovery with
  | some i => .next (s.bootOn i parts)
  | none => .next { s with mgr := { s.mgr with stage := 2, halted := true } }

/-- RECOVERY_COMMAND: the one thing that a halted module answers. The image that it brings is verified like any other (R429, R430). -/
def execRecoveryCommand (k : Recovery) (s : State) : Out :=
  if s.mgr.halted && imageVerifies k.image s.mgr.rollback then
    .next ({ s with mgr := { s.mgr with halted := false } }.bootOn k.image k.parts)
  else .next s

/-- A device key signs at most 2¹⁵ reports (R431). -/
def Manager.sign (m : Manager) : Manager :=
  if m.signed < 2 ^ 15 then { m with signed := m.signed + 1 } else { m with signed := 1, keygen := m.keygen + 1 }

/-- The bytes of a report (R431). -/
def reportBytes (m : Manager) (nonce : BitVec 256) : List Byte :=
  toLE 4 1 ++ toLE 12 Config.serial.toNat ++ toLE 32 nonce.toNat ++
  ((List.range 6).flatMap fun k => toLE 48 (Config.stageDigest (k + 1) m.bootLog).toNat) ++ toLE 4 m.version.toNat ++
  toLE 4 m.rollback.toNat ++ toLE 48 (Config.configDigest m.stored).toNat

/-- ATTESTATION_REQUEST: a report with the nonce and its two signatures, refused during a trip or a recovery (R431). -/
def execAttestationRequest (nonce : BitVec 256) (s : State) : Out :=
  if s.mgr.tripped || s.mgr.halted then .next s
  else
    let m := s.mgr.sign
    let bs := reportBytes m nonce
    .next { s with mgr := { m with reports := m.reports ++ [bs ++ Config.signatures m.keygen bs] } }

end Sys2Proof.Machine
end

