-- ==== Sys2Proof/Machine/Scalar.lean ====
section
/-!
DEFINITION. Scalar floating point (R97) and control flow (R98, R99).
-/
namespace Sys2Proof.Machine

/-- Bits [31:0] of a scalar register (R97). -/
def lowWord (w : Word) : Nat := w.toNat % 2 ^ 32

/-- An FPS word: a result and its flags, the flags ORed into `fpflags` at dispatch (R83, R97). -/
def fpsResult (i : Instr) (rd : Reg) (v : Context → Nat × Flags) (s : State) : Out :=
  issue i s fun s => .next (s.onCx fun x =>
    { (x.setRg rd (BitVec.ofNat 64 (v x).1)).retire with fpflags := x.fpflags ||| (v x).2.setWidth 64 })

/-- A comparison of FPS: 0 with `fpflags.ni` for a NaN operand (R97). -/
def fpsCompare (a b : Word) (rel : Bool × Bool → Bool) : Nat × Flags :=
  match fpCmp .fp32 (lowWord a) (lowWord b) with
  | none => (0, fNI)
  | some r => (b2n (rel r), 0)

/-- FADD (R97). -/
def execFadd (rd rs1 rs2 : Reg) (s : State) : Out :=
  fpsResult (.fadd rd rs1 rs2) rd
    (fun x => fpAdd .fp32 (rmOf x.fpctl) false (lowWord (x.rg rs1)) (lowWord (x.rg rs2))) s

/-- FSUB (R97). -/
def execFsub (rd rs1 rs2 : Reg) (s : State) : Out :=
  fpsResult (.fsub rd rs1 rs2) rd
    (fun x => fpSub .fp32 (rmOf x.fpctl) false (lowWord (x.rg rs1)) (lowWord (x.rg rs2))) s

/-- FMUL (R97). -/
def execFmul (rd rs1 rs2 : Reg) (s : State) : Out :=
  fpsResult (.fmul rd rs1 rs2) rd
    (fun x => fpMul .fp32 (rmOf x.fpctl) false (lowWord (x.rg rs1)) (lowWord (x.rg rs2))) s

/-- FFMA (R97). -/
def execFfma (rd rs1 rs2 : Reg) (s : State) : Out :=
  fpsResult (.ffma rd rs1 rs2) rd
    (fun x => fpFma .fp32 (rmOf x.fpctl) false false (lowWord (x.rg rs1)) (lowWord (x.rg rs2)) (lowWord (x.rg rd))) s

/-- FMIN (R97). -/
def execFmin (rd rs1 rs2 : Reg) (s : State) : Out :=
  fpsResult (.fmin rd rs1 rs2) rd
    (fun x => fpMinMax .fp32 false (lowWord (x.rg rs1)) (lowWord (x.rg rs2))) s

/-- FMAX (R97). -/
def execFmax (rd rs1 rs2 : Reg) (s : State) : Out :=
  fpsResult (.fmax rd rs1 rs2) rd
    (fun x => fpMinMax .fp32 true (lowWord (x.rg rs1)) (lowWord (x.rg rs2))) s

/-- FCMPEQ (R97). -/
def execFcmpeq (rd rs1 rs2 : Reg) (s : State) : Out :=
  fpsResult (.fcmpeq rd rs1 rs2) rd
    (fun x => fpsCompare (x.rg rs1) (x.rg rs2) (fun r => r.1)) s

/-- FCMPLT (R97). -/
def execFcmplt (rd rs1 rs2 : Reg) (s : State) : Out :=
  fpsResult (.fcmplt rd rs1 rs2) rd
    (fun x => fpsCompare (x.rg rs1) (x.rg rs2) (fun r => r.2)) s

/-- FCMPLE (R97). -/
def execFcmple (rd rs1 rs2 : Reg) (s : State) : Out :=
  fpsResult (.fcmple rd rs1 rs2) rd
    (fun x => fpsCompare (x.rg rs1) (x.rg rs2) (fun r => r.1 || r.2)) s

/-- FCVTIF: an I64 rounded to FP32 (R97). -/
def execFcvtif (rd rs1 : Reg) (s : State) : Out :=
  fpsResult (.fcvtif rd rs1) rd (fun x => intToFp .fp32 (rmOf x.fpctl) false (x.rg rs1).toInt) s

/-- FCVTFI: FP32 rounded toward zero to I64 (R77, R97). -/
def execFcvtfi (rd rs1 : Reg) (s : State) : Out :=
  fpsResult (.fcvtfi rd rs1) rd (fun x => fpToInt .fp32 .i64 .rtz (lowWord (x.rg rs1))) s

/-- A branch: pc plus the offset in words when the relation holds (R98). -/
def branch (i : Instr) (rs1 rs2 : Reg) (off : BitVec 14) (rel : Word → Word → Bool) (s : State) : Out :=
  issue i s fun s => .next (s.onCx fun x =>
    { x with pc := if rel (x.rg rs1) (x.rg rs2) then x.pc + off.signExtend 64 * 4 else x.pc + 4 })

/-- BEQ (R98). -/
def execBeq (rs1 rs2 : Reg) (off : BitVec 14) (s : State) : Out :=
  branch (.beq rs1 rs2 off) rs1 rs2 off (fun a b => a == b) s

/-- BNE (R98). -/
def execBne (rs1 rs2 : Reg) (off : BitVec 14) (s : State) : Out :=
  branch (.bne rs1 rs2 off) rs1 rs2 off (fun a b => a != b) s

/-- BLT (R98). -/
def execBlt (rs1 rs2 : Reg) (off : BitVec 14) (s : State) : Out :=
  branch (.blt rs1 rs2 off) rs1 rs2 off (fun a b => a.slt b) s

/-- BGE (R98). -/
def execBge (rs1 rs2 : Reg) (off : BitVec 14) (s : State) : Out :=
  branch (.bge rs1 rs2 off) rs1 rs2 off (fun a b => !a.slt b) s

/-- BLTU (R98). -/
def execBltu (rs1 rs2 : Reg) (off : BitVec 14) (s : State) : Out :=
  branch (.bltu rs1 rs2 off) rs1 rs2 off (fun a b => a.ult b) s

/-- BGEU (R98). -/
def execBgeu (rs1 rs2 : Reg) (off : BitVec 14) (s : State) : Out :=
  branch (.bgeu rs1 rs2 off) rs1 rs2 off (fun a b => !a.ult b) s

/-- JAL (R99). -/
def execJal (rd : Reg) (off : BitVec 19) (s : State) : Out :=
  issue (.jal rd off) s fun s => .next (s.onCx fun x =>
    { x.setRg rd (x.pc + 4) with pc := x.pc + off.signExtend 64 * 4 })

/-- JALR: the target is taken before rd is written; a target that is no multiple of 4 faults (R99). -/
def execJalr (rd rs1 : Reg) (imm : BitVec 14) (s : State) : Out :=
  issue (.jalr rd rs1 imm) s fun s =>
    let a := s.cx.rg rs1 + imm.signExtend 64
    if a.toNat % 4 = 0 then .next (s.onCx fun x => { x.setRg rd (x.pc + 4) with pc := a })
    else .next (s.fault 0x07 a)

end Sys2Proof.Machine
end

