-- ==== Sys2Proof/Machine/Dispatch.lean ====
section
/-!
DEFINITION. The dispatcher: one arm per constructor of `Instr`, each one call of the meaning of that row.
-/
namespace Sys2Proof.Machine

def exec (i : Instr) (s : State) : Host.Outcome State Fault Refusal :=
  match i with
  | .add rd rs1 rs2 => Sys2Proof.Machine.execAdd rd rs1 rs2 s
  | .sub rd rs1 rs2 => Sys2Proof.Machine.execSub rd rs1 rs2 s
  | .and rd rs1 rs2 => Sys2Proof.Machine.execAnd rd rs1 rs2 s
  | .or rd rs1 rs2 => Sys2Proof.Machine.execOr rd rs1 rs2 s
  | .xor rd rs1 rs2 => Sys2Proof.Machine.execXor rd rs1 rs2 s
  | .shl rd rs1 rs2 => Sys2Proof.Machine.execShl rd rs1 rs2 s
  | .shr rd rs1 rs2 => Sys2Proof.Machine.execShr rd rs1 rs2 s
  | .sar rd rs1 rs2 => Sys2Proof.Machine.execSar rd rs1 rs2 s
  | .rol rd rs1 rs2 => Sys2Proof.Machine.execRol rd rs1 rs2 s
  | .slt rd rs1 rs2 => Sys2Proof.Machine.execSlt rd rs1 rs2 s
  | .sltu rd rs1 rs2 => Sys2Proof.Machine.execSltu rd rs1 rs2 s
  | .min rd rs1 rs2 => Sys2Proof.Machine.execMin rd rs1 rs2 s
  | .max rd rs1 rs2 => Sys2Proof.Machine.execMax rd rs1 rs2 s
  | .minu rd rs1 rs2 => Sys2Proof.Machine.execMinu rd rs1 rs2 s
  | .maxu rd rs1 rs2 => Sys2Proof.Machine.execMaxu rd rs1 rs2 s
  | .clz rd rs1 => Sys2Proof.Machine.execClz rd rs1 s
  | .popc rd rs1 => Sys2Proof.Machine.execPopc rd rs1 s
  | .andn rd rs1 rs2 => Sys2Proof.Machine.execAndn rd rs1 rs2 s
  | .addi rd rs1 imm => Sys2Proof.Machine.execAddi rd rs1 imm s
  | .andi rd rs1 imm => Sys2Proof.Machine.execAndi rd rs1 imm s
  | .ori rd rs1 imm => Sys2Proof.Machine.execOri rd rs1 imm s
  | .xori rd rs1 imm => Sys2Proof.Machine.execXori rd rs1 imm s
  | .slti rd rs1 imm => Sys2Proof.Machine.execSlti rd rs1 imm s
  | .sltui rd rs1 imm => Sys2Proof.Machine.execSltui rd rs1 imm s
  | .shli rd rs1 amt => Sys2Proof.Machine.execShli rd rs1 amt s
  | .shri rd rs1 amt => Sys2Proof.Machine.execShri rd rs1 amt s
  | .sari rd rs1 amt => Sys2Proof.Machine.execSari rd rs1 amt s
  | .roli rd rs1 amt => Sys2Proof.Machine.execRoli rd rs1 amt s
  | .lui rd imm => Sys2Proof.Machine.execLui rd imm s
  | .addpc rd imm => Sys2Proof.Machine.execAddpc rd imm s
  | .mul rd rs1 rs2 => Sys2Proof.Machine.execMul rd rs1 rs2 s
  | .mulh rd rs1 rs2 => Sys2Proof.Machine.execMulh rd rs1 rs2 s
  | .mulhu rd rs1 rs2 => Sys2Proof.Machine.execMulhu rd rs1 rs2 s
  | .div rd rs1 rs2 => Sys2Proof.Machine.execDiv rd rs1 rs2 s
  | .divu rd rs1 rs2 => Sys2Proof.Machine.execDivu rd rs1 rs2 s
  | .rem rd rs1 rs2 => Sys2Proof.Machine.execRem rd rs1 rs2 s
  | .remu rd rs1 rs2 => Sys2Proof.Machine.execRemu rd rs1 rs2 s
  | .fadd rd rs1 rs2 => Sys2Proof.Machine.execFadd rd rs1 rs2 s
  | .fsub rd rs1 rs2 => Sys2Proof.Machine.execFsub rd rs1 rs2 s
  | .fmul rd rs1 rs2 => Sys2Proof.Machine.execFmul rd rs1 rs2 s
  | .ffma rd rs1 rs2 => Sys2Proof.Machine.execFfma rd rs1 rs2 s
  | .fmin rd rs1 rs2 => Sys2Proof.Machine.execFmin rd rs1 rs2 s
  | .fmax rd rs1 rs2 => Sys2Proof.Machine.execFmax rd rs1 rs2 s
  | .fcvtif rd rs1 => Sys2Proof.Machine.execFcvtif rd rs1 s
  | .fcvtfi rd rs1 => Sys2Proof.Machine.execFcvtfi rd rs1 s
  | .fcmpeq rd rs1 rs2 => Sys2Proof.Machine.execFcmpeq rd rs1 rs2 s
  | .fcmplt rd rs1 rs2 => Sys2Proof.Machine.execFcmplt rd rs1 rs2 s
  | .fcmple rd rs1 rs2 => Sys2Proof.Machine.execFcmple rd rs1 rs2 s
  | .beq rs1 rs2 off => Sys2Proof.Machine.execBeq rs1 rs2 off s
  | .bne rs1 rs2 off => Sys2Proof.Machine.execBne rs1 rs2 off s
  | .blt rs1 rs2 off => Sys2Proof.Machine.execBlt rs1 rs2 off s
  | .bge rs1 rs2 off => Sys2Proof.Machine.execBge rs1 rs2 off s
  | .bltu rs1 rs2 off => Sys2Proof.Machine.execBltu rs1 rs2 off s
  | .bgeu rs1 rs2 off => Sys2Proof.Machine.execBgeu rs1 rs2 off s
  | .jal rd off => Sys2Proof.Machine.execJal rd off s
  | .jalr rd rs1 imm => Sys2Proof.Machine.execJalr rd rs1 imm s
  | .ld wd rd rs1 imm => Sys2Proof.Machine.execLd wd rd rs1 imm s
  | .st wd rs2 rs1 imm => Sys2Proof.Machine.execSt wd rs2 rs1 imm s
  | .lda wd sc rd rs1 => Sys2Proof.Machine.execLda wd sc rd rs1 s
  | .stl wd sc rs rs1 => Sys2Proof.Machine.execStl wd sc rs rs1 s
  | .amoSwap word sc seq rd rs1 rs2 => Sys2Proof.Machine.execAmoSwap word sc seq rd rs1 rs2 s
  | .amoAdd word sc seq rd rs1 rs2 => Sys2Proof.Machine.execAmoAdd word sc seq rd rs1 rs2 s
  | .amoAnd word sc seq rd rs1 rs2 => Sys2Proof.Machine.execAmoAnd word sc seq rd rs1 rs2 s
  | .amoOr word sc seq rd rs1 rs2 => Sys2Proof.Machine.execAmoOr word sc seq rd rs1 rs2 s
  | .amoXor word sc seq rd rs1 rs2 => Sys2Proof.Machine.execAmoXor word sc seq rd rs1 rs2 s
  | .amoMin word sc seq rd rs1 rs2 => Sys2Proof.Machine.execAmoMin word sc seq rd rs1 rs2 s
  | .amoMax word sc seq rd rs1 rs2 => Sys2Proof.Machine.execAmoMax word sc seq rd rs1 rs2 s
  | .amoMinu word sc seq rd rs1 rs2 => Sys2Proof.Machine.execAmoMinu word sc seq rd rs1 rs2 s
  | .amoMaxu word sc seq rd rs1 rs2 => Sys2Proof.Machine.execAmoMaxu word sc seq rd rs1 rs2 s
  | .amoFadd sc seq rd rs1 rs2 => Sys2Proof.Machine.execAmoFadd sc seq rd rs1 rs2 s
  | .cas word sc seq rd rs1 rs2 => Sys2Proof.Machine.execCas word sc seq rd rs1 rs2 s
  | .fence kinds sc => Sys2Proof.Machine.execFence kinds sc s
  | .cvta gen ap rd rs1 => Sys2Proof.Machine.execCvta gen ap rd rs1 s
  | .spchk ap rd rs1 => Sys2Proof.Machine.execSpchk ap rd rs1 s
  | .mfs n rd => Sys2Proof.Machine.execMfs n rd s
  | .mts n rs1 => Sys2Proof.Machine.execMts n rs1 s
  | .mtsFpflags rs1 => Sys2Proof.Machine.execMtsFpflags rs1 s
  | .mtsSlotmask rs1 => Sys2Proof.Machine.execMtsSlotmask rs1 s
  | .mtsPreq rs1 => Sys2Proof.Machine.execMtsPreq rs1 s
  | .mtsLeavegrant rs1 => Sys2Proof.Machine.execMtsLeavegrant rs1 s
  | .mtsMosslim k rs1 => Sys2Proof.Machine.execMtsMosslim k rs1 s
  | .mtsLeaveclus rs1 => Sys2Proof.Machine.execMtsLeaveclus rs1 s
  | .mtsLeaveslot rs1 => Sys2Proof.Machine.execMtsLeaveslot rs1 s
  | .mtsBiasctl rs1 => Sys2Proof.Machine.execMtsBiasctl rs1 s
  | .mtsMon k rs1 => Sys2Proof.Machine.execMtsMon k rs1 s
  | .mtsMonsnap rs1 => Sys2Proof.Machine.execMtsMonsnap rs1 s
  | .mtsPwrevt rs1 => Sys2Proof.Machine.execMtsPwrevt rs1 s
  | .trap rs1 => Sys2Proof.Machine.execTrap rs1 s
  | .tret => Sys2Proof.Machine.execTret s
  | .bkpt => Sys2Proof.Machine.execBkpt s
  | .exit => Sys2Proof.Machine.execExit s
  | .ownwait rs1 => Sys2Proof.Machine.execOwnwait rs1 s
  | .tokpost snd rcv => Sys2Proof.Machine.execTokpost snd rcv s
  | .toktake snd rcv => Sys2Proof.Machine.execToktake snd rcv s
  | .yield idx => Sys2Proof.Machine.execYield idx s
  | .suspend rd rs1 rs2 => Sys2Proof.Machine.execSuspend rd rs1 rs2 s
  | .bar k => Sys2Proof.Machine.execBar k s
  | .bararr rd k => Sys2Proof.Machine.execBararr rd k s
  | .barwait k rs1 => Sys2Proof.Machine.execBarwait k rs1 s
  | .grpinfo rd k => Sys2Proof.Machine.execGrpinfo rd k s
  | .launch rd rs1 => Sys2Proof.Machine.execLaunch rd rs1 s
  | .launchBlock rd rs1 => Sys2Proof.Machine.execLaunchBlock rd rs1 s
  | .evadd sc rs1 rs2 => Sys2Proof.Machine.execEvadd sc rs1 rs2 s
  | .evwait rd rs1 rs2 => Sys2Proof.Machine.execEvwait rd rs1 rs2 s
  | .evrd rd rs1 => Sys2Proof.Machine.execEvrd rd rs1 s
  | .evset rs1 rs2 => Sys2Proof.Machine.execEvset rs1 rs2 s
  | .rpsh n rs1 => Sys2Proof.Machine.execRpsh n rs1 s
  | .rpop rd n => Sys2Proof.Machine.execRpop rd n s
  | .rinit n rs1 => Sys2Proof.Machine.execRinit n rs1 s
  | .mclass cls rd rs1 rs2 => Sys2Proof.Machine.execMclass cls rd rs1 rs2 s
  | .mfree rd rs1 rs2 => Sys2Proof.Machine.execMfree rd rs1 rs2 s
  | .mrefresh rd rs1 rs2 => Sys2Proof.Machine.execMrefresh rd rs1 rs2 s
  | .mage rd rs1 => Sys2Proof.Machine.execMage rd rs1 s
  | .mquery rd rs1 rs2 => Sys2Proof.Machine.execMquery rd rs1 rs2 s
  | .leave rd rs1 => Sys2Proof.Machine.execLeave rd rs1 s
  | .leaverd rd => Sys2Proof.Machine.execLeaverd rd s
  | .engCopy f => Sys2Proof.Machine.execEngCopy f s
  | .engFill f => Sys2Proof.Machine.execEngFill f s
  | .engRefresh f => Sys2Proof.Machine.execEngRefresh f s
  | .engGather f => Sys2Proof.Machine.execEngGather f s
  | .engScatter f => Sys2Proof.Machine.execEngScatter f s
  | .engScatteradd f => Sys2Proof.Machine.execEngScatteradd f s
  | .engColl f => Sys2Proof.Machine.execEngColl f s
  | .engFamo f => Sys2Proof.Machine.execEngFamo f s
  | .engFcas f => Sys2Proof.Machine.execEngFcas f s
  | .engEvsig f => Sys2Proof.Machine.execEngEvsig f s
  | .engTwset f => Sys2Proof.Machine.execEngTwset f s
  | .engTwclr f => Sys2Proof.Machine.execEngTwclr f s
  | .engTwbud f => Sys2Proof.Machine.execEngTwbud f s
  | .engTkcmt f => Sys2Proof.Machine.execEngTkcmt f s
  | .engTkconf f => Sys2Proof.Machine.execEngTkconf f s
  | .engTkrej f => Sys2Proof.Machine.execEngTkrej f s
  | .engTwstat f => Sys2Proof.Machine.execEngTwstat f s
  | .engSeqopen f => Sys2Proof.Machine.execEngSeqopen f s
  | .engSeqclose f => Sys2Proof.Machine.execEngSeqclose f s
  | .engWswap f => Sys2Proof.Machine.execEngWswap f s
  | .engWstat f => Sys2Proof.Machine.execEngWstat f s
  | .engCqry f => Sys2Proof.Machine.execEngCqry f s
  | .vadd f => Sys2Proof.Machine.execVadd f s
  | .vsub f => Sys2Proof.Machine.execVsub f s
  | .vmul f => Sys2Proof.Machine.execVmul f s
  | .vfma f => Sys2Proof.Machine.execVfma f s
  | .vfms f => Sys2Proof.Machine.execVfms f s
  | .vmin f => Sys2Proof.Machine.execVmin f s
  | .vmax f => Sys2Proof.Machine.execVmax f s
  | .vabs f => Sys2Proof.Machine.execVabs f s
  | .vneg f => Sys2Proof.Machine.execVneg f s
  | .vscl f => Sys2Proof.Machine.execVscl f s
  | .vcpy f => Sys2Proof.Machine.execVcpy f s
  | .vbcst f => Sys2Proof.Machine.execVbcst f s
  | .viadd f => Sys2Proof.Machine.execViadd f s
  | .visub f => Sys2Proof.Machine.execVisub f s
  | .vimul f => Sys2Proof.Machine.execVimul f s
  | .vimulh f => Sys2Proof.Machine.execVimulh f s
  | .vimad f => Sys2Proof.Machine.execVimad f s
  | .vimin f => Sys2Proof.Machine.execVimin f s
  | .vimax f => Sys2Proof.Machine.execVimax f s
  | .viabs f => Sys2Proof.Machine.execViabs f s
  | .vclz f => Sys2Proof.Machine.execVclz f s
  | .vpopc f => Sys2Proof.Machine.execVpopc f s
  | .vand f => Sys2Proof.Machine.execVand f s
  | .vor f => Sys2Proof.Machine.execVor f s
  | .vxor f => Sys2Proof.Machine.execVxor f s
  | .vlut3 f => Sys2Proof.Machine.execVlut3 f s
  | .vshl f => Sys2Proof.Machine.execVshl f s
  | .vshr f => Sys2Proof.Machine.execVshr f s
  | .vsar f => Sys2Proof.Machine.execVsar f s
  | .vrot f => Sys2Proof.Machine.execVrot f s
  | .vfshl f => Sys2Proof.Machine.execVfshl f s
  | .vfshr f => Sys2Proof.Machine.execVfshr f s
  | .vcmp f => Sys2Proof.Machine.execVcmp f s
  | .vsel f => Sys2Proof.Machine.execVsel f s
  | .mand f => Sys2Proof.Machine.execMand f s
  | .mor f => Sys2Proof.Machine.execMor f s
  | .mxor f => Sys2Proof.Machine.execMxor f s
  | .mnot f => Sys2Proof.Machine.execMnot f s
  | .mcnt f => Sys2Proof.Machine.execMcnt f s
  | .mfirst f => Sys2Proof.Machine.execMfirst f s
  | .vcvt f => Sys2Proof.Machine.execVcvt f s
  | .vqnt f => Sys2Proof.Machine.execVqnt f s
  | .vdq f => Sys2Proof.Machine.execVdq f s
  | .vretag f => Sys2Proof.Machine.execVretag f s
  | .vrcp f => Sys2Proof.Machine.execVrcp f s
  | .vrsq f => Sys2Proof.Machine.execVrsq f s
  | .vsqrt f => Sys2Proof.Machine.execVsqrt f s
  | .vdiv f => Sys2Proof.Machine.execVdiv f s
  | .vexp2 f => Sys2Proof.Machine.execVexp2 f s
  | .vlog2 f => Sys2Proof.Machine.execVlog2 f s
  | .vtanh f => Sys2Proof.Machine.execVtanh f s
  | .vrsum f => Sys2Proof.Machine.execVrsum f s
  | .vrmax f => Sys2Proof.Machine.execVrmax f s
  | .vrmin f => Sys2Proof.Machine.execVrmin f s
  | .vramax f => Sys2Proof.Machine.execVramax f s
  | .vscan f => Sys2Proof.Machine.execVscan f s
  | .vcsum f => Sys2Proof.Machine.execVcsum f s
  | .vperm f => Sys2Proof.Machine.execVperm f s
  | .vshuf f => Sys2Proof.Machine.execVshuf f s
  | .vtrn f => Sys2Proof.Machine.execVtrn f s
  | .vrgath f => Sys2Proof.Machine.execVrgath f s
  | .vrscat f => Sys2Proof.Machine.execVrscat f s
  | .vtopk f => Sys2Proof.Machine.execVtopk f s
  | .vsample f => Sys2Proof.Machine.execVsample f s
  | .vld f => Sys2Proof.Machine.execVld f s
  | .vst f => Sys2Proof.Machine.execVst f s
  | .vldx f => Sys2Proof.Machine.execVldx f s
  | .vstx f => Sys2Proof.Machine.execVstx f s
  | .mld f => Sys2Proof.Machine.execMld f s
  | .mst f => Sys2Proof.Machine.execMst f s
  | .mma f => Sys2Proof.Machine.execMma f s
  | .mmaz f => Sys2Proof.Machine.execMmaz f s
  | .aclr f => Sys2Proof.Machine.execAclr f s
  | .aswap f => Sys2Proof.Machine.execAswap f s
  | .adrain f => Sys2Proof.Machine.execAdrain f s
  | .slotmaskTakesEffect c => Sys2Proof.Machine.execSlotmaskTakesEffect c s
  | .vWordStart c => Sys2Proof.Machine.execVWordStart c s
  | .vWordFinish c => Sys2Proof.Machine.execVWordFinish c s
  | .mWordStart c => Sys2Proof.Machine.execMWordStart c s
  | .mWordFinish c => Sys2Proof.Machine.execMWordFinish c s
  | .lWordStart c late => Sys2Proof.Machine.execLWordStart c late s
  | .nearReplyDue c k => Sys2Proof.Machine.execNearReplyDue c k s
  | .nearReplyArrival c k cycles => Sys2Proof.Machine.execNearReplyArrival c k cycles s
  | .freezeWatchdogExpiry pcl sub written => Sys2Proof.Machine.execFreezeWatchdogExpiry pcl sub written s
  | .farReply c k homeError => Sys2Proof.Machine.execFarReply c k homeError s
  | .lWordFinish c => Sys2Proof.Machine.execLWordFinish c s
  | .postPointReached c en => Sys2Proof.Machine.execPostPointReached c en s
  | .writeBufferDrain pcl k => Sys2Proof.Machine.execWriteBufferDrain pcl k s
  | .writeApplied k => Sys2Proof.Machine.execWriteApplied k s
  | .eventAdd k => Sys2Proof.Machine.execEventAdd k s
  | .groupArrival k => Sys2Proof.Machine.execGroupArrival k s
  | .wswapDecision pcl => Sys2Proof.Machine.execWswapDecision pcl s
  | .exitDrainComplete c => Sys2Proof.Machine.execExitDrainComplete c s
  | .recordWriteBack c => Sys2Proof.Machine.execRecordWriteBack c s
  | .dispatch pcl => Sys2Proof.Machine.execDispatch pcl s
  | .hardwareRestore c => Sys2Proof.Machine.execHardwareRestore c s
  | .balancingPeriod => Sys2Proof.Machine.execBalancingPeriod s
  | .migrationCommand k => Sys2Proof.Machine.execMigrationCommand k s
  | .preemptionRequest pcl => Sys2Proof.Machine.execPreemptionRequest pcl s
  | .partitionDrain p => Sys2Proof.Machine.execPartitionDrain p s
  | .preemptionDeadline c => Sys2Proof.Machine.execPreemptionDeadline c s
  | .hardwareSave c => Sys2Proof.Machine.execHardwareSave c s
  | .timeoutSuspension c => Sys2Proof.Machine.execTimeoutSuspension c s
  | .stopRecordCut c vRows mSigs => Sys2Proof.Machine.execStopRecordCut c vRows mSigs s
  | .debugResume c epc => Sys2Proof.Machine.execDebugResume c epc s
  | .ageTick pcl temp => Sys2Proof.Machine.execAgeTick pcl temp s
  | .refreshRequest pcl n => Sys2Proof.Machine.execRefreshRequest pcl n s
  | .rowGroupExpiry pcl n => Sys2Proof.Machine.execRowGroupExpiry pcl n s
  | .keepRefreshDue pcl n => Sys2Proof.Machine.execKeepRefreshDue pcl n s
  | .mossRewriteStart pcl bank => Sys2Proof.Machine.execMossRewriteStart pcl bank s
  | .mossRewriteEnd pcl bank => Sys2Proof.Machine.execMossRewriteEnd pcl bank s
  | .leaveBoundary pcl => Sys2Proof.Machine.execLeaveBoundary pcl s
  | .droopEvent pcl => Sys2Proof.Machine.execDroopEvent pcl s
  | .droopFreezeEnd pcl => Sys2Proof.Machine.execDroopFreezeEnd pcl s
  | .engSubmission c => Sys2Proof.Machine.execEngSubmission c s
  | .engineCommandStart pcl e => Sys2Proof.Machine.execEngineCommandStart pcl e s
  | .engineChunk pcl e => Sys2Proof.Machine.execEngineChunk pcl e s
  | .engineCommandCompletion pcl e => Sys2Proof.Machine.execEngineCommandCompletion pcl e s
  | .launchPoolAccept k => Sys2Proof.Machine.execLaunchPoolAccept k s
  | .launchEnd p id => Sys2Proof.Machine.execLaunchEnd p id s
  | .monitorSnapshotDone pcl => Sys2Proof.Machine.execMonitorSnapshotDone pcl s
  | .timingError c en => Sys2Proof.Machine.execTimingError c en s
  | .timingReplayFailure c en => Sys2Proof.Machine.execTimingReplayFailure c en s
  | .partitionReset p => Sys2Proof.Machine.execPartitionReset p s
  | .engineReset pcl e => Sys2Proof.Machine.execEngineReset pcl e s
  | .linkReset l => Sys2Proof.Machine.execLinkReset l s
  | .linkDown l => Sys2Proof.Machine.execLinkDown l s
  | .flitCrcFailure l => Sys2Proof.Machine.execFlitCrcFailure l s
  | .retransmitTimeout dst seq => Sys2Proof.Machine.execRetransmitTimeout dst seq s
  | .readRequest f => Sys2Proof.Machine.execReadRequest f s
  | .readReply f => Sys2Proof.Machine.execReadReply f s
  | .write f => Sys2Proof.Machine.execWrite f s
  | .atomicRequest f => Sys2Proof.Machine.execAtomicRequest f s
  | .atomicReply f => Sys2Proof.Machine.execAtomicReply f s
  | .eventSignal f => Sys2Proof.Machine.execEventSignal f s
  | .acknowledgmentOnly f => Sys2Proof.Machine.execAcknowledgmentOnly f s
  | .collectiveData f => Sys2Proof.Machine.execCollectiveData f s
  | .collectiveAbort f => Sys2Proof.Machine.execCollectiveAbort f s
  | .void f => Sys2Proof.Machine.execVoid f s
  | .collectiveTimeout pcl => Sys2Proof.Machine.execCollectiveTimeout pcl s
  | .checkpointCommit p => Sys2Proof.Machine.execCheckpointCommit p s
  | .identityEntryWrite n e => Sys2Proof.Machine.execIdentityEntryWrite n e s
  | .spareRestore n gen m => Sys2Proof.Machine.execSpareRestore n gen m s
  | .rdmaWrite port qp key va data => Sys2Proof.Machine.execRdmaWrite port qp key va data s
  | .rdmaRead port qp key va len => Sys2Proof.Machine.execRdmaRead port qp key va len s
  | .rdmaInvalidRequest port qp => Sys2Proof.Machine.execRdmaInvalidRequest port qp s
  | .ethernetPortDown port => Sys2Proof.Machine.execEthernetPortDown port s
  | .launchMailboxWrite p q tail head => Sys2Proof.Machine.execLaunchMailboxWrite p q tail head s
  | .hostLaunchTake p q => Sys2Proof.Machine.execHostLaunchTake p q s
  | .weightSetArm p addr => Sys2Proof.Machine.execWeightSetArm p addr s
  | .shardFetchStart p t => Sys2Proof.Machine.execShardFetchStart p t s
  | .shardFetchComplete p t shard data => Sys2Proof.Machine.execShardFetchComplete p t shard data s
  | .shardFetchFailure p t shard reason data => Sys2Proof.Machine.execShardFetchFailure p t shard reason data s
  | .shardTimeout p t => Sys2Proof.Machine.execShardTimeout p t s
  | .capRequest cap force authority => Sys2Proof.Machine.execCapRequest cap force authority s
  | .floorRequest p watts => Sys2Proof.Machine.execFloorRequest p watts s
  | .powerMeasurement mean below => Sys2Proof.Machine.execPowerMeasurement mean below s
  | .biasSelection pcl code => Sys2Proof.Machine.execBiasSelection pcl code s
  | .thermalTrip pcl temp => Sys2Proof.Machine.execThermalTrip pcl temp s
  | .tripRecovery hottest => Sys2Proof.Machine.execTripRecovery hottest s
  | .powerUp main recovery parts => Sys2Proof.Machine.execPowerUp main recovery parts s
  | .attestationRequest nonce => Sys2Proof.Machine.execAttestationRequest nonce s
  | .partitionForm p f => Sys2Proof.Machine.execPartitionForm p f s
  | .expertEnableSet p on => Sys2Proof.Machine.execExpertEnableSet p on s
  | .translationInvalidation p lo hi => Sys2Proof.Machine.execTranslationInvalidation p lo hi s
  | .pageScrub page => Sys2Proof.Machine.execPageScrub page s
  | .replayCaptureStart p buffer => Sys2Proof.Machine.execReplayCaptureStart p buffer s
  | .partitionDump p => Sys2Proof.Machine.execPartitionDump p s
  | .linkRetrainComplete l => Sys2Proof.Machine.execLinkRetrainComplete l s
  | .monitorPeriodicSample pcl => Sys2Proof.Machine.execMonitorPeriodicSample pcl s
  | .instructionLineFetch c va => Sys2Proof.Machine.execInstructionLineFetch c va s
  | .reservedKindFlit kind => Sys2Proof.Machine.execReservedKindFlit kind s
  | .recoveryCommand k => Sys2Proof.Machine.execRecoveryCommand k s
  | .partitionTrapVectorSet p addr => Sys2Proof.Machine.execPartitionTrapVectorSet p addr s
  | .unreliableTransportPacket port => Sys2Proof.Machine.execUnreliableTransportPacket port s
  | .partitionReplay p => Sys2Proof.Machine.execPartitionReplay p s

end Sys2Proof.Machine
end

