-- ==== Sys2Proof/Machine/Storage.lean ====
section
/-!
DEFINITION. Errors of storage (R245, R387, R388): corrected ones are counted, others poison their unit and are told to the management
controller.
-/
namespace Sys2Proof.Machine

/-- The part has the unit. -/
def EccUnit.ok (s : State) : EccUnit → Bool
  | .moss pcl n => pcl < 40 && n < 16384
  | .gran c g => c.ok && g < 384
  | .ring pcl sub g => pcl < 40 && sub < 128 && g < 48
  | .line u => u < Config.memBytes / 64
  | .buffered pcl k => k < (s.cluAt pcl).wbuf.length
  | .bridge k => k < s.transit.length
  | .icache k => k < s.icache.length

/-- The number by which the controller's log names a unit. -/
def EccUnit.num : EccUnit → Nat
  | .moss pcl n => pcl * 16384 + n
  | .gran c g => ckey c * 384 + g
  | .ring pcl sub g => (pcl * 128 + sub) * 48 + g
  | .line u => u
  | .buffered pcl k => pcl * 512 + k
  | .bridge k => k
  | .icache k => k

/-- The partition that a unit belongs to; 16 for none. -/
def EccUnit.part (s : State) : EccUnit → Nat
  | .moss pcl _ => (s.partOf pcl).getD 16
  | .gran c _ => (s.partOf c.pcl).getD 16
  | .ring pcl _ _ => (s.partOf pcl).getD 16
  | .line u => ((formedParts s).find? fun p => (s.partAt p).pages.contains (u / 1024)).getD 16
  | .buffered pcl _ => (s.partOf pcl).getD 16
  | .bridge k => ((s.transit[k]?).bind fun t => s.partOf t.who.clu).getD 16
  | .icache k => (s.icache[k]?).elim 16 ILine.part

/-- The unit takes poison; a line of an instruction cache is dropped, to be fetched again. -/
def State.spoil (s : State) : EccUnit → State
  | .moss pcl n => s.onClu pcl fun cl => cl.setRg n { cl.rg n with poison := true }
  | .gran c g => s.onCtx c fun x => x.setGran g { x.gran g with poison := true }
  | .ring pcl sub g =>
    let u := s.subAt pcl sub
    if u.ringBad.contains g then s else s.setSub pcl sub { u with ringBad := u.ringBad ++ [g] }
  | .line u =>
    let s := { s with covers := s.covers.filter fun e => e.1 != u }
    if s.poison.contains u then s else { s with poison := s.poison ++ [u] }
  | .buffered pcl k => s.onClu pcl fun cl =>
      match cl.wbuf[k]? with
      | some b => { cl with wbuf := setNth cl.wbuf k { b with bad := true } }
      | none => cl
  | .bridge k =>
    match s.transit[k]? with
    | some t => { s with transit := setNth s.transit k { t with bad := true } }
    | none => s
  | .icache k => { s with icache := dropNth s.icache k, mgr := { s.mgr with refetched := s.mgr.refetched + 1 } }

/-- The home of a unit of device memory begins to fail the hardware's accesses, or is mended (R412, R434). -/
def State.homeFails (s : State) (u : Nat) (on : Bool) : State :=
  let rest := s.failing.filter (· != u)
  if Config.memBytes / 64 ≤ u then s else { s with failing := if on then rest ++ [u] else rest }

/-- The class under which the controller's log has an uncorrectable error, by the rows of R387: Moss, register space, device memory, the write
buffer, the die bridge (log 37). -/
def EccUnit.cls : EccUnit → Nat
  | .moss _ _ => 3871
  | .gran _ _ | .ring _ _ _ => 3872
  | .line _ => 3873
  | .buffered _ _ => 3874
  | .bridge _ => 3875
  | .icache _ => 387

/-- An error of a unit. An error in the cycle of a write that clears poison comes after the write, so that the unit ends poisoned
(R388). -/
def State.ecc (s : State) (u : EccUnit) (fixed : Bool) : State :=
  if !u.ok s || s.mgr.tripped then s
  else if fixed then { s with mgr := { s.mgr with corrected := s.mgr.corrected + 1 } }
  else
    match u with
    | .icache _ => s.spoil u
    | _ => (s.spoil u).note u.cls u.num (u.part s)

end Sys2Proof.Machine
end

