-- ==== Sys2Proof/Machine/Schedule.lean ====
section
/-!
DEFINITION. What happens next: the issue of the next word of a context, a move of the schedule, and, where the schedule is empty,
the machine's own order (log 2); and placing a word where the next step fetches it (log 4).
-/
namespace Sys2Proof.Machine

/-- The next word of the focused context issues: it is fetched, decoded and executed, or its fetch or its encoding faults
(R39 to R41). -/
def issueNext (s : State) : Out :=
  if !s.canIssue then .next s
  else
    let s := s.fetchLines s.focus s.cx.pc
    match fetchWord s s.focus s.cx.pc with
    | .ok i => exec i s
    | .error (c, t) => .next (s.fault c t)

/-- A move of the schedule. -/
def runMove (m : Move) (s : State) : Out :=
  match m with
  | .event i => exec i s
  | .issue c => noObject c.ok "context" s fun s => issueNext (s.refocus c)
  | .goOnL c k late => atCtx c s (goOnL c k late)
  | .sendL c k p => atCtx c s (sendL c k p)
  | .writeQuarter c k => atCtx c s (writeQuarter c k)
  | .goOnV c picks => atCtx c s (goOnV c picks)
  | .writeVQuarter c q => atCtx c s (writeVQuarter c q)
  | .writeV c => atCtx c s (writeV c)
  | .goOnM c k => atCtx c s (goOnM c k)
  | .beginStream c => atCtx c s fun s => s.beginStream c
  | .debugWrite c off bs => atCtx c s fun s => s.debugWrite c off bs
  | .chunkElem pcl e => atClu pcl s fun s => s.cmdChunk pcl (CEng.num e) 1
  | .chunkRead pcl e k => atClu pcl s fun s => s.chunkRead pcl (CEng.num e) k
  | .contestBank pcl bank reqs cycles => atClu pcl s fun s => s.contestBank pcl bank reqs cycles
  | .homeFails u on => .next (s.homeFails u on)
  | .contestSlots pcl reqs => atClu pcl s fun s => s.contestSlots pcl reqs
  | .ecc u fixed => .next (s.ecc u fixed)
  | .sendAck own n => .next (s.sendAck own n)
  | .setInterval us => .next (s.setInterval us)
  | .retrainFails l => atLink l s fun s => s.retrainFails l
  | .flitPasses l => atLink l s fun s => s.flitPasses l
  | .shardAsk p t i => atPart p s fun s => s.shardAsk p t i
  | .shardBytes p t i off bs => atPart p s fun s => s.shardBytes p t i off bs
  | .readTimeout p t i => atPart p s fun s => s.readTimeout p t i
  | .readNak p t i refused => atPart p s fun s => s.readNak p t i refused
  | .packetGap port qp => atPort port s fun s => s.packetGap port qp
  | .mailboxSeen => .next s.mailboxSeen

/-- The engines of a cluster. -/
def allEngines : List CEng := [.copy0, .copy1, .copy2, .copy3, .gs, .coll, .twu, .wsc]

/-- The replies that the parts of a context's L words wait for. -/
def ownReplies (s : State) (c : CtxLoc) : List (State → Out) :=
  let items := s.cx.litems
  (List.range items.length).flatMap fun k =>
    (List.range ((items[k]?).elim 0 fun i => i.parts.length)).flatMap fun p =>
      [execFarReply c ⟨k, p⟩ false, execNearReplyArrival c ⟨k, p⟩ 16, fun s => atCtx c s (sendL c k p)]

/-- The banks of a cluster that hold a rewrite. -/
def ownBanks (s : State) (pcl : Nat) : List Nat := ((s.cluAt pcl).rewrites.map fun r => r.n % 128).eraseDups

/-- The events that the machine's own order looks at, in this order: those of the focused context, of its cluster, and of what is
under way (log 2). -/
def ownEvents (s : State) : List (State → Out) :=
  let c := s.focus
  let es := allEngines
  [execLWordFinish c, execVWordFinish c, execMWordFinish c, execEngSubmission c, execPostPointReached c .v,
    execPostPointReached c .m, execPostPointReached c .l, execPostPointReached c .e, execVWordStart c, execMWordStart c,
    execLWordStart c false] ++
  ((List.range s.cx.litems.length).map fun k => fun s => atCtx c s (goOnL c k false)) ++ ownReplies s c ++
  ((List.range s.cx.litems.length).flatMap fun k =>
    (List.range ((s.cx.litems[k]?).elim 0 fun i => i.parts.length)).map fun p => execNearReplyDue c ⟨k, p⟩) ++
  [execStopRecordCut c 0 [], execHardwareRestore c, execSlotmaskTakesEffect c] ++
  ((ownBanks s c.pcl).flatMap fun b => [execMossRewriteEnd c.pcl b, execMossRewriteStart c.pcl b]) ++
  (es.map fun e => execEngineCommandCompletion c.pcl e) ++ (es.map fun e => execEngineChunk c.pcl e) ++
  (es.map fun e => execEngineCommandStart c.pcl e) ++
  [execWswapDecision c.pcl, execWriteApplied ⟨0, false⟩, execEventAdd 0, execGroupArrival 0, execLaunchPoolAccept 0,
    execWriteBufferDrain c.pcl 0, execExitDrainComplete c, execRecordWriteBack c, execHardwareSave c, execDispatch c.pcl]

/-- The effect of an event that is enabled: one that changes the state. -/
def enabled (s : State) (f : State → Out) : Option State :=
  match f s with
  | .next t => if t = s then none else some t
  | _ => none

/-- The machine's own next event, if one is enabled. -/
def ownEvent (s : State) : Option State := (ownEvents s).findSome? (enabled s)

/-! ### A word where the next step fetches it (log 4) -/

/-- The focused context issues, and the 24 bytes from its pc up can be fetched. -/
def fetchable (s : State) : Bool :=
  let ok := fun (va : Nat) => match translate s s.focus.pcl s.cx.part va .fetch with | .ok _ => true | .error _ => false
  s.canIssue && s.cx.pc.toNat + 24 ≤ 2 ^ 48 && ok s.cx.pc.toNat && ok (s.cx.pc.toNat + 23)

/-- No access of a context is overdue. -/
def Context.thaw (x : Context) : Context :=
  let part := fun (q : LPart) => match q.st with | .due => { q with st := .asked } | _ => q
  let f := fun (i : Item) => { i with parts := i.parts.map part }
  { x with ql := { x.ql with items := x.ql.items.map f }, lane := x.lane.map f }

/-- A partition with the focused cluster, a root table at address 0 whose one leaf maps 4 GiB for the pc, and the focused context
with a strand in it. -/
def State.placeStrand (s : State) : State :=
  let c := s.focus
  let va := s.cx.pc.toNat % (2 ^ 48 - 24)
  let p : Partition := { formed := true, clusters := BitVec.ofNat 40 (2 ^ c.pcl), root := 0,
                         pages := [va % 2 ^ 32 / 65536 + 65536, (va + 23) % 2 ^ 32 / 65536 + 65536].eraseDups }
  let s := (members c).foldl (fun s m => s.onCtx m Context.thaw) s
  let s := s.onCx fun x =>
    { x with resident := true, part := 0, pc := BitVec.ofNat 64 (va / 4 * 4), halt := none, debug := false, drain := .none, hold := .none }
  let leaf := toLE 8 (2 ^ 32 + 0x3F)
  { (s.setPart 0 p) with
    mem := storeBytes (storeBytes s.mem (8 * (va / 2 ^ 32)) leaf) (8 * ((va + 23) / 2 ^ 32)) leaf
    poison := [], tlb := [], mgr := { s.mgr with tripped := false } }

/-- Bytes at the focused context's pc, in physical memory. -/
def State.putText (s : State) (bs : List Byte) : State :=
  let va := s.cx.pc.toNat
  let s := (lines (bs.length / 64 + 2) va bs).foldl
    (fun t l => match translate s s.focus.pcl s.cx.part l.1 .fetch with
      | .ok pa => { t with mem := storeBytes t.mem pa l.2, poison := t.poison.filter (· != pa / 64) }
      | .error _ => t) s
  { s with icache := s.icache.filter fun l => !(l.line = va / 64 || l.line = (va + 23) / 64) }

end Sys2Proof.Machine
end

