-- ==== Sys2Proof/Machine/Step.lean ====
section
/-!
DEFINITION. One step of the machine, and a state whose next step runs a given word.
-/
namespace Sys2Proof.Machine

/-- One step: the next move of the schedule; where the schedule is empty, the machine's own next event, or, if none is enabled,
the issue of the focused context's next word (log 2). -/
def step (s : State) : Host.Outcome State Fault Refusal :=
  match s.agenda with
  | m :: r => runMove m { s with agenda := r }
  | [] =>
    match ownEvent s with
    | some t => .next t
    | none => issueNext s

/-- The state with a word at the place where the next step fetches it (log 4). -/
def State.withFetchWord (s : State) (nbits w : Nat) : State :=
  let s := if fetchable s then s else s.placeStrand
  { s.putText (toLE 24 (w % 2 ^ nbits)) with agenda := [.issue s.focus] }

end Sys2Proof.Machine
end

