-- ==== Sys2Proof/Safety.lean ====
section
/-!
DEFINITION. The terms of the claims: the invariant of every step, what a word leaves that completes, and the conditions on a state
under which words and events have their effects.
-/
namespace Sys2Proof.Machine

/-! ### The invariant -/

/-- The invariant that every step keeps: device memory is in its canonical form, with rising addresses and no zero byte listed
(log 8), and so are the tables of contexts, sub-cores, clusters and partitions, so that what was written there is read there. -/
def State.Inv (s : State) : Prop :=
  Memory.wf s.mem = true ∧ twf s.others {} = true ∧ twf s.subs {} = true ∧ twf s.clus {} = true ∧ twf s.parts {} = true

/-! ### What a word leaves -/

/-- A scalar word has written `rd`, unless `rd` is s0, and pc is past it; everything else is as before (R8, R91). -/
def State.wrote (s : State) (rd : Reg) (v : Word) : State := { s with cx := { s.cx.setRg rd v with pc := s.cx.pc + 4 } }

/-- The same, with flags ORed into `fpflags` (R83, R97). -/
def State.wroteFp (s : State) (rd : Reg) (v : Nat × Flags) : State :=
  { s with cx := { s.cx.setRg rd (BitVec.ofNat 64 v.1) with
      pc := s.cx.pc + 4, fpflags := s.cx.fpflags ||| v.2.setWidth 64 } }

/-- A transfer of control: only pc is changed. -/
def State.jumped (s : State) (pc : Word) : State := { s with cx := { s.cx with pc := pc } }

/-- The word completes without a result: pc is past it. -/
def State.passed (s : State) : State := s.jumped (s.cx.pc + 4)

/-- The words of a queue with one more at its tail. -/
def Queue.withWord (q : Queue) (i : Item) : Queue := { q with items := q.items ++ [i], issued := q.issued + 1 }

/-- A word that nothing holds at issue completes with this state. -/
def Completes (i : Instr) (s t : State) : Prop := Issues s i → exec i s = .next t

/-- The fault of a word at issue: cause and `etval`, with `epc` the word's address and no marked word (R344). -/
def State.faulted (s : State) (cause : BitVec 8) (tval : Word) : State := s.raise s.focus cause tval s.cx.pc none

/-- A word that nothing holds ends in a fault at issue. -/
def Faults (i : Instr) (s : State) (cause : BitVec 8) (tval : Word) : Prop := Completes i s (s.faulted cause tval)

/-- A word has entered the queue of an engine, with pc past its parcels; nothing else changes (R26, R28). -/
def State.queued (s : State) (g : Eng) (i : Instr) (parcels : Nat) (a b d : Word) (m : Mask) : State :=
  { s with cx := { s.cx.setQueue g ((s.cx.queue g).withWord (mkItem s.cx i (s.cx.queue g) a b d m)) with
      pc := s.cx.pc + BitVec.ofNat 64 (4 * parcels) } }

/-- A point has entered the queue of an engine, with pc past the word (R115). -/
def State.pointed (s : State) (g : Eng) (i : Instr) (a b : Word) : State :=
  { s with cx := { s.cx.setQueue g { s.cx.queue g with items := (s.cx.queue g).items ++ [mkItem s.cx i (s.cx.queue g) a b 0 0] } with
      pc := s.cx.pc + 4 } }

/-- A word of a handler has entered the handler lane (R349). -/
def State.inLane (s : State) (i : Instr) (a b d : Word) : State :=
  { s with cx := { s.cx with lane := s.cx.lane ++ [mkItem s.cx i s.cx.ql a b d 0], pc := s.cx.pc + 4 } }

/-- What a scalar memory word comes to at issue (R101, R349, R357): cause 0x06 in no aperture (`allowed` says which apertures the
word may name), cause 0x07 misaligned, cause 0x17 at a watched byte, and else the L queue, or in a handler the handler lane. -/
def MemoryWord (i : Instr) (s : State) (kinds n : Nat) (allowed : Place → Prop) (a b d : Word) : Prop :=
  (placeOf s.cx.wsize a = none → Faults i s 0x06 a) ∧
  ∀ p, placeOf s.cx.wsize a = some p →
    (¬ allowed p → Faults i s 0x06 a) ∧
    (allowed p → a.toNat % n ≠ 0 → Faults i s 0x07 a) ∧
    (allowed p → a.toNat % n = 0 → ∀ k, watchHit s.cx kinds p n = some k → Faults i s 0x17 (a + BitVec.ofNat 64 k)) ∧
    (allowed p → a.toNat % n = 0 → watchHit s.cx kinds p n = none →
      Completes i s (if s.cx.intrap then s.inLane i a b d else s.queued .l i 1 a b d 0))

/-- A word whose action is made at a post point, its checks passed: it enters the queue behind the words that are there; eight
points of a queue hold it (R115). -/
def QueuesPoint (i : Instr) (s : State) (g : Eng) (a b : Word) (f : State → State) : Prop :=
  (s.cx.queue g).items ≠ [] →
    ((s.cx.queue g).points < 8 → Completes i s (f (s.pointed g i a b))) ∧ (8 ≤ (s.cx.queue g).points → Completes i s s)

/-- No wait of the front end is open, so that none ends when the word completes (R359). -/
def State.unwaiting (s : State) : Prop := tfind s.cx.waits 4 = none

/-- No wait of the context that ends now is written to the wait log (R359): none is open, or the log has no room. -/
def State.logsNothing (s : State) (c : CtxLoc) : Prop :=
  (s.ctxAt c).waits = [] ∨ (s.cluAt c.pcl).waitcap ≤ (s.cluAt c.pcl).waitlog.length

/-- No wait log of the package has room, so that no end of a wait writes memory. -/
def State.logsFull (s : State) : Prop := ∀ p, (s.cluAt p).waitcap ≤ (s.cluAt p).waitlog.length

/-- Two states in which a hardware write of memory fares alike. -/
def State.sameMemory (s t : State) : Prop :=
  t.mem = s.mem ∧ t.poison = s.poison ∧ t.parts = s.parts ∧ t.tlb = s.tlb ∧ t.failing = s.failing

/-- A hardware write of `n` bytes from `va` up succeeds for a cluster and a partition (R241, R350). -/
def State.canStore (s : State) (pcl p va n : Nat) : Prop :=
  ∀ t, s.sameMemory t → ∀ obs bs, bs.length = n → (t.vstore pcl p obs va bs).2 = none

/-- No step of the M queue is unstarted, so that no declared energy is checked when the queues run again (R172). -/
def Context.noStep (x : Context) : Prop := ∀ i ∈ x.qm.items, stepOf i.ins = none

/-- No write is under way, no record waits, and the module has not tripped. -/
def State.calm (s : State) : Prop := s.transit = [] ∧ s.waiters = [] ∧ s.mgr.tripped = false

/-- Nothing that a release of the cluster depends on is left to be applied (R253). -/
def State.settled (s : State) (pcl : Nat) : Prop :=
  s.transit = [] ∧ s.adds = [] ∧ s.arrivals = [] ∧ s.launching = [] ∧ (s.cluAt pcl).wbuf = []

/-- A flit that is next in its pair's order, with no other transaction of that pair kept, held back or waiting, and room for a reply in
the replay buffer (R392, R393, R397). -/
def State.nextFlit (s : State) (f : Flit) : Prop :=
  takesFlit s f = true ∧ (s.pairAt f.dst f.src).replay = [] ∧ (s.pairAt f.dst f.src).reorder = [] ∧ f.seq = (s.pairAt f.dst f.src).applied + 1 ∧
  twf s.fabric.pairs {} = true ∧ s.transit = [] ∧ s.fabric.later = [] ∧ s.kept < 2 ^ 20

/-- The pair has counted the flit as applied, and holds nothing back. -/
def State.tookFlit (t : State) (f : Flit) : Prop := (t.pairAt f.dst f.src).applied = f.seq ∧ (t.pairAt f.dst f.src).reorder = []

/-! ### Numbers of the scalar unit, said without the machine -/

/-- Leading zero bits of a word (R93). -/
def leadingZeros (w : Word) : Nat := ((List.range 64).find? fun k => w.getMsbD k).getD 64

/-- One bits of a word (R93). -/
def oneBits (w : Word) : Nat := ((List.range 64).filter fun k => w.getLsbD k).length

/-- A word rotated left (R93). -/
def rotated (w : Word) (n : Nat) : Word := (w <<< n) ||| (w >>> (64 - n))

/-- 1 if a relation holds, else 0. -/
def flag (p : Prop) [Decidable p] : Word := if p then 1 else 0

end Sys2Proof.Machine
end

