-- ==== Sys2Proof/Certificates/Slice0/Obligations.lean ====
section
/-!
DEFINITION. The statements for the provers. Each says which rule of spec/ it comes from; a clause that rests on a choice of the
model names its log entry.
-/
open Sys2Proof Sys2Proof.Machine

/-! ### Scalar words -/

/-- R93: the register forms of the integer unit. rd receives the value, pc goes past the word, and nothing else changes: no flag,
no trap. Bits [63:6] of a shift amount are ignored. -/
def Obligations.IntegerRegisterWords : Prop :=
  ∀ (s : State) (rd rs1 rs2 : Reg), let a := s.cx.rg rs1; let b := s.cx.rg rs2
    Completes (.add rd rs1 rs2) s (s.wrote rd (a + b)) ∧
    Completes (.sub rd rs1 rs2) s (s.wrote rd (a - b)) ∧
    Completes (.and rd rs1 rs2) s (s.wrote rd (a &&& b)) ∧
    Completes (.or rd rs1 rs2) s (s.wrote rd (a ||| b)) ∧
    Completes (.xor rd rs1 rs2) s (s.wrote rd (a ^^^ b)) ∧
    Completes (.shl rd rs1 rs2) s (s.wrote rd (a <<< (b.toNat % 64))) ∧
    Completes (.shr rd rs1 rs2) s (s.wrote rd (a >>> (b.toNat % 64))) ∧
    Completes (.sar rd rs1 rs2) s (s.wrote rd (a.sshiftRight (b.toNat % 64))) ∧
    Completes (.rol rd rs1 rs2) s (s.wrote rd (rotated a (b.toNat % 64))) ∧
    Completes (.slt rd rs1 rs2) s (s.wrote rd (flag (a.toInt < b.toInt))) ∧
    Completes (.sltu rd rs1 rs2) s (s.wrote rd (flag (a.toNat < b.toNat))) ∧
    Completes (.min rd rs1 rs2) s (s.wrote rd (if a.toInt ≤ b.toInt then a else b)) ∧
    Completes (.max rd rs1 rs2) s (s.wrote rd (if b.toInt ≤ a.toInt then a else b)) ∧
    Completes (.minu rd rs1 rs2) s (s.wrote rd (if a.toNat ≤ b.toNat then a else b)) ∧
    Completes (.maxu rd rs1 rs2) s (s.wrote rd (if b.toNat ≤ a.toNat then a else b)) ∧
    Completes (.clz rd rs1) s (s.wrote rd (BitVec.ofNat 64 (leadingZeros a))) ∧
    Completes (.popc rd rs1) s (s.wrote rd (BitVec.ofNat 64 (oneBits a))) ∧
    Completes (.andn rd rs1 rs2) s (s.wrote rd (a &&& ~~~b))

/-- R94: the immediate forms are the register forms with the sign-extended immediate, or with the amount. -/
def Obligations.ImmediateWords : Prop :=
  ∀ (s : State) (rd rs1 : Reg) (i : BitVec 14) (n : BitVec 6), let a := s.cx.rg rs1; let b : Word := BitVec.ofInt 64 i.toInt
    Completes (.addi rd rs1 i) s (s.wrote rd (a + b)) ∧
    Completes (.andi rd rs1 i) s (s.wrote rd (a &&& b)) ∧
    Completes (.ori rd rs1 i) s (s.wrote rd (a ||| b)) ∧
    Completes (.xori rd rs1 i) s (s.wrote rd (a ^^^ b)) ∧
    Completes (.slti rd rs1 i) s (s.wrote rd (flag (a.toInt < b.toInt))) ∧
    Completes (.sltui rd rs1 i) s (s.wrote rd (flag (a.toNat < b.toNat))) ∧
    Completes (.shli rd rs1 n) s (s.wrote rd (a <<< n.toNat)) ∧
    Completes (.shri rd rs1 n) s (s.wrote rd (a >>> n.toNat)) ∧
    Completes (.sari rd rs1 n) s (s.wrote rd (a.sshiftRight n.toNat)) ∧
    Completes (.roli rd rs1 n) s (s.wrote rd (rotated a n.toNat)) ∧
    (∀ p : Parcel, p.extractLsb' 2 6 = 7 → p.extractLsb' 26 6 ≠ 0 → ∃ e, decode [p] = .error e ∧ e.cause = 0x01)

/-- R95: LUI writes imm19 placed at [31:13] and sign-extended from bit 31; ADDPC adds the word's own address. -/
def Obligations.UpperImmediateWords : Prop :=
  ∀ (s : State) (rd : Reg) (i : BitVec 19), let v : Word := BitVec.ofInt 64 (i.toInt * 2 ^ 13)
    Completes (.lui rd i) s (s.wrote rd v) ∧ Completes (.addpc rd i) s (s.wrote rd (s.cx.pc + v))

/-- R96: products, quotients and remainders, with the results for divisor 0 and for −2⁶³ by −1; for every other pair the quotient
and the remainder give the dividend back. -/
def Obligations.MultiplyDivideWords : Prop :=
  ∀ (s : State) (rd rs1 rs2 : Reg), let a := s.cx.rg rs1; let b := s.cx.rg rs2
    let q : Word := if b = 0 then BitVec.allOnes 64 else a.sdiv b
    let r : Word := if b = 0 then a else a.srem b
    Completes (.mul rd rs1 rs2) s (s.wrote rd (BitVec.ofInt 64 (a.toInt * b.toInt))) ∧
    Completes (.mulh rd rs1 rs2) s (s.wrote rd ((a.signExtend 128 * b.signExtend 128).extractLsb' 64 64)) ∧
    Completes (.mulhu rd rs1 rs2) s (s.wrote rd ((a.setWidth 128 * b.setWidth 128).extractLsb' 64 64)) ∧
    Completes (.div rd rs1 rs2) s (s.wrote rd q) ∧
    Completes (.divu rd rs1 rs2) s (s.wrote rd (if b = 0 then BitVec.allOnes 64 else a / b)) ∧
    Completes (.rem rd rs1 rs2) s (s.wrote rd r) ∧
    Completes (.remu rd rs1 rs2) s (s.wrote rd (if b = 0 then a else a % b)) ∧
    (b = -1 → a = BitVec.intMin 64 → q = a ∧ r = 0) ∧
    (b ≠ 0 → ¬(a = BitVec.intMin 64 ∧ b = -1) → a.toInt = q.toInt * b.toInt + r.toInt)

/-- R97: the scalar floating-point words round under `fpctl.rm`, write rd[31:0] with zeros above, and OR their flags into `fpflags`.
A NaN operand of a comparison gives 0 with `ni`; −0 equals +0; +∞ times 0 gives the generated NaN of cause 4 with `nv`, or of cause 1
where the addend is a NaN (the rule's example). -/
def Obligations.ScalarFloatWords : Prop :=
  ∀ (s : State) (rd rs1 rs2 : Reg), let m := rmOf s.cx.fpctl
    let a := (s.cx.rg rs1).toNat % 2 ^ 32; let b := (s.cx.rg rs2).toNat % 2 ^ 32; let d := (s.cx.rg rd).toNat % 2 ^ 32
    let order := fpCmp .fp32 a b
    let cmp := fun (rel : Bool × Bool → Bool) => match order with
      | none => ((0, fNI) : Nat × Flags)
      | some r => (b2n (rel r), 0)
    Completes (.fadd rd rs1 rs2) s (s.wroteFp rd (fpAdd .fp32 m false a b)) ∧
    Completes (.fsub rd rs1 rs2) s (s.wroteFp rd (fpSub .fp32 m false a b)) ∧
    Completes (.fmul rd rs1 rs2) s (s.wroteFp rd (fpMul .fp32 m false a b)) ∧
    Completes (.ffma rd rs1 rs2) s (s.wroteFp rd (fpFma .fp32 m false false a b d)) ∧
    Completes (.fmin rd rs1 rs2) s (s.wroteFp rd (fpMinMax .fp32 false a b)) ∧
    Completes (.fmax rd rs1 rs2) s (s.wroteFp rd (fpMinMax .fp32 true a b)) ∧
    Completes (.fcvtif rd rs1) s (s.wroteFp rd (intToFp .fp32 m false (s.cx.rg rs1).toInt)) ∧
    Completes (.fcvtfi rd rs1) s (s.wroteFp rd (fpToInt .fp32 .i64 .rtz a)) ∧
    Completes (.fcmpeq rd rs1 rs2) s (s.wroteFp rd (cmp fun r => r.1)) ∧
    Completes (.fcmplt rd rs1 rs2) s (s.wroteFp rd (cmp fun r => r.2)) ∧
    Completes (.fcmple rd rs1 rs2) s (s.wroteFp rd (cmp fun r => r.1 || r.2)) ∧
    (a % 2 ^ 31 = 0 → b % 2 ^ 31 = 0 → order = some (true, false)) ∧
    (a = 0x7F800000 → b = 0 → d % 2 ^ 31 ≤ 0x7F800000 → (fpFma .fp32 m false false a b d).1 = 0x7FC00004 ∧ (fpFma .fp32 m false false a b d).2 = fNV) ∧
    (a = 0x7F800000 → b = 0 → 0x7F800000 < d % 2 ^ 31 → (fpFma .fp32 m false false a b d).1 = 0x7FC00001)

/-- R98: a branch adds the sign-extended offset in words to pc when its relation holds, and else goes to the next word; nothing else
changes. -/
def Obligations.BranchWords : Prop :=
  ∀ (s : State) (rs1 rs2 : Reg) (off : BitVec 14), let a := s.cx.rg rs1; let b := s.cx.rg rs2
    let to_ := fun (p : Prop) [Decidable p] => s.jumped (if p then s.cx.pc + BitVec.ofInt 64 (off.toInt * 4) else s.cx.pc + 4)
    Completes (.beq rs1 rs2 off) s (to_ (a = b)) ∧
    Completes (.bne rs1 rs2 off) s (to_ (a ≠ b)) ∧
    Completes (.blt rs1 rs2 off) s (to_ (a.toInt < b.toInt)) ∧
    Completes (.bge rs1 rs2 off) s (to_ (b.toInt ≤ a.toInt)) ∧
    Completes (.bltu rs1 rs2 off) s (to_ (a.toNat < b.toNat)) ∧
    Completes (.bgeu rs1 rs2 off) s (to_ (b.toNat ≤ a.toNat))

/-- R99: JAL and JALR link and jump; JALR takes its target from rs1 as it was before the word, and a target that is no multiple of 4
is the fault of cause 0x07 with that target, rd and pc as they were. -/
def Obligations.JumpWords : Prop :=
  ∀ (s : State) (rd rs1 : Reg) (off : BitVec 19) (imm : BitVec 14), let a := s.cx.rg rs1 + BitVec.ofInt 64 imm.toInt
    Completes (.jal rd off) s ((s.wrote rd (s.cx.pc + 4)).jumped (s.cx.pc + BitVec.ofInt 64 (off.toInt * 4))) ∧
    (a.toNat % 4 = 0 → Completes (.jalr rd rs1 imm) s ((s.wrote rd (s.cx.pc + 4)).jumped a)) ∧
    (a.toNat % 4 ≠ 0 → Completes (.jalr rd rs1 imm) s (s.raise s.focus 0x07 a s.cx.pc none))

/-- R111, R112: CVTA converts a valid address and writes it; an invalid one is cause 0x06 with the address. SPCHK writes whether
the address is a valid generic address of the aperture, and never faults. -/
def Obligations.AddressConversionWords : Prop :=
  ∀ (s : State) (rd rs1 : Reg), let a := s.cx.rg rs1; let lim := s.cx.wsize * 256
    let goes := fun (i : Instr) (ok : Prop) [Decidable ok] (v : Word) =>
      Completes i s (if ok then s.wrote rd v else s.raise s.focus 0x06 a s.cx.pc none)
    let dev := a.toNat < 2 ^ 48
    let rem := a.toNat / 2 ^ 60 = 1
    let moss := a.toNat / 2 ^ 26 = 0xFFFD * 2 ^ 22
    let win := a.toNat / 2 ^ 48 = 0xFFFE ∧ a.toNat % 2 ^ 48 < lim
    goes (.cvta false .dev rd rs1) dev a ∧
    goes (.cvta true .dev rd rs1) dev a ∧
    goes (.cvta false .remote rd rs1) rem (BitVec.ofNat 64 (a.toNat % 2 ^ 60)) ∧
    goes (.cvta true .remote rd rs1) (a.toNat < 2 ^ 60) (BitVec.ofNat 64 (2 ^ 60 + a.toNat)) ∧
    goes (.cvta false .moss rd rs1) moss (BitVec.ofNat 64 (a.toNat % 2 ^ 26)) ∧
    goes (.cvta true .moss rd rs1) (a.toNat < 2 ^ 26) (BitVec.ofNat 64 (0xFFFD * 2 ^ 48 + a.toNat)) ∧
    goes (.cvta false .win rd rs1) win (BitVec.ofNat 64 (a.toNat % 2 ^ 48)) ∧
    goes (.cvta true .win rd rs1) (a.toNat < lim) (BitVec.ofNat 64 (0xFFFE * 2 ^ 48 + a.toNat)) ∧
    Completes (.spchk .dev rd rs1) s (s.wrote rd (flag dev)) ∧
    Completes (.spchk .remote rd rs1) s (s.wrote rd (flag rem)) ∧
    Completes (.spchk .moss rd rs1) s (s.wrote rd (flag moss)) ∧
    Completes (.spchk .win rd rs1) s (s.wrote rd (flag win))

/-! ### Memory words, atomics, points -/

/-- R101, R107: LD, ST, LDA and STL at issue: their addresses, the checks in their order, and the captured data of a store. -/
def Obligations.LoadStoreWords : Prop :=
  ∀ (s : State) (wd : Width) (sc : Scope) (rd rs1 rs2 : Reg) (imm : BitVec 11),
    let a := s.cx.rg rs1; let o := a + BitVec.ofInt 64 imm.toInt; let n := widthBytes wd; let any := fun _ : Place => True
    MemoryWord (.ld wd rd rs1 imm) s 1 n any o 0 0 ∧
    MemoryWord (.st wd rs2 rs1 imm) s 2 n any o (s.cx.rg rs2) 0 ∧
    MemoryWord (.lda wd sc rd rs1) s 1 n any a 0 0 ∧
    MemoryWord (.stl wd sc rs2 rs1) s 2 n any a (s.cx.rg rs2) 0

/-- R108, R109: the atomics at issue: no atomic on the register window; the operand, and for CAS the comparand, as they were. -/
def Obligations.AtomicWords : Prop :=
  ∀ (s : State) (w : Bool) (sc : Scope) (q : Bool) (rd rs1 rs2 : Reg),
    let a := s.cx.rg rs1; let b := s.cx.rg rs2; let n := if w then 4 else 8
    let noWin := fun p : Place => ∀ o, p ≠ .win o
    MemoryWord (.amoSwap w sc q rd rs1 rs2) s 3 n noWin a b 0 ∧
    MemoryWord (.amoAdd w sc q rd rs1 rs2) s 3 n noWin a b 0 ∧
    MemoryWord (.amoAnd w sc q rd rs1 rs2) s 3 n noWin a b 0 ∧
    MemoryWord (.amoOr w sc q rd rs1 rs2) s 3 n noWin a b 0 ∧
    MemoryWord (.amoXor w sc q rd rs1 rs2) s 3 n noWin a b 0 ∧
    MemoryWord (.amoMin w sc q rd rs1 rs2) s 3 n noWin a b 0 ∧
    MemoryWord (.amoMax w sc q rd rs1 rs2) s 3 n noWin a b 0 ∧
    MemoryWord (.amoMinu w sc q rd rs1 rs2) s 3 n noWin a b 0 ∧
    MemoryWord (.amoMaxu w sc q rd rs1 rs2) s 3 n noWin a b 0 ∧
    MemoryWord (.amoFadd sc q rd rs1 rs2) s 3 4 noWin a b 0 ∧
    MemoryWord (.cas w sc q rd rs1 rs2) s 3 n noWin a b (s.cx.rg rd)

/-- R115, R110, R203, R207, R211, R233: a word whose action is made at a post point enters the queue behind the words that are there, and
goes past; a ninth point is held, and nothing changes. The checks of each word stand as its conditions. R115, R203, R211, R212, R234 to
R238: where no word is ahead in the L queue, the same words make their action in their issue cycle. BAR and BARARR send the arrival to the
group's entry, and BAR holds the next word; a LAUNCH whose record is readable, or only poisoned, sends its request to the pool, and one
whose record is not is a fault with the word marked; MCLASS allocates, with status 0, or refuses with status 1 a row group that is not FREE
and with status 2 where the table has no free entry; MFREE frees, or refuses an engine-owned row group with status 1 (log 17); MREFRESH
queues a rewrite of each valid row group, and gives 0 where there is none; MAGE and MQUERY give their word. -/
def Obligations.PointWords : Prop :=
  (∀ (s : State) (snd rcv : Eng) (kinds : BitVec 4) (sc : Scope) (rd rs1 rs2 : Reg) (k : BitVec 2) (cls : BitVec 3),
    let a := s.cx.rg rs1; let b := s.cx.rg rs2
    let isDev := ∃ va, placeOf s.cx.wsize a = some (.dev va)
    let member := ∃ v, groupView s k = .ok v
    (snd ≠ rcv → QueuesPoint (.tokpost snd rcv) s snd 0 0 id) ∧
    (s.cx.intrap = false → QueuesPoint (.fence kinds sc) s .l 0 0 id) ∧
    (eventBad s s.cx.part s.focus.pcl a.toNat = none → QueuesPoint (.evadd sc rs1 rs2) s .l a b id) ∧
    (eventBad s s.cx.part s.focus.pcl a.toNat = none → QueuesPoint (.evset rs1 rs2) s .l a b id) ∧
    (member → QueuesPoint (.bar k) s .l 0 0
      (fun s => s.onCx fun x => { x with hold := .arriving }.waitMark 4 wGroup (BitVec.ofNat 64 (getAt x.grp (8 * k.toNat) 8)))) ∧
    (member → QueuesPoint (.bararr rd k) s .l 0 0 id) ∧
    (isDev → a.toNat % 128 = 0 → QueuesPoint (.launch rd rs1) s .l a 0 id) ∧
    (isDev → a.toNat % 128 = 0 → QueuesPoint (.launchBlock rd rs1) s .l a 0 (fun s => s.onCx Context.poolHeld)) ∧
    (mossCheck a b true = none → mclassCheck s cls b = none → QueuesPoint (.mclass cls rd rs1 rs2) s .l a b id) ∧
    (mossCheck a b true = none → b.toNat < 2 ^ 16 → QueuesPoint (.mfree rd rs1 rs2) s .l a b id) ∧
    (mossCheck a b true = none → b.toNat < 2 ^ 16 → QueuesPoint (.mrefresh rd rs1 rs2) s .l a b id) ∧
    (mossCheck a 0 false = none → QueuesPoint (.mage rd rs1) s .l a 0 id) ∧
    (mossCheck a b false = none → b.toNat < 2 → QueuesPoint (.mquery rd rs1 rs2) s .l a b id)) ∧
  (∀ (s : State) (rd rs1 rs2 : Reg) (k : BitVec 2) (cls : BitVec 3), let x := s.cx; let c := s.focus; let a := x.rg rs1; let b := x.rg rs2
    let cl := s.cluAt c.pcl; let g := getAt x.grp (8 * k.toNat) 8; let n0 := mossN a
    let run := fun m : Nat => (List.range m).map (n0 + ·)
    let free := fun m : Nat => ∀ n ∈ run m, (cl.rg n).owner = false
    let past := fun (t : State) (rs : List Nat) =>
      t.cx.pc = x.pc + 4 ∧ t.cx.ql.items = [] ∧ t.cx.regs = x.regs ∧ t.cx.replies = x.replies ++ rs ∧ t.mem = s.mem
    s.Inv → twf cl.rgs {} = true → x.ql.items = [] → x.parked = false → tfind x.waits 2 = none →
    (∀ v l pa, groupView s k = .ok v → s.launchOf x = some l → groupEntry s c.pcl x.part l g = .ok pa →
      (Issues s (.bararr rd k) → ∃ t st, exec (.bararr rd k) s = .next t ∧ past t [rd.toNat] ∧ t.cx.hold = x.hold ∧
        t.arrivals = s.arrivals ++ [⟨x.part, pa, g, x.launchid.toNat, false, c, x.serial, some rd, false, st⟩]) ∧
      (Issues s (.bar k) → ∃ t st, exec (.bar k) s = .next t ∧ past t [] ∧ t.cx.hold = .arriving ∧
        t.arrivals = s.arrivals ++ [⟨x.part, pa, g, x.launchid.toNat, false, c, x.serial, none, true, st⟩])) ∧
    ((∃ va, placeOf x.wsize a = some (.dev va)) → a.toNat % 128 = 0 →
      ((∀ e, vbytes s c.pcl x.part a.toNat 128 = .error e → e.1 = 0x0D) →
        (Issues s (.launch rd rs1) → ∃ t st, exec (.launch rd rs1) s = .next t ∧ past t [rd.toNat] ∧ t.cx.hold = x.hold ∧
          t.launching = s.launching ++ [⟨c, x.serial, x.part, rd, a, false, x.pc, st, x.depth, false⟩]) ∧
        (Issues s (.launchBlock rd rs1) → ∃ t st, exec (.launchBlock rd rs1) s = .next t ∧ past t [rd.toNat] ∧ t.cx.hold = .pool ∧
          t.launching = s.launching ++ [⟨c, x.serial, x.part, rd, a, true, x.pc, st, x.depth, false⟩])) ∧
      (∀ e, vbytes s c.pcl x.part a.toNat 128 = .error e → e.1 ≠ 0x0D →
        let u := (s.pointed .l (.launch rd rs1) a 0).onCx fun y => { y with ql := { y.ql with items := y.ql.items.map fun j => { j with phase := .parked 0 } } }
        Completes (.launch rd rs1) s ((if e.1 = 0x08 then u.noteWalk c.pcl x.part e.2 else u).raise c e.1 (BitVec.ofNat 64 e.2) x.pc
          (some (.l, x.ql.issued, x.pc))))) ∧
    (mossCheck a b true = none →
      (mclassCheck s cls b = none → free (mossC b) →
        ((∃ n ∈ run (mossC b), (cl.rg n).cls ≠ 0) → Completes (.mclass cls rd rs1 rs2) s (s.wrote rd 1)) ∧
        ((∀ n ∈ run (mossC b), (cl.rg n).cls = 0) → tfree cl.alloc 1 4095 = none → Completes (.mclass cls rd rs1 rs2) s (s.wrote rd 2)) ∧
        ((∀ n ∈ run (mossC b), (cl.rg n).cls = 0) → ∀ e, tfree cl.alloc 1 4095 = some e → Issues s (.mclass cls rd rs1 rs2) →
          ∃ t, exec (.mclass cls rd rs1 rs2) s = .next t ∧ t.cx = (s.wrote rd 0).cx ∧ t.mem = s.mem ∧
            ∀ n ∈ run (mossC b), let r := (t.cluAt c.pcl).rg n
              r.cls = cls ∧ r.valid = false ∧ r.age = 0 ∧ r.alloc = BitVec.ofNat 12 e)) ∧
      (b.toNat < 2 ^ 16 → storing s c.pcl n0 (mossC b) = false →
        (¬ free (mossC b) → Completes (.mfree rd rs1 rs2) s (s.wrote rd 1)) ∧
        (free (mossC b) → Issues s (.mfree rd rs1 rs2) → ∃ t, exec (.mfree rd rs1 rs2) s = .next t ∧ t.cx = (s.wrote rd 0).cx ∧
          t.mem = s.mem ∧ ∀ n ∈ run (mossC b), ((t.cluAt c.pcl).rg n).cls = 0)) ∧
      (b.toNat < 2 ^ 16 → free (mossC b) → let ns := (run (mossC b)).filter fun n => (cl.rg n).valid && (cl.rg n).cls != 0
        (ns = [] → Completes (.mrefresh rd rs1 rs2) s (s.wrote rd 0)) ∧
        (ns ≠ [] → Issues s (.mrefresh rd rs1 rs2) → ∃ t j, exec (.mrefresh rd rs1 rs2) s = .next t ∧ t.cx.ql.items = [j] ∧
          j.left = ns.length ∧ t.cx.pc = x.pc + 4 ∧ t.cx.regs = x.regs ∧ t.mem = s.mem ∧
          (t.cluAt c.pcl).rewrites = cl.rewrites ++ ns.map fun n => ({ n := n, who := some c } : Rewrite)))) ∧
    (mossCheck a b false = none → (cl.rg n0).owner = false →
      Completes (.mage rd rs1) s (s.wrote rd (mageWord cl n0)) ∧
      (b = 0 → Completes (.mquery rd rs1 rs2) s (s.wrote rd (rgWord (cl.rg n0) x.rdinv))) ∧
      (b = 1 → Completes (.mquery rd rs1 rs2) s
        { s with cx := { x.setRg rd (rgWord (cl.rg n0) x.rdinv) with pc := x.pc + 4, rdinv := false } })))

/-- R110, R256, R258, R349: a fence at sub-core, core or cluster scope that finds the L queue empty, or in a handler the handler lane, only
goes past; at die scope and wider the writes that the context has observed and that had not drained have drained, and no byte of device
memory has changed yet. In a handler whose lane has words it is held, and nothing changes. R114, R115, R278: with no word in the sending
engine's queue, TOKPOST pushes its token in its issue cycle, and TOKTAKE takes the oldest token of its queue; an empty queue holds TOKTAKE
where it is, and its wait is noted. An error mark is the fault of the word that takes it. -/
def Obligations.FenceAndTokenWords : Prop :=
  (∀ (s : State) (kinds : BitVec 4) (sc : Scope), let x := s.cx
    let acts := (x.intrap = true ∧ x.lane = []) ∨ (x.intrap = false ∧ x.ql.items = [] ∧ x.parked = false)
    (x.intrap = true → x.lane ≠ [] → Completes (.fence kinds sc) s s) ∧
    (acts → sc = .subcore ∨ sc = .core ∨ sc = .cluster → Completes (.fence kinds sc) s s.passed) ∧
    (acts → sc = .die ∨ sc = .device ∨ sc = .system → Issues s (.fence kinds sc) →
      ∃ t, exec (.fence kinds sc) s = .next t ∧ t.cx.pc = x.pc + 4 ∧ t.cx.ql.items = x.ql.items ∧ t.cx.lane = x.lane ∧
        t.mem = s.mem ∧ ∀ b ∈ (t.cluAt s.focus.pcl).wbuf, b.stamp = none → s.focus ∉ b.seenBy)) ∧
  (∀ (s : State) (snd rcv : Eng), snd ≠ rcv → let n := tq snd rcv; let q := tget s.cx.toks n {}
    let taken := fun (r : List (Option Mark)) =>
      { s with cx := { s.cx with toks := tset s.cx.toks n { q with toks := r, pops := q.pops + 1 } {} } }
    ((s.cx.queue snd).items = [] → s.cx.parked = false → q.toks.length < 8 →
      Completes (.tokpost snd rcv) s { s with cx := { s.cx with
        pc := s.cx.pc + 4, toks := tset s.cx.toks n { q with toks := q.toks ++ [none], pushes := q.pushes + 1 } {} } }) ∧
    (∀ r, q.toks = none :: r → s.unwaiting → Completes (.toktake snd rcv) s (taken r).passed) ∧
    (∀ r, q.toks = none :: r → Issues s (.toktake snd rcv) → ∃ t, exec (.toktake snd rcv) s = .next t ∧ t.cx.pc = s.cx.pc + 4 ∧
      t.cx.toks = tset s.cx.toks n { q with toks := r, pops := q.pops + 1 } {} ∧ t.cx.regs = s.cx.regs) ∧
    (∀ m r, q.toks = some m :: r → s.unwaiting → Completes (.toktake snd rcv) s ((taken r).faulted m.cause m.tval)) ∧
    (q.toks = [] → Completes (.toktake snd rcv) s { s with cx := s.cx.waitMark 4 wTok (queueId s.focus.ctx n) }))

/-! ### Special registers and system words -/

/-- R113, R9: MFS checks the number (cause 0x02) and then the privilege (cause 0x03, numbers from 0x100 up), and writes the register
into rd. -/
def Obligations.SpecialRegisterReads : Prop :=
  ∀ (s : State) (n : BitVec 12) (rd : Reg), let x := s.cx; let cl := s.cluAt s.focus.pcl
    let plain : List (BitVec 12 × Word) :=
      [(0x000, fullStat x.stat s.focus.ctx), (0x001, x.estat), (0x002, x.epc), (0x003, x.ecause), (0x004, x.etval), (0x005, x.tvec),
       (0x006, x.escratch), (0x010, x.strandid.setWidth 64), (0x011, x.launchid.setWidth 64), (0x012, ctxloc s.focus),
       (0x013, x.grp.setWidth 64), (0x019, x.freezecyc), (0x020, x.vshape), (0x021, x.fpctl), (0x022, x.fpflags),
       (0x030, tget x.tviews 0 0), (0x03F, tget x.tviews 15 0), (0x040, tget x.aviews 0 0), (0x047, tget x.aviews 7 0),
       (0x051, x.slots.setWidth 64), (0x060, b2w x.preq), (0x061, x.pdeadline.setWidth 64), (0x062, x.yieldtab), (0x063, x.savearea),
       (0x080, tget x.rings 0 0), (0x083, tget x.rings 3 0), (0x0A0, x.dbgctl.setWidth 64), (0x100, x.eissue), (0x101, x.emark),
       (0x111, x.evspin.setWidth 64), (0x141, cl.leaveslot), (0x142, cl.droopctl), (0x170, cl.monsnap)]
    (assignedReg n.toNat = false → Faults (.mfs n rd) s 0x02 (n.setWidth 64)) ∧
    (assignedReg n.toNat = true → 0x100 ≤ n.toNat → x.sup = false → Faults (.mfs n rd) s 0x03 (n.setWidth 64)) ∧
    (∀ e ∈ plain, e.1.toNat < 0x100 ∨ x.sup = true → Completes (.mfs e.1 rd) s (s.wrote rd e.2)) ∧
    (assignedReg n.toNat = true → n.toNat < 0x100 ∨ x.sup = true → n ≠ 0x018 → n ≠ 0x01A → n ≠ 0x070 →
      Completes (.mfs n rd) s (s.wrote rd (readReg s n.toNat))) ∧
    (Issues s (.mfs 0x018 rd) → ∃ w, exec (.mfs 0x018 rd) s = .next ({ s with cx := { x with cycles := w }, free := s.free + 1 }.wrote rd w)) ∧
    (Issues s (.mfs 0x01A rd) → ∃ w, exec (.mfs 0x01A rd) s = .next ({ s with cx := { x with waitcyc := w }, free := s.free + 1 }.wrote rd w)) ∧
    (Issues s (.mfs 0x070 rd) → ∃ w, exec (.mfs 0x070 rd) s = .next ({ s with free := s.free + 1 }.wrote rd w)) ∧
    (assignedReg n.toNat = true → n.toNat < 0x100 ∨ x.sup = true → Issues s (.mfs n rd) →
      ∃ t w, exec (.mfs n rd) s = .next t ∧ t.cx.pc = x.pc + 4 ∧ t.cx.regs = (x.setRg rd w).regs ∧ t.mem = s.mem)

/-- R113, R9: MTS to a register without a row of its own: the number, then the privilege (cause 0x03 where the register has no
writable field for it), then the writable fields; every other bit keeps its value. -/
def Obligations.SpecialRegisterWrites : Prop :=
  ∀ (s : State) (n : BitVec 12) (rs1 : Reg), let x := s.cx; let v := x.rg rs1
    let user : List (BitVec 12 × Context) :=
      [(0x020, { x with vshape := v &&& 0xFFF }), (0x021, { x with fpctl := v &&& 3 }),
       (0x030, { x with tviews := tset x.tviews 0 (v &&& 0x3FFFFFFFF) 0 }), (0x047, { x with aviews := tset x.aviews 7 (v &&& 0x1FF) 0 })]
    let sup : List (BitVec 12 × Context) :=
      [(0x000, { x with stat := (x.stat &&& ~~~(0x70F : Word)) ||| (v &&& 0x70F) }), (0x001, { x with estat := v }),
       (0x002, { x with epc := v &&& ~~~(3 : Word) }), (0x003, { x with ecause := v &&& 0xFF }), (0x004, { x with etval := v }),
       (0x005, { x with tvec := v &&& ~~~(3 : Word) }), (0x006, { x with escratch := v }),
       (0x014, { x with stat := (x.stat &&& ~~~(0x700 : Word)) ||| ((v &&& 7) <<< 8) }), (0x061, { x with pdeadline := v.setWidth 32 }),
       (0x062, { x with yieldtab := v &&& ~~~(0x3F : Word) }), (0x063, { x with savearea := v &&& 0xFFFFFFFFFF00 }),
       (0x0A0, { x with dbgctl := v.setWidth 3 })]
    (assignedReg n.toNat = false → Faults (.mts n rs1) s 0x02 (n.setWidth 64)) ∧
    (∀ e ∈ user, Completes (.mts e.1 rs1) s { s with cx := { e.2 with pc := x.pc + 4 } }) ∧
    (∀ e ∈ sup, x.sup = true → Completes (.mts e.1 rs1) s { s with cx := { e.2 with pc := x.pc + 4 } }) ∧
    (∀ e ∈ sup, x.sup = false → Faults (.mts e.1 rs1) s 0x03 (e.1.setWidth 64)) ∧
    (x.sup = true → (s.partAt x.part).expert = true →
      Completes (.mts 0x111 rs1) s { s with cx := { x with evspin := v.setWidth 32, pc := x.pc + 4 } }) ∧
    (x.sup = true → (s.partAt x.part).expert = false → Faults (.mts 0x111 rs1) s 0x03 0x111) ∧
    (assignedReg n.toNat = true → Machine.mayWrite s n.toNat = true → ¬(0x0A1 ≤ n.toNat ∧ n.toNat ≤ 0x0A4 ∧ bitsOf v 60 2 = 3) → Issues s (.mts n rs1) →
      ∃ t, exec (.mts n rs1) s = .next t ∧ t.cx.pc = x.pc + 4 ∧ t.cx.regs = x.regs ∧ t.mem = s.mem) ∧
    (∀ r ∈ [(0x050 : BitVec 12), 0x010, 0x018, 0x080, 0x100, 0x130], Faults (.mts r rs1) s 0x03 (r.setWidth 64))

/-- R13, R82, R195, R222, R293, R294, R301, R363, R364, R365, R423, R425: MTS to the registers with a row of their own. Each needs its
privilege (R9), refuses the values that its rule refuses, and changes its own register and pc alone. That a second write of `slotmask`
while a written mask still waits for its frame is checked against the mask in force, and replaces the one that waits, is the model's choice
(log 41, DESIGN CHOICE). -/
def Obligations.OwnRowRegisterWrites : Prop :=
  ∀ (s : State) (rs1 : Reg) (k : BitVec 4) (b : BitVec 3), let x := s.cx; let v := x.rg rs1; let c := s.focus; let cl := s.cluAt c.pcl
    let field := fun (lo n : Nat) => v.toNat / 2 ^ lo % 2 ^ n
    let m : BitVec 8 := v.setWidth 8
    let p := s.partAt x.part; let u := s.subAt c.pcl c.sub
    let expert := x.sup = true ∧ p.expert = true
    let withClu := fun (y : Cluster) => (s.setClu c.pcl y).passed
    Completes (.mtsFpflags rs1) s { s with cx := { x with fpflags := v &&& 0xFDFF, pc := x.pc + 4 } } ∧
    (x.sup = false → m ≠ 0 ∧ m &&& ~~~x.slots = 0 → Completes (.mtsSlotmask rs1) s { s with cx := { x with slotsNext := some m, pc := x.pc + 4 } }) ∧
    (x.sup = false → ¬(m ≠ 0 ∧ m &&& ~~~x.slots = 0) → Faults (.mtsSlotmask rs1) s 0x03 0x051) ∧
    (x.sup = true → m ≠ 0 ∧ m &&& otherSlots s = 0 → Completes (.mtsSlotmask rs1) s { s with cx := { x with slotsNext := some m, pc := x.pc + 4 } }) ∧
    (x.sup = true → ¬(m ≠ 0 ∧ m &&& otherSlots s = 0) → Faults (.mtsSlotmask rs1) s 0x18 v) ∧
    (x.sup = true → Completes (.mtsPreq rs1) s { s with cx := { x with
      preq := v.getLsbD 0, counting := v.getLsbD 0 && (if x.preq then x.counting else x.ystate != 1), pc := x.pc + 4 } }) ∧
    (x.sup = true → field 48 8 ≤ 0x0B →
      Completes (.mtsMon k rs1) s (withClu { cl with mons := tset cl.mons k.toNat { cfg := v &&& 0x00FF0FFFFFFFFF01 } {} })) ∧
    (x.sup = true → 0x0B < field 48 8 → Faults (.mtsMon k rs1) s 0x18 v) ∧
    (x.sup = true → bitOf cl.monsnap 0 = false → Completes (.mtsMonsnap rs1) s (withClu { cl with
      monsnap := (v &&& ~~~(0xFF : Word)) ||| 1,
      snap := ((List.range 16).filter fun j => v.getLsbD (48 + j)).map fun j => (j, tget cl.mons j {}) })) ∧
    (x.sup = true → bitOf cl.monsnap 0 = true → Faults (.mtsMonsnap rs1) s 0x18 v) ∧
    (x.sup = true → field 0 16 = 0x03FF → Completes (.mtsPwrevt rs1) s (s.setPart x.part { p with pwrevt := 0x03FF }).passed) ∧
    (x.sup = true → field 0 16 ≠ 0x03FF → eventBad s x.part c.pcl (field 0 16) = none → Completes (.mtsPwrevt rs1) s
      (s.setPart x.part { p with pwrevt := BitVec.ofNat 16 (((eventOf c.pcl (field 0 16)).1 + 1) * 1024 + field 0 10) }).passed) ∧
    (expert → field 0 16 ≤ 32768 → fixedSum s c.pcl c.sub + field 0 16 ≤ matrixShare cl / 2 →
      Completes (.mtsLeavegrant rs1) s (s.setSub c.pcl c.sub { u with fixed := field 0 16 }).passed) ∧
    (expert → 32768 < field 0 16 ∨ matrixShare cl / 2 < fixedSum s c.pcl c.sub + field 0 16 → Faults (.mtsLeavegrant rs1) s 0x18 v) ∧
    (expert → (∀ j < 7, field (8 * j) 8 ≠ 0) → Completes (.mtsLeaveslot rs1) s (withClu { cl with leaveslot := v &&& 0xFFFFFFFFFFFFFF })) ∧
    (expert → (∃ j < 7, field (8 * j) 8 = 0) → Faults (.mtsLeaveslot rs1) s 0x18 v) ∧
    (expert → 1 ≤ field 24 3 ∧ field 24 3 ≤ 4 → Completes (.mtsLeaveclus rs1) s
      (withClu { cl with grantNext := min (field 0 23) cl.granted, engNext := field 24 3 })) ∧
    (expert → ¬(1 ≤ field 24 3 ∧ field 24 3 ≤ 4) → Faults (.mtsLeaveclus rs1) s 0x18 v) ∧
    (expert → Completes (.mtsBiasctl rs1) s (withClu { cl with
      biasman := v.getLsbD 4, biascode := BitVec.ofNat 4 (max Config.biasMin.toNat (min Config.biasMax.toNat (field 0 4))) })) ∧
    (expert → (∀ j < 6, 1 ≤ field (8 * j) 8 ∧ field (8 * j) 8 ≤ (guardWord b.toNat).toNat / 2 ^ (8 * j) % 2 ^ 8) →
      Completes (.mtsMosslim b rs1) s
        (s.setPart x.part { p with mosslim := tset p.mosslim b.toNat (v &&& 0xFFFFFFFFFFFF) (guardWord b.toNat) }).passed) ∧
    (expert → (∃ j < 6, ¬(1 ≤ field (8 * j) 8 ∧ field (8 * j) 8 ≤ (guardWord b.toNat).toNat / 2 ^ (8 * j) % 2 ^ 8)) →
      Faults (.mtsMosslim b rs1) s 0x18 v) ∧
    (¬expert → Faults (.mtsLeavegrant rs1) s 0x03 0x071 ∧ Faults (.mtsLeaveslot rs1) s 0x03 0x141 ∧ Faults (.mtsLeaveclus rs1) s 0x03 0x140 ∧
      Faults (.mtsBiasctl rs1) s 0x03 0x143 ∧ Faults (.mtsMosslim b rs1) s 0x03 (BitVec.ofNat 64 (0x120 + b.toNat))) ∧
    (x.sup = false → Faults (.mtsPreq rs1) s 0x03 0x060 ∧ Faults (.mtsMon k rs1) s 0x03 (BitVec.ofNat 64 (0x160 + k.toNat)) ∧
      Faults (.mtsMonsnap rs1) s 0x03 0x170 ∧ Faults (.mtsPwrevt rs1) s 0x03 0x191)

/-- R117, R344: TRAP raises cause 0x15 with rs1 as its `etval` and the next word's address as `epc`; BKPT raises cause 0x16 at its own
address; EXIT stops the front end and the strand drains, in a handler with the pending trap discarded (R38). That the discarded trap takes
the handler flag, the parking of the engines and the marked word with it, and that the words that then run on may have a step to check
(R172), is the model's reading (log 16, DEDUCED). -/
def Obligations.TrapBreakpointExitWords : Prop :=
  ∀ (s : State) (rs1 : Reg),
    Completes (.trap rs1) s (s.passed.raise s.focus 0x15 (s.cx.rg rs1) (s.cx.pc + 4) none) ∧
    Completes .bkpt s (s.raise s.focus 0x16 0 s.cx.pc none) ∧
    (s.cx.intrap = false → Completes .exit s { s with cx := { s.cx with
      pc := s.cx.pc + 4, drain := .exit, counting := false, heldPush := [], heldReply := [], heldWait := [] } }) ∧
    (s.cx.intrap = true → ∃ y, Completes .exit s (checkHead s.focus { s with cx := y }) ∧ y.drain = .exit ∧ y.intrap = false ∧
      y.parked = false ∧ y.marked = none ∧ y.regs = s.cx.regs ∧ (y.noStep → checkHead s.focus { s with cx := y } = { s with cx := y }))

/-- R6, R344, R345, R348, R350: a fault of a running context with nothing in flight outside a handler, whose handler is set and whose
save area is mapped for a store, enters the handler (no open wait of it being logged meanwhile): the saved registers, supervisor mode with the handler flag and the data watches off, pc at
`tvec`, the queues parked. Registers, masks and the window keep their values, but for what a vector load that was under way at the head of the L
queue has had returned, which the cut leaves in its destination (R345). -/
def Obligations.FaultEntersHandler : Prop :=
  ∀ (s : State) (c : CtxLoc) (cause : BitVec 8) (tval epc : Word) (m : Option (Eng × BitVec 32 × Word)), let x := s.ctxAt c
    s.Inv → x.resident = true → x.halt = none → x.debug = false → x.intrap = false → x.inFlight = false → 4 ≤ x.tvec.toNat →
    cause ≠ 0x16 → cause ≠ 0x17 → s.logsNothing c →
    (∀ k < 256, ∃ pa, translate s c.pcl x.part (x.savearea.toNat + 0xF00 + k) .store = .ok pa) →
    let y := (s.raise c cause tval epc m).ctxAt c
    y.ecause = cause.setWidth 64 ∧ y.etval = tval ∧ y.epc = epc ∧ y.eissue = x.pc ∧ y.pc = x.tvec ∧ y.estat = fullStat x.stat c.ctx ∧
    y.sup = true ∧ y.intrap = true ∧ y.wte = false ∧ y.pe = x.pe ∧ y.base = x.base ∧ y.parked = true ∧ y.halt = none ∧
    y.emark = (m.elim 0 fun a => a.2.2 ||| 1) ∧ y.regs = x.regs ∧ y.tvec = x.tvec ∧ y.masks = x.stopL.masks ∧ y.win = x.stopL.win ∧
    ((∀ i ∈ x.ql.items.head?, i.phase ≠ .going) → y.masks = x.masks ∧ y.win = x.win)

/-! ### Handlers, waits, groups, counters, rings, leave, suspension -/

/-- R120, R351: TRET outside a handler is cause 0x01, with a reserved bit of `estat` cause 0x18, and with handler accesses under way it is
held; none of these changes anything else. R120, R351: TRET restores `stat` from `estat` but for the context number, and goes on by the
value of `epc`: at the marked word it is retried and issue goes on at the issue point; at the issue point the marked word is gone; anywhere
else every parked word and token is gone and issue goes on there, where nothing of the strand is held for it, no expiry waits and no step is
unstarted; with deliveries or expiries that wait it returns too, and they are made, and the step that is then at the head of the M queue is
checked (R172). -/
def Obligations.ReturnWord : Prop :=
  (∀ s : State,
    (s.cx.intrap = false → Faults .tret s 0x01 0x00800078) ∧
    (s.cx.intrap = true → statReserved s.cx.estat = true → Faults .tret s 0x18 s.cx.estat) ∧
    (s.cx.intrap = true → statReserved s.cx.estat = false → s.cx.lane ≠ [] → Completes .tret s s)) ∧
  ((∀ s : State, Issues s .tret → s.cx.intrap = true → statReserved s.cx.estat = false → s.cx.lane = [] →
    ∃ t, exec .tret s = .next t ∧
      t = (checkHead s.focus ((s.onCx Context.trapReturn).deliverHeld s.focus)).deliverPending s.focus) ∧
  ∀ s : State, let x := s.cx
    Issues s .tret → x.intrap = true → statReserved x.estat = false → x.lane = [] →
    x.heldPush = [] → x.heldReply = [] → x.heldWait = [] → (s.partAt x.part).expiries = [] → x.noStep →
    ∃ y, exec .tret s = .next { s with cx := y } ∧
      y.stat = putBits x.estat 6 2 (bitsOf x.stat 6 2) ∧ y.parked = false ∧ y.marked = none ∧ y.regs = x.regs ∧ y.estat = x.estat ∧
      let retry := bitOf x.emark 0 = true ∧ x.epc = putBits x.emark 0 1 0
      (retry → y.pc = x.eissue ∧ y.qv = x.qv ∧ y.qm = x.qm ∧ y.ql = x.ql ∧ y.qe = x.qe ∧ y.toks = x.toks) ∧
      (¬retry → x.epc = x.eissue → y.pc = x.epc ∧ y.toks = x.toks ∧
        (x.marked = none → y.qv = x.qv ∧ y.qm = x.qm ∧ y.ql = x.ql ∧ y.qe = x.qe)) ∧
      (¬retry → x.epc ≠ x.eissue → y.pc = x.epc ∧ y.qv.items = [] ∧ y.qm.items = [] ∧ y.ql.items = [] ∧ y.qe.items = [] ∧
        ∀ q < 16, (tget y.toks q {}).toks = []))

/-- R119: OWNWAIT completes while no engine owns the tile that its address names, waits while one does, and refuses an address without
tiles. -/
def Obligations.OwnerWaitWord : Prop :=
  ∀ (s : State) (rs1 : Reg), let a := s.cx.rg rs1
    (∀ o, placeOf s.cx.wsize a = some (.win o) →
      ((s.cx.gran (o / 256)).owner = false → s.unwaiting → Completes (.ownwait rs1) s s.passed) ∧
      ((s.cx.gran (o / 256)).owner = true → Completes (.ownwait rs1) s { s with cx := s.cx.waitMark 4 wOwner a })) ∧
    (Issues s (.ownwait rs1) → (∃ o, placeOf s.cx.wsize a = some (.win o) ∧ (s.cx.gran (o / 256)).owner = false) ∨
        (∃ o, placeOf s.cx.wsize a = some (.moss o) ∧ ((s.cluAt s.focus.pcl).rg (o / 4096)).owner = false) →
      ∃ t, exec (.ownwait rs1) s = .next t ∧ t.cx.pc = s.cx.pc + 4 ∧ t.cx.regs = s.cx.regs) ∧
    (∀ o, placeOf s.cx.wsize a = some (.moss o) →
      (((s.cluAt s.focus.pcl).rg (o / 4096)).owner = false → s.unwaiting → Completes (.ownwait rs1) s s.passed) ∧
      (((s.cluAt s.focus.pcl).rg (o / 4096)).owner = true → Completes (.ownwait rs1) s { s with cx := s.cx.waitMark 4 wOwner a })) ∧
    ((∀ o, placeOf s.cx.wsize a ≠ some (.win o)) → (∀ o, placeOf s.cx.wsize a ≠ some (.moss o)) → Faults (.ownwait rs1) s 0x06 a)

/-- R203, R248: BARWAIT completes when phase − rs1[31:0] lies in 1 to 2³¹, observing the entry, and else waits; GRPINFO writes phase and
member count. The entry is read through the cluster's write buffer. A group slot that the strand is not a member of is cause 0x1C with the
slot's number, a member count of 0 cause 0x1C with 0x200 + the group's index, a poisoned entry cause 0x0D, and one that is not mapped the
walk's cause. -/
def Obligations.GroupWaitWords : Prop :=
  (∀ (s : State) (k : BitVec 2) (rd rs1 : Reg) (v : GroupView), groupView s k = .ok v → let d := (v.phase - (s.cx.rg rs1).setWidth 32).toNat
    (1 ≤ d → d ≤ 2 ^ 31 → Completes (.barwait k rs1) s ((s.seeGroup v).waited.onCx Context.retire)) ∧
    (1 ≤ d → d ≤ 2 ^ 31 → s.unwaiting → s.Inv → (s.cluAt s.focus.pcl).wbuf = [] → Completes (.barwait k rs1) s
      { s with cx := { s.cx with obs := s.cx.obs.max v.stamp, pc := s.cx.pc + 4 } }) ∧
    (1 ≤ d → d ≤ 2 ^ 31 → Issues s (.barwait k rs1) → ∃ t, exec (.barwait k rs1) s = .next t ∧ t.cx.pc = s.cx.pc + 4 ∧
      t.cx.obs = s.cx.obs.max v.stamp ∧ t.cx.regs = s.cx.regs) ∧
    (¬(1 ≤ d ∧ d ≤ 2 ^ 31) → Completes (.barwait k rs1) s { s with cx := s.cx.waitMark 4 wGroup (BitVec.ofNat 64 (getAt s.cx.grp (8 * k.toNat) 8)) }) ∧
    Completes (.grpinfo rd k) s ((s.seeGroup v).wrote rd (BitVec.ofNat 64 (v.phase.toNat * 2 ^ 32 + v.members.toNat))) ∧
    (s.Inv → (s.cluAt s.focus.pcl).wbuf = [] → s.seeGroup v = { s with cx := { s.cx with obs := s.cx.obs.max v.stamp } })) ∧
  (∀ (s : State) (k : BitVec 2) (rd rs1 : Reg) (l : Launch), let c := s.focus; let g := getAt s.cx.grp (8 * k.toNat) 8
    let va := l.groups.toNat + 16 * g
    let all := fun (cause : BitVec 8) (tval : Word) =>
      Faults (.bar k) s cause tval ∧ Faults (.bararr rd k) s cause tval ∧ Faults (.barwait k rs1) s cause tval ∧ Faults (.grpinfo rd k) s cause tval
    s.cx.grp.getLsbD (32 + k.toNat) = true → s.launchOf s.cx = some l →
    (∀ e, translate s c.pcl s.cx.part va .load = .error e → e ≠ 0x08 → all e (BitVec.ofNat 64 va)) ∧
    ∀ pa, translate s c.pcl s.cx.part va .load = .ok pa →
      ((groupSeen s c pa).2 = true → all 0x0D (BitVec.ofNat 64 va)) ∧
      ((groupSeen s c pa).2 = false → (groupSeen s c pa).1.members = 0 → all 0x1C (BitVec.ofNat 64 (0x200 + g)))) ∧
  (∀ (s : State) (k : BitVec 2) (rd rs1 : Reg), s.cx.grp.getLsbD (32 + k.toNat) = false →
    Faults (.bar k) s 0x1C (k.setWidth 64) ∧ Faults (.bararr rd k) s 0x1C (k.setWidth 64) ∧
    Faults (.barwait k rs1) s 0x1C (k.setWidth 64) ∧ Faults (.grpinfo rd k) s 0x1C (k.setWidth 64))

/-- R205, R207: EVRD writes the counter and observes its stamp; EVWAIT completes with the counter's value once it has reached rs2, and
else is held at its counter. An id outside the partition is cause 0x09; an id past 16 bits, or with a cluster field above 40, is cause 0x06. -/
def Obligations.EventReadWords : Prop :=
  ∀ (s : State) (rd rs1 rs2 : Reg), let x := s.cx; let id := x.rg rs1; let thr := x.rg rs2
    let e := eventOf s.focus.pcl id.toNat; let k := (s.cluAt e.1).counter e.2
    let seen := { s with cx := { x with obs := x.obs.max k.stamp } }
    (eventBad s x.part s.focus.pcl id.toNat = none →
      Completes (.evrd rd rs1) s (seen.wrote rd k.val) ∧
      (x.evreg = none → s.unwaiting → thr.toNat ≤ k.val.toNat → Completes (.evwait rd rs1 rs2) s (seen.wrote rd k.val)) ∧
      (thr.toNat ≤ k.val.toNat → Issues s (.evwait rd rs1 rs2) → ∃ t v, exec (.evwait rd rs1 rs2) s = .next t ∧ t.cx.pc = x.pc + 4 ∧
        t.cx.evreg = none ∧ t.cx.regs = (x.setRg rd v).regs) ∧
      (x.evreg = none → k.val.toNat < thr.toNat → Completes (.evwait rd rs1 rs2) s
        { s with cx := { x with evreg := some ⟨e.1, e.2, thr, none⟩ }.waitMark 4 wEvent id })) ∧
    (65536 ≤ id.toNat ∨ 41 ≤ id.toNat / 1024 % 64 → Faults (.evrd rd rs1) s 0x06 id ∧ Faults (.evwait rd rs1 rs2) s 0x06 id ∧ Faults (.evadd .device rs1 rs2) s 0x06 id ∧
      Faults (.evset rs1 rs2) s 0x06 id) ∧
    (id.toNat < 65536 → id.toNat / 1024 % 64 ≤ 40 → (s.partAt x.part).owns e.1 = false →
      Faults (.evrd rd rs1) s 0x09 id ∧ Faults (.evwait rd rs1 rs2) s 0x09 id ∧ Faults (.evadd .device rs1 rs2) s 0x09 id ∧
      Faults (.evset rs1 rs2) s 0x09 id)

/-- R206: EVADD and EVSET with nothing ahead in the L queue, at a scope inside the own die and to a counter there: the change is under way
to its counter, with the strand's observed stamps. -/
def Obligations.EventWritesUnderWay : Prop :=
  ∀ (s : State) (rs1 rs2 : Reg) (sc : Scope), let x := s.cx; let id := x.rg rs1; let e := eventOf s.focus.pcl id.toNat
    eventBad s x.part s.focus.pcl id.toNat = none → x.ql.items = [] → x.parked = false →
    sc = .subcore ∨ sc = .core ∨ sc = .cluster → dieOf e.1 = dieOf s.focus.pcl →
    Completes (.evadd sc rs1 rs2) s
      { s.passed with adds := s.adds ++ [⟨whoOf x, e.1, e.2, x.rg rs2, false, false, x.obs, none⟩] } ∧
    (Issues s (.evset rs1 rs2) → ∃ t st, exec (.evset rs1 rs2) s = .next t ∧
      t.adds = s.adds ++ [⟨whoOf x, e.1, e.2, x.rg rs2, true, false, st, some (dieOf s.focus.pcl)⟩] ∧ t.cx.pc = x.pc + 4 ∧ t.mem = s.mem)

/-- R208, R209, R159, R245: RINIT writes the descriptor without its clear bit, and with it sets head and tail to 0; reserved bits and kind 3
are cause 0x18, a ring that does not fit its memory, or the area of a context without one, cause 0x06, and a FREE row group cause 0x09. On a
ring of the triple's area or of Moss RPSH puts rs1 at the tail and RPOP takes the entry at the head, and each advances its own count; a full ring
holds RPSH, an empty one RPOP, earlier L words hold RPSH, and an engine-owned row group holds both. A register without a ring is cause 0x18,
a poisoned row group of Moss cause 0x0D, a poisoned granule of the area cause 0x0E with its number there (log 37). -/
def Obligations.RingWords : Prop :=
  ∀ (s : State) (n : BitVec 2) (rd rs1 : Reg), let x := s.cx; let c := s.focus; let v := x.rg rs1; let d := tget x.rings n.toNat 0
    let u := s.subAt c.pcl c.sub; let cl := s.cluAt c.pcl; let off := ringOff d; let zero : List Byte := toLE 8 0
    let entry := fun (i : Nat) => off + 64 + 8 * (i % ringCap d)
    let withRing := fun (m : List Host.Cell) => s.setSub c.pcl c.sub { u with ringMem := m }
    let both := fun (cause : BitVec 8) (tval : Word) => Faults (.rpsh n rs1) s cause tval ∧ Faults (.rpop rd n) s cause tval
    let waits := fun (i : Instr) => Completes i s { s with cx := x.waitMark 4 wRing (BitVec.ofNat 64 off) }
    let kind := v.toNat / 2 ^ 62; let reserved := v.toNat / 2 ^ 56 % 2 ^ 5 ≠ 0 ∨ v.toNat / 2 ^ 26 % 2 ^ 22 ≠ 0
    let o := v.toNat % 2 ^ 26; let fits := o % 64 = 0 ∧ o + 72 + 8 * (v.toNat / 2 ^ 48 % 2 ^ 8) ≤ (if kind = 1 then 2 ^ 26 else 12288)
    let inited : Context := { x with rings := tset x.rings n.toNat (v &&& ~~~(BitVec.ofNat 64 (2 ^ 61))) 0, pc := x.pc + 4 }
    let accepted := ¬reserved ∧ (kind = 0 ∨ kind = 1 ∧ fits ∨ kind = 2 ∧ x.ringArea = true ∧ fits)
    -- RINIT
    (kind = 3 ∨ reserved → Faults (.rinit n rs1) s 0x18 v) ∧
    (¬reserved → kind = 2 ∧ x.ringArea = false ∨ (kind = 1 ∨ kind = 2) ∧ ¬fits → Faults (.rinit n rs1) s 0x06 v) ∧
    (accepted → kind = 0 ∨ v.toNat / 2 ^ 61 % 2 = 0 → Completes (.rinit n rs1) s { s with cx := inited }) ∧
    (accepted → kind = 2 → v.toNat / 2 ^ 61 % 2 = 1 → s.unwaiting → s.Inv → Completes (.rinit n rs1) s
      { withRing (storeBytes (storeBytes u.ringMem o zero) (o + 8) zero) with cx := inited }) ∧
    (accepted → kind = 1 → v.toNat / 2 ^ 61 % 2 = 1 → (∀ g ∈ rgsOf o (72 + 8 * (v.toNat / 2 ^ 48 % 2 ^ 8)), (cl.rg g).owner = false) →
      ((cl.rg (o / 4096)).cls = 0 → Faults (.rinit n rs1) s 0x09 (mossAddr o)) ∧
      ((cl.rg (o / 4096)).cls ≠ 0 → s.unwaiting → s.waiters = [] → s.Inv → twf cl.rgs {} = true → Memory.wf cl.moss = true →
        Issues s (.rinit n rs1) → ∃ t, exec (.rinit n rs1) s = .next t ∧ t.cx = inited ∧ t.mem = s.mem ∧
          ((t.cluAt c.pcl).rg (o / 4096)).valid = true ∧ ∀ i < 16, tget (t.cluAt c.pcl).moss (o + i) 0 = 0)) ∧
    -- RPSH and RPOP
    (ringKind d = 0 → both 0x18 (n.setWidth 64)) ∧
    (ringKind d = 2 → off / 256 ∈ u.ringBad → both 0x0E (BitVec.ofNat 64 (off / 256))) ∧
    (ringKind d = 2 → u.ringBad = [] → let h := loadNat u.ringMem off 8; let t := loadNat u.ringMem (off + 8) 8
      (x.ql.items = [] → t - h < ringCap d → s.unwaiting → s.Inv → Completes (.rpsh n rs1) s
        (withRing (storeBytes (storeBytes u.ringMem (entry t) (toLE 8 v.toNat)) (off + 8) (toLE 8 ((t + 1) % 2 ^ 64)))).passed) ∧
      (x.ql.items = [] → t - h < ringCap d → Issues s (.rpsh n rs1) → ∃ t', exec (.rpsh n rs1) s = .next t' ∧
        t'.cx.pc = x.pc + 4 ∧ t'.cx.regs = x.regs) ∧
      (x.ql.items ≠ [] ∨ ringCap d ≤ t - h → waits (.rpsh n rs1)) ∧
      (h < t → s.unwaiting → Completes (.rpop rd n) s
        ((withRing (storeBytes u.ringMem off (toLE 8 ((h + 1) % 2 ^ 64)))).wrote rd (BitVec.ofNat 64 (loadNat u.ringMem (entry h) 8)))) ∧
      (h < t → Issues s (.rpop rd n) → ∃ t', exec (.rpop rd n) s = .next t' ∧
        t'.cx.pc = x.pc + 4 ∧ t'.cx.regs = (x.setRg rd (BitVec.ofNat 64 (loadNat u.ringMem (entry h) 8))).regs) ∧
      (t ≤ h → waits (.rpop rd n))) ∧
    (ringKind d = 1 → let gs := rgsOf off (64 + 8 * ringCap d); let h := loadNat cl.moss off 8; let t := loadNat cl.moss (off + 8) 8
      ((∃ g ∈ gs, (cl.rg g).owner = true) → ∀ i ∈ [Instr.rpsh n rs1, .rpop rd n],
        Completes i s { s with cx := x.waitMark 4 wOwner (mossAddr off) }) ∧
      (off % 64 = 0 → (∀ g ∈ gs, (cl.rg g).owner = false) → (cl.rg (off / 4096)).valid = true → (cl.rg (off / 4096)).poison = true →
        both 0x0D (mossAddr off)) ∧
      (off % 64 = 0 → twf cl.rgs {} = true → s.waiters = [] → s.unwaiting → s.Inv →
        (∀ g ∈ gs, let r := cl.rg g; r.owner = false ∧ r.valid = true ∧ r.poison = false ∧ r.cls ≠ 0) →
        (x.ql.items = [] → t - h < ringCap d → Issues s (.rpsh n rs1) → ∃ t', exec (.rpsh n rs1) s = .next t' ∧
          t'.cx = { x with pc := x.pc + 4 } ∧ t'.mem = s.mem ∧ (t'.cluAt c.pcl).moss =
            storeBytes (storeBytes cl.moss (entry t) (toLE 8 v.toNat)) (off + 8) (toLE 8 ((t + 1) % 2 ^ 64))) ∧
        (x.ql.items ≠ [] ∨ ringCap d ≤ t - h → waits (.rpsh n rs1)) ∧
        (h < t → Issues s (.rpop rd n) → ∃ t', exec (.rpop rd n) s = .next t' ∧ t'.cx.pc = x.pc + 4 ∧
          t'.cx.regs = (x.setRg rd (BitVec.ofNat 64 (loadNat cl.moss (entry h) 8))).regs ∧ t'.mem = s.mem ∧
          (t'.cluAt c.pcl).moss = storeBytes cl.moss off (toLE 8 ((h + 1) % 2 ^ 64))) ∧
        (t ≤ h → waits (.rpop rd n))))

/-- R302, R303: LEAVE needs the partition's expert enable, moves leave from the account into the strand's reservation, returns the
reservation for 0, and is held while the account is short. LEAVERD writes the `leave` register. -/
def Obligations.LeaveWords : Prop :=
  ∀ (s : State) (rd rs1 : Reg), let x := s.cx; let c := s.focus; let v := x.rg rs1; let u := s.subAt c.pcl c.sub
    let expert := (s.partAt x.part).expert = true
    (¬expert → Faults (.leave rd rs1) s 0x03 0) ∧
    (expert → 32768 < v.toNat → Faults (.leave rd rs1) s 0x18 v) ∧
    (expert → v.toNat ≤ 32768 → 32768 < x.resv + v.toNat → Faults (.leave rd rs1) s 0x13 v) ∧
    (expert → v.toNat ≤ 32768 → x.resv + v.toNat ≤ 32768 → v ≠ 0 → v.toNat ≤ u.account → u.waiters = [] → s.unwaiting →
      Completes (.leave rd rs1) s
        ({ s.setSub c.pcl c.sub { u with account := u.account - v.toNat } with cx := { x with resv := x.resv + v.toNat } }.wrote rd
          (BitVec.ofNat 64 (x.resv + v.toNat)))) ∧
    (expert → v.toNat ≤ 32768 → x.resv + v.toNat ≤ 32768 → v ≠ 0 → u.account < v.toNat →
      Completes (.leave rd rs1) s { s with cx := x.waitMark 4 wLeave 0 }) ∧
    (expert → v = 0 → x.resv ≤ 32768 → Completes (.leave rd rs1) s
      ({ s.setSub c.pcl c.sub { u with account := min Config.accountCap (u.account + x.resv) } with cx := { x with resv := 0 } }.wrote rd 0)) ∧
    (Issues s (.leaverd rd) → ∃ w, exec (.leaverd rd) s = .next ({ s with free := s.free + 1 }.wrote rd w) ∧
      w.toNat % 2 ^ 16 = u.account % 2 ^ 16 ∧ (x.resv < 2 ^ 16 → u.account < 2 ^ 16 → w.toNat / 2 ^ 16 % 2 ^ 16 = x.resv))

/-- R197, R199: without a pre-emption request YIELD has no effect; it ends a restore at the recorded pc; it ends a save, and the strand
drains; with a request it starts the save sequence of its index, at a multiple of 4 whatever the offset's low bits hold (log 42, DESIGN
CHOICE), or faults where the table has no such index. -/
def Obligations.YieldWord : Prop :=
  ∀ (s : State) (idx : BitVec 16), let x := s.cx; let e := yieldEntry s s.focus.pcl x.part x.yieldtab idx.toNat
    (x.ystate = 0 → x.preq = false → Completes (.yield idx) s s.passed) ∧
    (x.ystate = 2 → Completes (.yield idx) s { s with cx := { x with ystate := 0, pc := x.ypc } }) ∧
    (x.ystate = 1 → Completes (.yield idx) s { s with cx := { x with drain := .yielded, pc := x.pc + 4 } }) ∧
    (x.ystate = 0 → x.preq = true → ∀ save restore, e = .ok (some (save, restore)) → Completes (.yield idx) s { s with cx := { x with
      ystate := 1, yindex := idx, ypc := x.pc + 4, counting := false, pc := alignPc (x.text + BitVec.ofNat 64 save) } }) ∧
    (x.ystate = 0 → x.preq = true → e = .ok none → Faults (.yield idx) s 0x18 (idx.setWidth 64))

/-- R189, R200, R201: SUSPEND stops the front end with its wait cause, threshold and the pc of the record; a triple member, a strand that
saves or restores, a wait cause of another kind, and an event id that R205 refuses are its faults. That the bits which R186 gives as zero
are zero in the recorded cause whatever rs1 holds there, without a fault, is the model's choice (log 40, DESIGN CHOICE). -/
def Obligations.SuspendWord : Prop :=
  ∀ (s : State) (rd rs1 rs2 : Reg), let x := s.cx; let v := x.rg rs1; let thr := x.rg rs2; let kind := v.toNat / 2 ^ 28
    (x.triple = true → Faults (.suspend rd rs1 rs2) s 0x1C 0x100) ∧
    (x.triple = false → x.ystate ≠ 0 ∨ (kind ≠ 1 ∧ kind ≠ 3) ∨ (kind = 1 ∧ 2 ^ 32 ≤ thr.toNat) → Faults (.suspend rd rs1 rs2) s 0x18 v) ∧
    (x.triple = false → x.ystate = 0 → kind = 1 → thr.toNat < 2 ^ 32 → eventBad s x.part s.focus.pcl (v.toNat % 2 ^ 16) = none →
      Completes (.suspend rd rs1 rs2) s { s with cx := { x with
        pc := x.pc + 4, counting := false, drain := .suspended rd (explicitCause s.focus.pcl v) (thr.setWidth 32) (x.pc + 4) } }) ∧
    (x.triple = false → x.ystate = 0 → kind = 1 → thr.toNat < 2 ^ 32 → ∀ e, eventBad s x.part s.focus.pcl (v.toNat % 2 ^ 16) = some e →
      Faults (.suspend rd rs1 rs2) s e (BitVec.ofNat 64 (v.toNat % 2 ^ 16))) ∧
    (x.triple = false → x.ystate = 0 → kind = 3 →
      Completes (.suspend rd rs1 rs2) s { s with cx := { x with
        pc := x.pc + 4, counting := false, drain := .suspended rd (explicitCause s.focus.pcl v) (thr.setWidth 32) (x.pc + 4) } })

/-! ### Vector, matrix and engine words -/

/-- R20, R26, R28: a V word whose granules all lie in the window, with no poisoned mask register, enters the V queue and issue goes past its
three parcels; it captures the scalar of its second operand and its governing mask, which the mask words combine at issue. R20: a V word of
two granule operands and a granule destination, one of whose granules lies at or above the window's size, enters no queue: cause 0x06 with
the first granule that does, row by row and in each row first source, second source, destination. A poisoned governing mask is cause 0x0E
(R159), with the mask's number as `etval`, which is the model's choice (log 40, DESIGN CHOICE). -/
def Obligations.VectorWordsIssue : Prop :=
  (∀ (op : VOp) (f : VF) (s : State), op.isL = false →
    let x := s.cx
    let inside := fun (o : Nat × Nat) => ∀ j < shapeRows x.vshape, o.1 + j * o.2 < x.wsize
    let m : Mask := match op with
      | .mand => x.mreg f.va.toNat &&& x.mreg f.vb.toNat
      | .mor => x.mreg f.va.toNat ||| x.mreg f.vb.toNat
      | .mxor => x.mreg f.va.toNat ^^^ x.mreg f.vb.toNat
      | .mnot => ~~~x.mreg f.va.toNat
      | .mcnt | .mfirst => x.mreg f.va.toNat
      | _ => x.mreg f.mask.toNat
    inside (opA f) → inside (opB f) → inside (opD f) → f.imm.toNat % 512 < x.wsize → x.mbad = 0 →
    Completes (Instr.ofV op f) s (s.queued .v (Instr.ofV op f) 3 (if f.bs then x.rg (f.vb.setWidth 5) else 0) 0 0 m)) ∧
  (∀ (op : VOp) (f : VF) (s : State), f.bs = false →
    op ∈ [VOp.vadd, .vsub, .vmul, .vfma, .vfms, .vmin, .vmax, .viadd, .visub, .vimul, .vimulh, .vimad, .vimin, .vimax, .vand, .vor, .vxor,
      .vlut3, .vshl, .vshr, .vsar, .vrot, .vfshl, .vfshr, .vsel, .vdiv] →
    let inside := fun (o : Nat × Nat) => ∀ j < shapeRows s.cx.vshape, o.1 + j * o.2 < s.cx.wsize
    let grans := (List.range (shapeRows s.cx.vshape)).flatMap fun j => [opA f, opB f, opD f].map fun o => o.1 + j * o.2
    (∀ k g, grans[k]? = some g → s.cx.wsize ≤ g → (∀ h ∈ grans.take k, h < s.cx.wsize) →
      Faults (Instr.ofV op f) s 0x06 (BitVec.ofNat 64 g)) ∧
    (inside (opA f) → inside (opB f) → inside (opD f) → f.mask ≠ 0 → s.cx.mbad.getLsbD f.mask.toNat = true →
      Faults (Instr.ofV op f) s 0x0E (f.mask.setWidth 64)))

/-- R24, R25, R129, R131, R134: a started element-wise word of one row, its sources and its destination tagged with its format and free of
poison: each active element of the destination is the operation on the old elements, each other one is as it was; no other granule and no
register changes, and the word leaves the V queue. -/
def Obligations.ElementwiseRow : Prop :=
  ∀ (s : State) (c : CtxLoc) (op : VOp) (f : VF) (i : Item) (r : List Item), let x := s.ctxAt c
    let A := (x.gran f.va.toNat); let B := (x.gran f.vb.toNat); let D := (x.gran f.vd.toNat)
    s.Inv → c.ok = true → twf x.win {} = true → s.engineOn c = true → x.qv.items = i :: r → i.phase = .going → i.left = 0 → i.pend = [] → i.target = none →
    i.ins = Instr.ofV op f → shapeRows i.vshape = 1 → f.push = 0 → f.bs = false → f.sat = false → tfind x.waits 0 = none →
    f.fmt ∉ [Fmt.empty, .raw, .q4] →
    (∀ g ∈ [A, B, D], g.fmt = f.fmt ∧ g.poison = false) →
    let n := f.fmt.bits
    let value : Option (Nat → Nat → Nat) := match op with
      | .vadd => some fun a b => (fpAdd f.fmt (vmode i f) false a b).1
      | .vsub => some fun a b => (fpSub f.fmt (vmode i f) false a b).1
      | .vmul => some fun a b => (fpMul f.fmt (vmode i f) false a b).1
      | .viadd => some fun a b => (a + b) % 2 ^ n
      | .visub => some fun a b => (a + 2 ^ n - b) % 2 ^ n
      | .vimul => some fun a b => a * b % 2 ^ n
      | .vand => some Nat.land
      | .vor => some Nat.lor
      | .vxor => some Nat.xor
      | _ => none
    ∀ v, value = some v → (op ∈ [VOp.vadd, .vsub, .vmul] → f.fmt.isFp3 = true) → (op ∈ [VOp.viadd, .visub, .vimul] → f.fmt.isInt = true) →
    ∃ t, exec (.vWordFinish c) s = .next t ∧ let y := t.ctxAt c
      (y.gran f.vd.toNat).fmt = f.fmt ∧
      (∀ e < f.fmt.count, elemAt (y.gran f.vd.toNat).data f.fmt e =
        if active i.mask f.fmt i.vshape 0 e then v (elemAt A.data f.fmt e) (elemAt B.data f.fmt e) % 2 ^ n else elemAt D.data f.fmt e) ∧
      (∀ g, g ≠ f.vd.toNat → y.gran g = x.gran g) ∧
      y.regs = x.regs ∧ y.masks = x.masks ∧ y.pc = x.pc ∧ y.qv.items = r ∧ t.mem = s.mem

/-- R138, R139: a started mask word writes its captured mask, with m0 discarding it, and MCNT the number of its ones among the active
rows. -/
def Obligations.MaskWordResults : Prop :=
  ∀ (s : State) (c : CtxLoc) (f : VF) (i : Item) (r : List Item), let x := s.ctxAt c
    s.Inv → c.ok = true → s.engineOn c = true → x.qv.items = i :: r → i.phase = .going → i.left = 0 → i.pend = [] → i.target = none → f.push = 0 →
    tfind x.waits 0 = none →
    (i.ins ∈ [Instr.mand f, .mor f, .mxor f, .mnot f] → ∃ t, exec (.vWordFinish c) s = .next t ∧
      t.ctxAt c = { x.setMreg f.vd.toNat i.mask with
        mbad := putAt x.mbad f.vd.toNat 1 0, fpflags := x.fpflags ||| i.val, qv := { x.qv with items := r, finished := x.qv.finished + 1 } }) ∧
    (i.ins = .mcnt f → ∃ t, exec (.vWordFinish c) s = .next t ∧
      (t.ctxAt c).regs = (x.setRg (f.vd.setWidth 5)
        (BitVec.ofNat 64 ((List.range (128 * shapeRows i.vshape)).filter fun k => i.mask.getLsbD k).length)).regs ∧
      (t.ctxAt c).qv.items = r ∧ (t.ctxAt c).win = x.win)

/-- R30, R124, R278: the head V word starts when its engine runs, no droop holds it, no engine owns its granules and it pops nothing: it is
under way and counts as started; no register, mask or granule changes. -/
def Obligations.VectorWordStarts : Prop :=
  ∀ (s : State) (c : CtxLoc) (op : VOp) (f : VF) (i : Item) (r : List Item), let x := s.ctxAt c
    s.Inv → c.ok = true → s.engineOn c = true → (s.cluAt c.pcl).droop = false → x.qv.items = i :: r → i.phase = .idle →
    i.ins = Instr.ofV op f → op.isL = false → f.pop = 0 → (∀ g ∈ vGrans x i, (x.gran g).owner = false) → tfind x.waits 0 = none →
    ∃ t, exec (.vWordStart c) s = .next t ∧
      t.ctxAt c = { x with qv := { x.qv with items := { i with
        phase := .going, left := 0, time := 0, pend := [], vis := [], lost := 0, target := none } :: r, started := x.qv.started + 1 } } ∧
      t.mem = s.mem

/-- R156, R157: the vector memory words, their granules in the window, their rows' addresses accepted and no mask poisoned: they enter the
L queue with base, stride and mask captured. -/
def Obligations.VectorMemoryWordsQueue : Prop :=
  ∀ (f : VF) (s : State), let x := s.cx; let base := x.rg (f.va.setWidth 5); let stride := x.rg (f.vb.setWidth 5); let m := x.mreg f.mask.toNat
    let inside := fun (o : Nat × Nat) => ∀ j < shapeRows x.vshape, o.1 + j * o.2 < x.wsize
    let good := fun (l : List (Option Flt)) => ∀ e ∈ l, e = none
    (inside (opD f) → x.mbad = 0 → good (vldChecks f 1 x) → Completes (.vld f) s (s.queued .l (.vld f) 3 base stride 0 m)) ∧
    (inside (opD f) → x.mbad = 0 → good (vldChecks f 2 x) → Completes (.vst f) s (s.queued .l (.vst f) 3 base stride 0 m)) ∧
    (inside (opD f) → inside (opB f) → x.mbad = 0 → Completes (.vldx f) s (s.queued .l (.vldx f) 3 base 0 0 m)) ∧
    (inside (opD f) → inside (opB f) → x.mbad = 0 → Completes (.vstx f) s (s.queued .l (.vstx f) 3 base 0 0 m)) ∧
    (x.mbad = 0 → good (mldChecks f 1 x) → Completes (.mld f) s (s.queued .l (.mld f) 3 base stride 0 0)) ∧
    (x.mbad = 0 → good (mldChecks f 2 x) → Completes (.mst f) s (s.queued .l (.mst f) 3 base stride 0 (x.mreg f.vd.toNat)))

/-- R16, R165, R174, R175: the matrix words, their views accepted, enter the M queue with the views captured; issue goes past their six
parcels. A step that is then the first unstarted word of the queue has its declared energy checked against the account and the reservation
(R172): more is cause 0x13 with the word marked. R165, R169, R175: ACLR at the head of the M queue starts when the engine runs, and empties
its bank when it finishes; every other bank, the window and the registers keep their values. -/
def Obligations.MatrixWords : Prop :=
  (∀ (f : MF) (g : AF) (s : State), let x := s.cx
    let va := tget x.tviews f.tA.toNat 0; let vb := tget x.tviews f.tB.toNat 0; let av := tget x.aviews f.acc.toNat 0
    let bv := tget x.aviews g.acc.toNat 0
    (∀ i ∈ [Instr.mma f, .mmaz f], stepCheck i f x.wsize va vb av = none → x.parked = false → Issues s i →
      (mNext x = none → f.en.toNat ≤ 32768 + x.resv → ∃ t, exec i s = .next t ∧
        t.cx.qm.items = x.qm.items ++ [{ mkItem x i x.qm va vb av 0 with lost := 1 }] ∧ t.cx.qm.issued = x.qm.issued + 1 ∧
        t.cx.pc = x.pc + 24 ∧ t.cx.regs = x.regs ∧ t.cx.win = x.win ∧ t.cx.banks = x.banks ∧ t.mem = s.mem) ∧
      (mNext x = none → 32768 + x.resv < f.en.toNat →
        exec i s = .next ((s.queued .m i 6 va vb av 0).raise s.focus 0x13 (f.en.setWidth 64) x.pc (some (.m, x.qm.issued, x.pc)))) ∧
      (∀ e, mNext x = some e → e.2.lost ≠ 0 → exec i s = .next (s.queued .m i 6 va vb av 0))) ∧
    (visCheck x.wsize bv g.acc = none →
      Completes (.aclr g) s (s.queued .m (.aclr g) 6 0 0 bv 0) ∧ Completes (.aswap g) s (s.queued .m (.aswap g) 6 0 0 bv 0) ∧
      Completes (.adrain g) s (s.queued .m (.adrain g) 6 0 0 bv 0))) ∧
  (∀ (s : State) (c : CtxLoc) (f : AF) (i : Item) (r : List Item), let x := s.ctxAt c
    s.Inv → c.ok = true → s.engineOn c = true → x.qm.items = i :: r → i.ins = .aclr f → f.pop = 0 → f.push = 0 → tfind x.waits 1 = none →
    (i.phase = .idle → (s.cluAt c.pcl).droop = false → ∃ t, exec (.mWordStart c) s = .next t ∧
      (t.ctxAt c).qm.items.head? = some { i with
        phase := .going, left := 0, time := 0, vis := [], rows := [], pend := [], target := none, lost := 2 } ∧
      (t.ctxAt c).qm.started = x.qm.started + 1 ∧ (t.ctxAt c).banks = x.banks ∧ (t.ctxAt c).win = x.win ∧ (t.ctxAt c).regs = x.regs) ∧
    (i.phase = .going → ∃ t, exec (.mWordFinish c) s = .next t ∧
      t.ctxAt c = { x with banks := tset x.banks f.acc.toNat {} {}, fpflags := x.fpflags ||| i.val,
                           qm := { x.qm with items := r, finished := x.qm.finished + 1 } }))

/-- R54, R266, R279, R311: an ENG word whose operands pass its issue check enters the E queue, and with its wait bit holds the next word
until its command completes. R266: the record of an ENG word that takes one lies in the register window (cause 0x06 elsewhere) at a granule
(cause 0x07). -/
def Obligations.EngineWords : Prop :=
  (∀ (f : EF) (s : State), let x := s.cx; let a := x.rg f.rs1; let b := x.rg f.rs2
    ∀ i ∈ [Instr.engCopy f, .engFill f, .engRefresh f, .engGather f, .engScatter f, .engScatteradd f, .engColl f, .engFamo f, .engFcas f,
        .engEvsig f, .engTwset f, .engTwclr f, .engTwbud f, .engTkcmt f, .engTkconf f, .engTkrej f, .engTwstat f, .engSeqopen f,
        .engSeqclose f, .engWswap f, .engWstat f, .engCqry f],
      engIssueCheck s (fnOf i) a b = none →
      Completes i s ((s.queued .e i 1 a b 0 0).onCx fun y => if f.wait then { y with hold := .command x.qe.issued.toNat } else y)) ∧
  (∀ (f : EF) (s : State), let a := s.cx.rg f.rs1
    ∀ i ∈ [Instr.engCopy f, .engFill f, .engRefresh f, .engGather f, .engScatter f, .engScatteradd f, .engColl f, .engFamo f, .engFcas f,
        .engTwset f, .engSeqopen f, .engWswap f],
      ((∀ o, placeOf s.cx.wsize a ≠ some (.win o)) → Faults i s 0x06 a) ∧
      (∀ o, placeOf s.cx.wsize a = some (.win o) → a.toNat % 256 ≠ 0 → Faults i s 0x07 a))

/-! ### The L engine, the write buffer, the homes -/

/-- R102, R250: a scalar store to device memory that is alone in its L queue starts, and its bytes enter the cluster's write buffer; device
memory is not changed yet. The address is the one that the word captured, translated for a store; the cluster holds its translation already,
no other word of the sub-core requests parts, and no wait is to be logged. R250, R252: a buffered write without an earlier one over its
bytes drains: it is stamped on its cluster's die and is under way to its home; device memory is not changed yet. -/
def Obligations.WriteBuffer : Prop :=
  (∀ (s : State) (c : CtxLoc) (i : Item) (wd : Width) (rs2 rs1 : Reg) (imm : BitVec 11) (va pa : Nat), let x := s.ctxAt c
    s.Inv → c.ok = true → s.engineOn c = true → lBusy s c = false → s.logsNothing c → x.lane = [] → x.ql.items = [i] → i.phase = .idle →
    i.ins = .st wd rs2 rs1 imm → i.fault = none → i.rows = [] → placeOf x.wsize i.a = some (.dev va) →
    translate s c.pcl x.part va .store = .ok pa → fillTlb s c.pcl x.part va = s →
    (s.cluAt c.pcl).wbuf.length < 512 →
    ∃ t seen, exec (.lWordStart c false) s = .next t ∧
      (t.cluAt c.pcl).wbuf = (s.cluAt c.pcl).wbuf ++
        [⟨s.uid, c, i.seq, 0, pa, toLE (widthBytes wd) i.b.toNat, false, none, seen, []⟩] ∧
      (t.ctxAt c).ql.items = [{ i with
        phase := .going, time := 0,
        parts := [{ row := 0, off := 0, n := widthBytes wd, addr := i.a, place := .dev va, pa := pa, st := .out }] }] ∧ (t.ctxAt c).ql.started = x.ql.started + 1 ∧
      (t.ctxAt c).regs = x.regs ∧ (t.ctxAt c).pc = x.pc ∧ t.mem = s.mem) ∧
  (∀ (s : State) (pcl k : Nat) (b : Buffered), pcl < 40 → (s.cluAt pcl).wbuf[k]? = some b → b.stamp = none → s.mgr.tripped = false →
    (∀ w ∈ (s.cluAt pcl).wbuf.take k, w.id ≠ b.id ∧ overlaps w.pa w.data.length b.pa b.data.length = false) →
    ∃ t, exec (.writeBufferDrain pcl k) s = .next t ∧
      let st := ((tget s.clocks (dieOf pcl) {}).max (s.ctxAt b.who).obs).tick (dieOf pcl)
      t.transit = s.transit ++ [⟨.lword b.who b.seq b.part (some b.id), dieOf pcl, st, b.pa, b.data, b.bad, none, none⟩] ∧
      t.clocks = tset s.clocks (dieOf pcl) st {} ∧ t.mem = s.mem)

/-- R248, R252, R253, R102: a stamped write to this module's memory whose dependency set has been applied is applied at its home: exactly
its bytes change; where its home fails it, no byte changes. R253: a stamped write waits for its dependency set. -/
def Obligations.StampedWrites : Prop :=
  (∀ (s : State) (k : Nat) (w : Transit), s.Inv → s.transit[k]? = some w → w.atom = none → w.chip = none →
    s.mgr.tripped = false → s.owed w.stamp (some w) none none = false →
    ((∀ c n va, w.who ≠ .save c n va) → ∃ t, exec (.writeApplied ⟨k, true⟩) s = .next t ∧ t.transit = s.transit.erase w ∧ t.mem = s.mem) ∧
    ∃ t, exec (.writeApplied ⟨k, false⟩) s = .next t ∧ t.transit = s.transit.erase w ∧
      (∀ j < w.data.length, tget t.mem (w.pa + j) 0 = w.data.getD j 0) ∧
      (∀ a, a < w.pa ∨ w.pa + w.data.length ≤ a → tget t.mem a 0 = tget s.mem a 0) ∧
      (∀ u, w.pa ≤ u * 64 → u * 64 + 64 ≤ w.pa + w.data.length → (u ∈ t.poison ↔ w.bad = true))) ∧
  (∀ (s : State) (k : Nat) (w : Transit) (e : Bool), s.transit[k]? = some w → s.owed w.stamp (some w) none none = true →
    exec (.writeApplied ⟨k, e⟩) s = .next s)

/-- R108, R109, R251: an atomic under way that reaches its home reads the old value and writes the operation's, in one action: the sum for
ADD, the operand for SWAP, and for CAS the operand where the old value is the comparand; on a poisoned line nothing is written. No byte
outside its width changes. -/
def Obligations.AtomicAppliedAtHome : Prop :=
  ∀ (s : State) (k : Nat) (w : Transit) (a : Atom), s.Inv → s.transit[k]? = some w → w.atom = some a → w.chip = none →
    s.mgr.tripped = false → s.owed w.stamp (some w) none none = false → let n := if a.word then 4 else 8; let old := loadNat s.mem w.pa n
    ∃ t, exec (.writeApplied ⟨k, false⟩) s = .next t ∧
      (∀ b, b < w.pa ∨ w.pa + n ≤ b → tget t.mem b 0 = tget s.mem b 0) ∧
      (w.pa / 64 ∈ s.poison → t.mem = s.mem) ∧
      (w.pa / 64 ∉ s.poison →
        (a.op = 0 → loadNat t.mem w.pa n = a.x.toNat % 256 ^ n) ∧
        (a.op = 1 → loadNat t.mem w.pa n = (old + a.x.toNat) % 256 ^ n) ∧
        (a.op = 10 → loadNat t.mem w.pa n = if old = a.cmp.toNat % 256 ^ n then a.x.toNat % 256 ^ n else old))

/-- R102, R35: the reply of a scalar load of device memory that no buffered write covers brings the bytes of its home, at the address
translated at its start, extended to 64 bits; an error of the home is cause 0x0F at the load's address. R30, R104, R344: the oldest L word
finishes: a complete scalar load writes its value to rd and leaves the queue; a word with a fault writes no register and raises it, marked,
at its own address, and stands at the part at which it is made again. -/
def Obligations.LoadsFinish : Prop :=
  (∀ (s : State) (c : CtxLoc) (i : Item) (r : List Item) (wd : Width) (rd rs1 : Reg) (imm : BitVec 11) (p : LPart) (va : Nat), let x := s.ctxAt c
    s.Inv → c.ok = true → x.lane = [] → x.ql.items = i :: r → i.phase = .going → i.parts = [p] → i.fault = none →
    i.ins = .ld wd rd rs1 imm → p.place = .dev va → p.st = .out → p.addr = i.a → p.n = widthBytes wd →
    (s.cluAt c.pcl).wbuf = [] → (∀ u ∈ unitsOf p.pa (widthBytes wd), u ∉ s.poison) →
    (∃ t j, exec (.farReply c ⟨0, 0⟩ false) s = .next t ∧ (t.ctxAt c).ql.items = j :: r ∧ j.phase = .complete ∧ j.fault = none ∧
      j.val = extend wd (loadNat s.mem p.pa (widthBytes wd)) ∧ (t.ctxAt c).regs = x.regs ∧ t.mem = s.mem) ∧
    (∃ t j, exec (.farReply c ⟨0, 0⟩ true) s = .next t ∧ (t.ctxAt c).ql.items = j :: r ∧ j.phase = .complete ∧
      j.fault = some ⟨0x0F, i.a⟩ ∧ t.mem = s.mem)) ∧
  (∀ (s : State) (c : CtxLoc) (i : Item) (r : List Item) (wd : Width) (rd rs1 : Reg) (imm : BitVec 11), let x := s.ctxAt c
    s.Inv → c.ok = true → s.engineOn c = true → x.lane = [] → x.ql.items = i :: r → i.phase = .complete → i.ins = .ld wd rd rs1 imm →
    (i.fault = none → ∃ t, exec (.lWordFinish c) s = .next t ∧ t.mem = s.mem ∧
      t.ctxAt c = { x.setRg rd i.val with
        obs := x.obs.max i.stamp, rdinv := x.rdinv || i.sawInv, ql := { x.ql with items := r, finished := x.ql.finished + 1 } }) ∧
    (∀ f, i.fault = some f → exec (.lWordFinish c) s = .next
      ((s.setCtx c { x with ql := { x.ql with
          items := i.parkL (if f.cause = 0x0F ∧ i.parts ≠ [] then i.nextPart else i.time) :: r } }).raise c
        f.cause f.tval i.pc (some (.l, i.seq, i.pc)))))

/-- R34, R36: a near access whose reply is overdue freezes its sub-core, and no word of the sub-core's contexts issues; the reply ends the
wait of the access, after a freeze that is shorter than `freezewd`; the watchdog abandons it with cause 0x0C. -/
def Obligations.OverdueAccessFreezes : Prop :=
  ∀ (s : State) (c : CtxLoc) (k p n : Nat) (i : Item) (q : LPart), let x := s.ctxAt c; let u := s.subAt c.pcl c.sub
    s.Inv → c.ok = true → x.litems[k]? = some i → i.parts[p]? = some q → isNear q = true →
    (∃ t, exec (.nearReplyDue c ⟨k, p⟩) s = .next t ∧ t.frozen c.pcl c.sub = true ∧
      (∀ d, d.ok = true → d.pcl = c.pcl → d.sub = c.sub → (t.refocus d).canIssue = false) ∧
      t.ctxAt c = x.setLitems (setNth x.litems k (i.setPart p .due)) ∧ t.mem = s.mem) ∧
    (nearOk s c (x.litems.take k) i p q = true → fills s c i q = false → s.mgr.tripped = false →
      q.st = .asked ∨ (0 < n ∧ u.fill ≤ n ∧ n < u.freezewd.toNat) →
      ∃ t j q', exec (.nearReplyArrival c ⟨k, p⟩ n) s = .next t ∧ (t.ctxAt c).litems[k]? = some j ∧ j.parts[p]? = some q' ∧ q'.flying = false) ∧
    (q.st = .due → isStore i.ins = false → x.debug = false → (∀ h, x.halt = some h → h.why ≠ .debug) → i.fault = none →
      ∃ t j q', exec (.freezeWatchdogExpiry c.pcl c.sub []) s = .next t ∧ (t.ctxAt c).litems[k]? = some j ∧ j.parts[p]? = some q' ∧
        q'.st = .bad ∧ j.fault.map Flt.cause = some 0x0C)

/-- R114, R115: TOKPOST, the fences and EVADD that reach the head of their queue make their action and leave it. -/
def Obligations.PointReached : Prop :=
  ∀ (s : State) (c : CtxLoc) (i : Item) (r : List Item), let x := s.ctxAt c
    s.Inv → c.ok = true → i.phase = .idle →
    (∀ snd rcv, i.ins = .tokpost snd rcv → (x.queue snd).items = i :: r → s.pointReady c snd = true →
      let q := tget x.toks (tq snd rcv) {}
      q.toks.length < 8 → exec (.postPointReached c snd) s = .next (s.setCtx c
        { x.setQueue snd { x.queue snd with items := r } with
          toks := tset x.toks (tq snd rcv) { q with toks := q.toks ++ [none], pushes := q.pushes + 1 } {} })) ∧
    (∀ kinds, i.ins = .fence kinds .cluster → x.ql.items = i :: r → s.pointReady c .l = true →
      exec (.postPointReached c .l) s = .next (s.setCtx c { x with ql := { x.ql with items := r } })) ∧
    (∀ rs1 rs2, i.ins = .evadd .cluster rs1 rs2 → x.ql.items = i :: r → s.pointReady c .l = true →
      let e := eventOf c.pcl i.a.toNat
      dieOf e.1 = dieOf c.pcl → exec (.postPointReached c .l) s = .next
        { s.setCtx c { x with ql := { x.ql with items := r } } with
          adds := s.adds ++ [⟨whoOf x, e.1, e.2, i.b, false, false, x.obs, none⟩] })

/-- R234 to R238: the MOSS words at their post point. MCLASS allocates row groups that are all FREE under a free entry of the allocation
table, with status 0, and refuses with status 1 where one is not; MFREE frees row groups that no engine owns and that no earlier store is still
writing (log 51); MAGE and MQUERY write the row group's age and limit, and its word. -/
def Obligations.MossWordActions : Prop :=
  ∀ (s : State) (c : CtxLoc) (i : Item) (r : List Item), let x := s.ctxAt c; let cl := s.cluAt c.pcl; let n0 := mossN i.a; let k := mossC i.b
    s.Inv → twf cl.rgs {} = true → c.ok = true → x.ql.items = i :: r → i.phase = .idle → s.pointReady c .l = true → tfind x.waits 2 = none →
    (∀ n, n0 ≤ n → n < n0 + max 1 k → (cl.rg n).owner = false) →
    let done := fun (rd : Reg) (v : Word) (t : State) => exec (.postPointReached c .l) s = .next t ∧
      t.ctxAt c = { x.setRg rd v with ql := { x.ql with items := r } } ∧ t.mem = s.mem
    (∀ cls rd rs1 rs2, i.ins = .mclass cls rd rs1 rs2 →
      ((∃ n, n0 ≤ n ∧ n < n0 + k ∧ (cl.rg n).cls ≠ 0) → ∃ t, done rd 1 t ∧ t.clus = s.clus) ∧
      ((∀ n, n0 ≤ n → n < n0 + k → (cl.rg n).cls = 0) → ∀ e, tfree cl.alloc 1 4095 = some e → ∃ t, done rd 0 t ∧
        ∀ n, n0 ≤ n → n < n0 + k → let g := (t.cluAt c.pcl).rg n; g.cls = cls ∧ g.valid = false ∧ g.age = 0 ∧ g.alloc = BitVec.ofNat 12 e)) ∧
    (∀ rd rs1 rs2, i.ins = .mfree rd rs1 rs2 → storing s c.pcl n0 k = false → ∃ t, done rd 0 t ∧ ∀ n, n0 ≤ n → n < n0 + k → ((t.cluAt c.pcl).rg n).cls = 0) ∧
    (∀ rd rs1, i.ins = .mage rd rs1 → ∃ t, done rd (mageWord cl n0) t ∧ t.clus = s.clus) ∧
    (∀ rd rs1 rs2, i.ins = .mquery rd rs1 rs2 → i.b = 0 → ∃ t, done rd (rgWord (cl.rg n0) x.rdinv) t ∧ t.clus = s.clus)

/-! ### Counters, groups, strands -/

/-- R206, R253: a change of a counter whose dependency set has been applied is applied: a set writes its value and clears both bits; an add
writes the exact sum, or the bound that the sum passes with the saturation bit; and the error bit comes with the change. R202 to R204: an
arrival at a group's entry counts one arrival, the end of a member lowers the member count; when the arrivals reach the members, the arrival
count is 0 again and the phase advances. No byte outside the entry changes, where no wait log has room. -/
def Obligations.CountersAndGroups : Prop :=
  (∀ (s : State) (k : Nat) (a : EvAdd), let c := (s.cluAt a.pcl).counter a.n; let v := (c.val.toNat : Int) + a.inc.toInt
    s.Inv → twf (s.cluAt a.pcl).counters {} = true → s.adds[k]? = some a → (a.die = none ∨ s.owed a.stamp none (some a) none = false) →
    s.mgr.tripped = false → s.waiters = [] → (∀ p, (s.partAt p).capture = {}) →
    ∃ t c', exec (.eventAdd k) s = .next t ∧ t.adds = s.adds.erase a ∧ t.mem = s.mem ∧ (t.cluAt a.pcl).counter a.n = c' ∧
      c'.stamp = c.stamp.max a.stamp ∧
      (a.set = true → c'.val = a.inc ∧ c'.sat = false ∧ c'.err = a.err) ∧
      (a.set = false → c'.err = (c.err || a.err) ∧
        (0 ≤ v → v < 2 ^ 64 → (c'.val.toNat : Int) = v ∧ c'.sat = c.sat) ∧
        (v < 0 → c'.val = 0 ∧ c'.sat = true) ∧ (2 ^ 64 ≤ v → c'.val = BitVec.allOnes 64 ∧ c'.sat = true))) ∧
  (∀ (s : State) (k : Nat) (a : Arrival), let v := groupAt s a.pa
    let m := if a.lower then v.members - 1 else v.members; let n := if a.lower then v.arrivals else v.arrivals + 1
    s.Inv → s.calm → s.logsFull → s.arrivals[k]? = some a → s.owed a.stamp none none (some a) = false → (s.partAt a.part).swaps = [] →
    ∃ t, exec (.groupArrival k) s = .next t ∧ t.arrivals = s.arrivals.erase a ∧ (groupAt t a.pa).members = m ∧
      (m ≠ 0 → n = m → (groupAt t a.pa).arrivals = 0 ∧ (groupAt t a.pa).phase = v.phase + 1) ∧
      (m = 0 ∨ n ≠ m → (groupAt t a.pa).arrivals = n ∧ (groupAt t a.pa).phase = v.phase) ∧
      (∀ b, b < a.pa ∨ a.pa + 12 ≤ b → tget t.mem b 0 = tget s.mem b 0))

/-- R27, R38, R187, R197, R201: a written `slotmask` takes effect outside a freeze; a strand that has drained after EXIT leaves its context, and its launch
counts it as ended; a drained yielding strand leaves its context, and its record is ready with aging count 0; a drained suspending strand
whose counter is below its threshold leaves its context, and waits. -/
def Obligations.StrandsLeave : Prop :=
  ∀ (s : State) (c : CtxLoc), let x := s.ctxAt c
    s.Inv → c.ok = true →
    (∀ m, x.slotsNext = some m → s.frozen c.pcl c.sub = false → exec (.slotmaskTakesEffect c) s = .next (s.setCtx c { x with slots := m, slotsNext := none })) ∧
    (∀ u l, x.drain = .exit → drained s c = some u → tfind (s.partAt x.part).launches x.launchid.toNat = some l →
      ∃ t l', exec (.exitDrainComplete c) s = .next t ∧ (t.ctxAt c).resident = false ∧
        tfind (t.partAt x.part).launches x.launchid.toNat = some l' ∧ l'.ended = l.ended + 1) ∧
    (∀ u, s.calm → s.settled c.pcl → drained s c = some u → cmdsOut s c = false → x.replies = [] → x.triple = false →
      (s.partAt x.part).expiries = [] → s.canStore c.pcl x.part x.recaddr.toNat 64 →
      (x.drain = .yielded → ∃ t e, exec (.recordWriteBack c) s = .next t ∧ (t.ctxAt c).resident = false ∧
        (t.cluAt c.pcl).ready = (s.cluAt c.pcl).ready ++ [e] ∧ e.part = x.part ∧ e.launch = x.launchid.toNat ∧
        e.strand = x.strandid.toNat ∧ e.addr = x.recaddr ∧ e.prio = x.base ∧ e.age = 0) ∧
      (∀ rd cause thr pc, x.drain = .suspended rd cause thr pc → bitsOf (cause.setWidth 64) 28 4 = 1 →
        let e := eventOf c.pcl (bitsOf (cause.setWidth 64) 0 16)
        ((s.cluAt e.1).counter e.2).val.toNat < thr.toNat →
        ∃ t w, exec (.recordWriteBack c) s = .next t ∧ (t.ctxAt c).resident = false ∧ t.waiters = [w] ∧
          w.cond = .counter e.1 e.2 (thr.setWidth 64) ∧ w.strand = x.strandid.toNat ∧ w.addr = x.recaddr ∧ w.rd = some (rd, some e)))

/-- R33, R185, R188, R190, R195: the best head of a cluster's ready queues that has a seat is dispatched to it: a record in state NEW
without an image starts at its launch's entry, one in state RESUMABLE at its pc; window and slots are those of the seat; and the record is
RESIDENT, with no other byte of memory changed. The one record of a cluster whose first sub-core is empty is dispatched to its first
context. Of several contexts that would do the choice of the first sub-core and the first context is the model's (log 22, DESIGN CHOICE),
and so is the write that makes the record RESIDENT (log 18, DEDUCED); the pc's low bits are 0 (log 42, DESIGN CHOICE). R192, R353, R355: a
balancing period commands the migration that the partition needs, of at most 64 records from a cluster without idle contexts; the command
moves the oldest ready records; a hardware save that has written its area and its record leaves the context, and the record is ready; a
hardware restore puts the area's contents into the context, and the step that is then at the head of its M queue is checked (R172). What a
save and a restore keep of a wait at a barrier is the model's reading (log 21, DEDUCED). -/
def Obligations.DispatchAndSaves : Prop :=
  (∀ (s : State) (pcl : Nat) (r : Ready) (seat : Seat) (l : Launch) (bs : List Byte) (pa : Nat),
    s.Inv → pcl < 40 → seat.c.ok = true → seat.c.pcl = pcl →
    (bestHead s pcl = some (r, [seat]) ∨ ((s.cluAt pcl).ready = [r] ∧ seat = ⟨⟨pcl, 0, 0⟩, 0, 48 * l.units, BitVec.ofNat 8 (2 ^ l.slots - 1)⟩ ∧
      1 ≤ l.units ∧ l.units ≤ 8 ∧ 1 ≤ l.slots ∧ l.slots ≤ 8 ∧
      ∀ k < 3, let y := s.ctxAt ⟨pcl, 0, k⟩; y.resident = false ∧ y.win.any (fun e => e.2.owner) = false)) →
    s.mgr.tripped = false → s.mgr.stage = 6 → (s.partAt r.part).capture = {} → pa / 64 ∉ s.failing →
    tfind (s.partAt r.part).launches r.launch = some l → l.triple = false → r.strand ∉ l.unmade →
    r.addr.toNat % 64 = 0 → vbytes s pcl r.part r.addr.toNat 64 = .ok bs → translate s pcl r.part r.addr.toNat .store = .ok pa →
    recordBad bs = false → fieldAt bs 0x24 4 = 0 → fieldAt bs 0x0F 1 = 0 ∧ l.imageN = 0 ∨ fieldAt bs 0x0F 1 = 2 ∧ r.rd = none →
    ∃ t, exec (.dispatch pcl) s = .next t ∧ (t.cluAt pcl).dispatches = (s.cluAt pcl).dispatches + 1 ∧ t.mem = storeBytes s.mem pa (seatedBytes bs) ∧
      let y := t.ctxAt seat.c
      y.resident = true ∧ y.part = r.part ∧ y.launchid = BitVec.ofNat 16 r.launch ∧ y.strandid = BitVec.ofNat 24 (fieldAt bs 0x08 4) ∧
      y.pc = alignPc (if fieldAt bs 0x0F 1 = 0 then l.entry else BitVec.ofNat 64 (fieldAt bs 0 8)) ∧ y.wbase = seat.base ∧ y.wsize = seat.size ∧
      y.slots = seat.slots ∧ y.stat = BitVec.ofNat 64 (4 + fieldAt bs 0x0E 1 * 256) ∧ y.savearea = BitVec.ofNat 64 (fieldAt bs 0x10 8) &&& 0xFFFFFFFFFF00 ∧
      y.vshape = 0xFFF ∧ y.toks = [] ∧ y.qv.items = [] ∧ (fieldAt bs 0x0F 1 = 0 → y.rg 1 = BitVec.ofNat 64 (fieldAt bs 0x28 8))) ∧
  ((∀ (s : State) (p : Nat) (m : Nat × Nat × Nat), formedParts s = [p] → migration s p = some m → s.mgr.tripped = false →
    (s.partAt p).capture = {} →
    exec .balancingPeriod s = .next { s with migrations := s.migrations ++ [m] } ∧ idleCount s m.1 = 0 ∧ 1 ≤ m.2.2 ∧ m.2.2 ≤ 64 ∧
    m.2.2 ≤ idleCount s m.2.1) ∧
  (∀ s : State, s.mgr.tripped = false → (∀ p, (s.partAt p).capture = {}) →
    exec .balancingPeriod s = .next { s with migrations := s.migrations ++ (formedParts s).filterMap (migration s) }) ∧
  (∀ (s : State) (k : Nat) (m : Nat × Nat × Nat), let moved := oldestN m.2.2 (s.cluAt m.1).ready
    s.Inv → s.migrations[k]? = some m → m.1 ≠ m.2.1 →
    ∃ t, exec (.migrationCommand k) s = .next t ∧ t.migrations = s.migrations.erase m ∧
      (t.cluAt m.1).ready = (s.cluAt m.1).ready.filter (fun r => !moved.contains r) ∧
      (t.cluAt m.2.1).ready = (s.cluAt m.2.1).ready ++ moved) ∧
  (∀ (s u v : State) (c : CtxLoc) (reason : BitVec 8) (forced : Bool) (cause : BitVec 32) (pc : Word) (thr : BitVec 32), let x := s.ctxAt c
    let y := u.ctxAt c
    s.Inv → c.ok = true → x.drain = .saving reason forced false cause pc thr → x.triple = false →
    x.heldPush = [] → x.heldReply = [] → x.heldWait = [] → cmdsOut s c = false → x.win.any (fun e => e.2.owner) = false → x.replies = [] →
    x.hold = .none → y.hold = .none → x.resident = true → x.debug = false → s.mgr.tripped = false → s.canWriteBack c = true →
    (u.partAt y.part).expiries = [] →
    s.writeSave c reason x.pc = (u, none) → u.writeRecord c x.pc 3 (if forced then 48 else 16) 0 0 = (v, true) →
    exec (.hardwareSave c) s = .next
      ((v.idleCtx c).enterReady c.pcl y.part y.launchid.toNat y.strandid.toNat y.recaddr y.base none)) ∧
  (∀ (s : State) (c : CtxLoc) (forced : Bool) (cause : BitVec 32) (pc : Word) (thr : BitVec 32), let x := s.ctxAt c
    s.Inv → c.ok = true → s.calm → s.settled c.pcl → x.drain = .saved forced false cause pc thr → x.triple = false → x.hold = .none →
    (s.partAt x.part).expiries = [] → s.canStore c.pcl x.part x.recaddr.toNat 64 →
    ∃ t e, exec (.hardwareSave c) s = .next t ∧ (t.ctxAt c).resident = false ∧ (t.cluAt c.pcl).ready = (s.cluAt c.pcl).ready ++ [e] ∧
      e.part = x.part ∧ e.launch = x.launchid.toNat ∧ e.strand = x.strandid.toNat ∧ e.addr = x.recaddr ∧ e.prio = x.base) ∧
  (∀ (s : State) (c : CtxLoc) (bs : List Byte) (b : Bool) (cause : BitVec 32), let x := s.ctxAt c
    s.Inv → c.ok = true → x.drain = .restoring cause → cause.toNat / 2 ^ 28 ≠ 4 → s.mgr.tripped = false → x.debug = false →
    vget s c.pcl x.part x.savearea.toNat (0x8000 + 256 * x.wsize) = .ok (bs, b) → areaOk x bs = true →
    ∃ t, exec (.hardwareRestore c) s = .next (checkHead c t) ∧ (t.ctxAt c).drain = .none ∧ (t.ctxAt c).pc = (readArea x bs s.free).pc ∧
      (t.ctxAt c).regs = (readArea x bs s.free).regs ∧ t.mem = s.mem ∧ ((readArea x bs s.free).noStep → checkHead c t = t)) ∧
  (∀ (s : State) (c : CtxLoc) (bs : List Byte), let x := s.ctxAt c
    s.Inv → c.ok = true → x.drain = .restoring 0 → s.mgr.tripped = false → x.debug = false → s.poison = [] →
    vget s c.pcl x.part x.savearea.toNat (0x8000 + 256 * x.wsize) = .ok (bs, false) → areaOk x bs = true →
    let y := readArea x bs s.free
    y.hold = .none → exec (.hardwareRestore c) s = .next (checkHead c
      { s.setCtx c { y with drain := .none, mbad := 0, counting := y.counting && y.ystate != 1 } with free := s.free + 16 })))

/-! ### Pre-emption, time-outs, halts -/

/-- R352, R358, R198, R345: a ready head that outranks the lowest resident strand and has no seat raises that strand's request; a drain of a
partition raises those of its strands; a deadline and a time-out begin a save, whose cut waits for what is in flight; a debug halt is
taken at the cut; and a debug-halted context goes on as after a return from a handler. That its queues stay parked where the halt was taken
inside a handler is the model's reading (log 16, DEDUCED), and so is the wait cause that keeps a BAR's wait through its time-out (log 21,
DEDUCED). -/
def Obligations.PreemptionAndHalts : Prop :=
  (∀ (s : State) (pcl : Nat) (c : CtxLoc) (r : Ready), let x := s.ctxAt c
    s.Inv → pcl < 40 → victim s pcl = some c → x.resident = true → x.preq = false → x.triple = false → (s.cluAt pcl).preempting = none →
    s.mgr.tripped = false → r ∈ readyHeads (s.cluAt pcl) → x.eff.toNat < effOf r → findSeats s pcl r = none →
    ∃ t, exec (.preemptionRequest pcl) s = .next t ∧ (t.ctxAt c).preq = true ∧ (t.cluAt pcl).preempting = some (ckey c) ∧
      (t.ctxAt c).pc = x.pc ∧ (t.ctxAt c).counting = (x.ystate != 1 && (match x.drain with | .none | .restoring _ => true | _ => false))) ∧
  (∀ (s : State) (p : Nat), s.Inv → p < 16 → s.focus.ok = true →
    ∃ t, exec (.partitionDrain p) s = .next t ∧
      ∀ c, c.ok = true → (s.ctxAt c).resident = true → (s.ctxAt c).part = p → (t.ctxAt c).preq = true) ∧
  (∀ (s : State) (c : CtxLoc), let x := s.ctxAt c
    s.Inv → c.ok = true → x.resident = true → x.halt = none → x.debug = false → x.pe = true → x.drain = .none → s.mgr.tripped = false →
    x.inFlight = true → s.frozen c.pcl c.sub = false →
    let saving := fun (r : BitVec 8) (f w : Bool) (cause : BitVec 32) (pc : Word) =>
      s.setCtx c { x with halt := some ⟨.save r f w cause pc 0, x.pc, none⟩, counting := false }
    (x.preq = true → x.counting = true → x.hold ≠ .pool → exec (.preemptionDeadline c) s = .next (saving 0x14 true false 0 0)) ∧
    (∀ g ph, x.hold = .phase g ph → x.evspin ≠ 0xFFFFFFFF → x.intrap = false → x.triple = false →
      exec (.timeoutSuspension c) s = .next
        (saving 0 false true (BitVec.ofNat 32 (2 * 2 ^ 28 + ph.toNat % 2 ^ 20 * 256 + g)) x.pc))) ∧
  (∀ (s : State) (c : CtxLoc) (epc : Word), let x := s.ctxAt c
    s.Inv → c.ok = true → x.halt = some ⟨.debug, epc, none⟩ → x.inFlight = false → x.waits = [] → s.mgr.tripped = false →
    s.frozen c.pcl c.sub = false →
    exec (.stopRecordCut c 0 []) s = .next
      { s.setCtx c { x.stopL with debug := true, halt := none, parked := true, epc := epc, eissue := x.pc, emark := 0, marked := none } with
        mgr := { s.mgr with told := s.mgr.told ++ [ckey c] } }) ∧
  (∀ (s : State) (c : CtxLoc) (e : Option Word), let x := s.ctxAt c
    s.Inv → c.ok = true → x.debug = true → x.resident = true → x.heldPush = [] → x.heldReply = [] → x.heldWait = [] → x.noStep →
    ∃ y, exec (.debugResume c e) s = .next (s.setCtx c y) ∧ y.stat = x.stat ∧ y.debug = false ∧ y.parked = x.intrap ∧
      (x.emark = 0 → e = some x.eissue → x.eissue.toNat % 4 = 0 → x.marked = none → y.pc = x.eissue ∧ y.toks = x.toks ∧ y.qv = x.qv))

/-! ### Moss, leave, droop -/

/-- R222 to R226, R231: an age tick sets sensor and band and ages every valid row group (where none is due for refresh, request or expiry); a
row group at its request point posts its request once, and one at its limit becomes invalid, with cause 0x0B for its resident allocator;
a KEEP row group at its interval queues a rewrite. -/
def Obligations.RowGroupsAge : Prop :=
  ∀ (s : State) (pcl : Nat), let cl := s.cluAt pcl
    s.Inv → pcl < 40 → twf cl.rgs {} = true →
    (∀ temp, s.mgr.tripped = false →
      let lim := match s.partOf pcl with | some p => (s.partAt p).mosslim | none => []
      let new := { cl with temp := temp, band := BitVec.ofNat 3 (nextBand cl.band.toNat temp.toNat), limits := lim }
      (∀ e ∈ cl.rgs, let r := sweepAge e.2
        keepDue new r = false ∧ expires new r = false ∧ (r.reqd = true ∨ r.age.toNat < requestPoint (rgLimit new r))) →
      nextBand cl.band.toNat temp.toNat < 7 →
      ∃ t, exec (.ageTick pcl temp) s = .next t ∧ (t.cluAt pcl).temp = temp ∧ (t.cluAt pcl).band = new.band ∧
        (t.cluAt pcl).limits = lim ∧ (∀ n, (t.cluAt pcl).rg n = sweepAge (cl.rg n)) ∧ t.mem = s.mem) ∧
    (∀ n, let r := cl.rg n
      (r.valid = true → timed r = true → r.reqd = false → requestPoint (rgLimit cl r) ≤ r.age.toNat → r.evid ≠ 0x03FF →
        let e := eventOf pcl r.evid.toNat
        exec (.refreshRequest pcl n) s = .next { s.setClu pcl (cl.setRg n { r with reqd := true }) with
          adds := s.adds ++ [⟨whoHardware, e.1, e.2, 1, false, false, {}, none⟩] }) ∧
      (expires cl r = true → timed r = false → exec (.rowGroupExpiry pcl n) s = .next (s.setClu pcl (cl.setRg n { r with valid := false }))) ∧
      (expires cl r = true → timed r = true → ∀ a l c, tfind cl.alloc r.alloc.toNat = some a →
        tfind (s.partAt a.part).launches a.launch = some l → residentOf s a.part a.launch a.strand = some c → let x := s.ctxAt c
        x.intrap = false → x.halt = none → x.debug = false → x.drain = .none →
        exec (.rowGroupExpiry pcl n) s = .next
          ((s.setClu pcl (cl.setRg n { r with valid := false, xtrap := true })).raise c 0x0B (BitVec.ofNat 64 (pcl * 2 ^ 16 + n)) x.pc none)) ∧
      (keepDue cl r = true → exec (.keepRefreshDue pcl n) s = .next (s.setClu pcl { cl with rewrites := cl.rewrites ++ [{ n := n }] })))

/-- R217, R225, R236, R299: the oldest rewrite of a bank starts where no near request waits there; one of a KEEP row group or of MREFRESH
draws 2 units from the engine pool, the shortfall as a deficit; its end sets the age to 0 and withdraws the request; the last one of an
MREFRESH gives rd the count, and one of a REFRESH command counts its 4096 bytes. R292, R296 to R299, R304, R305: at the control boundary of
a cluster without M words the grant is the lower of the controller's and the written one (halved in band 7), the pool of the engines is its
share less the deficit, and each account takes its refill up to its cap: the fixed grant where one is set, and else at least a quarter of an
equal share; a droop event is counted and freezes, and its end frees: after `droopctl.len` cycles where it was the only event, and else
after cycles that the spec leaves open. That a grant which software wrote counts only up to the controller's is the model's reading (log 30,
DEDUCED), which cycles a droop sample counts is its choice (log 12, DESIGN CHOICE), and the length that the spec leaves open is a free value
(log 6). -/
def Obligations.RewritesAndBoundaries : Prop :=
  (∀ (s : State) (pcl bank : Nat) (r : Rewrite), let cl := s.cluAt pcl; let g := cl.rg r.n
    s.Inv → pcl < 40 →
    ((cl.rewrites.filter fun q => q.n % 128 = bank).head? = some r → r.running = false → nearWaits s pcl bank = false → s.mgr.tripped = false →
      (r.eng ≠ none → exec (.mossRewriteStart pcl bank) s = .next (s.setClu pcl { cl with
        rewrites := { r with running := true } :: cl.rewrites.erase r })) ∧
      (r.eng = none → exec (.mossRewriteStart pcl bank) s = .next (s.setClu pcl { cl with
        rewrites := { r with running := true } :: cl.rewrites.erase r, pool := cl.pool - 2, deficit := cl.deficit + (2 - cl.pool) }))) ∧
    (cl.rewrites.find? (fun q => q.n % 128 = bank && q.running) = some r → g.valid = true → g.cls ≠ 0 →
      let done := s.setClu pcl { cl.setRg r.n { g with age := 0, reqd := false } with rewrites := cl.rewrites.erase r }
      (r.who = none → r.eng = none → exec (.mossRewriteEnd pcl bank) s = .next done) ∧
      (∀ p e n k q, r.who = none → r.eng = some (p, e, n) → p < 40 → twf (s.cluAt p).engines [] = true → s.engQueue p e = k :: q → k.num = n →
        ∃ t, exec (.mossRewriteEnd pcl bank) s = .next t ∧ (t.cluAt pcl).rgs = (done.cluAt pcl).rgs ∧
          (t.engQueue p e).head? = some { k with left := k.left - 1, moved := k.moved + 4096 }) ∧
      (∀ c i q rd rs1 rs2, let x := s.ctxAt c
        r.who = some c → x.ql.items = i :: q → i.ins = .mrefresh rd rs1 rs2 → i.phase = .going → i.left = 1 →
        exec (.mossRewriteEnd pcl bank) s = .next (done.setCtx c { x.setRg rd (i.val + 1) with ql := { x.ql with items := q } })))) ∧
  (∀ (s : State) (pcl : Nat), let cl := s.cluAt pcl
    s.Inv → pcl < 40 → s.mgr.tripped = false →
    ((∀ e ∈ s.contexts, e.1.pcl = pcl → e.2.qm.items = []) →
      ∃ t, exec (.leaveBoundary pcl) s = .next t ∧ t.mem = s.mem ∧
        let g := min cl.grantNext cl.granted
        let share := (t.cluAt pcl).grant - (t.cluAt pcl).grant * cl.engNext / 8
        let auto := (List.range 128).filter fun k => (s.subAt pcl k).fixed = 0
        let left := share - (List.range 128).foldl (fun n k => n + (s.subAt pcl k).fixed) 0
        (t.cluAt pcl).grant = (if cl.band = 7 then g / 2 else g) ∧ (t.cluAt pcl).eng = cl.engNext ∧ (t.cluAt pcl).deficit = 0 ∧
        (let p := (t.cluAt pcl).grant * cl.engNext / 8; (t.cluAt pcl).pool = p - min cl.deficit (p / 2)) ∧
        ∀ k < 128, let u := s.subAt pcl k; let v := t.subAt pcl k
          v.account = min Config.accountCap (u.account + v.refill) ∧ v.drawn = 0 ∧ (u.fixed ≠ 0 → v.refill = u.fixed) ∧
          (u.fixed = 0 → left / (4 * auto.length) ≤ v.refill)) ∧
    (∃ t, exec (.leaveBoundary pcl) s = .next t ∧ (t.cluAt pcl).eng = cl.engNext ∧ (t.cluAt pcl).deficit = 0 ∧
      (t.cluAt pcl).grant = (let g := min cl.grantNext cl.granted; if cl.band = 7 then g / 2 else g)) ∧
    exec (.droopEvent pcl) s = .next (s.setClu pcl { cl with
      droop := true, droopAgain := cl.droop, droopctl := putBits cl.droopctl 48 16 (min 0xFFFF (bitsOf cl.droopctl 48 16 + 1)) }) ∧
    (cl.droop = true → let done := s.setClu pcl { cl with droop := false, droopAgain := false }
      (cl.droopAgain = false → exec (.droopFreezeEnd pcl) s = .next (done.sampleNat pcl 9 (bitsOf cl.droopctl 0 12))) ∧
      (cl.droopAgain = true → exec (.droopFreezeEnd pcl) s = .next (done.sampleFree pcl 9))))

/-! ### Engines -/

/-- R54, R266, R267, R288: a record-less ENG word at the head of the E queue submits its command, with the values it captured, to an engine
queue with room, and finishes; a rejected record is cause 0x10 with the record's address, and completion word 3 with the code. -/
def Obligations.CommandsSubmitted : Prop :=
  ∀ (s : State) (c : CtxLoc) (i : Item) (f : EF), let x := s.ctxAt c; let fn := fnOf i.ins; let q := engineFor s c fn i.a []
    s.Inv → c.ok = true → s.engineOn c = true → x.qe.items = [i] → engFields i.ins = some f → x.waits = [] → i.phase = .idle →
    (hasRecord fn = false → unitGrans fn i.a = [] → twf (s.cluAt q.1).engines [] = true → (s.engQueue q.1 q.2).length < 64 →
      (s.cluAt q.1).resetting.contains q.2 = false → ∃ t k,
      exec (.engSubmission c) s = .next t ∧ (t.engQueue q.1 q.2).length = (s.engQueue q.1 q.2).length + 1 ∧
      (t.engQueue q.1 q.2).getLast? = some k ∧ k.fn = BitVec.ofNat 7 fn ∧ k.rs1 = i.a ∧ k.rs2 = i.b ∧ k.rd = f.rd ∧ k.reply = f.reply ∧
      k.who = c ∧ k.started = false ∧ (t.ctxAt c).qe.items = [] ∧ (t.ctxAt c).qe.finished = x.qe.finished + 1 ∧
      (t.ctxAt c).replies = (if f.reply then x.replies ++ [f.rd.toNat] else x.replies)) ∧
    (hasRecord fn = true → let g := x.gran (bitsOf i.a 8 40)
      g.owner = false → g.poison = false → i.a.toNat % 256 = 0 → twf x.win {} = true → ∀ code, code ≠ 0 → (recordCode s c fn ((granBytes g.read).take 128)).1 = code →
      ∃ y, exec (.engSubmission c) s = .next ((s.setCtx c y).raise c 0x10 i.a i.pc (some (.e, i.seq, i.pc))) ∧
        y.regs = x.regs ∧ y.pc = x.pc ∧ getAt (y.gran (bitsOf i.a 8 40)).data (8 * 0x30) 64 = (3 + code * 256) % 2 ^ 64)

/-- R274 to R281, R288, R298: the head of an engine queue whose waits hold starts when its energy and its slot are there, and draws the
energy; a wait that brought the error bit ends it; the chunk of CQRY reads the counter; a completed command with a reply writes its rd and
leaves the queue; a reset ends a queued command. R289, R401, R404: the decision of a WSWAP is made when its group's recorded phase would
complete: with every shard present and none flagged the pointer word takes the new table's address and the status is 0, else it is 4, and
the phase advances either way; the time-out of a running collective aborts it with status 2 and code 0x1A. -/
def Obligations.EngineCommandsRun : Prop :=
  (∀ (s : State) (pcl : Nat) (e : CEng) (k : Cmd) (r : List Cmd), let cl := s.cluAt pcl; let n := CEng.num e
    s.Inv → pcl < 40 → twf cl.engines [] = true → s.engQueue pcl n = k :: r → s.mgr.tripped = false →
    (k.started = false → k.bad = true → k.fn ≠ 0x20 →
      exec (.engineCommandStart pcl e) s = .next (s.putHead pcl n (k.finish 1 0x10))) ∧
    (k.started = false → k.ready = true → k.bad = false → k.energy ≤ poolOf cl / 2 → k.energy ≤ cl.pool → cl.slotFree k.cls = true →
      k.fn.toNat < 0x20 ∨ k.fn = 0x30 ∨ k.fn = 0x31 ∨ k.fn = 0x38 ∨ k.fn = 0x60 →
      ∃ t k', exec (.engineCommandStart pcl e) s = .next t ∧ t.engQueue pcl n = k' :: r ∧ k'.started = true ∧ k'.done = k.done ∧
        (t.cluAt pcl).pool = cl.pool - k.energy ∧ t.mem = s.mem) ∧
    (k.fn = 0x60 → k.started = true → k.done = false → k.left = 0 → k.drawn = true → k.waited = false → k.out = [] → k.pos = 0 →
      s.kept ≤ 2 ^ 20 → let a := eventOf k.who.pcl k.rs1.toNat
      k.rs2 = 0 → exec (.engineChunk pcl e) s = .next
        (s.putHead pcl n { k with pos := 1, result := ((s.cluAt a.1).counter a.2).val, obs := k.obs.max ((s.cluAt a.1).counter a.2).stamp,
                                  drawn := false, far := [], early := [], done := true })) ∧
    (k.started = true → k.done = true → k.left = 0 → k.bytes = [] → k.slot = false → k.grans = [] → k.rgs = [] → k.gwrites = [] →
      k.notes = [] → k.status = 0 → k.fn ≠ 0x38 → k.reply = true → k.wait = false → k.heard s = true → (s.ctxAt k.who).halted = false →
      ∃ t, exec (.engineCommandCompletion pcl e) s = .next t ∧ (t.engQueue pcl n).length = r.length ∧
        t.ctxAt k.who = (s.ctxAt k.who).replyLate k.rd.toNat k.result ∧ t.mem = s.mem) ∧
    (k.started = true → k.done = true → k.left = 0 → signalOut s pcl n k = false →
      ∃ t, exec (.engineCommandCompletion pcl e) s = .next t ∧ (t.engQueue pcl n).length = r.length) ∧
    (e ≠ .wsc → ∃ t, exec (.engineReset pcl e) s = .next t ∧ (t.engQueue pcl n).length ≤ (s.engQueue pcl n).length ∧
      ∀ q ∈ t.engQueue pcl n, q.started = true ∧ q.done = true) ∧
    (r = [] → e ≠ .wsc → k.started = false → k.fn ≠ 0x02 → k.fn ≠ 0x20 → k.left = 0 → s.adds = [] → k.bytes = [] → k.slot = false → k.grans = [] → k.rgs = [] → k.gwrites = [] → k.notes = [] →
      k.reply = false → k.wait = false →
      ∃ t, exec (.engineReset pcl e) s = .next t ∧ t.engQueue pcl n = [] ∧ (t.cluAt pcl).resetting.contains n = false ∧ t.mem = s.mem ∧ (e = .twu → (t.cluAt pcl).tw = []))) ∧
  ((∀ (s : State) (pcl pa q : Nat) (k : Cmd) (r : List Cmd) (l : Launch) (w : WTable), let v := groupAt s pa
    s.Inv → s.mgr.tripped = false → pcl < 40 → twf (s.cluAt pcl).engines [] = true → s.engQueue pcl 7 = k :: r → k.fn = 0x50 → k.started = true →
    k.done = false → tfind (s.partAt k.part).launches k.launch = some l → groupEntry s k.who.pcl k.part l k.group = .ok pa →
    v.phase = k.phase → v.members ≠ 0 → v.members ≤ v.arrivals → s.mayWrite (dieOf pcl) k.obs = true →
    (∃ t k', exec (.wswapDecision pcl) s = .next t ∧ (t.engQueue pcl 7).head? = some k' ∧ k'.done = true ∧
      (k'.status = 0 ∨ k'.status = 4)) ∧
    (s.calm → s.logsFull → readTable s k.who.pcl k.part (bodyA k.bytes).toNat = .ok w →
    translate s k.who.pcl k.part (bodyB k.bytes).toNat .store = .ok q → (bodyB k.bytes).toNat % 8 = 0 → q + 8 ≤ pa ∨ pa + 12 ≤ q →
    ∃ t k', exec (.wswapDecision pcl) s = .next t ∧ (t.engQueue pcl 7).head? = some k' ∧ k'.done = true ∧
      (groupAt t pa).arrivals = 0 ∧ (groupAt t pa).phase = v.phase + 1 ∧
      (w.present = 2 ^ w.n - 1 ∧ w.flagged = 0 → k'.status = 0 ∧ k'.moved = 8 ∧ loadNat t.mem q 8 = (bodyA k.bytes).toNat) ∧
      (¬(w.present = 2 ^ w.n - 1 ∧ w.flagged = 0) → k'.status = 4 ∧ loadNat t.mem q 8 = loadNat s.mem q 8))) ∧
  (∀ (s : State) (pcl : Nat) (k : Cmd) (r : List Cmd) (c : Coll),
    s.Inv → pcl < 40 → s.engQueue pcl 5 = k :: r → k.coll = some c → k.started = true → k.done = false → c.tmo ≠ 0 → s.mgr.tripped = false →
    twf (s.cluAt pcl).engines [] = true →
    ∃ t, exec (.collectiveTimeout pcl) s = .next t ∧ t.engQueue pcl 5 = k.abort :: r ∧ k.abort.status = 2 ∧ k.abort.code = 0x1A ∧
      (t.cluAt pcl).aborted.getLast? = some (c.cid, true)))

/-! ### Launches -/

/-- R210 to R213, R410, R411: the pool answers a request with 3 at launch depth 7, 2 for a record that it does not accept or cannot read, 1 when it is full,
and else with the entry's number, the launch in the pool; a launch whose strands have all ended leaves the pool; the host's mailbox write
sets an acceptable tail and, with it or with the tail that stands, a completion head that does not pass the completion tail, and the hub
takes the record at the head of the queue whose turn it is into the pool, and of no queue behind it in the rotation. The order in which
statuses 3, 2 and 1 are tested, and status 2 for a record that was readable at the LAUNCH and no longer is for the pool, are the model's
reading (log 15, DEDUCED; R387 gives status 2 to a poisoned record alone); so are the numbers of the pool's entries (log 14), the class of
the controller's log (log 37, DESIGN CHOICE), the completion head of a rejected mailbox write (log 42, DESIGN CHOICE), where the rotation
begins (log 5, DESIGN CHOICE), and that a launch made by a word tells the host nothing at its end (log 52, DESIGN CHOICE). -/
def Obligations.LaunchesAccepted : Prop :=
  (∀ (s : State) (k : Nat) (r : LaunchReq), let x := s.ctxAt r.who
    s.Inv → s.calm → s.launching[k]? = some r → s.owed r.obs none none none = false → x.resident = true → x.serial = r.serial → x.hold = .none →
    r.block = false ∨ tfind x.waits 4 = none →
    let reply := fun (v : Word) => .next ({ s with launching := s.launching.erase r }.setCtx r.who
      { x.setRg r.rd v with replies := x.replies.erase r.rd.toNat })
    (7 ≤ r.depth → exec (.launchPoolAccept k) s = reply 3) ∧
    (∀ e, r.depth < 7 → vbytes s r.who.pcl r.part r.addr.toNat 128 = .error e →
      (e.1 ≠ 0x0D → e.1 ≠ 0x08 → exec (.launchPoolAccept k) s = reply 2) ∧
      (r.rd ≠ 0 → twf x.regs 0 = true → ∃ t, exec (.launchPoolAccept k) s = .next t ∧ (t.ctxAt r.who).rg r.rd = 2 ∧
        (e.1 = 0x0D → t.mgr.log = s.mgr.log ++ [(3877, r.who.pcl, r.part)]))) ∧
    (∀ bs, r.depth < 7 → vbytes s r.who.pcl r.part r.addr.toNat 128 = .ok bs → let l := parseLaunch bs (r.depth + 1) r.who.pcl none
      (launchOk s r.who.pcl r.part bs l = false → exec (.launchPoolAccept k) s = reply 2) ∧
      (launchOk s r.who.pcl r.part bs l = true → poolEntry (s.partAt r.part) (r.depth + 1) = none → r.block = false →
        exec (.launchPoolAccept k) s = reply 1) ∧
      (∀ id, launchOk s r.who.pcl r.part bs l = true → poolEntry (s.partAt r.part) (r.depth + 1) = some id → r.rd ≠ 0 →
        twf x.regs 0 = true → ∃ t l', exec (.launchPoolAccept k) s = .next t ∧ (t.ctxAt r.who).rg r.rd = BitVec.ofNat 64 (id * 2 ^ 16) ∧
          tfind (t.partAt r.part).launches id = some l' ∧ l'.n = l.n ∧ l'.entry = l.entry))) ∧
  (∀ (s : State) (p id : Nat) (l : Launch), let q := s.partAt p
    s.Inv → p < 16 → tfind q.launches id = some l → l.n ≤ l.ended → l.host = none → s.waiters = [] →
    (∀ c < 40, ∀ r ∈ (s.cluAt c).ready, ¬(r.part = p ∧ r.launch = id)) →
    let done := { s.setPart p { q with launches := tdel q.launches id } with
      icache := s.icache.filter fun e => !(e.part = p && e.launch = id) }
    (l.event = 0x03FF → exec (.launchEnd p id) s = .next done) ∧
    (l.event ≠ 0x03FF → let e := eventOf l.home l.event.toNat
      ∃ st cl, exec (.launchEnd p id) s = .next { done with clocks := cl, adds := s.adds ++ [⟨whoHardware, e.1, e.2, 1, false, false, st, some (dieOf l.home)⟩] })) ∧
  (∀ (s : State) (p id : Nat) (l : Launch), p < 16 → s.Inv → tfind (s.partAt p).launches id = some l → l.n ≤ l.ended →
    l.host = none ∨ s.mayWrite (dieOf l.home) {} = true →
    ∃ t, exec (.launchEnd p id) s = .next t ∧ tfind (t.partAt p).launches id = none) ∧
  (∀ (s : State) (p k : Nat) (q : HostQ) (tail head : BitVec 32), let fwd := (tail - q.t).toNat
    let accepted := 1 ≤ fwd ∧ fwd ≤ q.cap ∧ (tail - q.h).toNat ≤ q.cap
    s.Inv → p < 16 → s.mgr.tripped = false → tfind (s.partAt p).queues k = some q →
    ∃ t q', exec (.launchMailboxWrite p k tail head) s = .next t ∧ tfind (t.partAt p).queues k = some q' ∧ q'.h = q.h ∧
      q'.t = (if accepted then tail else q.t) ∧
      q'.hc = (if (accepted ∨ tail = q.t) ∧ (head - q.hc).toNat ≤ (q.tc - q.hc).toNat then head else q.hc)) ∧
  (∀ (s : State) (p k id : Nat) (q : HostQ) (bs : List Byte), let pcl := hubClu s p; let l := parseLaunch bs 0 pcl (some (k, q.h))
    s.Inv → s.calm → p < 16 → tfind (s.partAt p).queues k = some q → q.h ≠ q.t → (q.h - q.hc).toNat < q.cap →
    vbytes s pcl p (q.ring.toNat + 128 * (q.h.toNat % q.cap)) 128 = .ok bs → launchOk s pcl p bs l = true →
    poolEntry (s.partAt p) 0 = some id → hubTurn s p = some k → s.mayWrite (dieOf pcl) {} = true →
    ∃ t q' l', exec (.hostLaunchTake p k) s = .next t ∧ tfind (t.partAt p).queues k = some q' ∧ q'.h = q.h + 1 ∧ q'.t = q.t ∧
      tfind (t.partAt p).launches id = some l' ∧ l'.n = l.n ∧ l'.host = some (k, q.h)) ∧
  (∀ (s : State) (p k j : Nat) (q r : HostQ), let t := (s.partAt p).turn
    s.Inv → p < 16 → ((s.partAt p).queues.map Prod.fst).Pairwise (· < ·) → tfind (s.partAt p).queues k = some q → tfind (s.partAt p).queues j = some r → (hubFinds s p j r).isSome = true →
    t ≤ j → (k < t ∨ j < k) → exec (.hostLaunchTake p k) s = .next s)

/-! ### Fabric -/

/-- R287, R390 to R393, R403, R404: a flit that is next in its pair's order is applied and counted: a read request answers with the bytes at
their homes, a write stores its bytes, an atomic adds and answers the old value, a reply ends the access that waited for it, an event
signal is under way to its counter, collective data and an abort reach their cluster, a void does nothing more. An acknowledgment frees
what it covers, once everything that its sender had sent before it is applied (log 27). A kind that is reserved is discarded and counted.
R390 names no field for the cluster, the sender and the direction of a collective flit, nor for the number and the outcome in a reply: the
places are the model's choice (log 28 and logs 25 and 27, DESIGN CHOICE). -/
def Obligations.FlitsApplied : Prop :=
  (∀ (s : State) (f : Flit), let q := s.pairAt f.dst f.src
    s.Inv → s.nextFlit f →
    (∀ ps, farPieces s f.part f.va.toNat f.len .load = some ps → s.absentChip f.src = false → isPast (q.send + 1) f.ack = false →
      ∃ t u, exec (.readRequest f) s = .next t ∧ t.tookFlit f ∧ (t.pairAt f.dst f.src).replay = [u] ∧ u.kind = 2 ∧ u.f.a = f.seq.setWidth 64 ∧
        u.f.data = (readPieces s ps).map Prod.fst ∧ u.f.op = 0 ∧ u.f.seq = q.send + 1 ∧ t.mem = s.mem) ∧
    (∀ pa, farPieces s f.part f.va.toNat f.data.length .store = some [(pa, f.data.length)] →
      ∃ t, exec (.write f) s = .next t ∧ t.tookFlit f ∧ t.mem = storeBytes s.mem pa f.data ∧ (t.pairAt f.dst f.src).replay = []) ∧
    (∀ pa, f.op = 1 → farPieces s f.part f.va.toNat 8 .atomic = some [(pa, 8)] → pa / 64 ∉ s.poison → s.absentChip f.src = false →
      isPast (q.send + 1) f.ack = false →
      ∃ t u, exec (.atomicRequest f) s = .next t ∧ t.tookFlit f ∧ loadNat t.mem pa 8 = (loadNat s.mem pa 8 + f.a.toNat) % 2 ^ 64 ∧
        (t.pairAt f.dst f.src).replay = [u] ∧ u.kind = 5 ∧ u.f.data = [] ∧ u.f.b = BitVec.ofNat 64 (loadNat s.mem pa 8)) ∧
    (∀ w c seq b i p, q.waiting = [w] → w.f.seq = f.a.setWidth 32 → w.who = some (.lword c seq 0 b) → f.op = 0 → f.poison = 0 →
      (s.ctxAt c).lane = [] → (s.ctxAt c).ql.items = [i] → i.seq = seq → i.parts = [p] → p.st = .out → i.fault = none →
      (w.kind = 1 → ∀ wd rd rs1 imm, i.ins = .ld wd rd rs1 imm →
        ∃ t j, exec (.readReply f) s = .next t ∧ t.tookFlit f ∧ (t.pairAt f.dst f.src).waiting = [] ∧ (t.ctxAt c).ql.items = [j] ∧
          j.phase = .complete ∧ j.val = extend wd (leNat f.data) ∧ j.fault = none) ∧
      (w.kind = 4 → ∃ t j, exec (.atomicReply f) s = .next t ∧ t.tookFlit f ∧ (t.pairAt f.dst f.src).waiting = [] ∧ (t.ctxAt c).ql.items = [j] ∧
        j.phase = .complete ∧ j.val = atomOld (w.f.len = 4) f.b ∧ j.fault = none)) ∧
    (let id := f.a.toNat; let e := eventOf 0 id
      id / 1024 % 64 ≠ 0 → (s.partAt f.part).formed = true → eventBad s f.part 0 id = none →
      ∃ t st, exec (.eventSignal f) s = .next t ∧ t.tookFlit f ∧ t.adds = s.adds ++ [⟨whoHardware, e.1, e.2, f.b, false, false, st, some (dieOf e.1)⟩]) ∧
    (f.op < 40 → (s.partAt f.part).owns f.op = true → (s.cluAt f.op).inbox = [] → ∃ t, exec (.collectiveData f) s = .next t ∧ t.tookFlit f ∧
      (t.cluAt f.op).inbox = [⟨f.cid.toNat, f.a.toNat / 2, f.a.getLsbD 0, flitBytes f⟩]) ∧
    (f.op < 40 → (s.partAt f.part).owns f.op = true → (s.cluAt f.op).aborted = [] → (s.engQueue f.op 5) = [] → ∃ t, exec (.collectiveAbort f) s = .next t ∧ t.tookFlit f ∧
      (t.cluAt f.op).aborted = [(f.cid.toNat, false)]) ∧
    (∃ t, exec (.void f) s = .next t ∧ t.tookFlit f ∧ t.mem = s.mem ∧ t.adds = s.adds ∧ t.clus = s.clus ∧ t.cx = s.cx)) ∧
  (∀ (s : State) (f : Flit), let q := s.pairAt f.dst f.src
    takesFlit s f = true → twf s.fabric.pairs {} = true → s.fabric.later = [] → (∀ u ∈ q.replay, u.who = none) →
    ∃ t, exec (.acknowledgmentOnly f) s = .next t ∧
      (t.pairAt f.dst f.src).replay = (if isPast f.seq q.applied then q.replay.filter (fun u => !isPast u.f.seq f.ack) else q.replay) ∧
      (t.pairAt f.dst f.src).applied = q.applied ∧ t.mem = s.mem) ∧
  (∀ (s : State) (kind : Nat), kind = 0 ∨ (11 ≤ kind ∧ kind < 256) → s.mgr.tripped = false →
    exec (.reservedKindFlit kind) s = .next { s with fabric := { s.fabric with dropped := s.fabric.dropped + 1 } })

/-- R382, R393, R395, R396, R399, R405, R406: a link reset trains the link, and the end of the training carries what was held; a link whose retrainings
have failed three times goes down, which is reported; a failed flit is counted, and its seventeenth failure resets the link; a time-out sends again; a checkpoint stores the
image and releases what it covers, when no scalar access to another module is under way; an identity entry reads as written, and an absent
one ends its pair; a spare takes the memory of a checkpoint under its new generation. The classes 405 and 406 of the controller's log are the
model's choice (log 37, DESIGN CHOICE), and so is what the image of a checkpoint holds, how its strands come back, and that a checkpoint
waits (log 33). -/
def Obligations.LinksAndIdentities : Prop :=
  ∀ (s : State), s.Inv → s.mgr.tripped = false → twf s.fabric.links {} = true → twf s.fabric.pairs {} = true →
    (∀ l < 18, let k := tget s.fabric.links l {}
      let withLink := fun (k : Link) => { s with fabric := { s.fabric with links := tset s.fabric.links l k {} } }
      exec (.linkReset l) s = .next (withLink { k with training := true, retries := 0, fails := 0 }) ∧
      (k.training = true → 3 ≤ k.fails → s.fabric.pairs = [] → exec (.linkDown l) s = .next { withLink { k with up := false, training := false, retries := 0 } with
        mgr := { s.mgr with log := s.mgr.log ++ [(406, l, linkPart s l)] } }) ∧
      (k.training = true → 3 ≤ k.fails → ∃ t, exec (.linkDown l) s = .next t ∧ (tget t.fabric.links l {}).up = false ∧ (406, l, linkPart s l) ∈ t.mgr.log) ∧
      (k.training = true → ∃ t, exec (.linkRetrainComplete l) s = .next t ∧
        (tget t.fabric.links l {}).up = true ∧ (tget t.fabric.links l {}).training = false ∧
        ∀ n p, (n, p) ∈ s.fabric.pairs → routed t.fabric (n % 4096) = true →
          ∃ q, (n, q) ∈ t.fabric.pairs ∧ q.replay.length = p.replay.length ∧ ∀ u ∈ q.replay, u.sent = true) ∧
      (k.retries < 16 → exec (.flitCrcFailure l) s = .next { withLink { k with retries := k.retries + 1 } with
        fabric := { s.fabric with links := tset s.fabric.links l { k with retries := k.retries + 1 } {}, crc := s.fabric.crc + 1 } }) ∧
      (16 ≤ k.retries → exec (.flitCrcFailure l) s = .next { s with
        fabric := { s.fabric with links := tset s.fabric.links l { k with training := true, retries := 0, fails := 0 } {}, crc := s.fabric.crc + 1 },
        mgr := { s.mgr with log := s.mgr.log ++ [(405, l, linkPart s l)] } })) ∧
    (∀ dst seq, dst < 4096 → ∃ t, exec (.retransmitTimeout dst seq) s = .next t ∧ t.mem = s.mem ∧ ∀ own, let p := s.pairAt own dst
      (t.pairAt own dst).replay = p.replay.map (fun u => if u.f.seq = seq then u.resend s.fabric own dst p else u)) ∧
    (∀ p < 16, (s.partAt p).formed = true → farWords s = false → ∃ t m, exec (.checkpointCommit p) s = .next t ∧ t.fabric.image = some m ∧ t.mem = s.mem ∧
      (∀ own n, (t.pairAt own n).released = (s.pairAt own n).applied) ∧
      (s.transit = [] → (∀ e ∈ s.clus, e.2.wbuf = []) → (∀ e ∈ s.contexts, e.2.resident = false) → m.mem = s.mem ∧ m.poison = s.poison)) ∧
    (∀ n e, n < 4096 → twf s.fabric.ids ⟨0, 0, 0x1F, 0x1F, 0, false⟩ = true →
      ∃ t, exec (.identityEntryWrite n e) s = .next t ∧ t.fabric.entry n = idFields e) ∧
    (∀ n e, n < 4096 → twf s.fabric.ids ⟨0, 0, 0x1F, 0x1F, 0, false⟩ = true →
      (∀ own, (s.pairAt own n).waiting = [] ∧ (s.pairAt own n).replay = []) →
      ∃ t, exec (.identityEntryWrite n e) s = .next t ∧ t.fabric.entry n = idFields e ∧
        ∀ own, (e.state % 4 = 0 → t.pairAt own n = {}) ∧ (e.state % 4 ≠ 0 → t.pairAt own n = s.pairAt own n)) ∧
    (∀ n gen m, n < 4096 → ∃ t, exec (.spareRestore n gen m) s = .next t ∧ t.fabric.chip = n ∧ t.fabric.gen = gen + 1 ∧
      (Memory.wf m.mem = true → m.strands = [] → ∀ a < Config.memBytes, tget t.mem a 0 = tget m.mem a 0))

/-! ### The host -/

/-- R407, R408, R414 to R418: an RDMA WRITE that a queue pair and a key of a partition cover is applied at the home of its line, an RDMA READ
is answered with the bytes at their homes, in packets of the path MTU, and any other request is answered with a NAK (that a WRITE above the
path MTU is refused is the model's choice, log 34); a port that goes down loses its queue pairs; a
mailbox write arms a table, which stays armed while it misses a shard, and of which the lowest missing shard is fetched next, by an RDMA READ
from the host or a read request to another module; a shard that has come is written and its present bit set; one whose destination faults,
one that has failed and one that is late are flagged. -/
def Obligations.HostAndWeights : Prop :=
  (∀ (s : State) (port qp : Nat) (key : BitVec 32) (va : Word), s.Inv → s.calm → port < 2 → s.eth.up port = true →
    let nak := fun (invalid : Bool) =>
      { s with eth := { s.eth with nakd := s.eth.nakd ++ [(port, qp, invalid)], naks := s.eth.naks + b2n (!invalid) } }
    (∀ bs p pa, rdmaPart s port qp key va.toNat bs.length = some p → farPieces s p va.toNat bs.length .store = some [(pa, bs.length)] →
      bs.length ≤ mtuOf s port qp → (s.partAt p).queues = [] → ¬((s.partAt p).wmail.toNat < va.toNat + bs.length ∧ va.toNat < (s.partAt p).wmail.toNat + 8) →
      ∃ t, exec (.rdmaWrite port qp key va bs) s = .next t ∧ t.mem = storeBytes s.mem pa bs ∧ t.eth = s.eth) ∧
    (∀ bs, rdmaPart s port qp key va.toNat bs.length = none → exec (.rdmaWrite port qp key va bs) s = .next (nak false)) ∧
    (∀ bs p, rdmaPart s port qp key va.toNat bs.length = some p → mtuOf s port qp < bs.length →
      exec (.rdmaWrite port qp key va bs) s = .next (nak true)) ∧
    (∀ n p pa, rdmaPart s port qp key va.toNat n = some p → farPieces s p va.toNat n .load = some [(pa, n)] → pa / 64 ∉ s.poison →
      exec (.rdmaRead port qp key va n) s = .next { s with eth := { s.eth with 
        sent := s.eth.sent ++ (packets (mtuOf s port qp) (loadBytes s.mem pa n)).map fun b => (port, qp, b) } }) ∧
    (∀ n, rdmaPart s port qp key va.toNat n = none → exec (.rdmaRead port qp key va n) s = .next (nak false)) ∧
    (qp < 4096 → exec (.rdmaInvalidRequest port qp) s = .next (nak true)) ∧
    exec (.unreliableTransportPacket port) s = .next { s with eth := { s.eth with discards := s.eth.discards + 1 } }) ∧
  (∀ (s : State) (port : Nat), s.Inv → port < 2 → ∃ t, exec (.ethernetPortDown port) s = .next t ∧ t.eth.up port = false ∧
    t.eth.up (1 - port) = s.eth.up (1 - port) ∧
    ∀ p < 16, (s.partAt p).formed = true → (t.partAt p).qps = (s.partAt p).qps.filter (fun e => e.1 != port)) ∧
  (∀ (s u : State) (p pa : Nat) (addr : Word), let q := s.partAt p
    s.Inv → s.calm → p < 16 → q.formed = true → (s.vstore hubPcl p {} q.wmail.toNat (toLE 8 addr.toNat)).1 = u → addr.toNat % 64 = 0 →
    addr.toNat < 2 ^ 48 → translate u hubPcl p addr.toNat .load = .ok pa → (∀ a ∈ q.armed, a.addr ≠ addr) → q.armed.length < 8 →
    let v := u.setPart p { q with armed := q.armed ++ [{ addr := addr }] }
    exec (.weightSetArm p addr) s = .next (v.disarm p q.armed.length) ∧
    ∀ w i, readTable v hubPcl p addr.toNat = .ok w → i < w.n → w.missing i = true → v.disarm p q.armed.length = v) ∧
  (∀ (s : State) (p t : Nat) (a : Armed) (w : WTable), let q := s.partAt p
    s.Inv → s.calm → p < 16 → q.armed[t]? = some a → readTable s hubPcl p a.addr.toNat = .ok w →
    (∀ i, a.fetches.length < 16 → (List.range w.n).find? (fun i => w.missing i && !a.flying.contains i) = some i →
      let u := s.setPart p { q with armed := setNth q.armed t { a with fetches := a.fetches ++ [{ shard := i }] } }
      ∃ v b, exec (.shardFetchStart p t) s = .next v ∧ v.mem = s.mem ∧ (v.partAt p).armed[t]? = some b ∧ b.addr = a.addr ∧
        b.flying = a.flying ++ [i] ∧
        ∀ d, readShard u p a w i = some d → d.ok = true →
          (d.kind ≠ 0 → v.eth = s.eth) ∧ (d.kind ≠ 1 → v.parts = u.parts) ∧
          (d.kind = 0 → ∀ e, (q.qps.find? fun e => e.2.1 = d.qp && s.eth.up e.1) = some e →
            v.eth.reads = s.eth.reads ++ [(e.1, d.qp, d.key, d.src, d.len)]) ∧
          (d.kind = 1 → ∀ chip va, (placeOf 0 (BitVec.ofNat 64 d.src)).map s.localPlace = some (.remote chip va) →
            let n := min (256 - d.src % 256) d.len
            (s.absentChip chip = true → v = u.onFetch p a.addr i fun x => x.fails 2) ∧
            (s.absentChip chip = false → s.kept < 2 ^ 20 →
              v = (u.sendTxn chip 1 { emptyFlit with va := BitVec.ofNat 64 va, len := n } (some (.shard p a.addr i))).onFetch p a.addr i
                fun x => { x with asked := x.asked + n }))) ∧
    (∀ i f d data, a.fetch? i = some f → readShard s p a w i = some d → d.ok = true → f.failed = none →
      let written := fun (ps : List (Nat × List (Byte × Bool))) =>
        (∀ u, writeShard p a.addr i d.dest ps s = (u, true) → exec (.shardFetchComplete p t i data) s = .next (u.shardPresent p t a i)) ∧
        (∀ u, writeShard p a.addr i d.dest ps s = (u, false) →
          exec (.shardFetchComplete p t i data) s = .next ((u.flagShard p a w 3 i).disarm p t))
      (d.kind = 0 → data.length = d.len → written (restOf f (data.map fun b => (b, false)))) ∧
      (d.kind = 1 → f.full d.len = true → f.got = [] → written []) ∧
      (d.kind = 2 → ∀ ps, farPieces s p d.src d.len .load = some ps → written (restOf f (readPieces s ps)))) ∧
    (∀ i f d reason, a.fetch? i = some f → readShard s p a w i = some d →
      let mayFail := f.failed = some reason ∨ (f.failed = none ∧ d.kind = 0 ∧ (reason = 2 ∨ (reason = 1 ∧ 7 ≤ f.tries)))
      (mayFail → exec (.shardFetchFailure p t i reason []) s = .next ((s.flagShard p a w reason i).disarm p t)) ∧
      (¬mayFail → exec (.shardFetchFailure p t i reason []) s = .next s)) ∧
    (w.tmo ≠ 0 → w.n = 1 → w.present = 0 → w.flagged = 0 →
      exec (.shardTimeout p t) s = .next ((s.flagShard p a w 4 0).disarm p t)))

/-! ### Monitors, timing errors, resets -/

/-- R363 to R365, R380, R383, R385, R387: a snapshot ends, and says whether it failed; a periodic sample of an enabled monitor counts its
source; a mismatch that is made good freezes the sub-core, one that is not poisons what is written, is
cause 0x1D for its word and is logged; a reset of a
partition of one idle cluster clears its contexts and its cluster, and keeps memory and what forms the partition. That the log's class is
385 is the model's choice (log 37, DESIGN CHOICE), and which fields of a partition and of a cluster a reset keeps is its reading of R380
(log 31, DEDUCED). -/
def Obligations.MonitorsAndResets : Prop :=
  (∀ (s : State) (pcl : Nat), let cl := s.cluAt pcl
    s.Inv → pcl < 40 → s.mgr.tripped = false →
    (bitOf cl.monsnap 0 = true → let ok := snapOk s pcl ((s.partOf pcl).getD 0) (bitsOf cl.monsnap 8 40 * 256) cl.snap
      ∃ t, exec (.monitorSnapshotDone pcl) s = .next t ∧ (t.cluAt pcl).snap = [] ∧
        (t.cluAt pcl).monsnap = putBits cl.monsnap 0 2 (if ok then 0 else 2) ∧ (ok = false → t.mem = s.mem)) ∧
    (∀ k m, cl.mons = [(k, m)] → bitOf m.cfg 0 = true → bitsOf m.cfg 48 8 = 8 → (∀ e ∈ s.contexts, storeWaits s e.1 e.2 = false) →
      cl.wbuf.length < 2 ^ 32 →
      ∃ t m', exec (.monitorPeriodicSample pcl) s = .next t ∧ (t.cluAt pcl).mons = [(k, m')] ∧ m'.count = m.count + 1 ∧
        m'.sum = m.sum + BitVec.ofNat 64 cl.wbuf.length ∧ t.cx = s.cx ∧ t.mem = s.mem)) ∧
  (∀ (s : State) (c : CtxLoc) (en : Eng), let x := s.ctxAt c; let n := BitVec.ofNat 64 (replayCycles x en)
    s.Inv → c.ok = true → replayCycles x en ≠ 0 → s.mgr.tripped = false → x.resident = true → x.halt = none → x.debug = false →
    (∃ t, exec (.timingError c en) s = .next t ∧ t.ctxAt c = { x with cycles := x.cycles + n, freezecyc := x.freezecyc + n } ∧
      t.mgr.replayed = s.mgr.replayed + 1 ∧ t.mem = s.mem) ∧
    (∀ i r u, (x.queue en).items = i :: r → (match en with | .v => spoilV c s | _ => spoilM c s) = some u →
      ∃ t, exec (.timingReplayFailure c en) s = .next t ∧ (385, ckey c, x.part) ∈ t.mgr.log) ∧
    (∀ i r j q u, (x.queue en).items = i :: r → (match en with | .v => spoilV c s | _ => spoilM c s) = some u →
      x.ql.items = j :: q → (j.parts.any fun p => p.flying) = true →
      ∃ t, exec (.timingReplayFailure c en) s = .next t ∧ t.mgr.log = s.mgr.log ++ [(385, ckey c, x.part)] ∧
        (t.ctxAt c).ecause = 0x1D ∧ (t.ctxAt c).halt = some ⟨.fault, i.pc, some (en, i.seq, i.pc)⟩ ∧ (t.ctxAt c).pc = x.pc ∧ t.mem = s.mem)) ∧
  (∀ (s : State) (p pcl : Nat), let q := s.partAt p
    s.Inv → s.calm → p < 16 → q.formed = true →
    (∃ t, exec (.partitionReset p) s = .next t ∧ (t.partAt p).formed = true ∧ (t.partAt p).launches = [] ∧
      ∀ k ∈ q.list, (t.cluAt k).engines = [] ∧ (t.cluAt k).wbuf = [] ∧ ∀ c, c.ok = true → c.pcl = k → (t.ctxAt c).resident = false) ∧
    (q.list = [pcl] → (s.cluAt pcl).wbuf = [] → s.engQueue pcl 5 = [] →
    ∃ t, exec (.partitionReset p) s = .next t ∧ t.mem = s.mem ∧ t.cluAt pcl = (s.cluAt pcl).reset ∧ t.partAt p = q.reset ∧
      (∀ c, c.ok = true → c.pcl = pcl → (t.ctxAt c).resident = false) ∧ ∀ l ∈ t.icache, l.part ≠ p))

/-! ### Power, boot, management -/

/-- R420 to R422, R424, R425, R428: a cap that covers the floors stands, clamped to the part's range, and gives each cluster of the one
partition its grant; a request without authority and a cap below the floors are refused; a floor never lies below the idle shares; a mean
above the cap is recorded; a bias code is clamped unless software holds it; a trip loses the clusters' state and keeps memory. A cap forced
below the floors scales each floor's part above its idle share (R420, step 4). That a floor is accepted at any height is the model's
choice (log 32, DEDUCED), and so is that recovery from a trip puts the standing grants in force at once (log 30, DEDUCED). -/
def Obligations.PowerControl : Prop :=
  ∀ s : State, s.Inv →
    (∀ cap force p, let c := max s.mgr.idle (min Config.tdp cap)
      s.mgr.halted = false → formedParts s = [p] → floorSum s + s.idleShare * looseClusters s ≤ c →
      ∃ t, exec (.capRequest cap force true) s = .next t ∧ t.mgr.cap = c ∧ t.mgr.capReply = (if c = cap then 0 else 1) ∧ t.mem = s.mem ∧
        ∀ k ∈ (s.partAt p).list, (t.cluAt k).granted = grantOf s p (allowance s c p)) ∧
    (∀ cap force, let c := max s.mgr.idle (min Config.tdp cap)
      s.mgr.halted = false → floorSum s + s.idleShare * looseClusters s ≤ c →
      ∃ t, exec (.capRequest cap force true) s = .next t ∧ t.mgr.cap = c ∧ t.mgr.capReply = (if c = cap then 0 else 1)) ∧
    (∀ cap, s.mgr.halted = false → exec (.capRequest cap true false) s = .next { s with mgr := { s.mgr with capReply := 2 } }) ∧
    (∀ cap auth, s.mgr.halted = false → max s.mgr.idle (min Config.tdp cap) < floorSum s + s.idleShare * looseClusters s →
      exec (.capRequest cap false auth) s = .next { s with mgr := { s.mgr with capReply := 2 } }) ∧
    (∀ cap, let c := max s.mgr.idle (min Config.tdp cap); let loose := s.idleShare * looseClusters s
      s.mgr.halted = false → c < floorSum s + loose →
      ∃ t, exec (.capRequest cap true true) s = .next t ∧ t.mgr.cap = c ∧ t.mgr.capReply = 3 ∧ t.mem = s.mem ∧
        ∀ p ∈ formedParts s, let q := s.partAt p; let idle := q.list.length * s.idleShare
          (t.partAt p).floor = (if floorSum s = idleSum s then q.floor
            else idle + (q.floor - idle) * (c - loose - idleSum s) / (floorSum s - idleSum s)) ∧
          ((t.partAt p).floor < q.floor → (t.partAt p).fchg = true)) ∧
    (∀ cap force auth, s.mgr.halted = true → exec (.capRequest cap force auth) s = .next s) ∧
    (∀ p watts, p < 16 → (s.partAt p).formed = true → s.mgr.halted = false →
      ∃ t, exec (.floorRequest p watts) s = .next t ∧ (t.partAt p).floor = max watts ((s.partAt p).list.length * s.idleShare) ∧ t.mem = s.mem) ∧
    (∀ mean below, s.mgr.tripped = false → s.mgr.halted = false → s.mgr.cap < mean →
      ∃ t, exec (.powerMeasurement mean below) s = .next t ∧ t.mgr.excess = some mean ∧ t.mem = s.mem) ∧
    (∀ pcl code, pcl < 40 → s.mgr.tripped = false → let cl := s.cluAt pcl
      (cl.biasman = false → exec (.biasSelection pcl code) s = .next (s.setClu pcl { cl with biascode := clampBias code.toNat })) ∧
      (cl.biasman = true → exec (.biasSelection pcl code) s = .next s)) ∧
    (∀ pcl temp, pcl < 40 → 115 ≤ temp.toNat → s.mgr.tripped = false → ∃ t, exec (.thermalTrip pcl temp) s = .next t ∧
      t.mgr.tripped = true ∧ t.mem = s.mem ∧ t.poison = s.poison ∧ t.parts = s.parts ∧ t.others = [] ∧ t.cx.resident = false ∧
      t.transit = [] ∧ ∀ l < 18, (tget t.fabric.links l {}).up = false) ∧
    (∀ hottest, s.mgr.tripped = true → hottest.toNat < 95 → ∃ t, exec (.tripRecovery hottest) s = .next t ∧ t.mgr.tripped = false) ∧
    (∀ hottest, s.mgr.tripped = true → hottest.toNat < 95 → formedParts s = [] → s.mgr.stored = [] →
      ∃ t, exec (.tripRecovery hottest) s = .next t ∧ t.mgr = { s.mgr with tripped := false } ∧ t.mem = s.mem ∧ t.parts = s.parts ∧
        t.cx = s.cx ∧ ∀ k < 40, t.cluAt k = { s.cluAt k with grant := min (s.cluAt k).grantNext (s.cluAt k).granted }) ∧
    (∀ pcl temp, pcl < 40 → 115 ≤ temp.toNat → exec (.ageTick pcl temp) s = (if s.mgr.tripped then .next s else exec (.thermalTrip pcl temp) s)) ∧
    (∀ hottest, 95 ≤ hottest.toNat → exec (.tripRecovery hottest) s = .next s)

/-- R3, R39 to R42, R243, R244, R347, R359, R362, R376, R429 to R431: boot passes its last stage with the links trained and both Ethernet ports up, ends
at stage 4 where a later image does not verify, or halts without a verified image until a recovery; the rollback counter rises only where an
image asks for it; a report has its layout, is signed and counted; a partition is formed with its clusters, pages and root table, and its
floor is the idle shares; expert enable and trap vector are set; an invalidation leaves no translation of its range; a scrubbed page reads
zero; capture, replay and dump do as asked; a fetched line is held for its launch, in the place of another where
the cache is full. A module that has tripped or that is halted does none of these. That an image of stage 4 that does not verify ends the boot
there, and that an image names the value the rollback counter is raised to, are the model's choices (log 48, DESIGN CHOICE). -/
def Obligations.ManagementActions : Prop :=
  ∀ s : State, s.Inv →
    (let fit := fun (i : FwImage) => i.ecdsa = true ∧ i.lms = true ∧ s.mgr.rollback ≤ i.version;
     let boots := fun (main recovery : Option FwImage) i => fit i ∧ (main = some i ∨ (∀ j, main = some j → ¬ fit j) ∧ recovery = some i);
      (∀ main recovery parts i, boots main recovery i → i.raise = none → (∀ j ∈ parts.images, fit j ∧ j.raise = none) →
        ∃ t, exec (.powerUp main recovery parts) s = .next t ∧ t.mgr.stage = 6 ∧ t.mgr.cap = Config.tdp ∧ t.eth.up 0 = true ∧ t.eth.up 1 = true) ∧
      (∀ main recovery parts i, boots main recovery i → s.mgr.stored = [] → i.raise = none → (∀ j ∈ parts.images, fit j ∧ j.raise = none) →
        ∃ t, exec (.powerUp main recovery parts) s = .next t ∧ t.mgr.stage = 6 ∧ t.mem = [] ∧ t.parts = [] ∧ t.mgr.keygen = s.mgr.keygen ∧
          t.mgr.idle = s.mgr.idle ∧ t.mgr.rollback = s.mgr.rollback ∧ t.mgr.version = i.version ∧
          t.mgr.bootLog = i.digest :: parts.images.map FwImage.digest ∧ ∀ l < 18, (tget t.fabric.links l {}).open? = !parts.links.contains l) ∧
      (∀ main recovery parts i v, boots main recovery i → s.mgr.stored = [] → i.raise = some v → s.mgr.rollback < v → parts.images = [] →
        ∃ t, exec (.powerUp main recovery parts) s = .next t ∧ t.mgr.stage = 6 ∧ t.mgr.rollback = v) ∧
      (∀ main recovery parts i, boots main recovery i → (∃ j ∈ parts.images, j.ecdsa = false ∨ j.lms = false) →
        ∃ t, exec (.powerUp main recovery parts) s = .next t ∧ t.mgr.stage = 4 ∧ t.mgr.bootFail = true ∧ t.mgr.dead ≠ [] ∧ t.parts = []) ∧
      (∀ main recovery parts, (∀ i, ¬ boots main recovery i) →
        ∃ t, exec (.powerUp main recovery parts) s = .next t ∧ t.mgr.halted = true ∧ t.mgr.stage = 2 ∧ t.parts = []) ∧
      (∀ k : Recovery, s.mgr.halted = true → (fit k.image → k.image.raise = none → (∀ j ∈ k.parts.images, fit j ∧ j.raise = none) → s.mgr.stored = [] →
          ∃ t, exec (.recoveryCommand k) s = .next t ∧ t.mgr.halted = false ∧ t.mgr.stage = 6) ∧
        (¬ fit k.image → exec (.recoveryCommand k) s = .next s))) ∧
    (∀ nonce, s.mgr.tripped = false → s.mgr.halted = false → ∃ t r g, exec (.attestationRequest nonce) s = .next t ∧
      t.mgr.reports = s.mgr.reports ++ [r ++ Config.signatures g r] ∧ g = t.mgr.keygen ∧ r.length = 392 ∧ r.take 4 = toLE 4 1 ∧
      (r.drop 16).take 32 = toLE 32 nonce.toNat ∧ (r.drop 336).take 8 = toLE 4 s.mgr.version.toNat ++ toLE 4 s.mgr.rollback.toNat ∧
      (s.mgr.signed < 2 ^ 15 → t.mgr.signed = s.mgr.signed + 1 ∧ t.mgr.keygen = s.mgr.keygen) ∧
      (2 ^ 15 ≤ s.mgr.signed → t.mgr.signed = 1 ∧ t.mgr.keygen = s.mgr.keygen + 1)) ∧
    (∀ p f, p < 16 → formOk s p f = true → formFaulty f s.mgr = false → s.mgr.tripped = false → s.mgr.halted = false → s.mgr.bootFail = false →
      ∃ t, exec (.partitionForm p f) s = .next t ∧ let q := t.partAt p
        q.formed = true ∧ q.clusters = f.clusters ∧ q.pages = f.pages ∧ q.root = f.root ∧ q.launches = [] ∧ q.tvec = (s.partAt p).tvec ∧
        q.floor = q.list.length * s.idleShare) ∧
    (∀ p f, p < 16 → formFaulty f s.mgr = true → exec (.partitionForm p f) s = .next s) ∧
    (s.mgr.tripped = true ∨ s.mgr.halted = true → ∀ p, p < 16 → (∀ b, exec (.expertEnableSet p b) s = .next s) ∧
      (∀ a, exec (.partitionTrapVectorSet p a) s = .next s) ∧ (∀ lo hi, exec (.translationInvalidation p lo hi) s = .next s) ∧
      (∀ b, exec (.replayCaptureStart p b) s = .next s) ∧ exec (.partitionReplay p) s = .next s ∧ exec (.partitionDump p) s = .next s ∧
      (∀ f, exec (.partitionForm p f) s = .next s) ∧ ∀ n, exec (.attestationRequest n) s = .next s) ∧
    (∀ p, p < 16 → s.mgr.tripped = false → s.mgr.halted = false → let q := s.partAt p
      (∀ b, exec (.expertEnableSet p b) s = .next (s.setPart p { q with expert := b })) ∧
      (∀ a, exec (.partitionTrapVectorSet p a) s = .next (s.setPart p { q with tvec := putBits a 0 2 0 })) ∧
      (∀ lo hi, ∃ t, exec (.translationInvalidation p lo hi) s = .next t ∧ t.mem = s.mem ∧ t.cx = s.cx ∧
        ∀ e ∈ t.tlb, e ∈ s.tlb ∧ (e.2.1 = p → hi.toNat ≤ e.2.2.1 ∨ e.2.2.1 + e.2.2.2.1 ≤ lo.toNat)) ∧
      (q.formed = true → (∀ b, exec (.replayCaptureStart p b) s = .next (s.setPart p { q with capture := { on := true, buffer := b } })) ∧
        (q.capture.replay = none → exec (.partitionReplay p) s = .next
          (s.setPart p { q with capture := { q.capture with on := false, replay := some q.capture.log } })) ∧
        (q.capture.replay = some [] → exec (.partitionReplay p) s = .next (s.setPart p { q with capture := { q.capture with replay := none } }))) ∧
      (∃ t, exec (.partitionDump p) s = .next t ∧ t.parts = s.parts ∧ ∀ c, t.ctxAt c = s.ctxAt c) ∧
      (∀ u w, s.others = [] → s.cx.resident = true → s.cx.part = p → s.cx.waits = [(u, w)] →
        (s.cluAt s.focus.pcl).waitlog.length < (s.cluAt s.focus.pcl).waitcap →
        ∃ t e, exec (.partitionDump p) s = .next t ∧ (t.cluAt s.focus.pcl).waitlog = (s.cluAt s.focus.pcl).waitlog ++ [e] ∧
          e.ended = 3 ∧ e.kind = w.1 ∧ e.obj = w.2 ∧ e.loc = ctxloc s.focus ∧ t.cx = s.cx)) ∧
    (∀ page, page < Config.memBytes / 65536 → s.mgr.tripped = false → s.mgr.halted = false → (∀ p ∈ formedParts s, page ∉ (s.partAt p).pages) →
      ∃ t, exec (.pageScrub page) s = .next t ∧ (∀ a, a / 65536 = page → tget t.mem a 0 = 0) ∧
        (∀ a, a / 65536 ≠ page → tget t.mem a 0 = tget s.mem a 0) ∧ ∀ u ∈ t.poison, u / 1024 ≠ page) ∧
    (∀ c va pa, let x := s.ctxAt c
      c.ok = true → x.resident = true → va.toNat < 2 ^ 48 → cachedLine s c x (va.toNat / 64) = none →
      translate s c.pcl x.part (va.toNat / 64 * 64) .fetch = .ok pa → pa / 64 ∉ s.poison →
      let core := c.pcl * 8 + c.sub / 16
      let l : ILine := ⟨core, x.part, x.launchid.toNat, va.toNat / 64, loadBytes s.mem pa 64⟩
      ((s.icache.filter fun e => e.core = core).length < 2048 →
        exec (.instructionLineFetch c va) s = .next { s with icache := s.icache ++ [l] }) ∧
      ((s.icache.filter fun e => e.core = core).length = 2048 →
        ∃ t, exec (.instructionLineFetch c va) s = .next t ∧ l ∈ t.icache ∧ t.icache.length = s.icache.length ∧ t.mem = s.mem))

/-! ### Words, steps, reset -/

/-- R39 to R54: words written out from their encodings decode to the instructions they stand for. -/
def Obligations.DecodedWords : Prop :=
  decode [0xFFF4C504] = .ok (.addi 5 6 (-3), []) ∧ decode [0x0014411C] = .ok (.shli 1 2 5, []) ∧
  decode [0xFF907E30] = .ok (.beq 3 4 (-2), []) ∧ decode [0x80404150] = .ok (.ld .w 1 2 16, []) ∧
  decode [0x81A44454] = .ok (.st .w 9 2 100, []) ∧ decode [0x0C906760] = .ok (.amoAdd false .device true 7 3 4, []) ∧
  decode [0x24000068] = .ok (.fence 4 .device, []) ∧ decode [0x02000470] = .ok (.mfs 0x020 4, []) ∧
  decode [0x0C80007C] = .ok (.toktake .v .e, []) ∧ decode [0x0318A494] = .ok (.mclass 3 4 5 6, []) ∧
  decode [0x8000C080] = .ok (.engCopy ⟨true, false, 0, 6, 0⟩, []) ∧
  decode [0x01403002, 0x00418214, 0x00000228] =
    .ok (.vadd ⟨.bf16, 0, .rne, false, 2, 1, 0, 20, 1, 12, 1, 40, 1, false, 0⟩, []) ∧
  decode [0x01485403, 0x05030040, 0x00020078, 0xFF, 0, 0] =
    .ok (.mma ⟨4, 5, false, 2, 2, 1, false, false, false, 64, 3, 5, 120, 2, 15, 15⟩, [])

/-- R39 to R55: every word that its encoding accepts decodes from its encoding, with every field at every value, whatever follows it. -/
def Obligations.EncodeDecode : Prop :=
  ∀ (i : Instr) (r : List Parcel), i.isWord = true → i.wf = true → decode (encode i ++ r) = .ok (i, r)

/-- R40, R41, and log 2: a step is the effect of the next event of the schedule, or of the word at the pc of the context that the schedule
names; with an empty schedule and no event of the machine's own that is enabled, of the word at the pc of the focused context. The
word is that which its parcels decode to, read through the translation of the pc, or from the core's instruction cache, which takes the
lines of the word; a fetch or an encoding that faults is the step's fault. -/
def Obligations.StepRunsDecoded : Prop :=
  (∀ (s : State) (e : Instr) (r : List Move), s.agenda = .event e :: r → step s = exec e { s with agenda := r }) ∧
  (∀ (s : State) (c : CtxLoc) (r : List Move), s.agenda = .issue c :: r → c.ok = true →
    let t := { s with agenda := r }.refocus c
    let u := t.fetchLines c t.cx.pc
    t.canIssue = true →
      (∀ i, fetchWord u c t.cx.pc = .ok i → step s = exec i u) ∧
      (∀ e v, fetchWord u c t.cx.pc = .error (e, v) → step s = .next (u.fault e v))) ∧
  (∀ s : State, let u := s.fetchLines s.focus s.cx.pc
    s.agenda = [] → ownEvent s = none → s.canIssue = true →
    (∀ i, fetchWord u s.focus s.cx.pc = .ok i → step s = exec i u) ∧
    (∀ e v, fetchWord u s.focus s.cx.pc = .error (e, v) → step s = .next (u.fault e v))) ∧
  (∀ (s : State) (c : CtxLoc) (va : Word), let t := s.fetchLines c va
    t = { s with icache := t.icache, mgr := { s.mgr with log := t.mgr.log }, free := t.free }) ∧
  (∀ (s : State) (c : CtxLoc) (va : Word) (p : Parcel) (ps q : List Parcel) (i : Instr), let x := s.ctxAt c
    fetchParcel s c x va = .ok p → fetchParcels s c x (wordParcels p) va = .ok ps → decode ps = .ok (i, q) → fetchWord s c va = .ok i) ∧
  (∀ (s : State) (c : CtxLoc) (va : Word) (pa : Nat), let x := s.ctxAt c
    va.toNat < 2 ^ 48 → cachedLine s c x (va.toNat / 64) = none → translate s c.pcl x.part va.toNat .fetch = .ok pa → pa / 64 ∉ s.poison →
    fetchParcel s c x va = .ok (BitVec.ofNat 32 (loadNat s.mem pa 4)))

/-- After reset, as the model has it (log 4: boot has passed stage 5): memory reads zero, no partition is formed and no strand runs; the
registers for which R10 to R18, R195, R198, R301, R304, R398, R423 give reset values hold them; and the invariant holds. -/
def Obligations.ResetValues : Prop :=
  State.reset.Inv ∧ State.reset.mem = [] ∧ State.reset.parts = [] ∧ State.reset.cx.resident = false ∧
  (∀ c, let x := State.reset.ctxAt c
    x.vshape = 0xFFF ∧ x.fpctl = 0 ∧ x.fpflags = 0 ∧ x.slots = 0xFF ∧ x.pdeadline = 16384 ∧ x.evspin = 4096 ∧ x.dbgctl = 0 ∧
    ∀ r, x.rg r = 0) ∧
  (∀ p k, (State.reset.subAt p k).freezewd = 0x0800 ∧ (State.reset.subAt p k).account = 0) ∧
  (∀ p, let cl := State.reset.cluAt p
    cl.moss = [] ∧ (∀ n, (cl.rg n).cls = 0 ∧ (cl.rg n).valid = false) ∧ (∀ n, (cl.counter n).val = 0) ∧ cl.deficit = 0) ∧
  (∀ l, (tget State.reset.fabric.links l {}).up = false) ∧
  (∀ p, (State.reset.partAt p).pwrevt = 0x03FF ∧ (State.reset.partAt p).expert = false)

/-- Every step keeps the invariant: the canonical form of device memory and of the tables of contexts, sub-cores, clusters and partitions. -/
def Obligations.StepKeepsInvariant : Prop := ∀ s t : State, s.Inv → step s = .next t → t.Inv
end

