-- ==== Sys2Proof/Laws/State.lean ====
section
/-!
SUPPORT. What each update of the state leaves in each field: one lemma for each field and update (written by a script from the
fields of `State` and `Context`).
-/
namespace Sys2Proof.Machine

theorem State.ctxAt_at_focus (s : State) : s.ctxAt s.focus = s.cx := by simp [State.ctxAt]
theorem State.setCtx_at_focus (s : State) (x : Context) : s.setCtx s.focus x = { s with cx := x } := by simp [State.setCtx]
theorem State.onCtx_at_focus (s : State) (f : Context → Context) : s.onCtx s.focus f = s.onCx f := by
  simp [State.onCtx, State.setCtx, State.ctxAt, State.onCx]
theorem State.refocus_self (s : State) : s.refocus s.focus = s := by simp [State.refocus]

@[simp] theorem State.onCx_focus (s : State) (g : Context → Context) : (s.onCx g).focus = s.focus := rfl
@[simp] theorem State.onCx_others (s : State) (g : Context → Context) : (s.onCx g).others = s.others := rfl
@[simp] theorem State.onCx_subs (s : State) (g : Context → Context) : (s.onCx g).subs = s.subs := rfl
@[simp] theorem State.onCx_clus (s : State) (g : Context → Context) : (s.onCx g).clus = s.clus := rfl
@[simp] theorem State.onCx_parts (s : State) (g : Context → Context) : (s.onCx g).parts = s.parts := rfl
@[simp] theorem State.onCx_mem (s : State) (g : Context → Context) : (s.onCx g).mem = s.mem := rfl
@[simp] theorem State.onCx_poison (s : State) (g : Context → Context) : (s.onCx g).poison = s.poison := rfl
@[simp] theorem State.onCx_failing (s : State) (g : Context → Context) : (s.onCx g).failing = s.failing := rfl
@[simp] theorem State.onCx_rung (s : State) (g : Context → Context) : (s.onCx g).rung = s.rung := rfl
@[simp] theorem State.onCx_covers (s : State) (g : Context → Context) : (s.onCx g).covers = s.covers := rfl
@[simp] theorem State.onCx_stamps (s : State) (g : Context → Context) : (s.onCx g).stamps = s.stamps := rfl
@[simp] theorem State.onCx_farStamps (s : State) (g : Context → Context) : (s.onCx g).farStamps = s.farStamps := rfl
@[simp] theorem State.onCx_clocks (s : State) (g : Context → Context) : (s.onCx g).clocks = s.clocks := rfl
@[simp] theorem State.onCx_transit (s : State) (g : Context → Context) : (s.onCx g).transit = s.transit := rfl
@[simp] theorem State.onCx_adds (s : State) (g : Context → Context) : (s.onCx g).adds = s.adds := rfl
@[simp] theorem State.onCx_arrivals (s : State) (g : Context → Context) : (s.onCx g).arrivals = s.arrivals := rfl
@[simp] theorem State.onCx_launching (s : State) (g : Context → Context) : (s.onCx g).launching = s.launching := rfl
@[simp] theorem State.onCx_waiters (s : State) (g : Context → Context) : (s.onCx g).waiters = s.waiters := rfl
@[simp] theorem State.onCx_migrations (s : State) (g : Context → Context) : (s.onCx g).migrations = s.migrations := rfl
@[simp] theorem State.onCx_icache (s : State) (g : Context → Context) : (s.onCx g).icache = s.icache := rfl
@[simp] theorem State.onCx_tlb (s : State) (g : Context → Context) : (s.onCx g).tlb = s.tlb := rfl
@[simp] theorem State.onCx_fabric (s : State) (g : Context → Context) : (s.onCx g).fabric = s.fabric := rfl
@[simp] theorem State.onCx_eth (s : State) (g : Context → Context) : (s.onCx g).eth = s.eth := rfl
@[simp] theorem State.onCx_mgr (s : State) (g : Context → Context) : (s.onCx g).mgr = s.mgr := rfl
@[simp] theorem State.onCx_agenda (s : State) (g : Context → Context) : (s.onCx g).agenda = s.agenda := rfl
@[simp] theorem State.onCx_free (s : State) (g : Context → Context) : (s.onCx g).free = s.free := rfl
@[simp] theorem State.onCx_uid (s : State) (g : Context → Context) : (s.onCx g).uid = s.uid := rfl
@[simp] theorem State.onCx_cx (s : State) (g : Context → Context) : (s.onCx g).cx = g s.cx := rfl
@[simp] theorem State.setCtx_focus (s : State) (c : CtxLoc) (x : Context) : (s.setCtx c x).focus = s.focus := by unfold State.setCtx; split <;> rfl
@[simp] theorem State.onCtx_focus (s : State) (c : CtxLoc) (g : Context → Context) : (s.onCtx c g).focus = s.focus := by simp [State.onCtx]
@[simp] theorem State.setCtx_subs (s : State) (c : CtxLoc) (x : Context) : (s.setCtx c x).subs = s.subs := by unfold State.setCtx; split <;> rfl
@[simp] theorem State.onCtx_subs (s : State) (c : CtxLoc) (g : Context → Context) : (s.onCtx c g).subs = s.subs := by simp [State.onCtx]
@[simp] theorem State.setCtx_clus (s : State) (c : CtxLoc) (x : Context) : (s.setCtx c x).clus = s.clus := by unfold State.setCtx; split <;> rfl
@[simp] theorem State.onCtx_clus (s : State) (c : CtxLoc) (g : Context → Context) : (s.onCtx c g).clus = s.clus := by simp [State.onCtx]
@[simp] theorem State.setCtx_parts (s : State) (c : CtxLoc) (x : Context) : (s.setCtx c x).parts = s.parts := by unfold State.setCtx; split <;> rfl
@[simp] theorem State.onCtx_parts (s : State) (c : CtxLoc) (g : Context → Context) : (s.onCtx c g).parts = s.parts := by simp [State.onCtx]
@[simp] theorem State.setCtx_mem (s : State) (c : CtxLoc) (x : Context) : (s.setCtx c x).mem = s.mem := by unfold State.setCtx; split <;> rfl
@[simp] theorem State.onCtx_mem (s : State) (c : CtxLoc) (g : Context → Context) : (s.onCtx c g).mem = s.mem := by simp [State.onCtx]
@[simp] theorem State.setCtx_poison (s : State) (c : CtxLoc) (x : Context) : (s.setCtx c x).poison = s.poison := by unfold State.setCtx; split <;> rfl
@[simp] theorem State.onCtx_poison (s : State) (c : CtxLoc) (g : Context → Context) : (s.onCtx c g).poison = s.poison := by simp [State.onCtx]
@[simp] theorem State.setCtx_failing (s : State) (c : CtxLoc) (x : Context) : (s.setCtx c x).failing = s.failing := by unfold State.setCtx; split <;> rfl
@[simp] theorem State.onCtx_failing (s : State) (c : CtxLoc) (g : Context → Context) : (s.onCtx c g).failing = s.failing := by simp [State.onCtx]
@[simp] theorem State.setCtx_rung (s : State) (c : CtxLoc) (x : Context) : (s.setCtx c x).rung = s.rung := by unfold State.setCtx; split <;> rfl
@[simp] theorem State.onCtx_rung (s : State) (c : CtxLoc) (g : Context → Context) : (s.onCtx c g).rung = s.rung := by simp [State.onCtx]
@[simp] theorem State.setCtx_covers (s : State) (c : CtxLoc) (x : Context) : (s.setCtx c x).covers = s.covers := by unfold State.setCtx; split <;> rfl
@[simp] theorem State.onCtx_covers (s : State) (c : CtxLoc) (g : Context → Context) : (s.onCtx c g).covers = s.covers := by simp [State.onCtx]
@[simp] theorem State.setCtx_stamps (s : State) (c : CtxLoc) (x : Context) : (s.setCtx c x).stamps = s.stamps := by unfold State.setCtx; split <;> rfl
@[simp] theorem State.onCtx_stamps (s : State) (c : CtxLoc) (g : Context → Context) : (s.onCtx c g).stamps = s.stamps := by simp [State.onCtx]
@[simp] theorem State.setCtx_farStamps (s : State) (c : CtxLoc) (x : Context) : (s.setCtx c x).farStamps = s.farStamps := by unfold State.setCtx; split <;> rfl
@[simp] theorem State.onCtx_farStamps (s : State) (c : CtxLoc) (g : Context → Context) : (s.onCtx c g).farStamps = s.farStamps := by simp [State.onCtx]
@[simp] theorem State.setCtx_clocks (s : State) (c : CtxLoc) (x : Context) : (s.setCtx c x).clocks = s.clocks := by unfold State.setCtx; split <;> rfl
@[simp] theorem State.onCtx_clocks (s : State) (c : CtxLoc) (g : Context → Context) : (s.onCtx c g).clocks = s.clocks := by simp [State.onCtx]
@[simp] theorem State.setCtx_transit (s : State) (c : CtxLoc) (x : Context) : (s.setCtx c x).transit = s.transit := by unfold State.setCtx; split <;> rfl
@[simp] theorem State.onCtx_transit (s : State) (c : CtxLoc) (g : Context → Context) : (s.onCtx c g).transit = s.transit := by simp [State.onCtx]
@[simp] theorem State.setCtx_adds (s : State) (c : CtxLoc) (x : Context) : (s.setCtx c x).adds = s.adds := by unfold State.setCtx; split <;> rfl
@[simp] theorem State.onCtx_adds (s : State) (c : CtxLoc) (g : Context → Context) : (s.onCtx c g).adds = s.adds := by simp [State.onCtx]
@[simp] theorem State.setCtx_arrivals (s : State) (c : CtxLoc) (x : Context) : (s.setCtx c x).arrivals = s.arrivals := by unfold State.setCtx; split <;> rfl
@[simp] theorem State.onCtx_arrivals (s : State) (c : CtxLoc) (g : Context → Context) : (s.onCtx c g).arrivals = s.arrivals := by simp [State.onCtx]
@[simp] theorem State.setCtx_launching (s : State) (c : CtxLoc) (x : Context) : (s.setCtx c x).launching = s.launching := by unfold State.setCtx; split <;> rfl
@[simp] theorem State.onCtx_launching (s : State) (c : CtxLoc) (g : Context → Context) : (s.onCtx c g).launching = s.launching := by simp [State.onCtx]
@[simp] theorem State.setCtx_waiters (s : State) (c : CtxLoc) (x : Context) : (s.setCtx c x).waiters = s.waiters := by unfold State.setCtx; split <;> rfl
@[simp] theorem State.onCtx_waiters (s : State) (c : CtxLoc) (g : Context → Context) : (s.onCtx c g).waiters = s.waiters := by simp [State.onCtx]
@[simp] theorem State.setCtx_migrations (s : State) (c : CtxLoc) (x : Context) : (s.setCtx c x).migrations = s.migrations := by unfold State.setCtx; split <;> rfl
@[simp] theorem State.onCtx_migrations (s : State) (c : CtxLoc) (g : Context → Context) : (s.onCtx c g).migrations = s.migrations := by simp [State.onCtx]
@[simp] theorem State.setCtx_icache (s : State) (c : CtxLoc) (x : Context) : (s.setCtx c x).icache = s.icache := by unfold State.setCtx; split <;> rfl
@[simp] theorem State.onCtx_icache (s : State) (c : CtxLoc) (g : Context → Context) : (s.onCtx c g).icache = s.icache := by simp [State.onCtx]
@[simp] theorem State.setCtx_tlb (s : State) (c : CtxLoc) (x : Context) : (s.setCtx c x).tlb = s.tlb := by unfold State.setCtx; split <;> rfl
@[simp] theorem State.onCtx_tlb (s : State) (c : CtxLoc) (g : Context → Context) : (s.onCtx c g).tlb = s.tlb := by simp [State.onCtx]
@[simp] theorem State.setCtx_fabric (s : State) (c : CtxLoc) (x : Context) : (s.setCtx c x).fabric = s.fabric := by unfold State.setCtx; split <;> rfl
@[simp] theorem State.onCtx_fabric (s : State) (c : CtxLoc) (g : Context → Context) : (s.onCtx c g).fabric = s.fabric := by simp [State.onCtx]
@[simp] theorem State.setCtx_eth (s : State) (c : CtxLoc) (x : Context) : (s.setCtx c x).eth = s.eth := by unfold State.setCtx; split <;> rfl
@[simp] theorem State.onCtx_eth (s : State) (c : CtxLoc) (g : Context → Context) : (s.onCtx c g).eth = s.eth := by simp [State.onCtx]
@[simp] theorem State.setCtx_mgr (s : State) (c : CtxLoc) (x : Context) : (s.setCtx c x).mgr = s.mgr := by unfold State.setCtx; split <;> rfl
@[simp] theorem State.onCtx_mgr (s : State) (c : CtxLoc) (g : Context → Context) : (s.onCtx c g).mgr = s.mgr := by simp [State.onCtx]
@[simp] theorem State.setCtx_agenda (s : State) (c : CtxLoc) (x : Context) : (s.setCtx c x).agenda = s.agenda := by unfold State.setCtx; split <;> rfl
@[simp] theorem State.onCtx_agenda (s : State) (c : CtxLoc) (g : Context → Context) : (s.onCtx c g).agenda = s.agenda := by simp [State.onCtx]
@[simp] theorem State.setCtx_free (s : State) (c : CtxLoc) (x : Context) : (s.setCtx c x).free = s.free := by unfold State.setCtx; split <;> rfl
@[simp] theorem State.onCtx_free (s : State) (c : CtxLoc) (g : Context → Context) : (s.onCtx c g).free = s.free := by simp [State.onCtx]
@[simp] theorem State.setCtx_uid (s : State) (c : CtxLoc) (x : Context) : (s.setCtx c x).uid = s.uid := by unfold State.setCtx; split <;> rfl
@[simp] theorem State.onCtx_uid (s : State) (c : CtxLoc) (g : Context → Context) : (s.onCtx c g).uid = s.uid := by simp [State.onCtx]
@[simp] theorem State.setSub_focus (s : State) (p k : Nat) (x : SubCore) : (s.setSub p k x).focus = s.focus := rfl
@[simp] theorem State.setSub_cx (s : State) (p k : Nat) (x : SubCore) : (s.setSub p k x).cx = s.cx := rfl
@[simp] theorem State.setSub_others (s : State) (p k : Nat) (x : SubCore) : (s.setSub p k x).others = s.others := rfl
@[simp] theorem State.setSub_clus (s : State) (p k : Nat) (x : SubCore) : (s.setSub p k x).clus = s.clus := rfl
@[simp] theorem State.setSub_parts (s : State) (p k : Nat) (x : SubCore) : (s.setSub p k x).parts = s.parts := rfl
@[simp] theorem State.setSub_mem (s : State) (p k : Nat) (x : SubCore) : (s.setSub p k x).mem = s.mem := rfl
@[simp] theorem State.setSub_poison (s : State) (p k : Nat) (x : SubCore) : (s.setSub p k x).poison = s.poison := rfl
@[simp] theorem State.setSub_failing (s : State) (p k : Nat) (x : SubCore) : (s.setSub p k x).failing = s.failing := rfl
@[simp] theorem State.setSub_rung (s : State) (p k : Nat) (x : SubCore) : (s.setSub p k x).rung = s.rung := rfl
@[simp] theorem State.setSub_covers (s : State) (p k : Nat) (x : SubCore) : (s.setSub p k x).covers = s.covers := rfl
@[simp] theorem State.setSub_stamps (s : State) (p k : Nat) (x : SubCore) : (s.setSub p k x).stamps = s.stamps := rfl
@[simp] theorem State.setSub_farStamps (s : State) (p k : Nat) (x : SubCore) : (s.setSub p k x).farStamps = s.farStamps := rfl
@[simp] theorem State.setSub_clocks (s : State) (p k : Nat) (x : SubCore) : (s.setSub p k x).clocks = s.clocks := rfl
@[simp] theorem State.setSub_transit (s : State) (p k : Nat) (x : SubCore) : (s.setSub p k x).transit = s.transit := rfl
@[simp] theorem State.setSub_adds (s : State) (p k : Nat) (x : SubCore) : (s.setSub p k x).adds = s.adds := rfl
@[simp] theorem State.setSub_arrivals (s : State) (p k : Nat) (x : SubCore) : (s.setSub p k x).arrivals = s.arrivals := rfl
@[simp] theorem State.setSub_launching (s : State) (p k : Nat) (x : SubCore) : (s.setSub p k x).launching = s.launching := rfl
@[simp] theorem State.setSub_waiters (s : State) (p k : Nat) (x : SubCore) : (s.setSub p k x).waiters = s.waiters := rfl
@[simp] theorem State.setSub_migrations (s : State) (p k : Nat) (x : SubCore) : (s.setSub p k x).migrations = s.migrations := rfl
@[simp] theorem State.setSub_icache (s : State) (p k : Nat) (x : SubCore) : (s.setSub p k x).icache = s.icache := rfl
@[simp] theorem State.setSub_tlb (s : State) (p k : Nat) (x : SubCore) : (s.setSub p k x).tlb = s.tlb := rfl
@[simp] theorem State.setSub_fabric (s : State) (p k : Nat) (x : SubCore) : (s.setSub p k x).fabric = s.fabric := rfl
@[simp] theorem State.setSub_eth (s : State) (p k : Nat) (x : SubCore) : (s.setSub p k x).eth = s.eth := rfl
@[simp] theorem State.setSub_mgr (s : State) (p k : Nat) (x : SubCore) : (s.setSub p k x).mgr = s.mgr := rfl
@[simp] theorem State.setSub_agenda (s : State) (p k : Nat) (x : SubCore) : (s.setSub p k x).agenda = s.agenda := rfl
@[simp] theorem State.setSub_free (s : State) (p k : Nat) (x : SubCore) : (s.setSub p k x).free = s.free := rfl
@[simp] theorem State.setSub_uid (s : State) (p k : Nat) (x : SubCore) : (s.setSub p k x).uid = s.uid := rfl
@[simp] theorem State.setClu_focus (s : State) (p : Nat) (x : Cluster) : (s.setClu p x).focus = s.focus := rfl
@[simp] theorem State.setClu_cx (s : State) (p : Nat) (x : Cluster) : (s.setClu p x).cx = s.cx := rfl
@[simp] theorem State.setClu_others (s : State) (p : Nat) (x : Cluster) : (s.setClu p x).others = s.others := rfl
@[simp] theorem State.setClu_subs (s : State) (p : Nat) (x : Cluster) : (s.setClu p x).subs = s.subs := rfl
@[simp] theorem State.setClu_parts (s : State) (p : Nat) (x : Cluster) : (s.setClu p x).parts = s.parts := rfl
@[simp] theorem State.setClu_mem (s : State) (p : Nat) (x : Cluster) : (s.setClu p x).mem = s.mem := rfl
@[simp] theorem State.setClu_poison (s : State) (p : Nat) (x : Cluster) : (s.setClu p x).poison = s.poison := rfl
@[simp] theorem State.setClu_failing (s : State) (p : Nat) (x : Cluster) : (s.setClu p x).failing = s.failing := rfl
@[simp] theorem State.setClu_rung (s : State) (p : Nat) (x : Cluster) : (s.setClu p x).rung = s.rung := rfl
@[simp] theorem State.setClu_covers (s : State) (p : Nat) (x : Cluster) : (s.setClu p x).covers = s.covers := rfl
@[simp] theorem State.setClu_stamps (s : State) (p : Nat) (x : Cluster) : (s.setClu p x).stamps = s.stamps := rfl
@[simp] theorem State.setClu_farStamps (s : State) (p : Nat) (x : Cluster) : (s.setClu p x).farStamps = s.farStamps := rfl
@[simp] theorem State.setClu_clocks (s : State) (p : Nat) (x : Cluster) : (s.setClu p x).clocks = s.clocks := rfl
@[simp] theorem State.setClu_transit (s : State) (p : Nat) (x : Cluster) : (s.setClu p x).transit = s.transit := rfl
@[simp] theorem State.setClu_adds (s : State) (p : Nat) (x : Cluster) : (s.setClu p x).adds = s.adds := rfl
@[simp] theorem State.setClu_arrivals (s : State) (p : Nat) (x : Cluster) : (s.setClu p x).arrivals = s.arrivals := rfl
@[simp] theorem State.setClu_launching (s : State) (p : Nat) (x : Cluster) : (s.setClu p x).launching = s.launching := rfl
@[simp] theorem State.setClu_waiters (s : State) (p : Nat) (x : Cluster) : (s.setClu p x).waiters = s.waiters := rfl
@[simp] theorem State.setClu_migrations (s : State) (p : Nat) (x : Cluster) : (s.setClu p x).migrations = s.migrations := rfl
@[simp] theorem State.setClu_icache (s : State) (p : Nat) (x : Cluster) : (s.setClu p x).icache = s.icache := rfl
@[simp] theorem State.setClu_tlb (s : State) (p : Nat) (x : Cluster) : (s.setClu p x).tlb = s.tlb := rfl
@[simp] theorem State.setClu_fabric (s : State) (p : Nat) (x : Cluster) : (s.setClu p x).fabric = s.fabric := rfl
@[simp] theorem State.setClu_eth (s : State) (p : Nat) (x : Cluster) : (s.setClu p x).eth = s.eth := rfl
@[simp] theorem State.setClu_mgr (s : State) (p : Nat) (x : Cluster) : (s.setClu p x).mgr = s.mgr := rfl
@[simp] theorem State.setClu_agenda (s : State) (p : Nat) (x : Cluster) : (s.setClu p x).agenda = s.agenda := rfl
@[simp] theorem State.setClu_free (s : State) (p : Nat) (x : Cluster) : (s.setClu p x).free = s.free := rfl
@[simp] theorem State.setClu_uid (s : State) (p : Nat) (x : Cluster) : (s.setClu p x).uid = s.uid := rfl
@[simp] theorem State.onClu_focus (s : State) (p : Nat) (g : Cluster → Cluster) : (s.onClu p g).focus = s.focus := rfl
@[simp] theorem State.onClu_cx (s : State) (p : Nat) (g : Cluster → Cluster) : (s.onClu p g).cx = s.cx := rfl
@[simp] theorem State.onClu_others (s : State) (p : Nat) (g : Cluster → Cluster) : (s.onClu p g).others = s.others := rfl
@[simp] theorem State.onClu_subs (s : State) (p : Nat) (g : Cluster → Cluster) : (s.onClu p g).subs = s.subs := rfl
@[simp] theorem State.onClu_parts (s : State) (p : Nat) (g : Cluster → Cluster) : (s.onClu p g).parts = s.parts := rfl
@[simp] theorem State.onClu_mem (s : State) (p : Nat) (g : Cluster → Cluster) : (s.onClu p g).mem = s.mem := rfl
@[simp] theorem State.onClu_poison (s : State) (p : Nat) (g : Cluster → Cluster) : (s.onClu p g).poison = s.poison := rfl
@[simp] theorem State.onClu_failing (s : State) (p : Nat) (g : Cluster → Cluster) : (s.onClu p g).failing = s.failing := rfl
@[simp] theorem State.onClu_rung (s : State) (p : Nat) (g : Cluster → Cluster) : (s.onClu p g).rung = s.rung := rfl
@[simp] theorem State.onClu_covers (s : State) (p : Nat) (g : Cluster → Cluster) : (s.onClu p g).covers = s.covers := rfl
@[simp] theorem State.onClu_stamps (s : State) (p : Nat) (g : Cluster → Cluster) : (s.onClu p g).stamps = s.stamps := rfl
@[simp] theorem State.onClu_farStamps (s : State) (p : Nat) (g : Cluster → Cluster) : (s.onClu p g).farStamps = s.farStamps := rfl
@[simp] theorem State.onClu_clocks (s : State) (p : Nat) (g : Cluster → Cluster) : (s.onClu p g).clocks = s.clocks := rfl
@[simp] theorem State.onClu_transit (s : State) (p : Nat) (g : Cluster → Cluster) : (s.onClu p g).transit = s.transit := rfl
@[simp] theorem State.onClu_adds (s : State) (p : Nat) (g : Cluster → Cluster) : (s.onClu p g).adds = s.adds := rfl
@[simp] theorem State.onClu_arrivals (s : State) (p : Nat) (g : Cluster → Cluster) : (s.onClu p g).arrivals = s.arrivals := rfl
@[simp] theorem State.onClu_launching (s : State) (p : Nat) (g : Cluster → Cluster) : (s.onClu p g).launching = s.launching := rfl
@[simp] theorem State.onClu_waiters (s : State) (p : Nat) (g : Cluster → Cluster) : (s.onClu p g).waiters = s.waiters := rfl
@[simp] theorem State.onClu_migrations (s : State) (p : Nat) (g : Cluster → Cluster) : (s.onClu p g).migrations = s.migrations := rfl
@[simp] theorem State.onClu_icache (s : State) (p : Nat) (g : Cluster → Cluster) : (s.onClu p g).icache = s.icache := rfl
@[simp] theorem State.onClu_tlb (s : State) (p : Nat) (g : Cluster → Cluster) : (s.onClu p g).tlb = s.tlb := rfl
@[simp] theorem State.onClu_fabric (s : State) (p : Nat) (g : Cluster → Cluster) : (s.onClu p g).fabric = s.fabric := rfl
@[simp] theorem State.onClu_eth (s : State) (p : Nat) (g : Cluster → Cluster) : (s.onClu p g).eth = s.eth := rfl
@[simp] theorem State.onClu_mgr (s : State) (p : Nat) (g : Cluster → Cluster) : (s.onClu p g).mgr = s.mgr := rfl
@[simp] theorem State.onClu_agenda (s : State) (p : Nat) (g : Cluster → Cluster) : (s.onClu p g).agenda = s.agenda := rfl
@[simp] theorem State.onClu_free (s : State) (p : Nat) (g : Cluster → Cluster) : (s.onClu p g).free = s.free := rfl
@[simp] theorem State.onClu_uid (s : State) (p : Nat) (g : Cluster → Cluster) : (s.onClu p g).uid = s.uid := rfl
@[simp] theorem State.setPart_focus (s : State) (p : Nat) (x : Partition) : (s.setPart p x).focus = s.focus := rfl
@[simp] theorem State.setPart_cx (s : State) (p : Nat) (x : Partition) : (s.setPart p x).cx = s.cx := rfl
@[simp] theorem State.setPart_others (s : State) (p : Nat) (x : Partition) : (s.setPart p x).others = s.others := rfl
@[simp] theorem State.setPart_subs (s : State) (p : Nat) (x : Partition) : (s.setPart p x).subs = s.subs := rfl
@[simp] theorem State.setPart_clus (s : State) (p : Nat) (x : Partition) : (s.setPart p x).clus = s.clus := rfl
@[simp] theorem State.setPart_mem (s : State) (p : Nat) (x : Partition) : (s.setPart p x).mem = s.mem := rfl
@[simp] theorem State.setPart_poison (s : State) (p : Nat) (x : Partition) : (s.setPart p x).poison = s.poison := rfl
@[simp] theorem State.setPart_failing (s : State) (p : Nat) (x : Partition) : (s.setPart p x).failing = s.failing := rfl
@[simp] theorem State.setPart_rung (s : State) (p : Nat) (x : Partition) : (s.setPart p x).rung = s.rung := rfl
@[simp] theorem State.setPart_covers (s : State) (p : Nat) (x : Partition) : (s.setPart p x).covers = s.covers := rfl
@[simp] theorem State.setPart_stamps (s : State) (p : Nat) (x : Partition) : (s.setPart p x).stamps = s.stamps := rfl
@[simp] theorem State.setPart_farStamps (s : State) (p : Nat) (x : Partition) : (s.setPart p x).farStamps = s.farStamps := rfl
@[simp] theorem State.setPart_clocks (s : State) (p : Nat) (x : Partition) : (s.setPart p x).clocks = s.clocks := rfl
@[simp] theorem State.setPart_transit (s : State) (p : Nat) (x : Partition) : (s.setPart p x).transit = s.transit := rfl
@[simp] theorem State.setPart_adds (s : State) (p : Nat) (x : Partition) : (s.setPart p x).adds = s.adds := rfl
@[simp] theorem State.setPart_arrivals (s : State) (p : Nat) (x : Partition) : (s.setPart p x).arrivals = s.arrivals := rfl
@[simp] theorem State.setPart_launching (s : State) (p : Nat) (x : Partition) : (s.setPart p x).launching = s.launching := rfl
@[simp] theorem State.setPart_waiters (s : State) (p : Nat) (x : Partition) : (s.setPart p x).waiters = s.waiters := rfl
@[simp] theorem State.setPart_migrations (s : State) (p : Nat) (x : Partition) : (s.setPart p x).migrations = s.migrations := rfl
@[simp] theorem State.setPart_icache (s : State) (p : Nat) (x : Partition) : (s.setPart p x).icache = s.icache := rfl
@[simp] theorem State.setPart_tlb (s : State) (p : Nat) (x : Partition) : (s.setPart p x).tlb = s.tlb := rfl
@[simp] theorem State.setPart_fabric (s : State) (p : Nat) (x : Partition) : (s.setPart p x).fabric = s.fabric := rfl
@[simp] theorem State.setPart_eth (s : State) (p : Nat) (x : Partition) : (s.setPart p x).eth = s.eth := rfl
@[simp] theorem State.setPart_mgr (s : State) (p : Nat) (x : Partition) : (s.setPart p x).mgr = s.mgr := rfl
@[simp] theorem State.setPart_agenda (s : State) (p : Nat) (x : Partition) : (s.setPart p x).agenda = s.agenda := rfl
@[simp] theorem State.setPart_free (s : State) (p : Nat) (x : Partition) : (s.setPart p x).free = s.free := rfl
@[simp] theorem State.setPart_uid (s : State) (p : Nat) (x : Partition) : (s.setPart p x).uid = s.uid := rfl
@[simp] theorem State.onPart_focus (s : State) (p : Nat) (g : Partition → Partition) : (s.onPart p g).focus = s.focus := rfl
@[simp] theorem State.onPart_cx (s : State) (p : Nat) (g : Partition → Partition) : (s.onPart p g).cx = s.cx := rfl
@[simp] theorem State.onPart_others (s : State) (p : Nat) (g : Partition → Partition) : (s.onPart p g).others = s.others := rfl
@[simp] theorem State.onPart_subs (s : State) (p : Nat) (g : Partition → Partition) : (s.onPart p g).subs = s.subs := rfl
@[simp] theorem State.onPart_clus (s : State) (p : Nat) (g : Partition → Partition) : (s.onPart p g).clus = s.clus := rfl
@[simp] theorem State.onPart_mem (s : State) (p : Nat) (g : Partition → Partition) : (s.onPart p g).mem = s.mem := rfl
@[simp] theorem State.onPart_poison (s : State) (p : Nat) (g : Partition → Partition) : (s.onPart p g).poison = s.poison := rfl
@[simp] theorem State.onPart_failing (s : State) (p : Nat) (g : Partition → Partition) : (s.onPart p g).failing = s.failing := rfl
@[simp] theorem State.onPart_rung (s : State) (p : Nat) (g : Partition → Partition) : (s.onPart p g).rung = s.rung := rfl
@[simp] theorem State.onPart_covers (s : State) (p : Nat) (g : Partition → Partition) : (s.onPart p g).covers = s.covers := rfl
@[simp] theorem State.onPart_stamps (s : State) (p : Nat) (g : Partition → Partition) : (s.onPart p g).stamps = s.stamps := rfl
@[simp] theorem State.onPart_farStamps (s : State) (p : Nat) (g : Partition → Partition) : (s.onPart p g).farStamps = s.farStamps := rfl
@[simp] theorem State.onPart_clocks (s : State) (p : Nat) (g : Partition → Partition) : (s.onPart p g).clocks = s.clocks := rfl
@[simp] theorem State.onPart_transit (s : State) (p : Nat) (g : Partition → Partition) : (s.onPart p g).transit = s.transit := rfl
@[simp] theorem State.onPart_adds (s : State) (p : Nat) (g : Partition → Partition) : (s.onPart p g).adds = s.adds := rfl
@[simp] theorem State.onPart_arrivals (s : State) (p : Nat) (g : Partition → Partition) : (s.onPart p g).arrivals = s.arrivals := rfl
@[simp] theorem State.onPart_launching (s : State) (p : Nat) (g : Partition → Partition) : (s.onPart p g).launching = s.launching := rfl
@[simp] theorem State.onPart_waiters (s : State) (p : Nat) (g : Partition → Partition) : (s.onPart p g).waiters = s.waiters := rfl
@[simp] theorem State.onPart_migrations (s : State) (p : Nat) (g : Partition → Partition) : (s.onPart p g).migrations = s.migrations := rfl
@[simp] theorem State.onPart_icache (s : State) (p : Nat) (g : Partition → Partition) : (s.onPart p g).icache = s.icache := rfl
@[simp] theorem State.onPart_tlb (s : State) (p : Nat) (g : Partition → Partition) : (s.onPart p g).tlb = s.tlb := rfl
@[simp] theorem State.onPart_fabric (s : State) (p : Nat) (g : Partition → Partition) : (s.onPart p g).fabric = s.fabric := rfl
@[simp] theorem State.onPart_eth (s : State) (p : Nat) (g : Partition → Partition) : (s.onPart p g).eth = s.eth := rfl
@[simp] theorem State.onPart_mgr (s : State) (p : Nat) (g : Partition → Partition) : (s.onPart p g).mgr = s.mgr := rfl
@[simp] theorem State.onPart_agenda (s : State) (p : Nat) (g : Partition → Partition) : (s.onPart p g).agenda = s.agenda := rfl
@[simp] theorem State.onPart_free (s : State) (p : Nat) (g : Partition → Partition) : (s.onPart p g).free = s.free := rfl
@[simp] theorem State.onPart_uid (s : State) (p : Nat) (g : Partition → Partition) : (s.onPart p g).uid = s.uid := rfl
@[simp] theorem Context.retire_resident (x : Context) : x.retire.resident = x.resident := rfl
@[simp] theorem Context.retire_part (x : Context) : x.retire.part = x.part := rfl
@[simp] theorem Context.retire_serial (x : Context) : x.retire.serial = x.serial := rfl
@[simp] theorem Context.retire_regs (x : Context) : x.retire.regs = x.regs := rfl
@[simp] theorem Context.retire_masks (x : Context) : x.retire.masks = x.masks := rfl
@[simp] theorem Context.retire_mbad (x : Context) : x.retire.mbad = x.mbad := rfl
@[simp] theorem Context.retire_win (x : Context) : x.retire.win = x.win := rfl
@[simp] theorem Context.retire_banks (x : Context) : x.retire.banks = x.banks := rfl
@[simp] theorem Context.retire_toks (x : Context) : x.retire.toks = x.toks := rfl
@[simp] theorem Context.retire_stat (x : Context) : x.retire.stat = x.stat := rfl
@[simp] theorem Context.retire_estat (x : Context) : x.retire.estat = x.estat := rfl
@[simp] theorem Context.retire_epc (x : Context) : x.retire.epc = x.epc := rfl
@[simp] theorem Context.retire_ecause (x : Context) : x.retire.ecause = x.ecause := rfl
@[simp] theorem Context.retire_etval (x : Context) : x.retire.etval = x.etval := rfl
@[simp] theorem Context.retire_tvec (x : Context) : x.retire.tvec = x.tvec := rfl
@[simp] theorem Context.retire_escratch (x : Context) : x.retire.escratch = x.escratch := rfl
@[simp] theorem Context.retire_eissue (x : Context) : x.retire.eissue = x.eissue := rfl
@[simp] theorem Context.retire_emark (x : Context) : x.retire.emark = x.emark := rfl
@[simp] theorem Context.retire_strandid (x : Context) : x.retire.strandid = x.strandid := rfl
@[simp] theorem Context.retire_launchid (x : Context) : x.retire.launchid = x.launchid := rfl
@[simp] theorem Context.retire_grp (x : Context) : x.retire.grp = x.grp := rfl
@[simp] theorem Context.retire_age (x : Context) : x.retire.age = x.age := rfl
@[simp] theorem Context.retire_eff (x : Context) : x.retire.eff = x.eff := rfl
@[simp] theorem Context.retire_cycles (x : Context) : x.retire.cycles = x.cycles := rfl
@[simp] theorem Context.retire_freezecyc (x : Context) : x.retire.freezecyc = x.freezecyc := rfl
@[simp] theorem Context.retire_waitcyc (x : Context) : x.retire.waitcyc = x.waitcyc := rfl
@[simp] theorem Context.retire_vshape (x : Context) : x.retire.vshape = x.vshape := rfl
@[simp] theorem Context.retire_fpctl (x : Context) : x.retire.fpctl = x.fpctl := rfl
@[simp] theorem Context.retire_fpflags (x : Context) : x.retire.fpflags = x.fpflags := rfl
@[simp] theorem Context.retire_tviews (x : Context) : x.retire.tviews = x.tviews := rfl
@[simp] theorem Context.retire_aviews (x : Context) : x.retire.aviews = x.aviews := rfl
@[simp] theorem Context.retire_wbase (x : Context) : x.retire.wbase = x.wbase := rfl
@[simp] theorem Context.retire_wsize (x : Context) : x.retire.wsize = x.wsize := rfl
@[simp] theorem Context.retire_slots (x : Context) : x.retire.slots = x.slots := rfl
@[simp] theorem Context.retire_slotsNext (x : Context) : x.retire.slotsNext = x.slotsNext := rfl
@[simp] theorem Context.retire_preq (x : Context) : x.retire.preq = x.preq := rfl
@[simp] theorem Context.retire_pdeadline (x : Context) : x.retire.pdeadline = x.pdeadline := rfl
@[simp] theorem Context.retire_counting (x : Context) : x.retire.counting = x.counting := rfl
@[simp] theorem Context.retire_yieldtab (x : Context) : x.retire.yieldtab = x.yieldtab := rfl
@[simp] theorem Context.retire_savearea (x : Context) : x.retire.savearea = x.savearea := rfl
@[simp] theorem Context.retire_evspin (x : Context) : x.retire.evspin = x.evspin := rfl
@[simp] theorem Context.retire_resv (x : Context) : x.retire.resv = x.resv := rfl
@[simp] theorem Context.retire_rings (x : Context) : x.retire.rings = x.rings := rfl
@[simp] theorem Context.retire_ringArea (x : Context) : x.retire.ringArea = x.ringArea := rfl
@[simp] theorem Context.retire_dbgctl (x : Context) : x.retire.dbgctl = x.dbgctl := rfl
@[simp] theorem Context.retire_dwatch (x : Context) : x.retire.dwatch = x.dwatch := rfl
@[simp] theorem Context.retire_rdinv (x : Context) : x.retire.rdinv = x.rdinv := rfl
@[simp] theorem Context.retire_obs (x : Context) : x.retire.obs = x.obs := rfl
@[simp] theorem Context.retire_sysfence (x : Context) : x.retire.sysfence = x.sysfence := rfl
@[simp] theorem Context.retire_ystate (x : Context) : x.retire.ystate = x.ystate := rfl
@[simp] theorem Context.retire_yindex (x : Context) : x.retire.yindex = x.yindex := rfl
@[simp] theorem Context.retire_ypc (x : Context) : x.retire.ypc = x.ypc := rfl
@[simp] theorem Context.retire_qv (x : Context) : x.retire.qv = x.qv := rfl
@[simp] theorem Context.retire_qm (x : Context) : x.retire.qm = x.qm := rfl
@[simp] theorem Context.retire_ql (x : Context) : x.retire.ql = x.ql := rfl
@[simp] theorem Context.retire_qe (x : Context) : x.retire.qe = x.qe := rfl
@[simp] theorem Context.retire_lane (x : Context) : x.retire.lane = x.lane := rfl
@[simp] theorem Context.retire_parked (x : Context) : x.retire.parked = x.parked := rfl
@[simp] theorem Context.retire_halt (x : Context) : x.retire.halt = x.halt := rfl
@[simp] theorem Context.retire_marked (x : Context) : x.retire.marked = x.marked := rfl
@[simp] theorem Context.retire_debug (x : Context) : x.retire.debug = x.debug := rfl
@[simp] theorem Context.retire_replies (x : Context) : x.retire.replies = x.replies := rfl
@[simp] theorem Context.retire_hold (x : Context) : x.retire.hold = x.hold := rfl
@[simp] theorem Context.retire_drain (x : Context) : x.retire.drain = x.drain := rfl
@[simp] theorem Context.retire_heldPush (x : Context) : x.retire.heldPush = x.heldPush := rfl
@[simp] theorem Context.retire_heldReply (x : Context) : x.retire.heldReply = x.heldReply := rfl
@[simp] theorem Context.retire_heldWait (x : Context) : x.retire.heldWait = x.heldWait := rfl
@[simp] theorem Context.retire_evreg (x : Context) : x.retire.evreg = x.evreg := rfl
@[simp] theorem Context.retire_waits (x : Context) : x.retire.waits = x.waits := rfl
@[simp] theorem Context.retire_role (x : Context) : x.retire.role = x.role := rfl
@[simp] theorem Context.retire_triple (x : Context) : x.retire.triple = x.triple := rfl
@[simp] theorem Context.retire_depth (x : Context) : x.retire.depth = x.depth := rfl
@[simp] theorem Context.retire_text (x : Context) : x.retire.text = x.text := rfl
@[simp] theorem Context.retire_recaddr (x : Context) : x.retire.recaddr = x.recaddr := rfl
@[simp] theorem Context.retire_since (x : Context) : x.retire.since = x.since := rfl
@[simp] theorem Context.retire_pc (x : Context) : x.retire.pc = x.pc + 4 := rfl
@[simp] theorem Context.setRg_resident (x : Context) (r : Reg) (v : Word) : (x.setRg r v).resident = x.resident := by unfold Context.setRg; split <;> rfl
@[simp] theorem Context.setRg_part (x : Context) (r : Reg) (v : Word) : (x.setRg r v).part = x.part := by unfold Context.setRg; split <;> rfl
@[simp] theorem Context.setRg_serial (x : Context) (r : Reg) (v : Word) : (x.setRg r v).serial = x.serial := by unfold Context.setRg; split <;> rfl
@[simp] theorem Context.setRg_pc (x : Context) (r : Reg) (v : Word) : (x.setRg r v).pc = x.pc := by unfold Context.setRg; split <;> rfl
@[simp] theorem Context.setRg_masks (x : Context) (r : Reg) (v : Word) : (x.setRg r v).masks = x.masks := by unfold Context.setRg; split <;> rfl
@[simp] theorem Context.setRg_mbad (x : Context) (r : Reg) (v : Word) : (x.setRg r v).mbad = x.mbad := by unfold Context.setRg; split <;> rfl
@[simp] theorem Context.setRg_win (x : Context) (r : Reg) (v : Word) : (x.setRg r v).win = x.win := by unfold Context.setRg; split <;> rfl
@[simp] theorem Context.setRg_banks (x : Context) (r : Reg) (v : Word) : (x.setRg r v).banks = x.banks := by unfold Context.setRg; split <;> rfl
@[simp] theorem Context.setRg_toks (x : Context) (r : Reg) (v : Word) : (x.setRg r v).toks = x.toks := by unfold Context.setRg; split <;> rfl
@[simp] theorem Context.setRg_stat (x : Context) (r : Reg) (v : Word) : (x.setRg r v).stat = x.stat := by unfold Context.setRg; split <;> rfl
@[simp] theorem Context.setRg_estat (x : Context) (r : Reg) (v : Word) : (x.setRg r v).estat = x.estat := by unfold Context.setRg; split <;> rfl
@[simp] theorem Context.setRg_epc (x : Context) (r : Reg) (v : Word) : (x.setRg r v).epc = x.epc := by unfold Context.setRg; split <;> rfl
@[simp] theorem Context.setRg_ecause (x : Context) (r : Reg) (v : Word) : (x.setRg r v).ecause = x.ecause := by unfold Context.setRg; split <;> rfl
@[simp] theorem Context.setRg_etval (x : Context) (r : Reg) (v : Word) : (x.setRg r v).etval = x.etval := by unfold Context.setRg; split <;> rfl
@[simp] theorem Context.setRg_tvec (x : Context) (r : Reg) (v : Word) : (x.setRg r v).tvec = x.tvec := by unfold Context.setRg; split <;> rfl
@[simp] theorem Context.setRg_escratch (x : Context) (r : Reg) (v : Word) : (x.setRg r v).escratch = x.escratch := by unfold Context.setRg; split <;> rfl
@[simp] theorem Context.setRg_eissue (x : Context) (r : Reg) (v : Word) : (x.setRg r v).eissue = x.eissue := by unfold Context.setRg; split <;> rfl
@[simp] theorem Context.setRg_emark (x : Context) (r : Reg) (v : Word) : (x.setRg r v).emark = x.emark := by unfold Context.setRg; split <;> rfl
@[simp] theorem Context.setRg_strandid (x : Context) (r : Reg) (v : Word) : (x.setRg r v).strandid = x.strandid := by unfold Context.setRg; split <;> rfl
@[simp] theorem Context.setRg_launchid (x : Context) (r : Reg) (v : Word) : (x.setRg r v).launchid = x.launchid := by unfold Context.setRg; split <;> rfl
@[simp] theorem Context.setRg_grp (x : Context) (r : Reg) (v : Word) : (x.setRg r v).grp = x.grp := by unfold Context.setRg; split <;> rfl
@[simp] theorem Context.setRg_age (x : Context) (r : Reg) (v : Word) : (x.setRg r v).age = x.age := by unfold Context.setRg; split <;> rfl
@[simp] theorem Context.setRg_eff (x : Context) (r : Reg) (v : Word) : (x.setRg r v).eff = x.eff := by unfold Context.setRg; split <;> rfl
@[simp] theorem Context.setRg_cycles (x : Context) (r : Reg) (v : Word) : (x.setRg r v).cycles = x.cycles := by unfold Context.setRg; split <;> rfl
@[simp] theorem Context.setRg_freezecyc (x : Context) (r : Reg) (v : Word) : (x.setRg r v).freezecyc = x.freezecyc := by unfold Context.setRg; split <;> rfl
@[simp] theorem Context.setRg_waitcyc (x : Context) (r : Reg) (v : Word) : (x.setRg r v).waitcyc = x.waitcyc := by unfold Context.setRg; split <;> rfl
@[simp] theorem Context.setRg_vshape (x : Context) (r : Reg) (v : Word) : (x.setRg r v).vshape = x.vshape := by unfold Context.setRg; split <;> rfl
@[simp] theorem Context.setRg_fpctl (x : Context) (r : Reg) (v : Word) : (x.setRg r v).fpctl = x.fpctl := by unfold Context.setRg; split <;> rfl
@[simp] theorem Context.setRg_fpflags (x : Context) (r : Reg) (v : Word) : (x.setRg r v).fpflags = x.fpflags := by unfold Context.setRg; split <;> rfl
@[simp] theorem Context.setRg_tviews (x : Context) (r : Reg) (v : Word) : (x.setRg r v).tviews = x.tviews := by unfold Context.setRg; split <;> rfl
@[simp] theorem Context.setRg_aviews (x : Context) (r : Reg) (v : Word) : (x.setRg r v).aviews = x.aviews := by unfold Context.setRg; split <;> rfl
@[simp] theorem Context.setRg_wbase (x : Context) (r : Reg) (v : Word) : (x.setRg r v).wbase = x.wbase := by unfold Context.setRg; split <;> rfl
@[simp] theorem Context.setRg_wsize (x : Context) (r : Reg) (v : Word) : (x.setRg r v).wsize = x.wsize := by unfold Context.setRg; split <;> rfl
@[simp] theorem Context.setRg_slots (x : Context) (r : Reg) (v : Word) : (x.setRg r v).slots = x.slots := by unfold Context.setRg; split <;> rfl
@[simp] theorem Context.setRg_slotsNext (x : Context) (r : Reg) (v : Word) : (x.setRg r v).slotsNext = x.slotsNext := by unfold Context.setRg; split <;> rfl
@[simp] theorem Context.setRg_preq (x : Context) (r : Reg) (v : Word) : (x.setRg r v).preq = x.preq := by unfold Context.setRg; split <;> rfl
@[simp] theorem Context.setRg_pdeadline (x : Context) (r : Reg) (v : Word) : (x.setRg r v).pdeadline = x.pdeadline := by unfold Context.setRg; split <;> rfl
@[simp] theorem Context.setRg_counting (x : Context) (r : Reg) (v : Word) : (x.setRg r v).counting = x.counting := by unfold Context.setRg; split <;> rfl
@[simp] theorem Context.setRg_yieldtab (x : Context) (r : Reg) (v : Word) : (x.setRg r v).yieldtab = x.yieldtab := by unfold Context.setRg; split <;> rfl
@[simp] theorem Context.setRg_savearea (x : Context) (r : Reg) (v : Word) : (x.setRg r v).savearea = x.savearea := by unfold Context.setRg; split <;> rfl
@[simp] theorem Context.setRg_evspin (x : Context) (r : Reg) (v : Word) : (x.setRg r v).evspin = x.evspin := by unfold Context.setRg; split <;> rfl
@[simp] theorem Context.setRg_resv (x : Context) (r : Reg) (v : Word) : (x.setRg r v).resv = x.resv := by unfold Context.setRg; split <;> rfl
@[simp] theorem Context.setRg_rings (x : Context) (r : Reg) (v : Word) : (x.setRg r v).rings = x.rings := by unfold Context.setRg; split <;> rfl
@[simp] theorem Context.setRg_ringArea (x : Context) (r : Reg) (v : Word) : (x.setRg r v).ringArea = x.ringArea := by unfold Context.setRg; split <;> rfl
@[simp] theorem Context.setRg_dbgctl (x : Context) (r : Reg) (v : Word) : (x.setRg r v).dbgctl = x.dbgctl := by unfold Context.setRg; split <;> rfl
@[simp] theorem Context.setRg_dwatch (x : Context) (r : Reg) (v : Word) : (x.setRg r v).dwatch = x.dwatch := by unfold Context.setRg; split <;> rfl
@[simp] theorem Context.setRg_rdinv (x : Context) (r : Reg) (v : Word) : (x.setRg r v).rdinv = x.rdinv := by unfold Context.setRg; split <;> rfl
@[simp] theorem Context.setRg_obs (x : Context) (r : Reg) (v : Word) : (x.setRg r v).obs = x.obs := by unfold Context.setRg; split <;> rfl
@[simp] theorem Context.setRg_sysfence (x : Context) (r : Reg) (v : Word) : (x.setRg r v).sysfence = x.sysfence := by unfold Context.setRg; split <;> rfl
@[simp] theorem Context.setRg_ystate (x : Context) (r : Reg) (v : Word) : (x.setRg r v).ystate = x.ystate := by unfold Context.setRg; split <;> rfl
@[simp] theorem Context.setRg_yindex (x : Context) (r : Reg) (v : Word) : (x.setRg r v).yindex = x.yindex := by unfold Context.setRg; split <;> rfl
@[simp] theorem Context.setRg_ypc (x : Context) (r : Reg) (v : Word) : (x.setRg r v).ypc = x.ypc := by unfold Context.setRg; split <;> rfl
@[simp] theorem Context.setRg_qv (x : Context) (r : Reg) (v : Word) : (x.setRg r v).qv = x.qv := by unfold Context.setRg; split <;> rfl
@[simp] theorem Context.setRg_qm (x : Context) (r : Reg) (v : Word) : (x.setRg r v).qm = x.qm := by unfold Context.setRg; split <;> rfl
@[simp] theorem Context.setRg_ql (x : Context) (r : Reg) (v : Word) : (x.setRg r v).ql = x.ql := by unfold Context.setRg; split <;> rfl
@[simp] theorem Context.setRg_qe (x : Context) (r : Reg) (v : Word) : (x.setRg r v).qe = x.qe := by unfold Context.setRg; split <;> rfl
@[simp] theorem Context.setRg_lane (x : Context) (r : Reg) (v : Word) : (x.setRg r v).lane = x.lane := by unfold Context.setRg; split <;> rfl
@[simp] theorem Context.setRg_parked (x : Context) (r : Reg) (v : Word) : (x.setRg r v).parked = x.parked := by unfold Context.setRg; split <;> rfl
@[simp] theorem Context.setRg_halt (x : Context) (r : Reg) (v : Word) : (x.setRg r v).halt = x.halt := by unfold Context.setRg; split <;> rfl
@[simp] theorem Context.setRg_marked (x : Context) (r : Reg) (v : Word) : (x.setRg r v).marked = x.marked := by unfold Context.setRg; split <;> rfl
@[simp] theorem Context.setRg_debug (x : Context) (r : Reg) (v : Word) : (x.setRg r v).debug = x.debug := by unfold Context.setRg; split <;> rfl
@[simp] theorem Context.setRg_replies (x : Context) (r : Reg) (v : Word) : (x.setRg r v).replies = x.replies := by unfold Context.setRg; split <;> rfl
@[simp] theorem Context.setRg_hold (x : Context) (r : Reg) (v : Word) : (x.setRg r v).hold = x.hold := by unfold Context.setRg; split <;> rfl
@[simp] theorem Context.setRg_drain (x : Context) (r : Reg) (v : Word) : (x.setRg r v).drain = x.drain := by unfold Context.setRg; split <;> rfl
@[simp] theorem Context.setRg_heldPush (x : Context) (r : Reg) (v : Word) : (x.setRg r v).heldPush = x.heldPush := by unfold Context.setRg; split <;> rfl
@[simp] theorem Context.setRg_heldReply (x : Context) (r : Reg) (v : Word) : (x.setRg r v).heldReply = x.heldReply := by unfold Context.setRg; split <;> rfl
@[simp] theorem Context.setRg_heldWait (x : Context) (r : Reg) (v : Word) : (x.setRg r v).heldWait = x.heldWait := by unfold Context.setRg; split <;> rfl
@[simp] theorem Context.setRg_evreg (x : Context) (r : Reg) (v : Word) : (x.setRg r v).evreg = x.evreg := by unfold Context.setRg; split <;> rfl
@[simp] theorem Context.setRg_waits (x : Context) (r : Reg) (v : Word) : (x.setRg r v).waits = x.waits := by unfold Context.setRg; split <;> rfl
@[simp] theorem Context.setRg_role (x : Context) (r : Reg) (v : Word) : (x.setRg r v).role = x.role := by unfold Context.setRg; split <;> rfl
@[simp] theorem Context.setRg_triple (x : Context) (r : Reg) (v : Word) : (x.setRg r v).triple = x.triple := by unfold Context.setRg; split <;> rfl
@[simp] theorem Context.setRg_depth (x : Context) (r : Reg) (v : Word) : (x.setRg r v).depth = x.depth := by unfold Context.setRg; split <;> rfl
@[simp] theorem Context.setRg_text (x : Context) (r : Reg) (v : Word) : (x.setRg r v).text = x.text := by unfold Context.setRg; split <;> rfl
@[simp] theorem Context.setRg_recaddr (x : Context) (r : Reg) (v : Word) : (x.setRg r v).recaddr = x.recaddr := by unfold Context.setRg; split <;> rfl
@[simp] theorem Context.setRg_since (x : Context) (r : Reg) (v : Word) : (x.setRg r v).since = x.since := by unfold Context.setRg; split <;> rfl
@[simp] theorem Context.observe_resident (x : Context) (st : Stamp) : (x.observe st).resident = x.resident := rfl
@[simp] theorem Context.observe_part (x : Context) (st : Stamp) : (x.observe st).part = x.part := rfl
@[simp] theorem Context.observe_serial (x : Context) (st : Stamp) : (x.observe st).serial = x.serial := rfl
@[simp] theorem Context.observe_pc (x : Context) (st : Stamp) : (x.observe st).pc = x.pc := rfl
@[simp] theorem Context.observe_regs (x : Context) (st : Stamp) : (x.observe st).regs = x.regs := rfl
@[simp] theorem Context.observe_masks (x : Context) (st : Stamp) : (x.observe st).masks = x.masks := rfl
@[simp] theorem Context.observe_mbad (x : Context) (st : Stamp) : (x.observe st).mbad = x.mbad := rfl
@[simp] theorem Context.observe_win (x : Context) (st : Stamp) : (x.observe st).win = x.win := rfl
@[simp] theorem Context.observe_banks (x : Context) (st : Stamp) : (x.observe st).banks = x.banks := rfl
@[simp] theorem Context.observe_toks (x : Context) (st : Stamp) : (x.observe st).toks = x.toks := rfl
@[simp] theorem Context.observe_stat (x : Context) (st : Stamp) : (x.observe st).stat = x.stat := rfl
@[simp] theorem Context.observe_estat (x : Context) (st : Stamp) : (x.observe st).estat = x.estat := rfl
@[simp] theorem Context.observe_epc (x : Context) (st : Stamp) : (x.observe st).epc = x.epc := rfl
@[simp] theorem Context.observe_ecause (x : Context) (st : Stamp) : (x.observe st).ecause = x.ecause := rfl
@[simp] theorem Context.observe_etval (x : Context) (st : Stamp) : (x.observe st).etval = x.etval := rfl
@[simp] theorem Context.observe_tvec (x : Context) (st : Stamp) : (x.observe st).tvec = x.tvec := rfl
@[simp] theorem Context.observe_escratch (x : Context) (st : Stamp) : (x.observe st).escratch = x.escratch := rfl
@[simp] theorem Context.observe_eissue (x : Context) (st : Stamp) : (x.observe st).eissue = x.eissue := rfl
@[simp] theorem Context.observe_emark (x : Context) (st : Stamp) : (x.observe st).emark = x.emark := rfl
@[simp] theorem Context.observe_strandid (x : Context) (st : Stamp) : (x.observe st).strandid = x.strandid := rfl
@[simp] theorem Context.observe_launchid (x : Context) (st : Stamp) : (x.observe st).launchid = x.launchid := rfl
@[simp] theorem Context.observe_grp (x : Context) (st : Stamp) : (x.observe st).grp = x.grp := rfl
@[simp] theorem Context.observe_age (x : Context) (st : Stamp) : (x.observe st).age = x.age := rfl
@[simp] theorem Context.observe_eff (x : Context) (st : Stamp) : (x.observe st).eff = x.eff := rfl
@[simp] theorem Context.observe_cycles (x : Context) (st : Stamp) : (x.observe st).cycles = x.cycles := rfl
@[simp] theorem Context.observe_freezecyc (x : Context) (st : Stamp) : (x.observe st).freezecyc = x.freezecyc := rfl
@[simp] theorem Context.observe_waitcyc (x : Context) (st : Stamp) : (x.observe st).waitcyc = x.waitcyc := rfl
@[simp] theorem Context.observe_vshape (x : Context) (st : Stamp) : (x.observe st).vshape = x.vshape := rfl
@[simp] theorem Context.observe_fpctl (x : Context) (st : Stamp) : (x.observe st).fpctl = x.fpctl := rfl
@[simp] theorem Context.observe_fpflags (x : Context) (st : Stamp) : (x.observe st).fpflags = x.fpflags := rfl
@[simp] theorem Context.observe_tviews (x : Context) (st : Stamp) : (x.observe st).tviews = x.tviews := rfl
@[simp] theorem Context.observe_aviews (x : Context) (st : Stamp) : (x.observe st).aviews = x.aviews := rfl
@[simp] theorem Context.observe_wbase (x : Context) (st : Stamp) : (x.observe st).wbase = x.wbase := rfl
@[simp] theorem Context.observe_wsize (x : Context) (st : Stamp) : (x.observe st).wsize = x.wsize := rfl
@[simp] theorem Context.observe_slots (x : Context) (st : Stamp) : (x.observe st).slots = x.slots := rfl
@[simp] theorem Context.observe_slotsNext (x : Context) (st : Stamp) : (x.observe st).slotsNext = x.slotsNext := rfl
@[simp] theorem Context.observe_preq (x : Context) (st : Stamp) : (x.observe st).preq = x.preq := rfl
@[simp] theorem Context.observe_pdeadline (x : Context) (st : Stamp) : (x.observe st).pdeadline = x.pdeadline := rfl
@[simp] theorem Context.observe_counting (x : Context) (st : Stamp) : (x.observe st).counting = x.counting := rfl
@[simp] theorem Context.observe_yieldtab (x : Context) (st : Stamp) : (x.observe st).yieldtab = x.yieldtab := rfl
@[simp] theorem Context.observe_savearea (x : Context) (st : Stamp) : (x.observe st).savearea = x.savearea := rfl
@[simp] theorem Context.observe_evspin (x : Context) (st : Stamp) : (x.observe st).evspin = x.evspin := rfl
@[simp] theorem Context.observe_resv (x : Context) (st : Stamp) : (x.observe st).resv = x.resv := rfl
@[simp] theorem Context.observe_rings (x : Context) (st : Stamp) : (x.observe st).rings = x.rings := rfl
@[simp] theorem Context.observe_ringArea (x : Context) (st : Stamp) : (x.observe st).ringArea = x.ringArea := rfl
@[simp] theorem Context.observe_dbgctl (x : Context) (st : Stamp) : (x.observe st).dbgctl = x.dbgctl := rfl
@[simp] theorem Context.observe_dwatch (x : Context) (st : Stamp) : (x.observe st).dwatch = x.dwatch := rfl
@[simp] theorem Context.observe_rdinv (x : Context) (st : Stamp) : (x.observe st).rdinv = x.rdinv := rfl
@[simp] theorem Context.observe_sysfence (x : Context) (st : Stamp) : (x.observe st).sysfence = x.sysfence := rfl
@[simp] theorem Context.observe_ystate (x : Context) (st : Stamp) : (x.observe st).ystate = x.ystate := rfl
@[simp] theorem Context.observe_yindex (x : Context) (st : Stamp) : (x.observe st).yindex = x.yindex := rfl
@[simp] theorem Context.observe_ypc (x : Context) (st : Stamp) : (x.observe st).ypc = x.ypc := rfl
@[simp] theorem Context.observe_qv (x : Context) (st : Stamp) : (x.observe st).qv = x.qv := rfl
@[simp] theorem Context.observe_qm (x : Context) (st : Stamp) : (x.observe st).qm = x.qm := rfl
@[simp] theorem Context.observe_ql (x : Context) (st : Stamp) : (x.observe st).ql = x.ql := rfl
@[simp] theorem Context.observe_qe (x : Context) (st : Stamp) : (x.observe st).qe = x.qe := rfl
@[simp] theorem Context.observe_lane (x : Context) (st : Stamp) : (x.observe st).lane = x.lane := rfl
@[simp] theorem Context.observe_parked (x : Context) (st : Stamp) : (x.observe st).parked = x.parked := rfl
@[simp] theorem Context.observe_halt (x : Context) (st : Stamp) : (x.observe st).halt = x.halt := rfl
@[simp] theorem Context.observe_marked (x : Context) (st : Stamp) : (x.observe st).marked = x.marked := rfl
@[simp] theorem Context.observe_debug (x : Context) (st : Stamp) : (x.observe st).debug = x.debug := rfl
@[simp] theorem Context.observe_replies (x : Context) (st : Stamp) : (x.observe st).replies = x.replies := rfl
@[simp] theorem Context.observe_hold (x : Context) (st : Stamp) : (x.observe st).hold = x.hold := rfl
@[simp] theorem Context.observe_drain (x : Context) (st : Stamp) : (x.observe st).drain = x.drain := rfl
@[simp] theorem Context.observe_heldPush (x : Context) (st : Stamp) : (x.observe st).heldPush = x.heldPush := rfl
@[simp] theorem Context.observe_heldReply (x : Context) (st : Stamp) : (x.observe st).heldReply = x.heldReply := rfl
@[simp] theorem Context.observe_heldWait (x : Context) (st : Stamp) : (x.observe st).heldWait = x.heldWait := rfl
@[simp] theorem Context.observe_evreg (x : Context) (st : Stamp) : (x.observe st).evreg = x.evreg := rfl
@[simp] theorem Context.observe_waits (x : Context) (st : Stamp) : (x.observe st).waits = x.waits := rfl
@[simp] theorem Context.observe_role (x : Context) (st : Stamp) : (x.observe st).role = x.role := rfl
@[simp] theorem Context.observe_triple (x : Context) (st : Stamp) : (x.observe st).triple = x.triple := rfl
@[simp] theorem Context.observe_depth (x : Context) (st : Stamp) : (x.observe st).depth = x.depth := rfl
@[simp] theorem Context.observe_text (x : Context) (st : Stamp) : (x.observe st).text = x.text := rfl
@[simp] theorem Context.observe_recaddr (x : Context) (st : Stamp) : (x.observe st).recaddr = x.recaddr := rfl
@[simp] theorem Context.observe_since (x : Context) (st : Stamp) : (x.observe st).since = x.since := rfl

end Sys2Proof.Machine
end

