-- ==== Sys2Proof/Laws/Table.lean ====
section
/-!
SUPPORT. Laws of tables and memories: reading after writing, and that every operation keeps the canonical form.
-/
namespace Sys2Proof.Machine

/-! ### Reading after writing -/

theorem tget_of_risingFrom {α : Type} {d : α} : ∀ {t : Tbl α} {i k : Nat},
    risingFrom (some i) t = true → k ≤ i → tget t k d = d
  | [], _, _, _, _ => rfl
  | (j, w) :: r, i, k, h, hk => by
    simp only [risingFrom, Bool.and_eq_true, decide_eq_true_eq] at h
    have : k ≠ j := by omega
    simp only [tget, if_neg this]
    exact tget_of_risingFrom (i := j) h.2 (by omega)

/-- A table reads the written entry at its number. -/
theorem tget_tset_same {α : Type} [DecidableEq α] {v d : α} : ∀ {t : Tbl α} {k : Nat} {i : Option Nat},
    risingFrom i t = true → tget (tset t k v d) k d = v
  | [], k, _, _ => by
    simp only [tset]; split
    · simp_all [tget]
    · simp [tget]
  | (j, w) :: r, k, i, h => by
    have hr : risingFrom (some j) r = true := by
      cases i <;> simp_all [risingFrom]
    simp only [tset]
    split
    · split
      · subst_vars
        rw [tget, if_neg (by omega)]
        exact tget_of_risingFrom hr (by omega)
      · simp [tget]
    · split
      · split
        · subst_vars; exact tget_of_risingFrom hr (Nat.le_refl _)
        · simp [tget]
      · rw [tget, if_neg (by assumption)]; exact tget_tset_same hr

/-- A table reads every other entry as before. -/
theorem tget_tset_other {α : Type} [DecidableEq α] {v d : α} : ∀ {t : Tbl α} {k l : Nat}, l ≠ k →
    tget (tset t k v d) l d = tget t l d
  | [], k, l, h => by simp only [tset]; split <;> simp [tget, h]
  | (j, w) :: r, k, l, h => by
    simp only [tset]
    split
    · split
      · rfl
      · simp [tget, h]
    · split
      · subst_vars; split <;> simp [tget, h]
      · simp only [tget]; split
        · rfl
        · exact tget_tset_other h

/-! ### The canonical form -/

theorem risingFrom_tset {α : Type} [DecidableEq α] {v d : α} : ∀ {t : Tbl α} {k : Nat} {i : Option Nat},
    risingFrom i t = true → (∀ j, i = some j → j < k) → risingFrom i (tset t k v d) = true
  | [], k, i, _, hk => by
    simp only [tset]; split
    · cases i <;> rfl
    · cases i <;> simp_all [risingFrom]
  | (j, w) :: r, k, i, h, hk => by
    have hr : risingFrom (some j) r = true := by cases i <;> simp_all [risingFrom]
    have hj : ∀ n, i = some n → n < j := by intro n hn; subst hn; simp_all [risingFrom]
    simp only [tset]
    split
    · split
      · exact h
      · cases i <;> simp_all [risingFrom]
    · split
      · subst_vars
        split
        · cases i with
          | none => cases r <;> simp_all [risingFrom]
          | some n =>
            cases r with
            | nil => rfl
            | cons e r =>
              have := hj n rfl
              simp_all [risingFrom]; omega
        · cases i <;> simp_all [risingFrom]
      · have := risingFrom_tset (v := v) (d := d) (k := k) hr (by intro n hn; cases hn; omega)
        cases i <;> simp_all [risingFrom]

theorem all_tset {α : Type} [DecidableEq α] {v d : α} : ∀ {t : Tbl α} {k : Nat},
    (t.all fun e => e.2 != d) = true → ((tset t k v d).all fun e => e.2 != d) = true
  | [], k, _ => by simp only [tset]; split <;> simp_all
  | (j, w) :: r, k, h => by
    simp only [List.all_cons, Bool.and_eq_true] at h
    simp only [tset]
    split
    · split
      · simp only [List.all_cons, h.1, h.2, Bool.and_self]
      · simp [List.all_cons, h.1, h.2, *]
    · split
      · split
        · exact h.2
        · simp [List.all_cons, h.2, *]
      · simp only [List.all_cons, h.1, all_tset h.2, Bool.and_self]

/-- Writing an entry keeps the canonical form. -/
theorem twf_tset {α : Type} [DecidableEq α] {t : Tbl α} {k : Nat} {v d : α} (h : twf t d = true) :
    twf (tset t k v d) d = true := by
  simp only [twf, Bool.and_eq_true] at h ⊢
  exact ⟨risingFrom_tset h.1 (by simp), all_tset h.2⟩

/-- Reading the written entry of a canonical table. -/
theorem tget_tset_wf {α : Type} [DecidableEq α] {t : Tbl α} {k : Nat} {v d : α} (h : twf t d = true) :
    tget (tset t k v d) k d = v := by
  simp only [twf, Bool.and_eq_true] at h
  exact tget_tset_same h.1

theorem risingFrom_weaken {α : Type} {t : Tbl α} {i : Nat} (h : risingFrom (some i) t = true) : risingFrom none t = true := by
  cases t <;> simp_all [risingFrom]

theorem risingFrom_lower {α : Type} {t : Tbl α} {i j : Nat} (h : risingFrom (some i) t = true) (hj : j ≤ i) :
    risingFrom (some j) t = true := by
  cases t with
  | nil => rfl
  | cons e r => simp_all [risingFrom]; omega

theorem risingFrom_filter {α : Type} {p : Nat × α → Bool} : ∀ {t : Tbl α} {i : Option Nat},
    risingFrom i t = true → risingFrom i (t.filter p) = true
  | [], i, _ => by cases i <;> rfl
  | (j, w) :: r, i, h => by
    have hr : risingFrom (some j) r = true := by cases i <;> simp_all [risingFrom]
    have ih := risingFrom_filter (p := p) hr
    simp only [List.filter]
    split
    · cases i <;> simp_all [risingFrom]
    · cases i with
      | none => exact risingFrom_weaken ih
      | some n => simp only [risingFrom, Bool.and_eq_true, decide_eq_true_eq] at h; exact risingFrom_lower ih (by omega)

/-- Taking entries away keeps the canonical form. -/
theorem twf_filter {α : Type} [DecidableEq α] {t : Tbl α} {d : α} {p : Nat × α → Bool} (h : twf t d = true) :
    twf (t.filter p) d = true := by
  simp only [twf, Bool.and_eq_true] at h ⊢
  refine ⟨risingFrom_filter h.1, ?_⟩
  have := h.2
  simp only [List.all_eq_true] at this ⊢
  exact fun x hx => this x (List.mem_of_mem_filter hx)

/-! ### Memory -/

/-- Storing bytes keeps the canonical form of a memory. -/
theorem storeBytes_wf : ∀ {bs : List Byte} {m : List Host.Cell} {a : Nat}, Memory.wf m = true → Memory.wf (storeBytes m a bs) = true
  | [], _, _, h => h
  | _ :: bs, _, _, h => storeBytes_wf (bs := bs) (twf_tset h)

/-- Zeroing a span keeps the canonical form of a memory. -/
theorem zeroBytes_wf {m : List Host.Cell} {a n : Nat} (h : Memory.wf m = true) : Memory.wf (zeroBytes m a n) = true := twf_filter h

/-- A store leaves every byte outside its span as it was. -/
theorem storeBytes_other : ∀ {bs : List Byte} {m : List Host.Cell} {a b : Nat}, (b < a ∨ a + bs.length ≤ b) →
    tget (storeBytes m a bs) b 0 = tget m b 0
  | [], _, _, _, _ => rfl
  | x :: bs, m, a, b, h => by
    simp only [List.length_cons] at h
    rw [storeBytes, storeBytes_other (by omega), tget_tset_other (by omega)]

/-- A store puts byte `i` of its data at `a + i`. -/
theorem storeBytes_at : ∀ {bs : List Byte} {m : List Host.Cell} {a i : Nat}, Memory.wf m = true → i < bs.length →
    tget (storeBytes m a bs) (a + i) 0 = bs.getD i 0
  | [], _, _, _, _, h => absurd h (by simp)
  | x :: bs, m, a, 0, hm, _ => by
    rw [storeBytes, storeBytes_other (by simp), Nat.add_zero, tget_tset_wf hm]; rfl
  | x :: bs, m, a, i + 1, hm, h => by
    have := storeBytes_at (bs := bs) (m := tset m a x 0) (a := a + 1) (i := i) (twf_tset hm) (by simpa using h)
    rw [storeBytes, show a + (i + 1) = a + 1 + i by omega, this]; rfl

@[simp] theorem loadBytes_length : ∀ (m : List Host.Cell) (a n : Nat), (loadBytes m a n).length = n
  | _, _, 0 => rfl
  | m, a, n + 1 => by simp [loadBytes, loadBytes_length m (a + 1) n]

@[simp] theorem toLE_length : ∀ (n v : Nat), (toLE n v).length = n
  | 0, _ => rfl
  | n + 1, v => by simp [toLE, toLE_length n (v / 256)]

/-- A number read back from its bytes. -/
theorem leNat_toLE : ∀ (n v : Nat), leNat (toLE n v) = v % 256 ^ n
  | 0, v => by simp [toLE, leNat, Nat.mod_one]
  | n + 1, v => by
    have h : 256 ^ (n + 1) = 256 * 256 ^ n := by rw [Nat.pow_succ, Nat.mul_comm]
    rw [toLE, leNat, leNat_toLE n, BitVec.toNat_ofNat, h, Nat.mod_mul]

end Sys2Proof.Machine
end

