-- ==== Sys2Proof/Laws/Ops.lean ====
section
/-!
SUPPORT. What each shared operation can do, said once: issue, queues, tokens, stamps, homes, event counters, faults, trap entry
and return.
-/
namespace Sys2Proof.Machine

/-! ### Issue -/

/-- A word that nothing holds has its effect. -/
theorem issue_of_issues {i : Instr} {s : State} {k : State → Out} (h : Issues s i) : issue i s k = k s := by
  obtain ⟨h1, h2, h3⟩ := h
  have : (s.cx.intrap && !handlerOk i) = false := by
    cases hi : s.cx.intrap
    · rfl
    · simp [h2 hi]
  simp [issue, h1, this, h3]

/-- What a word at issue can come to: it is held, it faults in a handler, or it has its effect. -/
theorem issue_cases (i : Instr) (s : State) (k : State → Out) :
    issue i s k = .next s ∨ issue i s k = .next (s.fault 0x01 (illegal i)) ∨ (Issues s i ∧ issue i s k = k s) := by
  cases h1 : s.canIssue with
  | false => exact .inl (by simp [issue, h1])
  | true =>
    cases h2 : (s.cx.intrap && !handlerOk i) with
    | true => exact .inr (.inl (by simp only [issue, h1, h2]; rfl))
    | false =>
      cases h3 : s.cx.holds i with
      | true => exact .inl (by simp only [issue, h1, h2, h3]; rfl)
      | false =>
        have : Issues s i := ⟨h1, fun h => by simpa [h] using h2, h3⟩
        exact .inr (.inr ⟨this, issue_of_issues this⟩)

theorem scalarResult_of_issues {i : Instr} {rd : Reg} {v : Context → Word} {s : State} (h : Issues s i) :
    scalarResult i rd v s = .next (s.onCx fun x => (x.setRg rd (v x)).retire) := issue_of_issues h

/-- An event of an object of the package has its effect. -/
theorem atCtx_of_ok {c : CtxLoc} {s : State} {f : State → State} (h : c.ok = true) : atCtx c s f = .next (f s) := by
  simp [atCtx, noObject, h]
theorem atClu_of_lt {p : Nat} {s : State} {f : State → State} (h : p < 40) : atClu p s f = .next (f s) := by
  simp [atClu, noObject, h]
theorem atPart_of_lt {p : Nat} {s : State} {f : State → State} (h : p < 16) : atPart p s f = .next (f s) := by
  simp [atPart, noObject, h]

/-! ### Registers -/

theorem Context.rg_zero (x : Context) : x.rg 0 = 0 := by simp [Context.rg]
theorem Context.setRg_zero (x : Context) (v : Word) : x.setRg 0 v = x := by simp [Context.setRg]

/-- A written register reads the value. -/
theorem Context.rg_setRg_same {x : Context} {r : Reg} {v : Word} (hw : twf x.regs 0 = true) (hr : r ≠ 0) :
    (x.setRg r v).rg r = v := by
  unfold Context.rg Context.setRg
  rw [if_neg hr, if_neg hr]
  exact tget_tset_wf hw

/-- A written register leaves every other one as it was. -/
theorem Context.rg_setRg_other {x : Context} {r q : Reg} {v : Word} (h : q ≠ r) : (x.setRg r v).rg q = x.rg q := by
  unfold Context.setRg
  split
  · rfl
  · unfold Context.rg
    split
    · rfl
    · exact tget_tset_other fun e => h (BitVec.eq_of_toNat_eq e)

/-! ### Queues -/

/-- A word that enters a queue: one item more with the captured values, and pc past it; nothing else changes. -/
theorem enqueue_eq (g : Eng) (i : Instr) (n : Nat) (a b d : Word) (m : Mask) (s : State) :
    enqueue g i n a b d m s =
      { s with cx := { s.cx.setQueue g
          { s.cx.queue g with items := (s.cx.queue g).items ++ [mkItem s.cx i (s.cx.queue g) a b d m],
                              issued := (s.cx.queue g).issued + 1 } with pc := s.cx.pc + BitVec.ofNat 64 (4 * n) } } := rfl

/-- A point enters its queue, or is held by eight others. -/
theorem enqueuePoint_cases (g : Eng) (i : Instr) (a b d : Word) (s : State) :
    enqueuePoint g i a b d s = (s, false) ∨
    ((s.cx.queue g).points < 8 ∧ (enqueuePoint g i a b d s).2 = true ∧
      (enqueuePoint g i a b d s).1 = s.onCx fun x =>
        { x.setQueue g { x.queue g with items := (x.queue g).items ++ [mkItem x i (x.queue g) a b d 0] } with pc := x.pc + 4 }) := by
  by_cases h : 8 ≤ (s.cx.queue g).points
  · exact .inl (by simp only [enqueuePoint, if_pos h])
  · exact .inr ⟨by omega, by simp only [enqueuePoint, if_neg h], by simp only [enqueuePoint, if_neg h]; rfl⟩

/-! ### Tokens -/

/-- A push fails only on a full queue, and then changes nothing (R31). -/
theorem Context.pushTok_cases (x : Context) (q : Nat) (m : Option Mark) :
    (8 ≤ (tget x.toks q {}).toks.length ∧ x.pushTok q m = (x, false)) ∨
    ((tget x.toks q {}).toks.length < 8 ∧
      x.pushTok q m = ({ x with toks := tset x.toks q { tget x.toks q {} with toks := (tget x.toks q {}).toks ++ [m],
                                                                              pushes := (tget x.toks q {}).pushes + 1 } {} }, true)) := by
  by_cases h : 8 ≤ (tget x.toks q {}).toks.length
  · exact .inl ⟨h, by simp only [Context.pushTok, if_pos h]⟩
  · exact .inr ⟨Nat.lt_of_not_le h, by simp only [Context.pushTok, if_neg h]⟩

/-! ### Homes and stamps -/

/-- A write at its home changes the bytes that it covers and no other. -/
theorem applyBytes_other {s : State} {pa a : Nat} {bs : List Byte} {bad : Bool} {st : Stamp} (h : a < pa ∨ pa + bs.length ≤ a) :
    tget (applyBytes s pa bs bad st).mem a 0 = tget s.mem a 0 := storeBytes_other h

theorem applyBytes_at {s : State} {pa i : Nat} {bs : List Byte} {bad : Bool} {st : Stamp} (hm : Memory.wf s.mem = true)
    (h : i < bs.length) : tget (applyBytes s pa bs bad st).mem (pa + i) 0 = bs.getD i 0 := storeBytes_at hm h

/-- A write at its home keeps the canonical form of memory. -/
theorem applyBytes_wf {s : State} {pa : Nat} {bs : List Byte} {bad : Bool} {st : Stamp} (h : Memory.wf s.mem = true) :
    Memory.wf (applyBytes s pa bs bad st).mem = true := storeBytes_wf h

@[simp] theorem stampWrite_mem (s : State) (d : Nat) (o : Stamp) : (s.stampWrite d o).2.mem = s.mem := rfl
@[simp] theorem stampWrite_cx (s : State) (d : Nat) (o : Stamp) : (s.stampWrite d o).2.cx = s.cx := rfl

@[simp] theorem tell_mem (s : State) (w : Origin) (v : Word) (st : Stamp) (f : Option (BitVec 8)) : (s.tell w v st f).mem = s.mem := by
  rcases w with ⟨c, q, p, _ | id⟩ | ⟨p, e, n, b⟩ | ⟨p, t, i⟩ | ⟨c, n, va⟩ <;> cases f <;> first | rfl | simp [State.tell]

@[simp] theorem onFetch_mem (s : State) (p : Nat) (t : Word) (i : Nat) (f : Fetch → Fetch) : (s.onFetch p t i f).mem = s.mem := rfl
@[simp] theorem ringMail_mem (s : State) (pa n : Nat) : (s.ringMail pa n).mem = s.mem := rfl
@[simp] theorem noteWalk_mem (s : State) (pcl p va : Nat) : (s.noteWalk pcl p va).mem = s.mem := by
  unfold State.noteWalk; split <;> rfl

@[simp] theorem coverLine_mem (k : Nat × Nat × Nat × Nat) (pa n : Nat) (s : State) (u : Nat) : (s.coverLine k pa n u).mem = s.mem := by
  unfold State.coverLine
  split
  · rfl
  · simp only
    split <;> rfl

@[simp] theorem coverRow_mem (s : State) (t : Transit) : (s.coverRow t).mem = s.mem := by
  have h : ∀ (k : Nat × Nat × Nat × Nat) (us : List Nat) (s : State),
      (us.foldl (State.coverLine k t.pa t.data.length) s).mem = s.mem := by
    intro k us
    induction us with
    | nil => intro s; rfl
    | cons u r ih => intro s; rw [List.foldl_cons, ih, coverLine_mem]
  unfold State.coverRow
  split
  · rfl
  · split
    · rfl
    · exact h _ _ _

/-- A write under way that is applied, or that its home fails, keeps the canonical form of memory. -/
theorem applyOne_wf {s : State} {t : Transit} {e : Bool} (h : Memory.wf s.mem = true) : Memory.wf (s.applyOne t e).mem = true := by
  unfold State.applyOne
  cases e with
  | true => simpa using h
  | false =>
    cases t.atom with
    | none => simpa using applyBytes_wf (s := { s with transit := s.transit.erase t }) (bad := t.bad) (st := t.stamp) h
    | some a =>
      simp only [Bool.false_eq_true, if_false]
      split
      · simpa using h
      · simpa using applyBytes_wf (s := { s with transit := s.transit.erase t }) (bad := t.bad) (st := t.stamp) h

theorem flush_wf {s : State} {st : Stamp} (h : Memory.wf s.mem = true) : Memory.wf (s.flush st).mem = true := by
  unfold State.flush
  generalize s.transit = ts
  induction ts generalizing s with
  | nil => exact h
  | cons t r ih =>
    simp only [List.foldl_cons]
    apply ih
    split
    · exact applyOne_wf h
    · exact h

/-- A write of the hardware, and a stamped one of an engine, keep the canonical form of memory. -/
theorem hwWrite_wf {s : State} {pa : Nat} {o : Stamp} {bs : List Byte} {bad : Bool} (h : Memory.wf s.mem = true) :
    Memory.wf (s.hwWrite o pa bs bad).mem = true := applyBytes_wf h

theorem engWrite_wf {s : State} {d pa : Nat} {o : Stamp} {bs : List Byte} {bad : Bool} (h : Memory.wf s.mem = true) :
    Memory.wf (s.engWrite d o pa bs bad).mem = true := by
  simp only [State.engWrite, ringMail_mem]
  exact applyBytes_wf (flush_wf h)

theorem vwrite_wf {pcl p : Nat} {o : Stamp} : ∀ {ls : List (Nat × List Byte)} {s : State}, Memory.wf s.mem = true →
    Memory.wf (s.vwrite pcl p o ls).1.mem = true
  | [], _, h => h
  | (va, bs) :: r, s, h => by
    unfold State.vwrite
    split
    · simpa using h
    · split
      · exact h
      · exact vwrite_wf (hwWrite_wf h)

theorem vstore_wf {pcl p va : Nat} {o : Stamp} {bs : List Byte} {s : State} (h : Memory.wf s.mem = true) :
    Memory.wf (s.vstore pcl p o va bs).1.mem = true := vwrite_wf h

/-- A change of the window memory of Moss keeps its canonical form. -/
theorem storeMoss_wf {m : List Host.Cell} {a : Nat} {bs : List Byte} (h : Memory.wf m = true) :
    Memory.wf (storeBytes m a bs) = true := storeBytes_wf h

/-! ### Event counters (R206) -/

/-- The sum inside the range of a counter is exact, and the saturation bit stays. -/
theorem counterAdd_exact {k : Counter} {inc : Word} (h0 : 0 ≤ (k.val.toNat : Int) + inc.toInt)
    (h1 : (k.val.toNat : Int) + inc.toInt < 2 ^ 64) :
    counterAdd k inc = { k with val := BitVec.ofInt 64 ((k.val.toNat : Int) + inc.toInt) } := by
  simp only [counterAdd]
  rw [if_neg (by omega), if_neg (by omega)]

/-! ### Faults -/

/-- A fault is taken by a resident context that is not halted yet: the cause registers are written and the halt line rises; what
follows is the cut, at once where nothing is in flight. -/
theorem raise_fault {s : State} {c : CtxLoc} {cause : BitVec 8} {tval epc : Word} {m : Option (Eng × BitVec 32 × Word)}
    (h1 : (s.ctxAt c).halt = none) (h2 : (s.ctxAt c).debug = false) (h3 : (s.ctxAt c).resident = true)
    (h4 : cause ≠ 0x16) (h5 : cause ≠ 0x17) :
    s.raise c cause tval epc m =
      (s.onCtx c fun x => { x with ecause := cause.setWidth 64, etval := tval, halt := some ⟨.fault, epc, m⟩ }).settle c := by
  have e4 : ¬ cause = 22#8 := h4
  have e5 : ¬ cause = 23#8 := h5
  simp [State.raise, h1, h2, h3, e4, e5]

/-- The return restores `stat` but for the context number, and leaves the saved registers. -/
theorem trapReturn_stat (x : Context) : x.trapReturn.stat = putBits x.estat 6 2 (bitsOf x.stat 6 2) := by
  unfold Context.trapReturn Context.resume
  simp only
  split
  · rfl
  · split
    · unfold Context.discardMarked
      simp only
      split
      · rfl
      · rename_i g n _
        have keep : ∀ (y : Context) (q : Queue), (y.setQueue g q).stat = y.stat := by intro y q; cases g <;> rfl
        rw [keep]
        repeat' split
        all_goals rfl
    · unfold Context.emptyToks
      simp only
      generalize List.range 16 = l
      have : ∀ (l : List Nat) (y : Context),
          (l.foldl (fun x q => { x with toks := tset x.toks q { tget x.toks q {} with toks := [] } {} }) y).stat = y.stat := by
        intro l; induction l with
        | nil => intro y; rfl
        | cons a l ih => intro y; simp only [List.foldl_cons]; rw [ih]
      rw [this]; rfl

/-! ### Writes that reach their homes -/

/-- Translations, partitions and the lines whose home reports an error are as they were. -/
def State.sameTables (s t : State) : Prop := t.tlb = s.tlb ∧ t.parts = s.parts ∧ t.failing = s.failing

theorem State.sameTables_refl (s : State) : s.sameTables s := ⟨rfl, rfl, rfl⟩

theorem State.sameTables_trans {s t u : State} (h : s.sameTables t) (g : t.sameTables u) : s.sameTables u :=
  ⟨g.1.trans h.1, g.2.1.trans h.2.1, g.2.2.trans h.2.2⟩

/-- What each step of a fold keeps, the fold keeps. -/
theorem State.sameTables_foldl {α : Type} (f : State → α → State) (h : ∀ (s : State) (a : α), s.sameTables (f s a)) :
    ∀ (l : List α) (s : State), s.sameTables (l.foldl f s)
  | [], s => s.sameTables_refl
  | a :: r, s => State.sameTables_trans (h s a) (State.sameTables_foldl f h r (f s a))

/-- A party that hears of its write keeps them. -/
theorem State.tell_keeps (s : State) (who : Origin) (v : Word) (st : Stamp) (f : Option (BitVec 8)) : s.sameTables (s.tell who v st f) := by
  cases who with
  | lword c seq part buf => cases buf <;> simp [State.tell, State.sameTables]
  | engine pcl e num b => simp [State.tell, State.onCmd, State.sameTables]
  | shard p t i => exact s.sameTables_refl
  | save c n va => exact s.sameTables_refl

/-- So do the lines that a vector store's row covers (R245). -/
theorem State.coverRow_keeps (s : State) (t : Transit) : s.sameTables (s.coverRow t) := by
  have one : ∀ (k : Nat × Nat × Nat × Nat) (s : State) (u : Nat), s.sameTables (s.coverLine k t.pa t.data.length u) := by
    intro k s u
    unfold State.coverLine
    split
    · exact s.sameTables_refl
    · simp only
      split <;> exact ⟨rfl, rfl, rfl⟩
  unfold State.coverRow
  split
  · exact s.sameTables_refl
  · split
    · exact s.sameTables_refl
    · exact State.sameTables_foldl _ (one _) _ s

/-- A write that is applied at its home keeps them. -/
theorem State.applyOne_keeps (s : State) (t : Transit) (e : Bool) : s.sameTables (s.applyOne t e) := by
  unfold State.applyOne
  cases e with
  | true => exact State.tell_keeps ..
  | false =>
    cases t.atom with
    | none =>
      simp only [Bool.false_eq_true, if_false]
      refine State.sameTables_trans ⟨?_, ?_, ?_⟩ (State.tell_keeps ..)
      · exact (State.coverRow_keeps _ t).1
      · exact (State.coverRow_keeps _ t).2.1
      · exact (State.coverRow_keeps _ t).2.2
    | some a =>
      simp only [Bool.false_eq_true, if_false]
      split
      · exact State.tell_keeps ..
      · exact State.tell_keeps ..

/-- So do the writes that a stamp depends on (R253). -/
theorem State.flush_keeps (st : Stamp) (s : State) : s.sameTables (s.flush st) := by
  unfold State.flush
  refine State.sameTables_foldl _ ?_ _ s
  intro s t
  split
  · exact State.applyOne_keeps s t false
  · exact s.sameTables_refl

end Sys2Proof.Machine
end

