-- ==== Sys2Proof/Tests/Slice0.lean ====
section
/-!
SUPPORT. Tests: an ill-formed term for each check of well-formedness, words written out from the encodings of spec/02 and the
instructions they stand for, single steps with results calculated by hand from the rules, and for every obligation with hypotheses
states and operands that meet them.
-/
open Sys2Proof Sys2Proof.Machine

namespace Sys2Proof.Tests

set_option Elab.async false

/-! ### Well-formed and ill-formed terms -/

/-- A vector word that its encoding accepts: VADD in FP32 of three granules. -/
def vf : VF := ⟨.fp32, 0, .rne, false, 0, 0, 0, 20, 1, 24, 1, 40, 1, false, 0⟩

def ef : EF := ⟨false, false, 0, 5, 0⟩

theorem test_wf_accepts : (Instr.vadd vf).wf = true ∧ (Instr.engCopy ef).wf = true ∧ (Instr.fence 2 .device).wf = true ∧
    (Instr.tokpost .l .v).wf = true ∧ (Instr.mts 0x020 4).wf = true ∧ (Instr.vWordStart ⟨39, 127, 2⟩).wf = true := by decide +kernel

/-- R44: a store of a zero-extending width; R43, R110: a fence of no kind; R31: a token queue of one engine; R219: class 0; R113: a number
whose MTS is a row of its own. -/
theorem test_wf_refuses_scalar : (Instr.st .bu 1 2 0).wf = false ∧ (Instr.stl .wu .device 1 2).wf = false ∧ (Instr.fence 0 .device).wf = false ∧
    (Instr.tokpost .v .v).wf = false ∧ (Instr.toktake .e .e).wf = false ∧ (Instr.mclass 0 1 2 3).wf = false ∧
    (Instr.mts 0x022 4).wf = false ∧ (Instr.mts 0x127 4).wf = false := by decide +kernel

/-- R122, R144: the format, rounding, saturation, function and mask fields of parcel 0. -/
theorem test_wf_refuses_parcel0 : (Instr.vadd { vf with fmt := .u8 }).wf = false ∧ (Instr.vadd { vf with rnd := .sr }).wf = false ∧
    (Instr.vmin { vf with sat := true }).wf = false ∧ (Instr.vadd { vf with fn := 1 }).wf = false ∧
    (Instr.vcmp { vf with vd := 3, sd := 0, fn := 8 }).wf = false ∧
    (Instr.mand { vf with fmt := .empty, vd := 1, sd := 0, va := 2, sa := 0, vb := 3, sb := 0, mask := 1 }).wf = false := by decide +kernel

/-- R48: mask and scalar registers out of range, strides and operands that must be zero. -/
theorem test_wf_refuses_operands : (Instr.vcmp { vf with vd := 8, sd := 0 }).wf = false ∧ (Instr.vcmp { vf with vd := 3 }).wf = false ∧
    (Instr.vadd { vf with bs := true, vb := 32, sb := 0 }).wf = false ∧ (Instr.vadd { vf with imm := 1 }).wf = false ∧
    (Instr.vabs vf).wf = false ∧ (Instr.vlut3 { vf with imm := 256 }).wf = false ∧ (Instr.vld { vf with va := 32, sa := 0 }).wf = false ∧
    (Instr.vretag { vf with vb := 0, sb := 0 }).wf = false := by decide +kernel

/-- R54, R266: s0 without the reply bit, and rs2 zero; R375: a context that the package does not have. -/
theorem test_wf_refuses_engine : (Instr.engCopy { ef with rd := 1 }).wf = false ∧ (Instr.engCopy { ef with rs2 := 1 }).wf = false ∧
    (Instr.engCqry { ef with rs2 := 1 }).wf = true ∧ (Instr.vWordStart ⟨40, 0, 0⟩).wf = false ∧ (Instr.vWordStart ⟨0, 128, 0⟩).wf = false ∧
    (Instr.mWordFinish ⟨0, 0, 3⟩).wf = false := by decide +kernel

/-! ### Decoding: words written out bit by bit from spec/02 -/

/-- R43, R44, R45: integer, immediate, branch, jump, load and store words. -/
theorem test_decode_scalar : decode [0xFFF4C504] = .ok (.addi 5 6 (-3), []) ∧ decode [0x0014411C] = .ok (.shli 1 2 5, []) ∧
    decode [0xFF907E30] = .ok (.beq 3 4 (-2), []) ∧ decode [0x0000A14C] = .ok (.jalr 1 5 0, []) ∧
    decode [0x80404150] = .ok (.ld .w 1 2 16, []) ∧ decode [0x81A44454] = .ok (.st .w 9 2 100, []) ∧
    decode [0x0C906760] = .ok (.amoAdd false .device true 7 3 4, []) := by
  refine ⟨?_, ?_, ?_, ?_, ?_, ?_, ?_⟩ <;> decide +kernel

/-- R43, R110, R113 to R117: fences, token words, special registers, handler and strand ends. -/
theorem test_decode_system : decode [0x24000068] = .ok (.fence 4 .device, []) ∧ decode [0x0C80007C] = .ok (.toktake .v .e, []) ∧
    decode [0x02000470] = .ok (.mfs 0x020 4, []) ∧ decode [0x01800078] = .ok (.exit, []) ∧ decode [0x00800078] = .ok (.tret, []) ∧
    decode [0x01000078] = .ok (.bkpt, []) ∧ decode [0x00000584] = .ok (.yield 5, []) ∧ decode [0x1018A384] = .ok (.suspend 3 5 6, []) := by
  refine ⟨?_, ?_, ?_, ?_, ?_, ?_, ?_, ?_⟩ <;> decide +kernel

/-- R53: groups, counters, rings, launches, leave. -/
theorem test_decode_sync : decode [0x20800084] = .ok (.bar 1, []) ∧ decode [0x30800684] = .ok (.bararr 6 1, []) ∧
    decode [0x4080C084] = .ok (.barwait 1 6, []) ∧ decode [0x50800684] = .ok (.grpinfo 6 1, []) ∧
    decode [0x0418A08C] = .ok (.evadd .device 5 6, []) ∧ decode [0x1018A78C] = .ok (.evwait 7 5 6, []) ∧
    decode [0x0100A090] = .ok (.rpsh 2 5, []) ∧ decode [0x2100A090] = .ok (.rinit 2 5, []) ∧
    decode [0x0080C588] = .ok (.launchBlock 5 6, []) ∧ decode [0x0000A498] = .ok (.leave 4 5, []) ∧
    decode [0x00800498] = .ok (.leaverd 4, []) := by
  refine ⟨?_, ?_, ?_, ?_, ?_, ?_, ?_, ?_, ?_, ?_, ?_⟩ <;> decide +kernel

/-- R53, R54: Moss words and engine words. -/
theorem test_decode_moss_engine : decode [0x0318A494] = .ok (.mclass 3 4 5 6, []) ∧ decode [0x1018A494] = .ok (.mfree 4 5 6, []) ∧
    decode [0x2018A494] = .ok (.mrefresh 4 5 6, []) ∧ decode [0x3000A494] = .ok (.mage 4 5, []) ∧ decode [0x4018A494] = .ok (.mquery 4 5 6, []) ∧
    decode [0x8000C080] = .ok (.engCopy ⟨true, false, 0, 6, 0⟩, []) ∧ decode [0x5800C780] = .ok (.engFamo ⟨false, true, 0, 6, 7⟩, []) ∧
    decode [0x1C18A080] = .ok (.engEvsig ⟨false, false, 6, 5, 0⟩, []) ∧ decode [0x7018A780] = .ok (.engCqry ⟨false, true, 6, 5, 7⟩, []) := by
  refine ⟨?_, ?_, ?_, ?_, ?_, ?_, ?_, ?_, ?_⟩ <;> decide +kernel

/-- R47 to R52 with their examples: vector and matrix words. -/
theorem test_decode_vector : decode [0x01403002, 0x00418214, 0x00000228] =
      .ok (.vadd ⟨.bf16, 0, .rne, false, 2, 1, 0, 20, 1, 12, 1, 40, 1, false, 0⟩, []) ∧
    decode [0x0000210E, 0x00408214, 0x0025823C] = .ok (.vlut3 ⟨.u64, 0, .rne, false, 0, 0, 0, 20, 1, 4, 1, 60, 1, false, 0x96⟩, []) ∧
    decode [0x0000014A, 0x00002003, 0x00000002] = .ok (.mand ⟨.empty, 0, .rne, false, 0, 0, 0, 3, 0, 1, 0, 2, 0, false, 0⟩, []) ∧
    decode [0x00002AC2, 0x0000420A, 0x00100003] = .ok (.vld ⟨.fp32, 0, .rne, false, 0, 0, 0, 10, 1, 2, 0, 3, 0, false, 64⟩, []) ∧
    decode [0x01485403, 0x05030040, 0x00020078, 0xFF, 0, 0] =
      .ok (.mma ⟨4, 5, false, 2, 2, 1, false, false, false, 64, 3, 5, 120, 2, 15, 15⟩, []) := by
  refine ⟨?_, ?_, ?_, ?_, ?_⟩ <;> decide +kernel

/-! ### Small states -/

def c0 : CtxLoc := ⟨0, 0, 0⟩

/-- A partition of cluster 0 with two pages. -/
def part0 : Partition := { formed := true, clusters := 1, pages := [65536, 65537] }

/-- The translation of the first 4 GiB, which the cluster holds: to the physical addresses from 4 GiB up, with every permission. -/
def leaf : Word := BitVec.ofNat 64 (2 ^ 32 + 0x3F)

/-- A strand of the partition runs in context 0. -/
def base : State :=
  { cx := { resident := true, pc := 0x40, tvec := 0x1000, savearea := 0x4000, recaddr := 0x2000, launchid := 7, strandid := 3 }
    parts := [(0, part0)], mem := [(0, 0x3F), (4, 1)], tlb := [(0, 0, 0, 2 ^ 32, leaf)] }

/-- The strand with other registers. -/
def regs (l : Tbl Word) : State := { base with cx := { base.cx with regs := l } }

/-- The strand with another context. -/
def onBase (f : Context → Context) : State := { base with cx := f base.cx }

/-- The physical address of a virtual one. -/
def phys (va : Nat) : Nat := 2 ^ 32 + va

/-- An item of a queue. -/
def item (i : Instr) (a b : Word) : Item := mkItem base.cx i {} a b 0 0

/-- The state after a word or an event. -/
def after (o : Host.Outcome State Fault Refusal) : State := match o with | .next t => t | _ => {}

theorem base_inv : base.Inv := by unfold State.Inv; decide +kernel

/-! ### Single steps, with results by hand -/

/-- R93: the sum wraps; R96: −2⁶³ ÷ −1; R93: no one bit gives 64; the amount's upper bits are ignored. -/
theorem test_integer_step : (after (exec (.add 1 2 2) (regs [(2, 0x8000000000000000)]))).cx.rg 1 = 0 ∧
    (after (exec (.div 1 2 3) (regs [(2, 0x8000000000000000), (3, -1)]))).cx.rg 1 = 0x8000000000000000 ∧
    (after (exec (.clz 1 0) base)).cx.rg 1 = 64 ∧
    (after (exec (.sar 1 2 3) (regs [(2, 0x8000000000000000), (3, 0x41)]))).cx.rg 1 = 0xC000000000000000 := by
  refine ⟨?_, ?_, ?_, ?_⟩ <;> decide +kernel

/-- R99: JALR takes its target from rs1 as it was, where rd is rs1; R98: a backward branch. -/
theorem test_jump_step : (after (exec (.jalr 5 5 8) (regs [(5, 0x100)]))).cx.pc = 0x108 ∧
    (after (exec (.jalr 5 5 8) (regs [(5, 0x100)]))).cx.rg 5 = 0x44 ∧
    (after (exec (.beq 3 4 (-2)) base)).cx.pc = 0x38 := by
  refine ⟨?_, ?_, ?_⟩ <;> decide +kernel

/-- R97: 1 + 2⁻²⁴ is halfway and goes to the even 1.0, with the inexact flag; R9: a write of s0 is discarded. -/
theorem test_fadd_step : (after (exec (.fadd 1 2 3) (regs [(2, 0x3F800000), (3, 0x33800000)]))).cx.rg 1 = 0x3F800000 ∧
    (after (exec (.addi 0 0 5) base)).cx.rg 0 = 0 := by
  refine ⟨?_, ?_⟩ <;> decide +kernel

/-- R101: a misaligned load is cause 0x07 with its address; R344: TRAP saves the next word's address. -/
theorem test_trap_step : (after (exec (.ld .d 1 2 4) (regs [(2, 0x100)]))).cx.ecause = 0x07 ∧
    (after (exec (.ld .d 1 2 4) (regs [(2, 0x100)]))).cx.etval = 0x104 ∧
    (after (exec (.trap 2) (regs [(2, 9)]))).cx.epc = 0x44 ∧ (after (exec (.trap 2) (regs [(2, 9)]))).cx.pc = 0x1000 := by
  refine ⟨?_, ?_, ?_, ?_⟩ <;> decide +kernel

/-- R206: a counter at its upper bound saturates; R253: a stamped write changes its bytes. -/
theorem test_event_step : ((after (exec (.eventAdd 0) { base with
      clus := [(0, { counters := [(5, { val := -1 })] })], adds := [⟨0, 0, 5, 9, false, false, {}, none⟩] })).cluAt 0).counter 5 =
      { val := -1, sat := true } ∧
    (after (exec (.writeApplied ⟨0, false⟩) { base with transit := [⟨.lword c0 0 0 none, 0, {}, phys 8, [7, 0], false, none, none⟩] })).mem =
      [(0, 0x3F), (4, 1), (phys 8, 7)] := by
  refine ⟨?_, ?_⟩ <;> decide +kernel

/-- R129: the elements of a VIADD whose mask bit is set wrap in their width (a bit for two 8-bit elements, R26); the others keep the destination (R25). -/
theorem test_viadd_step : ((after (exec (.vWordFinish c0) (onBase fun x => { x with
      win := [(1, ⟨0x01FF02FE, .u8, false, false⟩), (2, ⟨0x03030303, .u8, false, false⟩), (3, ⟨0xAABBCCDD, .u8, false, false⟩)]
      qv := { items := [{ item (.viadd { vf with fmt := .u8, mask := 1, vd := 3, va := 1, vb := 2 }) 0 0 with
        mask := 1, vshape := 0xFF0, phase := .going }] } }))).cx.gran 3).data = 0xAABB0501 := by decide +kernel

/-! ### Witnesses: states and operands that meet the hypotheses of the obligations -/

/-- A state in which every scalar word issues. -/
theorem witness_IntegerRegisterWords : ∀ i ∈ [Instr.add 1 2 3, .sub 1 2 3, .and 1 2 3, .or 1 2 3, .xor 1 2 3, .shl 1 2 3, .shr 1 2 3, .sar 1 2 3,
    .rol 1 2 3, .slt 1 2 3, .sltu 1 2 3, .min 1 2 3, .max 1 2 3, .minu 1 2 3, .maxu 1 2 3, .clz 1 2, .popc 1 2, .andn 1 2 3],
    Issues base i := by unfold Issues; decide +kernel

theorem witness_ImmediateWords : (∀ i ∈ [Instr.addi 1 2 (-1), .andi 1 2 3, .ori 1 2 3, .xori 1 2 3, .slti 1 2 3, .sltui 1 2 3, .shli 1 2 63,
      .shri 1 2 63, .sari 1 2 63, .roli 1 2 0], Issues base i) ∧
    (0x0400411C : Parcel).extractLsb' 2 6 = 7 ∧ (0x0400411C : Parcel).extractLsb' 26 6 ≠ 0 := by unfold Issues; decide +kernel

theorem witness_UpperImmediateWords : Issues base (.lui 1 0x40000) ∧ Issues base (.addpc 1 0x40000) := by unfold Issues; decide +kernel

/-- −2⁶³ by −1; any other pair. -/
theorem witness_MultiplyDivideWords : (∀ i ∈ [Instr.mul 1 2 3, .mulh 1 2 3, .mulhu 1 2 3, .div 1 2 3, .divu 1 2 3, .rem 1 2 3, .remu 1 2 3],
      Issues base i) ∧
    (regs [(2, BitVec.intMin 64), (3, -1)]).cx.rg 3 = -1 ∧ (regs [(2, BitVec.intMin 64), (3, -1)]).cx.rg 2 = BitVec.intMin 64 ∧
    (regs [(2, BitVec.intMin 64), (3, 1)]).cx.rg 3 ≠ 0 ∧ ¬((regs [(2, BitVec.intMin 64), (3, 1)]).cx.rg 2 = BitVec.intMin 64 ∧
      (regs [(2, BitVec.intMin 64), (3, 1)]).cx.rg 3 = -1) := by unfold Issues; decide +kernel

/-- Zeros of both signs; infinity by zero, with the greatest addend that is no NaN and the least that is one. -/
theorem witness_ScalarFloatWords : (∀ i ∈ [Instr.fadd 1 2 3, .fsub 1 2 3, .fmul 1 2 3, .ffma 1 2 3, .fmin 1 2 3, .fmax 1 2 3, .fcvtif 1 2,
      .fcvtfi 1 2, .fcmpeq 1 2 3, .fcmplt 1 2 3, .fcmple 1 2 3], Issues base i) ∧
    (let x := (regs [(2, 0x80000000)]).cx; (x.rg 2).toNat % 2 ^ 32 % 2 ^ 31 = 0 ∧ (x.rg 3).toNat % 2 ^ 32 % 2 ^ 31 = 0) ∧
    (let x := (regs [(1, 0xFF800000), (2, 0x7F800000)]).cx; (x.rg 2).toNat % 2 ^ 32 = 0x7F800000 ∧ (x.rg 3).toNat % 2 ^ 32 = 0 ∧
      (x.rg 1).toNat % 2 ^ 32 % 2 ^ 31 ≤ 0x7F800000) ∧
    (let x := (regs [(1, 0x7F800001), (2, 0x7F800000)]).cx; (x.rg 2).toNat % 2 ^ 32 = 0x7F800000 ∧ (x.rg 3).toNat % 2 ^ 32 = 0 ∧
      0x7F800000 < (x.rg 1).toNat % 2 ^ 32 % 2 ^ 31) := by unfold Issues; decide +kernel

theorem witness_BranchWords : ∀ i ∈ [Instr.beq 1 2 (-1), .bne 1 2 3, .blt 1 2 3, .bge 1 2 3, .bltu 1 2 3, .bgeu 1 2 3], Issues base i := by
  unfold Issues; decide +kernel

theorem witness_JumpWords : Issues base (.jal 1 (-1)) ∧ Issues base (.jalr 1 2 3) ∧
    ((regs [(2, 0x101)]).cx.rg 2 + BitVec.ofInt 64 (3 : BitVec 14).toInt).toNat % 4 = 0 ∧
    ((regs [(2, 0x101)]).cx.rg 2 + BitVec.ofInt 64 (2 : BitVec 14).toInt).toNat % 4 ≠ 0 := by unfold Issues; decide +kernel

theorem witness_AddressConversionWords : ∀ i ∈ [Instr.cvta false .dev 1 2, .cvta true .dev 1 2, .cvta false .remote 1 2, .cvta true .remote 1 2,
    .cvta false .moss 1 2, .cvta true .moss 1 2, .cvta false .win 1 2, .cvta true .win 1 2, .spchk .dev 1 2, .spchk .remote 1 2,
    .spchk .moss 1 2, .spchk .win 1 2], Issues base i := by unfold Issues; decide +kernel

/-- A watch of the loads of the 8 bytes from 0x100 up. -/
def watched : State := onBase fun x => { x with stat := 0xC, dwatch := [(0, 0x4000000000000100)] }

/-- No aperture; a misaligned byte; a watched one; the last of an aperture. -/
theorem witness_LoadStoreWords : (∀ i ∈ [Instr.ld .d 1 2 0, .st .d 1 2 0, .lda .w .core 1 2, .stl .b .system 1 2], Issues base i) ∧
    placeOf base.cx.wsize 0x2000000000000000 = none ∧ placeOf base.cx.wsize 0xFFFFFFFFFFF8 = some (.dev 0xFFFFFFFFFFF8) ∧
    (0xFFFFFFFFFFFC : Word).toNat % 8 ≠ 0 ∧ placeOf base.cx.wsize 0xFFFFFFFFFFFC = some (.dev 0xFFFFFFFFFFFC) ∧
    watchHit watched.cx 1 (.dev 0x100) 8 = some 0 ∧ watchHit watched.cx 2 (.dev 0x100) 8 = none ∧ watched.cx.intrap = false := by
  unfold Issues; decide +kernel

/-- The register window, which no atomic may name; a misaligned address; an address that is let through. -/
theorem witness_AtomicWords : (∀ i ∈ [Instr.amoSwap true .core true 1 2 3, .amoAdd true .core true 1 2 3, .amoAnd true .core true 1 2 3,
      .amoOr true .core true 1 2 3, .amoXor true .core true 1 2 3, .amoMin true .core true 1 2 3, .amoMax true .core true 1 2 3,
      .amoMinu true .core true 1 2 3, .amoMaxu true .core true 1 2 3, .amoFadd .core true 1 2 3, .cas true .core true 1 2 3], Issues base i) ∧
    placeOf base.cx.wsize 0xFFFE000000000000 = some (.win 0) ∧ placeOf base.cx.wsize 0x104 = some (.dev 0x104) ∧
    (0x104 : Word).toNat % 8 ≠ 0 ∧ (0x104 : Word).toNat % 4 = 0 ∧ watchHit base.cx 3 (.dev 0x104) 4 = none := by
  unfold Issues; decide +kernel

theorem witness_AtomicWords_allowed : ¬(fun p : Place => ∀ o, p ≠ .win o) (.win 0) ∧ (fun p : Place => ∀ o, p ≠ .win o) (.dev 0x104) :=
  ⟨fun h => h 0 rfl, fun _ h => nomatch h⟩

/-- A word ahead in the L queue; eight points there. -/
def behind (n : Nat) (l : Tbl Word) : State :=
  { base with
    cx := { base.cx with regs := l, grp := 0x100000002,
                         ql := { items := item (.ld .w 1 2 0) 0x100 0 :: List.replicate n (item (.fence 4 .core) 0 0) } }
    parts := [(0, { part0 with launches := [(7, { parseLaunch [] 0 0 none with groups := 0x1000 })] })]
    mem := base.mem ++ [(phys 0x1020, 2)] }

def mossBase : Word := 0xFFFD000000000000

theorem witness_PointWordsQueue : (∀ i ∈ [Instr.tokpost .l .v, .fence 4 .device, .evadd .core 5 6, .evset 5 6, .bar 0, .bararr 9 0, .launch 9 5,
      .launchBlock 9 5, .mclass 1 9 5 6, .mfree 9 5 6, .mrefresh 9 5 6, .mage 9 5, .mquery 9 5 6],
      Issues (behind 0 []) i ∧ Issues (behind 8 []) i) ∧
    (behind 0 []).cx.ql.items ≠ [] ∧ (behind 0 []).cx.ql.points < 8 ∧ 8 ≤ (behind 8 []).cx.ql.points ∧ base.cx.intrap = false ∧
    eventBad base 0 0 0x3FF = none ∧ (groupView (behind 0 []) 0).toOption.isSome = true ∧ placeOf 48 0xFFFFFFFFFF80 = some (.dev 0xFFFFFFFFFF80) ∧
    (0xFFFFFFFFFF80 : Word).toNat % 128 = 0 ∧ mossCheck mossBase 2 true = none ∧ mclassCheck (behind 0 []) 1 2 = none ∧
    mossCheck mossBase 0 false = none ∧ mossCheck mossBase 1 false = none := by unfold Issues; decide +kernel

/-- A buffered write that the strand has observed. -/
def buffered : State := { base with clus := [(0, { wbuf := [⟨1, c0, 0, 0, phys 0x40, [1, 2], false, none, [], [c0]⟩] })] }

def tokens (l : List (Option Mark)) : State := onBase fun x => { x with toks := [(tq .v .e, { toks := l })] }

theorem witness_FenceAndTokenWords : Issues buffered (.fence 15 .device) ∧ buffered.cx.ql.items = [] ∧ buffered.cx.lane = [] ∧
    buffered.cx.parked = false ∧ (∀ l ∈ [[none], [some ⟨0x10, 5⟩], []], Issues (tokens l) (.toktake .v .e) ∧ tfind (tokens l).cx.waits 4 = none) ∧
    Issues (tokens (List.replicate 7 none)) (.tokpost .v .e) ∧ (tget (tokens (List.replicate 7 none)).cx.toks (tq .v .e) {}).toks.length < 8 := by
  unfold Issues; decide +kernel

/-! ### Hardware writes and reads of the partition's first page succeed -/

theorem translate_base (t : State) (va : Nat) (k : Acc) (hg : grants leaf k = true) (h1 : t.tlb = base.tlb)
    (h2 : (t.partAt 0).pages = part0.pages) (h : va < 65536) : Machine.translate t 0 0 va k = .ok (phys va) := by
  have hb : bitsOf leaf 12 36 * 4096 = 2 ^ 32 := by decide +kernel
  have hl : Nat.log2 (2 ^ 32) = 32 := by decide +kernel
  have hm : va % 2 ^ 32 = va := Nat.mod_eq_of_lt (by omega)
  have hf : t.tlb.find? (fun e => e.1 = 0 && e.2.1 = 0 && e.2.2.1 ≤ va && va < e.2.2.1 + e.2.2.2.1) = some (0, 0, 0, 2 ^ 32, leaf) := by
    rw [h1]; simp [base]; omega
  have ha : assigned (t.partAt 0) (2 ^ 32 + va) = true := by
    simp only [assigned, h2, part0]
    simp
    omega
  have hc : ¬ Config.memBytes ≤ 2 ^ 32 + va := by simp only [Config.memBytes]; omega
  have hq : va % 4294967296 = va := hm
  have hd : bitsOf leaf 12 36 * 4096 = 4294967296 := hb
  simp only [Machine.translate, leafOf, hf, hl, hm, hb, ha, hc, phys]
  simp [hg, hd, hq]

theorem lines_lt : ∀ (fuel a : Nat) (bs : List Byte), ∀ e ∈ lines fuel a bs, e.1 < a + bs.length
  | 0, _, _, e, h => by simp [lines] at h
  | fuel + 1, a, bs, e, h => by
    unfold lines at h
    split at h
    · simp at h
    · rename_i hne
      have hpos : 0 < bs.length := by
        cases bs with
        | nil => simp at hne
        | cons => simp
      rcases List.mem_cons.mp h with h | h
      · subst h; simpa using hpos
      · by_cases hs : bs.length ≤ 64 - a % 64
        · rw [List.drop_of_length_le hs] at h
          cases fuel <;> simp [lines] at h
        · have := lines_lt fuel _ _ e h
          rw [List.length_drop] at this
          omega

/-- What a hardware write can change. -/
def Wrote (t u : State) : Prop :=
  ∃ m p st, u = { t with mem := m, poison := p, stamps := st }

theorem vwrite_base (obs : Stamp) : ∀ (l : List (Nat × List Byte)) (t : State), t.tlb = base.tlb → (t.partAt 0).pages = part0.pages →
    t.failing = [] → (∀ e ∈ l, e.1 < 65536) → ∃ u, t.vwrite 0 0 obs l = (u, none) ∧ Wrote t u
  | [], t, _, _, _, _ => ⟨t, rfl, _, _, _, rfl⟩
  | (va, bs) :: r, t, h1, h2, h3, h => by
    obtain ⟨u, hu, m, p, st, e⟩ := vwrite_base obs r (t.hwWrite obs (phys va) bs false) h1 h2 h3 fun e he => h e (List.mem_cons_of_mem _ he)
    refine ⟨u, ?_, m, p, st, by rw [e]; rfl⟩
    unfold State.vwrite
    rw [translate_base t va .store (by decide +kernel) h1 h2 (h _ (List.mem_cons_self ..))]
    simp only [h3, List.contains_nil, Bool.false_eq_true, if_false]
    exact hu

theorem vstore_base (t : State) (obs : Stamp) (va : Nat) (bs : List Byte) (h1 : t.tlb = base.tlb) (h2 : (t.partAt 0).pages = part0.pages)
    (h3 : t.failing = []) (h : va + bs.length ≤ 65536) : ∃ u, t.vstore 0 0 obs va bs = (u, none) ∧ Wrote t u :=
  vwrite_base obs _ t h1 h2 h3 fun e he => by have := lines_lt _ _ _ e he; omega

/-- The model's own write of the partition's first page finds no fault. -/
theorem canStore_base (s : State) (va n : Nat) (h1 : s.tlb = base.tlb) (h2 : (s.partAt 0).pages = part0.pages)
    (h3 : s.failing = []) (h : va + n ≤ 65536) : s.canStore 0 0 va n := by
  intro t ht obs bs hbs
  have hp : t.partAt 0 = s.partAt 0 := by simp only [State.partAt, ht.2.2.1]
  obtain ⟨u, hu, -⟩ := vstore_base t obs va bs (ht.2.2.2.1.trans h1) (by rw [hp]; exact h2) (ht.2.2.2.2.trans h3) (by omega)
  rw [hu]

theorem words_length (l : List Word) : (words l).length = 8 * l.length := by
  induction l with
  | nil => rfl
  | cons w r ih => simp only [words, List.flatMap_cons, List.length_append, List.length_cons] at *; rw [ih, toLE_length]; omega

theorem flatMap_length (n k : Nat) (f : Nat → List Byte) (h : ∀ i, (f i).length = k) : ((List.range n).flatMap f).length = n * k := by
  rw [List.length_flatMap]; simp [h]

theorem pieces_lt : ∀ (fuel a n : Nat), ∀ e ∈ pieces fuel a n, e.1 < a + n
  | 0, _, _, e, h => by simp [pieces] at h
  | fuel + 1, a, n, e, h => by
    unfold pieces at h
    split at h
    · simp at h
    · rcases List.mem_cons.mp h with h | h
      · subst h; simp; omega
      · have := pieces_lt fuel _ _ e h
        omega

theorem foldl_reads {f : Except (BitVec 8 × Nat) (List Byte × Bool) → Nat × Nat → Except (BitVec 8 × Nat) (List Byte × Bool)}
    {g : Nat × Nat → List Byte} (hf : ∀ bs q, q.1 < 65536 → f (.ok (bs, false)) q = .ok (bs ++ g q, false)) :
    ∀ (l : List (Nat × Nat)) (bs : List Byte), (∀ e ∈ l, e.1 < 65536) → l.foldl f (.ok (bs, false)) = .ok (bs ++ l.flatMap g, false)
  | [], bs, _ => by simp
  | q :: r, bs, h => by
    rw [List.foldl_cons, hf _ _ (h q (List.mem_cons_self ..)), foldl_reads hf r _ fun e he => h e (List.mem_cons_of_mem _ he)]
    simp

/-- A hardware read of the partition's first page brings the bytes of its lines. -/
theorem vget_base (t : State) (va n : Nat) (h1 : t.tlb = base.tlb) (h2 : (t.partAt 0).pages = part0.pages) (h3 : t.poison = [])
    (h4 : t.failing = []) (h : va + n ≤ 65536) : vget t 0 0 va n = .ok ((pieces (n / 64 + 2) va n).flatMap fun q => loadBytes t.mem (phys q.1) q.2, false) := by
  unfold vget
  rw [foldl_reads (g := fun q => loadBytes t.mem (phys q.1) q.2)
    (fun bs q hq => by simp only [translate_base t q.1 .load (by decide +kernel) h1 h2 hq, h3, h4]; rfl) _ _
    fun e he => by have := pieces_lt _ _ _ e he; omega]
  rfl

/-- The strand in supervisor mode, in a partition with expert enable. -/
def expert (l : Tbl Word) : State :=
  { base with cx := { base.cx with regs := l, stat := 5 }, parts := [(0, { part0 with expert := true })] }

/-- A number that names no register; one of the supervisor in user mode; each side of 0x100. -/
theorem witness_SpecialRegisterReads : Issues base (.mfs 0x07F 1) ∧ assignedReg 0x07F = false ∧ Issues base (.mfs 0x100 1) ∧
    assignedReg 0x100 = true ∧ base.cx.sup = false ∧ Issues base (.mfs 0x0A0 1) ∧ assignedReg 0x0A0 = true ∧
    Issues (expert []) (.mfs 0x100 0) ∧ (expert []).cx.sup = true ∧ Issues base (.mfs 0x018 0) := by unfold Issues; decide +kernel

theorem witness_SpecialRegisterWrites : Issues base (.mts 0x07F 1) ∧ Issues base (.mts 0x020 1) ∧ Issues base (.mts 0x000 1) ∧
    Issues (expert []) (.mts 0x000 1) ∧ (expert []).cx.sup = true ∧ base.cx.sup = false ∧ Issues (expert []) (.mts 0x111 1) ∧
    ((expert []).partAt 0).expert = true ∧ (base.partAt 0).expert = false ∧ Issues (onBase fun x => { x with stat := 5 }) (.mts 0x111 1) ∧
    Issues base (.mts 0x050 1) ∧ assignedReg 0x020 = true ∧ Machine.mayWrite base 0x020 = true ∧ Machine.mayWrite (expert []) 0x111 = true := by unfold Issues; decide +kernel

/-- Bits `lo` to `lo + n - 1` of a value. -/
def fieldOf (v : Word) (lo n : Nat) : Nat := v.toNat / 2 ^ lo % 2 ^ n

theorem witness_OwnRowRegisterWrites_issue : ∀ i ∈ [Instr.mtsFpflags 5, .mtsSlotmask 5, .mtsPreq 5, .mtsMon 15 5, .mtsMonsnap 5, .mtsPwrevt 5,
    .mtsLeavegrant 5, .mtsLeaveslot 5, .mtsLeaveclus 5, .mtsBiasctl 5, .mtsMosslim 7 5], Issues base i ∧ Issues (expert []) i := by
  unfold Issues; decide +kernel

/-- The cluster with a snapshot under way. -/
def snapping : State := { expert [] with clus := [(0, { monsnap := 1 })] }

/-- A value at each side of what a register's own row refuses. -/
theorem witness_OwnRowRegisterWrites : fieldOf 0x000B000000000000 48 8 ≤ 0x0B ∧ 0x0B < fieldOf 0x000C000000000000 48 8 ∧
    fieldOf 0x03FF 0 16 = 0x03FF ∧ fieldOf 0x0400 0 16 ≠ 0x03FF ∧ eventBad (expert []) 0 0 (fieldOf 0x0400 0 16) = none ∧
    fixedSum (expert []) 0 0 + fieldOf 16128 0 16 ≤ matrixShare ((expert []).cluAt 0) / 2 ∧ 32768 < fieldOf 32769 0 16 ∧
    (∀ j < 7, fieldOf 0x0001010101010101 (8 * j) 8 ≠ 0) ∧ (∃ j < 7, fieldOf 0x0101010101010100 (8 * j) 8 = 0) ∧
    (1 ≤ fieldOf 0x04000000 24 3 ∧ fieldOf 0x04000000 24 3 ≤ 4) ∧ ¬(1 ≤ fieldOf 0x05000000 24 3 ∧ fieldOf 0x05000000 24 3 ≤ 4) ∧
    (∀ j < 6, 1 ≤ fieldOf (guardWord 7) (8 * j) 8 ∧ fieldOf (guardWord 7) (8 * j) 8 ≤ (guardWord 7).toNat / 2 ^ (8 * j) % 2 ^ 8) ∧
    (∃ j < 6, ¬(1 ≤ fieldOf 0 (8 * j) 8 ∧ fieldOf 0 (8 * j) 8 ≤ (guardWord 7).toNat / 2 ^ (8 * j) % 2 ^ 8)) ∧
    ((1 : BitVec 8) ≠ 0 ∧ 1 &&& ~~~base.cx.slots = 0) ∧ ¬((0 : BitVec 8) ≠ 0 ∧ 0 &&& ~~~base.cx.slots = 0) ∧ base.cx.sup = false ∧
    (1 : BitVec 8) &&& otherSlots (expert []) = 0 ∧ bitOf ((expert []).cluAt 0).monsnap 0 = false ∧ bitOf (snapping.cluAt 0).monsnap 0 = true ∧
    Issues snapping (.mtsMonsnap 5) ∧ (expert []).cx.sup = true ∧ ((expert []).partAt 0).expert = true ∧
    ¬(base.cx.sup = true ∧ (base.partAt 0).expert = true) := by unfold Issues; decide +kernel

/-- The strand in its handler. -/
def inTrap (estat epc eissue emark : Word) : State :=
  onBase fun x => { x with stat := 7, estat := estat, epc := epc, eissue := eissue, emark := emark, parked := true }

theorem witness_TrapBreakpointExitWords : Issues base (.trap 2) ∧ Issues base .bkpt ∧ Issues base .exit ∧ base.cx.intrap = false ∧
    Issues (inTrap 4 0 0 0) .exit ∧ (inTrap 4 0 0 0).cx.intrap = true := by unfold Issues; decide +kernel

theorem witness_FaultEntersHandler : base.Inv ∧ (∀ k < 256, ∃ pa, Machine.translate base 0 0 (base.cx.savearea.toNat + 0xF00 + k) .store = .ok pa) ∧
    base.logsNothing c0 ∧ base.cx.resident = true ∧
    base.cx.halt = none ∧ base.cx.debug = false ∧ base.cx.intrap = false ∧ base.cx.inFlight = false ∧ 4 ≤ base.cx.tvec.toNat :=
  ⟨base_inv, fun k hk => ⟨_, translate_base base _ .store (by decide +kernel) rfl rfl (by change 0x4000 + 0xF00 + k < 65536; omega)⟩,
    .inl rfl, by decide +kernel⟩

def laneBusy : State := onBase fun x => { x with stat := 7, estat := 4, lane := [item (.st .d 1 2 0) 0 0] }

/-- A state of which TRET makes a return. -/
def Returns (s : State) : Prop := Issues s .tret ∧ s.cx.intrap = true ∧ s.cx.lane = [] ∧ s.cx.heldPush = [] ∧ s.cx.heldReply = [] ∧
  s.cx.heldWait = [] ∧ s.cx.marked = none

/-- Outside a handler; with a reserved bit; with a handler access under way; at the marked word, at the issue point, and elsewhere. -/
theorem witness_ReturnWord : Issues base .tret ∧ base.cx.intrap = false ∧ Issues (inTrap 0x10 0 0 0) .tret ∧ statReserved 0x10 = true ∧
    statReserved 4 = false ∧ Issues laneBusy .tret ∧ laneBusy.cx.lane ≠ [] ∧ Returns (inTrap 4 0x3C 0x80 0x3D) ∧
    Returns (inTrap 4 0x80 0x80 0x3D) ∧ Returns (inTrap 4 0x84 0x80 0) ∧ (base.partAt 0).expiries = [] ∧
    (bitOf (0x3D : Word) 0 = true ∧ (0x3C : Word) = putBits (0x3D : Word) 0 1 0) ∧ (0x80 : Word) ≠ putBits (0x3D : Word) 0 1 0 := by
  unfold Returns Issues; decide +kernel

def ownedWindow : State := onBase fun x => { x with regs := [(5, 0xFFFE000000002F00)], win := [(47, { owner := true })] }
def ownedMoss : State := { regs [(5, mossBase + 0x1000)] with clus := [(0, { rgs := [(1, { owner := true })] })] }

/-- An address of the window, of Moss, and of neither, owned by an engine and not. -/
theorem witness_OwnerWaitWord : Issues ownedWindow (.ownwait 5) ∧ placeOf 48 (ownedWindow.cx.rg 5) = some (.win 0x2F00) ∧
    (ownedWindow.cx.gran 47).owner = true ∧ Issues (regs [(5, 0xFFFE000000002F00)]) (.ownwait 5) ∧ (base.cx.gran 47).owner = false ∧
    tfind base.cx.waits 4 = none ∧ Issues ownedMoss (.ownwait 5) ∧ placeOf 48 (ownedMoss.cx.rg 5) = some (.moss 0x1000) ∧
    ((ownedMoss.cluAt 0).rg 1).owner = true ∧ ((ownedMoss.cluAt 0).rg 2).owner = false ∧ Issues (regs [(5, 0x100)]) (.ownwait 5) ∧
    placeOf 48 0x100 = some (.dev 0x100) := by unfold Issues; decide +kernel

/-- A member of group 2, of phase 0, with a value in s6. -/
def member (v : Word) : State := { behind 0 [(6, v)] with cx := { (behind 0 [(6, v)]).cx with ql := {} } }

/-- How far the group's phase is ahead of a value. -/
def ahead (s : State) (v : Word) : Option Nat := (groupView s 0).toOption.map fun g => (g.phase - v.setWidth 32).toNat

/-- Phases 2³¹, 2³¹ + 1, 1 and 0 before the group's. -/
theorem witness_GroupWaitWords : (∀ v ∈ [0xFFFFFFFF80000000, 0x7FFFFFFF, 0xFFFFFFFF, 0], let w := BitVec.ofNat 64 v
      Issues (member w) (.barwait 0 6) ∧ Issues (member w) (.grpinfo 9 0) ∧ tfind (member w).cx.waits 4 = none) ∧
    ahead (member 0) 0xFFFFFFFF80000000 = some (2 ^ 31) ∧ ahead (member 0) 0x7FFFFFFF = some (2 ^ 31 + 1) ∧
    ahead (member 0) 0xFFFFFFFF = some 1 ∧ ahead (member 0) 0 = some 0 ∧
    (∀ i ∈ [Instr.bar 3, .bararr 9 3, .barwait 3 6, .grpinfo 9 3], Issues base i) ∧ base.cx.grp.getLsbD 35 = false := by
  unfold Issues; decide +kernel

/-- Counter 5 of the own cluster holds 9; the strand waits for a threshold. -/
def counting (thr : Word) : State := { regs [(5, 5), (6, thr)] with clus := [(0, { counters := [(5, { val := 9 })] })] }

/-- A counter at the threshold and below it; the least id that is none; a cluster of no partition. -/
theorem witness_EventReadWords : (∀ v ∈ [9, 10], let w := BitVec.ofNat 64 v; Issues (counting w) (.evrd 9 5) ∧ Issues (counting w) (.evwait 9 5 6) ∧
      tfind (counting w).cx.waits 4 = none ∧ (counting w).cx.evreg = none) ∧
    eventBad (counting 9) 0 0 5 = none ∧ (((counting 9).cluAt 0).counter 5).val = 9 ∧
    (∀ id ∈ [65536, 0xA000], ∀ i ∈ [Instr.evrd 9 5, .evwait 9 5 6, .evadd .device 5 6, .evset 5 6],
      Issues (regs [(5, BitVec.ofNat 64 id)]) i) ∧
    (0xA000 : Word).toNat < 65536 ∧ (0xA000 : Word).toNat / 1024 % 64 ≤ 40 ∧ (base.partAt 0).owns (eventOf 0 0xA000).1 = false := by
  unfold Issues; decide +kernel

theorem witness_EventWritesUnderWay : Issues (regs [(5, 5)]) (.evadd .cluster 5 6) ∧ Issues (regs [(5, 5)]) (.evset 5 6) ∧
    eventBad base 0 0 5 = none ∧ base.cx.ql.items = [] ∧ base.cx.parked = false ∧ dieOf (eventOf 0 5).1 = dieOf 0 := by
  unfold Issues; decide +kernel

/-- A ring of two entries, from offset 64 of the triple's area up, with a head and a tail. -/
def ring (h t : Nat) : State :=
  { base with cx := { base.cx with rings := [(1, 0x8001000000000040)], ringArea := true, triple := true }
              subs := [(0, { ringMem := storeBytes [] 64 (toLE 8 h ++ toLE 8 t) })] }

/-- Full, empty, and the last entry. -/
theorem witness_RingWords : (∀ e ∈ [(0, 2), (0, 1), (1, 1)], Issues (ring e.1 e.2) (.rpsh 1 5) ∧ Issues (ring e.1 e.2) (.rpop 9 1) ∧
      (ring e.1 e.2).cx.ql.items = [] ∧ (ring e.1 e.2).unwaiting) ∧ (ring 0 1).Inv ∧ ringKind 0x8001000000000040 = 2 ∧
    ringCap 0x8001000000000040 = 2 ∧
    loadNat ((ring 0 2).subAt 0 0).ringMem 72 8 = 2 ∧ loadNat ((ring 0 1).subAt 0 0).ringMem 72 8 = 1 ∧ loadNat ((ring 1 1).subAt 0 0).ringMem 64 8 = 1 ∧
    Issues base (.rinit 1 5) ∧ Issues base (.rpsh 2 5) ∧ Issues base (.rpop 9 2) ∧ ringKind (tget base.cx.rings 2 0) = 0 ∧
    (let v : Word := 0x20FF000003FFFFFF; v.toNat / 2 ^ 62 = 0 ∧ v.toNat / 2 ^ 56 % 2 ^ 5 = 0 ∧ v.toNat / 2 ^ 26 % 2 ^ 22 = 0) ∧
    (0xC000000000000000 : Word).toNat / 2 ^ 62 = 3 := by unfold Issues State.unwaiting State.Inv; decide +kernel

def account (v : Word) : State := { expert [(5, v)] with subs := [(0, { account := 100 })] }

/-- Without expert enable; above the greatest value; above the greatest reservation; all of an account, and more than it; 0. -/
theorem witness_LeaveWords : Issues base (.leave 9 5) ∧ ¬((base.partAt 0).expert = true) ∧
    (∀ v ∈ [32769, 1, 100, 101, 0], let w := BitVec.ofNat 64 v; Issues (account w) (.leave 9 5) ∧ tfind (account w).cx.waits 4 = none) ∧
    ((account 100).cx.rg 5).toNat ≤ ((account 100).subAt 0 0).account ∧ ((account 100).subAt 0 0).waiters = [] ∧
    ((account 101).subAt 0 0).account < (101 : Word).toNat ∧ 32768 < 32768 + (1 : Word).toNat ∧ Issues base (.leaverd 9) ∧
    base.cx.resv < 2 ^ 16 ∧ (base.subAt 0 0).account < 2 ^ 16 := by unfold Issues; decide +kernel

/-- A strand that yields, with a table of one entry, index 2. -/
def yielding (y : Nat) (p : Bool) : State :=
  { base with cx := { base.cx with ystate := y, preq := p, yieldtab := 0x0001000000006000 }
              mem := base.mem ++ [(phys 0x6000, 2), (phys 0x6004, 0x40), (phys 0x6008, 0x80)] }

theorem witness_YieldWord : (∀ y ∈ [0, 1, 2], ∀ p ∈ [true, false], Issues (yielding y p) (.yield 2)) ∧ Issues (yielding 0 true) (.yield 3) ∧
    (match yieldEntry (yielding 0 true) 0 0 (yielding 0 true).cx.yieldtab 2 with | .ok (some (0x40, 0x80)) => true | _ => false) = true ∧
    (match yieldEntry (yielding 0 true) 0 0 (yielding 0 true).cx.yieldtab 3 with | .ok none => true | _ => false) = true := by
  unfold Issues; decide +kernel

def inTriple : State := onBase fun x => { x with triple := true }

/-- A triple member; a kind 2; a threshold of 2³²; a counter; a ring wait. -/
theorem witness_SuspendWord : Issues inTriple (.suspend 9 5 6) ∧ inTriple.cx.triple = true ∧
    (∀ v ∈ [0x20000000, 0x10000005, 0x30000000], Issues (regs [(5, BitVec.ofNat 64 v)]) (.suspend 9 5 6)) ∧
    (0x20000000 : Word).toNat / 2 ^ 28 = 2 ∧ (0x10000005 : Word).toNat / 2 ^ 28 = 1 ∧ (0x30000000 : Word).toNat / 2 ^ 28 = 3 ∧
    2 ^ 32 ≤ (0x100000000 : Word).toNat ∧ (0xFFFFFFFF : Word).toNat < 2 ^ 32 ∧ eventBad base 0 0 5 = none ∧ base.cx.ystate = 0 ∧
    base.cx.triple = false := by unfold Issues; decide +kernel

/-- The strand with a window of eight bank groups and its vector shape one full row. -/
def wide : State := onBase fun x => { x with wsize := 384, vshape := 0xFF0, masks := [(1, 0xFF)] }

/-- Granule operands inside the window, its last granule, and the first one past it; a poisoned mask. -/
theorem witness_VectorWordsIssue : Issues wide (Instr.ofV .vadd vf) ∧ Issues wide (Instr.ofV .mcnt vf) ∧ VOp.isL .vadd = false ∧
    (∀ j < shapeRows wide.cx.vshape, 383 + j * (opD vf).2 < wide.cx.wsize) ∧
    (∀ o ∈ [opA vf, opB vf, opD vf], ∀ j < shapeRows wide.cx.vshape, o.1 + j * o.2 < wide.cx.wsize) ∧ vf.imm.toNat % 512 < wide.cx.wsize ∧
    wide.cx.mbad = 0 ∧ vf.bs = false ∧ ¬(∀ j < shapeRows wide.cx.vshape, 384 + j * 1 < wide.cx.wsize) ∧
    (onBase fun x => { x with mbad := 2 }).cx.mbad.getLsbD 1 = true ∧ { vf with mask := 1 }.mask ≠ 0 := by unfold Issues; decide +kernel

/-- A V word alone in its queue. -/
def vword (i : Instr) (ph : Phase) (m : Mask) (l : Tbl Gran) : State :=
  onBase fun x => { x with win := l, qv := { items := [{ item i 0 0 with phase := ph, vshape := 0xFF0, mask := m }] } }

def addU8 : VF := { vf with fmt := .u8, mask := 1, vd := 3, va := 1, vb := 2 }
def granU8 (v : GranData) : Gran := ⟨v, .u8, false, false⟩

theorem witness_ElementwiseRow :
    (vword (Instr.ofV .viadd addU8) .going 7 [(1, granU8 1), (2, granU8 2), (3, granU8 3)]).Inv ∧
    twf (vword (Instr.ofV .viadd addU8) .going 7 [(1, granU8 1), (2, granU8 2), (3, granU8 3)]).cx.win {} = true ∧
    (vword (Instr.ofV .viadd addU8) .going 7 [(1, granU8 1), (2, granU8 2), (3, granU8 3)]).engineOn c0 = true ∧ shapeRows 0xFF0 = 1 ∧
    addU8.push = 0 ∧ addU8.bs = false ∧ addU8.sat = false ∧ addU8.fmt ∉ [Fmt.empty, .raw, .q4] ∧ addU8.fmt.isInt = true ∧
    (∀ g ∈ [granU8 1, granU8 2, granU8 3], g.fmt = addU8.fmt ∧ g.poison = false) ∧ c0.ok = true ∧ vf.fmt.isFp3 = true := by
  unfold State.Inv; decide +kernel

theorem witness_MaskWordResults : (vword (.mand vf) .going 7 []).Inv ∧ c0.ok = true ∧ (vword (.mand vf) .going 7 []).engineOn c0 = true ∧
    vf.push = 0 ∧ tfind base.cx.waits 0 = none ∧ (vword (.mcnt vf) .going 7 []).Inv ∧ (vword (.mcnt vf) .going 7 []).engineOn c0 = true := by
  unfold State.Inv; decide +kernel

theorem witness_VectorWordStarts : (vword (Instr.ofV .vadd vf) .idle 0 []).Inv ∧ (vword (Instr.ofV .vadd vf) .idle 0 []).engineOn c0 = true ∧
    (base.cluAt 0).droop = false ∧ VOp.isL .vadd = false ∧ vf.pop = 0 ∧
    (∀ g ∈ vGrans base.cx { item (Instr.ofV .vadd vf) 0 0 with vshape := 0xFF0 }, (base.cx.gran g).owner = false) ∧
    tfind base.cx.waits 0 = none := by unfold State.Inv; decide +kernel

/-- A row of 4 bytes each way; a plain vector memory word. -/
theorem witness_VectorMemoryWordsQueue : (∀ i ∈ [Instr.vld vf, .vst vf, .vldx vf, .vstx vf, .mld vf, .mst vf], Issues wide i) ∧
    (∀ o ∈ [opD vf, opB vf], ∀ j < shapeRows wide.cx.vshape, o.1 + j * o.2 < wide.cx.wsize) ∧ wide.cx.mbad = 0 ∧
    (vldChecks vf 1 wide.cx).all Option.isNone = true ∧ (vldChecks vf 2 wide.cx).all Option.isNone = true ∧
    (mldChecks vf 1 wide.cx).all Option.isNone = true ∧ (mldChecks vf 2 wide.cx).all Option.isNone = true := by unfold Issues; decide +kernel

/-- An M word alone in its queue, and the fields of a step that its views allow. -/
def mword (ph : Phase) : State :=
  onBase fun x => { x with banks := [(3, { data := 5, fmt := .fp32 })], qm := { items := [{ item (.aclr ⟨3, 0, 0⟩) 0 0 with phase := ph }] } }

def stepMF : MF := ⟨0, 1, false, 0, 0, 0, false, false, false, 16, 0, 0, 65535, 7, 15, 15⟩
def viewA : Word := 0x1600000
def viewB : Word := 0x1600030

theorem witness_MatrixWords : Issues wide (.mma stepMF) ∧ Issues wide (.mmaz stepMF) ∧ stepCheck (.mma stepMF) stepMF 384 viewA viewB 0 = none ∧
    stepCheck (.mmaz stepMF) stepMF 384 viewA viewB 0 = none ∧ visCheck 48 0 3 = none ∧
    (∀ i ∈ [Instr.aclr ⟨3, 0, 0⟩, .aswap ⟨3, 0, 0⟩, .adrain ⟨3, 0, 0⟩], Issues wide i) ∧
    (mword .idle).Inv ∧ (mword .going).Inv ∧ (mword .idle).engineOn c0 = true ∧ (mword .going).engineOn c0 = true ∧
    (base.cluAt 0).droop = false ∧ tfind base.cx.waits 1 = none := by unfold Issues State.Inv; decide +kernel

/-- A record in the window's last granule; below a granule; outside the window. -/
theorem witness_EngineWords : (∀ i ∈ [Instr.engCopy ef, .engFill ef, .engRefresh ef, .engGather ef, .engScatter ef, .engScatteradd ef,
      .engColl ef, .engFamo ef, .engFcas ef, .engTwset ef, .engSeqopen ef, .engWswap ef],
      Issues (regs [(5, 0xFFFE000000002F00)]) i ∧ engIssueCheck (regs [(5, 0xFFFE000000002F00)]) (fnOf i) 0xFFFE000000002F00 0 = none) ∧
    (∀ i ∈ [Instr.engEvsig ef, .engTwclr ef, .engTwbud ef, .engTwstat ef, .engSeqclose ef, .engWstat ef, .engCqry ef],
      Issues base i ∧ engIssueCheck base (fnOf i) 0 0 = none) ∧
    (∀ i ∈ [Instr.engTkcmt ef, .engTkconf ef, .engTkrej ef], Issues base i ∧ engIssueCheck base (fnOf i) 0x2F0001 1 = none) ∧
    placeOf 48 0xFFFE000000002F80 = some (.win 0x2F80) ∧ (0xFFFE000000002F80 : Word).toNat % 256 ≠ 0 ∧
    placeOf 48 0x100 = some (.dev 0x100) := by unfold Issues; decide +kernel

/-- The strand at the head of its L queue, a member of group 2 of two members, with two registers and row groups of its cluster. -/
def fresh (a b : Word) (l : Tbl RowGroup) : State :=
  { behind 0 [(5, a), (6, b)] with
    cx := { (behind 0 [(5, a), (6, b)]).cx with ql := {} }
    clus := [(0, { rgs := l, dispatches := 1 })] }

/-- A state in which a word of a point acts in its issue cycle. -/
def ActsAtOnce (s : State) : Prop :=
  s.Inv ∧ twf (s.cluAt 0).rgs {} = true ∧ s.cx.ql.items = [] ∧ s.cx.parked = false ∧ tfind s.cx.waits 2 = none

/-- An arrival; a record that is readable, one that is poisoned, one that is not mapped. -/
theorem witness_PointWords_atOnce : ActsAtOnce (fresh 0x6000 2 []) ∧ (groupView (fresh 0x6000 2 []) 0).toOption.isSome = true ∧
    ((fresh 0x6000 2 []).launchOf (fresh 0x6000 2 []).cx).isSome = true ∧
    (groupEntry (fresh 0x6000 2 []) 0 0 { parseLaunch [] 0 0 none with groups := 0x1000 } 2).toOption = some (phys 0x1020) ∧
    (∀ i ∈ [Instr.bar 0, .bararr 9 0, .launch 9 5, .launchBlock 9 5], Issues (fresh 0x6000 2 []) i ∧ Issues (fresh 0x20000 2 []) i) ∧
    placeOf 48 0x6000 = some (.dev 0x6000) ∧ placeOf 48 0x20000 = some (.dev 0x20000) ∧
    (vbytes (fresh 0x6000 2 []) 0 0 0x6000 128).toOption.isSome = true ∧
    (match vbytes { fresh 0x6000 2 [] with poison := [phys 0x6040 / 64] } 0 0 0x6000 128 with | .error e => e.1 = 0x0D | _ => false) = true ∧
    (match vbytes (fresh 0x20000 2 []) 0 0 0x20000 128 with | .error e => e.1 ≠ 0x0D | _ => false) = true := by
  unfold ActsAtOnce Issues State.Inv; decide +kernel

/-- Row groups that are free, allocated, owned by an engine, valid; rows 1 and 2 are named. -/
theorem witness_PointWords_moss : (∀ l ∈ [[], [(2, { cls := 1 })], [(2, { owner := true })], [(1, ({ cls := 2, valid := true, age := 9 } : RowGroup))]],
      let s := fresh (mossBase + 0x1000) 2 l
      ActsAtOnce s ∧ (∀ i ∈ [Instr.mclass 1 9 5 6, .mfree 9 5 6, .mrefresh 9 5 6, .mage 9 5, .mquery 9 5 6], Issues s i) ∧ mclassCheck s 1 2 = none ∧
      (tfree (s.cluAt 0).alloc 1 4095).isSome = true ∧ storing s 0 1 2 = false) ∧
    mossCheck (mossBase + 0x1000) 2 true = none ∧ mossN (mossBase + 0x1000) = 1 ∧ mossC 2 = 2 ∧ (2 : Word).toNat < 2 ^ 16 ∧
    (((fresh (mossBase + 0x1000) 2 [(2, { owner := true })]).cluAt 0).rg 2).owner = true ∧
    (((fresh (mossBase + 0x1000) 2 [(2, { owner := true })]).cluAt 0).rg 1).owner = false ∧
    (∀ b ∈ [0, 1], ActsAtOnce (fresh (mossBase + 0x1000) (BitVec.ofNat 64 b) []) ∧ mossCheck (mossBase + 0x1000) (BitVec.ofNat 64 b) false = none ∧
      Issues (fresh (mossBase + 0x1000) (BitVec.ofNat 64 b) []) (.mquery 9 5 6)) := by
  unfold ActsAtOnce Issues State.Inv; decide +kernel

/-- A table without a free number. -/
theorem tfree_none {α : Type} (v : α) : ∀ n lo : Nat, 1 ≤ lo → lo + n ≤ 4096 → tfree ((List.range' 1 4095).map fun k => (k, v)) lo n = none
  | 0, _, _, _ => rfl
  | n + 1, lo, h, g => by
    have find : ∀ l : List Nat, lo ∈ l → tfind (l.map fun k => (k, v)) lo = some v := by
      intro l
      induction l with
      | nil => intro h; exact absurd h (List.not_mem_nil)
      | cons k r ih =>
        intro h
        by_cases hk : lo = k
        · simp [tfind, hk]
        · simp only [List.map_cons, tfind, if_neg hk]
          exact ih (List.mem_of_ne_of_mem hk h)
    unfold tfree
    rw [find _ (List.mem_range'_1.mpr ⟨h, by omega⟩), if_neg (by simp)]
    exact tfree_none v n (lo + 1) (by omega) (by omega)

theorem witness_PointWords_fullTable : tfree ((List.range' 1 4095).map fun k => (k, (⟨0, 7, 3, 5, 0, 1⟩ : AllocEntry))) 1 4095 = none :=
  tfree_none _ _ _ (by decide) (by decide)

/-- A fence in a handler, with its lane empty and not. -/
theorem witness_FenceAndTokenWords_handler : Issues (inTrap 4 0 0 0) (.fence 15 .device) ∧ (inTrap 4 0 0 0).cx.intrap = true ∧
    (inTrap 4 0 0 0).cx.lane = [] ∧ Issues laneBusy (.fence 15 .core) ∧ laneBusy.cx.intrap = true ∧ laneBusy.cx.lane ≠ [] := by
  unfold Issues; decide +kernel

/-- A written mask that waits for its frame; a discarded trap and a return with no step to check. -/
theorem witness_OwnRowRegisterWrites_pending : Issues (onBase fun x => { x with slotsNext := some 1 }) (.mtsSlotmask 5) ∧
    (onBase fun x => { x with slotsNext := some 1 }).cx.sup = false ∧ base.cx.noStep ∧
    (∀ r ∈ [Instr.mtsPreq 5, .mtsMon 15 5, .mtsMonsnap 5, .mtsPwrevt 5], Issues base r) ∧
    (∀ i ∈ (inTrap 4 0 0 0).cx.qm.items, stepOf i.ins = none) := by unfold Issues Context.noStep; decide +kernel

/-- An entry whose member count is 0, one on a poisoned line, one that may not be read. -/
def group (at' : Word) (n : Nat) (bad : List Nat) : State :=
  { fresh 0 0 [] with
    parts := [(0, { part0 with launches := [(7, { parseLaunch [] 0 0 none with groups := at' })] })]
    mem := if n = 0 then base.mem else base.mem ++ [(phys 0x1020, BitVec.ofNat 8 n)], poison := bad }

theorem witness_GroupWaitWords_faults : (∀ s ∈ [group 0x1000 0 [], group 0x1000 2 [phys 0x1020 / 64], group 0xFFFF00000000 2 []],
      (∀ i ∈ [Instr.bar 0, .bararr 9 0, .barwait 0 6, .grpinfo 9 0], Issues s i) ∧ s.cx.grp.getLsbD 32 = true ∧ getAt s.cx.grp 0 8 = 2 ∧
      (s.launchOf s.cx).isSome = true) ∧
    (Machine.translate (group 0x1000 0 []) 0 0 0x1020 .load).toOption = some (phys 0x1020) ∧
    (groupSeen (group 0x1000 0 []) c0 (phys 0x1020)).1.members = 0 ∧ (groupSeen (group 0x1000 0 []) c0 (phys 0x1020)).2 = false ∧
    (groupSeen (group 0x1000 2 [phys 0x1020 / 64]) c0 (phys 0x1020)).2 = true ∧
    (match Machine.translate { group 0x1000 2 [] with tlb := [(0, 0, 0, 2 ^ 32, 0x100000001)] } 0 0 0x1020 .load with
      | .error e => e ≠ 0x08 | _ => false) = true := by unfold Issues; decide +kernel

theorem witness_EventReadWords_cluster : (∀ i ∈ [Instr.evrd 9 5, .evwait 9 5 6, .evadd .device 5 6, .evset 5 6], Issues (regs [(5, 41 * 1024)]) i) ∧
    41 ≤ (41 * 1024 : Word).toNat / 1024 % 64 ∧ (41 * 1024 : Word).toNat < 65536 := by unfold Issues; decide +kernel

/-- RINIT of each kind, at the bounds of its memory; a context with its triple's area, and Moss with row groups 0 and 1 allocated. -/
def initing (v : Word) (cls : BitVec 3) (owner : Bool) : State :=
  { regs [(5, v)] with cx := { (regs [(5, v)]).cx with ringArea := true }
                       clus := [(0, { rgs := [(0, { cls := cls, owner := owner })] })] }

theorem witness_RingWords_init : (∀ v ∈ [0x4000000000000040, 0x6000000000000000, 0x4000000003FFFF80, 0x80FF0000000027C0, 0xA000000000000040, 0x80FF000000002800,
      0x4001000003FFFFC0, 0xC000000000000000, 0x0100000000000000], let s := initing (BitVec.ofNat 64 v) 2 false
      Issues s (.rinit 1 5) ∧ s.Inv ∧ s.unwaiting ∧ s.waiters = [] ∧ twf (s.cluAt 0).rgs {} = true ∧ Memory.wf (s.cluAt 0).moss = true) ∧
    (let v : Word := 0x6000000000000000; v.toNat / 2 ^ 62 = 1 ∧ v.toNat / 2 ^ 61 % 2 = 1 ∧ v.toNat / 2 ^ 56 % 2 ^ 5 = 0 ∧ v.toNat / 2 ^ 26 % 2 ^ 22 = 0 ∧
      v.toNat % 2 ^ 26 + 72 + 8 * (v.toNat / 2 ^ 48 % 2 ^ 8) ≤ 2 ^ 26) ∧
    (let v : Word := 0x4000000003FFFF80; v.toNat % 2 ^ 26 + 72 + 8 * (v.toNat / 2 ^ 48 % 2 ^ 8) ≤ 2 ^ 26) ∧
    (let v : Word := 0x4001000003FFFFC0; v.toNat % 2 ^ 26 % 64 = 0 ∧ 2 ^ 26 < v.toNat % 2 ^ 26 + 72 + 8 * (v.toNat / 2 ^ 48 % 2 ^ 8)) ∧
    (let v : Word := 0x80FF0000000027C0; v.toNat / 2 ^ 62 = 2 ∧ v.toNat % 2 ^ 26 + 72 + 8 * (v.toNat / 2 ^ 48 % 2 ^ 8) ≤ 12288) ∧
    (let v : Word := 0x80FF000000002800; 12288 < v.toNat % 2 ^ 26 + 72 + 8 * (v.toNat / 2 ^ 48 % 2 ^ 8)) ∧
    (let v : Word := 0x0100000000000000; v.toNat / 2 ^ 56 % 2 ^ 5 ≠ 0) ∧ ((initing 0 0 false).cluAt 0).rg 0 = {} ∧
    (∀ n ∈ rgsOf 0 72, (((initing 0 2 false).cluAt 0).rg n).owner = false) ∧ base.cx.ringArea = false := by
  unfold Issues State.Inv State.unwaiting; decide +kernel

/-- A ring of two entries in Moss, from offset 0 up, in row group 0. -/
def mossRing (h t : Nat) (r : RowGroup) : State :=
  { regs [(5, 0x55)] with cx := { (regs [(5, 0x55)]).cx with rings := [(1, 0x4001000000000000)] }
                          clus := [(0, { rgs := [(0, r)], moss := storeBytes [] 0 (toLE 8 h ++ toLE 8 t) })] }

theorem witness_RingWords_moss : (∀ e ∈ [(0, 2), (0, 1), (1, 1)], ∀ r ∈ [({ cls := 2, valid := true } : RowGroup), { cls := 2, valid := true, poison := true },
      { cls := 2, valid := true, owner := true }], let s := mossRing e.1 e.2 r
      Issues s (.rpsh 1 5) ∧ Issues s (.rpop 9 1) ∧ s.Inv ∧ s.unwaiting ∧ s.waiters = [] ∧ twf (s.cluAt 0).rgs {} = true ∧ s.cx.ql.items = []) ∧
    ringKind 0x4001000000000000 = 1 ∧ ringCap 0x4001000000000000 = 2 ∧ ringOff 0x4001000000000000 = 0 ∧ rgsOf 0 80 = [0] ∧
    loadNat ((mossRing 1 2 {}).cluAt 0).moss 0 8 = 1 ∧ loadNat ((mossRing 1 2 {}).cluAt 0).moss 8 8 = 2 := by
  unfold Issues State.Inv State.unwaiting; decide +kernel

/-- A poisoned granule of the area. -/
theorem witness_RingWords_area : Issues ({ ring 0 1 with subs := [(0, { ringBad := [0] })] } : State) (.rpsh 1 5) ∧
    ringOff 0x8001000000000040 / 256 ∈ (({ ring 0 1 with subs := [(0, { ringBad := [0] })] } : State).subAt 0 0).ringBad ∧
    ((ring 0 1).subAt 0 0).ringBad = [] := by unfold Issues; decide +kernel

/-- A counter of another partition's cluster. -/
theorem witness_SuspendWord_event : Issues (regs [(5, 0x1000A000)]) (.suspend 9 5 6) ∧ eventBad base 0 0 0xA000 = some 0x09 ∧
    eventBad base 0 0 (41 * 1024) = some 0x06 := by unfold Issues; decide +kernel

/-- The second granule of a row is the first past the window. -/
theorem witness_VectorWordsIssue_first : let f : VF := { vf with sd := 1, vd := 0, va := 127, sa := 3, vb := 100 }
    let gs := (List.range (shapeRows wide.cx.vshape)).flatMap fun j => [opA f, opB f, opD f].map fun o => o.1 + j * o.2
    (onBase fun x => { x with vshape := 0xFF0 }).cx.wsize = 48 ∧ gs[0]? = some 127 ∧ Issues (onBase fun x => { x with vshape := 0xFF0 }) (Instr.ofV .vadd f) ∧
    gs.take 0 = [] := by unfold Issues; decide +kernel

/-- R104, R211, R344: a LAUNCH whose record is not mapped enters the handler at once, with the word marked. -/
theorem test_launch_unmapped : let x := (after (exec (.launchBlock 9 5) (fresh 0x20000 2 []))).cx
    x.pc = 0x1000 ∧ x.ecause = 0x08 ∧ x.etval = 0x20000 ∧ x.emark = 0x41 ∧ x.eissue = 0x44 ∧ x.marked = some (.l, 0) := by decide +kernel

/-! #### Events -/

/-- A word alone in the L queue. -/
def lword (i : Item) : State := onBase fun x => { x with ql := { items := [i] } }

def storeItem : Item := item (.st .w 9 2 100) 0xFFFC 0x11223344

theorem witness_WriteBuffer : (lword storeItem).Inv ∧ c0.ok = true ∧ (lword storeItem).engineOn c0 = true ∧ storeItem.phase = .idle ∧
    lBusy (lword storeItem) c0 = false ∧ base.cx.waits = [] ∧ storeItem.fault = none ∧ storeItem.rows = [] ∧ placeOf 48 storeItem.a = some (.dev 0xFFFC) ∧
    (Machine.translate base 0 0 0xFFFC .store).toOption = some (phys 0xFFFC) ∧
    (Machine.translate base 0 0 0xFFFF .store).toOption = some (phys 0xFFFF) ∧ fillTlb base 0 0 0xFFFC = base ∧
    (base.cluAt 0).wbuf.length < 512 ∧ ((buffered.cluAt 0).wbuf[0]?).isSome = true ∧ ((buffered.cluAt 0).wbuf[0]?).any (·.stamp.isNone) = true ∧
    buffered.mgr.tripped = false ∧ (buffered.cluAt 0).wbuf.take 0 = [] := by unfold State.Inv; decide +kernel

/-- A write under way over a whole line, poisoned or not; one that depends on another. -/
def write1 (bad : Bool) : Transit := ⟨.lword c0 0 0 none, 0, { d0 := 2 }, phys 0x80, List.replicate 64 7, bad, none, none⟩
def write0 : Transit := ⟨.lword c0 1 0 none, 0, { d0 := 1 }, phys 0x200, [1], false, none, none⟩
def flying (l : List Transit) : State := { base with transit := l, poison := [(phys 0x80) / 64] }

theorem witness_StampedWrites : (flying [write1 true]).Inv ∧ (flying [write1 true]).transit[0]? = some (write1 true) ∧ (write1 true).atom = none ∧ (write1 true).chip = none ∧
    base.mgr.tripped = false ∧ (flying [write1 false]).owed (write1 false).stamp (some (write1 false)) none none = false ∧
    (flying [write1 true, write0]).transit[0]? = some (write1 true) ∧ (flying [write1 true, write0]).owed (write1 true).stamp (some (write1 true)) none none = true := by
  unfold State.Inv; decide +kernel

/-- An atomic of each operation that the obligation names, on a clean line and on a poisoned one. -/
def atomic (op : Nat) : Transit := ⟨.lword c0 0 0 none, 0, {}, phys 0xF8, [], false, some ⟨op, false, 9, 0⟩, none⟩

theorem witness_AtomicAppliedAtHome : (∀ op ∈ [0, 1, 10], (flying [atomic op]).Inv ∧ (flying [atomic op]).transit[0]? = some (atomic op) ∧
      (atomic op).atom = some ⟨op, false, 9, 0⟩ ∧ (flying [atomic op]).owed (atomic op).stamp (some (atomic op)) none none = false) ∧
    (flying [atomic 0]).mgr.tripped = false ∧ phys 0xF8 / 64 ∉ (flying []).poison ∧ phys 0x80 / 64 ∈ (flying []).poison := by
  unfold State.Inv; decide +kernel

/-- A scalar load, under way, complete, and with a fault. -/
def loadPart : LPart := { row := 0, off := 0, n := 4, addr := 0xFFFC, place := .dev 0xFFFC, pa := phys 0xFFFC, st := .out }
def loadItem (ph : Phase) (f : Option Flt) : Item := { item (.ld .w 1 2 16) 0xFFFC 0 with phase := ph, parts := [loadPart], fault := f }

theorem witness_LoadsFinish : (lword (loadItem .going none)).Inv ∧ c0.ok = true ∧ base.cx.lane = [] ∧
    loadPart.addr = (loadItem .going none).a ∧ loadPart.n = widthBytes .w ∧ (base.cluAt 0).wbuf = [] ∧ (∀ u ∈ unitsOf (phys 0xFFFC) (widthBytes .w), u ∉ base.poison) ∧
    (∀ f ∈ [none, some (⟨0x0F, 0xFFFC⟩ : Flt)], (lword (loadItem .complete f)).Inv ∧ (lword (loadItem .complete f)).engineOn c0 = true) := by
  unfold State.Inv; decide +kernel

/-- A load of Moss whose reply is not there. -/
def nearPart (st : PartSt) : LPart := { row := 0, off := 0, n := 4, addr := mossBase, place := .moss 0, st := st }
def nearItem (st : PartSt) : Item := { item (.ld .w 1 2 16) mossBase 0 with phase := .going, parts := [nearPart st] }

/-- A reply in time; one that is overdue, and comes after the greatest freeze below `freezewd`. -/
theorem witness_OverdueAccessFreezes : (∀ st ∈ [PartSt.asked, .due], (lword (nearItem st)).Inv ∧
      (lword (nearItem st)).cx.litems[0]? = some (nearItem st) ∧ (nearItem st).parts[0]? = some (nearPart st) ∧ isNear (nearPart st) = true ∧
      nearOk (lword (nearItem st)) c0 [] (nearItem st) 0 (nearPart st) = true ∧ fills (lword (nearItem st)) c0 (nearItem st) (nearPart st) = false) ∧
    c0.ok = true ∧ base.mgr.tripped = false ∧ (base.subAt 0 0).fill ≤ 2047 ∧ 2047 < (base.subAt 0 0).freezewd.toNat ∧ base.cx.debug = false ∧
    (nearItem .due).fault = none ∧ isStore (nearItem .due).ins = false := by unfold State.Inv; decide +kernel

theorem witness_PointReached : (∀ i ∈ [Instr.tokpost .l .v, .fence 4 .cluster, .evadd .cluster 5 6],
      (lword (item i 5 9)).Inv ∧ (lword (item i 5 9)).pointReady c0 .l = true ∧ (item i 5 9).phase = .idle) ∧ c0.ok = true ∧
    (tget (tokens (List.replicate 7 none)).cx.toks (tq .v .e) {}).toks.length < 8 ∧ dieOf (eventOf 0 5).1 = dieOf 0 := by
  unfold State.Inv; decide +kernel

/-- A Moss word at its post point, with row group 1 of class 2. -/
def mossPoint (i : Instr) (b : Word) (l : Tbl RowGroup) : State := { lword (item i (mossBase + 0x1000) b) with clus := [(0, { rgs := l, dispatches := 1 })] }

theorem witness_MossWordActions : (∀ i ∈ [Instr.mclass 3 4 5 6, .mfree 4 5 6, .mage 4 5, .mquery 4 5 6], ∀ l ∈ [[], [(1, { cls := 2 })]],
      (mossPoint i 2 l).Inv ∧ twf ((mossPoint i 2 l).cluAt 0).rgs {} = true ∧ (mossPoint i 2 l).pointReady c0 .l = true ∧
      ∀ n < 3, (((mossPoint i 2 l).cluAt 0).rg n).owner = false) ∧ c0.ok = true ∧ mossN (mossBase + 0x1000) = 1 ∧ mossC 2 = 2 ∧
    (tfree ((mossPoint (.mage 4 5) 2 []).cluAt 0).alloc 1 4095).isSome = true ∧ (item (.mquery 4 5 6) 0 0).b = 0 := by
  unfold State.Inv; decide +kernel

/-- A change under way to counter 5. -/
def change (inc : Word) (set : Bool) (v : Word) : State :=
  { base with clus := [(0, { counters := [(5, { val := v, sat := true })] })], adds := [⟨0, 0, 5, inc, set, true, {}, none⟩] }

/-- A stamped change. -/
def stamped0 : EvAdd := ⟨0, 0, 5, 1, false, false, { d0 := 1 }, some 0⟩

/-- An arrival, or a lowering, at a group of two members with one arrival. -/
def arriving (lower : Bool) : State :=
  { base with mem := base.mem ++ [(phys 0x1020, 2), (phys 0x1024, 1)], arrivals := [⟨0, phys 0x1020, 2, 7, lower, c0, 0, none, false, {}⟩] }

theorem arriving_logsFull (b : Bool) : (arriving b).logsFull := fun _ => Nat.zero_le _

/-- The least sum above the counter, the greatest below it, each bound, and a set; an arrival that ends the phase, a lowering that
ends it, and one that does not. -/
theorem witness_CountersAndGroups : (change 0 true 5).Inv ∧ twf ((change 0 true 5).cluAt 0).counters {} = true ∧
    (change 0 true 5).adds.length = 1 ∧ (change 0 true 5).transit = [] ∧ (change 0 true 5).waiters = [] ∧ (change 0 true 5).mgr.tripped = false ∧
    (∀ p < 16, ((change 0 true 5).partAt p).capture = {}) ∧ ((5 : Nat) : Int) + (-5 : Word).toInt = 0 ∧ ((5 : Nat) : Int) + (-6 : Word).toInt < 0 ∧
    ((-1 : Word).toNat : Int) + (1 : Word).toInt = 2 ^ 64 ∧ ((-2 : Word).toNat : Int) + (1 : Word).toInt < 2 ^ 64 ∧
    (∀ b ∈ [true, false], (arriving b).Inv ∧ (arriving b).arrivals.length = 1 ∧ (arriving b).transit = [] ∧ (arriving b).waiters = [] ∧
      (arriving b).mgr.tripped = false ∧ ((arriving b).partAt 0).swaps = [] ∧
      (∀ a ∈ (arriving b).arrivals, (arriving b).owed a.stamp none none (some a) = false)) ∧
    (∀ a ∈ (change 0 true 5).adds, a.die = none) ∧
    ({ change 0 true 5 with adds := [stamped0] } : State).owed stamped0.stamp none (some stamped0) none = false ∧
    (groupAt (arriving true) (phys 0x1020)).members = 2 ∧ (groupAt (arriving true) (phys 0x1020)).arrivals = 1 := by
  unfold State.Inv; decide +kernel

/-- The strand drains; its launch is in the pool. -/
def draining (d : Drain) : State :=
  { onBase fun x => { x with drain := d, slotsNext := some 1 } with parts := [(0, { part0 with launches := [(7, parseLaunch [] 1 0 none)] })] }

theorem draining_canStore (d : Drain) : (draining d).canStore 0 0 0x2000 64 := canStore_base _ _ _ rfl rfl rfl (by decide)

def waitsCounter : Drain := .suspended 6 0x10000005 4 0x44

theorem witness_StrandsLeave : c0.ok = true ∧ (∀ d ∈ [Drain.exit, .yielded, waitsCounter], (draining d).Inv ∧
      (drained (draining d) c0).isSome = true ∧ (draining d).transit = [] ∧ (draining d).waiters = [] ∧ (draining d).mgr.tripped = false ∧
      cmdsOut (draining d) c0 = false ∧ (draining d).cx.replies = [] ∧ (draining d).cx.triple = false ∧
      ((draining d).partAt 0).expiries = [] ∧ ((draining d).cluAt 0).wbuf = [] ∧ (draining d).adds = [] ∧ (draining d).arrivals = [] ∧
      (draining d).frozen 0 0 = false ∧ (draining d).cx.recaddr.toNat = 0x2000 ∧
      (draining d).cx.slotsNext = some 1 ∧ (tfind ((draining d).partAt 0).launches (draining d).cx.launchid.toNat).isSome = true) ∧
    bitsOf ((0x10000005 : BitVec 32).setWidth 64) 28 4 = 1 ∧
    (((draining waitsCounter).cluAt 0).counter 5).val.toNat < (4 : BitVec 32).toNat := by unfold State.Inv; decide +kernel

/-- A ready record, new or resumable, of a launch in the pool. -/
def record0 : Ready := { part := 0, launch := 7, strand := 3, addr := 0x2000, prio := 2, time := 0 }
def launch0 : Launch := { parseLaunch [] 1 0 none with entry := 0x400, n := 1, units := 1, slots := 1 }
def recordOf (state : Nat) : List Byte := toLE 64 (0x500 + 3 * 2 ^ 64 + state * 2 ^ 120)
def toDispatch (state : Nat) : State :=
  { base with cx := {}, mem := storeBytes base.mem (phys 0x2000) (recordOf state), clus := [(0, { ready := [record0] })]
              parts := [(0, { part0 with launches := [(7, launch0)] })], mgr := { stage := 6 } }

/-- Cluster 0 is full and has two records ready; cluster 1 is idle. -/
def unbalanced : State :=
  { base with parts := [(0, { part0 with clusters := 3 })], clus := [(0, { ready := [record0, { record0 with strand := 4, time := 1 }] })]
              others := ((List.range 384).map fun k => ((k : Nat), ({ resident := true } : Context))).drop 1, migrations := [(0, 1, 1)] }

theorem witness_DispatchAndSaves_records : (∀ st ∈ [0, 2], (toDispatch st).Inv ∧
      bestHead (toDispatch st) 0 = some (record0, [⟨c0, 0, 48, 1⟩]) ∧ (toDispatch st).mgr.tripped = false ∧ (toDispatch st).mgr.stage = 6 ∧ phys 0x2000 / 64 ∉ (toDispatch st).failing ∧
      ((toDispatch st).partAt 0).capture = {} ∧ tfind ((toDispatch st).partAt 0).launches 7 = some launch0 ∧
      ((toDispatch st).cluAt 0).ready = [record0] ∧ (∀ k < 3, let y := (toDispatch st).ctxAt ⟨0, 0, k⟩; y.resident = false ∧ y.win = []) ∧
      (vbytes (toDispatch st) 0 0 0x2000 64).toOption = some (recordOf st) ∧
      (Machine.translate (toDispatch st) 0 0 0x2000 .store).toOption = some (phys 0x2000) ∧ recordBad (recordOf st) = false ∧
      fieldAt (recordOf st) 0x24 4 = 0 ∧ fieldAt (recordOf st) 0x0F 1 = st) ∧ launch0.triple = false ∧ launch0.unmade = [] ∧ launch0.imageN = 0 ∧
    record0.rd = none ∧ c0.ok = true ∧ formedParts unbalanced = [0] ∧ migration unbalanced 0 = some (0, 1, 1) ∧
    (unbalanced.partAt 0).capture = {} ∧ unbalanced.mgr.tripped = false ∧ unbalanced.Inv := by unfold State.Inv; decide +kernel

/-- A hardware save of the strand, its cut made. -/
def savingS : State :=
  { onBase fun x => { x with drain := .saving 0x14 true false 0 0 0, pc := 0x44, wsize := 0 } with parts := [(0, { part0 with launches := [(7, launch0)] })] }

/-- A record of a strand whose cluster buffers nothing is written. -/
theorem writeRecord_base (s : State) (pc : Word) (state flags count cause : Nat) (h1 : s.tlb = base.tlb) (h0 : s.failing = [])
    (h2 : (s.partAt 0).pages = part0.pages) (h3 : (s.cluAt 0).wbuf = []) (h4 : (s.ctxAt c0).part = 0) (h5 : (s.ctxAt c0).recaddr.toNat = 0x2000)
    (h6 : ((s.ctxAt c0).record pc state flags count cause).length ≤ 64) : (s.writeRecord c0 pc state flags count cause).2 = true := by
  have hr : s.releaseDrain c0 .device = s := by
    unfold State.releaseDrain State.drainAll
    rw [show c0.pcl = 0 from rfl, h3]
    rfl
  unfold State.writeRecord
  simp only [hr, h4, h5]
  generalize hz : ((s.stampWrite (dieOf c0.pcl) (s.ctxAt c0).obs).2.flush (s.stampWrite (dieOf c0.pcl) (s.ctxAt c0).obs).1) = z
  have hk := State.flush_keeps (s.stampWrite (dieOf c0.pcl) (s.ctxAt c0).obs).1 (s.stampWrite (dieOf c0.pcl) (s.ctxAt c0).obs).2
  rw [hz] at hk
  have hp : z.partAt 0 = s.partAt 0 := by simp only [State.partAt, hk.2.1]; rfl
  obtain ⟨v, hv, -⟩ := vstore_base z (s.stampWrite (dieOf c0.pcl) (s.ctxAt c0).obs).1 0x2000 ((s.ctxAt c0).record pc state flags count cause)
    (hk.1.trans h1) (by rw [hp]; exact h2) (hk.2.2.trans h0) (by omega)
  rw [show z.vstore c0.pcl 0 _ 0x2000 _ = (v, none) from hv]

/-- Its area and its record are written. -/
def saved : State := (savingS.writeSave c0 0x14 0x44).1

theorem saved_ctx : saved.ctxAt c0 = savingS.cx := by decide +kernel

theorem saved_tables : saved.tlb = base.tlb ∧ (saved.partAt 0).pages = part0.pages ∧ (saved.partAt 0).expiries = [] ∧ (saved.cluAt 0).wbuf = [] ∧ saved.failing = [] ∧
    (savingS.writeSave c0 0x14 0x44).2 = none := by decide +kernel

theorem saving_record : savingS.cx.part = 0 ∧ savingS.cx.recaddr.toNat = 0x2000 ∧ (savingS.cx.record 0x44 3 48 0 0).length ≤ 64 := by
  decide +kernel

theorem writeSave_savingS : savingS.writeSave c0 0x14 0x44 = (saved, none) ∧ (saved.partAt 0).expiries = [] ∧ (saved.ctxAt c0).hold = .none ∧
    (saved.writeRecord c0 0x44 3 48 0 0).2 = true := by
  obtain ⟨h1, h2, h3, h4, h0, h5⟩ := saved_tables
  obtain ⟨r1, r2, r3⟩ := saving_record
  rw [← saved_ctx] at r1 r2 r3
  exact ⟨Prod.ext (by simp only [saved]) h5, h3, by rw [saved_ctx]; rfl, writeRecord_base _ _ _ _ _ _ h1 h0 h2 h4 r1 r2 r3⟩

theorem witness_DispatchAndSaves_save : savingS.Inv ∧ savingS.cx.triple = false ∧ savingS.cx.heldPush = [] ∧ savingS.cx.heldReply = [] ∧
    savingS.cx.heldWait = [] ∧ cmdsOut savingS c0 = false ∧ savingS.cx.win.any (fun e => e.2.owner) = false ∧ savingS.cx.replies = [] ∧
    savingS.cx.hold = .none ∧ savingS.cx.resident = true ∧ savingS.mgr.tripped = false ∧ savingS.canWriteBack c0 = true := by
  unfold State.Inv; decide +kernel

/-- A strand whose area is written. -/
theorem witness_DispatchAndSaves_saved : let s := draining (.saved true false 0 0 0)
    s.Inv ∧ s.transit = [] ∧ s.waiters = [] ∧ s.adds = [] ∧ s.arrivals = [] ∧ (s.cluAt 0).wbuf = [] ∧ s.mgr.tripped = false ∧ s.cx.triple = false ∧
    s.cx.hold = .none ∧ (s.partAt 0).expiries = [] ∧ s.cx.recaddr.toNat = 0x2000 := by unfold State.Inv; decide +kernel

/-- A restore of an area that holds its version, the size of the window and the number of the slots, and zero elsewhere. -/
def restoringS : State :=
  { onBase fun x => { x with drain := .restoring 0 } with mem := base.mem ++ [(phys 0x4000, 1), (phys 0x4004, 48), (phys 0x4006, 8)] }

theorem witness_DispatchAndSaves_restore : restoringS.Inv ∧ c0.ok = true ∧ restoringS.mgr.tripped = false ∧ restoringS.poison = [] ∧
    ∃ bs, vget restoringS 0 0 0x4000 (0x8000 + 256 * 48) = .ok (bs, false) ∧ areaOk restoringS.cx bs = true :=
  ⟨by unfold State.Inv; decide +kernel, rfl, rfl, rfl, _, vget_base restoringS _ _ rfl rfl rfl rfl (by decide), by decide +kernel⟩

/-- Every context of cluster 0 runs a strand, and a record of higher priority is ready. -/
def crowded : State :=
  { base with clus := [(0, { ready := [{ record0 with prio := 5 }] })], parts := [(0, { part0 with launches := [(7, launch0)] })]
              others := ((List.range 384).map fun k => ((k : Nat), ({ resident := true, eff := 3 } : Context))).drop 1 }

/-- A word of the M queue is under way, so that a cut waits. -/
def busy (h : Hold) : State :=
  onBase fun x => { x with preq := true, counting := true, hold := h, qm := { items := [{ item (.aclr ⟨0, 0, 0⟩) 0 0 with phase := .going }] } }

def debugHalt : State := onBase fun x => { x with halt := some ⟨.debug, 0x3C, none⟩ }
def debugged : State := onBase fun x => { x with debug := true, parked := true, eissue := 0x44 }

theorem witness_PreemptionAndHalts : crowded.Inv ∧ victim crowded 0 = some c0 ∧ crowded.cx.preq = false ∧ crowded.cx.triple = false ∧
    (crowded.cluAt 0).preempting = none ∧ crowded.mgr.tripped = false ∧ { record0 with prio := 5 } ∈ readyHeads (crowded.cluAt 0) ∧
    crowded.cx.eff.toNat < effOf { record0 with prio := 5 } ∧ findSeats crowded 0 { record0 with prio := 5 } = none ∧ crowded.focus.ok = true ∧
    (∀ h ∈ [Hold.none, .phase 2 5], (busy h).Inv ∧ (busy h).cx.inFlight = true ∧ (busy h).cx.pe = true ∧ (busy h).cx.halt = none ∧
      (busy h).cx.debug = false ∧ (busy h).cx.intrap = false ∧ (busy h).frozen 0 0 = false ∧ (busy h).cx.evspin ≠ 0xFFFFFFFF) ∧
    debugHalt.Inv ∧ debugHalt.cx.inFlight = false ∧ debugHalt.cx.waits = [] ∧ debugHalt.frozen 0 0 = false ∧
    debugged.Inv ∧ debugged.cx.heldPush = [] ∧ debugged.cx.heldReply = [] ∧ debugged.cx.heldWait = [] ∧ debugged.cx.emark = 0 ∧
    debugged.cx.eissue.toNat % 4 = 0 ∧ debugged.cx.marked = none := by unfold State.Inv; decide +kernel

/-- Row group 3 of cluster 0, allocated by the strand. -/
def aging (r : RowGroup) : State :=
  { base with clus := [(0, { rgs := [(3, r)], alloc := [(1, ⟨0, 7, 3, 5, 0, 1⟩)] })], parts := [(0, { part0 with launches := [(7, launch0)] })] }

def group2 : RowGroup := { cls := 2, valid := true, age := 34, alloc := 1, evid := 5 }

/-- An age one below the request point and at it, and at the limit, for a class with a limit, KEEP, and class 7. -/
theorem witness_RowGroupsAge : (∀ a ∈ [34, 35, 36, 48, 255], (aging { cls := 2, valid := true, age := BitVec.ofNat 8 a, alloc := 1, evid := 5 }).Inv) ∧
    twf [(3, group2)] {} = true ∧ keepDue {} (sweepAge group2) = false ∧ expires {} (sweepAge group2) = false ∧
    (sweepAge group2).age.toNat < requestPoint (rgLimit {} (sweepAge group2)) ∧ requestPoint (rgLimit {} { group2 with age := 36 }) ≤ 36 ∧
    timed group2 = true ∧ expires {} { group2 with age := 48 } = true ∧ expires {} { group2 with age := 255, cls := 7 } = true ∧
    timed { group2 with cls := 7 } = false ∧ keepDue {} { group2 with age := 255, cls := 6 } = true ∧
    nextBand 0 104 < 7 ∧ residentOf (aging {}) 0 7 3 = some c0 ∧ base.cx.intrap = false ∧ base.cx.halt = none ∧ base.cx.debug = false ∧
    base.cx.drain = .none ∧ base.mgr.tripped = false := by unfold State.Inv; decide +kernel

/-- A CQRY of the strand as an engine has it. -/
def query : Cmd :=
  { id := 0, num := 0, who := c0, serial := 0, part := 0, launch := 7, strand := 3, fn := 0x60, wait := false, reply := true, rd := 9
    rs1 := 5, rs2 := 0, bytes := [], pc := 0x44, grans := [], rgs := [], obs := {} }

/-- A rewrite of row group 3, waiting or running, of KEEP or of an MREFRESH. -/
def rewriting (run : Bool) (who : Option CtxLoc) (eng : Option (Nat × Nat × Nat)) (pool : Nat) : State :=
  { lword { item (.mrefresh 4 5 6) 0 1 with phase := .going, left := 1 } with
    clus := [(0, { rgs := [(3, { cls := 2, valid := true, age := 9 })], rewrites := [⟨3, run, who, eng⟩], engines := [(0, [query])], pool := pool })] }

/-- A pool that covers the draw and one that does not; a frozen cluster. -/
theorem witness_RewritesAndBoundaries : (∀ p ∈ [1, 2], ∀ e ∈ [none, some (0, 0, 0)], (rewriting false none e p).Inv ∧
      nearWaits (rewriting false none e p) 0 3 = false ∧
      (((rewriting false none e p).cluAt 0).rewrites.filter fun q => q.n % 128 = 3).head? = some ⟨3, false, none, e⟩) ∧
    (∀ w ∈ [(none, none), (some c0, none), (none, some (0, 0, 0))], (rewriting true w.1 w.2 9).Inv ∧
      ((rewriting true w.1 w.2 9).cluAt 0).rewrites.find? (fun q => q.n % 128 = 3 && q.running) = some ⟨3, true, w.1, w.2⟩ ∧
      (((rewriting true w.1 w.2 9).cluAt 0).rg 3).valid = true ∧ (rewriting true w.1 w.2 9).engQueue 0 0 = [query] ∧
      twf ((rewriting true w.1 w.2 9).cluAt 0).engines [] = true) ∧ query.num = 0 ∧ base.mgr.tripped = false ∧
    base.Inv ∧ (∀ e ∈ base.contexts, e.1.pcl = 0 → e.2.qm.items = []) ∧
    (∀ b ∈ [false, true], (({ base with clus := [(0, { droop := true, droopAgain := b })] } : State).cluAt 0).droopAgain = b) := by unfold State.Inv; decide +kernel

/-- A record-less ENG word, and one with a record that is rejected, alone in the E queue. -/
def eword (i : Instr) (a : Word) : State := onBase fun x => { x with qe := { items := [item i a 0] } }

theorem witness_CommandsSubmitted : (eword (.engCqry ef) 5).Inv ∧ (eword (.engCqry ef) 5).engineOn c0 = true ∧
    engFields (.engCqry ef) = some ef ∧ hasRecord (fnOf (.engCqry ef)) = false ∧ unitGrans (fnOf (.engCqry ef)) 5 = [] ∧
    twf ((eword (.engCqry ef) 5).cluAt 0).engines [] = true ∧ ((eword (.engCqry ef) 5).engQueue 0 4).length < 64 ∧
    ((eword (.engCqry ef) 5).cluAt 0).resetting.contains 4 = false ∧ base.cx.waits = [] ∧
    (eword (.engCopy ef) 0xFFFE000000002F00).Inv ∧ hasRecord (fnOf (.engCopy ef)) = true ∧ (base.cx.gran 47).owner = false ∧
    (base.cx.gran 47).poison = false ∧ (0xFFFE000000002F00 : Word).toNat % 256 = 0 ∧
    (recordCode (eword (.engCopy ef) 0xFFFE000000002F00) c0 (fnOf (.engCopy ef)) ((granBytes (base.cx.gran 47).read).take 128)).1 ≠ 0 := by
  unfold State.Inv; decide +kernel

/-- A command alone in an engine's queue. -/
def commanded (n : Nat) (k : Cmd) : State :=
  { base with clus := [(0, { engines := [(n, [k])], counters := [(5, { val := 77 })] })], parts := [(0, { part0 with launches := [(7, launch0)] })] }

/-- A wait that brought an error; a start with energy to spare; a chunk; a completion; a reset. -/
theorem witness_EngineCommandsRun_queue :
    (commanded 4 { query with bad := true }).Inv ∧ (commanded 4 { query with bad := true }).engQueue 0 4 = [{ query with bad := true }] ∧
    query.ready = true ∧ query.energy ≤ poolOf ((commanded 4 query).cluAt 0) / 2 ∧ query.energy ≤ ((commanded 4 query).cluAt 0).pool ∧
    ((commanded 4 query).cluAt 0).slotFree query.cls = true ∧ (commanded 4 query).Inv ∧ twf ((commanded 4 query).cluAt 0).engines [] = true ∧
    (commanded 4 { query with started := true, drawn := true }).Inv ∧ (commanded 4 query).kept ≤ 2 ^ 20 ∧
    (commanded 4 { query with started := true, done := true }).Inv ∧ query.heard (commanded 4 query) = true ∧
    signalOut (commanded 4 { query with started := true, done := true }) 0 4 { query with started := true, done := true } = false ∧ base.adds = [] ∧ base.cx.halted = false ∧
    (commanded 6 { query with reply := false }).Inv := by unfold State.Inv; decide +kernel

/-- A WSWAP whose group's phase would complete, with a table of three shards. -/
def swapCmd : Cmd :=
  { query with fn := 0x50, bytes := toLE 128 (0x6000 * 2 ^ (8 * 0x38) + 0x7000 * 2 ^ (8 * 0x40)), started := true, group := 2, phase := 3 }

def swapping (present flagged : Nat) : State :=
  { commanded 7 swapCmd with
    parts := [(0, { part0 with launches := [(7, { launch0 with groups := 0x1000 })], swaps := [(phys 0x1020, 3)] })]
    mem := storeBytes (storeBytes (storeBytes base.mem (phys 0x1020) [1, 0, 0, 0, 1, 0, 0, 0, 3]) (phys 0x6000) [3]) (presentAt (phys 0x6000))
      (toLE 8 present ++ toLE 8 flagged) }

theorem witness_EngineCommandsRun_swap : (∀ e ∈ [(7, 0), (3, 0), (7, 1)], (swapping e.1 e.2).Inv ∧ (swapping e.1 e.2).transit = [] ∧
      (swapping e.1 e.2).waiters = [] ∧ (swapping e.1 e.2).mgr.tripped = false ∧ (swapping e.1 e.2).engQueue 0 7 = [swapCmd] ∧
      (groupEntry (swapping e.1 e.2) 0 0 { launch0 with groups := 0x1000 } 2).toOption = some (phys 0x1020) ∧
      (groupAt (swapping e.1 e.2) (phys 0x1020)).phase = swapCmd.phase ∧ (groupAt (swapping e.1 e.2) (phys 0x1020)).members = 1 ∧
      (groupAt (swapping e.1 e.2) (phys 0x1020)).arrivals = 1 ∧ (swapping e.1 e.2).mayWrite 0 swapCmd.obs = true ∧
      (readTable (swapping e.1 e.2) 0 0 (bodyA swapCmd.bytes).toNat).toOption = some ⟨3, 0, e.1, e.2⟩ ∧
      (Machine.translate (swapping e.1 e.2) 0 0 (bodyB swapCmd.bytes).toNat .store).toOption = some (phys 0x7000)) ∧
    (bodyB swapCmd.bytes).toNat % 8 = 0 := by unfold State.Inv; decide +kernel

theorem swapping_logsFull (present flagged : Nat) : (swapping present flagged).logsFull := by
  intro p
  simp only [State.cluAt, swapping, commanded, tget]
  split <;> exact Nat.zero_le _

def collCmd : Cmd := { query with fn := 0x20, coll := some ⟨0, 0, 0, 44, 5, [(0, 0, 0)], 0⟩, started := true }

theorem witness_EngineCommandsRun_collective : (commanded 5 collCmd).Inv ∧ (commanded 5 collCmd).engQueue 0 5 = [collCmd] ∧
    (commanded 5 collCmd).mgr.tripped = false ∧ twf ((commanded 5 collCmd).cluAt 0).engines [] = true := by
  unfold State.Inv; decide +kernel

/-- A launch record of `n` strands. -/
def launchRec (n : Nat) : List Byte := toLE 128 (0x400 + n * 2 ^ 64 + 2 ^ 112 + 2 ^ 120 + 0x8000 * 2 ^ 448 + 0x03FF * 2 ^ 608)

def request (d : Nat) (n : Nat) (l : Tbl Launch) : State :=
  { base with mem := storeBytes base.mem (phys 0x6000) (launchRec n), launching := [⟨c0, 0, 0, 5, 0x6000, false, 0x44, {}, d, false⟩]
              parts := [(0, { part0 with launches := l })] }

/-- Depths 6 and 7; a record with no strand, and one with three; a pool without an entry for the depth. -/
theorem witness_LaunchesAccepted_request : (∀ d ∈ [6, 7], (request d 3 []).Inv ∧ (request d 3 []).cx.serial = 0 ∧ (request d 3 []).cx.hold = .none) ∧
    (∀ n ∈ [0, 3], (vbytes (request 6 n []) 0 0 0x6000 128).toOption = some (launchRec n)) ∧
    launchOk (request 6 0 []) 0 0 (launchRec 0) (parseLaunch (launchRec 0) 7 0 none) = false ∧
    launchOk (request 6 3 []) 0 0 (launchRec 3) (parseLaunch (launchRec 3) 7 0 none) = true ∧
    poolEntry ((request 6 3 []).partAt 0) 7 = some 1792 ∧ (request 6 3 []).owed {} none none none = false ∧ twf (request 6 3 []).cx.regs 0 = true ∧ base.transit = [] ∧ base.waiters = [] ∧
    base.mgr.tripped = false := by unfold State.Inv; decide +kernel

/-- The blocking form, with no wait of its front end marked. -/
theorem witness_LaunchesAccepted_block : (let s : State := { request 6 3 [] with launching := [⟨c0, 0, 0, 5, 0x6000, true, 0x44, {}, 6, false⟩] }
    s.Inv ∧ s.cx.hold = .none ∧ tfind s.cx.waits 4 = none ∧ s.owed {} none none none = false ∧ s.launching.length = 1) ∧
    (let s : State := { request 6 3 [] with launching := [⟨c0, 0, 0, 5, 0x20000, false, 0x44, {}, 6, false⟩] }
    (match vbytes s 0 0 0x20000 128 with | .error e => e.1 = 8 | _ => false) = true) := by unfold State.Inv; decide +kernel

/-- A record that cannot be read: its page is not mapped, or its line is poisoned. -/
theorem witness_LaunchesAccepted_unread :
    (match vbytes base 0 0 0x20000 128, vbytes { base with poison := [phys 0x6000 / 64] } 0 0 0x6000 128 with
      | .error e, .error f => e.1 = 8 && f.1 = 0x0D
      | _, _ => false) = true ∧ base.mayWrite 0 {} = true := by decide +kernel

/-- A full pool. -/
def fullPool : Tbl Launch := (List.range 4096).map fun k => (k, launch0)

theorem tfind_map {α : Type} (v : α) (j : Nat) : ∀ l : List Nat, j ∈ l → tfind (l.map fun k => (k, v)) j = some v
  | k :: r, h => by
    by_cases hk : j = k
    · simp [tfind, hk]
    · simp only [List.map_cons, tfind, if_neg hk]
      exact tfind_map v j r (List.mem_of_ne_of_mem hk h)

theorem tfree_full : ∀ n lo : Nat, lo + n ≤ 4096 → tfree fullPool lo n = none
  | 0, _, _ => rfl
  | n + 1, lo, h => by
    unfold tfree
    have h0 : tfind fullPool lo = some launch0 := tfind_map launch0 lo _ (List.mem_range.mpr (by omega))
    rw [h0, if_neg (by simp)]
    exact tfree_full n (lo + 1) (by omega)

theorem witness_LaunchesAccepted_full : poolEntry { part0 with launches := fullPool } 7 = none := by
  unfold poolEntry
  rw [tfree_full 256 _ (by omega), tfree_full 2048 _ (by omega)]
  rfl

def hostQ : HostQ := { ring := 0x8000, cap := 4, mail := 0, head := 0x9000, comp := 0xA000, notify := none, t := 5, h := 3, hc := 2 }
def hosted : State :=
  { base with parts := [(0, { part0 with queues := [(1, hostQ)], launches := [(7, { launch0 with ended := 1, event := 0x03FF }), (8, { launch0 with ended := 1, event := 5 })] })]
              mem := storeBytes base.mem (phys 0x8180) (launchRec 2) }

/-- Launches that have ended, with and without a completion event; the greatest tail that the queue accepts, and the next; a record
at the queue's head. -/
theorem witness_LaunchesAccepted_host : hosted.Inv ∧ tfind (hosted.partAt 0).queues 1 = some hostQ ∧
    tfind (hosted.partAt 0).launches 7 = some { launch0 with ended := 1, event := 0x03FF } ∧
    tfind (hosted.partAt 0).launches 8 = some { launch0 with ended := 1, event := 5 } ∧ launch0.host = none ∧ launch0.n = 1 ∧ hosted.waiters = [] ∧
    ((7 : BitVec 32) - hostQ.t).toNat ≤ hostQ.cap ∧ ((7 : BitVec 32) - hostQ.h).toNat ≤ hostQ.cap ∧ hostQ.cap < ((8 : BitVec 32) - hostQ.h).toNat ∧
    hostQ.h ≠ hostQ.t ∧ (hostQ.h - hostQ.hc).toNat < hostQ.cap ∧
    (vbytes hosted (hubClu hosted 0) 0 (hostQ.ring.toNat + 128 * (hostQ.h.toNat % hostQ.cap)) 128).toOption = some (launchRec 2) ∧
    launchOk hosted (hubClu hosted 0) 0 (launchRec 2) (parseLaunch (launchRec 2) 0 (hubClu hosted 0) (some (1, hostQ.h))) = true ∧
    poolEntry (hosted.partAt 0) 0 = some 0 ∧ hubTurn hosted 0 = some 1 ∧ (hosted.partAt 0).turn = 0 := by unfold State.Inv; decide +kernel

/-- A second queue, whose turn it is not: it lies behind the first, or the rotation has passed it. -/
def hosted2 (turn j k : Nat) : State := hosted.onPart 0 fun p => { p with queues := tput [(j, hostQ)] k { hostQ with t := 3 }, turn := turn }

theorem witness_LaunchesAccepted_turn : ∀ e ∈ [(0, 1, 2), (1, 1, 0)], (hosted2 e.1 e.2.1 e.2.2).Inv ∧
    (((hosted2 e.1 e.2.1 e.2.2).partAt 0).queues.map Prod.fst).Pairwise (· < ·) ∧ tfind ((hosted2 e.1 e.2.1 e.2.2).partAt 0).queues e.2.2 = some { hostQ with t := 3 } ∧
    tfind ((hosted2 e.1 e.2.1 e.2.2).partAt 0).queues e.2.1 = some hostQ ∧ (hubFinds (hosted2 e.1 e.2.1 e.2.2) 0 e.2.1 hostQ).isSome = true ∧
    ((hosted2 e.1 e.2.1 e.2.2).partAt 0).turn = e.1 := by unfold State.Inv; decide +kernel

/-- A flit of module 1, and a state that it reaches. -/
def flit : Flit :=
  { src := 1, dst := 0, srcGen := 0, dstGen := 0, seq := 1, ack := 0, va := 0x200, part := 0, len := 8, op := 0, a := 0, b := 0, data := [], poison := 0, cid := 0 }

def linked : State := { base with fabric := { ids := [(1, ⟨1, 0, 0, 1, 0, false⟩)] } }

/-- A word of the L queue waits for module 1. -/
def awaiting (i : Instr) (kind : Nat) : State :=
  { lword { item i 0x1001000000000200 0 with phase := .going, parts := [{ row := 0, off := 0, n := 4, addr := 0x1001000000000200, place := .remote 1 0x200, st := .out }] } with
    fabric := { linked.fabric with pairs := [(1, { waiting := [⟨kind, { flit with src := 0, dst := 1, seq := 4, len := 4 }, some (.lword c0 0 0 none), true⟩] })] } }

theorem witness_FlitsApplied : linked.Inv ∧ takesFlit linked flit = true ∧ (linked.pairAt 0 1).replay = [] ∧ (linked.pairAt 0 1).reorder = [] ∧
    linked.fabric.later = [] ∧ linked.kept < 2 ^ 20 ∧ flit.seq = (linked.pairAt 0 1).applied + 1 ∧ twf linked.fabric.pairs {} = true ∧ linked.transit = [] ∧ linked.absentChip 1 = false ∧
    isPast ((linked.pairAt 0 1).send + 1) flit.ack = false ∧ farPieces linked 0 0x200 8 .load = some [(phys 0x200, 8)] ∧
    farPieces linked 0 0x200 8 .store = some [(phys 0x200, 8)] ∧ farPieces linked 0 0x200 8 .atomic = some [(phys 0x200, 8)] ∧
    phys 0x200 / 64 ∉ linked.poison ∧ (∀ k ∈ [1, 4], (awaiting (.ld .w 5 6 0) k).Inv ∧ takesFlit (awaiting (.ld .w 5 6 0) k) flit = true ∧
      ((awaiting (.ld .w 5 6 0) k).pairAt 0 1).waiting.length = 1 ∧ (awaiting (.ld .w 5 6 0) k).cx.lane = []) ∧
    (0x405 / 1024 % 64 ≠ 0 ∧ (linked.partAt 0).formed = true ∧ eventBad linked 0 0 0x405 = none) ∧ (linked.partAt 0).owns 0 = true ∧ (linked.cluAt 0).inbox = [] ∧
    (linked.cluAt 0).aborted = [] ∧ linked.engQueue 0 5 = [] ∧ linked.mgr.tripped = false := by unfold State.Inv; decide +kernel

/-- A link of each kind, and a pair with a transaction that is not sent. -/
def link (k : Link) : State :=
  { linked with fabric := { linked.fabric with links := [(0, k)], pairs := [(1, { replay := [⟨3, { flit with seq := 4 }, none, false⟩] })] } }

theorem witness_LinksAndIdentities : (∀ k ∈ [({ up := true, training := true, fails := 3 } : Link), { up := true, retries := 15 }, { up := true, retries := 16 }], (link k).Inv ∧
      (link k).mgr.tripped = false ∧ twf (link k).fabric.links {} = true ∧ twf (link k).fabric.pairs {} = true) ∧ linked.fabric.pairs = [] ∧
    ({ retries := 15 } : Link).retries < 16 ∧ 16 ≤ ({ retries := 16 } : Link).retries ∧ routed (link { up := true, retries := 15 }).fabric 1 = true ∧ linked.clus = [] ∧ linked.transit = [] ∧
    (linked.partAt 0).formed = true ∧ twf linked.fabric.ids ⟨0, 0, 0x1F, 0x1F, 0, false⟩ = true ∧ (∀ own < 8, (linked.pairAt own 1).waiting = [] ∧
      (linked.pairAt own 1).replay = []) ∧ (∀ e ∈ ({ linked with cx := {} } : State).contexts, e.2.resident = false) ∧ Memory.wf [(7, 9)] = true := by unfold State.Inv; decide +kernel

/-- Both ports are up; a queue pair and a key of the partition; a table of three shards is armed, the first present. -/
def etherS (n : Nat) (present : Nat) (a : List Armed) : State :=
  { base with
    parts := [(0, { part0 with qps := [(0, 5, 1024), (1, 6, 4096)], keys := [(3, 0, 1)], wmail := 0x300, armed := a })]
    eth := { down0 := false, down1 := false }
    mem := storeBytes (storeBytes (storeBytes base.mem (phys 0x6000) (toLE 4 n ++ toLE 4 5)) (presentAt (phys 0x6000)) [BitVec.ofNat 8 present])
      (phys (shardAt 0x6000 3 1)) (toLE 8 0x8000 ++ toLE 4 64 ++ toLE 4 0 ++ toLE 8 0x5555 ++ toLE 2 5 ++ toLE 4 9 ++ toLE 2 0 ++
        toLE 8 0x8040 ++ toLE 4 64 ++ toLE 4 2) }

def armed (l : List Nat) : Armed := { addr := 0x6000, fetches := l.map fun i => { shard := i } }

theorem witness_HostAndWeights_ports : (etherS 3 1 []).Inv ∧ (etherS 3 1 []).transit = [] ∧ (etherS 3 1 []).waiters = [] ∧
    (etherS 3 1 []).mgr.tripped = false ∧ (etherS 3 1 []).eth.up 0 = true ∧
    rdmaPart (etherS 3 1 []) 0 5 3 0xFFFE 2 = some 0 ∧ mtuOf (etherS 3 1 []) 0 5 = 1024 ∧ rdmaPart (etherS 3 1 []) 0 5 3 0x400 1025 = some 0 ∧ rdmaPart (etherS 3 1 []) 0 5 3 0xFFFE 3 = none ∧
    farPieces (etherS 3 1 []) 0 0xFFFE 2 .store = some [(phys 0xFFFE, 2)] ∧ farPieces (etherS 3 1 []) 0 0xFFFE 2 .load = some [(phys 0xFFFE, 2)] ∧
    ((etherS 3 1 []).partAt 0).queues = [] ∧ ((etherS 3 1 []).partAt 0).wmail = 0x300 ∧ phys 0xFFFE / 64 ∉ (etherS 3 1 []).poison ∧ ((etherS 3 1 []).partAt 0).formed = true := by
  unfold State.Inv; decide +kernel

theorem witness_HostAndWeights_tables : (∀ l ∈ [[], [1]], (etherS 3 1 [armed l]).Inv ∧ ((etherS 3 1 [armed l]).partAt 0).armed = [armed l] ∧
      (readTable (etherS 3 1 [armed l]) hubPcl 0 0x6000).toOption = some ⟨3, 5, 1, 0⟩) ∧
    (0x6000 : Word).toNat % 64 = 0 ∧ (0x6000 : Word).toNat < 2 ^ 48 ∧ ((etherS 3 1 []).partAt 0).armed = [] ∧
    (Machine.translate ((etherS 3 1 []).vstore hubPcl 0 {} 0x300 (toLE 8 0x6000)).1 hubPcl 0 0x6000 .load).toOption = some (phys 0x6000) ∧
    (List.range 3).find? (fun i => (⟨3, 5, 1, 0⟩ : WTable).missing i && !([] : List Nat).contains i) = some 1 ∧
    (readShard (etherS 3 1 [armed [1]]) 0 (armed [1]) ⟨3, 5, 1, 0⟩ 1 = some ⟨0x8000, 64, 0, 0x5555, 5, 9⟩) ∧
    (⟨0x8000, 64, 0, 0x5555, 5, 9⟩ : Shard).ok = true ∧ (readShard (etherS 3 3 [armed []]) 0 (armed []) ⟨3, 5, 3, 0⟩ 2).map Shard.kind = some 2 ∧ (((etherS 3 1 [armed [1]]).partAt 0).qps.find? fun e => e.2.1 = 5 && (etherS 3 1 [armed [1]]).eth.up e.1) = some (0, 5, 1024) ∧
    (writeShard 0 0x6000 1 0x8000 (restOf { shard := 1 } ((List.replicate 64 9).map fun b => (b, false))) (etherS 3 1 [armed [1]])).2 = true ∧
    (writeShard 0 0x6000 1 0x200000000 (restOf { shard := 1 } ((List.replicate 64 9).map fun b => (b, false))) (etherS 3 1 [armed [1]])).2 = false ∧
    (readTable (etherS 1 0 [armed [0]]) hubPcl 0 0x6000).toOption = some ⟨1, 5, 0, 0⟩ := by unfold State.Inv; decide +kernel

/-- The second shard lies in another module, which the identity entries name or do not; its fetch has brought both lines, or none. -/
def etherR (ids : Tbl IdEntry) (cover : Tbl (BitVec 64)) : State :=
  let s := etherS 3 1 [{ addr := 0x6000, fetches := if cover = [] then [] else [{ shard := 1, cover := cover }] }]
  { s with fabric := { ids := ids }
           mem := storeBytes s.mem (phys (shardAt 0x6000 3 1)) (toLE 8 0x8000 ++ toLE 4 128 ++ toLE 4 1 ++ toLE 8 0x1001000000000200) }

theorem witness_HostAndWeights_remote : (∀ s ∈ [etherR [(1, ⟨1, 0, 0, 1, 0, false⟩)] [], etherR [] [], etherR [] [(0, -1), (1, -1)]], s.Inv ∧ s.transit = [] ∧
      s.waiters = [] ∧ s.mgr.tripped = false ∧ (readTable s hubPcl 0 0x6000).toOption = some ⟨3, 5, 1, 0⟩ ∧
      readShard s 0 { addr := 0x6000 } ⟨3, 5, 1, 0⟩ 1 = some ⟨0x8000, 128, 1, 0x1001000000000200, 5, 9⟩) ∧
    (placeOf 0 (0x1001000000000200 : Word)).map (etherR [] []).localPlace = some (.remote 1 0x200) ∧ (etherR [] []).absentChip 1 = true ∧
    (etherR [(1, ⟨1, 0, 0, 1, 0, false⟩)] []).absentChip 1 = false ∧ (etherR [] []).kept < 2 ^ 20 ∧
    ({ shard := 1, cover := [(0, -1), (1, -1)] } : Fetch).full 128 = true ∧
    (farPieces (etherS 3 3 []) 0 0 64 .load).isSome = true := by unfold State.Inv; decide +kernel

/-- A cluster with a snapshot under way to an address that is mapped, or not; with one enabled monitor of the write buffer. -/
def monitored (snap : Word) : State :=
  { base with clus := [(0, { monsnap := snap, mons := [(2, { cfg := 0x0008000000000001 })], wbuf := [⟨1, c0, 0, 0, phys 0x40, [1], false, none, [], []⟩] })] }

/-- A V word and an L word are under way. -/
def replaying : State :=
  onBase fun x => { x with qv := { items := [{ item (.vadd vf) 0 0 with phase := .going }] }
                           ql := { items := [{ item (.ld .w 1 2 0) 0x100 0 with phase := .going, parts := [{ row := 0, off := 0, n := 4, addr := 0x100, st := .out }] }] } }

theorem witness_MonitorsAndResets : (∀ w ∈ [0x2001, 2 ^ 40 + 1], (monitored (BitVec.ofNat 64 w)).Inv ∧
      bitOf ((monitored (BitVec.ofNat 64 w)).cluAt 0).monsnap 0 = true) ∧ snapOk (monitored 0x2001) 0 0 0x2000 [] = true ∧
    snapOk (monitored (BitVec.ofNat 64 (2 ^ 40 + 1))) 0 0 (2 ^ 40) [(2, {})] = false ∧ bitOf (0x0008000000000001 : Word) 0 = true ∧
    bitsOf (0x0008000000000001 : Word) 48 8 = 8 ∧ (∀ e ∈ (monitored 0).contexts, storeWaits (monitored 0) e.1 e.2 = false) ∧
    replaying.Inv ∧ replayCycles replaying.cx .v ≠ 0 ∧ (spoilV c0 replaying).isSome = true ∧
    (replaying.cx.ql.items.all fun j => j.parts.any fun p => p.flying) = true ∧ replaying.mgr.tripped = false ∧ replaying.cx.halt = none ∧
    (base.partAt 0).list = [0] ∧ (base.cluAt 0).wbuf = [] ∧ base.engQueue 0 5 = [] ∧ base.transit = [] ∧ base.waiters = [] := by
  unfold State.Inv; decide +kernel

/-- The partition has a power floor; software holds the cluster's body bias. -/
def powered (floor : Nat) (man : Bool) : State :=
  { base with parts := [(0, { part0 with floor := floor })], clus := [(0, { biasman := man, dispatches := 1 })] }

def tripped : State := { mgr := { tripped := true } }

/-- A cap at the floors and one below them; a mean above the cap; a trip, and a recovery below 95. -/
theorem witness_PowerControl : (∀ b ∈ [true, false], (powered 9 b).Inv ∧ ((powered 9 b).cluAt 0).biasman = b) ∧ formedParts (powered 9 true) = [0] ∧
    floorSum (powered 9 true) + (powered 9 true).idleShare * looseClusters (powered 9 true) = max (powered 9 true).mgr.idle (min Config.tdp 360) ∧
    (powered 9 true).mgr.halted = false ∧ (powered 10 true).Inv ∧
    max (powered 10 true).mgr.idle (min Config.tdp 360) < floorSum (powered 10 true) + (powered 10 true).idleShare * looseClusters (powered 10 true) ∧
    ((powered 9 true).partAt 0).formed = true ∧ (powered 9 true).mgr.cap < 2901 ∧ 115 ≤ (115 : BitVec 8).toNat ∧
    (powered 9 true).mgr.tripped = false ∧ tripped.Inv ∧ (94 : BitVec 8).toNat < 95 ∧ formedParts tripped = [] ∧ tripped.mgr.stored = [] ∧
    95 ≤ (95 : BitVec 8).toNat := by unfold State.Inv; decide +kernel

/-- A cap forced on a floor above the idle shares, and on floors at them; a halted module. -/
theorem witness_PowerControl_forced : (∀ f ∈ [10, 1000], (powered f true).Inv ∧ (powered f true).mgr.halted = false ∧
      max (powered f true).mgr.idle (min Config.tdp 360) < floorSum (powered f true) + (powered f true).idleShare * looseClusters (powered f true) ∧
      formedParts (powered f true) = [0] ∧ floorSum (powered f true) ≠ idleSum (powered f true)) ∧
    floorSum (powered 9 true) = idleSum (powered 9 true) ∧ (tripped.cluAt 0).grantNext = (tripped.cluAt 0).granted ∧
    ({ mgr := { halted := true } } : State).Inv := by unfold State.Inv; decide +kernel

def form0 : Form := { clusters := 6, root := 0x1000, pages := [0, 1], queues := [], qps := [], keys := [], waitlogs := [(1, 0x100000, 4)], ports := [0], ids := [1], wmail := 0 }

/-- An open wait, and room in the wait log. -/
def waiting : State := { onBase fun x => { x with waits := [(4, (6, 5))] } with clus := [(0, { waitcap := 1 })] }
def replayed (r : Option (List (Nat × Nat × Nat))) : State := { base with parts := [(0, { part0 with capture := { replay := r } })] }

def haltedS : State := { mgr := { halted := true } }
def signedS : State := { mgr := { signed := 2 ^ 15 } }

/-- A first image that asks for no raise, the same asking for one, and one that does not verify. -/
def image0 : FwImage := { ecdsa := true, lms := true, digest := 7, version := 3, raise := none }
def parts0 (j : FwImage) : BootParts := { images := [j], links := [2], hbms := [1] }

/-- Boot (R429, R430): each way it ends. -/
theorem witness_ManagementActions_boot : base.Inv ∧ imageVerifies image0 base.mgr.rollback = true ∧ base.mgr.rollback < (2 : BitVec 32) ∧ haltedS.Inv ∧
    haltedS.mgr.rollback ≤ image0.version ∧ base.mgr.stored = [] ∧
    (bootImage base.mgr none (some image0)).isSome = true ∧ (bootImage base.mgr (some { image0 with lms := false }) none).isSome = false := by
  unfold State.Inv; decide +kernel

/-- A boot with a raise and a faulty link; one whose second image fails; an image below the counter is refused. -/
theorem test_powerUp : let t := after (execPowerUp none (some { image0 with raise := some 2 }) (parts0 image0) base)
    t.mgr.stage = 6 ∧ t.mgr.rollback = 2 ∧ t.mgr.bootLog = [7, 7] ∧ (tget t.fabric.links 2 {}).open? = false ∧ (tget t.fabric.links 3 {}).open? = true ∧
    (after (execPowerUp (some image0) none (parts0 { image0 with version := 1 }) { mgr := { rollback := 2 } })).mgr.dead = [0] ∧
    (after (execRecoveryCommand ⟨{ image0 with version := 1 }, parts0 image0⟩ { mgr := { rollback := 2, halted := true } })).mgr.halted = true := by
  decide +kernel

theorem witness_ManagementActions : base.Inv ∧ base.mgr.stored = [] ∧ haltedS.Inv ∧ base.mgr.tripped = false ∧
    base.mgr.halted = false ∧ base.mgr.signed < 2 ^ 15 ∧ signedS.Inv ∧ State.reset.Inv ∧
    formOk State.reset 2 form0 = true ∧ State.reset.mgr.bootFail = false ∧ (State.reset.partAt 2).formed = false ∧ State.reset.transit = [] ∧
    State.reset.waiters = [] ∧ (base.partAt 0).formed = true := by unfold State.Inv; decide +kernel

/-- A form with a share of a faulty link, or a page on the die of a faulty stack. -/
theorem witness_ManagementActions_faulty : formFaulty form0 { badLinks := [0] } = true ∧ formFaulty form0 { badHbms := [1] } = true ∧
    formFaulty form0 { badLinks := [1], badHbms := [2] } = false ∧ formFaulty form0 State.reset.mgr = false ∧ haltedS.mgr.halted = true ∧
    tripped.mgr.tripped = true := by decide +kernel

theorem witness_ManagementActions_replay : (replayed none).Inv ∧ ((replayed none).partAt 0).capture.replay.isNone = true ∧
    (replayed (some [])).Inv ∧ ((replayed (some [])).partAt 0).capture.replay = some [] := by unfold State.Inv; decide +kernel

theorem witness_ManagementActions_wait : waiting.Inv ∧ waiting.others = [] ∧
    waiting.cx.resident = true ∧ waiting.cx.waits = [(4, (6, 5))] ∧ (waiting.cluAt 0).waitlog.length < (waiting.cluAt 0).waitcap ∧
    8388607 < Config.memBytes / 65536 ∧ (formedParts base).all (fun p => !(base.partAt p).pages.contains 8388607) = true ∧
    cachedLine base c0 base.cx (0x240 / 64) = none ∧ (base.icache.filter fun e => e.core = 0).length < 2048 ∧ (Machine.translate base 0 0 0x240 .fetch).toOption = some (phys 0x240) ∧
    phys 0x240 / 64 ∉ base.poison := by unfold State.Inv; decide +kernel

/-- A full cache. -/
theorem witness_ManagementActions_cache : (({ base with icache := List.replicate 2048 ⟨0, 0, 7, 5, []⟩ } : State).icache.filter
    fun e => e.core = 0).length = 2048 := by decide +kernel

theorem witness_EncodeDecode : (Instr.vadd vf).isWord = true ∧ (Instr.vadd vf).wf = true ∧ (Instr.addi 0 31 (-8192)).isWord = true ∧
    (Instr.addi 0 31 (-8192)).wf = true := by decide +kernel

/-- ADDI s5, s6, −3 at the strand's pc; an event and an issue on the schedule. -/
def coded (l : List Move) : State := { base with mem := base.mem ++ [(phys 0x40, 0x04), (phys 0x41, 0xC5), (phys 0x42, 0xF4), (phys 0x43, 0xFF)], agenda := l }

/-- What a fetch brings: the word, the parcel, the cause of its fault. -/
theorem witness_StepRunsDecoded : (coded []).canIssue = true ∧ ownEvent (coded []) = none ∧ c0.ok = true ∧
    ({ coded [.issue c0] with agenda := [] }.refocus c0).canIssue = true ∧
    (fetchWord ((coded []).fetchLines c0 0x40) c0 (coded []).cx.pc).toOption = some (.addi 5 6 (-3)) ∧
    (fetchWord ((onBase fun x => { x with pc := 0x20000 }).fetchLines c0 0x20000) c0 0x20000).toOption = none ∧
    (fetchParcel (coded []) c0 (coded []).cx 0x40).toOption = some 0xFFF4C504 ∧
    (fetchParcels (coded []) c0 (coded []).cx (wordParcels 0xFFF4C504) 0x40).toOption = some [0xFFF4C504] ∧
    cachedLine (coded []) c0 (coded []).cx 1 = none ∧ phys 0x40 / 64 ∉ base.poison := by
  refine ⟨?_, ?_, ?_, ?_, ?_, ?_, ?_, ?_, ?_, ?_⟩ <;> decide +kernel

/-- A state that a step takes, with the invariant before it. -/
theorem witness_StepKeepsInvariant : (coded []).Inv ∧ (after (step (coded []))).cx.pc = 0x44 := by unfold State.Inv; decide +kernel


end Sys2Proof.Tests
end

section
namespace Sys2Proof.Machine

/-! ### What a scalar word comes to

A word of the scalar unit is settled by the value that it writes: one lemma for each way a word ends, then the values. -/

/-- A register write followed by the step of pc is the state that the statements name. -/
theorem State.onCx_setRg_retire (s : State) (rd : Reg) (v : Word) :
    (s.onCx fun x => (x.setRg rd v).retire) = s.wrote rd v := by
  simp [State.onCx, State.wrote, Context.retire]

/-- A word that is `scalarResult` completes with the value written. -/
theorem completes_of_scalarResult {i : Instr} {s : State} {rd : Reg} {v : Context → Word} {w : Word}
    (hexec : exec i s = scalarResult i rd v s) (hv : v s.cx = w) : Completes i s (s.wrote rd w) := by
  intro h
  rw [hexec, scalarResult_of_issues h, ← hv]
  exact congrArg Host.Outcome.next (s.onCx_setRg_retire rd (v s.cx))

/-! ### Values of the integer unit (R93) -/

theorem b2w_decide (p : Prop) [Decidable p] : b2w (decide p) = flag p := by simp [b2w, flag]

theorem b2w_slt (a b : Word) : b2w (a.slt b) = flag (a.toInt < b.toInt) := by
  rw [BitVec.slt_eq_decide, b2w_decide]

theorem b2w_ult (a b : Word) : b2w (a.ult b) = flag (a.toNat < b.toNat) := by
  rw [BitVec.ult_eq_decide, b2w_decide]

/-- A choice by `<` is the opposite choice by `≥`. -/
theorem ite_slt (a b c d : Word) : (if b.slt a then c else d) = if a.toInt ≤ b.toInt then d else c := by
  simp only [BitVec.slt_iff_toInt_lt, ← Int.not_le, ite_not]

theorem ite_ult (a b c d : Word) : (if b.ult a then c else d) = if a.toNat ≤ b.toNat then d else c := by
  simp only [BitVec.ult_iff_toNat_lt, ← Nat.not_le, ite_not]

theorem bitsOf_eq (w : Word) (lo n : Nat) : bitsOf w lo n = w.toNat / 2 ^ lo % 2 ^ n := by
  simp [bitsOf, Nat.shiftRight_eq_div_pow]

theorem bitsOf_zero (w : Word) (n : Nat) : bitsOf w 0 n = w.toNat % 2 ^ n := by rw [bitsOf_eq, Nat.pow_zero, Nat.div_one]

/-- Bits [63:6] of a shift amount are ignored. -/
theorem shamt_eq (w : Word) : shamt w = w.toNat % 64 := bitsOf_zero w 6

theorem rotateLeft_eq_rotated (w : Word) {n : Nat} (hn : n < 64) : w.rotateLeft n = rotated w n := by
  rw [BitVec.rotateLeft_def, Nat.mod_eq_of_lt hn, rotated]

/-- The first one bit from the top of a word that is not zero is that of its logarithm. -/
theorem leadingZeros_of_ne_zero {w : Word} (hw : w ≠ 0) : leadingZeros w = 63 - Nat.log2 w.toNat := by
  have hne : w.toNat ≠ 0 := fun h => hw (BitVec.eq_of_toNat_eq h)
  have hlog : Nat.log2 w.toNat < 64 := (Nat.log2_lt hne).mpr w.isLt
  have hfind : ((List.range 64).find? fun k => w.getMsbD k) = some (63 - Nat.log2 w.toNat) := by
    rw [List.find?_range_eq_some]
    refine ⟨?_, by simp; omega, fun j hj => ?_⟩
    · have htop : w.toNat.testBit (Nat.log2 w.toNat) = true := Nat.testBit_log2 hne
      have hidx : 64 - 1 - (63 - Nat.log2 w.toNat) = Nat.log2 w.toNat := by omega
      simpa [BitVec.getMsbD, BitVec.getLsbD, hidx, show 63 - Nat.log2 w.toNat < 64 by omega] using htop
    · have habove : w.toNat.testBit (64 - 1 - j) = false :=
        Nat.testBit_lt_two_pow ((Nat.log2_lt hne).mp (by omega))
      simp [BitVec.getMsbD, BitVec.getLsbD, habove]
  simp [leadingZeros, hfind]

theorem leadingZeros_zero : leadingZeros 0 = 64 := by decide

theorem clz64_eq_leadingZeros (w : Word) : clz64 w = BitVec.ofNat 64 (leadingZeros w) := by
  unfold clz64
  split
  case isTrue h => rw [h, leadingZeros_zero]; rfl
  case isFalse h => rw [leadingZeros_of_ne_zero h]

/-- The count of one bits goes over the low bits, lowest first. -/
theorem popBits_eq_countP (n v : Nat) : popBits n v = (List.range n).countP fun k => v.testBit k := by
  induction n generalizing v with
  | zero => rfl
  | succ n ih =>
    have hsucc : (fun k => v.testBit k) ∘ Nat.succ = fun k => (v / 2).testBit k :=
      funext fun k => Nat.testBit_succ v k
    have hbit : (if v.testBit 0 then 1 else 0) = v % 2 := by
      rcases Nat.mod_two_eq_zero_or_one v with h | h <;> simp [Nat.testBit_zero, h]
    rw [popBits, ih, List.range_succ_eq_map, List.countP_cons, List.countP_map, hsucc, hbit, Nat.add_comm]

theorem popBits_eq_oneBits (w : Word) : popBits 64 w.toNat = oneBits w := by
  rw [popBits_eq_countP, List.countP_eq_length_filter]; rfl

/-- Settles O1: each register form is `scalarResult` of its value. -/
theorem integerRegisterWords : Obligations.IntegerRegisterWords := by
  intro s rd rs1 rs2 a b
  have hamount : b.toNat % 64 < 64 := Nat.mod_lt _ (by decide)
  refine ⟨?add, ?sub, ?and, ?or, ?xor, ?shl, ?shr, ?sar, ?rol, ?slt, ?sltu, ?min, ?max, ?minu, ?maxu, ?clz, ?popc, ?andn⟩
  case add | sub | and | or | xor | andn => exact completes_of_scalarResult rfl rfl
  case shl => exact completes_of_scalarResult rfl (congrArg (a <<< ·) (shamt_eq b))
  case shr => exact completes_of_scalarResult rfl (congrArg (a >>> ·) (shamt_eq b))
  case sar => exact completes_of_scalarResult rfl (congrArg a.sshiftRight (shamt_eq b))
  case rol =>
    exact completes_of_scalarResult rfl ((congrArg a.rotateLeft (shamt_eq b)).trans (rotateLeft_eq_rotated a hamount))
  case slt => exact completes_of_scalarResult rfl (b2w_slt a b)
  case sltu => exact completes_of_scalarResult rfl (b2w_ult a b)
  case min => exact completes_of_scalarResult rfl (ite_slt a b b a)
  case max => exact completes_of_scalarResult rfl (ite_slt b a b a)
  case minu => exact completes_of_scalarResult rfl (ite_ult a b b a)
  case maxu => exact completes_of_scalarResult rfl (ite_ult b a b a)
  case clz => exact completes_of_scalarResult rfl (clz64_eq_leadingZeros a)
  case popc => exact completes_of_scalarResult rfl (congrArg (BitVec.ofNat 64) (popBits_eq_oneBits a))

/-! ### Immediates (R94, R95) -/

theorem imm14_eq (i : BitVec 14) : imm14 i = BitVec.ofInt 64 i.toInt := rfl

theorem uvalue_eq (i : BitVec 19) : uvalue i = BitVec.ofInt 64 (i.toInt * 2 ^ 13) := by
  rw [uvalue, BitVec.signExtend, BitVec.toInt_append_zero, Int.mul_comm]

/-- A SHIFTI parcel with a bit in its reserved field is a field fault, or, outside the scalar class, no word at all. -/
theorem decode_shiftI_reserved {p : Parcel} (hop : p.extractLsb' 2 6 = 7#6) (hres : p.extractLsb' 26 6 ≠ 0) :
    ∃ e, decode [p] = .error e ∧ e.cause = 0x01 := by
  have hscalar : decodeScalar p = .error (.badField p 0) := by
    simp only [decodeScalar, hop, decodeShiftI, bne_iff_ne, ne_eq, hres, not_false_eq_true, if_true]
  have hclass : ∀ c : BitVec 2, c = 0 ∨ c = 1 ∨ c = 2 ∨ c = 3 := by decide
  rcases hclass (p.extractLsb' 0 2) with h | h | h | h
  · exact ⟨.badField p 0, by simp [decode, h, hscalar, Except.map], rfl⟩
  · exact ⟨.badClass p, by simp [decode, h], rfl⟩
  · exact ⟨.short, by simp [decode, h], rfl⟩
  · exact ⟨.short, by simp [decode, h], rfl⟩

/-- Settles O2: the immediate takes the place of rs2, or the field that of the amount. -/
theorem immediateWords : Obligations.ImmediateWords := by
  intro s rd rs1 i n a b
  refine ⟨?addi, ?andi, ?ori, ?xori, ?slti, ?sltui, ?shli, ?shri, ?sari, ?roli, fun p => decode_shiftI_reserved⟩
  case addi => exact completes_of_scalarResult rfl (congrArg (a + ·) (imm14_eq i))
  case andi => exact completes_of_scalarResult rfl (congrArg (a &&& ·) (imm14_eq i))
  case ori => exact completes_of_scalarResult rfl (congrArg (a ||| ·) (imm14_eq i))
  case xori => exact completes_of_scalarResult rfl (congrArg (a ^^^ ·) (imm14_eq i))
  case slti => exact completes_of_scalarResult rfl (b2w_slt a b)
  case sltui => exact completes_of_scalarResult rfl (b2w_ult a b)
  case shli | shri | sari => exact completes_of_scalarResult rfl rfl
  case roli => exact completes_of_scalarResult rfl (rotateLeft_eq_rotated a n.isLt)

/-- Settles O3: the U-form value, alone or added to the word's own address. -/
theorem upperImmediateWords : Obligations.UpperImmediateWords := by
  intro s rd i v
  exact ⟨completes_of_scalarResult rfl (uvalue_eq i), completes_of_scalarResult rfl (congrArg (s.cx.pc + ·) (uvalue_eq i))⟩

/-! ### Transfers of control (R98, R99) -/

/-- An offset in words is four times as many bytes. -/
theorem signExtend_mul_four {n : Nat} (off : BitVec n) : off.signExtend 64 * 4 = BitVec.ofInt 64 (off.toInt * 4) := by
  rw [BitVec.ofInt_mul]; rfl

/-- `≥` is the negation of `<`, of signed and of unsigned words. -/
theorem not_slt_iff (a b : Word) : (!a.slt b) = true ↔ b.toInt ≤ a.toInt := by simp [BitVec.slt_eq_decide]

theorem not_ult_iff (a b : Word) : (!a.ult b) = true ↔ b.toNat ≤ a.toNat := by simp [BitVec.ult_eq_decide]

/-- A branch goes by its relation. -/
theorem completes_of_branch {i : Instr} {s : State} {rs1 rs2 : Reg} {off : BitVec 14} {rel : Word → Word → Bool} {p : Prop}
    [Decidable p] (hexec : exec i s = branch i rs1 rs2 off rel s) (hrel : rel (s.cx.rg rs1) (s.cx.rg rs2) = true ↔ p) :
    Completes i s (s.jumped (if p then s.cx.pc + BitVec.ofInt 64 (off.toInt * 4) else s.cx.pc + 4)) := by
  intro h
  rw [hexec, branch, issue_of_issues h]
  simp only [State.onCx, State.jumped, hrel, signExtend_mul_four]

/-- Settles O6: each branch is `branch` of its relation. -/
theorem branchWords : Obligations.BranchWords := by
  intro s rs1 rs2 off a b to_
  refine ⟨?beq, ?bne, ?blt, ?bge, ?bltu, ?bgeu⟩
  case beq => exact completes_of_branch rfl beq_iff_eq
  case bne => exact completes_of_branch rfl bne_iff_ne
  case blt => exact completes_of_branch rfl BitVec.slt_iff_toInt_lt
  case bge => exact completes_of_branch (rel := fun a b => !a.slt b) rfl (not_slt_iff a b)
  case bltu => exact completes_of_branch rfl BitVec.ult_iff_toNat_lt
  case bgeu => exact completes_of_branch (rel := fun a b => !a.ult b) rfl (not_ult_iff a b)

/-- JALR takes its target before rd is written, and faults with one that is no multiple of 4. -/
theorem exec_jalr_of_issues {s : State} {rd rs1 : Reg} {imm : BitVec 14} (h : Issues s (.jalr rd rs1 imm)) :
    let a := s.cx.rg rs1 + BitVec.ofInt 64 imm.toInt
    exec (.jalr rd rs1 imm) s =
      .next (if a.toNat % 4 = 0 then (s.wrote rd (s.cx.pc + 4)).jumped a else s.raise s.focus 0x07 a s.cx.pc none) := by
  intro a
  change execJalr rd rs1 imm s = _
  rw [execJalr, issue_of_issues h, apply_ite Host.Outcome.next]
  rfl

/-- Settles O7: JALR's target decides between the jump and the fault. -/
theorem jumpWords : Obligations.JumpWords := by
  intro s rd rs1 off imm a
  refine ⟨fun hi => ?jal, fun h hi => ?aligned, fun h hi => ?misaligned⟩
  case jal =>
    change execJal rd off s = _
    rw [execJal, issue_of_issues hi, ← signExtend_mul_four]
    rfl
  case aligned => rw [exec_jalr_of_issues hi, if_pos h]
  case misaligned => rw [exec_jalr_of_issues hi, if_neg h]

/-! ### Address conversion (R111, R112) -/

/-- The top four bits of a word, replaced. -/
theorem putBits_top (w : Word) {v : Nat} (hv : v < 16) :
    putBits w 60 4 v = BitVec.ofNat 64 (2 ^ 60 * v + w.toNat % 2 ^ 60) := by
  have hlow : w.toNat % 2 ^ 60 < 2 ^ 60 := Nat.mod_lt _ (by decide)
  have hmask : w &&& ~~~ (BitVec.ofNat 64 ((2 ^ 4 - 1) <<< 60)) = BitVec.ofNat 64 (w.toNat % 2 ^ 60) := by
    rw [← Nat.and_two_pow_sub_one_eq_mod, BitVec.ofNat_and, BitVec.ofNat_toNat, BitVec.setWidth_eq]; rfl
  rw [putBits, hmask, ← BitVec.ofNat_or, Nat.or_comm, Nat.mod_eq_of_lt (show v < 2 ^ 4 from hv), Nat.shiftLeft_eq,
    Nat.mul_comm, Nat.two_pow_add_eq_or_of_lt hlow]

/-- The field at the top of a word is 0 exactly when the word is below its place. -/
theorem bitsOf_top_eq_zero_iff (w : Word) {lo n : Nat} (h : lo + n = 64) : bitsOf w lo n = 0 ↔ w.toNat < 2 ^ lo := by
  have hlt : w.toNat / 2 ^ lo < 2 ^ n := Nat.div_lt_of_lt_mul (by rw [← Nat.pow_add, h]; exact w.isLt)
  rw [bitsOf_eq, Nat.mod_eq_of_lt hlt, Nat.div_eq_zero_iff]
  simp

/-- The generic addresses of an aperture: the last two columns of R111's table. -/
def validGeneric (wsize : Nat) (a : Word) : Aper → Prop
  | .dev => a.toNat < 2 ^ 48
  | .remote => a.toNat / 2 ^ 60 = 1
  | .moss => a.toNat / 2 ^ 26 = 0xFFFD * 2 ^ 22
  | .win => a.toNat / 2 ^ 48 = 0xFFFE ∧ a.toNat % 2 ^ 48 < wsize * 256

/-- The first row of R214 that matches is the aperture's own exactly for its valid addresses: one goal for each aperture and row. -/
theorem genericOk_iff (wsize : Nat) (ap : Aper) (a : Word) : genericOk wsize ap a = true ↔ validGeneric wsize a ap := by
  have hlt : a.toNat < 2 ^ 64 := a.isLt
  unfold genericOk placeOf
  simp only [bitsOf_eq]
  cases ap <;> simp only [validGeneric] <;> split_ifs <;> simp only [inAper, true_iff, Bool.false_eq_true, false_iff] <;> omega

/-- CVTA writes the converted address, or faults with the one it was given. -/
theorem completes_cvta {s : State} {rd rs1 : Reg} {gen : Bool} {ap : Aper} {ok : Prop} [Decidable ok] {v : Word}
    (hconv : convert s.cx.wsize gen ap (s.cx.rg rs1) = if ok then some v else none) :
    Completes (.cvta gen ap rd rs1) s (if ok then s.wrote rd v else s.raise s.focus 0x06 (s.cx.rg rs1) s.cx.pc none) := by
  intro h
  change execCvta gen ap rd rs1 s = _
  rw [execCvta, issue_of_issues h, hconv]
  by_cases hok : ok
  · rw [if_pos hok, if_pos hok]
    exact congrArg Host.Outcome.next (s.onCx_setRg_retire rd v)
  · rw [if_neg hok, if_neg hok]
    rfl

/-- To the relative form: from every valid generic address. -/
theorem convert_relative {wsize : Nat} {ap : Aper} {a v : Word} {ok : Prop} [Decidable ok]
    (hok : validGeneric wsize a ap ↔ ok) (hv : toRelative ap a = v) :
    convert wsize false ap a = if ok then some v else none := by
  simp only [convert, genericOk_iff, hok, hv, Bool.false_eq_true, if_false]

/-- SPCHK writes whether the address is valid. -/
theorem completes_spchk {s : State} {rd rs1 : Reg} {ap : Aper} {ok : Prop} [Decidable ok]
    (hok : validGeneric s.cx.wsize (s.cx.rg rs1) ap ↔ ok) : Completes (.spchk ap rd rs1) s (s.wrote rd (flag ok)) :=
  completes_of_scalarResult rfl (by simp only [b2w, flag, genericOk_iff, hok])

theorem toRelative_remote (a : Word) : toRelative .remote a = BitVec.ofNat 64 (a.toNat % 2 ^ 60) := by
  rw [toRelative, putBits_top a (by decide), Nat.mul_zero, Nat.zero_add]

/-- The relative form of a device address is the address itself. -/
theorem fromRelative_dev (wsize : Nat) (a : Word) : fromRelative wsize .dev a = if a.toNat < 2 ^ 48 then some a else none :=
  if_congr (bitsOf_top_eq_zero_iff a rfl) rfl rfl

/-- From the relative form of a remote address: the top field, which was 0, becomes 1. -/
theorem fromRelative_remote (wsize : Nat) (a : Word) :
    fromRelative wsize .remote a = if a.toNat < 2 ^ 60 then some (BitVec.ofNat 64 (2 ^ 60 + a.toNat)) else none := by
  simp only [fromRelative, bitsOf_top_eq_zero_iff a (show 60 + 4 = 64 from rfl)]
  split
  case isTrue h => rw [putBits_top a (by decide), Nat.mod_eq_of_lt h, Nat.mul_one]
  case isFalse => rfl

/-- Settles O8: the valid addresses of each aperture, and their conversion in each direction. -/
theorem addressConversionWords : Obligations.AddressConversionWords := by
  intro s rd rs1 a lim goes dev rem moss win
  refine ⟨?devRel, ?devGen, ?remoteRel, ?remoteGen, ?mossRel, ?mossGen, ?winRel, ?winGen, ?dev, ?remote, ?moss, ?win⟩
  case devRel => exact completes_cvta (convert_relative Iff.rfl rfl)
  case devGen => exact completes_cvta (fromRelative_dev lim a)
  case remoteRel => exact completes_cvta (convert_relative Iff.rfl (toRelative_remote a))
  case remoteGen => exact completes_cvta (fromRelative_remote lim a)
  case mossRel => exact completes_cvta (convert_relative Iff.rfl (congrArg (BitVec.ofNat 64) (bitsOf_zero a 26)))
  case mossGen => exact completes_cvta rfl
  case winRel => exact completes_cvta (convert_relative Iff.rfl (congrArg (BitVec.ofNat 64) (bitsOf_zero a 48)))
  case winGen => exact completes_cvta rfl
  case dev | remote | moss | win => exact completes_spchk Iff.rfl

end Sys2Proof.Machine
end

section
namespace Sys2Proof

/-! ### Fields of a parcel (R43)

A parcel is its fields appended, the highest first. A field is read by skipping those below it. -/

theorem slice_skip {v w start len : Nat} {hi : BitVec v} {lo : BitVec w} {y : BitVec len} (h : w ≤ start)
    (e : hi.extractLsb' (start - w) len = y) : (hi ++ lo).extractLsb' start len = y :=
  (BitVec.extractLsb'_append_eq_of_le h).trans e

theorem slice_low {v w start len : Nat} {hi : BitVec v} {lo : BitVec w} {y : BitVec len} (h : start + len ≤ w)
    (e : lo.extractLsb' start len = y) : (hi ++ lo).extractLsb' start len = y :=
  (BitVec.extractLsb'_append_eq_of_add_le h).trans e

theorem slice_here {v w : Nat} {hi : BitVec v} {lo : BitVec w} : (hi ++ lo).extractLsb' 0 w = lo :=
  slice_low (Nat.zero_add w).le BitVec.extractLsb'_eq_self

theorem slice_slice {n a m start len : Nat} (p : BitVec n) (h : start + len ≤ m) :
    (p.extractLsb' a m).extractLsb' start len = p.extractLsb' (a + start) len := by
  refine BitVec.eq_of_getLsbD_eq fun i hi => ?_
  have hm : start + i < m := by omega
  simp only [BitVec.getLsbD_extractLsb', hi, hm, decide_true, Bool.true_and, Nat.add_assoc]

theorem bit_skip {v w k : Nat} {hi : BitVec v} {lo : BitVec w} {y : Bool} (h : w ≤ k) (e : hi.getLsbD (k - w) = y) :
    (hi ++ lo).getLsbD k = y := by
  rw [BitVec.getLsbD_append, if_neg (by omega), e]

theorem bit_low {v w k : Nat} {hi : BitVec v} {lo : BitVec w} {y : Bool} (h : k < w) (e : lo.getLsbD k = y) :
    (hi ++ lo).getLsbD k = y := by
  rw [BitVec.getLsbD_append, if_pos h, e]

theorem bit_here {v : Nat} {hi : BitVec v} {b : Bool} : (hi ++ BitVec.ofBool b).getLsbD 0 = b :=
  bit_low Nat.zero_lt_one (by cases b <;> rfl)

/-! The R-form, of which most other forms are a division of funct. -/
section
variable (op : BitVec 6) (fn : BitVec 9) (rd rs1 rs2 : Reg)
@[simp] theorem pR_class : (pR op fn rd rs1 rs2).extractLsb' 0 2 = 0#2 := slice_here
@[simp] theorem pR_op : (pR op fn rd rs1 rs2).extractLsb' 2 6 = op := slice_skip (by decide) slice_here
@[simp] theorem pR_rd : (pR op fn rd rs1 rs2).extractLsb' 8 5 = rd :=
  slice_skip (by decide) <| slice_skip (by decide) slice_here
@[simp] theorem pR_rs1 : (pR op fn rd rs1 rs2).extractLsb' 13 5 = rs1 :=
  slice_skip (by decide) <| slice_skip (by decide) <| slice_skip (by decide) slice_here
@[simp] theorem pR_rs2 : (pR op fn rd rs1 rs2).extractLsb' 18 5 = rs2 :=
  slice_skip (by decide) <| slice_skip (by decide) <| slice_skip (by decide) <| slice_skip (by decide) slice_here
@[simp] theorem pR_funct : (pR op fn rd rs1 rs2).extractLsb' 23 9 = fn :=
  slice_skip (by decide) <| slice_skip (by decide) <| slice_skip (by decide) <| slice_skip (by decide) <|
    slice_skip (by decide) BitVec.extractLsb'_eq_self

/-- A part of funct, at its place in the parcel. -/
theorem pR_slice {start len : Nat} (h : start + len ≤ 9) :
    (pR op fn rd rs1 rs2).extractLsb' (23 + start) len = fn.extractLsb' start len :=
  (slice_slice _ h).symm.trans (congrArg (BitVec.extractLsb' start len) (pR_funct ..))
theorem pR_bit {j : Nat} (h : j < 9) : (pR op fn rd rs1 rs2).getLsbD (23 + j) = fn.getLsbD j := by
  conv_rhs => rw [← pR_funct op fn rd rs1 rs2, BitVec.getLsbD_extractLsb', decide_eq_true h, Bool.true_and]
theorem pR_functHigh : (pR op fn rd rs1 rs2).extractLsb' 24 8 = fn.extractLsb' 1 8 := pR_slice op fn rd rs1 rs2 (start := 1) (by decide)
theorem pR_functLow : (pR op fn rd rs1 rs2).getLsbD 23 = fn.getLsbD 0 := pR_bit op fn rd rs1 rs2 (j := 0) (by decide)
end
section
variable (op : BitVec 6) (rd rs1 : Reg) (imm : BitVec 14) (off : BitVec 19)
@[simp] theorem pI_class : (pI op rd rs1 imm).extractLsb' 0 2 = 0#2 := slice_here
@[simp] theorem pI_op : (pI op rd rs1 imm).extractLsb' 2 6 = op := slice_skip (by decide) slice_here
@[simp] theorem pI_rd : (pI op rd rs1 imm).extractLsb' 8 5 = rd := slice_skip (by decide) <| slice_skip (by decide) slice_here
@[simp] theorem pI_rs1 : (pI op rd rs1 imm).extractLsb' 13 5 = rs1 :=
  slice_skip (by decide) <| slice_skip (by decide) <| slice_skip (by decide) slice_here
@[simp] theorem pI_imm : (pI op rd rs1 imm).extractLsb' 18 14 = imm :=
  slice_skip (by decide) <| slice_skip (by decide) <| slice_skip (by decide) <| slice_skip (by decide) BitVec.extractLsb'_eq_self

/-- A part of the immediate, at its place in the parcel. -/
theorem pI_slice {start len : Nat} (h : start + len ≤ 14) :
    (pI op rd rs1 imm).extractLsb' (18 + start) len = imm.extractLsb' start len :=
  (slice_slice _ h).symm.trans (congrArg (BitVec.extractLsb' start len) (pI_imm ..))
@[simp] theorem pJ_class : (pJ op rd off).extractLsb' 0 2 = 0#2 := slice_here
@[simp] theorem pJ_op : (pJ op rd off).extractLsb' 2 6 = op := slice_skip (by decide) slice_here
@[simp] theorem pJ_rd : (pJ op rd off).extractLsb' 8 5 = rd := slice_skip (by decide) <| slice_skip (by decide) slice_here
@[simp] theorem pJ_imm : (pJ op rd off).extractLsb' 13 19 = off :=
  slice_skip (by decide) <| slice_skip (by decide) <| slice_skip (by decide) BitVec.extractLsb'_eq_self
theorem pJ_slice {start len : Nat} (h : start + len ≤ 19) :
    (pJ op rd off).extractLsb' (13 + start) len = off.extractLsb' start len :=
  (slice_slice _ h).symm.trans (congrArg (BitVec.extractLsb' start len) (pJ_imm ..))
end

/-- The two parts of a branch's offset make the offset again. -/
@[simp] theorem fBOff_pB (op : BitVec 6) (rs1 rs2 : Reg) (off : BitVec 14) : fBOff (pB op rs1 rs2 off) = off := by
  have hlow : (pB op rs1 rs2 off).extractLsb' 8 5 = off.extractLsb' 0 5 := pR_rd op (off.extractLsb' 5 9) _ rs1 rs2
  have hhigh : (pB op rs1 rs2 off).extractLsb' 23 9 = off.extractLsb' 5 9 := pR_funct op (off.extractLsb' 5 9) _ rs1 rs2
  rw [fBOff, hlow, hhigh]
  exact (BitVec.extractLsb'_append_extractLsb'_eq_extractLsb' (by decide)).trans BitVec.extractLsb'_eq_self

/-! ### Codes read back -/

@[simp] theorem Fmt.ofCode_code (f : Fmt) : Fmt.ofCode f.code = f := by cases f <;> rfl
@[simp] theorem Rnd.ofCode_code (r : Rnd) : Rnd.ofCode r.code = some r := by cases r <;> rfl
@[simp] theorem Width.ofCode_code (wd : Width) : Width.ofCode wd.code = some wd := by cases wd <;> rfl
@[simp] theorem Scope.ofCode_code (s : Scope) : Scope.ofCode s.code = some s := by cases s <;> rfl
@[simp] theorem Aper.ofCode_code (a : Aper) : Aper.ofCode a.code = a := by cases a <;> rfl
@[simp] theorem Eng.ofCode_code (g : Eng) : Eng.ofCode g.code = g := by cases g <;> rfl
@[simp] theorem VOp.ofCode_code (op : VOp) : VOp.ofCode op.code = some op := by cases op <;> rfl

/-- The widths that a store accepts read back. -/
theorem storeWidth_code {wd : Width} (h : (wd == .b || wd == .h || wd == .w || wd == .d) = true) : storeWidth wd.code = some wd := by
  revert h
  cases wd <;> decide

/-! ### The other scalar forms, as divisions of the R-form -/

/-- A parcel of class 00 decodes as a scalar word. -/
theorem decode_of_scalar {p : Parcel} {r : List Parcel} {i : Instr} (hclass : p.extractLsb' 0 2 = 0#2)
    (h : decodeScalar p = .ok i) : decode ([p] ++ r) = .ok (i, r) := by
  simp only [List.singleton_append, decode, hclass, h, Except.map]

@[simp] theorem need_true (p : Parcel) (i : Instr) : need p true i = .ok i := rfl
@[simp] theorem code_some {α : Type} (p : Parcel) (a : α) (k : α → Except DecErr Instr) : code p (some a) k = k a := rfl

section
variable (n : BitVec 4) (word q : Bool) (sc : Scope) (rd rs1 rs2 : Reg)
theorem pAmo_seq : (pAmo n word sc q rd rs1 rs2).getLsbD 23 = q := (pR_bit _ _ rd rs1 rs2 (j := 0) (by decide)).trans bit_here
theorem pAmo_scope : (pAmo n word sc q rd rs1 rs2).extractLsb' 24 3 = sc.code :=
  (pR_slice _ _ rd rs1 rs2 (start := 1) (by decide)).trans (slice_skip (by decide) slice_here)
theorem pAmo_sub : (pAmo n word sc q rd rs1 rs2).extractLsb' 27 4 = n :=
  (pR_slice _ _ rd rs1 rs2 (start := 4) (by decide)).trans (slice_skip (by decide) <| slice_skip (by decide) slice_here)
theorem pAmo_word : (pAmo n word sc q rd rs1 rs2).getLsbD 31 = word :=
  (pR_bit _ _ rd rs1 rs2 (j := 8) (by decide)).trans
    (bit_skip (by decide) <| bit_skip (by decide) <| bit_skip (by decide) (by cases word <;> rfl))

theorem pAmo_rd : (pAmo n word sc q rd rs1 rs2).extractLsb' 8 5 = rd := pR_rd ..
theorem pAmo_rs1 : (pAmo n word sc q rd rs1 rs2).extractLsb' 13 5 = rs1 := pR_rs1 ..
theorem pAmo_rs2 : (pAmo n word sc q rd rs1 rs2).extractLsb' 18 5 = rs2 := pR_rs2 ..
end

/-- The decoder reads an atomic's fields back, whichever sub-operation it is. -/
theorem decode_pAmo {n : BitVec 4} {word q : Bool} {sc : Scope} {rd rs1 rs2 : Reg} {i : Instr} (r : List Parcel)
    (h : decodeAmo (pAmo n word sc q rd rs1 rs2) = .ok i) : decode ([pAmo n word sc q rd rs1 rs2] ++ r) = .ok (i, r) :=
  decode_of_scalar (pR_class ..) (by
    simp only [decodeScalar, show (pAmo n word sc q rd rs1 rs2).extractLsb' 2 6 = 0x18#6 from pR_op .., h])

section
variable (op : BitVec 6) (sub : BitVec 4) (mid : BitVec 5) (k : BitVec 2) (c : BitVec 3) (rd rs1 rs2 : Reg)
@[simp] theorem pSub_class : (pSub op sub mid rd rs1 rs2).extractLsb' 0 2 = 0#2 := pR_class ..
@[simp] theorem pSub_op : (pSub op sub mid rd rs1 rs2).extractLsb' 2 6 = op := pR_op ..
@[simp] theorem pSub_rd : (pSub op sub mid rd rs1 rs2).extractLsb' 8 5 = rd := pR_rd ..
@[simp] theorem pSub_rs1 : (pSub op sub mid rd rs1 rs2).extractLsb' 13 5 = rs1 := pR_rs1 ..
@[simp] theorem pSub_rs2 : (pSub op sub mid rd rs1 rs2).extractLsb' 18 5 = rs2 := pR_rs2 ..
@[simp] theorem pSub_mid : (pSub op sub mid rd rs1 rs2).extractLsb' 23 5 = mid :=
  (pR_slice op (sub ++ mid) rd rs1 rs2 (start := 0) (by decide)).trans slice_here
@[simp] theorem pSub_sub : (pSub op sub mid rd rs1 rs2).extractLsb' 28 4 = sub :=
  (pR_slice op (sub ++ mid) rd rs1 rs2 (start := 5) (by decide)).trans (slice_skip (by decide) BitVec.extractLsb'_eq_self)
@[simp] theorem pSub_slot : (pSub op sub (0#3 ++ k) rd rs1 rs2).extractLsb' 23 2 = k :=
  (pR_slice op (sub ++ (0#3 ++ k)) rd rs1 rs2 (start := 0) (by decide)).trans (slice_low (by decide) slice_here)
@[simp] theorem pSub_slotHigh : (pSub op sub (0#3 ++ k) rd rs1 rs2).extractLsb' 25 3 = 0#3 :=
  (pR_slice op (sub ++ (0#3 ++ k)) rd rs1 rs2 (start := 2) (by decide)).trans
    (slice_low (by decide) <| slice_skip (by decide) BitVec.extractLsb'_eq_self)
@[simp] theorem pSub_code : (pSub op sub (0#1 ++ c ++ 0#1) rd rs1 rs2).extractLsb' 24 3 = c :=
  (pR_slice op (sub ++ (0#1 ++ c ++ 0#1)) rd rs1 rs2 (start := 1) (by decide)).trans
    (slice_low (by decide) <| slice_skip (by decide) slice_here)
@[simp] theorem pSub_codeHigh : (pSub op sub (0#1 ++ c ++ 0#1) rd rs1 rs2).getLsbD 27 = false :=
  (pR_bit op (sub ++ (0#1 ++ c ++ 0#1)) rd rs1 rs2 (j := 4) (by decide)).trans
    (bit_low (by decide) <| bit_skip (by decide) <| bit_skip (by decide) rfl)
@[simp] theorem pSub_codeLow : (pSub op sub (0#1 ++ c ++ 0#1) rd rs1 rs2).getLsbD 23 = false :=
  (pR_bit op (sub ++ (0#1 ++ c ++ 0#1)) rd rs1 rs2 (j := 0) (by decide)).trans (bit_low (by decide) <| bit_low (by decide) rfl)
end

section
variable (fn : BitVec 7) (f : EF)
theorem pEng_fn : (pEng fn f).extractLsb' 23 7 = fn :=
  (pR_slice 0x20 (BitVec.ofBool f.wait ++ BitVec.ofBool f.reply ++ fn) f.rd f.rs1 f.rs2 (start := 0) (by decide)).trans slice_here
theorem pEng_reply : (pEng fn f).getLsbD 30 = f.reply :=
  (pR_bit 0x20 (BitVec.ofBool f.wait ++ BitVec.ofBool f.reply ++ fn) f.rd f.rs1 f.rs2 (j := 7) (by decide)).trans
    (bit_skip (by decide) bit_here)
theorem pEng_wait : (pEng fn f).getLsbD 31 = f.wait :=
  (pR_bit 0x20 (BitVec.ofBool f.wait ++ BitVec.ofBool f.reply ++ fn) f.rd f.rs1 f.rs2 (j := 8) (by decide)).trans
    (bit_skip (by decide) <| bit_skip (by decide) (by cases f.wait <;> rfl))

/-- The fields of an engine word read back. -/
theorem pEng_fields : (⟨(pEng fn f).getLsbD 31, (pEng fn f).getLsbD 30, fRs2 (pEng fn f), fRs1 (pEng fn f), fRd (pEng fn f)⟩ : EF) = f := by
  rw [pEng_wait, pEng_reply, show fRs2 (pEng fn f) = f.rs2 from pR_rs2 .., show fRs1 (pEng fn f) = f.rs1 from pR_rs1 ..,
    show fRd (pEng fn f) = f.rd from pR_rd ..]

theorem decode_pEng {i : Instr} (r : List Parcel) (h : decodeEng (pEng fn f) = .ok i) : decode ([pEng fn f] ++ r) = .ok (i, r) :=
  decode_of_scalar (pR_class ..) (by
    simp only [decodeScalar, show (pEng fn f).extractLsb' 2 6 = 0x20#6 from pR_op .., h])
end

section
variable (n : BitVec 12) (rs1 : Reg)
theorem pMts_number : (pMts n rs1).extractLsb' 20 12 = n :=
  (pI_slice 0x1D 0 rs1 (n ++ 0#2) (start := 2) (by decide)).trans (slice_skip (by decide) BitVec.extractLsb'_eq_self)
theorem pMts_zero : (pMts n rs1).extractLsb' 18 2 = 0#2 := (pI_slice 0x1D 0 rs1 (n ++ 0#2) (start := 0) (by decide)).trans slice_here

/-- A write of a special register decodes by its number. -/
theorem decode_pMts {i : Instr} (r : List Parcel) (h : decodeMts (pMts n rs1) = .ok i) : decode ([pMts n rs1] ++ r) = .ok (i, r) :=
  decode_of_scalar (pI_class ..) (by
    simp only [decodeScalar, show (pMts n rs1).extractLsb' 2 6 = 0x1D#6 from pI_op .., h])
theorem pMts_rs1 : (pMts n rs1).extractLsb' 13 5 = rs1 := pI_rs1 0x1D 0 rs1 (n ++ 0#2)
theorem pMts_rd : (pMts n rs1).extractLsb' 8 5 = 0#5 := pI_rd 0x1D 0 rs1 (n ++ 0#2)
end

section
variable (take : Bool) (snd rcv : Eng)
theorem pTok_class : (pTok take snd rcv).extractLsb' 0 2 = 0#2 := slice_here
theorem pTok_op : (pTok take snd rcv).extractLsb' 2 6 = 0x1F#6 := slice_skip (by decide) slice_here
theorem pTok_zero : (pTok take snd rcv).extractLsb' 8 15 = 0#15 := slice_skip (by decide) <| slice_skip (by decide) slice_here
theorem pTok_take : (pTok take snd rcv).getLsbD 23 = take :=
  bit_skip (by decide) <| bit_skip (by decide) <| bit_skip (by decide) bit_here
theorem pTok_snd : (pTok take snd rcv).extractLsb' 24 2 = snd.code :=
  slice_skip (by decide) <| slice_skip (by decide) <| slice_skip (by decide) <| slice_skip (by decide) slice_here
theorem pTok_rcv : (pTok take snd rcv).extractLsb' 26 2 = rcv.code :=
  slice_skip (by decide) <| slice_skip (by decide) <| slice_skip (by decide) <| slice_skip (by decide) <| slice_skip (by decide) slice_here
theorem pTok_top : (pTok take snd rcv).extractLsb' 28 4 = 0#4 :=
  slice_skip (by decide) <| slice_skip (by decide) <| slice_skip (by decide) <| slice_skip (by decide) <| slice_skip (by decide) <|
    slice_skip (by decide) BitVec.extractLsb'_eq_self

theorem decode_pTok (r : List Parcel) (h : (snd != rcv) = true) :
    decode ([pTok take snd rcv] ++ r) = .ok (if take then .toktake snd rcv else .tokpost snd rcv, r) :=
  decode_of_scalar (pTok_class ..) (by
    simp only [decodeScalar, pTok_op, decodeTok, pTok_top, pTok_zero, pTok_snd, pTok_rcv, pTok_take, Eng.ofCode_code, h]
    rfl)
end

/-! ### Vector and matrix words -/

/-- A vector instruction is that of its opcode and fields. -/
theorem ofV_of_vparts {i : Instr} {op : VOp} {f : VF} (h : i.vparts = some (op, f)) : Instr.ofV op f = i := by
  cases i <;> cases h <;> rfl

section
variable (op : VOp) (f : VF)
theorem pV_fields {p0 p1 p2 : Parcel} (h : pV op f = [p0, p1, p2]) :
    p0.extractLsb' 0 2 = 2#2 ∧ p0.extractLsb' 2 8 = op.code ∧ p0.extractLsb' 17 3 = f.rnd.code ∧ vfOf p0 p1 p2 f.rnd = f ∧
      p1.extractLsb' 26 6 = 0#6 := by
  obtain ⟨rfl, rfl, rfl⟩ : _ = p0 ∧ _ = p1 ∧ _ = p2 := by simpa [pV] using h
  refine ⟨slice_here, slice_skip (by decide) slice_here, ?_, ?_, ?_⟩
  · repeat refine slice_skip (by decide) ?_
    exact slice_here
  · obtain ⟨fmt, mask, rnd, sat, pop, push, fn, vd, sd, va, sa, vb, sb, bs, imm⟩ := f
    unfold vfOf
    congr 1
    · exact (congrArg Fmt.ofCode (slice_skip (by decide) <| slice_skip (by decide) slice_here)).trans (Fmt.ofCode_code fmt)
    · repeat refine slice_skip (by decide) ?_
      exact slice_here
    · repeat refine bit_skip (by decide) ?_
      exact bit_here
    · repeat refine slice_skip (by decide) ?_
      exact slice_here
    · repeat refine slice_skip (by decide) ?_
      exact slice_here
    · repeat refine slice_skip (by decide) ?_
      exact BitVec.extractLsb'_eq_self
    · exact slice_here
    · repeat refine slice_skip (by decide) ?_
      exact slice_here
    · repeat refine slice_skip (by decide) ?_
      exact slice_here
    · repeat refine slice_skip (by decide) ?_
      exact slice_here
    · exact slice_here
    · repeat refine slice_skip (by decide) ?_
      exact slice_here
    · repeat refine bit_skip (by decide) ?_
      exact bit_here
    · repeat refine slice_skip (by decide) ?_
      exact BitVec.extractLsb'_eq_self
  · repeat refine slice_skip (by decide) ?_
    exact BitVec.extractLsb'_eq_self

/-- A vector word whose fields are accepted decodes from its three parcels. -/
theorem decode_pV (r : List Parcel) (h : op.ok f = true) : decode (pV op f ++ r) = .ok (Instr.ofV op f, r) := by
  obtain ⟨p0, p1, p2, hp⟩ : ∃ p0 p1 p2, pV op f = [p0, p1, p2] := ⟨_, _, _, rfl⟩
  obtain ⟨hclass, hop, hrnd, hf, hzero⟩ := pV_fields op f hp
  obtain ⟨⟨h0, h1⟩, h2⟩ : (op.ok0 f = true ∧ op.ok1 f = true) ∧ op.ok2 f = true := by simpa [VOp.ok] using h
  have hword : decodeVector p0 p1 p2 = .ok (Instr.ofV op f) := by
    simp [decodeVector, hop, hrnd, hf, hzero, h0, h1, h2]
  simp only [hp, List.cons_append, List.nil_append, decode, hclass, hword, Except.map]
end

/-- The six parcels of a step, and its fields. -/
theorem pM_fields (op : BitVec 6) (f : MF) {p0 p1 p2 p3 : Parcel} (h : pM op f = [p0, p1, p2, p3, 0, 0]) :
    p0.extractLsb' 0 2 = 3#2 ∧ p0.extractLsb' 2 6 = op ∧ p0.getLsbD 17 = false ∧ p0.extractLsb' 30 2 = 0#2 ∧ p2.extractLsb' 19 13 = 0#13 ∧
      p3.extractLsb' 8 24 = 0#24 ∧ mfOf p0 p1 p2 p3 = f := by
  obtain ⟨rfl, rfl, rfl, rfl⟩ : _ = p0 ∧ _ = p1 ∧ _ = p2 ∧ _ = p3 := by simpa [pM] using h
  refine ⟨slice_here, slice_skip (by decide) slice_here, ?_, ?_, ?_, ?_, ?_⟩
  · repeat refine bit_skip (by decide) ?_
    exact bit_low (by decide) rfl
  · repeat refine slice_skip (by decide) ?_
    exact BitVec.extractLsb'_eq_self
  · repeat refine slice_skip (by decide) ?_
    exact BitVec.extractLsb'_eq_self
  · repeat refine slice_skip (by decide) ?_
    exact BitVec.extractLsb'_eq_self
  · obtain ⟨tA, tB, int, acc, pop, push, trA, trB, swap, k, tapA, tapB, en, cc, rows, cols⟩ := f
    unfold mfOf
    congr 1
    · repeat refine slice_skip (by decide) ?_
      exact slice_here
    · repeat refine slice_skip (by decide) ?_
      exact slice_here
    · repeat refine bit_skip (by decide) ?_
      exact bit_here
    · repeat refine slice_skip (by decide) ?_
      exact slice_here
    · repeat refine slice_skip (by decide) ?_
      exact slice_here
    · repeat refine slice_skip (by decide) ?_
      exact slice_here
    · repeat refine bit_skip (by decide) ?_
      exact bit_here
    · repeat refine bit_skip (by decide) ?_
      exact bit_here
    · repeat refine bit_skip (by decide) ?_
      exact bit_here
    · exact slice_here
    · repeat refine slice_skip (by decide) ?_
      exact slice_here
    · repeat refine slice_skip (by decide) ?_
      exact BitVec.extractLsb'_eq_self
    · exact slice_here
    · repeat refine slice_skip (by decide) ?_
      exact slice_here
    · exact slice_here
    · repeat refine slice_skip (by decide) ?_
      exact slice_here

/-- A step decodes by its opcode. -/
theorem decode_pM {op : BitVec 6} {i : Instr} (f : MF) (r : List Parcel) (h : op = 0#6 ∧ i = .mma f ∨ op = 1#6 ∧ i = .mmaz f) :
    decode (pM op f ++ r) = .ok (i, r) := by
  obtain ⟨p0, p1, p2, p3, hp⟩ : ∃ p0 p1 p2 p3, pM op f = [p0, p1, p2, p3, 0, 0] := ⟨_, _, _, _, rfl⟩
  obtain ⟨hclass, hop, h17, h30, h2, h3, hf⟩ := pM_fields op f hp
  rw [hp]
  rcases h with ⟨rfl, rfl⟩ | ⟨rfl, rfl⟩ <;>
    simp [-BitVec.getLsbD_eq_getElem, decode, hclass, decodeMatrix, hop, h17, h30, h2, h3, hf, firstBad, Except.map]

/-- The words on a working bank, in the same way. -/
theorem pA_fields (op : BitVec 6) (f : AF) {p0 : Parcel} (h : pA op f = [p0, 0, 0, 0, 0, 0]) :
    p0.extractLsb' 0 2 = 3#2 ∧ p0.extractLsb' 2 6 = op ∧ p0.extractLsb' 8 10 = 0#10 ∧ p0.extractLsb' 27 5 = 0#5 ∧ afOf p0 = f := by
  obtain rfl : _ = p0 := by simpa [pA] using h
  refine ⟨slice_here, slice_skip (by decide) slice_here, slice_skip (by decide) <| slice_skip (by decide) slice_here, ?_, ?_⟩
  · repeat refine slice_skip (by decide) ?_
    exact BitVec.extractLsb'_eq_self
  · obtain ⟨acc, pop, push⟩ := f
    unfold afOf
    congr 1
    all_goals
      repeat refine slice_skip (by decide) ?_
      exact slice_here

theorem decode_pA {op : BitVec 6} {i : Instr} (f : AF) (r : List Parcel)
    (h : op = 2#6 ∧ i = .aclr f ∨ op = 3#6 ∧ i = .aswap f ∨ op = 4#6 ∧ i = .adrain f) : decode (pA op f ++ r) = .ok (i, r) := by
  obtain ⟨p0, hp⟩ : ∃ p0, pA op f = [p0, 0, 0, 0, 0, 0] := ⟨_, rfl⟩
  obtain ⟨hclass, hop, h8, h27, hf⟩ := pA_fields op f hp
  rw [hp]
  rcases h with ⟨rfl, rfl⟩ | ⟨rfl, rfl⟩ | ⟨rfl, rfl⟩ <;>
    simp [decode, hclass, decodeMatrix, hop, h8, h27, hf, firstBad, Except.map]

/-! ### Each group of scalar words, by its major opcode (R44) -/

theorem decode_alu {fn : BitVec 9} {rd rs1 rs2 : Reg} {i : Instr} (r : List Parcel)
    (h : decodeAlu (pR 0x00 fn rd rs1 rs2) = .ok i) : decode ([pR 0x00 fn rd rs1 rs2] ++ r) = .ok (i, r) :=
  decode_of_scalar (pR_class ..) (by simp only [decodeScalar, show (pR 0x00 fn rd rs1 rs2).extractLsb' 2 6 = 0x00#6 from pR_op .., h])
theorem decode_mulDiv {fn : BitVec 9} {rd rs1 rs2 : Reg} {i : Instr} (r : List Parcel)
    (h : decodeMulDiv (pR 0x0A fn rd rs1 rs2) = .ok i) : decode ([pR 0x0A fn rd rs1 rs2] ++ r) = .ok (i, r) :=
  decode_of_scalar (pR_class ..) (by simp only [decodeScalar, show (pR 0x0A fn rd rs1 rs2).extractLsb' 2 6 = 0x0A#6 from pR_op .., h])
theorem decode_fps {fn : BitVec 9} {rd rs1 rs2 : Reg} {i : Instr} (r : List Parcel)
    (h : decodeFps (pR 0x0B fn rd rs1 rs2) = .ok i) : decode ([pR 0x0B fn rd rs1 rs2] ++ r) = .ok (i, r) :=
  decode_of_scalar (pR_class ..) (by simp only [decodeScalar, show (pR 0x0B fn rd rs1 rs2).extractLsb' 2 6 = 0x0B#6 from pR_op .., h])
theorem decode_sys {fn : BitVec 9} {rd rs1 rs2 : Reg} {i : Instr} (r : List Parcel)
    (h : decodeSys (pR 0x1E fn rd rs1 rs2) = .ok i) : decode ([pR 0x1E fn rd rs1 rs2] ++ r) = .ok (i, r) :=
  decode_of_scalar (pR_class ..) (by simp only [decodeScalar, show (pR 0x1E fn rd rs1 rs2).extractLsb' 2 6 = 0x1E#6 from pR_op .., h])
theorem decode_sync {sub : BitVec 4} {mid : BitVec 5} {rd rs1 rs2 : Reg} {i : Instr} (r : List Parcel)
    (h : decodeSync (pSub 0x21 sub mid rd rs1 rs2) = .ok i) : decode ([pSub 0x21 sub mid rd rs1 rs2] ++ r) = .ok (i, r) :=
  decode_of_scalar (pSub_class ..) (by simp only [decodeScalar, show (pSub 0x21 sub mid rd rs1 rs2).extractLsb' 2 6 = 0x21#6 from pSub_op .., h])
theorem decode_ev {sub : BitVec 4} {mid : BitVec 5} {rd rs1 rs2 : Reg} {i : Instr} (r : List Parcel)
    (h : decodeEv (pSub 0x23 sub mid rd rs1 rs2) = .ok i) : decode ([pSub 0x23 sub mid rd rs1 rs2] ++ r) = .ok (i, r) :=
  decode_of_scalar (pSub_class ..) (by simp only [decodeScalar, show (pSub 0x23 sub mid rd rs1 rs2).extractLsb' 2 6 = 0x23#6 from pSub_op .., h])
theorem decode_ring {sub : BitVec 4} {mid : BitVec 5} {rd rs1 rs2 : Reg} {i : Instr} (r : List Parcel)
    (h : decodeRing (pSub 0x24 sub mid rd rs1 rs2) = .ok i) : decode ([pSub 0x24 sub mid rd rs1 rs2] ++ r) = .ok (i, r) :=
  decode_of_scalar (pSub_class ..) (by simp only [decodeScalar, show (pSub 0x24 sub mid rd rs1 rs2).extractLsb' 2 6 = 0x24#6 from pSub_op .., h])
theorem decode_moss {sub : BitVec 4} {mid : BitVec 5} {rd rs1 rs2 : Reg} {i : Instr} (r : List Parcel)
    (h : decodeMoss (pSub 0x25 sub mid rd rs1 rs2) = .ok i) : decode ([pSub 0x25 sub mid rd rs1 rs2] ++ r) = .ok (i, r) :=
  decode_of_scalar (pSub_class ..) (by simp only [decodeScalar, show (pSub 0x25 sub mid rd rs1 rs2).extractLsb' 2 6 = 0x25#6 from pSub_op .., h])

/-! ### Every word -/

/-- A number without a row of its own is none of those that the decoder tests. -/
theorem decodeMts_plain {n : BitVec 12} (h : mtsOwnRow n = false) (rs1 : Reg) : decodeMts (pMts n rs1) = .ok (.mts n rs1) := by
  obtain ⟨hlow, hlim, h140, h141, h143, hmon, h170, h191⟩ : (n ≠ 0x022#12 ∧ n ≠ 0x051#12 ∧ n ≠ 0x060#12 ∧ n ≠ 0x071#12) ∧
      ¬(0x120 ≤ n.toNat ∧ n.toNat ≤ 0x127) ∧ n ≠ 0x140#12 ∧ n ≠ 0x141#12 ∧ n ≠ 0x143#12 ∧ ¬(0x160 ≤ n.toNat ∧ n.toNat ≤ 0x16F) ∧
      n ≠ 0x170#12 ∧ n ≠ 0x191#12 := by
    simpa [mtsOwnRow, and_assoc] using h
  have hrow : n.extractLsb' 3 9 ≠ 0x024#9 := fun e => by
    have hn := congrArg BitVec.toNat e
    simp only [BitVec.extractLsb'_toNat, Nat.shiftRight_eq_div_pow, BitVec.toNat_ofNat] at hn
    omega
  have hrows : n.extractLsb' 4 8 ≠ 0x16#8 := fun e => by
    have hn := congrArg BitVec.toNat e
    simp only [BitVec.extractLsb'_toNat, Nat.shiftRight_eq_div_pow, BitVec.toNat_ofNat] at hn
    omega
  simp [decodeMts, fRs1, fRd, pMts_number, pMts_zero, pMts_rs1, pMts_rd, hlow, hrow, h140, h141, h143, hrows, h170, h191]

theorem decodeMts_mosslim (k : BitVec 3) (rs1 : Reg) : decodeMts (pMts (0x024#9 ++ k) rs1) = .ok (.mtsMosslim k rs1) := by
  have hne : ∀ k : BitVec 3, 0x024#9 ++ k ≠ 0x022#12 ∧ 0x024#9 ++ k ≠ 0x051#12 ∧ 0x024#9 ++ k ≠ 0x060#12 ∧ 0x024#9 ++ k ≠ 0x071#12 := by
    decide
  have hrow : (0x024#9 ++ k : BitVec 12).extractLsb' 3 9 = 0x024#9 := slice_skip (by decide) BitVec.extractLsb'_eq_self
  have hk : (0x024#9 ++ k : BitVec 12).extractLsb' 0 3 = k := slice_here
  obtain ⟨h1, h2, h3, h4⟩ := hne k
  simp [decodeMts, fRs1, fRd, pMts_number, pMts_zero, pMts_rs1, pMts_rd, hrow, hk, h1, h2, h3, h4]

theorem decodeMts_mon (k : BitVec 4) (rs1 : Reg) : decodeMts (pMts (0x16#8 ++ k) rs1) = .ok (.mtsMon k rs1) := by
  have hne : ∀ k : BitVec 4, 0x16#8 ++ k ≠ 0x022#12 ∧ 0x16#8 ++ k ≠ 0x051#12 ∧ 0x16#8 ++ k ≠ 0x060#12 ∧ 0x16#8 ++ k ≠ 0x071#12 ∧
      (0x16#8 ++ k : BitVec 12).extractLsb' 3 9 ≠ 0x024#9 ∧ 0x16#8 ++ k ≠ 0x140#12 ∧ 0x16#8 ++ k ≠ 0x141#12 ∧ 0x16#8 ++ k ≠ 0x143#12 := by
    decide
  have hrow : (0x16#8 ++ k : BitVec 12).extractLsb' 4 8 = 0x16#8 := slice_skip (by decide) BitVec.extractLsb'_eq_self
  have hk : (0x16#8 ++ k : BitVec 12).extractLsb' 0 4 = k := slice_here
  obtain ⟨h1, h2, h3, h4, h5, h6, h7, h8⟩ := hne k
  simp [decodeMts, fRs1, fRd, pMts_number, pMts_zero, pMts_rs1, pMts_rd, hrow, hk, h1, h2, h3, h4, h5, h6, h7, h8]

/-- An address conversion and an address check are R-form words. -/
theorem decode_cvta (g : Bool) (ap : Aper) (rd rs1 : Reg) (r : List Parcel) :
    decode (encode (.cvta g ap rd rs1) ++ r) = .ok (.cvta g ap rd rs1, r) := by
  have hbit : (pR 0x1B#6 (0#5 ++ BitVec.ofBool g ++ ap.code ++ 0#1) rd rs1 0#5).getLsbD 23 = false :=
    (pR_bit _ _ rd rs1 0#5 (j := 0) (by decide)).trans (bit_low (by decide) rfl)
  have hap : (pR 0x1B#6 (0#5 ++ BitVec.ofBool g ++ ap.code ++ 0#1) rd rs1 0#5).extractLsb' 24 2 = ap.code :=
    (pR_slice _ _ rd rs1 0#5 (start := 1) (by decide)).trans (slice_skip (by decide) slice_here)
  have hg : (pR 0x1B#6 (0#5 ++ BitVec.ofBool g ++ ap.code ++ 0#1) rd rs1 0#5).getLsbD 26 = g :=
    (pR_bit _ _ rd rs1 0#5 (j := 3) (by decide)).trans (bit_skip (by decide) <| bit_skip (by decide) bit_here)
  have htop : (pR 0x1B#6 (0#5 ++ BitVec.ofBool g ++ ap.code ++ 0#1) rd rs1 0#5).extractLsb' 27 5 = 0#5 :=
    (pR_slice _ _ rd rs1 0#5 (start := 4) (by decide)).trans
      (slice_skip (by decide) <| slice_skip (by decide) <| slice_skip (by decide) BitVec.extractLsb'_eq_self)
  exact decode_of_scalar (p := pR 0x1B#6 _ rd rs1 0#5) (pR_class ..) (by simp [-BitVec.getLsbD_eq_getElem, decodeScalar, hbit, hap, hg, htop])

theorem decode_spchk (ap : Aper) (rd rs1 : Reg) (r : List Parcel) : decode (encode (.spchk ap rd rs1) ++ r) = .ok (.spchk ap rd rs1, r) := by
  have hbit : (pR 0x1B#6 (0#6 ++ ap.code ++ 1#1) rd rs1 0#5).getLsbD 23 = true :=
    (pR_bit _ _ rd rs1 0#5 (j := 0) (by decide)).trans (bit_low (by decide) rfl)
  have hap : (pR 0x1B#6 (0#6 ++ ap.code ++ 1#1) rd rs1 0#5).extractLsb' 24 2 = ap.code :=
    (pR_slice _ _ rd rs1 0#5 (start := 1) (by decide)).trans (slice_skip (by decide) slice_here)
  have htop : (pR 0x1B#6 (0#6 ++ ap.code ++ 1#1) rd rs1 0#5).extractLsb' 26 6 = 0#6 :=
    (pR_slice _ _ rd rs1 0#5 (start := 3) (by decide)).trans
      (slice_skip (by decide) <| slice_skip (by decide) BitVec.extractLsb'_eq_self)
  exact decode_of_scalar (p := pR 0x1B#6 _ rd rs1 0#5) (pR_class ..) (by simp [-BitVec.getLsbD_eq_getElem, decodeScalar, hbit, hap, htop])

theorem decode_cas (wd : Bool) (sc : Scope) (q : Bool) (rd rs1 rs2 : Reg) (r : List Parcel) :
    decode (encode (.cas wd sc q rd rs1 rs2) ++ r) = .ok (.cas wd sc q rd rs1 rs2, r) := by
  have hq : (pR 0x19#6 (0#4 ++ BitVec.ofBool wd ++ sc.code ++ BitVec.ofBool q) rd rs1 rs2).getLsbD 23 = q :=
    (pR_bit _ _ rd rs1 rs2 (j := 0) (by decide)).trans bit_here
  have hsc : (pR 0x19#6 (0#4 ++ BitVec.ofBool wd ++ sc.code ++ BitVec.ofBool q) rd rs1 rs2).extractLsb' 24 3 = sc.code :=
    (pR_slice _ _ rd rs1 rs2 (start := 1) (by decide)).trans (slice_skip (by decide) slice_here)
  have hwd : (pR 0x19#6 (0#4 ++ BitVec.ofBool wd ++ sc.code ++ BitVec.ofBool q) rd rs1 rs2).getLsbD 27 = wd :=
    (pR_bit _ _ rd rs1 rs2 (j := 4) (by decide)).trans (bit_skip (by decide) <| bit_skip (by decide) bit_here)
  have htop : (pR 0x19#6 (0#4 ++ BitVec.ofBool wd ++ sc.code ++ BitVec.ofBool q) rd rs1 rs2).extractLsb' 28 4 = 0#4 :=
    (pR_slice _ _ rd rs1 rs2 (start := 5) (by decide)).trans
      (slice_skip (by decide) <| slice_skip (by decide) <| slice_skip (by decide) BitVec.extractLsb'_eq_self)
  exact decode_of_scalar (p := pR 0x19#6 _ rd rs1 rs2) (pR_class ..) (by simp [-BitVec.getLsbD_eq_getElem, decodeScalar, hq, hsc, hwd, htop])

/-- A store's offset has its low bits in the place of rd. -/
theorem decode_st {wd : Width} (rs2 rs1 : Reg) (i : BitVec 11) (r : List Parcel) (h : storeWidth wd.code = some wd) :
    decode (encode (.st wd rs2 rs1 i) ++ r) = .ok (.st wd rs2 rs1 i, r) := by
  have hwd : (pR 0x15#6 (wd.code ++ i.extractLsb' 5 6) (i.extractLsb' 0 5) rs1 rs2).extractLsb' 29 3 = wd.code :=
    (pR_slice _ _ _ rs1 rs2 (start := 6) (by decide)).trans (slice_skip (by decide) BitVec.extractLsb'_eq_self)
  have hhigh : (pR 0x15#6 (wd.code ++ i.extractLsb' 5 6) (i.extractLsb' 0 5) rs1 rs2).extractLsb' 23 6 = i.extractLsb' 5 6 :=
    (pR_slice _ _ _ rs1 rs2 (start := 0) (by decide)).trans slice_here
  have hoff : i.extractLsb' 5 6 ++ i.extractLsb' 0 5 = i :=
    (BitVec.extractLsb'_append_extractLsb'_eq_extractLsb' (by decide)).trans BitVec.extractLsb'_eq_self
  exact decode_of_scalar (p := pR 0x15#6 _ _ rs1 rs2) (pR_class ..) (by simp [decodeScalar, hwd, hhigh, h, hoff])

/-- The words of the I-form whose immediate holds width, scope or offset. -/
theorem decode_ld (wd : Width) (rd rs1 : Reg) (i : BitVec 11) (r : List Parcel) :
    decode (encode (.ld wd rd rs1 i) ++ r) = .ok (.ld wd rd rs1 i, r) := by
  have hwd : (pI 0x14#6 rd rs1 (wd.code ++ i)).extractLsb' 29 3 = wd.code :=
    (pI_slice _ rd rs1 _ (start := 11) (by decide)).trans (slice_skip (by decide) BitVec.extractLsb'_eq_self)
  have hoff : (pI 0x14#6 rd rs1 (wd.code ++ i)).extractLsb' 18 11 = i := (pI_slice _ rd rs1 _ (start := 0) (by decide)).trans slice_here
  exact decode_of_scalar (p := pI 0x14#6 rd rs1 _) (pI_class ..) (by simp [decodeScalar, hwd, hoff])

theorem pI_scoped (op : BitVec 6) (wd : Width) (sc : Scope) (rd rs1 : Reg) : let p := pI op rd rs1 (wd.code ++ 0#8 ++ sc.code)
    p.extractLsb' 29 3 = wd.code ∧ p.extractLsb' 18 3 = sc.code ∧ p.extractLsb' 21 8 = 0#8 :=
  ⟨(pI_slice op rd rs1 _ (start := 11) (by decide)).trans
      (slice_skip (by decide) <| slice_skip (by decide) BitVec.extractLsb'_eq_self),
    (pI_slice op rd rs1 _ (start := 0) (by decide)).trans slice_here,
    (pI_slice op rd rs1 _ (start := 3) (by decide)).trans (slice_skip (by decide) slice_here)⟩

theorem decode_lda (wd : Width) (sc : Scope) (rd rs1 : Reg) (r : List Parcel) :
    decode (encode (.lda wd sc rd rs1) ++ r) = .ok (.lda wd sc rd rs1, r) := by
  obtain ⟨hwd, hsc, hzero⟩ := pI_scoped 0x16#6 wd sc rd rs1
  exact decode_of_scalar (p := pI 0x16#6 rd rs1 _) (pI_class ..) (by simp [decodeScalar, hwd, hsc, hzero])

theorem decode_stl {wd : Width} (sc : Scope) (rs2 rs1 : Reg) (r : List Parcel) (h : storeWidth wd.code = some wd) :
    decode (encode (.stl wd sc rs2 rs1) ++ r) = .ok (.stl wd sc rs2 rs1, r) := by
  obtain ⟨hwd, hsc, hzero⟩ := pI_scoped 0x17#6 wd sc rs2 rs1
  exact decode_of_scalar (p := pI 0x17#6 rs2 rs1 _) (pI_class ..) (by simp [decodeScalar, hwd, hsc, hzero, h])

theorem decode_mfs (n : BitVec 12) (rd : Reg) (r : List Parcel) : decode (encode (.mfs n rd) ++ r) = .ok (.mfs n rd, r) := by
  have hn : (pJ 0x1C#6 rd (n ++ 0#7)).extractLsb' 20 12 = n :=
    (pJ_slice _ rd _ (start := 7) (by decide)).trans (slice_skip (by decide) BitVec.extractLsb'_eq_self)
  have hzero : (pJ 0x1C#6 rd (n ++ 0#7)).extractLsb' 13 7 = 0#7 := (pJ_slice _ rd _ (start := 0) (by decide)).trans slice_here
  exact decode_of_scalar (p := pJ 0x1C#6 rd _) (pJ_class ..) (by simp [decodeScalar, hn, hzero])

/-- The shifts by an amount: kind and amount in the immediate. -/
theorem decode_shiftI {kind : BitVec 2} {k : BitVec 6} {rd rs1 : Reg} {i : Instr} (r : List Parcel)
    (h : kind = 0#2 ∧ i = .shli rd rs1 k ∨ kind = 1#2 ∧ i = .shri rd rs1 k ∨ kind = 2#2 ∧ i = .sari rd rs1 k ∨ kind = 3#2 ∧ i = .roli rd rs1 k) :
    decode ([pI 7#6 rd rs1 (0#6 ++ kind ++ k)] ++ r) = .ok (i, r) := by
  have hzero : (pI 7#6 rd rs1 (0#6 ++ kind ++ k)).extractLsb' 26 6 = 0#6 :=
    (pI_slice _ rd rs1 _ (start := 8) (by decide)).trans
      (slice_skip (by decide) <| slice_skip (by decide) BitVec.extractLsb'_eq_self)
  have hkind : (pI 7#6 rd rs1 (0#6 ++ kind ++ k)).extractLsb' 24 2 = kind :=
    (pI_slice _ rd rs1 _ (start := 6) (by decide)).trans (slice_skip (by decide) slice_here)
  have hk : (pI 7#6 rd rs1 (0#6 ++ kind ++ k)).extractLsb' 18 6 = k := (pI_slice _ rd rs1 _ (start := 0) (by decide)).trans slice_here
  refine decode_of_scalar (pI_class ..) ?_
  simp only [decodeScalar, decodeShiftI, fRd, fRs1, pI_op, pI_rd, pI_rs1, hzero, hkind, hk]
  rcases h with ⟨rfl, rfl⟩ | ⟨rfl, rfl⟩ | ⟨rfl, rfl⟩ | ⟨rfl, rfl⟩ <;> rfl

theorem decode_fence {k : BitVec 4} (sc : Scope) (r : List Parcel) (h : (k != 0#4) = true) :
    decode (encode (.fence k sc) ++ r) = .ok (.fence k sc, r) := by
  obtain ⟨p, hp⟩ : ∃ p : Parcel, p = 0#1 ++ k ++ sc.code ++ 0#16 ++ 0x1A#6 ++ 0#2 := ⟨_, rfl⟩
  have hop : p.extractLsb' 2 6 = 0x1A#6 := hp ▸ slice_skip (by decide) slice_here
  have hzero : p.extractLsb' 8 16 = 0#16 := hp ▸ (slice_skip (by decide) <| slice_skip (by decide) slice_here)
  have hsc : p.extractLsb' 24 3 = sc.code :=
    hp ▸ (slice_skip (by decide) <| slice_skip (by decide) <| slice_skip (by decide) slice_here)
  have hk : p.extractLsb' 27 4 = k :=
    hp ▸ (slice_skip (by decide) <| slice_skip (by decide) <| slice_skip (by decide) <| slice_skip (by decide) slice_here)
  have htop : p.getLsbD 31 = false :=
    hp ▸ (bit_skip (by decide) <| bit_skip (by decide) <| bit_skip (by decide) <| bit_skip (by decide) <| bit_skip (by decide) rfl)
  change decode ([0#1 ++ k ++ sc.code ++ 0#16 ++ 0x1A#6 ++ 0#2] ++ r) = _
  rw [← hp]
  exact decode_of_scalar (hp ▸ slice_here) (by simp [-BitVec.getLsbD_eq_getElem, decodeScalar, hop, hzero, hsc, hk, htop, h])

theorem decode_yield (i : BitVec 16) (r : List Parcel) : decode (encode (.yield i) ++ r) = .ok (.yield i, r) := by
  obtain ⟨p, hp⟩ : ∃ p : Parcel, p = 0#4 ++ 0#4 ++ i ++ 0x21#6 ++ 0#2 := ⟨_, rfl⟩
  have hop : p.extractLsb' 2 6 = 0x21#6 := hp ▸ slice_skip (by decide) slice_here
  have hi : p.extractLsb' 8 16 = i := hp ▸ (slice_skip (by decide) <| slice_skip (by decide) slice_here)
  have hmid : p.extractLsb' 24 4 = 0#4 := hp ▸ (slice_skip (by decide) <| slice_skip (by decide) <| slice_skip (by decide) slice_here)
  have hsub : p.extractLsb' 28 4 = 0#4 :=
    hp ▸ (slice_skip (by decide) <| slice_skip (by decide) <| slice_skip (by decide) <| slice_skip (by decide) BitVec.extractLsb'_eq_self)
  change decode ([0#4 ++ 0#4 ++ i ++ 0x21#6 ++ 0#2] ++ r) = _
  rw [← hp]
  exact decode_of_scalar (hp ▸ slice_here) (by simp [decodeScalar, decodeSync, hop, hi, hmid, hsub])

/-- A word with the opcode and the fields of a vector word. -/
theorem decode_encode_vector {i : Instr} {op : VOp} {f : VF} (r : List Parcel) (hv : i.vparts = some (op, f)) (hwf : i.wf = true) :
    decode (encode i ++ r) = .ok (i, r) := by
  have henc : encode i = pV op f := by unfold encode; rw [hv]
  have hok : op.ok f = true := by unfold Instr.wf at hwf; rwa [hv] at hwf
  rw [henc, decode_pV op f r hok, ofV_of_vparts hv]

/-- An engine word whose fields are accepted, with or without rs2 (R54). -/
theorem decode_encode_eng {i : Instr} {f : EF} (r : List Parcel) (hf : Machine.engFields i = some f) (hwf : i.wf = true) :
    decode (encode i ++ r) = .ok (i, r) := by
  cases i <;> cases hf <;> exact decode_pEng _ f r (by
    have hok : f.ok _ = true := hwf
    simp only [decodeEng, pEng_fn, pEng_fields]
    exact congrArg (fun b => need (pEng _ f) b _) hok)

/-- Settles O57: each form reads its fields back, and the codes of the fields name the word again. -/
theorem encodeDecode : Obligations.EncodeDecode := by
  intro i r hword hwf
  cases hv : i.vparts with
  | some p =>
    obtain ⟨op, f⟩ := p
    exact decode_encode_vector r hv hwf
  | none =>
    cases i
    case add | sub | and | or | xor | shl | shr | sar | rol | slt | sltu | min | max | minu | maxu | clz | popc | andn =>
      exact decode_alu r (by simp [decodeAlu])
    case mul | mulh | mulhu | div | divu | rem | remu => exact decode_mulDiv r (by simp [decodeMulDiv])
    case fadd | fsub | fmul | ffma | fmin | fmax | fcvtif | fcvtfi | fcmpeq | fcmplt | fcmple =>
      exact decode_fps r (by simp [decodeFps])
    case addi | andi | ori | xori | slti | sltui | jalr => exact decode_of_scalar (pI_class ..) (by simp [decodeScalar])
    case shli | shri | sari | roli => exact decode_shiftI r (by simp)
    case lui | addpc | jal => exact decode_of_scalar (pJ_class ..) (by simp [decodeScalar])
    case beq rs1 rs2 off | bne rs1 rs2 off | blt rs1 rs2 off | bge rs1 rs2 off | bltu rs1 rs2 off | bgeu rs1 rs2 off =>
      exact decode_of_scalar (pR_class ..) (by
        simp only [decodeScalar, fBOff_pB, show fRs1 (pB _ rs1 rs2 off) = rs1 from pR_rs1 ..,
          show fRs2 (pB _ rs1 rs2 off) = rs2 from pR_rs2 .., show (pB _ rs1 rs2 off).extractLsb' 2 6 = _ from pR_op ..]
        rfl)
    case ld => exact decode_ld ..
    case st => exact decode_st _ _ _ r (storeWidth_code hwf)
    case lda => exact decode_lda ..
    case stl => exact decode_stl _ _ _ r (storeWidth_code hwf)
    case amoSwap | amoAdd | amoAnd | amoOr | amoXor | amoMin | amoMax | amoMinu | amoMaxu | amoFadd =>
      exact decode_pAmo r (by
        simp only [decodeAmo, pAmo_sub, pAmo_word, pAmo_scope, pAmo_seq, fRd, fRs1, fRs2, pAmo_rd, pAmo_rs1, pAmo_rs2,
          Scope.ofCode_code, code_some]
        rfl)
    case cas => exact decode_cas ..
    case fence => exact decode_fence _ r hwf
    case cvta => exact decode_cvta ..
    case spchk => exact decode_spchk ..
    case mfs => exact decode_mfs ..
    case mts => exact decode_pMts _ _ r (decodeMts_plain (by simpa [Instr.wf, Instr.vparts] using hwf) _)
    case mtsFpflags | mtsSlotmask | mtsPreq | mtsLeavegrant | mtsLeaveclus | mtsLeaveslot | mtsBiasctl | mtsMonsnap | mtsPwrevt =>
      exact decode_pMts _ _ r (by simp [decodeMts, fRs1, fRd, pMts_number, pMts_zero, pMts_rs1, pMts_rd])
    case mtsMosslim => exact decode_pMts _ _ r (decodeMts_mosslim ..)
    case mtsMon => exact decode_pMts _ _ r (decodeMts_mon ..)
    case trap | tret | bkpt | exit | ownwait => exact decode_sys r (by simp [decodeSys])
    case tokpost => exact decode_pTok false _ _ r hwf
    case toktake => exact decode_pTok true _ _ r hwf
    case yield => exact decode_yield ..
    case suspend | bar | bararr | barwait | grpinfo => exact decode_sync r (by simp [decodeSync])
    case launch | launchBlock | leave | leaverd =>
      exact decode_of_scalar (pR_class ..) (by simp [-BitVec.getLsbD_eq_getElem, decodeScalar, pR_functHigh, pR_functLow])
    case evadd | evwait | evrd | evset => exact decode_ev r (by simp [-BitVec.getLsbD_eq_getElem, decodeEv])
    case rpsh | rpop | rinit => exact decode_ring r (by simp [decodeRing])
    case mfree | mrefresh | mage | mquery =>
      exact decode_moss r (by simp [decodeMoss])
    case mclass c rd rs1 rs2 =>
      have hc : (c != 0#3) = true := hwf
      exact decode_moss r (by
        simp only [decodeMoss, fRd, fRs1, fRs2, pSub_sub, pSub_code, pSub_codeHigh, pSub_codeLow, pSub_rd, pSub_rs1, pSub_rs2]
        exact congrArg (fun b => need _ b _) hc)
    case mma f => exact decode_pM f r (by simp)
    case mmaz f => exact decode_pM f r (by simp)
    case aclr f => exact decode_pA f r (by simp)
    case aswap f => exact decode_pA f r (by simp)
    case adrain f => exact decode_pA f r (by simp)
    case engCopy | engFill | engRefresh | engGather | engScatter | engScatteradd | engColl | engFamo | engFcas | engEvsig | engTwset |
        engTwclr | engTwbud | engTkcmt | engTkconf | engTkrej | engTwstat | engSeqopen | engSeqclose | engWswap | engWstat | engCqry =>
      exact decode_encode_eng r rfl hwf
    all_goals simp [Instr.vparts, Instr.isWord] at hv hword

end Sys2Proof
end
section
namespace Sys2Proof.Machine

/-! ### The invariant, and the updates that keep it -/

/-- A state with other bytes in memory, in the canonical form. -/
theorem State.inv_of_mem {s t : State} (h : s.Inv) (hmem : Memory.wf t.mem = true) (hothers : t.others = s.others) (hsubs : t.subs = s.subs)
    (hclus : t.clus = s.clus) (hparts : t.parts = s.parts) : t.Inv := by
  obtain ⟨-, ho, hs, hc, hp⟩ := h
  exact ⟨hmem, by rwa [hothers], by rwa [hsubs], by rwa [hclus], by rwa [hparts]⟩

/-- The updates of a record that leave memory and the five tables. -/
theorem State.inv_with {s : State} {focus cx poison failing rung covers stamps farStamps clocks transit adds arrivals launching waiters migrations icache
    tlb fabric eth mgr agenda free uid} (h : s.Inv) :
    (State.mk focus cx s.others s.subs s.clus s.parts s.mem poison failing rung covers stamps farStamps clocks transit adds arrivals launching waiters
      migrations icache tlb fabric eth mgr agenda free uid).Inv := h

theorem inv_ite {c : Prop} [Decidable c] {s t : State} (hs : s.Inv) (ht : t.Inv) : (if c then s else t).Inv := by
  split
  · exact hs
  · exact ht

/-- What each step of a fold keeps, the fold keeps. -/
theorem foldl_keeps {α β : Type} {P : β → Prop} {f : β → α → β} (hf : ∀ b a, P b → P (f b a)) {b : β} {l : List α} (h : P b) :
    P (l.foldl f b) := by
  induction l generalizing b with
  | nil => exact h
  | cons a l ih => exact ih (hf b a h)

theorem foldl_inv {α : Type} {f : State → α → State} (hf : ∀ s a, s.Inv → (f s a).Inv) {s : State} {l : List α} (h : s.Inv) :
    (l.foldl f s).Inv := foldl_keeps (P := State.Inv) hf h

theorem State.setCtx_inv {s : State} {c : CtxLoc} {x : Context} (h : s.Inv) : (s.setCtx c x).Inv := by
  obtain ⟨hm, ho, hs, hc, hp⟩ := h
  unfold State.setCtx
  split
  · exact ⟨hm, ho, hs, hc, hp⟩
  · exact ⟨hm, twf_tset ho, hs, hc, hp⟩

theorem State.setSub_inv {s : State} {pcl k : Nat} {x : SubCore} (h : s.Inv) : (s.setSub pcl k x).Inv := by
  obtain ⟨hm, ho, hs, hc, hp⟩ := h
  exact ⟨hm, ho, twf_tset hs, hc, hp⟩

theorem State.setClu_inv {s : State} {pcl : Nat} {x : Cluster} (h : s.Inv) : (s.setClu pcl x).Inv := by
  obtain ⟨hm, ho, hs, hc, hp⟩ := h
  exact ⟨hm, ho, hs, twf_tset hc, hp⟩

theorem State.setPart_inv {s : State} {p : Nat} {x : Partition} (h : s.Inv) : (s.setPart p x).Inv := by
  obtain ⟨hm, ho, hs, hc, hp⟩ := h
  exact ⟨hm, ho, hs, hc, twf_tset hp⟩

theorem applyBytes_inv {s : State} {pa : Nat} {bs : List Byte} {bad : Bool} {st : Stamp} (h : s.Inv) : (applyBytes s pa bs bad st).Inv :=
  State.inv_of_mem h (applyBytes_wf h.1) rfl rfl rfl rfl

/-- The states of an answer that may be none, of one that may be a fault, and of a step's outcome keep the invariant. -/
def SomeInv {α : Type} (f : α → State) (o : Option α) : Prop := ∀ a, o = some a → (f a).Inv
def OkInv {ε α : Type} (f : α → State) (o : Except ε α) : Prop := ∀ a, o = .ok a → (f a).Inv
def OutInv (o : Out) : Prop := ∀ t, o = .next t → t.Inv

theorem someInv_none {α : Type} {f : α → State} : SomeInv f none := fun _ e => nomatch e

theorem someInv_some {α : Type} {f : α → State} {a : α} (h : (f a).Inv) : SomeInv f (some a) := fun _ e => Option.some.inj e ▸ h

theorem okInv_ok {ε α : Type} {f : α → State} {a : α} (h : (f a).Inv) : OkInv f (.ok a : Except ε α) := fun _ e => Except.ok.inj e ▸ h

theorem okInv_error {ε α : Type} {f : α → State} {e : ε} : OkInv f (.error e : Except ε α) := fun _ h => nomatch h

theorem outInv_next {s : State} (h : s.Inv) : OutInv (.next s) := fun _ e => Host.Outcome.next.inj e ▸ h

theorem outInv_fault {r : Fault} : OutInv (.fault r) := fun _ e => nomatch e

/-- The state that an engine program ends a step with. -/
def Prog.st : Prog → State
  | .ok _ s | .fail _ _ s | .need _ _ _ s | .hold _ s => s

theorem Prog.ok_inv {k : Cmd} {s : State} (h : s.Inv) : (Prog.ok k s).st.Inv := h

theorem Prog.fail_inv {c : BitVec 8} {k : Cmd} {s : State} (h : s.Inv) : (Prog.fail c k s).st.Inv := h

theorem Prog.need_inv {c b : Nat} {k : Cmd} {s : State} (h : s.Inv) : (Prog.need c b k s).st.Inv := h

theorem Prog.hold_inv {k : Cmd} {s : State} (h : s.Inv) : (Prog.hold k s).st.Inv := h

/-- The state of a pair that a `match` has taken apart. -/
theorem fst_inv {β : Type} {p : State × β} {t : State} {b : β} (he : p = (t, b)) (h : p.1.Inv) : t.Inv := by
  rw [he] at h
  exact h

theorem snd_inv {α : Type} {p : α × State} {a : α} {t : State} (he : p = (a, t)) (h : p.2.Inv) : t.Inv := by
  rw [he] at h
  exact h

theorem someInv_map {α β : Type} {f : α → State} {g : β → State} {o : Option α} {m : α → β} (h : SomeInv f o)
    (hm : ∀ a, (f a).Inv → (g (m a)).Inv) : SomeInv g (o.map m) := by
  intro b hb
  obtain ⟨a, ha, rfl⟩ := Option.map_eq_some_iff.mp hb
  exact hm a (h a ha)

theorem someInv_map_state {α : Type} {o : Option α} {m : α → State} (hm : ∀ a, (m a).Inv) : SomeInv id (o.map m) := by
  intro t ht
  obtain ⟨a, -, rfl⟩ := Option.map_eq_some_iff.mp ht
  exact hm a

theorem okInv_ite {ε α : Type} {f : α → State} {c : Prop} [Decidable c] {a b : Except ε α} (ha : OkInv f a) (hb : OkInv f b) :
    OkInv f (if c then a else b) := by
  split
  · exact ha
  · exact hb

theorem someInv_ite {α : Type} {f : α → State} {c : Prop} [Decidable c] {a b : Option α} (ha : SomeInv f a) (hb : SomeInv f b) :
    SomeInv f (if c then a else b) := by
  split
  · exact ha
  · exact hb


/-! #### Ops -/

theorem State.onCtx_inv {s : State} {c : CtxLoc} {f : Context → Context} (h : s.Inv) : (s.onCtx c f).Inv := by
  unfold State.onCtx
  exact State.setCtx_inv h

theorem State.debugTaken_inv {s : State} {c : CtxLoc} {epc : Word} {mark : Option (Eng × BitVec 32 × Word)} (h : s.Inv) :
    (s.debugTaken c epc mark).Inv := by
  unfold State.debugTaken
  dsimp only
  exact State.inv_with (State.onCtx_inv h)

theorem State.stampWrite_inv {s : State} {d : ℕ} {o : Stamp} (h : s.Inv) : (s.stampWrite d o).2.Inv := by
  unfold State.stampWrite
  dsimp only
  exact State.inv_with h

theorem State.noteWalk_inv {s : State} {pcl part va : ℕ} (h : s.Inv) : (s.noteWalk pcl part va).Inv := by
  unfold State.noteWalk
  split
  · exact State.inv_with h
  · exact h

theorem State.sendLines_inv {s : State} {c : CtxLoc} {bad : Bool} {l : List (ℕ × List Byte)} (h : s.Inv) : (s.sendLines c bad l).1.Inv := by
  induction l generalizing s with
  | nil => exact h
  | cons e r ih =>
    obtain ⟨va, bs⟩ := e
    unfold State.sendLines
    dsimp only
    split
    · exact State.noteWalk_inv h
    · exact ih (State.inv_with (State.stampWrite_inv h))

theorem State.sendSave_inv {s : State} {c : CtxLoc} {va : ℕ} {bs : List Byte} {bad : Bool} (h : s.Inv) : (s.sendSave c va bs bad).1.Inv := by
  unfold State.sendSave
  exact State.sendLines_inv h

theorem State.onPart_inv {s : State} {p : ℕ} {f : Partition → Partition} (h : s.Inv) : (s.onPart p f).Inv := by
  unfold State.onPart
  exact State.setPart_inv h

theorem State.countEnd_inv {s : State} {p launch : ℕ} {err : Option (BitVec 8 × Word × ℕ × Word)} (h : s.Inv) : (s.countEnd p launch err).Inv := by
  unfold State.countEnd
  exact State.onPart_inv h

theorem State.onClu_inv {s : State} {pcl : ℕ} {f : Cluster → Cluster} (h : s.Inv) : (s.onClu pcl f).Inv := by
  unfold State.onClu
  exact State.setClu_inv h

theorem State.returnLeave_inv {s : State} {c : CtxLoc} (h : s.Inv) : (s.returnLeave c).Inv := by
  unfold State.returnLeave
  dsimp only
  exact State.onCtx_inv (State.setSub_inv h)

theorem State.idleCtx_inv {s : State} {c : CtxLoc} (h : s.Inv) : (s.idleCtx c).Inv := by
  unfold State.idleCtx
  dsimp only
  exact State.onClu_inv (State.setSub_inv (State.onCtx_inv (State.returnLeave_inv h)))

theorem State.loseRecord_inv {s : State} {p launch strand : ℕ} (h : s.Inv) : (s.loseRecord p launch strand).Inv := by
  unfold State.loseRecord
  exact State.onPart_inv h

theorem State.hwWrite_inv {s : State} {o : Stamp} {pa : ℕ} {bs : List Byte} {bad : Bool} (h : s.Inv) : (s.hwWrite o pa bs bad).Inv := by
  unfold State.hwWrite
  exact applyBytes_inv h

theorem State.vwrite_inv {s : State} {pcl part : ℕ} {obs : Stamp} {l : List (ℕ × List Byte)} (h : s.Inv) : (s.vwrite pcl part obs l).1.Inv := by
  induction l generalizing s with
  | nil => exact h
  | cons e r ih =>
    obtain ⟨va, bs⟩ := e
    unfold State.vwrite
    split
    · exact State.noteWalk_inv h
    · split
      · exact h
      · exact ih (State.hwWrite_inv h)

theorem State.vstore_inv {s : State} {pcl part : ℕ} {obs : Stamp} {va : ℕ} {bs : List Byte} (h : s.Inv) : (s.vstore pcl part obs va bs).1.Inv := by
  unfold State.vstore
  exact State.vwrite_inv h

theorem State.endStrand_inv {s : State} {c : CtxLoc} {undrained : Bool} {err : Option (BitVec 8 × Word)} (h : s.Inv) :
    (s.endStrand c undrained err).Inv := by
  unfold State.endStrand
  dsimp only
  refine State.idleCtx_inv ?_
  refine State.countEnd_inv ?_
  refine inv_ite ?_ ?_
  · refine State.loseRecord_inv ?_
    refine State.inv_with ?_
    refine State.vstore_inv ?_
    refine foldl_inv ?_ ?_
    · intro x1 x2 h1
      refine inv_ite ?_ ?_
      · split
        · exact h1
        · split
          · exact State.noteWalk_inv h1
          · exact State.inv_with (State.stampWrite_inv h1)
      · exact h1
    · exact h
  · refine State.vstore_inv ?_
    refine foldl_inv ?_ ?_
    · intro x1 x2 h1
      refine inv_ite ?_ ?_
      · split
        · exact h1
        · split
          · exact State.noteWalk_inv h1
          · exact State.inv_with (State.stampWrite_inv h1)
      · exact h1
    · exact h

theorem State.endError_inv {s : State} {c : CtxLoc} {cause : BitVec 8} {tval : Word} (h : s.Inv) : (s.endError c cause tval).Inv := by
  unfold State.endError
  dsimp only
  refine inv_ite ?_ ?_
  · split
    · exact State.debugTaken_inv (State.onCtx_inv h)
    · exact State.debugTaken_inv (State.onCtx_inv h)
  · exact State.endStrand_inv (State.onCtx_inv h)

theorem State.trapEntry_inv {s : State} {c : CtxLoc} {hh : Halt} (h : s.Inv) : (s.trapEntry c hh).Inv := by
  unfold State.trapEntry
  dsimp only
  refine inv_ite ?_ ?_
  · exact State.endError_inv h
  · split
    · exact State.endError_inv (State.sendSave_inv (State.inv_with h))
    · exact State.onCtx_inv (State.sendSave_inv (State.inv_with h))

theorem State.sample_inv {s : State} {pcl src : ℕ} {v : BitVec 32} (h : s.Inv) : (s.sample pcl src v).Inv := by
  unfold State.sample
  exact State.onClu_inv h

theorem State.logWait_inv {s : State} {pcl : ℕ} {w : WaitEntry} (h : s.Inv) : (s.logWait pcl w).Inv := by
  unfold State.logWait
  dsimp only
  exact inv_ite (applyBytes_inv (State.setClu_inv h)) (State.setClu_inv h)

theorem State.waitEnd_inv {s : State} {c : CtxLoc} {unit : ℕ} {ended : BitVec 8} (h : s.Inv) : (s.waitEnd c unit ended).Inv := by
  unfold State.waitEnd
  split
  · exact h
  · dsimp only
    exact State.inv_with (State.sample_inv (State.logWait_inv (State.onCtx_inv h)))

theorem State.waitsEnd_inv {s : State} {c : CtxLoc} {ended : BitVec 8} (h : s.Inv) : (s.waitsEnd c ended).Inv := by
  unfold State.waitsEnd
  exact foldl_inv (fun x1 x2 h1 => State.waitEnd_inv h1) h

theorem State.cut_inv {s : State} {c : CtxLoc} (h : s.Inv) : (s.cut c).Inv := by
  unfold State.cut
  dsimp only
  split
  · exact h
  · split
    · exact inv_ite (State.endError_inv (State.waitsEnd_inv (State.onCtx_inv h))) (State.trapEntry_inv (State.waitsEnd_inv (State.onCtx_inv h)))
    · exact State.debugTaken_inv (State.waitsEnd_inv (State.onCtx_inv h))
    · exact State.onCtx_inv (State.waitsEnd_inv (State.onCtx_inv h))

theorem State.settle_inv {s : State} {c : CtxLoc} (h : s.Inv) : (s.settle c).Inv := by
  unfold State.settle
  exact inv_ite h (State.cut_inv h)

theorem State.raise_inv {s : State} {c : CtxLoc} {cause : BitVec 8} {tval epc : Word} {mark : Option (Eng × BitVec 32 × Word)} (h : s.Inv) :
    (s.raise c cause tval epc mark).Inv := by
  unfold State.raise
  dsimp only
  exact inv_ite h (State.settle_inv (State.onCtx_inv h))

theorem State.fault_inv {s : State} {cause : BitVec 8} {tval : Word} (h : s.Inv) : (s.fault cause tval).Inv := by
  unfold State.fault
  exact State.raise_inv h

theorem State.debugHalt_inv {s : State} {c : CtxLoc} (h : s.Inv) : (s.debugHalt c).Inv := by
  unfold State.debugHalt
  dsimp only
  exact inv_ite h (State.settle_inv (State.onCtx_inv h))

/-! #### Weights -/

theorem State.note_inv {s : State} {cls unit p : ℕ} (h : s.Inv) : (s.note cls unit p).Inv := by
  unfold State.note
  exact State.inv_with h

/-! #### Manage -/

theorem State.endReplay_inv {s : State} {p : ℕ} {left : List (ℕ × ℕ × ℕ)} (h : s.Inv) : (s.endReplay p left).Inv := by
  unfold State.endReplay
  refine inv_ite ?_ ?_
  · exact State.onPart_inv h
  · dsimp only
    exact foldl_inv (fun x1 x2 h1 => State.debugHalt_inv h1) (State.note_inv (State.onPart_inv h))

/-! #### Ops -/

theorem noObject_outInv {ok : Bool} {what : String} {s : State} {k : State → Out} (hs : s.Inv) (h : ∀ y0, y0.Inv → OutInv (k y0)) :
    OutInv (noObject ok what s k) := by
  unfold noObject
  split
  · exact h _ hs
  · exact outInv_fault 

theorem atPart_outInv {p : ℕ} {s : State} {f : State → State} (hs : s.Inv) (h : ∀ y0, y0.Inv → (f y0).Inv) : OutInv (atPart p s f) := by
  unfold atPart
  exact noObject_outInv hs (fun x1 h1 => outInv_next (h _ h1))

/-! #### Manage -/

theorem byManager_outInv {p : ℕ} {s : State} {f : State → State} (hs : s.Inv) (h : ∀ y0, y0.Inv → (f y0).Inv) : OutInv (byManager p s f) := by
  unfold byManager
  exact atPart_outInv hs (fun x1 h1 => inv_ite h1 (h _ h1))

theorem execPartitionReplay_outInv {p : ℕ} {s : State} (h : s.Inv) : OutInv (execPartitionReplay p s) := by
  unfold execPartitionReplay
  refine byManager_outInv ?_ ?_
  · exact h
  · intro x1 h1
    refine inv_ite ?_ ?_
    · exact h1
    · split
      · exact State.onPart_inv h1
      · exact State.endReplay_inv h1

/-! #### Weights -/

theorem atPort_outInv {port : ℕ} {s : State} {f : State → State} (hs : s.Inv) (h : ∀ y0, y0.Inv → (f y0).Inv) : OutInv (atPort port s f) := by
  unfold atPort
  exact noObject_outInv hs (fun x1 h1 => outInv_next (h _ h1))

theorem execUnreliableTransportPacket_outInv {port : ℕ} {s : State} (h : s.Inv) : OutInv (execUnreliableTransportPacket port s) := by
  unfold execUnreliableTransportPacket
  exact atPort_outInv h (fun x1 h1 => inv_ite (State.inv_with h1) h1)

/-! #### Manage -/

theorem execPartitionTrapVectorSet_outInv {p : ℕ} {addr : Word} {s : State} (h : s.Inv) : OutInv (execPartitionTrapVectorSet p addr s) := by
  unfold execPartitionTrapVectorSet
  exact byManager_outInv h (fun x1 h1 => State.onPart_inv h1)

/-! #### Fabric -/

theorem State.onLink_inv {s : State} {l : ℕ} {f : Link → Link} (h : s.Inv) : (s.onLink l f).Inv := by
  unfold State.onLink
  exact State.inv_with h

theorem State.onPair_inv {s : State} {own n : ℕ} {f : Pair → Pair} (h : s.Inv) : (s.onPair own n f).Inv := by
  unfold State.onPair
  exact State.inv_with h

theorem State.resendWhere_inv {s : State} {own n : ℕ} {f : Txn → Bool} (h : s.Inv) : (s.resendWhere own n f).Inv := by
  unfold State.resendWhere
  dsimp only
  exact State.onPair_inv (State.inv_with h)

theorem State.sendHeld_inv {s : State} (h : s.Inv) : s.sendHeld.Inv := by
  unfold State.sendHeld
  exact foldl_inv (fun x1 x2 h1 => inv_ite (State.resendWhere_inv h1) h1) h

theorem State.linkTrained_inv {s : State} {l : ℕ} (h : s.Inv) : (s.linkTrained l).Inv := by
  unfold State.linkTrained
  exact State.sendHeld_inv (State.onLink_inv h)

/-! #### Manage -/

theorem State.trainLinks_inv {s : State} {k : BootParts} (h : s.Inv) : (s.trainLinks k).Inv := by
  unfold State.trainLinks
  dsimp only
  refine foldl_inv ?_ ?_
  · exact fun x1 x2 h1 => State.note_inv h1
  · exact foldl_inv (fun x1 x2 h1 => State.note_inv h1) (State.inv_with (foldl_inv (fun x1 x2 h1 => State.linkTrained_inv h1) h))

/-! #### Power -/

theorem State.regrant_inv {s : State} (h : s.Inv) : s.regrant.Inv := by
  unfold State.regrant
  exact foldl_inv (fun x1 x2 h1 => foldl_inv (fun x3 x4 h2 => State.onClu_inv h2) h1) h

theorem State.setRings_inv {s : State} {f : Form} (h : s.Inv) : (s.setRings f).Inv := by
  unfold State.setRings
  exact foldl_inv (fun x1 x2 h1 => State.onClu_inv h1) h

/-! #### Access -/

theorem State.sendFrom_inv {s : State} {own chip kind : ℕ} {f : Flit} {who : Option Origin} (h : s.Inv) : (s.sendFrom own chip kind f who).Inv := by
  unfold State.sendFrom
  dsimp only
  exact State.inv_with h

theorem State.sendLater_inv {s : State} {own chip kind : ℕ} {f : Flit} (h : s.Inv) : (s.sendLater own chip kind f).Inv := by
  unfold State.sendLater
  exact inv_ite (State.sendFrom_inv h) (State.inv_with h)

/-! #### EngData -/

theorem State.vpoison_inv {s : State} {pcl p va n : ℕ} (h : s.Inv) : (s.vpoison pcl p va n).Inv := by
  unfold State.vpoison
  refine foldl_inv ?_ ?_
  · intro x1 x2 h1
    split
    · exact h1
    · exact inv_ite h1 (State.inv_with h1)
  · exact h

theorem poisonAt_inv {s : State} {k : Cmd} {d : SideK} {a n : ℕ} (h : s.Inv) : (poisonAt s k d a n).Inv := by
  unfold poisonAt
  refine inv_ite ?_ ?_
  · exact h
  · split
    · exact State.onCtx_inv h
    · exact State.onClu_inv h
    · exact State.vpoison_inv h
    · exact h

/-! #### Collective -/

theorem poisonSpans_inv {k : Cmd} {s : State} (h : s.Inv) : (poisonSpans k s).Inv := by
  unfold poisonSpans
  dsimp only
  exact inv_ite h (poisonAt_inv h)

theorem State.collAborted_inv {s : State} {p pcl cid : ℕ} (h : s.Inv) : (s.collAborted p pcl cid).Inv := by
  unfold State.collAborted
  dsimp only
  refine inv_ite ?_ ?_
  · exact h
  · split
    · exact State.onClu_inv h
    · split
      · exact h
      · refine State.onClu_inv ?_
        split
        · exact h
        · exact poisonSpans_inv h

theorem State.collTell_inv {s : State} {c : Coll} (h : s.Inv) : (s.collTell c).Inv := by
  unfold State.collTell
  refine foldl_inv ?_ ?_
  · intro x1 x2 h1
    split
    · exact h1
    · exact inv_ite (State.collAborted_inv h1) (inv_ite h1 (State.sendLater_inv h1))
  · exact h

theorem State.collLost_inv {s : State} {pcl : ℕ} {k : Cmd} (h : s.Inv) : (s.collLost pcl k).Inv := by
  unfold State.collLost
  refine inv_ite ?_ ?_
  · exact h
  · split
    · exact State.collTell_inv (State.onClu_inv h)
    · exact h

/-! #### Resets -/

theorem State.abortColl_inv {s : State} {pcl : ℕ} (h : s.Inv) : (s.abortColl pcl).Inv := by
  unfold State.abortColl
  refine foldl_inv ?_ ?_
  · intro x1 x2 h1
    split
    · exact inv_ite (State.collTell_inv h1) h1
    · exact State.collLost_inv h1
  · exact h

/-! #### Ops -/

theorem State.coverLine_inv {key : ℕ × ℕ × ℕ × ℕ} {pa n : ℕ} {s : State} {u : ℕ} (h : s.Inv) : (State.coverLine key pa n s u).Inv := by
  unfold State.coverLine
  refine inv_ite ?_ ?_
  · exact h
  · dsimp only
    exact inv_ite (State.inv_with h) (State.inv_with h)

theorem State.coverRow_inv {s : State} {t : Transit} (h : s.Inv) : (s.coverRow t).Inv := by
  unfold State.coverRow
  split
  · exact h
  · exact inv_ite h (foldl_inv (fun x3 x4 h2 => State.coverLine_inv h2) h)

theorem State.ringMail_inv {s : State} {pa n : ℕ} (h : s.Inv) : (s.ringMail pa n).Inv := by
  unfold State.ringMail
  exact State.inv_with h

theorem State.onCmd_inv {s : State} {pcl e num : ℕ} {f : Cmd → Cmd} (h : s.Inv) : (s.onCmd pcl e num f).Inv := by
  unfold State.onCmd
  exact State.onClu_inv h

theorem State.tell_inv {s : State} {who : Origin} {v : Word} {st : Stamp} {flt : Option (BitVec 8)} (h : s.Inv) : (s.tell who v st flt).Inv := by
  unfold State.tell
  split
  · dsimp only
    split
    · exact State.onCtx_inv h
    · exact State.onClu_inv (State.onCtx_inv h)
  · exact State.onCmd_inv h
  · exact h
  · exact h

theorem State.applyOne_inv {s : State} {t : Transit} {err : Bool} (h : s.Inv) : (s.applyOne t err).Inv := by
  unfold State.applyOne
  dsimp only
  refine inv_ite ?_ ?_
  · exact State.tell_inv (State.inv_with h)
  · split
    · exact State.tell_inv (State.ringMail_inv (State.coverRow_inv (applyBytes_inv (State.inv_with h))))
    · exact inv_ite (State.tell_inv (State.inv_with h)) (State.tell_inv (State.ringMail_inv (applyBytes_inv (State.inv_with h))))

theorem State.flush_inv {s : State} {st : Stamp} (h : s.Inv) : (s.flush st).Inv := by
  unfold State.flush
  exact foldl_inv (fun x1 x2 h1 => inv_ite (State.applyOne_inv h1) h1) h

/-! #### Access -/

theorem State.drainOne_inv {s : State} {pcl : ℕ} {b : Buffered} (h : s.Inv) : (s.drainOne pcl b).Inv := by
  unfold State.drainOne
  dsimp only
  exact State.inv_with (foldl_inv (fun x1 x2 h1 => State.onCtx_inv h1) (State.onClu_inv (State.stampWrite_inv h)))

theorem State.drainWith_inv {s : State} {pcl : ℕ} {b : Buffered} (h : s.Inv) : (s.drainWith pcl b).Inv := by
  unfold State.drainWith
  exact foldl_inv (fun x1 x2 h1 => State.drainOne_inv h1) h

theorem drainFirst_inv {pcl : ℕ} {p : Buffered → Bool} {n : ℕ} {s : State} (h : s.Inv) : (drainFirst pcl p n s).Inv := by
  induction n generalizing s with
  | zero => exact h
  | succ n ih =>
    unfold drainFirst
    split
    · exact ih (State.drainWith_inv h)
    · exact h

theorem State.drainAll_inv {s : State} {pcl : ℕ} {p : Buffered → Bool} (h : s.Inv) : (s.drainAll pcl p).Inv := by
  unfold State.drainAll
  exact drainFirst_inv h

/-! #### Resets -/

theorem State.drainCluster_inv {s : State} {pcl : ℕ} (h : s.Inv) : (s.drainCluster pcl).Inv := by
  unfold State.drainCluster
  dsimp only
  exact foldl_inv (fun x1 x2 h1 => State.flush_inv h1) (State.drainAll_inv h)

theorem State.clearCtx_inv {s : State} {c : CtxLoc} (h : s.Inv) : (s.clearCtx c).Inv := by
  unfold State.clearCtx
  dsimp only
  exact State.onCtx_inv h

theorem State.resetCluster_inv {s : State} {pcl : ℕ} (h : s.Inv) : (s.resetCluster pcl).Inv := by
  unfold State.resetCluster
  obtain ⟨hm, ho, hs, hc, hp⟩ := State.onClu_inv (pcl := pcl) (f := Cluster.reset)
    (foldl_inv (f := State.clearCtx) (fun _ _ h => State.clearCtx_inv h) (l := (s.contexts.filter fun e => e.1.pcl = pcl).map Prod.fst) h)
  exact ⟨hm, ho, twf_filter hs, hc, hp⟩

theorem State.cutCluster_inv {s : State} {pcl : ℕ} (h : s.Inv) : (s.cutCluster pcl).Inv := by
  unfold State.cutCluster
  exact State.inv_with h

theorem State.resetClusters_inv {s : State} {l : List ℕ} (h : s.Inv) : (s.resetClusters l).Inv := by
  unfold State.resetClusters
  refine foldl_inv ?_ ?_
  · exact fun x1 x2 h1 => State.cutCluster_inv h1
  · refine foldl_inv ?_ ?_
    · exact fun x1 x2 h1 => State.resetCluster_inv h1
    · exact foldl_inv (fun x1 x2 h1 => State.drainCluster_inv h1) (foldl_inv (fun x1 x2 h1 => State.abortColl_inv h1) h)

theorem State.partReset_inv {s : State} {p : ℕ} (h : s.Inv) : (s.partReset p).Inv := by
  unfold State.partReset
  dsimp only
  exact State.inv_with (State.onPart_inv (State.resetClusters_inv h))

/-! #### Manage -/

theorem State.formPart_inv {s : State} {p : ℕ} {f : Form} (h : s.Inv) : (s.formPart p f).Inv := by
  unfold State.formPart
  refine inv_ite ?_ ?_
  · exact h
  · dsimp only
    exact State.regrant_inv (State.setRings_inv (State.inv_with (State.onPart_inv (State.resetClusters_inv (State.setPart_inv (inv_ite
      (State.partReset_inv h) h))))))

theorem State.lastStage_inv {s : State} (h : s.Inv) : s.lastStage.Inv := by
  unfold State.lastStage
  dsimp only
  exact State.regrant_inv (State.inv_with (foldl_inv (fun x1 x2 h1 => State.formPart_inv h1) h))

theorem State.bootOn_inv {s : State} {i : FwImage} {k : BootParts} (h : s.Inv) : (s.bootOn i k).Inv := by
  unfold State.bootOn
  dsimp only
  split
  · exact State.inv_with h
  · exact State.lastStage_inv (State.trainLinks_inv (State.inv_with h))

theorem execRecoveryCommand_outInv {k : Recovery} {s : State} (h : s.Inv) : OutInv (execRecoveryCommand k s) := by
  unfold execRecoveryCommand
  split
  · exact outInv_next (State.bootOn_inv (State.inv_with h))
  · exact outInv_next h

/-! #### Fabric -/

theorem execReservedKindFlit_outInv {kind : ℕ} {s : State} (h : s.Inv) : OutInv (execReservedKindFlit kind s) := by
  unfold execReservedKindFlit
  split
  · exact outInv_next (State.inv_with h)
  · exact outInv_next h

/-! #### Fetch -/

theorem State.cacheLine_inv {s : State} {l : ILine} (h : s.Inv) : (s.cacheLine l).Inv := by
  unfold State.cacheLine
  dsimp only
  refine inv_ite ?_ ?_
  · exact State.inv_with h
  · split
    · exact State.inv_with h
    · exact h

theorem State.fetchLine_inv {s : State} {c : CtxLoc} {va : ℕ} (h : s.Inv) : (s.fetchLine c va).Inv := by
  unfold State.fetchLine
  dsimp only
  refine inv_ite ?_ ?_
  · exact h
  · split
    · exact State.noteWalk_inv h
    · exact inv_ite h (State.cacheLine_inv h)

/-! #### Ops -/

theorem atCtx_outInv {c : CtxLoc} {s : State} {f : State → State} (hs : s.Inv) (h : ∀ y0, y0.Inv → (f y0).Inv) : OutInv (atCtx c s f) := by
  unfold atCtx
  exact noObject_outInv hs (fun x1 h1 => outInv_next (h _ h1))

/-! #### Fetch -/

theorem execInstructionLineFetch_outInv {c : CtxLoc} {va : Word} {s : State} (h : s.Inv) : OutInv (execInstructionLineFetch c va s) := by
  unfold execInstructionLineFetch
  exact atCtx_outInv h (fun x1 h1 => State.fetchLine_inv h1)

/-! #### Ops -/

theorem State.sampleNat_inv {s : State} {pcl src n : ℕ} (h : s.Inv) : (s.sampleNat pcl src n).Inv := by
  unfold State.sampleNat
  exact State.sample_inv h

/-! #### Leave -/

theorem State.periodic_inv {s : State} {pcl : ℕ} (h : s.Inv) : (s.periodic pcl).Inv := by
  unfold State.periodic
  dsimp only
  exact State.sampleNat_inv (State.sampleNat_inv (State.sampleNat_inv h))

/-! #### Ops -/

theorem atClu_outInv {pcl : ℕ} {s : State} {f : State → State} (hs : s.Inv) (h : ∀ y0, y0.Inv → (f y0).Inv) : OutInv (atClu pcl s f) := by
  unfold atClu
  exact noObject_outInv hs (fun x1 h1 => outInv_next (h _ h1))

/-! #### Leave -/

theorem execMonitorPeriodicSample_outInv {pcl : ℕ} {s : State} (h : s.Inv) : OutInv (execMonitorPeriodicSample pcl s) := by
  unfold execMonitorPeriodicSample
  exact atClu_outInv h (fun x1 h1 => inv_ite h1 (State.periodic_inv h1))

/-! #### Fabric -/

theorem atLink_outInv {l : ℕ} {s : State} {f : State → State} (hs : s.Inv) (h : ∀ y0, y0.Inv → (f y0).Inv) : OutInv (atLink l s f) := by
  unfold atLink
  refine noObject_outInv ?_ ?_
  · exact hs
  · intro x1 h1
    split
    · exact outInv_next h1
    · exact outInv_next (h _ h1)

theorem execLinkRetrainComplete_outInv {l : ℕ} {s : State} (h : s.Inv) : OutInv (execLinkRetrainComplete l s) := by
  unfold execLinkRetrainComplete
  exact atLink_outInv h (fun x1 h1 => inv_ite (State.linkTrained_inv h1) h1)

/-! #### Manage -/

theorem State.dumpCtx_inv {s : State} {c : CtxLoc} (h : s.Inv) : (s.dumpCtx c).Inv := by
  unfold State.dumpCtx
  refine foldl_inv ?_ ?_
  · intro x1 x2 h1
    dsimp only
    exact State.inv_with (State.logWait_inv h1)
  · exact h

theorem execPartitionDump_outInv {p : ℕ} {s : State} (h : s.Inv) : OutInv (execPartitionDump p s) := by
  unfold execPartitionDump
  exact byManager_outInv h (fun x1 h1 => foldl_inv (fun x2 x3 h2 => State.dumpCtx_inv h2) h1)

theorem execReplayCaptureStart_outInv {p buffer : ℕ} {s : State} (h : s.Inv) : OutInv (execReplayCaptureStart p buffer s) := by
  unfold execReplayCaptureStart
  exact byManager_outInv h (fun x1 h1 => inv_ite (State.onPart_inv h1) h1)

theorem State.scrub_inv {s : State} {page : ℕ} (h : s.Inv) : (s.scrub page).Inv := by
  unfold State.scrub
  split
  · exact h
  · exact State.inv_of_mem h (zeroBytes_wf h.1) rfl rfl rfl rfl

theorem execPageScrub_outInv {page : ℕ} {s : State} (h : s.Inv) : OutInv (execPageScrub page s) := by
  unfold execPageScrub
  refine noObject_outInv ?_ ?_
  · exact h
  · intro x1 h1
    split
    · exact outInv_next h1
    · exact outInv_next (State.scrub_inv h1)

theorem execTranslationInvalidation_outInv {p : ℕ} {lo hi : Word} {s : State} (h : s.Inv) : OutInv (execTranslationInvalidation p lo hi s) := by
  unfold execTranslationInvalidation
  exact byManager_outInv h (fun x1 h1 => State.inv_with h1)

theorem execExpertEnableSet_outInv {p : ℕ} {on : Bool} {s : State} (h : s.Inv) : OutInv (execExpertEnableSet p on s) := by
  unfold execExpertEnableSet
  exact byManager_outInv h (fun x1 h1 => State.onPart_inv h1)

theorem execPartitionForm_outInv {p : ℕ} {f : Form} {s : State} (h : s.Inv) : OutInv (execPartitionForm p f s) := by
  unfold execPartitionForm
  exact atPart_outInv h (fun x1 h1 => State.formPart_inv h1)

theorem execAttestationRequest_outInv {nonce : BitVec 256} {s : State} (h : s.Inv) : OutInv (execAttestationRequest nonce s) := by
  unfold execAttestationRequest
  split
  · exact outInv_next h
  · dsimp only
    exact outInv_next (State.inv_with h)

theorem poweredOn_inv {s : State} : (poweredOn s).Inv := ⟨rfl, rfl, rfl, rfl, rfl⟩

theorem execPowerUp_outInv {main recovery : Option FwImage} {parts : BootParts} {s : State} (h : s.Inv) :
    OutInv (execPowerUp main recovery parts s) := by
  unfold execPowerUp
  dsimp only
  split
  · exact outInv_next (State.bootOn_inv (poweredOn_inv ))
  · exact outInv_next (State.inv_with (poweredOn_inv ))

/-! #### Power -/

theorem State.recover_inv {s : State} {hottest : BitVec 8} (h : s.Inv) : (s.recover hottest).Inv := by
  unfold State.recover
  refine inv_ite ?_ ?_
  · exact h
  · dsimp only
    refine foldl_inv ?_ ?_
    · exact fun x1 x2 h1 => State.onClu_inv h1
    · refine State.regrant_inv ?_
      refine foldl_inv ?_ ?_
      · intro x1 x2 h1
        split
        · exact State.setRings_inv h1
        · exact h1
      · exact foldl_inv (fun x1 x2 h1 => State.partReset_inv h1) (State.inv_with h)

theorem execTripRecovery_outInv {hottest : BitVec 8} {s : State} (h : s.Inv) : OutInv (execTripRecovery hottest s) := by
  unfold execTripRecovery
  exact outInv_next (State.recover_inv h)

theorem State.trip_inv {s : State} {pcl : ℕ} {temp : BitVec 8} (h : s.Inv) : (s.trip pcl temp).Inv := by
  obtain ⟨hm, -, -, -, hp⟩ := h
  exact ⟨hm, rfl, rfl, twf_tset rfl, hp⟩

theorem execThermalTrip_outInv {pcl : ℕ} {temp : BitVec 8} {s : State} (h : s.Inv) : OutInv (execThermalTrip pcl temp s) := by
  unfold execThermalTrip
  exact atClu_outInv h (fun x1 h1 => inv_ite (State.trip_inv h1) h1)

theorem execBiasSelection_outInv {pcl : ℕ} {code : BitVec 4} {s : State} (h : s.Inv) : OutInv (execBiasSelection pcl code s) := by
  unfold execBiasSelection
  exact atClu_outInv h (fun x1 h1 => inv_ite h1 (State.onClu_inv h1))

theorem State.correct_inv {s : State} {mean : ℕ} (h : s.Inv) : (s.correct mean).Inv := by
  unfold State.correct
  exact foldl_inv (fun x1 x2 h1 => foldl_inv (fun x3 x4 h2 => State.onClu_inv h2) h1) h

theorem State.measure_inv {s : State} {mean : ℕ} {below : Bool} (h : s.Inv) : (s.measure mean below).Inv := by
  unfold State.measure
  refine inv_ite ?_ ?_
  · exact h
  · refine inv_ite ?_ ?_
    · dsimp only
      exact State.inv_with (State.correct_inv h)
    · exact inv_ite (State.regrant_inv (State.inv_with h)) h

theorem execPowerMeasurement_outInv {mean : ℕ} {below : Bool} {s : State} (h : s.Inv) : OutInv (execPowerMeasurement mean below s) := by
  unfold execPowerMeasurement
  exact outInv_next (State.measure_inv h)

theorem State.floorRequest_inv {s : State} {p watts : ℕ} (h : s.Inv) : (s.floorRequest p watts).Inv := by
  unfold State.floorRequest
  exact inv_ite h (State.regrant_inv (State.onPart_inv h))

theorem execFloorRequest_outInv {p watts : ℕ} {s : State} (h : s.Inv) : OutInv (execFloorRequest p watts s) := by
  unfold execFloorRequest
  exact atPart_outInv h (fun x1 h1 => State.floorRequest_inv h1)

/-! #### Ops -/

theorem State.sendAdd_inv {s : State} {who own id : ℕ} {inc : Word} {set err : Bool} {st : Stamp} {die : Option ℕ} (h : s.Inv) :
    (s.sendAdd who own id inc set err st die).Inv := by
  unfold State.sendAdd
  dsimp only
  exact State.inv_with h

/-! #### Power -/

theorem State.pwrSignal_inv {s : State} {p : ℕ} (h : s.Inv) : (s.pwrSignal p).Inv := by
  unfold State.pwrSignal
  dsimp only
  exact inv_ite h (State.sendAdd_inv (State.stampWrite_inv h))

theorem State.forceFloors_inv {s : State} {cap : ℕ} (h : s.Inv) : (s.forceFloors cap).Inv := by
  unfold State.forceFloors
  dsimp only
  exact foldl_inv (fun x1 x2 h1 => inv_ite (State.pwrSignal_inv (State.onPart_inv h1)) (State.onPart_inv h1)) h

theorem State.acceptCap_inv {s : State} {cap : ℕ} {clamped : Bool} {status : ℕ} (h : s.Inv) : (s.acceptCap cap clamped status).Inv := by
  unfold State.acceptCap
  exact State.regrant_inv (State.inv_with h)

theorem State.capRequest_inv {s : State} {cap : ℕ} {force authority : Bool} (h : s.Inv) : (s.capRequest cap force authority).Inv := by
  unfold State.capRequest
  dsimp only
  refine inv_ite ?_ ?_
  · exact h
  · refine inv_ite ?_ ?_
    · exact State.inv_with h
    · exact inv_ite (inv_ite (State.acceptCap_inv (State.forceFloors_inv h)) (State.inv_with h)) (State.acceptCap_inv h)

theorem execCapRequest_outInv {cap : ℕ} {force authority : Bool} {s : State} (h : s.Inv) : OutInv (execCapRequest cap force authority s) := by
  unfold execCapRequest
  exact outInv_next (State.capRequest_inv h)

/-! #### Ops -/

theorem State.settleMemory_inv {s : State} {die : ℕ} {obs : Stamp} (h : s.Inv) : (s.settleMemory die obs).Inv := by
  unfold State.settleMemory
  exact State.flush_inv h

/-! #### Weights -/

theorem State.orBit_inv {s : State} {p va bit : ℕ} (h : s.Inv) : (s.orBit p va bit).Inv := by
  unfold State.orBit
  split
  · exact State.noteWalk_inv h
  · dsimp only
    exact State.hwWrite_inv (State.settleMemory_inv h)

theorem State.shardOver_inv {s : State} {p : ℕ} {table : Word} {i : ℕ} (h : s.Inv) : (s.shardOver p table i).Inv := by
  unfold State.shardOver
  exact State.onPart_inv h

theorem State.spoilBegun_inv {s : State} {p : ℕ} {table : Word} {i dest : ℕ} (h : s.Inv) : (s.spoilBegun p table i dest).Inv := by
  unfold State.spoilBegun
  split
  · exact h
  · refine foldl_inv ?_ ?_
    · intro x3 x4 h2
      split
      · exact inv_ite h2 (State.inv_with h2)
      · exact h2
    · exact h

theorem State.flagShard_inv {s : State} {p : ℕ} {a : Armed} {w : WTable} {reason : BitVec 8} {i : ℕ} (h : s.Inv) :
    (s.flagShard p a w reason i).Inv := by
  unfold State.flagShard
  dsimp only
  refine State.shardOver_inv ?_
  refine State.orBit_inv ?_
  refine State.vstore_inv ?_
  split
  · exact State.spoilBegun_inv h
  · exact h

/-! #### Ops -/

theorem State.noteRead_inv {α : Type} {s : State} {pcl part : ℕ} {r : Except (BitVec 8 × ℕ) α} (h : s.Inv) : (State.noteRead s pcl part r).Inv := by
  unfold State.noteRead
  split
  · exact inv_ite (State.noteWalk_inv h) h
  · exact h

/-! #### Collective -/

theorem State.noteTable_inv {s : State} {pcl p t : ℕ} (h : s.Inv) : (s.noteTable pcl p t).Inv := by
  unfold State.noteTable
  dsimp only
  split
  · exact State.noteRead_inv h
  · exact inv_ite h (State.noteRead_inv h)

/-! #### Weights -/

theorem State.onTable_inv {s : State} {p t : ℕ} {f : Armed → WTable → State → State} (hs : s.Inv) (h : ∀ y0 y1 y2, y2.Inv → (f y0 y1 y2).Inv) :
    (s.onTable p t f).Inv := by
  unfold State.onTable
  refine inv_ite ?_ ?_
  · exact hs
  · split
    · exact hs
    · split
      · exact State.noteTable_inv hs
      · exact h _ _ _ hs

theorem State.disarm_inv {s : State} {p t : ℕ} (h : s.Inv) : (s.disarm p t).Inv := by
  unfold State.disarm
  exact State.onTable_inv h (fun x1 x2 x3 h1 => inv_ite h1 (State.onPart_inv h1))

theorem State.tableTimeout_inv {s : State} {p t : ℕ} (h : s.Inv) : (s.tableTimeout p t).Inv := by
  unfold State.tableTimeout
  refine State.onTable_inv ?_ ?_
  · exact h
  · exact fun x1 x2 x3 h1 => inv_ite h1 (State.disarm_inv (foldl_inv (fun x4 x5 h2 => State.flagShard_inv h2) h1))

theorem execShardTimeout_outInv {p t : ℕ} {s : State} (h : s.Inv) : OutInv (execShardTimeout p t s) := by
  unfold execShardTimeout
  exact atPart_outInv h (fun x1 h1 => State.tableTimeout_inv h1)

/-! #### Ops -/

theorem State.onFetch_inv {s : State} {p : ℕ} {table : Word} {i : ℕ} {f : Fetch → Fetch} (h : s.Inv) : (s.onFetch p table i f).Inv := by
  unfold State.onFetch
  exact State.onPart_inv h

/-! #### Weights -/

theorem State.shardPiece_inv {s : State} {p : ℕ} {table : Word} {i dest off : ℕ} {bs : List (Byte × Bool)} (h : s.Inv) :
    (s.shardPiece p table i dest off bs).1.Inv := by
  unfold State.shardPiece
  split
  · exact State.noteWalk_inv h
  · dsimp only
    exact inv_ite (State.inv_with (State.onFetch_inv (State.hwWrite_inv h))) (State.onFetch_inv (State.hwWrite_inv h))

theorem writeShard_inv {p : ℕ} {table : Word} {i dest : ℕ} {l : List (ℕ × List (Byte × Bool))} {s : State} (h : s.Inv) :
    (writeShard p table i dest l s).1.Inv := by
  induction l generalizing s with
  | nil => exact h
  | cons e r ih =>
    unfold writeShard
    split
    · rename_i h1
      exact ih (fst_inv h1 (State.shardPiece_inv h))
    · rename_i h1
      exact fst_inv h1 (State.shardPiece_inv h)

theorem State.putShard_inv {s : State} {p : ℕ} {table : Word} {i dest : ℕ} {ps : List (ℕ × List (Byte × Bool))} (h : s.Inv) :
    (s.putShard p table i dest ps).Inv := by
  unfold State.putShard
  split
  · rename_i h1
    exact fst_inv h1 (writeShard_inv h)
  · rename_i h1
    exact State.onFetch_inv (fst_inv h1 (writeShard_inv h))

theorem State.fetchFails_inv {s : State} {p t i : ℕ} {reason : BitVec 8} {data : List Byte} (h : s.Inv) : (s.fetchFails p t i reason data).Inv := by
  unfold State.fetchFails
  refine State.onTable_inv ?_ ?_
  · exact h
  · intro x1 x2 x3 h1
    split
    · exact h1
    · dsimp only
      split
      · exact h1
      · exact inv_ite (State.disarm_inv (State.flagShard_inv (inv_ite (State.putShard_inv h1) h1))) h1

theorem execShardFetchFailure_outInv {p t shard : ℕ} {reason : BitVec 8} {data : List Byte} {s : State} (h : s.Inv) :
    OutInv (execShardFetchFailure p t shard reason data s) := by
  unfold execShardFetchFailure
  exact atPart_outInv h (fun x1 h1 => State.fetchFails_inv h1)

/-! #### Fabric -/

theorem State.noteSpan_inv {s : State} {p va n : ℕ} (h : s.Inv) : (s.noteSpan p va n).Inv := by
  unfold State.noteSpan
  refine inv_ite ?_ ?_
  · exact h
  · split
    · exact State.noteWalk_inv h
    · exact h

/-! #### Weights -/

theorem State.shardPresent_inv {s : State} {p t : ℕ} {a : Armed} {i : ℕ} (h : s.Inv) : (s.shardPresent p t a i).Inv := by
  unfold State.shardPresent
  exact State.disarm_inv (State.shardOver_inv (State.orBit_inv h))

theorem State.fetchWith_inv {s : State} {p t : ℕ} {a : Armed} {w : WTable} {i : ℕ} {d : Shard} {ps : List (ℕ × List (Byte × Bool))} (h : s.Inv) :
    (s.fetchWith p t a w i d ps).Inv := by
  unfold State.fetchWith
  split
  · rename_i h1
    exact State.shardPresent_inv (fst_inv h1 (writeShard_inv h))
  · rename_i h1
    exact State.disarm_inv (State.flagShard_inv (fst_inv h1 (writeShard_inv h)))

theorem State.fetchDone_inv {s : State} {p t i : ℕ} {data : List Byte} (h : s.Inv) : (s.fetchDone p t i data).Inv := by
  unfold State.fetchDone
  refine State.onTable_inv ?_ ?_
  · exact h
  · intro x1 x2 x3 h1
    split
    · exact h1
    · split
      · exact State.disarm_inv (State.flagShard_inv (State.noteRead_inv h1))
      · refine inv_ite ?_ ?_
        · exact State.disarm_inv (State.flagShard_inv h1)
        · refine inv_ite ?_ ?_
          · exact State.disarm_inv (State.flagShard_inv h1)
          · refine inv_ite ?_ ?_
            · exact h1
            · refine inv_ite ?_ ?_
              · exact inv_ite (State.fetchWith_inv h1) h1
              · refine inv_ite ?_ ?_
                · dsimp only
                  exact inv_ite (State.fetchWith_inv h1) h1
                · split
                  · exact State.disarm_inv (State.flagShard_inv (State.noteSpan_inv h1))
                  · exact State.fetchWith_inv h1

theorem execShardFetchComplete_outInv {p t shard : ℕ} {data : List Byte} {s : State} (h : s.Inv) :
    OutInv (execShardFetchComplete p t shard data s) := by
  unfold execShardFetchComplete
  exact atPart_outInv h (fun x1 h1 => State.fetchDone_inv h1)

/-! #### Access -/

theorem State.sendTxn_inv {s : State} {chip kind : ℕ} {f : Flit} {who : Option Origin} (h : s.Inv) : (s.sendTxn chip kind f who).Inv := by
  unfold State.sendTxn
  exact State.sendFrom_inv h

/-! #### Weights -/

theorem State.askFar_inv {s : State} {p : ℕ} {table : Word} {f : Fetch} {d : Shard} (h : s.Inv) : (s.askFar p table f d).Inv := by
  unfold State.askFar
  dsimp only
  refine inv_ite ?_ ?_
  · exact h
  · split
    · exact inv_ite (State.onFetch_inv h) (inv_ite h (State.onFetch_inv (State.sendTxn_inv h)))
    · split
      · exact State.onFetch_inv (State.noteSpan_inv h)
      · exact State.onFetch_inv h
    · exact State.onFetch_inv h

theorem State.sendRead_inv {s : State} {p : ℕ} {d : Shard} (h : s.Inv) : (s.sendRead p d).Inv := by
  unfold State.sendRead
  split
  · exact h
  · exact State.inv_with h

theorem State.fetchStart_inv {s : State} {p t : ℕ} (h : s.Inv) : (s.fetchStart p t).Inv := by
  unfold State.fetchStart
  refine State.onTable_inv ?_ ?_
  · exact h
  · intro x1 x2 x3 h1
    refine inv_ite ?_ ?_
    · exact h1
    · split
      · exact h1
      · dsimp only
        split
        · refine inv_ite ?_ ?_
          · exact State.onPart_inv h1
          · exact inv_ite (State.sendRead_inv (State.onPart_inv h1)) (inv_ite (State.askFar_inv (State.onPart_inv h1)) (State.onPart_inv h1))
        · exact State.noteRead_inv (State.onPart_inv h1)

theorem execShardFetchStart_outInv {p t : ℕ} {s : State} (h : s.Inv) : OutInv (execShardFetchStart p t s) := by
  unfold execShardFetchStart
  exact atPart_outInv h (fun x1 h1 => State.fetchStart_inv h1)

theorem State.armNow_inv {s : State} {p : ℕ} {addr : Word} (h : s.Inv) : (s.armNow p addr).Inv := by
  unfold State.armNow
  dsimp only
  exact inv_ite h (inv_ite h (inv_ite (State.note_inv h) (State.disarm_inv (State.setPart_inv h))))

theorem State.armTable_inv {s : State} {p : ℕ} {addr : Word} (h : s.Inv) : (s.armTable p addr).Inv := by
  unfold State.armTable
  exact inv_ite h (State.armNow_inv (State.vstore_inv h))

theorem execWeightSetArm_outInv {p : ℕ} {addr : Word} {s : State} (h : s.Inv) : OutInv (execWeightSetArm p addr s) := by
  unfold execWeightSetArm
  exact atPart_outInv h (fun x1 h1 => State.armTable_inv h1)

/-! #### Records -/

theorem State.enterReady_inv {s : State} {pcl p launch strand : ℕ} {addr : Word} {prio : BitVec 3} {rd : Option (Reg × Option (ℕ × ℕ))} (h : s.Inv)
    : (s.enterReady pcl p launch strand addr prio rd).Inv := by
  unfold State.enterReady
  dsimp only
  exact State.inv_with (State.onClu_inv h)

theorem State.recordFailed_inv {s : State} {p launch strand : ℕ} {cause : BitVec 8} {addr : Word} (h : s.Inv) :
    (s.recordFailed p launch strand cause addr).Inv := by
  unfold State.recordFailed
  dsimp only
  exact State.inv_with (State.loseRecord_inv (State.countEnd_inv h))

/-! #### Launches -/

theorem createRecord_inv {s : State} {pcl p id : ℕ} {l : Launch} {obs : Stamp} {i : ℕ} (h : s.Inv) : (createRecord s pcl p id l obs i).1.Inv := by
  unfold createRecord
  dsimp only
  split
  · exact State.noteRead_inv h
  · exact State.vstore_inv h

theorem makeRecord_inv {pcl p id : ℕ} {l : Launch} {obs : Stamp} {a : State × List ℕ} {j : ℕ} (h : a.1.Inv) :
    (makeRecord pcl p id l obs a j).1.Inv := by
  unfold makeRecord
  split
  · rename_i h1
    exact fst_inv h1 (createRecord_inv h)
  · rename_i h1
    exact State.recordFailed_inv (fst_inv h1 (createRecord_inv h))

theorem createStrands_inv {pcl p id : ℕ} {l : Launch} {obs : Stamp} {n i : ℕ} {s : State} (h : s.Inv) : (createStrands pcl p id l obs n i s).Inv := by
  induction n generalizing i s with
  | zero => exact h
  | succ n ih =>
    unfold createStrands
    dsimp only
    refine ih ?_
    · refine inv_ite ?_ ?_
      · exact foldl_keeps (P := fun b : State × List ℕ => b.1.Inv) (fun x1 x2 h1 => makeRecord_inv h1) h
      · exact State.enterReady_inv (foldl_keeps (P := fun b : State × List ℕ => b.1.Inv) (fun x1 x2 h1 => makeRecord_inv h1) h)

theorem State.startLaunch_inv {s : State} {pcl p id : ℕ} {l : Launch} {obs : Stamp} (h : s.Inv) : (s.startLaunch pcl p id l obs).Inv := by
  unfold State.startLaunch
  dsimp only
  exact createStrands_inv (State.onPart_inv h)

theorem State.passRecord_inv {s : State} {p k : ℕ} (h : s.Inv) : (s.passRecord p k).Inv := by
  unfold State.passRecord
  split
  · exact h
  · dsimp only
    exact State.onPart_inv (State.vstore_inv h)

theorem State.notifyHost_inv {s : State} {p : ℕ} {q : HostQ} {entry : List Byte} (h : s.Inv) : (s.notifyHost p q entry).Inv := by
  unfold State.notifyHost
  split
  · exact h
  · split
    · exact h
    · exact State.inv_with h

theorem State.complete_inv {s : State} {p k : ℕ} {entry : List Byte} (h : s.Inv) : (s.complete p k entry).Inv := by
  unfold State.complete
  split
  · exact h
  · dsimp only
    exact State.notifyHost_inv (State.onPart_inv (State.vstore_inv (State.vstore_inv h)))

theorem State.refuseRecord_inv {s : State} {p k : ℕ} {idx : BitVec 32} {status : ℕ} {cls : Option ℕ} (h : s.Inv) :
    (s.refuseRecord p k idx status cls).Inv := by
  unfold State.refuseRecord
  dsimp only
  refine State.complete_inv ?_
  refine State.passRecord_inv ?_
  split
  · exact State.inv_with (State.noteRead_inv h)
  · exact h

theorem State.takeRecord_inv {s : State} {p k : ℕ} (h : s.Inv) : (s.takeRecord p k).Inv := by
  unfold State.takeRecord
  split
  · exact h
  · refine inv_ite ?_ ?_
    · exact h
    · split
      · exact h
      · exact State.refuseRecord_inv h
      · refine inv_ite ?_ ?_
        · dsimp only
          exact State.passRecord_inv (State.startLaunch_inv (State.flush_inv (State.stampWrite_inv h)))
        · exact h

theorem execHostLaunchTake_outInv {p q : ℕ} {s : State} (h : s.Inv) : OutInv (execHostLaunchTake p q s) := by
  unfold execHostLaunchTake
  exact atPart_outInv h (fun x1 h1 => State.takeRecord_inv h1)

theorem State.mailbox_inv {s : State} {p k : ℕ} {tail head : BitVec 32} (h : s.Inv) : (s.mailbox p k tail head).Inv := by
  unfold State.mailbox
  split
  · exact h
  · refine inv_ite ?_ ?_
    · exact h
    · dsimp only
      exact inv_ite (State.onPart_inv (State.vstore_inv h)) (State.inv_with (State.onPart_inv (State.vstore_inv h)))

theorem execLaunchMailboxWrite_outInv {p q : ℕ} {tail head : BitVec 32} {s : State} (h : s.Inv) :
    OutInv (execLaunchMailboxWrite p q tail head s) := by
  unfold execLaunchMailboxWrite
  exact atPart_outInv h (fun x1 h1 => State.mailbox_inv h1)

/-! #### Weights -/

theorem State.portDown_inv {s : State} {port : ℕ} (h : s.Inv) : (s.portDown port).Inv := by
  unfold State.portDown
  dsimp only
  exact foldl_inv (fun x1 x2 h1 => State.onPart_inv h1) (State.inv_with h)

theorem execEthernetPortDown_outInv {port : ℕ} {s : State} (h : s.Inv) : OutInv (execEthernetPortDown port s) := by
  unfold execEthernetPortDown
  exact atPort_outInv h (fun x1 h1 => State.portDown_inv h1)

theorem State.nak_inv {s : State} {port qp : ℕ} {invalid : Bool} (h : s.Inv) : (s.nak port qp invalid).Inv := by
  unfold State.nak
  exact State.inv_with h

theorem execRdmaInvalidRequest_outInv {port qp : ℕ} {s : State} (h : s.Inv) : OutInv (execRdmaInvalidRequest port qp s) := by
  unfold execRdmaInvalidRequest
  exact atPort_outInv h (fun x1 h1 => inv_ite (State.nak_inv h1) h1)

theorem State.rdmaRead_inv {s : State} {port qp : ℕ} {key : BitVec 32} {va n : ℕ} (h : s.Inv) : (s.rdmaRead port qp key va n).Inv := by
  unfold State.rdmaRead
  refine inv_ite ?_ ?_
  · exact h
  · split
    · exact State.nak_inv h
    · split
      · exact State.nak_inv (State.noteSpan_inv h)
      · dsimp only
        exact inv_ite (State.nak_inv h) (State.inv_with h)

theorem execRdmaRead_outInv {port qp : ℕ} {key : BitVec 32} {va : Word} {len : ℕ} {s : State} (h : s.Inv) :
    OutInv (execRdmaRead port qp key va len s) := by
  unfold execRdmaRead
  exact atPort_outInv h (fun x1 h1 => State.rdmaRead_inv h1)

/-! #### Fabric -/

theorem State.writePieces_inv {s : State} {l : List (ℕ × ℕ)} {bs : List (Byte × Bool)} (h : s.Inv) : (s.writePieces l bs).Inv := by
  induction l generalizing s bs with
  | nil => exact h
  | cons e r ih =>
    unfold State.writePieces
    dsimp only
    exact ih (State.hwWrite_inv h)


/-! #### Weights -/

theorem State.mailboxes_inv {s : State} {p va n : ℕ} (h : s.Inv) : (s.mailboxes p va n).Inv := by
  unfold State.mailboxes
  dsimp only
  refine foldl_inv ?_ ?_
  · intro x1 x2 h1
    refine inv_ite ?_ ?_
    · split
      · exact State.mailbox_inv h1
      · exact h1
    · exact h1
  · refine inv_ite ?_ ?_
    · split
      · exact State.armNow_inv h
      · exact h
    · exact h

theorem State.rdmaWrite_inv {s : State} {port qp : ℕ} {key : BitVec 32} {va : ℕ} {bs : List Byte} (h : s.Inv) :
    (s.rdmaWrite port qp key va bs).Inv := by
  unfold State.rdmaWrite
  refine inv_ite ?_ ?_
  · exact h
  · split
    · exact State.nak_inv h
    · refine inv_ite ?_ ?_
      · exact State.nak_inv h
      · split
        · exact State.nak_inv (State.noteSpan_inv h)
        · exact State.mailboxes_inv (State.writePieces_inv h)

theorem execRdmaWrite_outInv {port qp : ℕ} {key : BitVec 32} {va : Word} {data : List Byte} {s : State} (h : s.Inv) :
    OutInv (execRdmaWrite port qp key va data s) := by
  unfold execRdmaWrite
  exact atPort_outInv h (fun x1 h1 => State.rdmaWrite_inv h1)

/-! #### Records -/

theorem State.editRecord_inv {s : State} {pcl p launch strand : ℕ} {addr : Word} {st : Stamp} {f : List Byte → List Byte} (h : s.Inv) :
    (s.editRecord pcl p launch strand addr st f).1.Inv := by
  unfold State.editRecord
  dsimp only
  split
  · exact State.recordFailed_inv (State.noteRead_inv h)
  · split
    · exact State.vstore_inv h
    · exact State.recordFailed_inv (State.vstore_inv h)

theorem State.takeExpiry_inv {s : State} {p launch strand : ℕ} (h : s.Inv) : (s.takeExpiry p launch strand).2.Inv := by
  unfold State.takeExpiry
  dsimp only
  split
  · exact h
  · exact State.setPart_inv h

theorem State.wake_inv {s : State} {w : Waiter} (h : s.Inv) : (s.wake w).Inv := by
  unfold State.wake
  dsimp only
  split
  · split
    · exact State.enterReady_inv (State.editRecord_inv (State.takeExpiry_inv (State.inv_with h)))
    · exact State.editRecord_inv (State.takeExpiry_inv (State.inv_with h))
  · split
    · exact State.enterReady_inv (State.editRecord_inv (State.takeExpiry_inv (State.inv_with h)))
    · exact State.editRecord_inv (State.takeExpiry_inv (State.inv_with h))

/-! #### Strands -/

theorem State.register_inv {s : State} {w : Waiter} {rings : Tbl Word} (h : s.Inv) : (s.register w rings).Inv := by
  unfold State.register
  dsimp only
  exact inv_ite (State.wake_inv (State.inv_with h)) (State.inv_with h)

/-! #### Fabric -/

theorem State.bringBack_inv {s : State} {r : Strand} (h : s.Inv) : (s.bringBack r).Inv := by
  unfold State.bringBack
  refine inv_ite ?_ ?_
  · exact h
  · split
    · exact State.recordFailed_inv h
    · exact inv_ite (State.register_inv h) (State.enterReady_inv h)

theorem restoredMem_wf {l : List Host.Cell} {t : List Host.Cell} (h : Memory.wf t = true) :
    Memory.wf (l.foldl (fun t c => if c.1 < Config.memBytes then tset t c.1 c.2 0 else t) t) = true := by
  induction l generalizing t with
  | nil => exact h
  | cons c r ih =>
    rw [List.foldl_cons]
    split
    · exact ih (twf_tset h)
    · exact ih h

theorem State.spareRestore_inv {s : State} {n : ℕ} {gen : BitVec 8} {m : Image} (h : s.Inv) : (s.spareRestore n gen m).Inv := by
  unfold State.spareRestore
  dsimp only
  refine foldl_inv (fun s e hs => State.resendWhere_inv hs) (foldl_inv (fun s e hs => State.bringBack_inv hs)
    (foldl_inv (fun s e hs => State.onPart_inv hs) ?_))
  obtain ⟨-, ho, hs, hc, hp⟩ := h
  exact ⟨restoredMem_wf rfl, ho, hs, hc, hp⟩

theorem execSpareRestore_outInv {n : ℕ} {gen : BitVec 8} {m : Image} {s : State} (h : s.Inv) : OutInv (execSpareRestore n gen m s) := by
  unfold execSpareRestore
  refine noObject_outInv ?_ ?_
  · exact h
  · intro x1 h1
    split
    · exact outInv_next h1
    · exact outInv_next (State.spareRestore_inv h1)

theorem State.resendAll_inv {s : State} {n : ℕ} (h : s.Inv) : (s.resendAll n).Inv := by
  unfold State.resendAll
  exact foldl_inv (fun x1 x2 h1 => State.resendWhere_inv h1) h

/-! #### Engines -/

theorem State.putHead_inv {s : State} {pcl e : ℕ} {k : Cmd} (h : s.Inv) : (s.putHead pcl e k).Inv := by
  unfold State.putHead
  exact State.onClu_inv h

theorem poisonRest_inv {k : Cmd} {s : State} (h : s.Inv) : (poisonRest k s).Inv := by
  unfold poisonRest
  refine foldl_inv ?_ ?_
  · intro x1 x2 h1
    split
    · exact h1
    · exact poisonAt_inv h1
  · exact h

/-! #### EngData -/

theorem State.noteCmd_inv {s : State} {k : Cmd} {code : BitVec 8} (h : s.Inv) : (s.noteCmd k code).Inv := by
  unfold State.noteCmd
  refine inv_ite ?_ ?_
  · exact h
  · split
    · exact State.noteWalk_inv h
    · exact h

/-! #### Access -/

theorem State.sendWrite_inv {s : State} {die : ℕ} {obs : Stamp} {chip kind : ℕ} {f : Flit} {who : Origin} (h : s.Inv) :
    (s.sendWrite die obs chip kind f who).Inv := by
  unfold State.sendWrite
  dsimp only
  exact State.sendTxn_inv (State.inv_with (State.stampWrite_inv h))

/-! #### Engines -/

theorem sendOut_inv {own e : ℕ} {k : Cmd} {s : State} (h : s.Inv) : (sendOut own e k s).2.Inv := by
  unfold sendOut
  refine foldl_keeps (P := fun p : Cmd × State => p.2.Inv) (b := (_, s)) (fun _ _ hp => ?_) h
  exact State.sendWrite_inv hp

theorem State.cmdFails_inv {s : State} {pcl e : ℕ} {code : BitVec 8} {k : Cmd} (h : s.Inv) : (s.cmdFails pcl e code k).Inv := by
  unfold State.cmdFails
  dsimp only
  split
  · exact State.collTell_inv (State.putHead_inv (State.onClu_inv (poisonSpans_inv (inv_ite (poisonRest_inv (sendOut_inv (State.noteCmd_inv h)))
      (sendOut_inv (State.noteCmd_inv h))))))
  · exact State.putHead_inv (inv_ite (poisonRest_inv (sendOut_inv (State.noteCmd_inv h))) (sendOut_inv (State.noteCmd_inv h)))

/-! #### Fabric -/

theorem State.cmdFar_inv {s : State} {pcl e num : ℕ} {counted : Bool} (h : s.Inv) : (s.cmdFar pcl e num counted).Inv := by
  unfold State.cmdFar
  split
  · exact h
  · refine inv_ite ?_ ?_
    · dsimp only
      exact inv_ite (State.putHead_inv h) (State.cmdFails_inv h)
    · exact h

theorem State.landed_inv {s : State} {t : Txn} (h : s.Inv) : (s.landed t).Inv := by
  unfold State.landed
  split
  · exact State.inv_with h
  · exact h

theorem State.txnFails_inv {s : State} {t : Txn} (h : s.Inv) : (s.txnFails t).Inv := by
  unfold State.txnFails
  dsimp only
  split
  · exact State.landed_inv h
  · exact State.cmdFar_inv (State.landed_inv h)
  · exact State.onFetch_inv (State.landed_inv h)
  · exact State.tell_inv (State.landed_inv h)

theorem State.forget_inv {s : State} {n : ℕ} (h : s.Inv) : (s.forget n).Inv := by
  unfold State.forget
  dsimp only
  exact foldl_inv (fun x1 x2 h1 => State.txnFails_inv h1) (State.inv_with h)

theorem State.writeEntry_inv {s : State} {n : ℕ} {e : IdEntry} (h : s.Inv) : (s.writeEntry n e).Inv := by
  unfold State.writeEntry
  dsimp only
  exact inv_ite (State.forget_inv (State.inv_with h)) (inv_ite (State.resendAll_inv (State.inv_with h)) (State.inv_with h))

theorem execIdentityEntryWrite_outInv {n : ℕ} {e : IdEntry} {s : State} (h : s.Inv) : OutInv (execIdentityEntryWrite n e s) := by
  unfold execIdentityEntryWrite
  refine noObject_outInv ?_ ?_
  · exact h
  · intro x1 h1
    split
    · exact outInv_next h1
    · exact outInv_next (State.writeEntry_inv h1)

/-! #### Save -/

theorem State.sendPieces_inv {s : State} {c : CtxLoc} {base : ℕ} {l : List (ℕ × List Byte × Bool)} (h : s.Inv) : (s.sendPieces c base l).1.Inv := by
  induction l generalizing s with
  | nil => exact h
  | cons e r ih =>
    obtain ⟨o, bs, bad⟩ := e
    unfold State.sendPieces
    split
    · rename_i h1
      exact ih (fst_inv h1 (State.sendSave_inv h))
    · rename_i h2
      exact fst_inv h2 (State.sendSave_inv h)

theorem State.streamSave_inv {s : State} {c : CtxLoc} {reason : BitVec 8} {pc : Word} (h : s.Inv) : (s.streamSave c reason pc).1.Inv := by
  unfold State.streamSave
  dsimp only
  exact State.sendPieces_inv (State.inv_with h)

theorem State.writeSave_inv {s : State} {c : CtxLoc} {reason : BitVec 8} {pc : Word} (h : s.Inv) : (s.writeSave c reason pc).1.Inv := by
  unfold State.writeSave
  dsimp only
  exact State.settleMemory_inv (State.streamSave_inv h)

/-! #### Lunit -/

theorem finishHead_inv {g : Eng} {c : CtxLoc} {i : Item} {qs : List ℕ} {s : State} (h : s.Inv) : (finishHead g c i qs s).Inv := by
  unfold finishHead
  dsimp only
  split
  · exact State.setCtx_inv h
  · exact State.raise_inv (State.setCtx_inv h)

/-! #### VSpecial -/

theorem overV_inv {c : CtxLoc} {i : Item} {r : VRun} {s : State} (h : s.Inv) : (overV c i r s).Inv := by
  unfold overV
  dsimp only
  exact finishHead_inv (State.setCtx_inv (inv_ite (State.sampleNat_inv h) h))

theorem State.contest_inv {s : State} {c : CtxLoc} {i : Item} {picks : ℕ} (h : s.Inv) : (s.contest c i picks).1.Inv := by
  unfold State.contest
  split
  · exact h
  · dsimp only
    exact State.setSub_inv h

theorem readRowsV_inv {c : CtxLoc} {w : VWord} {m : Option ℕ} {l : List ℕ} {a : State × VRun × Item} (h : a.1.Inv) : (readRowsV c w m l a).1.Inv := by
  induction l generalizing a with
  | nil => exact h
  | cons e r ih =>
    obtain ⟨s, run, i⟩ := a
    unfold readRowsV
    split
    · exact h
    · dsimp only
      exact ih (State.contest_inv (State.inv_with h))

theorem stopV_inv {c : CtxLoc} {n : ℕ} {s : State} (h : s.Inv) : (stopV c n s).Inv := by
  unfold stopV
  split
  · exact h
  · dsimp only
    exact inv_ite (overV_inv (readRowsV_inv h)) (State.setCtx_inv (readRowsV_inv h))

/-! #### Matrix -/

theorem overM_inv {c : CtxLoc} {i : Item} {x : Context} {s : State} (h : s.Inv) : (overM c i x s).Inv := by
  unfold overM
  exact finishHead_inv (State.setCtx_inv h)

theorem endSwap_inv {c : CtxLoc} {i : Item} {f : MF} {x : Context} {s : State} (h : s.Inv) : (endSwap c i f x s).Inv := by
  unfold endSwap
  split
  · exact overM_inv h
  · exact State.raise_inv (State.setCtx_inv h)

theorem endM_inv {c : CtxLoc} {k : ℕ} {i : Item} {sig : Option ℕ} {s : State} (h : s.Inv) : (endM c k i sig s).Inv := by
  unfold endM
  split
  · refine inv_ite ?_ ?_
    · exact endSwap_inv (State.onClu_inv h)
    · dsimp only
      split
      · split
        · exact State.raise_inv (State.setCtx_inv (State.onClu_inv h))
        · exact State.setCtx_inv (State.onClu_inv h)
      · exact inv_ite (endSwap_inv (State.onClu_inv h)) (overM_inv (State.onClu_inv h))
  · dsimp only
    split
    · exact overM_inv h
    · exact overM_inv h
    · split
      · exact overM_inv h
      · exact State.raise_inv (State.setCtx_inv h)
    · exact h

theorem stopEach_inv {c : CtxLoc} {l : List ℕ} {s : State} (h : s.Inv) : (stopEach c l s).Inv := by
  induction l generalizing s with
  | nil => exact h
  | cons e r ih =>
    unfold stopEach
    split
    · exact h
    · exact ih (endM_inv h)

theorem stopM_inv {c : CtxLoc} {sigs : List ℕ} {s : State} (h : s.Inv) : (stopM c sigs s).Inv := by
  unfold stopM
  exact stopEach_inv h

/-! #### Access -/

theorem State.releaseDrain_inv {s : State} {c : CtxLoc} {sc : Scope} (h : s.Inv) : (s.releaseDrain c sc).Inv := by
  unfold State.releaseDrain
  split
  · exact h
  · exact h
  · exact h
  · exact State.drainAll_inv h

/-! #### Strands -/

theorem State.writeRecord_inv {s : State} {c : CtxLoc} {pc : Word} {state flags count cause : ℕ} (h : s.Inv) :
    (s.writeRecord c pc state flags count cause).1.Inv := by
  unfold State.writeRecord
  dsimp only
  split
  · exact State.vstore_inv (State.flush_inv (State.stampWrite_inv (State.releaseDrain_inv h)))
  · exact State.endStrand_inv (State.onCtx_inv (State.vstore_inv (State.flush_inv (State.stampWrite_inv (State.releaseDrain_inv h)))))

theorem State.savedRecord_inv {s : State} {c : CtxLoc} {forced : Bool} {pc : Word} (h : s.Inv) : (s.savedRecord c forced pc).1.Inv := by
  unfold State.savedRecord
  dsimp only
  refine State.writeRecord_inv ?_
  split
  · exact State.takeExpiry_inv h
  · exact h

/-! #### Fabric -/

theorem State.saveFor_inv {s : State} {c : CtxLoc} (h : s.Inv) : (s.saveFor c).Inv := by
  unfold State.saveFor
  split
  · exact inv_ite (State.writeRecord_inv h) (State.savedRecord_inv h)
  · exact State.writeRecord_inv h
  · dsimp only
    refine inv_ite ?_ ?_
    · exact State.settle_inv (State.onCtx_inv (stopM_inv (stopV_inv h)))
    · split
      · rename_i h3
        exact fst_inv h3 (State.writeSave_inv (State.settle_inv (State.onCtx_inv (stopM_inv (stopV_inv h)))))
      · rename_i h3
        exact State.savedRecord_inv (fst_inv h3 (State.writeSave_inv (State.settle_inv (State.onCtx_inv (stopM_inv (stopV_inv h))))))

theorem execCheckpointCommit_outInv {p : ℕ} {s : State} (h : s.Inv) : OutInv (execCheckpointCommit p s) := by
  unfold execCheckpointCommit
  exact atPart_outInv h (fun x1 h1 => inv_ite h1 (State.inv_with h1))

/-! #### Collective -/

theorem State.collTimeout_inv {s : State} {pcl : ℕ} (h : s.Inv) : (s.collTimeout pcl).Inv := by
  unfold State.collTimeout
  split
  · exact h
  · split
    · exact h
    · refine inv_ite ?_ ?_
      · exact h
      · dsimp only
        exact State.collTell_inv (State.onClu_inv (poisonSpans_inv h))

theorem execCollectiveTimeout_outInv {pcl : ℕ} {s : State} (h : s.Inv) : OutInv (execCollectiveTimeout pcl s) := by
  unfold execCollectiveTimeout
  exact atClu_outInv h (fun x1 h1 => State.collTimeout_inv h1)

/-! #### Fabric -/

theorem State.sendWaiting_inv {n : ℕ} {s : State} (h : s.Inv) : (State.sendWaiting n s).Inv := by
  induction n generalizing s with
  | zero => exact h
  | succ n ih =>
    unfold State.sendWaiting
    split
    · exact h
    · exact inv_ite h (ih (State.sendFrom_inv (State.inv_with h)))

theorem State.txnApplied_inv {s : State} {t : Txn} (h : s.Inv) : (s.txnApplied t).Inv := by
  unfold State.txnApplied
  refine inv_ite ?_ ?_
  · exact h
  · dsimp only
    split
    · exact State.tell_inv (State.onCmd_inv (State.landed_inv h))
    · exact State.tell_inv (State.landed_inv h)
    · exact State.landed_inv h

theorem State.takeAck_inv {s : State} {own n : ℕ} {ack : BitVec 32} (h : s.Inv) : (s.takeAck own n ack).Inv := by
  unfold State.takeAck
  dsimp only
  exact State.sendWaiting_inv (foldl_inv (fun x1 x2 h1 => State.txnApplied_inv h1) (State.onPair_inv h))

/-! #### Collective -/

theorem State.collArrive_inv {s : State} {p pcl : ℕ} {m : CollMsg} (h : s.Inv) : (s.collArrive p pcl m).Inv := by
  unfold State.collArrive
  exact inv_ite h (State.onClu_inv h)

/-! #### Fabric -/

theorem State.reply_inv {s : State} {f : Flit} {kind : ℕ} {g : Flit} {failed : Bool} (h : s.Inv) : (s.reply f kind g failed).Inv := by
  unfold State.reply
  exact inv_ite h (State.sendLater_inv h)

theorem State.replyAtom_inv {s : State} {f : Flit} {old : ℕ} {bad failed : Bool} (h : s.Inv) : (s.replyAtom f old bad failed).Inv := by
  unfold State.replyAtom
  exact State.reply_inv h

theorem State.farSignal_inv {s : State} {f : Flit} (h : s.Inv) : (s.farSignal f).Inv := by
  unfold State.farSignal
  dsimp only
  exact inv_ite (State.replyAtom_inv h) (State.sendAdd_inv (State.flush_inv (State.stampWrite_inv h)))

theorem State.txnReply_inv {s : State} {t : Txn} {f : Flit} (h : s.Inv) : (s.txnReply t f).Inv := by
  unfold State.txnReply
  dsimp only
  split
  · exact State.onCtx_inv (State.landed_inv h)
  · exact State.onCmd_inv (State.landed_inv h)
  · exact State.onCmd_inv (State.landed_inv h)
  · exact State.onFetch_inv (State.landed_inv h)
  · exact State.landed_inv h

theorem State.answered_inv {s : State} {f : Flit} (h : s.Inv) : (s.answered f).Inv := by
  unfold State.answered
  dsimp only
  split
  · exact inv_ite (State.txnFails_inv (State.onPair_inv h)) (State.txnReply_inv (State.onPair_inv h))
  · split
    · exact inv_ite h (State.txnFails_inv (State.onPair_inv h))
    · exact h

theorem State.farAtomic_inv {s : State} {f : Flit} (h : s.Inv) : (s.farAtomic f).Inv := by
  unfold State.farAtomic
  dsimp only
  split
  · exact inv_ite (State.replyAtom_inv (State.settleMemory_inv h)) (State.replyAtom_inv (State.hwWrite_inv (State.settleMemory_inv h)))
  · exact State.replyAtom_inv (State.noteSpan_inv h)

theorem State.replyRead_inv {s : State} {f : Flit} {bs : List (Byte × Bool)} {failed : Bool} (h : s.Inv) : (s.replyRead f bs failed).Inv := by
  unfold State.replyRead
  exact State.reply_inv h

theorem State.effect_inv {s : State} {kind : ℕ} {f : Flit} (h : s.Inv) : (s.effect kind f).Inv := by
  unfold State.effect
  refine inv_ite ?_ ?_
  · split
    · exact State.replyRead_inv h
    · exact State.replyRead_inv (State.noteSpan_inv h)
  · refine inv_ite ?_ ?_
    · split
      · exact State.writePieces_inv h
      · exact State.replyAtom_inv (State.noteSpan_inv h)
    · refine inv_ite ?_ ?_
      · exact State.farAtomic_inv h
      · refine inv_ite ?_ ?_
        · exact State.answered_inv h
        · refine inv_ite ?_ ?_
          · exact State.farSignal_inv h
          · exact inv_ite (inv_ite (State.collArrive_inv h) h) (inv_ite (inv_ite (State.collAborted_inv h) h) h)

theorem State.applyTxn_inv {s : State} {kind : ℕ} {f : Flit} (h : s.Inv) : (s.applyTxn kind f).Inv := by
  unfold State.applyTxn
  dsimp only
  exact State.takeAck_inv (State.onPair_inv (State.effect_inv h))

theorem State.applyNext_inv {own m n : ℕ} {s : State} (h : s.Inv) : (State.applyNext own m n s).Inv := by
  induction n generalizing s with
  | zero => exact h
  | succ n ih =>
    unfold State.applyNext
    dsimp only
    split
    · exact h
    · exact ih (State.applyTxn_inv (State.onPair_inv h))

theorem State.numbered_inv {s : State} {kind : ℕ} {f : Flit} (h : s.Inv) : (s.numbered kind f).Inv := by
  unfold State.numbered
  dsimp only
  exact inv_ite (State.applyNext_inv (State.applyTxn_inv h)) (inv_ite (State.onPair_inv (State.resendWhere_inv h)) (inv_ite (State.onPair_inv h) h))

theorem State.linkGood_inv {s : State} {n : ℕ} (h : s.Inv) : (s.linkGood n).Inv := by
  unfold State.linkGood
  dsimp only
  exact inv_ite h (State.inv_with h)

theorem State.receive_inv {s : State} {kind : ℕ} {f : Flit} (h : s.Inv) : (s.receive kind f).Inv := by
  unfold State.receive
  dsimp only
  refine inv_ite ?_ ?_
  · exact State.linkGood_inv h
  · exact inv_ite (State.numbered_inv (State.linkGood_inv h)) (inv_ite (State.takeAck_inv (State.linkGood_inv h)) (State.linkGood_inv h))

theorem execVoid_outInv {f : Flit} {s : State} (h : s.Inv) : OutInv (execVoid f s) := by
  unfold execVoid
  exact outInv_next (State.receive_inv h)

theorem execCollectiveAbort_outInv {f : Flit} {s : State} (h : s.Inv) : OutInv (execCollectiveAbort f s) := by
  unfold execCollectiveAbort
  exact outInv_next (State.receive_inv h)

theorem execCollectiveData_outInv {f : Flit} {s : State} (h : s.Inv) : OutInv (execCollectiveData f s) := by
  unfold execCollectiveData
  exact outInv_next (State.receive_inv h)

theorem execAcknowledgmentOnly_outInv {f : Flit} {s : State} (h : s.Inv) : OutInv (execAcknowledgmentOnly f s) := by
  unfold execAcknowledgmentOnly
  exact outInv_next (State.receive_inv h)

theorem execEventSignal_outInv {f : Flit} {s : State} (h : s.Inv) : OutInv (execEventSignal f s) := by
  unfold execEventSignal
  exact outInv_next (State.receive_inv h)

theorem execAtomicReply_outInv {f : Flit} {s : State} (h : s.Inv) : OutInv (execAtomicReply f s) := by
  unfold execAtomicReply
  exact outInv_next (State.receive_inv h)

theorem execAtomicRequest_outInv {f : Flit} {s : State} (h : s.Inv) : OutInv (execAtomicRequest f s) := by
  unfold execAtomicRequest
  exact outInv_next (State.receive_inv h)

theorem execWrite_outInv {f : Flit} {s : State} (h : s.Inv) : OutInv (execWrite f s) := by
  unfold execWrite
  exact outInv_next (State.receive_inv h)

theorem execReadReply_outInv {f : Flit} {s : State} (h : s.Inv) : OutInv (execReadReply f s) := by
  unfold execReadReply
  exact outInv_next (State.receive_inv h)

theorem execReadRequest_outInv {f : Flit} {s : State} (h : s.Inv) : OutInv (execReadRequest f s) := by
  unfold execReadRequest
  exact outInv_next (State.receive_inv h)

theorem execRetransmitTimeout_outInv {dst : ℕ} {seq : BitVec 32} {s : State} (h : s.Inv) : OutInv (execRetransmitTimeout dst seq s) := by
  unfold execRetransmitTimeout
  split
  · exact outInv_next h
  · exact outInv_next (foldl_inv (fun x1 x2 h2 => State.resendWhere_inv h2) h)

theorem State.linkReset_inv {s : State} {l : ℕ} (h : s.Inv) : (s.linkReset l).Inv := by
  unfold State.linkReset
  exact State.onLink_inv h

theorem execFlitCrcFailure_outInv {l : ℕ} {s : State} (h : s.Inv) : OutInv (execFlitCrcFailure l s) := by
  unfold execFlitCrcFailure
  refine atLink_outInv ?_ ?_
  · exact h
  · intro x1 h1
    dsimp only
    exact inv_ite (State.inv_with (State.linkReset_inv (State.inv_with (State.onLink_inv h1)))) (State.inv_with (State.onLink_inv h1))

theorem State.txnLost_inv {s : State} {t : Txn} (h : s.Inv) : (s.txnLost t).Inv := by
  unfold State.txnLost
  dsimp only
  refine State.txnFails_inv ?_
  split
  · exact State.onFetch_inv h
  · exact h

theorem State.voidPair_inv {s : State} {own n : ℕ} (h : s.Inv) : (s.voidPair own n).Inv := by
  unfold State.voidPair
  dsimp only
  exact foldl_inv (fun x1 x2 h1 => State.txnLost_inv h1) (State.onPair_inv h)

theorem State.linkDown_inv {s : State} {l : ℕ} (h : s.Inv) : (s.linkDown l).Inv := by
  unfold State.linkDown
  dsimp only
  exact inv_ite h (foldl_inv (fun x1 x2 h1 => State.voidPair_inv h1) (State.inv_with (State.onLink_inv h)))

theorem execLinkDown_outInv {l : ℕ} {s : State} (h : s.Inv) : OutInv (execLinkDown l s) := by
  unfold execLinkDown
  exact atLink_outInv h (fun x1 h1 => State.linkDown_inv h1)

theorem execLinkReset_outInv {l : ℕ} {s : State} (h : s.Inv) : OutInv (execLinkReset l s) := by
  unfold execLinkReset
  exact atLink_outInv h (fun x1 h1 => State.linkReset_inv h1)

/-! #### Engines -/

theorem State.clearSlots_inv {s : State} {pcl : ℕ} (h : s.Inv) : (s.clearSlots pcl).Inv := by
  unfold State.clearSlots
  exact State.onClu_inv h

/-! #### EngData -/

theorem poisonBegun_inv {k : Cmd} {s : State} (h : s.Inv) : (poisonBegun k s).Inv := by
  unfold poisonBegun
  refine foldl_inv ?_ ?_
  · intro x1 x2 h1
    split
    · exact h1
    · split
      · exact inv_ite (poisonAt_inv h1) h1
      · exact h1
  · exact h

theorem State.poisonFarBegun_inv {s : State} {own e : ℕ} {k : Cmd} (h : s.Inv) : (s.poisonFarBegun own e k).Inv := by
  unfold State.poisonFarBegun
  refine foldl_inv ?_ ?_
  · intro x1 x2 h1
    dsimp only
    exact State.onCmd_inv (State.inv_with (State.sendWrite_inv h1))
  · exact h

/-! #### Engines -/

theorem State.resetColl_inv {s : State} {pcl : ℕ} {k : Cmd} (h : s.Inv) : (s.resetColl pcl k).Inv := by
  unfold State.resetColl
  split
  · exact h
  · exact State.collTell_inv (State.onClu_inv (poisonSpans_inv h))

theorem State.stopRunning_inv {s : State} {pcl e : ℕ} {k : Cmd} (h : s.Inv) : (s.stopRunning pcl e k).Inv := by
  unfold State.stopRunning
  exact inv_ite (State.collLost_inv h) (inv_ite h (State.resetColl_inv (State.poisonFarBegun_inv (poisonBegun_inv h))))

theorem State.dropRewrites_inv {s : State} {pcl e : ℕ} (h : s.Inv) : (s.dropRewrites pcl e).Inv := by
  unfold State.dropRewrites
  exact foldl_inv (fun x1 x2 h1 => State.onClu_inv h1) h

theorem State.endQueue_inv {s : State} {pcl e : ℕ} (h : s.Inv) : (s.endQueue pcl e).Inv := by
  unfold State.endQueue
  dsimp only
  exact State.onClu_inv (State.dropRewrites_inv (foldl_inv (fun x1 x2 h1 => State.stopRunning_inv h1) h))

theorem State.signal_inv {s : State} {pcl e : ℕ} {k : Cmd} {id : ℕ} {inc : Word} {err wide : Bool} (h : s.Inv) :
    (s.signal pcl e k id inc err wide).Inv := by
  unfold State.signal
  dsimp only
  refine State.sendAdd_inv ?_
  split
  · exact State.stampWrite_inv h
  · exact h

/-! #### Sync -/

theorem State.testQueues_inv {s : State} {pcl : ℕ} (h : s.Inv) : (s.testQueues pcl).Inv := by
  unfold State.testQueues
  exact State.onClu_inv h

/-! #### System -/

theorem State.raiseLate_inv {s : State} {c : CtxLoc} {m : Mark} (h : s.Inv) : (s.raiseLate c m).Inv := by
  unfold State.raiseLate
  dsimp only
  exact State.raise_inv (State.onCtx_inv h)

theorem State.releaseLate_inv {s : State} {c : CtxLoc} {id : ℕ} {m : Option Mark} (h : s.Inv) : (s.releaseLate c id m).Inv := by
  unfold State.releaseLate
  split
  · refine inv_ite ?_ ?_
    · dsimp only
      split
      · exact State.onCtx_inv h
      · exact State.raiseLate_inv (State.onCtx_inv h)
    · exact h
  · exact h

theorem State.pushLate_inv {s : State} {c : CtxLoc} {q : ℕ} {m : Option Mark} (h : s.Inv) : (s.pushLate c q m).Inv := by
  unfold State.pushLate
  dsimp only
  exact inv_ite (State.setCtx_inv h) (State.raiseLate_inv h)

/-! #### Engines -/

theorem State.deliverCmd_inv {s : State} {k : Cmd} (h : s.Inv) : (s.deliverCmd k).Inv := by
  unfold State.deliverCmd
  dsimp only
  refine inv_ite ?_ ?_
  · exact State.inv_with h
  · refine inv_ite ?_ ?_
    · exact State.onCtx_inv (State.inv_with h)
    · refine inv_ite ?_ ?_
      · exact State.releaseLate_inv (foldl_inv (fun x1 x2 h1 => State.pushLate_inv h1) (inv_ite (State.onCtx_inv (State.inv_with h)) (State.inv_with
          h)))
      · exact foldl_inv (fun x1 x2 h1 => State.pushLate_inv h1) (inv_ite (State.onCtx_inv (State.inv_with h)) (State.inv_with h))

theorem State.signals_inv {s : State} {pcl e : ℕ} {k : Cmd} (h : s.Inv) : (s.signals pcl e k).Inv := by
  unfold State.signals
  refine inv_ite ?_ ?_
  · exact h
  · refine foldl_inv ?_ ?_
    · intro x1 x2 h1
      dsimp only
      exact inv_ite h1 (State.signal_inv h1)
    · exact h

/-! #### EngCheck -/

theorem State.flip_inv {s : State} {c : CtxLoc} {grans : List ℕ} {rgs : List (ℕ × ℕ)} {v : Bool} (h : s.Inv) : (s.flip c grans rgs v).Inv := by
  unfold State.flip
  dsimp only
  exact foldl_inv (fun x1 x2 h1 => State.onClu_inv h1) (State.onCtx_inv h)

/-! #### Engines -/

theorem State.complete1_inv {s : State} {pcl e : ℕ} {k : Cmd} (h : s.Inv) : (s.complete1 pcl e k).Inv := by
  unfold State.complete1
  dsimp only
  refine State.testQueues_inv ?_
  refine foldl_inv ?_ ?_
  · exact fun x1 x2 h1 => State.signal_inv h1
  · exact State.signals_inv (State.deliverCmd_inv (State.onClu_inv (inv_ite (State.onClu_inv (State.flip_inv (State.onCtx_inv (inv_ite h
      (State.onCtx_inv h))))) (State.flip_inv (State.onCtx_inv (inv_ite h (State.onCtx_inv h)))))))

theorem State.resetOver_inv {s : State} {pcl e : ℕ} (h : s.Inv) : (s.resetOver pcl e).Inv := by
  unfold State.resetOver
  exact inv_ite (State.onClu_inv h) h

theorem State.cmdComplete_inv {s : State} {pcl e : ℕ} (h : s.Inv) : (s.cmdComplete pcl e).Inv := by
  unfold State.cmdComplete
  split
  · exact h
  · exact inv_ite (State.resetOver_inv (State.complete1_inv h)) h

theorem State.completeAll_inv {pcl e n : ℕ} {s : State} (h : s.Inv) : (State.completeAll pcl e n s).Inv := by
  induction n generalizing s with
  | zero => exact h
  | succ n ih =>
    unfold State.completeAll
    exact ih (State.cmdComplete_inv h)

theorem State.engReset_inv {s : State} {pcl e : ℕ} (h : s.Inv) : (s.engReset pcl e).Inv := by
  unfold State.engReset
  dsimp only
  exact inv_ite (State.clearSlots_inv (inv_ite h (State.completeAll_inv (State.endQueue_inv h)))) (inv_ite h (State.completeAll_inv
    (State.endQueue_inv h)))

theorem execEngineReset_outInv {pcl : ℕ} {e : CEng} {s : State} (h : s.Inv) : OutInv (execEngineReset pcl e s) := by
  unfold execEngineReset
  refine atClu_outInv ?_ ?_
  · exact h
  · intro x1 h1
    split
    · exact h1
    · exact State.engReset_inv h1

/-! #### Resets -/

theorem execPartitionReset_outInv {p : ℕ} {s : State} (h : s.Inv) : OutInv (execPartitionReset p s) := by
  unfold execPartitionReset
  exact atPart_outInv h (fun x1 h1 => inv_ite (State.partReset_inv h1) h1)

/-! #### Leave -/

theorem spoilM_someInv {c : CtxLoc} {s : State} (h : s.Inv) : SomeInv id (spoilM c s) := by
  unfold spoilM
  split
  · exact someInv_none
  · dsimp only
    split
    · split
      · exact someInv_map_state fun x => State.onCtx_inv (State.setCtx_inv (State.onClu_inv h))
      · split
        · exact someInv_none
        · exact someInv_some (State.setCtx_inv (State.onClu_inv h))
        · split
          · exact someInv_some (State.setCtx_inv (State.onClu_inv h))
          · exact someInv_some (State.onCtx_inv (State.setCtx_inv (State.onClu_inv h)))
    · split
      · exact someInv_some (State.onCtx_inv (State.setCtx_inv h))
      · exact someInv_map_state fun x => State.onCtx_inv (State.setCtx_inv h)
      · exact someInv_none

theorem spoilV_someInv {c : CtxLoc} {s : State} (h : s.Inv) : SomeInv id (spoilV c s) := by
  unfold spoilV
  split
  · exact someInv_none
  · dsimp only
    split
    · exact someInv_none
    · split
      · split
        · exact someInv_none
        · exact someInv_some (State.setCtx_inv (readRowsV_inv h))
      · split
        · split
          · exact someInv_none
          · exact someInv_some (State.setCtx_inv (readRowsV_inv h))
        · split
          · exact someInv_none
          · exact someInv_some (State.setCtx_inv (readRowsV_inv h))

theorem execTimingReplayFailure_outInv {c : CtxLoc} {en : Eng} {s : State} (h : s.Inv) : OutInv (execTimingReplayFailure c en s) := by
  unfold execTimingReplayFailure
  refine atCtx_outInv h fun s h => ?_
  dsimp only
  split
  · exact h
  · split
    · exact h
    · exact h
    · rename_i t _ ht
      have hti : t.Inv := by
        split at ht
        · exact spoilV_someInv h t ht
        · exact spoilM_someInv h t ht
      exact State.raise_inv (State.inv_with hti)


/-! #### Lunit -/

theorem countFreeze_inv {s : State} {pcl sub n : ℕ} (h : s.Inv) : (countFreeze s pcl sub n).Inv := by
  unfold countFreeze
  exact State.sampleNat_inv (foldl_inv (fun x1 x2 h1 => State.onCtx_inv h1) h)

/-! #### Leave -/

theorem execTimingError_outInv {c : CtxLoc} {en : Eng} {s : State} (h : s.Inv) : OutInv (execTimingError c en s) := by
  unfold execTimingError
  refine atCtx_outInv ?_ ?_
  · exact h
  · intro x1 h1
    dsimp only
    exact inv_ite h1 (countFreeze_inv (State.inv_with h1))

theorem State.snapDone_inv {s : State} {pcl : ℕ} (h : s.Inv) : (s.snapDone pcl).Inv := by
  unfold State.snapDone
  dsimp only
  exact inv_ite h (State.onClu_inv (inv_ite (foldl_inv (fun x1 x2 h1 => State.vstore_inv h1) h) h))

theorem execMonitorSnapshotDone_outInv {pcl : ℕ} {s : State} (h : s.Inv) : OutInv (execMonitorSnapshotDone pcl s) := by
  unfold execMonitorSnapshotDone
  exact atClu_outInv h (fun x1 h1 => State.snapDone_inv h1)

/-! #### Records -/

theorem State.wakeAll_inv {s : State} {f : Waiter → Bool} (h : s.Inv) : (s.wakeAll f).Inv := by
  unfold State.wakeAll
  exact foldl_inv (fun x1 x2 h1 => State.wake_inv h1) h

/-! #### Launches -/

theorem State.wakePool_inv {s : State} {p id : ℕ} (h : s.Inv) : (s.wakePool p id).Inv := by
  unfold State.wakePool
  exact State.wakeAll_inv h

/-! #### Sync -/

theorem State.testAll_inv {s : State} (h : s.Inv) : s.testAll.Inv := by
  unfold State.testAll
  exact foldl_inv (fun x1 x2 h1 => State.testQueues_inv h1) h

/-! #### Ops -/

theorem State.acted_inv {s : State} {p kind place who : ℕ} (h : s.Inv) : (s.acted p kind place who).Inv := by
  unfold State.acted
  dsimp only
  exact inv_ite (State.onPart_inv (inv_ite (applyBytes_inv h) h)) h

/-! #### Sync -/

theorem State.applyAdd_inv {s : State} {a : EvAdd} (h : s.Inv) : (s.applyAdd a).Inv := by
  unfold State.applyAdd
  dsimp only
  refine State.wakeAll_inv ?_
  refine State.testAll_inv ?_
  refine foldl_inv ?_ ?_
  · exact fun x1 x2 h1 => State.onCtx_inv h1
  · split
    · exact State.acted_inv (State.onClu_inv (State.inv_with h))
    · exact State.onClu_inv (State.inv_with h)

/-! #### Launches -/

theorem State.endLaunch_inv {s : State} {p id : ℕ} (h : s.Inv) : (s.endLaunch p id).Inv := by
  unfold State.endLaunch
  split
  · exact h
  · dsimp only
    refine inv_ite ?_ ?_
    · exact h
    · refine State.wakePool_inv ?_
      split
      · refine inv_ite ?_ ?_
        · exact foldl_inv (fun x4 x5 h3 => State.onClu_inv h3) (State.inv_with (State.onPart_inv h))
        · split
          · exact State.applyAdd_inv (State.flush_inv (State.stampWrite_inv (foldl_inv (fun x4 x5 h4 => State.onClu_inv h4) (State.inv_with
              (State.onPart_inv h)))))
          · exact State.sendAdd_inv (State.stampWrite_inv (foldl_inv (fun x4 x5 h4 => State.onClu_inv h4) (State.inv_with (State.onPart_inv h))))
      · refine State.complete_inv ?_
        refine inv_ite ?_ ?_
        · exact foldl_inv (fun x6 x7 h3 => State.onClu_inv h3) (State.inv_with (State.onPart_inv h))
        · split
          · exact State.applyAdd_inv (State.flush_inv (State.stampWrite_inv (foldl_inv (fun x6 x7 h4 => State.onClu_inv h4) (State.inv_with
              (State.onPart_inv h)))))
          · exact State.sendAdd_inv (State.stampWrite_inv (foldl_inv (fun x6 x7 h4 => State.onClu_inv h4) (State.inv_with (State.onPart_inv h))))

theorem execLaunchEnd_outInv {p id : ℕ} {s : State} (h : s.Inv) : OutInv (execLaunchEnd p id s) := by
  unfold execLaunchEnd
  exact atPart_outInv h (fun x1 h1 => State.endLaunch_inv h1)

theorem State.beginSave_inv {s : State} {c : CtxLoc} {reason : BitVec 8} {forced waiting : Bool} {cause : BitVec 32} {pc : Word} {thr : BitVec 32}
    (h : s.Inv) : (s.beginSave c reason forced waiting cause pc thr).Inv := by
  unfold State.beginSave
  dsimp only
  exact inv_ite h (State.settle_inv (State.onCtx_inv h))

theorem State.poolFull_inv {s : State} {r : LaunchReq} (h : s.Inv) : (s.poolFull r).Inv := by
  unfold State.poolFull
  dsimp only
  exact inv_ite h (inv_ite (State.raise_inv (State.onCtx_inv h)) (State.beginSave_inv (State.onCtx_inv h)))

theorem State.launchReply_inv {s : State} {r : LaunchReq} {v : Word} (h : s.Inv) : (s.launchReply r v).Inv := by
  unfold State.launchReply
  dsimp only
  exact inv_ite (inv_ite (State.waitEnd_inv (State.onCtx_inv h)) (State.onCtx_inv h)) h

theorem execLaunchPoolAccept_outInv {k : ℕ} {s : State} (h : s.Inv) : OutInv (execLaunchPoolAccept k s) := by
  unfold execLaunchPoolAccept
  split
  · exact outInv_next h
  · dsimp only
    split
    · exact outInv_next h
    · split
      · exact outInv_next (State.launchReply_inv (State.inv_with h))
      · split
        · exact outInv_next (State.launchReply_inv (inv_ite (State.inv_with (State.noteRead_inv (State.inv_with h))) (State.noteRead_inv
            (State.inv_with h))))
        · split
          · exact outInv_next (State.launchReply_inv (State.inv_with h))
          · split
            · exact outInv_next (State.launchReply_inv (State.startLaunch_inv (State.inv_with h)))
            · split
              · exact outInv_next (State.launchReply_inv (State.inv_with h))
              · split
                · exact outInv_next (State.inv_with h)
                · exact outInv_next (State.poolFull_inv (State.inv_with h))

/-! #### Engines -/

theorem execEngineCommandCompletion_outInv {pcl : ℕ} {e : CEng} {s : State} (h : s.Inv) : OutInv (execEngineCommandCompletion pcl e s) := by
  unfold execEngineCommandCompletion
  exact atClu_outInv h (fun x1 h1 => State.cmdComplete_inv h1)

/-! #### Ops -/

theorem State.sampleFree_inv {s : State} {pcl src : ℕ} (h : s.Inv) : (s.sampleFree pcl src).Inv := by
  unfold State.sampleFree
  dsimp only
  exact State.inv_with (State.sample_inv h)

/-! #### Engines -/

theorem chunkSample_inv {s t : State} {pcl : ℕ} (hs : s.Inv) (h : t.Inv) : (chunkSample s t pcl).Inv := by
  unfold chunkSample
  exact inv_ite (State.sampleFree_inv h) h

/-! #### EngData -/

theorem writeMoss_okInv {s : State} {own : ℕ} {k : Cmd} {p a n v : ℕ} {bad : Bool} (h : s.Inv) : OkInv Prod.snd (writeMoss s own k p a n v bad) := by
  unfold writeMoss
  split
  · exact okInv_error 
  · dsimp only
    split
    · exact okInv_error 
    · refine okInv_ok ?_
      refine State.setClu_inv ?_
      refine inv_ite ?_ ?_
      · split
        · exact h
        · exact State.stampWrite_inv h
      · refine State.flush_inv ?_
        split
        · exact h
        · exact State.stampWrite_inv h

theorem withGot_inv {g : Got} {k : Cmd} {s : State} {f : ℕ → Bool → Cmd → State → Prog} (hs : s.Inv)
    (h : ∀ y0 y1 y2 y3, y3.Inv → (f y0 y1 y2 y3).st.Inv) : (withGot g k s f).st.Inv := by
  unfold withGot
  split
  · exact Prog.fail_inv hs
  · exact Prog.need_inv hs
  · exact Prog.hold_inv hs
  · exact h _ _ _ _ hs

/-! #### Ops -/

theorem fillTlb_inv {s : State} {pcl part va : ℕ} (h : s.Inv) : (fillTlb s pcl part va).Inv := by
  unfold fillTlb
  dsimp only
  refine inv_ite ?_ ?_
  · exact h
  · split
    · exact State.inv_with h
    · exact h

theorem State.engWrite_inv {s : State} {die : ℕ} {obs : Stamp} {pa : ℕ} {bs : List Byte} {bad : Bool} (h : s.Inv) :
    (s.engWrite die obs pa bs bad).Inv := by
  unfold State.engWrite
  dsimp only
  exact State.ringMail_inv (applyBytes_inv (State.flush_inv (State.stampWrite_inv h)))

/-! #### EngData -/

theorem famoStep_inv {own e : ℕ} {k : Cmd} {s : State} (h : s.Inv) : (famoStep own e k s).st.Inv := by
  unfold famoStep
  dsimp only
  split
  · split
    · exact Prog.fail_inv h
    · exact Prog.ok_inv (State.sendWrite_inv h)
  · split
    · exact Prog.fail_inv h
    · split
      · exact Prog.hold_inv h
      · exact Prog.ok_inv (State.engWrite_inv (fillTlb_inv (State.settleMemory_inv h)))
  · split
    · exact Prog.hold_inv h
    · refine withGot_inv ?_ ?_
      · exact h
      · intro x3 x4 x5 x6 h3
        split
        · exact Prog.fail_inv h3
        · rename_i h4
          exact Prog.ok_inv (writeMoss_okInv (State.acted_inv h3) _ h4)
  · exact Prog.fail_inv h

theorem writeDev_okInv {s : State} {own : ℕ} {k : Cmd} {va n v : ℕ} {bad : Bool} (h : s.Inv) : OkInv Prod.snd (writeDev s own k va n v bad) := by
  unfold writeDev
  split
  · exact okInv_error 
  · dsimp only
    exact okInv_ok (inv_ite (State.inv_with (State.engWrite_inv (fillTlb_inv h))) (State.engWrite_inv (fillTlb_inv h)))

theorem writeGran_okInv {s : State} {k : Cmd} {a n v : ℕ} {bad : Bool} {f : Fmt} (h : s.Inv) : OkInv Prod.snd (writeGran s k a n v bad f) := by
  unfold writeGran
  dsimp only
  split
  · exact okInv_ok (State.setCtx_inv h)
  · exact okInv_error 

theorem writeAt_okInv {s : State} {own : ℕ} {k : Cmd} {d : SideK} {a n v : ℕ} {bad : Bool} {f : Fmt} (h : s.Inv) :
    OkInv Prod.snd (writeAt s own k d a n v bad f) := by
  unfold writeAt
  split
  · exact writeGran_okInv h
  · exact writeMoss_okInv h
  · exact writeDev_okInv h
  · split
    · exact okInv_error 
    · exact okInv_ok h

theorem wrote_inv {r : Except (BitVec 8) (Cmd × State)} {k : Cmd} {s : State} {n : ℕ} {bad : Bool} (hr : OkInv Prod.snd r) (h : s.Inv) :
    (wrote r k s n bad).st.Inv := by
  unfold wrote
  split
  · exact h
  · exact hr _ rfl

theorem storeElem_inv {own : ℕ} {k : Cmd} {s : State} {d : SideK} {a n v : ℕ} {bad : Bool} {f : Fmt} (h : s.Inv) :
    (storeElem own k s d a n v bad f).st.Inv := by
  unfold storeElem
  split
  · exact Prog.hold_inv h
  · exact wrote_inv (writeAt_okInv h) h

theorem addAt_inv {own e : ℕ} {k : Cmd} {s : State} {d : SideK} {a v : ℕ} {bad : Bool} (h : s.Inv) : (addAt own e k s d a v bad).st.Inv := by
  unfold addAt
  dsimp only
  split
  · split
    · exact Prog.fail_inv h
    · exact Prog.ok_inv (State.sendWrite_inv h)
  · split
    · split
      · exact Prog.hold_inv h
      · refine withGot_inv ?_ ?_
        · dsimp only
          exact h
        · intro x4 x5 x6 x7 h3
          refine storeElem_inv ?_
          dsimp only
          exact State.acted_inv h3
    · split
      · exact Prog.hold_inv h
      · refine withGot_inv ?_ ?_
        · split
          · exact State.settleMemory_inv h
          · exact h
        · intro x3 x4 x5 x6 h4
          refine storeElem_inv ?_
          dsimp only
          exact h4

theorem withIndex_inv {k : Cmd} {s : State} {f : ℕ → Cmd → State → Prog} (hs : s.Inv) (h : ∀ y0 y1 y2, y2.Inv → (f y0 y1 y2).st.Inv) :
    (withIndex k s f).st.Inv := by
  unfold withIndex
  dsimp only
  split
  · exact h _ _ _ hs
  · refine withGot_inv ?_ ?_
    · exact hs
    · intro x1 x2 x3 x4 h2
      split
      · exact Prog.fail_inv h2
      · exact h _ _ _ h2

theorem rowStep_inv {own e : ℕ} {k : Cmd} {s : State} (h : s.Inv) : (rowStep own e k s).st.Inv := by
  unfold rowStep
  dsimp only
  refine withIndex_inv ?_ ?_
  · exact h
  · intro x1 x2 x3 h1
    refine withGot_inv ?_ ?_
    · exact h1
    · intro x4 x5 x6 x7 h2
      split
      · exact addAt_inv h2
      · exact storeElem_inv h2

theorem refreshStep_inv {own e : ℕ} {k : Cmd} {s : State} (h : s.Inv) : (refreshStep own e k s).st.Inv := by
  unfold refreshStep
  dsimp only
  split
  · exact Prog.ok_inv (State.onClu_inv h)
  · exact Prog.fail_inv h

theorem copyStep_inv {own : ℕ} {k : Cmd} {s : State} (h : s.Inv) : (copyStep own k s).st.Inv := by
  unfold copyStep
  dsimp only
  split
  · exact storeElem_inv h
  · exact withGot_inv h (fun x1 x2 x3 x4 h2 => storeElem_inv h2)

theorem dataStep_inv {own e : ℕ} {k : Cmd} {s : State} (h : s.Inv) : (dataStep own e k s).st.Inv := by
  unfold dataStep
  dsimp only
  split
  · exact copyStep_inv h
  · split
    · exact refreshStep_inv h
    · split
      · exact rowStep_inv h
      · exact famoStep_inv h

theorem runSteps_inv {step : Cmd → State → Prog} {n : ℕ} {k : Cmd} {s : State} (hstep : ∀ k s, s.Inv → (step k s).st.Inv) (h : s.Inv) :
    (runSteps step n k s).st.Inv := by
  induction n generalizing k s with
  | zero => exact h
  | succ n ih =>
    have hs := hstep k s h
    unfold runSteps
    split
    · rename_i k' s' heq
      rw [heq] at hs
      exact ih hs
    · exact hs


/-! #### Collective -/

theorem collWrite_inv {own : ℕ} {c : Coll} {k : Cmd} {s : State} (h : s.Inv) : (collWrite own c k s).st.Inv := by
  unfold collWrite
  dsimp only
  exact storeElem_inv h

theorem State.collSend_inv {s : State} {c : Coll} {z dest : ℕ} {up : Bool} {vals : List Word} {bad : List ℕ} (h : s.Inv) :
    (s.collSend c z dest up vals bad).Inv := by
  unfold State.collSend
  split
  · exact h
  · dsimp only
    exact inv_ite (State.collArrive_inv h) (foldl_inv (fun x3 x4 h2 => State.sendTxn_inv h2) h)

theorem collDown_inv {c : Coll} {z i : ℕ} {l : List ℕ} {k : Cmd} {s : State} (h : s.Inv) : (collDown c z i l k s).st.Inv := by
  induction l generalizing i k s with
  | nil => exact h
  | cons e r ih =>
    unfold collDown
    split
    · exact ih h
    · split
      · exact ih (State.collSend_inv h)
      · split
        · exact Prog.fail_inv h
        · split
          · exact Prog.hold_inv h
          · exact ih (State.collSend_inv h)

theorem collResult_inv {c : Coll} {z : ℕ} {vs : List Word} {bad : List ℕ} {k : Cmd} {s : State} (h : s.Inv) : (collResult c z vs bad k s).st.Inv := by
  unfold collResult
  exact collDown_inv h

theorem collTake_someInv {s : State} {own cid sender z n : ℕ} {up : Bool} (h : s.Inv) : SomeInv Prod.snd (collTake s own cid sender z n up) := by
  unfold collTake
  split
  · exact someInv_none
  · dsimp only
    exact someInv_some (State.onClu_inv h)

theorem collTakeAll_someInv {own cid z n : ℕ} {up : Bool} {l : List ℕ} {s : State} (h : s.Inv) :
    SomeInv Prod.snd (collTakeAll own cid z n up l s) := by
  induction l generalizing s with
  | nil => exact someInv_some h
  | cons i r ih =>
    unfold collTakeAll
    split
    · exact someInv_none
    · rename_i m t heq
      exact someInv_map (ih (collTake_someInv h _ heq)) fun _ ha => ha

theorem collAwait_inv {own : ℕ} {c : Coll} {k : Cmd} {s : State} (h : s.Inv) : (collAwait own c k s).st.Inv := by
  unfold collAwait
  dsimp only
  split
  · split
    · exact Prog.hold_inv h
    · rename_i h2
      exact Prog.ok_inv (collTakeAll_someInv h _ h2)
  · split
    · exact Prog.hold_inv h
    · rename_i h2
      exact collResult_inv (collTake_someInv h _ h2)

theorem withSource_inv {n : ℕ} {k : Cmd} {s : State} {f : List Word → List ℕ → Cmd → State → Prog} (hs : s.Inv)
    (h : ∀ y0 y1 y2 y3, y3.Inv → (f y0 y1 y2 y3).st.Inv) : (withSource n k s f).st.Inv := by
  unfold withSource
  split
  · exact Prog.fail_inv hs
  · exact Prog.need_inv hs
  · exact Prog.hold_inv hs
  · exact h _ _ _ _ hs

theorem collBegin_inv {own : ℕ} {c : Coll} {k : Cmd} {s : State} (h : s.Inv) : (collBegin own c k s).st.Inv := by
  unfold collBegin
  dsimp only
  split
  · exact withSource_inv h (fun x2 x3 x4 x5 h2 => Prog.ok_inv (foldl_inv (fun x6 x7 h3 => State.collSend_inv h3) h2))
  · split
    · exact withSource_inv h (fun x2 x3 x4 x5 h3 => collResult_inv h3)
    · exact Prog.ok_inv h
  · exact withSource_inv h (fun x2 x3 x4 x5 h2 => Prog.ok_inv (foldl_inv (fun x6 x7 h3 => State.collSend_inv h3) h2))
  · split
    · exact Prog.hold_inv h
    · rename_i h4
      refine withSource_inv ?_ ?_
      · exact h
      · intro x5 x6 x7 x8 h5
        split
        · exact collResult_inv (collTakeAll_someInv h _ h4)
        · exact Prog.ok_inv (State.collSend_inv (collTakeAll_someInv h _ h4))
/-- What a program does next, where the state that it is to go on from keeps the invariant. -/
theorem prog_match_inv {r : Prog} {f : Cmd → State → Prog} (h : r.st.Inv) (hf : ∀ k s, s.Inv → (f k s).st.Inv) :
    (match r with | .ok k s => f k s | r => r).st.Inv := by
  cases r with
  | ok k s => exact hf k s h
  | _ => exact h

theorem collChunk_inv {own n : ℕ} {k : Cmd} {s : State} (h : s.Inv) : (collChunk own n k s).st.Inv := by
  unfold collChunk
  split
  · exact h
  · dsimp only
    refine prog_match_inv (prog_match_inv ?_ ?_) ?_
    · split
      · exact h
      · split
        · exact collBegin_inv h
        · exact h
    · intro k s h
      split
      · exact collAwait_inv h
      · split
        · exact collDown_inv h
        · exact h
    · intro k s h
      split
      · exact runSteps_inv (fun k s h => collWrite_inv h) h
      · exact h


/-! #### Engines -/

theorem evsigStep_inv {own e : ℕ} {k : Cmd} {s : State} (h : s.Inv) : (evsigStep own e k s).st.Inv := by
  unfold evsigStep
  dsimp only
  split
  · exact Prog.ok_inv (State.sendAdd_inv (State.stampWrite_inv h))
  · split
    · split
      · exact h
      · exact Prog.ok_inv (State.sendAdd_inv (State.stampWrite_inv h))
    · split
      · exact h
      · split
        · exact h
        · exact Prog.ok_inv (State.sendWrite_inv (State.settleMemory_inv h))

theorem Cmd.chunk_inv {pcl e n : ℕ} {k : Cmd} {s : State} (h : s.Inv) : (Cmd.chunk pcl e n k s).st.Inv := by
  unfold Cmd.chunk
  split
  · exact evsigStep_inv h
  · split
    · exact Prog.ok_inv h
    · split
      · refine Prog.ok_inv ?_
        dsimp only
        exact State.inv_with (State.noteTable_inv h)
      · split
        · exact collChunk_inv h
        · exact runSteps_inv (fun x1 x2 h5 => dataStep_inv h5) h

theorem sendThen_inv {pcl e : ℕ} {k : Cmd} {s : State} {f : Cmd → State → State} (hs : s.Inv) (h : ∀ y0 y1, y1.Inv → (f y0 y1).Inv) :
    (sendThen pcl e k s f).Inv := by
  unfold sendThen
  refine inv_ite ?_ ?_
  · exact State.cmdFails_inv hs
  · dsimp only
    exact h _ _ (sendOut_inv hs)

theorem chunkDone_inv {pcl e : ℕ} {r : Prog} (h : r.st.Inv) : (chunkDone pcl e r).Inv := by
  cases r with
  | ok k t =>
    replace h : t.Inv := h
    unfold chunkDone
    dsimp only
    exact inv_ite (State.putHead_inv h) (sendThen_inv h (fun x1 x2 h1 => State.putHead_inv h1))
  | fail c k t => exact State.cmdFails_inv h
  | need chip block k t =>
    replace h : t.Inv := h
    unfold chunkDone
    dsimp only
    exact sendThen_inv h (fun x1 x2 h1 => State.putHead_inv (State.sendTxn_inv h1))
  | hold k t =>
    replace h : t.Inv := h
    unfold chunkDone
    dsimp only
    exact sendThen_inv h (fun x1 x2 h1 => State.putHead_inv h1)

theorem State.cmdChunk_inv {s : State} {pcl e n : ℕ} (h : s.Inv) : (s.cmdChunk pcl e n).Inv := by
  unfold State.cmdChunk
  split
  · exact h
  · dsimp only
    refine inv_ite ?_ ?_
    · exact h
    · refine inv_ite ?_ ?_
      · exact State.putHead_inv h
      · refine inv_ite ?_ ?_
        · exact h
        · refine chunkSample_inv ?_ ?_
          · exact h
          · exact chunkDone_inv (Cmd.chunk_inv (inv_ite (State.sampleFree_inv (inv_ite h (State.setClu_inv h))) (inv_ite h (State.setClu_inv h))))

theorem execEngineChunk_outInv {pcl : ℕ} {e : CEng} {s : State} (h : s.Inv) : OutInv (execEngineChunk pcl e s) := by
  unfold execEngineChunk
  exact atClu_outInv h (fun x1 h1 => State.cmdChunk_inv h1)

theorem TwOut.s_inv {self : TwOut} (h : self.s.Inv) : (TwOut.s self).Inv := by
  unfold TwOut.s
  exact h

theorem BatchRun.s_inv {self : BatchRun} (h : self.s.Inv) : (BatchRun.s self).Inv := by
  unfold BatchRun.s
  exact h

theorem PairRun.s_inv {self : PairRun} (h : self.s.Inv) : (PairRun.s self).Inv := by
  unfold PairRun.s
  exact h

/-! #### TokenWatch -/

theorem State.setSlot_inv {s : State} {pcl n : ℕ} {t : TwSlot} (h : s.Inv) : (s.setSlot pcl n t).Inv := by
  unfold State.setSlot
  exact State.onClu_inv h

theorem State.onSlot_inv {s : State} {pcl n : ℕ} {f : TwSlot → TwSlot} (h : s.Inv) : (s.onSlot pcl n f).Inv := by
  unfold State.onSlot
  exact State.setSlot_inv h

theorem fireStop_inv {pcl n k : ℕ} {r : PairRun} (h : r.s.Inv) : (fireStop pcl n k r).s.Inv := by
  unfold fireStop
  dsimp only
  exact State.onSlot_inv h

/-! #### Records -/

theorem State.wakeRing_inv {s : State} {c : CtxLoc} {d : Word} (h : s.Inv) : (s.wakeRing c d).Inv := by
  unfold State.wakeRing
  exact inv_ite (State.wakeAll_inv h) h

theorem ringWrite_okInv {s : State} {c : CtxLoc} {d : Word} {off v : ℕ} {st : Stamp} (h : s.Inv) : OkInv id (ringWrite s c d off v st) := by
  unfold ringWrite
  split
  · split
    · exact okInv_error 
    · exact okInv_ok (State.setClu_inv h)
  · dsimp only
    exact okInv_ok (State.setSub_inv h)

/-! #### TokenWatch -/

/-- The kernel must not run `ringWrite` when it compares the two matches on its result, so it is a variable here. -/
theorem pushFork_someInv {s : State} {pcl : ℕ} {t : TwSlot} {obs : Stamp} {v : ℕ} (h : s.Inv) : SomeInv id (pushFork s pcl t obs v) := by
  have hw : ∀ (s : State) c d off v st, s.Inv → OkInv id (ringWrite s c d off v st) := fun _ _ _ _ _ _ h => ringWrite_okInv h
  suffices hf : ∀ f, f = pushFork → SomeInv id (f s pcl t obs v) from hf _ rfl
  intro f hf
  delta pushFork at hf
  obtain ⟨write, hwrite⟩ : ∃ w, w = ringWrite := ⟨_, rfl⟩
  obtain ⟨read, hread⟩ : ∃ r, r = ringRead := ⟨_, rfl⟩
  obtain ⟨ring, hring⟩ : ∃ r, r = forkRing := ⟨_, rfl⟩
  rw [← hwrite] at hw hf
  rw [← hread, ← hring] at hf
  clear hwrite hread hring
  subst hf
  dsimp only
  split
  · refine someInv_ite someInv_none ?_
    split
    · exact someInv_none
    · rename_i h1
      split
      · exact someInv_none
      · rename_i h2
        exact someInv_some (State.wakeRing_inv (hw _ _ _ _ _ _ (hw _ _ _ _ _ _ h _ h1) _ h2))
  · exact someInv_none

theorem fireFork_inv {pcl n : ℕ} {obs : Stamp} {k x : ℕ} {s : State} (h : s.Inv) : (fireFork pcl n obs k x s).Inv := by
  unfold fireFork
  dsimp only
  split
  · exact State.setSlot_inv h
  · rename_i t heq
    have ht : t.Inv := by
      split at heq
      · exact pushFork_someInv h t heq
      · exact Option.some.inj heq ▸ h
    split
    · exact ht
    · exact State.setSlot_inv ht

theorem fireNotify_inv {pcl n : ℕ} {e : TwEntry} {r : PairRun} (h : r.s.Inv) : (fireNotify pcl n e r).s.Inv := by
  unfold fireNotify
  dsimp only
  exact State.setSlot_inv h

theorem fireHits_inv {pcl n : ℕ} {obs : Stamp} {k : ℕ} {hh : BitVec 16} {r : PairRun} (h : r.s.Inv) : (fireHits pcl n obs k hh r).1.s.Inv := by
  unfold fireHits
  dsimp only
  refine foldl_keeps (P := fun b : PairRun => b.s.Inv) ?_ ?_
  · intro x1 x2 h1
    split
    · split
      · split
        · exact fireNotify_inv h1
        · split
          · dsimp only
            exact fireFork_inv h1
          · exact h1
      · exact h1
    · split
      · split
        · exact fireNotify_inv h1
        · split
          · dsimp only
            exact fireFork_inv h1
          · exact h1
      · exact h1
  · dsimp only
    exact State.setSlot_inv h

theorem confirmed_inv {pcl n : ℕ} {obs : Stamp} {k : ℕ} {hh : BitVec 16} {excluded : Option ℕ} {r : PairRun} (h : r.s.Inv) :
    (confirmed pcl n obs k hh excluded r).1.s.Inv := by
  unfold confirmed
  dsimp only
  refine fireHits_inv ?_
  dsimp only
  exact State.setSlot_inv h

theorem forceToken_inv {pcl n : ℕ} {obs : Stamp} {y : ℕ} {last : Bool} {r : PairRun} {w : BitVec 32} (h : r.s.Inv) :
    (forceToken pcl n obs y last r w).s.Inv := by
  unfold forceToken
  split
  · exact h
  · dsimp only
    split
    · refine confirmed_inv ?_
      dsimp only
      exact State.setSlot_inv h
    · split
      · refine fireStop_inv ?_
        refine confirmed_inv ?_
        dsimp only
        exact State.setSlot_inv h
      · split
        · split
          · dsimp only
            refine State.onSlot_inv ?_
            refine confirmed_inv ?_
            dsimp only
            exact State.setSlot_inv h
          · dsimp only
            refine confirmed_inv ?_
            dsimp only
            exact State.setSlot_inv h
        · split
          · dsimp only
            refine State.onSlot_inv ?_
            refine confirmed_inv ?_
            dsimp only
            exact State.setSlot_inv h
          · dsimp only
            refine confirmed_inv ?_
            dsimp only
            exact State.setSlot_inv h

theorem runUnit_inv {pcl n : ℕ} {obs : Stamp} {y : ℕ} {e : TwEntry} {last : Bool} {r : PairRun} (h : r.s.Inv) :
    (runUnit pcl n obs y e last r).s.Inv := by
  unfold runUnit
  dsimp only
  refine foldl_keeps (P := fun b : PairRun => b.s.Inv) ?_ ?_
  · exact fun x1 x2 h1 => forceToken_inv h1
  · dsimp only
    exact State.onSlot_inv h

theorem confirmAt_inv {pcl n : ℕ} {obs : Stamp} {k : ℕ} {hh : BitVec 16} {r : PairRun} (h : r.s.Inv) : (confirmAt pcl n obs k hh r).s.Inv := by
  unfold confirmAt
  dsimp only
  split
  · exact confirmed_inv h
  · split
    · exact fireStop_inv (confirmed_inv h)
    · split
      · split
        · exact runUnit_inv (runUnit_inv (confirmed_inv h))
        · exact runUnit_inv (confirmed_inv h)
      · exact runUnit_inv (confirmed_inv h)

theorem confirmNext_inv {pcl n : ℕ} {obs : Stamp} {r : PairRun} (h : r.s.Inv) : (confirmNext pcl n obs r).s.Inv := by
  unfold confirmNext
  split
  · exact h
  · dsimp only
    split
    · exact h
    · refine confirmAt_inv ?_
      dsimp only
      exact State.setSlot_inv h

theorem settlePair_inv {pcl n : ℕ} {obs : Stamp} {reject : Bool} {p : BitVec 32} {r : PairRun} (h : r.s.Inv) :
    (settlePair pcl n obs reject p r).2.s.Inv := by
  unfold settlePair
  dsimp only
  split
  · dsimp only
    exact h
  · split
    · dsimp only
      exact State.setSlot_inv h
    · dsimp only
      exact foldl_keeps (P := fun b : PairRun => b.s.Inv) (fun x1 x2 h3 => confirmNext_inv h3) h

theorem commitPair_inv {pcl n : ℕ} {obs : Stamp} {w : BitVec 32} {r : PairRun} (h : r.s.Inv) : (commitPair pcl n obs w r).2.s.Inv := by
  unfold commitPair
  dsimp only
  split
  · split
    · dsimp only
      exact h
    · dsimp only
      exact State.setSlot_inv h
  · split
    · dsimp only
      exact h
    · dsimp only
      refine confirmAt_inv ?_
      dsimp only
      exact State.setSlot_inv h

theorem runPair_inv {fn pcl : ℕ} {obs : Stamp} {slot value : BitVec 32} {s : State} {notes : List ℕ} (h : s.Inv) :
    (runPair fn pcl obs slot value s notes).2.s.Inv := by
  unfold runPair
  dsimp only
  split
  · dsimp only
    exact h
  · split
    · dsimp only
      exact h
    · split
      · dsimp only
        exact h
      · dsimp only
        split
        · refine commitPair_inv ?_
          dsimp only
          exact h
        · refine settlePair_inv ?_
          dsimp only
          exact h

theorem batchPair_inv {fn pcl : ℕ} {obs : Stamp} {values : GranData} {b : BatchRun} {i : ℕ} (h : b.s.Inv) :
    (batchPair fn pcl obs values b i).s.Inv := by
  unfold batchPair
  dsimp only
  exact runPair_inv h

theorem runBatch_inv {fn pcl : ℕ} {c : Cmd} {s : State} (h : s.Inv) : (runBatch fn pcl c s).s.Inv := by
  unfold runBatch
  dsimp only
  refine foldl_keeps (P := fun b : BatchRun => b.s.Inv) ?_ ?_
  · exact fun x1 x2 h1 => batchPair_inv h1
  · dsimp only
    exact h

theorem runWatch_inv {pcl : ℕ} {c : Cmd} {s : State} (h : s.Inv) : (runWatch pcl c s).s.Inv := by
  unfold runWatch
  dsimp only
  split
  · split
    · split
      · dsimp only
        exact h
      · dsimp only
        exact State.setSlot_inv h
    · split
      · dsimp only
        exact h
      · dsimp only
        exact State.setSlot_inv h
  · split
    · split
      · split
        · dsimp only
          exact h
        · dsimp only
          exact State.setSlot_inv h
      · split
        · dsimp only
          exact h
        · dsimp only
          exact State.setSlot_inv h
    · split
      · dsimp only
        exact inv_ite (State.setSlot_inv h) h
      · split
        · dsimp only
          exact inv_ite (State.setSlot_inv h) h
        · split
          · dsimp only
            exact inv_ite (State.setSlot_inv h) h
          · split
            · dsimp only
              exact State.setSlot_inv h
            · exact runBatch_inv h

/-! #### Engines -/

theorem watchStart_inv {pcl : ℕ} {k : Cmd} {s : State} (h : s.Inv) : (watchStart pcl k s).2.Inv := by
  unfold watchStart
  dsimp only
  exact runWatch_inv h

theorem wswapStart_inv {k : Cmd} {s : State} (h : s.Inv) : (wswapStart k s).2.Inv := by
  unfold wswapStart
  split
  · exact h
  · split
    · exact State.noteWalk_inv h
    · dsimp only
      split
      · exact h
      · exact State.onPart_inv h

/-! #### Collective -/

theorem State.noteColl_inv {s : State} {k : Cmd} (h : s.Inv) : (s.noteColl k).Inv := by
  unfold State.noteColl
  dsimp only
  split
  · exact State.noteRead_inv h
  · exact State.noteRead_inv h

theorem collStart_inv {own : ℕ} {k : Cmd} {s : State} (h : s.Inv) : (collStart own k s).2.Inv := by
  unfold collStart
  split
  · exact State.noteColl_inv h
  · exact poisonSpans_inv h
  · exact State.collTell_inv (State.onClu_inv (poisonSpans_inv h))
  · dsimp only
    split
    · exact State.onClu_inv (poisonSpans_inv h)
    · exact State.onClu_inv h

/-! #### Engines -/

theorem Cmd.begin_inv {pcl : ℕ} {k : Cmd} {s : State} (h : s.Inv) : (Cmd.begin pcl k s).2.Inv := by
  unfold Cmd.begin
  dsimp only
  split
  · exact collStart_inv h
  · split
    · exact wswapStart_inv h
    · split
      · exact watchStart_inv h
      · exact h

theorem State.takeOn_inv {s : State} {pcl e : ℕ} {k : Cmd} (h : s.Inv) : (s.takeOn pcl e k).Inv := by
  unfold State.takeOn
  dsimp only
  refine inv_ite ?_ ?_
  · exact State.collLost_inv (State.putHead_inv h)
  · refine inv_ite ?_ ?_
    · exact State.putHead_inv h
    · refine State.putHead_inv ?_
      refine Cmd.begin_inv ?_
      refine inv_ite ?_ ?_
      · exact State.setClu_inv h
      · exact inv_ite (State.sampleFree_inv (State.setClu_inv h)) (State.sampleNat_inv (State.setClu_inv h))

theorem State.cmdStart_inv {s : State} {pcl e : ℕ} (h : s.Inv) : (s.cmdStart pcl e).Inv := by
  unfold State.cmdStart
  split
  · exact h
  · exact inv_ite h (inv_ite (State.collLost_inv (State.putHead_inv h)) (inv_ite h (State.takeOn_inv h)))

theorem execEngineCommandStart_outInv {pcl : ℕ} {e : CEng} {s : State} (h : s.Inv) : OutInv (execEngineCommandStart pcl e s) := by
  unfold execEngineCommandStart
  exact atClu_outInv h (fun x1 h1 => State.cmdStart_inv h1)

/-! #### Lunit -/

theorem State.headWaits_inv {s : State} {c : CtxLoc} {g : Eng} {kind : BitVec 8} {obj : Word} (h : s.Inv) : (s.headWaits c g kind obj).Inv := by
  unfold State.headWaits
  exact State.onCtx_inv h

/-! #### Moss -/

theorem mossAction_someInv {s : State} {c : CtxLoc} {i : Item} (h : s.Inv) : SomeInv (fun a : Reg × Word × State => a.2.2) (mossAction s c i) := by
  unfold mossAction
  dsimp only
  split
  · split
    · exact someInv_none
    · exact someInv_some (State.setClu_inv h)
  · exact someInv_some (State.setClu_inv h)
  · split
    · exact someInv_none
    · exact someInv_some h
  · split
    · exact someInv_none
    · exact someInv_some (inv_ite (State.onCtx_inv h) h)
  · split
    · exact someInv_none
    · exact someInv_some h
  · exact someInv_none

theorem State.mossPoint_inv {s : State} {c : CtxLoc} {i : Item} {rest : List Item} (h : s.Inv) : (s.mossPoint c i rest).Inv := by
  unfold State.mossPoint
  dsimp only
  split
  · exact State.headWaits_inv h
  · rename_i h1
    split
    · split
      · exact h
      · split
        · split
          · split
            · exact State.waitEnd_inv h
            · split
              · exact State.onCtx_inv (State.waitEnd_inv (mossAction_someInv h _ h1))
              · exact State.onCtx_inv (State.onClu_inv (State.waitEnd_inv h))
          · split
            · exact State.waitEnd_inv h
            · split
              · exact State.onCtx_inv (State.waitEnd_inv (mossAction_someInv h _ h1))
              · exact State.onCtx_inv (State.onClu_inv (State.waitEnd_inv h))
        · exact State.onCtx_inv (State.waitEnd_inv (mossAction_someInv h _ h1))
    · split
      · exact h
      · split
        · split
          · split
            · exact State.waitEnd_inv h
            · split
              · exact State.onCtx_inv (State.waitEnd_inv (mossAction_someInv h _ h1))
              · exact State.onCtx_inv (State.onClu_inv (State.waitEnd_inv h))
          · split
            · exact State.waitEnd_inv h
            · split
              · exact State.onCtx_inv (State.waitEnd_inv (mossAction_someInv h _ h1))
              · exact State.onCtx_inv (State.onClu_inv (State.waitEnd_inv h))
        · exact State.onCtx_inv (State.waitEnd_inv (mossAction_someInv h _ h1))

/-! #### Points -/

theorem State.release_inv {s : State} {c : CtxLoc} {sc : Scope} {home : ℕ} (h : s.Inv) : (s.release c sc home).2.2.Inv := by
  unfold State.release
  dsimp only
  split
  · exact State.stampWrite_inv (State.releaseDrain_inv h)
  · exact State.releaseDrain_inv h

theorem State.pointFault_inv {s : State} {c : CtxLoc} {i : Item} {cause : BitVec 8} {tval : Word} (h : s.Inv) :
    (s.pointFault c i cause tval).Inv := by
  unfold State.pointFault
  exact State.raise_inv (State.onCtx_inv h)

theorem State.launchPoint_inv {s : State} {c : CtxLoc} {i : Item} {rd : Reg} {block : Bool} (h : s.Inv) : (s.launchPoint c i rd block).Inv := by
  unfold State.launchPoint
  dsimp only
  split
  · exact State.pointFault_inv (inv_ite (State.noteWalk_inv h) h)
  · have hr := State.release_inv (c := c) (sc := .device) (home := c.pcl) h
    exact State.onCtx_inv (State.inv_with hr)

theorem State.arrivePoint_inv {s : State} {c : CtxLoc} {i : Item} {k : BitVec 2} {rd : Option Reg} {bar : Bool} (h : s.Inv) :
    (s.arrivePoint c i k rd bar).Inv := by
  unfold State.arrivePoint
  dsimp only
  split
  · exact State.onCtx_inv h
  · split
    · exact State.pointFault_inv (State.noteWalk_inv h)
    · have hr := State.release_inv (c := c) (sc := .device) (home := c.pcl) h
      exact State.onCtx_inv (State.inv_with hr)

theorem State.countPoint_inv {s : State} {c : CtxLoc} {sc : Scope} {i : Item} {set : Bool} (h : s.Inv) : (s.countPoint c sc i set).Inv := by
  unfold State.countPoint
  dsimp only
  exact State.onCtx_inv (State.sendAdd_inv (State.release_inv h))

theorem State.fencePoint_inv {s : State} {c : CtxLoc} {k : BitVec 4} {sc : Scope} (h : s.Inv) : (s.fencePoint c k sc).Inv := by
  unfold State.fencePoint
  dsimp only
  split
  · exact inv_ite (State.onCtx_inv (State.releaseDrain_inv h)) (State.releaseDrain_inv h)
  · exact State.releaseDrain_inv h

theorem State.tokPoint_inv {s : State} {c : CtxLoc} {g rcv : Eng} {i : Item} (h : s.Inv) : (s.tokPoint c g rcv i).Inv := by
  unfold State.tokPoint
  dsimp only
  exact inv_ite (State.setCtx_inv h) (State.raise_inv (State.setCtx_inv h))

theorem State.reachPoint_inv {s : State} {c : CtxLoc} {g : Eng} (h : s.Inv) : (s.reachPoint c g).Inv := by
  unfold State.reachPoint
  split
  · exact h
  · split
    · exact State.tokPoint_inv h
    · exact State.onCtx_inv (State.fencePoint_inv h)
    · exact State.countPoint_inv h
    · exact State.countPoint_inv h
    · exact State.arrivePoint_inv h
    · exact State.arrivePoint_inv h
    · exact State.launchPoint_inv h
    · exact State.launchPoint_inv h
    · exact State.mossPoint_inv h
    · exact State.mossPoint_inv h
    · exact State.mossPoint_inv h
    · exact State.mossPoint_inv h
    · exact State.mossPoint_inv h
    · exact h

/-! #### EngCheck -/

theorem State.pointsBehind_inv {s : State} {c : CtxLoc} {n : ℕ} (h : s.Inv) : (s.pointsBehind c n).Inv := by
  induction n generalizing s with
  | zero => exact h
  | succ n ih =>
    unfold State.pointsBehind
    exact inv_ite (ih (State.reachPoint_inv h)) h

theorem State.submit_inv {s : State} {c : CtxLoc} {i : Item} {f : EF} {bs : List Byte} {grans : List ℕ} {rgs : List (ℕ × ℕ)} (h : s.Inv) :
    (s.submit c i f bs grans rgs).Inv := by
  unfold State.submit
  dsimp only
  exact State.pointsBehind_inv (State.onCtx_inv (State.waitEnd_inv (State.testQueues_inv (State.onClu_inv (State.flip_inv h)))))

theorem submitHead_inv {c : CtxLoc} {i : Item} {f : EF} {s : State} (h : s.Inv) : (submitHead c i f s).Inv := by
  unfold submitHead
  dsimp only
  split
  · exact State.headWaits_inv h
  · split
    · exact State.raise_inv (State.onCtx_inv h)
    · split
      · exact State.raise_inv (State.onCtx_inv h)
      · refine inv_ite ?_ ?_
        · exact State.raise_inv (State.onCtx_inv (State.onCtx_inv h))
        · split
          · exact State.headWaits_inv h
          · exact State.submit_inv h

theorem State.submission_inv {s : State} {c : CtxLoc} (h : s.Inv) : (s.submission c).Inv := by
  unfold State.submission
  split
  · exact h
  · split
    · exact h
    · exact inv_ite (submitHead_inv h) h

theorem execEngSubmission_outInv {c : CtxLoc} {s : State} (h : s.Inv) : OutInv (execEngSubmission c s) := by
  unfold execEngSubmission
  exact atCtx_outInv h (fun x1 h1 => State.submission_inv h1)

/-! #### Leave -/

theorem State.droopEnd_inv {s : State} {pcl : ℕ} (h : s.Inv) : (s.droopEnd pcl).Inv := by
  unfold State.droopEnd
  dsimp only
  exact inv_ite (State.sampleFree_inv (State.setClu_inv h)) (State.sampleNat_inv (State.setClu_inv h))

theorem execDroopFreezeEnd_outInv {pcl : ℕ} {s : State} (h : s.Inv) : OutInv (execDroopFreezeEnd pcl s) := by
  unfold execDroopFreezeEnd
  exact atClu_outInv h (fun x1 h1 => inv_ite (State.droopEnd_inv h1) h1)

theorem execDroopEvent_outInv {pcl : ℕ} {s : State} (h : s.Inv) : OutInv (execDroopEvent pcl s) := by
  unfold execDroopEvent
  exact atClu_outInv h (fun x1 h1 => inv_ite h1 (State.onClu_inv h1))

theorem State.refill_inv {s : State} {pcl share : ℕ} (h : s.Inv) : (s.refill pcl share).Inv := by
  unfold State.refill
  dsimp only
  exact foldl_inv (fun x1 x2 h1 => State.setSub_inv h1) h

/-! #### Matrix -/

theorem State.drawLeave_inv {s : State} {c : CtxLoc} {en : ℕ} (h : s.Inv) : (s.drawLeave c en).Inv := by
  unfold State.drawLeave
  dsimp only
  exact State.onCtx_inv (State.setSub_inv h)

/-! #### Rows -/

theorem checkHead_inv {c : CtxLoc} {s : State} (h : s.Inv) : (checkHead c s).Inv := by
  unfold checkHead
  dsimp only
  split
  · exact h
  · split
    · exact inv_ite h (inv_ite (State.raise_inv h) (State.setCtx_inv h))
    · exact h

/-! #### Matrix -/

theorem beginM_inv {c : CtxLoc} {k : ℕ} {i : Item} {fresh : Bool} {n : ℕ} {s : State} (h : s.Inv) : (beginM c k i fresh n s).Inv := by
  unfold beginM
  dsimp only
  split
  · exact State.raise_inv (State.setCtx_inv h)
  · split
    · exact checkHead_inv (State.setCtx_inv h)
    · exact checkHead_inv (State.onCtx_inv (State.onClu_inv (inv_ite (State.setSub_inv (State.setCtx_inv h)) (State.drawLeave_inv (State.setCtx_inv
        h)))))

theorem startM_inv {c : CtxLoc} {s : State} (h : s.Inv) : (startM c s).Inv := by
  unfold startM
  dsimp only
  split
  · exact inv_ite (checkHead_inv h) h
  · split
    · exact inv_ite (checkHead_inv h) h
    · refine inv_ite ?_ ?_
      · exact inv_ite (checkHead_inv h) h
      · split
        · exact State.headWaits_inv (inv_ite (checkHead_inv h) h)
        · exact State.headWaits_inv (inv_ite (checkHead_inv h) h)
        · split
          · exact beginM_inv (State.waitEnd_inv (inv_ite (checkHead_inv h) h))
          · refine inv_ite ?_ ?_
            · exact State.headWaits_inv (State.setSub_inv (inv_ite (checkHead_inv h) h))
            · refine inv_ite ?_ ?_
              · exact State.raise_inv (inv_ite (checkHead_inv h) h)
              · exact beginM_inv (State.waitEnd_inv (inv_ite (State.sampleFree_inv (inv_ite (checkHead_inv h) h)) (State.sampleNat_inv (inv_ite
                  (checkHead_inv h) h))))

/-! #### Leave -/

theorem State.noteWaiter_inv {s : State} {c : CtxLoc} (h : s.Inv) : (s.noteWaiter c).Inv := by
  unfold State.noteWaiter
  dsimp only
  exact inv_ite (startM_inv h) h

theorem State.boundary_inv {s : State} {pcl : ℕ} (h : s.Inv) : (s.boundary pcl).Inv := by
  unfold State.boundary
  refine inv_ite ?_ ?_
  · exact h
  · dsimp only
    exact State.refill_inv (State.onClu_inv (foldl_inv (fun x1 x2 h1 => State.noteWaiter_inv h1) h))

theorem execLeaveBoundary_outInv {pcl : ℕ} {s : State} (h : s.Inv) : OutInv (execLeaveBoundary pcl s) := by
  unfold execLeaveBoundary
  exact atClu_outInv h (fun x1 h1 => State.boundary_inv h1)

/-! #### Moss -/

theorem State.rewriteEnd_inv {s : State} {pcl bank : ℕ} (h : s.Inv) : (s.rewriteEnd pcl bank).Inv := by
  unfold State.rewriteEnd
  dsimp only
  split
  · exact h
  · split
    · exact State.onCtx_inv (State.setClu_inv h)
    · exact State.onCmd_inv (State.setClu_inv h)
    · exact State.setClu_inv h

theorem execMossRewriteEnd_outInv {pcl bank : ℕ} {s : State} (h : s.Inv) : OutInv (execMossRewriteEnd pcl bank s) := by
  unfold execMossRewriteEnd
  exact atClu_outInv h (fun x1 h1 => State.rewriteEnd_inv h1)

theorem State.rewriteStart_inv {s : State} {pcl bank : ℕ} (h : s.Inv) : (s.rewriteStart pcl bank).Inv := by
  unfold State.rewriteStart
  dsimp only
  split
  · exact h
  · exact inv_ite h (State.setClu_inv h)

theorem execMossRewriteStart_outInv {pcl bank : ℕ} {s : State} (h : s.Inv) : OutInv (execMossRewriteStart pcl bank s) := by
  unfold execMossRewriteStart
  exact atClu_outInv h (fun x1 h1 => State.rewriteStart_inv h1)

theorem State.keepRefresh_inv {s : State} {pcl n : ℕ} (h : s.Inv) : (s.keepRefresh pcl n).Inv := by
  unfold State.keepRefresh
  exact State.onClu_inv h

theorem execKeepRefreshDue_outInv {pcl n : ℕ} {s : State} (h : s.Inv) : OutInv (execKeepRefreshDue pcl n s) := by
  unfold execKeepRefreshDue
  exact atClu_outInv h (fun x1 h1 => State.keepRefresh_inv h1)

/-! #### Records -/

theorem State.pendExpiry_inv {s : State} {p : ℕ} {e : Expiry} (h : s.Inv) : (s.pendExpiry p e).Inv := by
  unfold State.pendExpiry
  exact State.onPart_inv h

/-! #### Moss -/

theorem State.deliverExpiry_inv {s : State} {pcl n : ℕ} (h : s.Inv) : (s.deliverExpiry pcl n).Inv := by
  unfold State.deliverExpiry
  dsimp only
  split
  · exact h
  · split
    · exact h
    · split
      · exact inv_ite (State.pendExpiry_inv h) (State.raise_inv h)
      · split
        · exact State.noteRead_inv h
        · exact inv_ite h (inv_ite (State.editRecord_inv h) (State.pendExpiry_inv h))

theorem State.expireRg_inv {s : State} {pcl n : ℕ} {deliver : Bool} (h : s.Inv) : (s.expireRg pcl n deliver).Inv := by
  unfold State.expireRg
  dsimp only
  exact inv_ite (inv_ite (State.deliverExpiry_inv (State.setClu_inv h)) (State.setClu_inv h)) h

theorem execRowGroupExpiry_outInv {pcl n : ℕ} {s : State} (h : s.Inv) : OutInv (execRowGroupExpiry pcl n s) := by
  unfold execRowGroupExpiry
  exact atClu_outInv h (fun x1 h1 => State.expireRg_inv h1)

theorem State.refreshRequest_inv {s : State} {pcl n : ℕ} (h : s.Inv) : (s.refreshRequest pcl n).Inv := by
  unfold State.refreshRequest
  dsimp only
  exact inv_ite (inv_ite (State.setClu_inv h) (State.sendAdd_inv (State.setClu_inv h))) h

theorem execRefreshRequest_outInv {pcl n : ℕ} {s : State} (h : s.Inv) : OutInv (execRefreshRequest pcl n s) := by
  unfold execRefreshRequest
  exact atClu_outInv h (fun x1 h1 => State.refreshRequest_inv h1)

theorem sweepOne_inv {pcl : ℕ} {a : State × List (BitVec 12)} {n : ℕ} (h : a.1.Inv) : (sweepOne pcl a n).1.Inv := by
  unfold sweepOne
  dsimp only
  exact State.expireRg_inv (State.refreshRequest_inv (State.keepRefresh_inv (State.onClu_inv h)))

theorem State.sweep_inv {s : State} {pcl : ℕ} (h : s.Inv) : (s.sweep pcl).Inv := by
  unfold State.sweep
  exact foldl_keeps (P := fun b : State × List (BitVec 12) => b.1.Inv) (fun x1 x2 h1 => sweepOne_inv h1) h

theorem State.enterBand7_inv {s : State} {pcl : ℕ} (h : s.Inv) : (s.enterBand7 pcl).Inv := by
  unfold State.enterBand7
  dsimp only
  split
  · exact State.onClu_inv h
  · exact inv_ite (State.onClu_inv h) (State.sendAdd_inv (State.stampWrite_inv (State.onClu_inv h)))

theorem State.ageTick_inv {s : State} {pcl : ℕ} {temp : BitVec 8} (h : s.Inv) : (s.ageTick pcl temp).Inv := by
  unfold State.ageTick
  refine inv_ite ?_ ?_
  · exact h
  · dsimp only
    exact State.sweep_inv (inv_ite (State.enterBand7_inv (State.setClu_inv h)) (State.setClu_inv h))

/-! #### Power -/

theorem execAgeTick_outInv {pcl : ℕ} {temp : BitVec 8} {s : State} (h : s.Inv) : OutInv (execAgeTick pcl temp s) := by
  unfold execAgeTick
  exact atClu_outInv h (fun x1 h1 => inv_ite (State.trip_inv h1) (State.ageTick_inv h1))

/-! #### System -/

theorem State.deliverHeld_inv {s : State} {c : CtxLoc} (h : s.Inv) : (s.deliverHeld c).Inv := by
  unfold State.deliverHeld
  dsimp only
  refine foldl_inv ?_ ?_
  · exact fun x1 x2 h1 => State.releaseLate_inv h1
  · exact foldl_inv (fun x1 x2 h1 => State.onCtx_inv h1) (foldl_inv (fun x1 x2 h1 => State.pushLate_inv h1) (State.onCtx_inv h))

theorem State.goesOn_inv {s : State} {c : CtxLoc} (h : s.Inv) : (s.goesOn c).Inv := by
  unfold State.goesOn
  exact checkHead_inv (State.deliverHeld_inv h)

/-! #### Strands -/

theorem execDebugResume_outInv {c : CtxLoc} {epc : Option Word} {s : State} (h : s.Inv) : OutInv (execDebugResume c epc s) := by
  unfold execDebugResume
  refine atCtx_outInv ?_ ?_
  · exact h
  · intro x1 h1
    dsimp only
    exact inv_ite (State.goesOn_inv (State.onCtx_inv h1)) h1

/-! #### Matrix -/

theorem execStopRecordCut_outInv {c : CtxLoc} {vRows : ℕ} {mSigs : List ℕ} {s : State} (h : s.Inv) : OutInv (execStopRecordCut c vRows mSigs s) := by
  unfold execStopRecordCut
  exact atCtx_outInv h (fun x1 h1 => inv_ite h1 (State.settle_inv (stopM_inv (stopV_inv h1))))

/-! #### Strands -/

theorem execTimeoutSuspension_outInv {c : CtxLoc} {s : State} (h : s.Inv) : OutInv (execTimeoutSuspension c s) := by
  unfold execTimeoutSuspension
  refine atCtx_outInv ?_ ?_
  · exact h
  · intro x1 h1
    dsimp only
    refine inv_ite ?_ ?_
    · exact h1
    · split
      · exact h1
      · exact State.beginSave_inv h1

theorem State.backWaiting_inv {s : State} {c : CtxLoc} {pc : Word} {flags : ℕ} {cause thr : BitVec 32} {rd : Option (Reg × Option (ℕ × ℕ))}
    (h : s.Inv) : (s.backWaiting c pc flags cause thr rd).Inv := by
  unfold State.backWaiting
  dsimp only
  exact inv_ite (State.register_inv (State.idleCtx_inv (State.writeRecord_inv h))) (State.writeRecord_inv h)

theorem State.backSaved_inv {s : State} {c : CtxLoc} {forced waiting : Bool} {cause : BitVec 32} {pc : Word} {thr : BitVec 32} (h : s.Inv) :
    (s.backSaved c forced waiting cause pc thr).Inv := by
  unfold State.backSaved
  dsimp only
  refine inv_ite ?_ ?_
  · exact State.backWaiting_inv h
  · exact inv_ite (State.enterReady_inv (State.idleCtx_inv (State.savedRecord_inv h))) (State.savedRecord_inv h)

theorem State.hardwareSave_inv {s : State} {c : CtxLoc} (h : s.Inv) : (s.hardwareSave c).Inv := by
  unfold State.hardwareSave
  dsimp only
  split
  · refine inv_ite ?_ ?_
    · split
      · exact State.deliverHeld_inv h
      · exact h
    · split
      · refine State.endError_inv ?_
        refine State.writeSave_inv ?_
        split
        · exact State.deliverHeld_inv h
        · exact h
      · refine inv_ite ?_ ?_
        · refine State.onCtx_inv ?_
          refine State.writeSave_inv ?_
          split
          · exact State.deliverHeld_inv h
          · exact h
        · refine State.backSaved_inv ?_
          refine State.writeSave_inv ?_
          split
          · exact State.deliverHeld_inv h
          · exact h
  · refine inv_ite ?_ ?_
    · split
      · exact State.deliverHeld_inv h
      · exact h
    · refine State.backSaved_inv ?_
      split
      · exact State.deliverHeld_inv h
      · exact h
  · split
    · exact State.deliverHeld_inv h
    · exact h

theorem execHardwareSave_outInv {c : CtxLoc} {s : State} (h : s.Inv) : OutInv (execHardwareSave c s) := by
  unfold execHardwareSave
  exact atCtx_outInv h (fun x1 h1 => State.hardwareSave_inv h1)

theorem execPreemptionDeadline_outInv {c : CtxLoc} {s : State} (h : s.Inv) : OutInv (execPreemptionDeadline c s) := by
  unfold execPreemptionDeadline
  refine atCtx_outInv ?_ ?_
  · exact h
  · intro x1 h1
    dsimp only
    exact inv_ite (State.beginSave_inv h1) h1

theorem State.request_inv {s : State} {c : CtxLoc} (h : s.Inv) : (s.request c).Inv := by
  unfold State.request
  exact inv_ite (foldl_inv (fun x1 x2 h1 => State.onCtx_inv h1) h) (State.onCtx_inv h)

theorem execPartitionDrain_outInv {p : ℕ} {s : State} (h : s.Inv) : OutInv (execPartitionDrain p s) := by
  unfold execPartitionDrain
  exact atPart_outInv h (fun x1 h1 => foldl_inv (fun x2 x3 h2 => State.request_inv h2) h1)

theorem State.preempt_inv {s : State} {pcl : ℕ} (h : s.Inv) : (s.preempt pcl).Inv := by
  unfold State.preempt
  dsimp only
  split
  · exact h
  · exact inv_ite (State.request_inv (State.onClu_inv h)) h

theorem execPreemptionRequest_outInv {pcl : ℕ} {s : State} (h : s.Inv) : OutInv (execPreemptionRequest pcl s) := by
  unfold execPreemptionRequest
  exact atClu_outInv h (fun x1 h1 => State.preempt_inv h1)

theorem execMigrationCommand_outInv {k : ℕ} {s : State} (h : s.Inv) : OutInv (execMigrationCommand k s) := by
  unfold execMigrationCommand
  split
  · exact outInv_next h
  · dsimp only
    exact outInv_next (State.onClu_inv (State.onClu_inv (State.inv_with h)))

theorem execBalancingPeriod_outInv {s : State} (h : s.Inv) : OutInv (execBalancingPeriod s) := by
  unfold execBalancingPeriod
  refine outInv_next ?_
  refine foldl_inv ?_ ?_
  · intro x1 x2 h1
    split
    · exact h1
    · dsimp only
      exact inv_ite h1 (State.inv_with (State.acted_inv h1))
  · exact h

theorem State.expiryTrap_inv {s : State} {c : CtxLoc} {cause : ℕ} (h : s.Inv) : (s.expiryTrap c cause).Inv := by
  unfold State.expiryTrap
  refine inv_ite ?_ ?_
  · dsimp only
    exact inv_ite (State.pendExpiry_inv h) (State.raise_inv h)
  · exact h

theorem State.hardwareRestore_inv {s : State} {c : CtxLoc} (h : s.Inv) : (s.hardwareRestore c).Inv := by
  unfold State.hardwareRestore
  dsimp only
  split
  · refine inv_ite ?_ ?_
    · exact h
    · split
      · exact State.endError_inv (State.noteRead_inv h)
      · exact inv_ite (State.endStrand_inv h) (checkHead_inv (State.expiryTrap_inv (State.inv_with (State.setCtx_inv h))))
  · exact h

theorem execHardwareRestore_outInv {c : CtxLoc} {s : State} (h : s.Inv) : OutInv (execHardwareRestore c s) := by
  unfold execHardwareRestore
  exact atCtx_outInv h (fun x1 h1 => State.hardwareRestore_inv h1)

theorem State.seatStrand_inv {s : State} {c : CtxLoc} {r : Ready} {l : Launch} {x : Context} {bs : List Byte} (h : s.Inv) :
    (s.seatStrand c r l x bs).Inv := by
  unfold State.seatStrand
  dsimp only
  split
  · split
    · exact State.endStrand_inv (State.setCtx_inv (State.noteRead_inv h))
    · exact State.expiryTrap_inv (State.setCtx_inv h)
  · split
    · exact State.endStrand_inv (State.setCtx_inv (State.noteRead_inv h))
    · exact State.endStrand_inv (State.setCtx_inv h)
    · exact State.expiryTrap_inv (State.setCtx_inv h)
  · exact State.expiryTrap_inv (State.setCtx_inv h)
  · exact State.setCtx_inv h

theorem State.markExited_inv {s : State} {pcl p launch strand : ℕ} {addr : Word} (h : s.Inv) : (s.markExited pcl p launch strand addr).Inv := by
  unfold State.markExited
  split
  · rename_i h1
    exact State.countEnd_inv (fst_inv h1 (State.vstore_inv h))
  · rename_i h1
    exact State.recordFailed_inv (fst_inv h1 (State.vstore_inv h))

theorem State.seatRecord_inv {s : State} {r : Ready} {l : Launch} {seat : Seat} {addr : Word} {strand : ℕ} (h : s.Inv) :
    (s.seatRecord r l seat addr strand).1.Inv := by
  unfold State.seatRecord
  dsimp only
  split
  · exact h
  · split
    · exact inv_ite (State.markExited_inv (State.inv_with h)) (State.recordFailed_inv (State.noteRead_inv h))
    · split
      · exact h
      · split
        · exact State.markExited_inv h
        · split
          · rename_i h5
            exact State.recordFailed_inv (fst_inv h5 (State.vstore_inv h))
          · rename_i h5
            exact State.seatStrand_inv (fst_inv h5 (State.vstore_inv h))

theorem State.seatAll_inv {r : Ready} {l : Launch} {ss : List (Seat × ℕ)} {a : State × Bool} (h : a.1.Inv) : (State.seatAll r l ss a).1.Inv := by
  induction ss generalizing a with
  | nil => exact h
  | cons e rest ih =>
    obtain ⟨seat, k⟩ := e
    unfold State.seatAll
    dsimp only
    exact ih (State.seatRecord_inv h)

theorem State.dispatch_inv {s : State} {pcl : ℕ} (h : s.Inv) : (s.dispatch pcl).Inv := by
  unfold State.dispatch
  split
  · exact h
  · refine inv_ite ?_ ?_
    · exact h
    · dsimp only
      split
      · exact State.sampleNat_inv (State.onClu_inv (State.acted_inv h))
      · refine inv_ite ?_ ?_
        · exact State.onClu_inv (State.seatAll_inv (State.sampleNat_inv (State.onClu_inv (State.acted_inv h))))
        · exact State.seatAll_inv (State.sampleNat_inv (State.onClu_inv (State.acted_inv h)))

theorem execDispatch_outInv {pcl : ℕ} {s : State} (h : s.Inv) : OutInv (execDispatch pcl s) := by
  unfold execDispatch
  exact atClu_outInv h (fun x1 h1 => State.dispatch_inv h1)

theorem State.backReady_inv {s : State} {c : CtxLoc} {pc : Word} {state flags : ℕ} (h : s.Inv) : (s.backReady c pc state flags).Inv := by
  unfold State.backReady
  dsimp only
  exact inv_ite (State.enterReady_inv (State.idleCtx_inv (State.writeRecord_inv (State.takeExpiry_inv h)))) (State.writeRecord_inv
    (State.takeExpiry_inv h))

theorem State.backMember_inv {s : State} {c : CtxLoc} (h : s.Inv) : (s.backMember c).Inv := by
  unfold State.backMember
  dsimp only
  refine inv_ite ?_ ?_
  · exact h
  · split
    · split
      · exact State.idleCtx_inv (State.savedRecord_inv h)
      · exact State.savedRecord_inv h
    · split
      · split
        · exact State.idleCtx_inv (State.writeRecord_inv (State.takeExpiry_inv h))
        · exact State.writeRecord_inv (State.takeExpiry_inv h)
      · split
        · exact State.idleCtx_inv (State.writeRecord_inv (State.takeExpiry_inv h))
        · exact State.writeRecord_inv (State.takeExpiry_inv h)

theorem State.backTriple_inv {s : State} {c : CtxLoc} (h : s.Inv) : (s.backTriple c).Inv := by
  unfold State.backTriple
  refine inv_ite ?_ ?_
  · dsimp only
    exact State.enterReady_inv (foldl_inv (fun x1 x2 h1 => State.backMember_inv h1) h)
  · exact h

/-! #### Lunit -/

theorem State.writeBack_inv {s : State} {c : CtxLoc} (h : s.Inv) : (s.writeBack c).Inv := by
  unfold State.writeBack
  dsimp only
  refine inv_ite ?_ ?_
  · exact State.backTriple_inv h
  · split
    · exact h
    · refine inv_ite ?_ ?_
      · exact h
      · split
        · exact State.backReady_inv h
        · exact State.backWaiting_inv h
        · exact h

/-! #### Strands -/

theorem execRecordWriteBack_outInv {c : CtxLoc} {s : State} (h : s.Inv) : OutInv (execRecordWriteBack c s) := by
  unfold execRecordWriteBack
  exact atCtx_outInv h (fun x1 h1 => State.writeBack_inv h1)

theorem State.exitDone_inv {s : State} {c : CtxLoc} (h : s.Inv) : (s.exitDone c).Inv := by
  unfold State.exitDone
  split
  · exact State.endStrand_inv (State.releaseDrain_inv h)
  · exact h

theorem execExitDrainComplete_outInv {c : CtxLoc} {s : State} (h : s.Inv) : OutInv (execExitDrainComplete c s) := by
  unfold execExitDrainComplete
  exact atCtx_outInv h (fun x1 h1 => State.exitDone_inv h1)

/-! #### Sync -/

theorem State.phaseDone_inv {s : State} {p launch g : ℕ} {ph : BitVec 32} {st : Stamp} (h : s.Inv) : (s.phaseDone p launch g ph st).Inv := by
  unfold State.phaseDone
  dsimp only
  exact State.wakeAll_inv (foldl_inv (fun x1 x2 h1 => State.waitEnd_inv (State.onCtx_inv h1)) h)

/-! #### Engines -/

theorem State.decideSwap_inv {s : State} {pcl : ℕ} {k : Cmd} {pa : ℕ} {v : GroupView} (h : s.Inv) : (s.decideSwap pcl k pa v).Inv := by
  unfold State.decideSwap
  dsimp only
  refine State.phaseDone_inv ?_
  refine applyBytes_inv ?_
  refine State.putHead_inv ?_
  refine State.onPart_inv ?_
  refine State.flush_inv ?_
  refine State.stampWrite_inv ?_
  split
  · exact State.engWrite_inv h
  · exact State.noteWalk_inv h
  · exact State.noteTable_inv h
  · exact h

theorem State.wswap_inv {s : State} {pcl : ℕ} (h : s.Inv) : (s.wswap pcl).Inv := by
  unfold State.wswap
  split
  · exact h
  · refine inv_ite ?_ ?_
    · exact h
    · split
      · exact State.putHead_inv h
      · split
        · exact State.putHead_inv (State.noteWalk_inv h)
        · dsimp only
          exact inv_ite (State.putHead_inv h) (inv_ite (State.decideSwap_inv h) h)

theorem execWswapDecision_outInv {pcl : ℕ} {s : State} (h : s.Inv) : OutInv (execWswapDecision pcl s) := by
  unfold execWswapDecision
  exact atClu_outInv h (fun x1 h1 => State.wswap_inv h1)

/-! #### Sync -/

theorem State.applyArrival_inv {s : State} {a : Arrival} (h : s.Inv) : (s.applyArrival a).Inv := by
  unfold State.applyArrival
  dsimp only
  refine inv_ite ?_ ?_
  · exact State.phaseDone_inv (inv_ite (applyBytes_inv (State.inv_with h)) (State.onCtx_inv (applyBytes_inv (State.inv_with h))))
  · exact inv_ite (applyBytes_inv (State.inv_with h)) (State.onCtx_inv (applyBytes_inv (State.inv_with h)))

theorem execGroupArrival_outInv {k : ℕ} {s : State} (h : s.Inv) : OutInv (execGroupArrival k s) := by
  unfold execGroupArrival
  split
  · exact outInv_next h
  · split
    · exact outInv_next h
    · exact outInv_next (State.applyArrival_inv h)

theorem execEventAdd_outInv {k : ℕ} {s : State} (h : s.Inv) : OutInv (execEventAdd k s) := by
  unfold execEventAdd
  split
  · exact outInv_next h
  · split
    · exact outInv_next (State.applyAdd_inv h)
    · exact outInv_next h

/-! #### Lunit -/

theorem failedSave_inv {s : State} {c : CtxLoc} {serial va : ℕ} (h : s.Inv) : (failedSave s c serial va).Inv := by
  unfold failedSave
  dsimp only
  exact inv_ite (State.endError_inv h) h

theorem execWriteApplied_outInv {k : WriteRef} {s : State} (h : s.Inv) : OutInv (execWriteApplied k s) := by
  unfold execWriteApplied
  split
  · exact outInv_next h
  · split
    · exact outInv_next h
    · refine outInv_next ?_
      split
      · exact failedSave_inv (State.inv_with h)
      · exact State.applyOne_inv h

theorem execWriteBufferDrain_outInv {pcl k : ℕ} {s : State} (h : s.Inv) : OutInv (execWriteBufferDrain pcl k s) := by
  unfold execWriteBufferDrain
  refine atClu_outInv ?_ ?_
  · exact h
  · intro x1 h1
    split
    · exact inv_ite (State.drainWith_inv h1) h1
    · exact h1

/-! #### Points -/

theorem execPostPointReached_outInv {c : CtxLoc} {en : Eng} {s : State} (h : s.Inv) : OutInv (execPostPointReached c en s) := by
  unfold execPostPointReached
  exact atCtx_outInv h (fun x1 h1 => inv_ite (State.reachPoint_inv h1) h1)

/-! #### Lunit -/

theorem failL_inv {c : CtxLoc} {i : Item} {r : List Item} {f : Flt} {s : State} (h : s.Inv) : (failL c i r f s).Inv := by
  unfold failL
  dsimp only
  refine inv_ite ?_ ?_
  · exact State.endError_inv h
  · split
    · exact State.raise_inv (State.setCtx_inv h)
    · exact State.raise_inv (State.setCtx_inv h)
    · exact State.raise_inv (State.setCtx_inv h)
    · exact State.raise_inv (State.setCtx_inv h)
    · exact State.raise_inv (State.setCtx_inv h)

theorem rePush_someInv {g : Eng} {c : CtxLoc} {s : State} (h : s.Inv) : SomeInv id (rePush g c s) := by
  unfold rePush
  split
  · split
    · split
      · exact someInv_some (finishHead_inv h)
      · exact someInv_none
    · exact someInv_none
  · exact someInv_none

theorem finishL_inv {c : CtxLoc} {s : State} (h : s.Inv) : (finishL c s).Inv := by
  unfold finishL
  split
  · rename_i h1
    exact rePush_someInv h _ h1
  · dsimp only
    split
    · exact h
    · refine inv_ite ?_ ?_
      · exact h
      · split
        · exact failL_inv h
        · split
          · exact failL_inv h
          · exact inv_ite (State.setCtx_inv h) (finishHead_inv (State.setCtx_inv h))

theorem execLWordFinish_outInv {c : CtxLoc} {s : State} (h : s.Inv) : OutInv (execLWordFinish c s) := by
  unfold execLWordFinish
  exact atCtx_outInv h (fun x1 h1 => finishL_inv h1)

theorem State.setLitem_inv {s : State} {c : CtxLoc} {k : ℕ} {i : Item} (h : s.Inv) : (s.setLitem c k i).Inv := by
  unfold State.setLitem
  exact State.onCtx_inv h

/-! #### Ops -/

theorem State.transfer_inv {s : State} {c : CtxLoc} {near : Bool} (h : s.Inv) : (s.transfer c near).Inv := by
  unfold State.transfer
  dsimp only
  exact inv_ite (State.setSub_inv h) h

/-! #### Access -/

theorem devRead_inv {s : State} {c : CtxLoc} {pa n : ℕ} (h : s.Inv) : (devRead s c pa n).2.2.2.Inv := by
  unfold devRead
  dsimp only
  exact State.setClu_inv h

/-! #### Lunit -/

theorem farReply_inv {c : CtxLoc} {k p : ℕ} {homeError : Bool} {s : State} (h : s.Inv) : (farReply c k p homeError s).Inv := by
  unfold farReply
  dsimp only
  split
  · exact h
  · refine inv_ite ?_ ?_
    · exact h
    · refine State.setLitem_inv ?_
      split
      · exact h
      · exact State.transfer_inv (devRead_inv h)

theorem execFarReply_outInv {c : CtxLoc} {k : PartRef} {homeError : Bool} {s : State} (h : s.Inv) : OutInv (execFarReply c k homeError s) := by
  unfold execFarReply
  exact atCtx_outInv h (fun x1 h1 => farReply_inv h1)

theorem endFreeze_inv {s : State} {pcl sub n : ℕ} (h : s.Inv) : (endFreeze s pcl sub n).Inv := by
  unfold endFreeze
  dsimp only
  exact countFreeze_inv (State.setSub_inv h)

theorem mossStamp_inv {s : State} {c : CtxLoc} {i : Item} (h : s.Inv) : (mossStamp s c i).2.Inv := by
  unfold mossStamp
  split
  · exact State.stampWrite_inv h
  · exact h

theorem nearPart_inv {s : State} {c : CtxLoc} {i : Item} {k : ℕ} {p : LPart} (h : s.Inv) : (nearPart s c i k p).2.Inv := by
  unfold nearPart
  dsimp only
  split
  · split
    · split
      · exact h
      · split
        · exact h
        · split
          · exact mossStamp_inv h
          · exact State.acted_inv (State.setClu_inv (mossStamp_inv h))
    · split
      · split
        · exact mossStamp_inv h
        · exact State.setClu_inv (mossStamp_inv h)
      · split
        · exact h
        · exact h
  · exact h

theorem abandonPart_inv {c : CtxLoc} {k : ℕ} {r : State × List Bool} {p : ℕ} (h : r.1.Inv) : (abandonPart c k r p).1.Inv := by
  unfold abandonPart
  split
  · exact h
  · dsimp only
    exact State.setLitem_inv (inv_ite (nearPart_inv h) h)

theorem watchdog_inv {pcl sub : ℕ} {written : List Bool} {s : State} (h : s.Inv) : (watchdog pcl sub written s).Inv := by
  unfold watchdog
  dsimp only
  refine inv_ite ?_ ?_
  · exact h
  · refine endFreeze_inv ?_
    refine foldl_keeps (P := fun b : State × List Bool => b.1.Inv) ?_ ?_
    · intro x1 x2 h1
      refine foldl_keeps (P := fun b : State × List Bool => b.1.Inv) ?_ ?_
      · exact fun x3 x4 h2 => foldl_keeps (P := fun b : State × List Bool => b.1.Inv) (fun x5 x6 h3 => abandonPart_inv h3) h2
      · exact h1
    · exact h

theorem execFreezeWatchdogExpiry_outInv {pcl sub : ℕ} {written : List Bool} {s : State} (h : s.Inv) :
    OutInv (execFreezeWatchdogExpiry pcl sub written s) := by
  unfold execFreezeWatchdogExpiry
  exact noObject_outInv h (fun x1 h1 => outInv_next (watchdog_inv h1))

theorem nearDone_inv {s : State} {c : CtxLoc} {i : Item} {k : ℕ} {p : LPart} (h : s.Inv) : (nearDone s c i k p).2.Inv := by
  unfold nearDone
  dsimp only
  exact nearPart_inv (inv_ite (inv_ite h (State.transfer_inv h)) (State.sampleFree_inv (inv_ite h (State.transfer_inv h))))

theorem nearArrives_inv {c : CtxLoc} {k p n : ℕ} {s : State} (h : s.Inv) : (nearArrives c k p n s).Inv := by
  unfold nearArrives
  split
  · exact h
  · dsimp only
    refine inv_ite ?_ ?_
    · exact h
    · exact inv_ite (State.setSub_inv (State.setLitem_inv (nearDone_inv h))) (inv_ite h (endFreeze_inv (State.setSub_inv (State.setLitem_inv
        (nearDone_inv h)))))

theorem execNearReplyArrival_outInv {c : CtxLoc} {k : PartRef} {cycles : ℕ} {s : State} (h : s.Inv) : OutInv (execNearReplyArrival c k cycles s) := by
  unfold execNearReplyArrival
  exact atCtx_outInv h (fun x1 h1 => nearArrives_inv h1)

theorem nearDue_inv {c : CtxLoc} {k p : ℕ} {s : State} (h : s.Inv) : (nearDue c k p s).Inv := by
  unfold nearDue
  split
  · exact h
  · exact State.setLitem_inv h

theorem execNearReplyDue_outInv {c : CtxLoc} {k : PartRef} {s : State} (h : s.Inv) : OutInv (execNearReplyDue c k s) := by
  unfold execNearReplyDue
  exact atCtx_outInv h (fun x1 h1 => nearDue_inv h1)

/-! #### Access -/

theorem State.buffer_inv {s : State} {c : CtxLoc} {seq : BitVec 32} {part pa : ℕ} {bs : List Byte} (h : s.Inv) : (s.buffer c seq part pa bs).Inv := by
  unfold State.buffer
  dsimp only
  exact State.inv_with (State.onClu_inv h)

/-! #### Lunit -/

theorem sendAtom_inv {s : State} {c : CtxLoc} {i : Item} {k : ℕ} {p : LPart} {op : ℕ} {word : Bool} (h : s.Inv) :
    (sendAtom s c i k p op word).2.Inv := by
  unfold sendAtom
  dsimp only
  exact State.inv_with (State.stampWrite_inv (State.drainAll_inv h))

theorem askPart_inv {late : Bool} {c : CtxLoc} {before : List Item} {s : State} {i : Item} {k : ℕ} {p : LPart} (h : s.Inv) :
    (askPart late c before s i k p).2.Inv := by
  unfold askPart
  dsimp only
  split
  · exact inv_ite (State.transfer_inv h) h
  · split
    · split
      · split
        · exact State.transfer_inv h
        · exact nearDone_inv (State.transfer_inv h)
      · split
        · exact h
        · exact nearDone_inv h
    · split
      · split
        · exact State.transfer_inv h
        · exact nearDone_inv (State.transfer_inv h)
      · split
        · exact h
        · exact nearDone_inv h
  · split
    · exact State.onCtx_inv (inv_ite (State.transfer_inv h) h)
    · exact inv_ite (State.transfer_inv h) h
  · split
    · exact inv_ite (State.transfer_inv h) h
    · split
      · split
        · exact inv_ite (State.transfer_inv h) h
        · exact sendAtom_inv (inv_ite (State.transfer_inv h) h)
      · split
        · exact inv_ite (State.transfer_inv h) h
        · split
          · exact State.inv_with (State.stampWrite_inv (inv_ite (State.transfer_inv h) h))
          · exact State.buffer_inv (inv_ite (State.transfer_inv h) h)
  · split
    · split
      · split
        · exact State.transfer_inv h
        · split
          · exact State.sendWrite_inv (State.sampleFree_inv (State.transfer_inv h))
          · split
            · exact State.sendWrite_inv (State.sampleFree_inv (State.transfer_inv h))
            · exact State.sendTxn_inv (State.sampleFree_inv (State.transfer_inv h))
      · split
        · exact h
        · split
          · exact State.sendWrite_inv (State.sampleFree_inv h)
          · split
            · exact State.sendWrite_inv (State.sampleFree_inv h)
            · exact State.sendTxn_inv (State.sampleFree_inv h)
    · split
      · split
        · exact State.transfer_inv h
        · split
          · exact State.sendWrite_inv (State.sampleFree_inv (State.transfer_inv h))
          · split
            · exact State.sendWrite_inv (State.sampleFree_inv (State.transfer_inv h))
            · exact State.sendTxn_inv (State.sampleFree_inv (State.transfer_inv h))
      · split
        · exact h
        · split
          · exact State.sendWrite_inv (State.sampleFree_inv h)
          · split
            · exact State.sendWrite_inv (State.sampleFree_inv h)
            · exact State.sendTxn_inv (State.sampleFree_inv h)

theorem askParts_inv {late : Bool} {c : CtxLoc} {before : List Item} {l : List ℕ} {i : Item} {s : State} (h : s.Inv) :
    (askParts late c before l i s).2.Inv := by
  induction l generalizing i s with
  | nil => exact h
  | cons e r ih =>
    unfold askParts
    split
    · exact ih h
    · dsimp only
      refine ih ?_
      · split
        · exact h
        · exact askPart_inv h

theorem askNext_inv {late : Bool} {c : CtxLoc} {before : List Item} {i : Item} {s : State} (h : s.Inv) : (askNext late c before i s).2.Inv := by
  unfold askNext
  dsimp only
  split
  · split
    · exact State.releaseDrain_inv h
    · exact askParts_inv (State.releaseDrain_inv h)
  · split
    · exact h
    · exact askParts_inv h

theorem noteParts_inv {s : State} {c : CtxLoc} {ps : List LPart} (h : s.Inv) : (noteParts s c ps).Inv := by
  unfold noteParts
  dsimp only
  refine foldl_inv ?_ ?_
  · intro x1 x2 h1
    split
    · exact inv_ite h1 (State.noteWalk_inv (fillTlb_inv h1))
    · exact h1
  · exact h

theorem openParts_inv {s : State} {c : CtxLoc} {i : Item} {ps : List LPart} (h : s.Inv) : (openParts s c i ps).2.Inv := by
  unfold openParts
  dsimp only
  split
  · exact noteParts_inv h
  · exact noteParts_inv h

theorem readIndices_inv {s : State} {c : CtxLoc} {f : VF} {n : ℕ} {i : Item} (h : s.Inv) : (readIndices s c f n i).2.Inv := by
  unfold readIndices
  dsimp only
  split
  · exact h
  · split
    · exact openParts_inv h
    · exact h

theorem startL_inv {c : CtxLoc} {late : Bool} {s : State} (h : s.Inv) : (startL c late s).Inv := by
  unfold startL
  split
  · exact h
  · dsimp only
    split
    · exact State.headWaits_inv h
    · exact State.headWaits_inv h
    · refine State.setLitem_inv ?_
      split
      · exact State.setCtx_inv (State.waitEnd_inv h)
      · split
        · split
          · split
            · split
              · split
                · split
                  · exact askNext_inv (readIndices_inv (State.setCtx_inv (State.waitEnd_inv h)))
                  · exact readIndices_inv (State.setCtx_inv (State.waitEnd_inv h))
                · split
                  · exact askNext_inv (readIndices_inv (State.setCtx_inv (State.waitEnd_inv h)))
                  · exact readIndices_inv (State.setCtx_inv (State.waitEnd_inv h))
              · split
                · split
                  · exact askNext_inv (readIndices_inv (State.setCtx_inv (State.waitEnd_inv h)))
                  · exact readIndices_inv (State.setCtx_inv (State.waitEnd_inv h))
                · split
                  · exact askNext_inv (readIndices_inv (State.setCtx_inv (State.waitEnd_inv h)))
                  · exact readIndices_inv (State.setCtx_inv (State.waitEnd_inv h))
            · split
              · split
                · split
                  · exact askNext_inv (readIndices_inv (State.setCtx_inv (State.waitEnd_inv h)))
                  · exact readIndices_inv (State.setCtx_inv (State.waitEnd_inv h))
                · split
                  · exact askNext_inv (readIndices_inv (State.setCtx_inv (State.waitEnd_inv h)))
                  · exact readIndices_inv (State.setCtx_inv (State.waitEnd_inv h))
              · split
                · split
                  · exact askNext_inv (readIndices_inv (State.setCtx_inv (State.waitEnd_inv h)))
                  · exact readIndices_inv (State.setCtx_inv (State.waitEnd_inv h))
                · split
                  · exact askNext_inv (readIndices_inv (State.setCtx_inv (State.waitEnd_inv h)))
                  · exact readIndices_inv (State.setCtx_inv (State.waitEnd_inv h))
          · split
            · split
              · split
                · exact askNext_inv (openParts_inv (State.setCtx_inv (State.waitEnd_inv h)))
                · exact openParts_inv (State.setCtx_inv (State.waitEnd_inv h))
              · split
                · exact askNext_inv (openParts_inv (State.setCtx_inv (State.waitEnd_inv h)))
                · exact openParts_inv (State.setCtx_inv (State.waitEnd_inv h))
            · split
              · split
                · exact askNext_inv (openParts_inv (State.setCtx_inv (State.waitEnd_inv h)))
                · exact openParts_inv (State.setCtx_inv (State.waitEnd_inv h))
              · split
                · exact askNext_inv (openParts_inv (State.setCtx_inv (State.waitEnd_inv h)))
                · exact openParts_inv (State.setCtx_inv (State.waitEnd_inv h))
        · split
          · split
            · split
              · split
                · split
                  · exact askNext_inv (readIndices_inv (State.setCtx_inv (State.waitEnd_inv h)))
                  · exact readIndices_inv (State.setCtx_inv (State.waitEnd_inv h))
                · split
                  · exact askNext_inv (readIndices_inv (State.setCtx_inv (State.waitEnd_inv h)))
                  · exact readIndices_inv (State.setCtx_inv (State.waitEnd_inv h))
              · split
                · split
                  · exact askNext_inv (readIndices_inv (State.setCtx_inv (State.waitEnd_inv h)))
                  · exact readIndices_inv (State.setCtx_inv (State.waitEnd_inv h))
                · split
                  · exact askNext_inv (readIndices_inv (State.setCtx_inv (State.waitEnd_inv h)))
                  · exact readIndices_inv (State.setCtx_inv (State.waitEnd_inv h))
            · split
              · split
                · split
                  · exact askNext_inv (readIndices_inv (State.setCtx_inv (State.waitEnd_inv h)))
                  · exact readIndices_inv (State.setCtx_inv (State.waitEnd_inv h))
                · split
                  · exact askNext_inv (readIndices_inv (State.setCtx_inv (State.waitEnd_inv h)))
                  · exact readIndices_inv (State.setCtx_inv (State.waitEnd_inv h))
              · split
                · split
                  · exact askNext_inv (readIndices_inv (State.setCtx_inv (State.waitEnd_inv h)))
                  · exact readIndices_inv (State.setCtx_inv (State.waitEnd_inv h))
                · split
                  · exact askNext_inv (readIndices_inv (State.setCtx_inv (State.waitEnd_inv h)))
                  · exact readIndices_inv (State.setCtx_inv (State.waitEnd_inv h))
          · split
            · split
              · split
                · exact askNext_inv (openParts_inv (State.setCtx_inv (State.waitEnd_inv h)))
                · exact openParts_inv (State.setCtx_inv (State.waitEnd_inv h))
              · split
                · exact askNext_inv (openParts_inv (State.setCtx_inv (State.waitEnd_inv h)))
                · exact openParts_inv (State.setCtx_inv (State.waitEnd_inv h))
            · split
              · split
                · exact askNext_inv (openParts_inv (State.setCtx_inv (State.waitEnd_inv h)))
                · exact openParts_inv (State.setCtx_inv (State.waitEnd_inv h))
              · split
                · exact askNext_inv (openParts_inv (State.setCtx_inv (State.waitEnd_inv h)))
                · exact openParts_inv (State.setCtx_inv (State.waitEnd_inv h))

theorem execLWordStart_outInv {c : CtxLoc} {late : Bool} {s : State} (h : s.Inv) : OutInv (execLWordStart c late s) := by
  unfold execLWordStart
  exact atCtx_outInv h (fun x1 h1 => startL_inv h1)

/-! #### Matrix -/

theorem finishM_inv {c : CtxLoc} {s : State} (h : s.Inv) : (finishM c s).Inv := by
  unfold finishM
  split
  · rename_i h1
    exact rePush_someInv h _ h1
  · split
    · exact h
    · exact inv_ite (endM_inv h) h

theorem execMWordFinish_outInv {c : CtxLoc} {s : State} (h : s.Inv) : OutInv (execMWordFinish c s) := by
  unfold execMWordFinish
  exact atCtx_outInv h (fun x1 h1 => finishM_inv h1)

theorem execMWordStart_outInv {c : CtxLoc} {s : State} (h : s.Inv) : OutInv (execMWordStart c s) := by
  unfold execMWordStart
  exact atCtx_outInv h (fun x1 h1 => startM_inv h1)

/-! #### VSpecial -/

theorem holdV_inv {c : CtxLoc} {r : VRun} {i : Item} {s : State} (h : s.Inv) : (holdV c r i s).Inv := by
  unfold holdV
  exact State.setCtx_inv h

theorem rowsV_inv {c : CtxLoc} {n : ℕ} {m : Option ℕ} {whole : Bool} {s : State} (h : s.Inv) : (rowsV c n m whole s).Inv := by
  unfold rowsV
  split
  · exact h
  · dsimp only
    split
    · exact State.raise_inv (State.setCtx_inv (readRowsV_inv h))
    · exact State.headWaits_inv (holdV_inv (readRowsV_inv h))
    · exact inv_ite (overV_inv (inv_ite (State.waitEnd_inv (readRowsV_inv h)) (readRowsV_inv h))) (holdV_inv (inv_ite (State.waitEnd_inv
        (readRowsV_inv h)) (readRowsV_inv h)))

theorem finishV_inv {c : CtxLoc} {s : State} (h : s.Inv) : (finishV c s).Inv := by
  unfold finishV
  split
  · rename_i h1
    exact rePush_someInv h _ h1
  · exact inv_ite (rowsV_inv h) h

theorem execVWordFinish_outInv {c : CtxLoc} {s : State} (h : s.Inv) : OutInv (execVWordFinish c s) := by
  unfold execVWordFinish
  exact atCtx_outInv h (fun x1 h1 => finishV_inv h1)

theorem startV_inv {c : CtxLoc} {s : State} (h : s.Inv) : (startV c s).Inv := by
  unfold startV
  dsimp only
  split
  · exact h
  · split
    · refine inv_ite ?_ ?_
      · exact h
      · split
        · exact State.headWaits_inv h
        · exact State.headWaits_inv h
        · split
          · exact State.raise_inv (State.setCtx_inv (State.waitEnd_inv h))
          · exact inv_ite (State.setSub_inv (State.setCtx_inv (State.waitEnd_inv h))) (State.setCtx_inv (State.waitEnd_inv h))
    · exact h

theorem execVWordStart_outInv {c : CtxLoc} {s : State} (h : s.Inv) : OutInv (execVWordStart c s) := by
  unfold execVWordStart
  exact atCtx_outInv h (fun x1 h1 => startV_inv h1)

/-! #### Sregs -/

theorem execSlotmaskTakesEffect_outInv {c : CtxLoc} {s : State} (h : s.Inv) : OutInv (execSlotmaskTakesEffect c s) := by
  unfold execSlotmaskTakesEffect
  exact atCtx_outInv h (fun x1 h1 => inv_ite h1 (State.onCtx_inv h1))

/-! #### Operands -/

theorem State.onCx_inv {s : State} {f : Context → Context} (h : s.Inv) : (s.onCx f).Inv := by
  unfold State.onCx
  exact State.inv_with h

theorem enqueue_inv {g : Eng} {i : Instr} {parcels : ℕ} {a b d : Word} {mask : Mask} {s : State} (h : s.Inv) :
    (enqueue g i parcels a b d mask s).Inv := by
  unfold enqueue
  exact State.onCx_inv h

theorem issue_outInv {i : Instr} {s : State} {k : State → Out} (hs : s.Inv) (h : ∀ y0, y0.Inv → OutInv (k y0)) : OutInv (issue i s k) := by
  unfold issue
  split
  · exact outInv_next hs
  · split
    · exact outInv_next (State.fault_inv hs)
    · split
      · exact outInv_next hs
      · exact h _ hs

/-! #### Matrix -/

theorem issueAcc_outInv {i : Instr} {f : AF} {s : State} (h : s.Inv) : OutInv (issueAcc i f s) := by
  unfold issueAcc
  refine issue_outInv ?_ ?_
  · exact h
  · intro x1 h1
    dsimp only
    split
    · exact outInv_next (State.fault_inv h1)
    · exact outInv_next (enqueue_inv h1)

theorem execAdrain_outInv {f : AF} {s : State} (h : s.Inv) : OutInv (execAdrain f s) := by
  unfold execAdrain
  exact issueAcc_outInv h

theorem execAswap_outInv {f : AF} {s : State} (h : s.Inv) : OutInv (execAswap f s) := by
  unfold execAswap
  exact issueAcc_outInv h

theorem execAclr_outInv {f : AF} {s : State} (h : s.Inv) : OutInv (execAclr f s) := by
  unfold execAclr
  exact issueAcc_outInv h

theorem issueStep_outInv {i : Instr} {f : MF} {s : State} (h : s.Inv) : OutInv (issueStep i f s) := by
  unfold issueStep
  refine issue_outInv ?_ ?_
  · exact h
  · intro x1 h1
    dsimp only
    split
    · exact outInv_next (State.fault_inv h1)
    · exact outInv_next (checkHead_inv (enqueue_inv h1))

theorem execMmaz_outInv {f : MF} {s : State} (h : s.Inv) : OutInv (execMmaz f s) := by
  unfold execMmaz
  exact issueStep_outInv h

theorem execMma_outInv {f : MF} {s : State} (h : s.Inv) : OutInv (execMma f s) := by
  unfold execMma
  exact issueStep_outInv h

/-! #### VMemory -/

theorem issueVM_outInv {i : Instr} {f : VF} {ops : List (ℕ × ℕ)} {rows : Context → List (Option Flt)} {stride : Bool} {d : Context → Word}
    {mask : Context → Mask} {s : State} (h : s.Inv) : OutInv (issueVM i f ops rows stride d mask s) := by
  unfold issueVM
  refine issue_outInv ?_ ?_
  · exact h
  · intro x1 h1
    split
    · exact outInv_next (State.fault_inv h1)
    · split
      · exact outInv_next (State.fault_inv h1)
      · split
        · exact outInv_next (State.fault_inv h1)
        · exact outInv_next (enqueue_inv h1)

theorem execMst_outInv {f : VF} {s : State} (h : s.Inv) : OutInv (execMst f s) := by
  unfold execMst
  exact issueVM_outInv h

theorem execMld_outInv {f : VF} {s : State} (h : s.Inv) : OutInv (execMld f s) := by
  unfold execMld
  exact issueVM_outInv h

theorem execVstx_outInv {f : VF} {s : State} (h : s.Inv) : OutInv (execVstx f s) := by
  unfold execVstx
  exact issueVM_outInv h

theorem execVldx_outInv {f : VF} {s : State} (h : s.Inv) : OutInv (execVldx f s) := by
  unfold execVldx
  exact issueVM_outInv h

theorem execVst_outInv {f : VF} {s : State} (h : s.Inv) : OutInv (execVst f s) := by
  unfold execVst
  exact issueVM_outInv h

theorem execVld_outInv {f : VF} {s : State} (h : s.Inv) : OutInv (execVld f s) := by
  unfold execVld
  exact issueVM_outInv h

/-! #### Vector -/

theorem issueV_outInv {i : Instr} {f : VF} {ops : List (ℕ × ℕ)} {extra : List ℕ} {mask : Context → Mask} {s : State} (h : s.Inv) :
    OutInv (issueV i f ops extra mask s) := by
  unfold issueV
  refine issue_outInv ?_ ?_
  · exact h
  · intro x1 h1
    split
    · exact outInv_next (State.fault_inv h1)
    · split
      · exact outInv_next (State.fault_inv h1)
      · exact outInv_next (enqueue_inv h1)

/-! #### VSpecial -/

theorem execVsample_outInv {f : VF} {s : State} (h : s.Inv) : OutInv (execVsample f s) := by
  unfold execVsample
  exact issueV_outInv h

theorem execVtopk_outInv {f : VF} {s : State} (h : s.Inv) : OutInv (execVtopk f s) := by
  unfold execVtopk
  exact issueV_outInv h

theorem execVrscat_outInv {f : VF} {s : State} (h : s.Inv) : OutInv (execVrscat f s) := by
  unfold execVrscat
  exact issueV_outInv h

theorem execVrgath_outInv {f : VF} {s : State} (h : s.Inv) : OutInv (execVrgath f s) := by
  unfold execVrgath
  exact issueV_outInv h

theorem execVtrn_outInv {f : VF} {s : State} (h : s.Inv) : OutInv (execVtrn f s) := by
  unfold execVtrn
  exact issueV_outInv h

theorem execVshuf_outInv {f : VF} {s : State} (h : s.Inv) : OutInv (execVshuf f s) := by
  unfold execVshuf
  exact issueV_outInv h

theorem execVperm_outInv {f : VF} {s : State} (h : s.Inv) : OutInv (execVperm f s) := by
  unfold execVperm
  exact issueV_outInv h

theorem execVcsum_outInv {f : VF} {s : State} (h : s.Inv) : OutInv (execVcsum f s) := by
  unfold execVcsum
  exact issueV_outInv h

theorem execVscan_outInv {f : VF} {s : State} (h : s.Inv) : OutInv (execVscan f s) := by
  unfold execVscan
  exact issueV_outInv h

theorem execVramax_outInv {f : VF} {s : State} (h : s.Inv) : OutInv (execVramax f s) := by
  unfold execVramax
  exact issueV_outInv h

theorem execVrmin_outInv {f : VF} {s : State} (h : s.Inv) : OutInv (execVrmin f s) := by
  unfold execVrmin
  exact issueV_outInv h

theorem execVrmax_outInv {f : VF} {s : State} (h : s.Inv) : OutInv (execVrmax f s) := by
  unfold execVrmax
  exact issueV_outInv h

theorem execVrsum_outInv {f : VF} {s : State} (h : s.Inv) : OutInv (execVrsum f s) := by
  unfold execVrsum
  exact issueV_outInv h

theorem execVtanh_outInv {f : VF} {s : State} (h : s.Inv) : OutInv (execVtanh f s) := by
  unfold execVtanh
  exact issueV_outInv h

theorem execVlog2_outInv {f : VF} {s : State} (h : s.Inv) : OutInv (execVlog2 f s) := by
  unfold execVlog2
  exact issueV_outInv h

theorem execVexp2_outInv {f : VF} {s : State} (h : s.Inv) : OutInv (execVexp2 f s) := by
  unfold execVexp2
  exact issueV_outInv h

theorem execVdiv_outInv {f : VF} {s : State} (h : s.Inv) : OutInv (execVdiv f s) := by
  unfold execVdiv
  exact issueV_outInv h

theorem execVsqrt_outInv {f : VF} {s : State} (h : s.Inv) : OutInv (execVsqrt f s) := by
  unfold execVsqrt
  exact issueV_outInv h

theorem execVrsq_outInv {f : VF} {s : State} (h : s.Inv) : OutInv (execVrsq f s) := by
  unfold execVrsq
  exact issueV_outInv h

theorem execVrcp_outInv {f : VF} {s : State} (h : s.Inv) : OutInv (execVrcp f s) := by
  unfold execVrcp
  exact issueV_outInv h

/-! #### Vector -/

theorem execVretag_outInv {f : VF} {s : State} (h : s.Inv) : OutInv (execVretag f s) := by
  unfold execVretag
  exact issueV_outInv h

theorem execVdq_outInv {f : VF} {s : State} (h : s.Inv) : OutInv (execVdq f s) := by
  unfold execVdq
  exact issueV_outInv h

theorem execVqnt_outInv {f : VF} {s : State} (h : s.Inv) : OutInv (execVqnt f s) := by
  unfold execVqnt
  exact issueV_outInv h

theorem execVcvt_outInv {f : VF} {s : State} (h : s.Inv) : OutInv (execVcvt f s) := by
  unfold execVcvt
  exact issueV_outInv h

theorem execMfirst_outInv {f : VF} {s : State} (h : s.Inv) : OutInv (execMfirst f s) := by
  unfold execMfirst
  exact issueV_outInv h

theorem execMcnt_outInv {f : VF} {s : State} (h : s.Inv) : OutInv (execMcnt f s) := by
  unfold execMcnt
  exact issueV_outInv h

theorem execMnot_outInv {f : VF} {s : State} (h : s.Inv) : OutInv (execMnot f s) := by
  unfold execMnot
  exact issueV_outInv h

theorem execMxor_outInv {f : VF} {s : State} (h : s.Inv) : OutInv (execMxor f s) := by
  unfold execMxor
  exact issueV_outInv h

theorem execMor_outInv {f : VF} {s : State} (h : s.Inv) : OutInv (execMor f s) := by
  unfold execMor
  exact issueV_outInv h

theorem execMand_outInv {f : VF} {s : State} (h : s.Inv) : OutInv (execMand f s) := by
  unfold execMand
  exact issueV_outInv h

theorem execVsel_outInv {f : VF} {s : State} (h : s.Inv) : OutInv (execVsel f s) := by
  unfold execVsel
  exact issueV_outInv h

theorem execVcmp_outInv {f : VF} {s : State} (h : s.Inv) : OutInv (execVcmp f s) := by
  unfold execVcmp
  exact issueV_outInv h

theorem execVfshr_outInv {f : VF} {s : State} (h : s.Inv) : OutInv (execVfshr f s) := by
  unfold execVfshr
  exact issueV_outInv h

theorem execVfshl_outInv {f : VF} {s : State} (h : s.Inv) : OutInv (execVfshl f s) := by
  unfold execVfshl
  exact issueV_outInv h

theorem execVrot_outInv {f : VF} {s : State} (h : s.Inv) : OutInv (execVrot f s) := by
  unfold execVrot
  exact issueV_outInv h

theorem execVsar_outInv {f : VF} {s : State} (h : s.Inv) : OutInv (execVsar f s) := by
  unfold execVsar
  exact issueV_outInv h

theorem execVshr_outInv {f : VF} {s : State} (h : s.Inv) : OutInv (execVshr f s) := by
  unfold execVshr
  exact issueV_outInv h

theorem execVshl_outInv {f : VF} {s : State} (h : s.Inv) : OutInv (execVshl f s) := by
  unfold execVshl
  exact issueV_outInv h

theorem execVlut3_outInv {f : VF} {s : State} (h : s.Inv) : OutInv (execVlut3 f s) := by
  unfold execVlut3
  exact issueV_outInv h

theorem execVxor_outInv {f : VF} {s : State} (h : s.Inv) : OutInv (execVxor f s) := by
  unfold execVxor
  exact issueV_outInv h

theorem execVor_outInv {f : VF} {s : State} (h : s.Inv) : OutInv (execVor f s) := by
  unfold execVor
  exact issueV_outInv h

theorem execVand_outInv {f : VF} {s : State} (h : s.Inv) : OutInv (execVand f s) := by
  unfold execVand
  exact issueV_outInv h

theorem execVpopc_outInv {f : VF} {s : State} (h : s.Inv) : OutInv (execVpopc f s) := by
  unfold execVpopc
  exact issueV_outInv h

theorem execVclz_outInv {f : VF} {s : State} (h : s.Inv) : OutInv (execVclz f s) := by
  unfold execVclz
  exact issueV_outInv h

theorem execViabs_outInv {f : VF} {s : State} (h : s.Inv) : OutInv (execViabs f s) := by
  unfold execViabs
  exact issueV_outInv h

theorem execVimax_outInv {f : VF} {s : State} (h : s.Inv) : OutInv (execVimax f s) := by
  unfold execVimax
  exact issueV_outInv h

theorem execVimin_outInv {f : VF} {s : State} (h : s.Inv) : OutInv (execVimin f s) := by
  unfold execVimin
  exact issueV_outInv h

theorem execVimad_outInv {f : VF} {s : State} (h : s.Inv) : OutInv (execVimad f s) := by
  unfold execVimad
  exact issueV_outInv h

theorem execVimulh_outInv {f : VF} {s : State} (h : s.Inv) : OutInv (execVimulh f s) := by
  unfold execVimulh
  exact issueV_outInv h

theorem execVimul_outInv {f : VF} {s : State} (h : s.Inv) : OutInv (execVimul f s) := by
  unfold execVimul
  exact issueV_outInv h

theorem execVisub_outInv {f : VF} {s : State} (h : s.Inv) : OutInv (execVisub f s) := by
  unfold execVisub
  exact issueV_outInv h

theorem execViadd_outInv {f : VF} {s : State} (h : s.Inv) : OutInv (execViadd f s) := by
  unfold execViadd
  exact issueV_outInv h

theorem execVbcst_outInv {f : VF} {s : State} (h : s.Inv) : OutInv (execVbcst f s) := by
  unfold execVbcst
  exact issueV_outInv h

theorem execVcpy_outInv {f : VF} {s : State} (h : s.Inv) : OutInv (execVcpy f s) := by
  unfold execVcpy
  exact issueV_outInv h

theorem execVscl_outInv {f : VF} {s : State} (h : s.Inv) : OutInv (execVscl f s) := by
  unfold execVscl
  exact issueV_outInv h

theorem execVneg_outInv {f : VF} {s : State} (h : s.Inv) : OutInv (execVneg f s) := by
  unfold execVneg
  exact issueV_outInv h

theorem execVabs_outInv {f : VF} {s : State} (h : s.Inv) : OutInv (execVabs f s) := by
  unfold execVabs
  exact issueV_outInv h

theorem execVmax_outInv {f : VF} {s : State} (h : s.Inv) : OutInv (execVmax f s) := by
  unfold execVmax
  exact issueV_outInv h

theorem execVmin_outInv {f : VF} {s : State} (h : s.Inv) : OutInv (execVmin f s) := by
  unfold execVmin
  exact issueV_outInv h

theorem execVfms_outInv {f : VF} {s : State} (h : s.Inv) : OutInv (execVfms f s) := by
  unfold execVfms
  exact issueV_outInv h

theorem execVfma_outInv {f : VF} {s : State} (h : s.Inv) : OutInv (execVfma f s) := by
  unfold execVfma
  exact issueV_outInv h

theorem execVmul_outInv {f : VF} {s : State} (h : s.Inv) : OutInv (execVmul f s) := by
  unfold execVmul
  exact issueV_outInv h

theorem execVsub_outInv {f : VF} {s : State} (h : s.Inv) : OutInv (execVsub f s) := by
  unfold execVsub
  exact issueV_outInv h

theorem execVadd_outInv {f : VF} {s : State} (h : s.Inv) : OutInv (execVadd f s) := by
  unfold execVadd
  exact issueV_outInv h

/-! #### EngCheck -/

theorem engWord_outInv {i : Instr} {f : EF} {s : State} (h : s.Inv) : OutInv (engWord i f s) := by
  unfold engWord
  refine issue_outInv ?_ ?_
  · exact h
  · intro x1 h1
    dsimp only
    split
    · exact outInv_next (State.fault_inv h1)
    · exact outInv_next (State.onCx_inv (enqueue_inv h1))

theorem execEngCqry_outInv {f : EF} {s : State} (h : s.Inv) : OutInv (execEngCqry f s) := by
  unfold execEngCqry
  exact engWord_outInv h

theorem execEngWstat_outInv {f : EF} {s : State} (h : s.Inv) : OutInv (execEngWstat f s) := by
  unfold execEngWstat
  exact engWord_outInv h

theorem execEngWswap_outInv {f : EF} {s : State} (h : s.Inv) : OutInv (execEngWswap f s) := by
  unfold execEngWswap
  exact engWord_outInv h

theorem execEngSeqclose_outInv {f : EF} {s : State} (h : s.Inv) : OutInv (execEngSeqclose f s) := by
  unfold execEngSeqclose
  exact engWord_outInv h

theorem execEngSeqopen_outInv {f : EF} {s : State} (h : s.Inv) : OutInv (execEngSeqopen f s) := by
  unfold execEngSeqopen
  exact engWord_outInv h

theorem execEngTwstat_outInv {f : EF} {s : State} (h : s.Inv) : OutInv (execEngTwstat f s) := by
  unfold execEngTwstat
  exact engWord_outInv h

theorem execEngTkrej_outInv {f : EF} {s : State} (h : s.Inv) : OutInv (execEngTkrej f s) := by
  unfold execEngTkrej
  exact engWord_outInv h

theorem execEngTkconf_outInv {f : EF} {s : State} (h : s.Inv) : OutInv (execEngTkconf f s) := by
  unfold execEngTkconf
  exact engWord_outInv h

theorem execEngTkcmt_outInv {f : EF} {s : State} (h : s.Inv) : OutInv (execEngTkcmt f s) := by
  unfold execEngTkcmt
  exact engWord_outInv h

theorem execEngTwbud_outInv {f : EF} {s : State} (h : s.Inv) : OutInv (execEngTwbud f s) := by
  unfold execEngTwbud
  exact engWord_outInv h

theorem execEngTwclr_outInv {f : EF} {s : State} (h : s.Inv) : OutInv (execEngTwclr f s) := by
  unfold execEngTwclr
  exact engWord_outInv h

theorem execEngTwset_outInv {f : EF} {s : State} (h : s.Inv) : OutInv (execEngTwset f s) := by
  unfold execEngTwset
  exact engWord_outInv h

theorem execEngEvsig_outInv {f : EF} {s : State} (h : s.Inv) : OutInv (execEngEvsig f s) := by
  unfold execEngEvsig
  exact engWord_outInv h

theorem execEngFcas_outInv {f : EF} {s : State} (h : s.Inv) : OutInv (execEngFcas f s) := by
  unfold execEngFcas
  exact engWord_outInv h

theorem execEngFamo_outInv {f : EF} {s : State} (h : s.Inv) : OutInv (execEngFamo f s) := by
  unfold execEngFamo
  exact engWord_outInv h

theorem execEngColl_outInv {f : EF} {s : State} (h : s.Inv) : OutInv (execEngColl f s) := by
  unfold execEngColl
  exact engWord_outInv h

theorem execEngScatteradd_outInv {f : EF} {s : State} (h : s.Inv) : OutInv (execEngScatteradd f s) := by
  unfold execEngScatteradd
  exact engWord_outInv h

theorem execEngScatter_outInv {f : EF} {s : State} (h : s.Inv) : OutInv (execEngScatter f s) := by
  unfold execEngScatter
  exact engWord_outInv h

theorem execEngGather_outInv {f : EF} {s : State} (h : s.Inv) : OutInv (execEngGather f s) := by
  unfold execEngGather
  exact engWord_outInv h

theorem execEngRefresh_outInv {f : EF} {s : State} (h : s.Inv) : OutInv (execEngRefresh f s) := by
  unfold execEngRefresh
  exact engWord_outInv h

theorem execEngFill_outInv {f : EF} {s : State} (h : s.Inv) : OutInv (execEngFill f s) := by
  unfold execEngFill
  exact engWord_outInv h

theorem execEngCopy_outInv {f : EF} {s : State} (h : s.Inv) : OutInv (execEngCopy f s) := by
  unfold execEngCopy
  exact engWord_outInv h

/-! #### Sregs -/

theorem afterRead_inv {s : State} {n : ℕ} (h : s.Inv) : (afterRead s n).Inv := by
  unfold afterRead
  refine inv_ite ?_ ?_
  · dsimp only
    exact State.inv_with (State.onCx_inv h)
  · refine inv_ite ?_ ?_
    · dsimp only
      exact State.inv_with (State.onCx_inv h)
    · exact inv_ite (State.inv_with h) h

/-! #### Sync -/

theorem execLeaverd_outInv {rd : Reg} {s : State} (h : s.Inv) : OutInv (execLeaverd rd s) := by
  unfold execLeaverd
  refine issue_outInv ?_ ?_
  · exact h
  · intro x1 h1
    dsimp only
    exact outInv_next (State.onCx_inv (afterRead_inv h1))

/-! #### System -/

theorem State.waited_inv {s : State} (h : s.Inv) : s.waited.Inv := by
  unfold State.waited
  exact State.waitEnd_inv h

theorem State.waiting_inv {s : State} {kind : BitVec 8} {obj : Word} (h : s.Inv) : (s.waiting kind obj).Inv := by
  unfold State.waiting
  exact State.onCx_inv h

/-! #### Sync -/

theorem execLeave_outInv {rd rs1 : Reg} {s : State} (h : s.Inv) : OutInv (execLeave rd rs1 s) := by
  unfold execLeave
  refine issue_outInv ?_ ?_
  · exact h
  · intro x1 h1
    dsimp only
    split
    · exact outInv_next (State.fault_inv h1)
    · split
      · exact outInv_next (State.fault_inv h1)
      · split
        · exact outInv_next (State.fault_inv h1)
        · split
          · exact outInv_next (State.onCx_inv (State.returnLeave_inv h1))
          · split
            · split
              · exact outInv_next (State.waiting_inv h1)
              · exact outInv_next (State.waited_inv (State.onCx_inv (State.setSub_inv h1)))
            · split
              · exact outInv_next (State.waiting_inv h1)
              · exact outInv_next (State.waited_inv (State.onCx_inv (State.setSub_inv h1)))

/-! #### Operands -/

theorem enqueuePoint_inv {g : Eng} {i : Instr} {a b d : Word} {s : State} (h : s.Inv) : (enqueuePoint g i a b d s).1.Inv := by
  unfold enqueuePoint
  dsimp only
  split
  · exact h
  · exact State.onCx_inv h

/-! #### Points -/

theorem placePoint_inv {g : Eng} {i : Instr} {a b : Word} {k : State → State} {s : State} (hk : ∀ y0, y0.Inv → (k y0).Inv) (h : s.Inv) :
    (placePoint g i a b k s).Inv := by
  unfold placePoint
  dsimp only
  exact inv_ite (enqueuePoint_inv h) (inv_ite (State.reachPoint_inv (hk _ (enqueuePoint_inv h))) (hk _ (enqueuePoint_inv h)))

theorem mossWord_outInv {i : Instr} {a b : Context → Word} {s : State} (h : s.Inv) : OutInv (mossWord i a b s) := by
  unfold mossWord
  refine issue_outInv ?_ ?_
  · exact h
  · intro x1 h1
    split
    · exact outInv_next (State.fault_inv h1)
    · exact outInv_next (placePoint_inv (fun x3 h3 => h3) h1)

theorem execMquery_outInv {rd rs1 rs2 : Reg} {s : State} (h : s.Inv) : OutInv (execMquery rd rs1 rs2 s) := by
  unfold execMquery
  exact mossWord_outInv h

theorem execMage_outInv {rd rs1 : Reg} {s : State} (h : s.Inv) : OutInv (execMage rd rs1 s) := by
  unfold execMage
  exact mossWord_outInv h

theorem execMrefresh_outInv {rd rs1 rs2 : Reg} {s : State} (h : s.Inv) : OutInv (execMrefresh rd rs1 rs2 s) := by
  unfold execMrefresh
  exact mossWord_outInv h

theorem execMfree_outInv {rd rs1 rs2 : Reg} {s : State} (h : s.Inv) : OutInv (execMfree rd rs1 rs2 s) := by
  unfold execMfree
  exact mossWord_outInv h

theorem execMclass_outInv {cls : BitVec 3} {rd rs1 rs2 : Reg} {s : State} (h : s.Inv) : OutInv (execMclass cls rd rs1 rs2 s) := by
  unfold execMclass
  exact mossWord_outInv h

/-! #### Sync -/

theorem execRinit_outInv {n : BitVec 2} {rs1 : Reg} {s : State} (h : s.Inv) : OutInv (execRinit n rs1 s) := by
  unfold execRinit
  refine issue_outInv ?_ ?_
  · exact h
  · intro x1 h1
    dsimp only
    split
    · exact outInv_next (State.fault_inv h1)
    · split
      · exact outInv_next (State.fault_inv h1)
      · split
        · split
          · exact outInv_next (State.fault_inv h1)
          · split
            · split
              · exact outInv_next (State.waiting_inv h1)
              · split
                · exact outInv_next (State.fault_inv h1)
                · rename_i h8
                  split
                  · exact outInv_next (State.fault_inv h1)
                  · rename_i h9
                    exact outInv_next (State.wakeRing_inv (State.waited_inv (State.onCx_inv (ringWrite_okInv (ringWrite_okInv h1 _ h8) _ h9))))
            · exact outInv_next (State.onCx_inv h1)
        · split
          · exact outInv_next (State.fault_inv h1)
          · split
            · split
              · exact outInv_next (State.waiting_inv h1)
              · split
                · exact outInv_next (State.fault_inv h1)
                · rename_i h8
                  split
                  · exact outInv_next (State.fault_inv h1)
                  · rename_i h9
                    exact outInv_next (State.wakeRing_inv (State.waited_inv (State.onCx_inv (ringWrite_okInv (ringWrite_okInv h1 _ h8) _ h9))))
            · exact outInv_next (State.onCx_inv h1)

theorem execRpop_outInv {rd : Reg} {n : BitVec 2} {s : State} (h : s.Inv) : OutInv (execRpop rd n s) := by
  unfold execRpop
  refine issue_outInv ?_ ?_
  · exact h
  · intro x1 h1
    dsimp only
    split
    · exact outInv_next (State.fault_inv h1)
    · split
      · exact outInv_next (State.waiting_inv h1)
      · split
        · exact outInv_next (State.fault_inv h1)
        · split
          · exact outInv_next (State.waiting_inv h1)
          · split
            · exact outInv_next (State.fault_inv h1)
            · split
              · exact outInv_next (State.fault_inv h1)
              · rename_i h7
                exact outInv_next (State.wakeRing_inv (State.waited_inv (State.onCx_inv (ringWrite_okInv h1 _ h7))))

theorem execRpsh_outInv {n : BitVec 2} {rs1 : Reg} {s : State} (h : s.Inv) : OutInv (execRpsh n rs1 s) := by
  unfold execRpsh
  refine issue_outInv ?_ ?_
  · exact h
  · intro x1 h1
    dsimp only
    split
    · exact outInv_next (State.fault_inv h1)
    · split
      · exact outInv_next (State.waiting_inv h1)
      · split
        · exact outInv_next (State.fault_inv h1)
        · split
          · exact outInv_next (State.waiting_inv h1)
          · split
            · exact outInv_next (State.fault_inv h1)
            · rename_i h6
              split
              · exact outInv_next (State.fault_inv h1)
              · rename_i h7
                exact outInv_next (State.wakeRing_inv (State.waited_inv (State.onCx_inv (ringWrite_okInv (ringWrite_okInv h1 _ h6) _ h7))))

/-! #### Points -/

theorem countWord_outInv {i : Instr} {rs1 rs2 : Reg} {s : State} (h : s.Inv) : OutInv (countWord i rs1 rs2 s) := by
  unfold countWord
  refine issue_outInv ?_ ?_
  · exact h
  · intro x1 h1
    dsimp only
    split
    · exact outInv_next (State.fault_inv h1)
    · exact outInv_next (placePoint_inv (fun x3 h3 => h3) h1)

theorem execEvset_outInv {rs1 rs2 : Reg} {s : State} (h : s.Inv) : OutInv (execEvset rs1 rs2 s) := by
  unfold execEvset
  exact countWord_outInv h

/-! #### Sync -/

theorem execEvrd_outInv {rd rs1 : Reg} {s : State} (h : s.Inv) : OutInv (execEvrd rd rs1 s) := by
  unfold execEvrd
  refine issue_outInv ?_ ?_
  · exact h
  · intro x1 h1
    dsimp only
    split
    · exact outInv_next (State.fault_inv h1)
    · exact outInv_next (State.onCx_inv h1)

theorem execEvwait_outInv {rd rs1 rs2 : Reg} {s : State} (h : s.Inv) : OutInv (execEvwait rd rs1 rs2 s) := by
  unfold execEvwait
  refine issue_outInv h ?_
  intro s h
  dsimp only
  split
  · exact outInv_next (State.fault_inv h)
  · generalize EvReg.seen _ = r
    cases r with
    | some r => exact outInv_next (State.waited_inv (State.onCx_inv h))
    | none => exact outInv_next (State.waiting_inv (State.onCx_inv h))


/-! #### Points -/

theorem execEvadd_outInv {sc : Scope} {rs1 rs2 : Reg} {s : State} (h : s.Inv) : OutInv (execEvadd sc rs1 rs2 s) := by
  unfold execEvadd
  exact countWord_outInv h

theorem launchWord_outInv {i : Instr} {rs1 : Reg} {block : Bool} {s : State} (h : s.Inv) : OutInv (launchWord i rs1 block s) := by
  unfold launchWord
  refine issue_outInv ?_ ?_
  · exact h
  · intro x1 h1
    dsimp only
    split
    · split
      · exact outInv_next (State.fault_inv h1)
      · exact outInv_next (placePoint_inv (fun x4 h4 => inv_ite (State.onCx_inv h4) h4) h1)
    · exact outInv_next (State.fault_inv h1)

theorem execLaunchBlock_outInv {rd rs1 : Reg} {s : State} (h : s.Inv) : OutInv (execLaunchBlock rd rs1 s) := by
  unfold execLaunchBlock
  exact launchWord_outInv h

theorem execLaunch_outInv {rd rs1 : Reg} {s : State} (h : s.Inv) : OutInv (execLaunch rd rs1 s) := by
  unfold execLaunch
  exact launchWord_outInv h

theorem State.seeGroup_inv {s : State} {v : GroupView} (h : s.Inv) : (s.seeGroup v).Inv := by
  unfold State.seeGroup
  exact State.onCx_inv (devRead_inv h)

theorem State.groupFault_inv {s : State} {e : BitVec 8 × Word} (h : s.Inv) : (s.groupFault e).Inv := by
  unfold State.groupFault
  exact State.fault_inv (inv_ite (State.noteWalk_inv h) h)

theorem execGrpinfo_outInv {rd : Reg} {k : BitVec 2} {s : State} (h : s.Inv) : OutInv (execGrpinfo rd k s) := by
  unfold execGrpinfo
  refine issue_outInv ?_ ?_
  · exact h
  · intro x1 h1
    split
    · exact outInv_next (State.groupFault_inv h1)
    · exact outInv_next (State.onCx_inv (State.seeGroup_inv h1))

theorem execBarwait_outInv {k : BitVec 2} {rs1 : Reg} {s : State} (h : s.Inv) : OutInv (execBarwait k rs1 s) := by
  unfold execBarwait
  refine issue_outInv ?_ ?_
  · exact h
  · intro x1 h1
    split
    · exact outInv_next (State.groupFault_inv h1)
    · dsimp only
      split
      · exact outInv_next (State.onCx_inv (State.waited_inv (State.seeGroup_inv h1)))
      · exact outInv_next (State.waiting_inv h1)

theorem execBararr_outInv {rd : Reg} {k : BitVec 2} {s : State} (h : s.Inv) : OutInv (execBararr rd k s) := by
  unfold execBararr
  refine issue_outInv ?_ ?_
  · exact h
  · intro x1 h1
    split
    · exact outInv_next (State.groupFault_inv h1)
    · exact outInv_next (placePoint_inv (fun x4 h3 => h3) h1)

theorem execBar_outInv {k : BitVec 2} {s : State} (h : s.Inv) : OutInv (execBar k s) := by
  unfold execBar
  refine issue_outInv ?_ ?_
  · exact h
  · intro x1 h1
    split
    · exact outInv_next (State.groupFault_inv h1)
    · exact outInv_next (placePoint_inv (fun x4 h3 => State.onCx_inv h3) h1)

/-! #### Sync -/

theorem execSuspend_outInv {rd rs1 rs2 : Reg} {s : State} (h : s.Inv) : OutInv (execSuspend rd rs1 rs2 s) := by
  unfold execSuspend
  refine issue_outInv ?_ ?_
  · exact h
  · intro x1 h1
    dsimp only
    split
    · exact outInv_next (State.fault_inv h1)
    · split
      · exact outInv_next (State.fault_inv h1)
      · split
        · exact outInv_next (State.fault_inv h1)
        · exact outInv_next (State.onCx_inv h1)

theorem execYield_outInv {idx : BitVec 16} {s : State} (h : s.Inv) : OutInv (execYield idx s) := by
  unfold execYield
  refine issue_outInv ?_ ?_
  · exact h
  · intro x1 h1
    dsimp only
    split
    · exact outInv_next (State.onCx_inv h1)
    · split
      · exact outInv_next (State.onCx_inv h1)
      · split
        · exact outInv_next (State.onCx_inv h1)
        · split
          · exact outInv_next (State.fault_inv (State.noteRead_inv h1))
          · exact outInv_next (State.fault_inv h1)
          · exact outInv_next (State.onCx_inv h1)

/-! #### System -/

theorem execToktake_outInv {snd rcv : Eng} {s : State} (h : s.Inv) : OutInv (execToktake snd rcv s) := by
  unfold execToktake
  refine issue_outInv ?_ ?_
  · exact h
  · intro x1 h1
    split
    · exact outInv_next (State.fault_inv h1)
    · split
      · exact outInv_next (State.waiting_inv h1)
      · dsimp only
        split
        · exact outInv_next (State.onCx_inv (State.waited_inv (State.onCx_inv h1)))
        · exact outInv_next (State.fault_inv (State.waited_inv (State.onCx_inv h1)))

/-! #### Points -/

theorem execTokpost_outInv {snd rcv : Eng} {s : State} (h : s.Inv) : OutInv (execTokpost snd rcv s) := by
  unfold execTokpost
  refine issue_outInv ?_ ?_
  · exact h
  · intro x1 h1
    split
    · exact outInv_next (State.fault_inv h1)
    · exact outInv_next (placePoint_inv (fun x2 h3 => h3) h1)

/-! #### System -/

theorem execOwnwait_outInv {rs1 : Reg} {s : State} (h : s.Inv) : OutInv (execOwnwait rs1 s) := by
  unfold execOwnwait
  refine issue_outInv ?_ ?_
  · exact h
  · intro x1 h1
    dsimp only
    split
    · exact outInv_next (State.fault_inv h1)
    · exact outInv_next (State.waiting_inv h1)
    · exact outInv_next (State.onCx_inv (State.waited_inv h1))

theorem execExit_outInv {s : State} (h : s.Inv) : OutInv (execExit s) := by
  unfold execExit
  refine issue_outInv ?_ ?_
  · exact h
  · exact fun x1 h1 => outInv_next (inv_ite (checkHead_inv (State.onCx_inv h1)) (State.onCx_inv h1))

theorem execBkpt_outInv {s : State} (h : s.Inv) : OutInv (execBkpt s) := by
  unfold execBkpt
  exact issue_outInv h (fun x1 h1 => outInv_next (State.fault_inv h1))

theorem State.deliverPending_inv {s : State} {c : CtxLoc} (h : s.Inv) : (s.deliverPending c).Inv := by
  unfold State.deliverPending
  dsimp only
  refine inv_ite ?_ ?_
  · exact h
  · split
    · exact h
    · rename_i h1
      exact State.raise_inv (snd_inv h1 (State.takeExpiry_inv h))

theorem execTret_outInv {s : State} (h : s.Inv) : OutInv (execTret s) := by
  unfold execTret
  refine issue_outInv ?_ ?_
  · exact h
  · intro x1 h1
    split
    · exact outInv_next (State.fault_inv h1)
    · split
      · exact outInv_next (State.fault_inv h1)
      · split
        · exact outInv_next h1
        · dsimp only
          exact outInv_next (State.deliverPending_inv (State.goesOn_inv (State.onCx_inv h1)))

theorem execTrap_outInv {rs1 : Reg} {s : State} (h : s.Inv) : OutInv (execTrap rs1 s) := by
  unfold execTrap
  refine issue_outInv ?_ ?_
  · exact h
  · intro x1 h1
    dsimp only
    exact outInv_next (State.raise_inv (State.onCx_inv h1))

/-! #### Sregs -/

theorem mtsForm_outInv {i : Instr} {n : ℕ} {rs1 : Reg} {k : State → Word → Except (BitVec 8 × Word) State} {s : State}
    (hk : ∀ s v, s.Inv → OkInv id (k s v)) (h : s.Inv) : OutInv (mtsForm i n rs1 k s) := by
  unfold mtsForm
  refine issue_outInv h ?_
  intro s h
  split
  · exact outInv_next (State.fault_inv h)
  · split
    · exact outInv_next (State.fault_inv h)
    · split
      · exact outInv_next (State.fault_inv h)
      · rename_i t heq
        exact outInv_next (State.onCx_inv (hk _ _ h t heq))

theorem execMtsPwrevt_outInv {rs1 : Reg} {s : State} (h : s.Inv) : OutInv (execMtsPwrevt rs1 s) := by
  unfold execMtsPwrevt
  refine mtsForm_outInv ?_ ?_
  · intro x1 x2 h1
    dsimp only
    split
    · exact okInv_ok (State.onPart_inv h1)
    · split
      · exact okInv_error 
      · exact okInv_ok (State.onPart_inv h1)
  · exact h

theorem execMtsMonsnap_outInv {rs1 : Reg} {s : State} (h : s.Inv) : OutInv (execMtsMonsnap rs1 s) := by
  unfold execMtsMonsnap
  refine mtsForm_outInv ?_ ?_
  · intro x1 x2 h1
    dsimp only
    split
    · exact okInv_error 
    · exact okInv_ok (State.setClu_inv h1)
  · exact h

theorem execMtsMon_outInv {k : BitVec 4} {rs1 : Reg} {s : State} (h : s.Inv) : OutInv (execMtsMon k rs1 s) := by
  unfold execMtsMon
  refine mtsForm_outInv ?_ ?_
  · intro x1 x2 h1
    split
    · exact okInv_error 
    · exact okInv_ok (State.onClu_inv h1)
  · exact h

theorem execMtsBiasctl_outInv {rs1 : Reg} {s : State} (h : s.Inv) : OutInv (execMtsBiasctl rs1 s) := by
  unfold execMtsBiasctl
  exact mtsForm_outInv (fun x1 x2 h1 => okInv_ok (State.onClu_inv h1)) h

theorem execMtsLeaveslot_outInv {rs1 : Reg} {s : State} (h : s.Inv) : OutInv (execMtsLeaveslot rs1 s) := by
  unfold execMtsLeaveslot
  refine mtsForm_outInv ?_ ?_
  · intro x1 x2 h1
    split
    · exact okInv_error 
    · exact okInv_ok (State.onClu_inv h1)
  · exact h

theorem execMtsLeaveclus_outInv {rs1 : Reg} {s : State} (h : s.Inv) : OutInv (execMtsLeaveclus rs1 s) := by
  unfold execMtsLeaveclus
  refine mtsForm_outInv ?_ ?_
  · intro x1 x2 h1
    dsimp only
    split
    · exact okInv_error 
    · exact okInv_ok (State.onClu_inv h1)
  · exact h

theorem execMtsMosslim_outInv {k : BitVec 3} {rs1 : Reg} {s : State} (h : s.Inv) : OutInv (execMtsMosslim k rs1 s) := by
  unfold execMtsMosslim
  refine mtsForm_outInv ?_ ?_
  · intro x1 x2 h1
    dsimp only
    split
    · exact okInv_ok (State.onPart_inv h1)
    · exact okInv_error 
  · exact h

theorem execMtsLeavegrant_outInv {rs1 : Reg} {s : State} (h : s.Inv) : OutInv (execMtsLeavegrant rs1 s) := by
  unfold execMtsLeavegrant
  refine mtsForm_outInv ?_ ?_
  · intro x1 x2 h1
    dsimp only
    split
    · exact okInv_error 
    · exact okInv_ok (State.setSub_inv h1)
  · exact h

theorem execMtsPreq_outInv {rs1 : Reg} {s : State} (h : s.Inv) : OutInv (execMtsPreq rs1 s) := by
  unfold execMtsPreq
  exact mtsForm_outInv (fun x1 x2 h1 => okInv_ok (State.onCx_inv h1)) h

theorem execMtsSlotmask_outInv {rs1 : Reg} {s : State} (h : s.Inv) : OutInv (execMtsSlotmask rs1 s) := by
  unfold execMtsSlotmask
  refine mtsForm_outInv ?_ ?_
  · intro x1 x2 h1
    dsimp only
    split
    · split
      · exact okInv_error 
      · exact okInv_ok (State.onCx_inv h1)
    · split
      · exact okInv_error 
      · exact okInv_ok (State.onCx_inv h1)
  · exact h

theorem execMtsFpflags_outInv {rs1 : Reg} {s : State} (h : s.Inv) : OutInv (execMtsFpflags rs1 s) := by
  unfold execMtsFpflags
  exact mtsForm_outInv (fun x1 x2 h1 => okInv_ok (State.onCx_inv h1)) h

theorem writeReg_okInv {s : State} {n : ℕ} {v : Word} (h : s.Inv) : OkInv id (writeReg s n v) := by
  have hcx : ∀ f : Context → Context, (s.onCx f).Inv := fun _ => State.onCx_inv h
  unfold writeReg
  refine okInv_ite (okInv_ok (hcx _)) ?_
  refine okInv_ite (okInv_ok (hcx _)) ?_
  refine okInv_ite (okInv_ok (hcx _)) ?_
  refine okInv_ite (okInv_ok (hcx _)) ?_
  refine okInv_ite (okInv_ok (hcx _)) ?_
  refine okInv_ite (okInv_ok (hcx _)) ?_
  refine okInv_ite (okInv_ok (hcx _)) ?_
  refine okInv_ite (okInv_ok (hcx _)) ?_
  refine okInv_ite (okInv_ok (hcx _)) ?_
  refine okInv_ite (okInv_ok (hcx _)) ?_
  refine okInv_ite (okInv_ok (hcx _)) ?_
  refine okInv_ite (okInv_ok (hcx _)) ?_
  refine okInv_ite (okInv_ok (hcx _)) ?_
  refine okInv_ite (okInv_ok (hcx _)) ?_
  refine okInv_ite (okInv_ok (hcx _)) ?_
  refine okInv_ite (okInv_ok (hcx _)) ?_
  refine okInv_ite (okInv_ite okInv_error (okInv_ok (hcx _))) ?_
  refine okInv_ite (okInv_ok (State.setSub_inv h)) (okInv_ite (okInv_ok (hcx _)) ?_)
  exact okInv_ite (okInv_ok (State.onClu_inv h)) (okInv_ok h)

theorem execMts_outInv {n : BitVec 12} {rs1 : Reg} {s : State} (h : s.Inv) : OutInv (execMts n rs1 s) := by
  unfold execMts
  exact mtsForm_outInv (fun x1 x2 h1 => writeReg_okInv h1) h

theorem execMfs_outInv {n : BitVec 12} {rd : Reg} {s : State} (h : s.Inv) : OutInv (execMfs n rd s) := by
  unfold execMfs
  refine issue_outInv ?_ ?_
  · exact h
  · intro x1 h1
    split
    · exact outInv_next (State.fault_inv h1)
    · split
      · exact outInv_next (State.fault_inv h1)
      · dsimp only
        exact outInv_next (State.onCx_inv (afterRead_inv h1))

/-! #### Operands -/

theorem scalarResult_outInv {i : Instr} {rd : Reg} {v : Context → Word} {s : State} (h : s.Inv) : OutInv (scalarResult i rd v s) := by
  unfold scalarResult
  exact issue_outInv h (fun x1 h1 => outInv_next (State.onCx_inv h1))

/-! #### System -/

theorem execSpchk_outInv {ap : Aper} {rd rs1 : Reg} {s : State} (h : s.Inv) : OutInv (execSpchk ap rd rs1 s) := by
  unfold execSpchk
  exact scalarResult_outInv h

theorem execCvta_outInv {gen : Bool} {ap : Aper} {rd rs1 : Reg} {s : State} (h : s.Inv) : OutInv (execCvta gen ap rd rs1 s) := by
  unfold execCvta
  refine issue_outInv ?_ ?_
  · exact h
  · intro x1 h1
    split
    · exact outInv_next (State.onCx_inv h1)
    · exact outInv_next (State.fault_inv h1)

/-! #### Points -/

theorem execFence_outInv {kinds : BitVec 4} {sc : Scope} {s : State} (h : s.Inv) : OutInv (execFence kinds sc s) := by
  unfold execFence
  refine issue_outInv ?_ ?_
  · exact h
  · intro x1 h1
    split
    · split
      · exact outInv_next (State.onCx_inv (State.fencePoint_inv h1))
      · exact outInv_next h1
    · exact outInv_next (placePoint_inv (fun x2 h3 => h3) h1)

/-! #### Lunit -/

theorem issueL_outInv {i : Instr} {kinds : ℕ} {winOk : Bool} {n : ℕ} {addr data old : Context → Word} {s : State} (h : s.Inv) :
    OutInv (issueL i kinds winOk n addr data old s) := by
  unfold issueL
  refine issue_outInv ?_ ?_
  · exact h
  · intro x1 h1
    split
    · exact outInv_next (State.fault_inv h1)
    · split
      · exact outInv_next (State.onCx_inv h1)
      · exact outInv_next (enqueue_inv h1)

theorem execCas_outInv {word : Bool} {sc : Scope} {seq : Bool} {rd rs1 rs2 : Reg} {s : State} (h : s.Inv) :
    OutInv (execCas word sc seq rd rs1 rs2 s) := by
  unfold execCas
  exact issueL_outInv h

theorem execAmoFadd_outInv {sc : Scope} {seq : Bool} {rd rs1 rs2 : Reg} {s : State} (h : s.Inv) : OutInv (execAmoFadd sc seq rd rs1 rs2 s) := by
  unfold execAmoFadd
  exact issueL_outInv h

theorem execAmoMaxu_outInv {word : Bool} {sc : Scope} {seq : Bool} {rd rs1 rs2 : Reg} {s : State} (h : s.Inv) :
    OutInv (execAmoMaxu word sc seq rd rs1 rs2 s) := by
  unfold execAmoMaxu
  exact issueL_outInv h

theorem execAmoMinu_outInv {word : Bool} {sc : Scope} {seq : Bool} {rd rs1 rs2 : Reg} {s : State} (h : s.Inv) :
    OutInv (execAmoMinu word sc seq rd rs1 rs2 s) := by
  unfold execAmoMinu
  exact issueL_outInv h

theorem execAmoMax_outInv {word : Bool} {sc : Scope} {seq : Bool} {rd rs1 rs2 : Reg} {s : State} (h : s.Inv) :
    OutInv (execAmoMax word sc seq rd rs1 rs2 s) := by
  unfold execAmoMax
  exact issueL_outInv h

theorem execAmoMin_outInv {word : Bool} {sc : Scope} {seq : Bool} {rd rs1 rs2 : Reg} {s : State} (h : s.Inv) :
    OutInv (execAmoMin word sc seq rd rs1 rs2 s) := by
  unfold execAmoMin
  exact issueL_outInv h

theorem execAmoXor_outInv {word : Bool} {sc : Scope} {seq : Bool} {rd rs1 rs2 : Reg} {s : State} (h : s.Inv) :
    OutInv (execAmoXor word sc seq rd rs1 rs2 s) := by
  unfold execAmoXor
  exact issueL_outInv h

theorem execAmoOr_outInv {word : Bool} {sc : Scope} {seq : Bool} {rd rs1 rs2 : Reg} {s : State} (h : s.Inv) :
    OutInv (execAmoOr word sc seq rd rs1 rs2 s) := by
  unfold execAmoOr
  exact issueL_outInv h

theorem execAmoAnd_outInv {word : Bool} {sc : Scope} {seq : Bool} {rd rs1 rs2 : Reg} {s : State} (h : s.Inv) :
    OutInv (execAmoAnd word sc seq rd rs1 rs2 s) := by
  unfold execAmoAnd
  exact issueL_outInv h

theorem execAmoAdd_outInv {word : Bool} {sc : Scope} {seq : Bool} {rd rs1 rs2 : Reg} {s : State} (h : s.Inv) :
    OutInv (execAmoAdd word sc seq rd rs1 rs2 s) := by
  unfold execAmoAdd
  exact issueL_outInv h

theorem execAmoSwap_outInv {word : Bool} {sc : Scope} {seq : Bool} {rd rs1 rs2 : Reg} {s : State} (h : s.Inv) :
    OutInv (execAmoSwap word sc seq rd rs1 rs2 s) := by
  unfold execAmoSwap
  exact issueL_outInv h

theorem execStl_outInv {wd : Width} {sc : Scope} {rs rs1 : Reg} {s : State} (h : s.Inv) : OutInv (execStl wd sc rs rs1 s) := by
  unfold execStl
  exact issueL_outInv h

theorem execLda_outInv {wd : Width} {sc : Scope} {rd rs1 : Reg} {s : State} (h : s.Inv) : OutInv (execLda wd sc rd rs1 s) := by
  unfold execLda
  exact issueL_outInv h

theorem execSt_outInv {wd : Width} {rs2 rs1 : Reg} {imm : BitVec 11} {s : State} (h : s.Inv) : OutInv (execSt wd rs2 rs1 imm s) := by
  unfold execSt
  exact issueL_outInv h

theorem execLd_outInv {wd : Width} {rd rs1 : Reg} {imm : BitVec 11} {s : State} (h : s.Inv) : OutInv (execLd wd rd rs1 imm s) := by
  unfold execLd
  exact issueL_outInv h

/-! #### Scalar -/

theorem execJalr_outInv {rd rs1 : Reg} {imm : BitVec 14} {s : State} (h : s.Inv) : OutInv (execJalr rd rs1 imm s) := by
  unfold execJalr
  refine issue_outInv ?_ ?_
  · exact h
  · intro x1 h1
    dsimp only
    split
    · exact outInv_next (State.onCx_inv h1)
    · exact outInv_next (State.fault_inv h1)

theorem execJal_outInv {rd : Reg} {off : BitVec 19} {s : State} (h : s.Inv) : OutInv (execJal rd off s) := by
  unfold execJal
  exact issue_outInv h (fun x1 h1 => outInv_next (State.onCx_inv h1))

theorem branch_outInv {i : Instr} {rs1 rs2 : Reg} {off : BitVec 14} {rel : Word → Word → Bool} {s : State} (h : s.Inv) :
    OutInv (branch i rs1 rs2 off rel s) := by
  unfold branch
  exact issue_outInv h (fun x1 h1 => outInv_next (State.onCx_inv h1))

theorem execBgeu_outInv {rs1 rs2 : Reg} {off : BitVec 14} {s : State} (h : s.Inv) : OutInv (execBgeu rs1 rs2 off s) := by
  unfold execBgeu
  exact branch_outInv h

theorem execBltu_outInv {rs1 rs2 : Reg} {off : BitVec 14} {s : State} (h : s.Inv) : OutInv (execBltu rs1 rs2 off s) := by
  unfold execBltu
  exact branch_outInv h

theorem execBge_outInv {rs1 rs2 : Reg} {off : BitVec 14} {s : State} (h : s.Inv) : OutInv (execBge rs1 rs2 off s) := by
  unfold execBge
  exact branch_outInv h

theorem execBlt_outInv {rs1 rs2 : Reg} {off : BitVec 14} {s : State} (h : s.Inv) : OutInv (execBlt rs1 rs2 off s) := by
  unfold execBlt
  exact branch_outInv h

theorem execBne_outInv {rs1 rs2 : Reg} {off : BitVec 14} {s : State} (h : s.Inv) : OutInv (execBne rs1 rs2 off s) := by
  unfold execBne
  exact branch_outInv h

theorem execBeq_outInv {rs1 rs2 : Reg} {off : BitVec 14} {s : State} (h : s.Inv) : OutInv (execBeq rs1 rs2 off s) := by
  unfold execBeq
  exact branch_outInv h

theorem fpsResult_outInv {i : Instr} {rd : Reg} {v : Context → ℕ × Flags} {s : State} (h : s.Inv) : OutInv (fpsResult i rd v s) := by
  unfold fpsResult
  exact issue_outInv h (fun x1 h1 => outInv_next (State.onCx_inv h1))

theorem execFcmple_outInv {rd rs1 rs2 : Reg} {s : State} (h : s.Inv) : OutInv (execFcmple rd rs1 rs2 s) := by
  unfold execFcmple
  exact fpsResult_outInv h

theorem execFcmplt_outInv {rd rs1 rs2 : Reg} {s : State} (h : s.Inv) : OutInv (execFcmplt rd rs1 rs2 s) := by
  unfold execFcmplt
  exact fpsResult_outInv h

theorem execFcmpeq_outInv {rd rs1 rs2 : Reg} {s : State} (h : s.Inv) : OutInv (execFcmpeq rd rs1 rs2 s) := by
  unfold execFcmpeq
  exact fpsResult_outInv h

theorem execFcvtfi_outInv {rd rs1 : Reg} {s : State} (h : s.Inv) : OutInv (execFcvtfi rd rs1 s) := by
  unfold execFcvtfi
  exact fpsResult_outInv h

theorem execFcvtif_outInv {rd rs1 : Reg} {s : State} (h : s.Inv) : OutInv (execFcvtif rd rs1 s) := by
  unfold execFcvtif
  exact fpsResult_outInv h

theorem execFmax_outInv {rd rs1 rs2 : Reg} {s : State} (h : s.Inv) : OutInv (execFmax rd rs1 rs2 s) := by
  unfold execFmax
  exact fpsResult_outInv h

theorem execFmin_outInv {rd rs1 rs2 : Reg} {s : State} (h : s.Inv) : OutInv (execFmin rd rs1 rs2 s) := by
  unfold execFmin
  exact fpsResult_outInv h

theorem execFfma_outInv {rd rs1 rs2 : Reg} {s : State} (h : s.Inv) : OutInv (execFfma rd rs1 rs2 s) := by
  unfold execFfma
  exact fpsResult_outInv h

theorem execFmul_outInv {rd rs1 rs2 : Reg} {s : State} (h : s.Inv) : OutInv (execFmul rd rs1 rs2 s) := by
  unfold execFmul
  exact fpsResult_outInv h

theorem execFsub_outInv {rd rs1 rs2 : Reg} {s : State} (h : s.Inv) : OutInv (execFsub rd rs1 rs2 s) := by
  unfold execFsub
  exact fpsResult_outInv h

theorem execFadd_outInv {rd rs1 rs2 : Reg} {s : State} (h : s.Inv) : OutInv (execFadd rd rs1 rs2 s) := by
  unfold execFadd
  exact fpsResult_outInv h

/-! #### Alu -/

theorem execRemu_outInv {rd rs1 rs2 : Reg} {s : State} (h : s.Inv) : OutInv (execRemu rd rs1 rs2 s) := by
  unfold execRemu
  exact scalarResult_outInv h

theorem execRem_outInv {rd rs1 rs2 : Reg} {s : State} (h : s.Inv) : OutInv (execRem rd rs1 rs2 s) := by
  unfold execRem
  exact scalarResult_outInv h

theorem execDivu_outInv {rd rs1 rs2 : Reg} {s : State} (h : s.Inv) : OutInv (execDivu rd rs1 rs2 s) := by
  unfold execDivu
  exact scalarResult_outInv h

theorem execDiv_outInv {rd rs1 rs2 : Reg} {s : State} (h : s.Inv) : OutInv (execDiv rd rs1 rs2 s) := by
  unfold execDiv
  exact scalarResult_outInv h

theorem execMulhu_outInv {rd rs1 rs2 : Reg} {s : State} (h : s.Inv) : OutInv (execMulhu rd rs1 rs2 s) := by
  unfold execMulhu
  exact scalarResult_outInv h

theorem execMulh_outInv {rd rs1 rs2 : Reg} {s : State} (h : s.Inv) : OutInv (execMulh rd rs1 rs2 s) := by
  unfold execMulh
  exact scalarResult_outInv h

theorem execMul_outInv {rd rs1 rs2 : Reg} {s : State} (h : s.Inv) : OutInv (execMul rd rs1 rs2 s) := by
  unfold execMul
  exact scalarResult_outInv h

theorem execAddpc_outInv {rd : Reg} {imm : BitVec 19} {s : State} (h : s.Inv) : OutInv (execAddpc rd imm s) := by
  unfold execAddpc
  exact scalarResult_outInv h

theorem execLui_outInv {rd : Reg} {imm : BitVec 19} {s : State} (h : s.Inv) : OutInv (execLui rd imm s) := by
  unfold execLui
  exact scalarResult_outInv h

theorem execRoli_outInv {rd rs1 : Reg} {amt : BitVec 6} {s : State} (h : s.Inv) : OutInv (execRoli rd rs1 amt s) := by
  unfold execRoli
  exact scalarResult_outInv h

theorem execSari_outInv {rd rs1 : Reg} {amt : BitVec 6} {s : State} (h : s.Inv) : OutInv (execSari rd rs1 amt s) := by
  unfold execSari
  exact scalarResult_outInv h

theorem execShri_outInv {rd rs1 : Reg} {amt : BitVec 6} {s : State} (h : s.Inv) : OutInv (execShri rd rs1 amt s) := by
  unfold execShri
  exact scalarResult_outInv h

theorem execShli_outInv {rd rs1 : Reg} {amt : BitVec 6} {s : State} (h : s.Inv) : OutInv (execShli rd rs1 amt s) := by
  unfold execShli
  exact scalarResult_outInv h

theorem execSltui_outInv {rd rs1 : Reg} {imm : BitVec 14} {s : State} (h : s.Inv) : OutInv (execSltui rd rs1 imm s) := by
  unfold execSltui
  exact scalarResult_outInv h

theorem execSlti_outInv {rd rs1 : Reg} {imm : BitVec 14} {s : State} (h : s.Inv) : OutInv (execSlti rd rs1 imm s) := by
  unfold execSlti
  exact scalarResult_outInv h

theorem execXori_outInv {rd rs1 : Reg} {imm : BitVec 14} {s : State} (h : s.Inv) : OutInv (execXori rd rs1 imm s) := by
  unfold execXori
  exact scalarResult_outInv h

theorem execOri_outInv {rd rs1 : Reg} {imm : BitVec 14} {s : State} (h : s.Inv) : OutInv (execOri rd rs1 imm s) := by
  unfold execOri
  exact scalarResult_outInv h

theorem execAndi_outInv {rd rs1 : Reg} {imm : BitVec 14} {s : State} (h : s.Inv) : OutInv (execAndi rd rs1 imm s) := by
  unfold execAndi
  exact scalarResult_outInv h

theorem execAddi_outInv {rd rs1 : Reg} {imm : BitVec 14} {s : State} (h : s.Inv) : OutInv (execAddi rd rs1 imm s) := by
  unfold execAddi
  exact scalarResult_outInv h

theorem execAndn_outInv {rd rs1 rs2 : Reg} {s : State} (h : s.Inv) : OutInv (execAndn rd rs1 rs2 s) := by
  unfold execAndn
  exact scalarResult_outInv h

theorem execPopc_outInv {rd rs1 : Reg} {s : State} (h : s.Inv) : OutInv (execPopc rd rs1 s) := by
  unfold execPopc
  exact scalarResult_outInv h

theorem execClz_outInv {rd rs1 : Reg} {s : State} (h : s.Inv) : OutInv (execClz rd rs1 s) := by
  unfold execClz
  exact scalarResult_outInv h

theorem execMaxu_outInv {rd rs1 rs2 : Reg} {s : State} (h : s.Inv) : OutInv (execMaxu rd rs1 rs2 s) := by
  unfold execMaxu
  exact scalarResult_outInv h

theorem execMinu_outInv {rd rs1 rs2 : Reg} {s : State} (h : s.Inv) : OutInv (execMinu rd rs1 rs2 s) := by
  unfold execMinu
  exact scalarResult_outInv h

theorem execMax_outInv {rd rs1 rs2 : Reg} {s : State} (h : s.Inv) : OutInv (execMax rd rs1 rs2 s) := by
  unfold execMax
  exact scalarResult_outInv h

theorem execMin_outInv {rd rs1 rs2 : Reg} {s : State} (h : s.Inv) : OutInv (execMin rd rs1 rs2 s) := by
  unfold execMin
  exact scalarResult_outInv h

theorem execSltu_outInv {rd rs1 rs2 : Reg} {s : State} (h : s.Inv) : OutInv (execSltu rd rs1 rs2 s) := by
  unfold execSltu
  exact scalarResult_outInv h

theorem execSlt_outInv {rd rs1 rs2 : Reg} {s : State} (h : s.Inv) : OutInv (execSlt rd rs1 rs2 s) := by
  unfold execSlt
  exact scalarResult_outInv h

theorem execRol_outInv {rd rs1 rs2 : Reg} {s : State} (h : s.Inv) : OutInv (execRol rd rs1 rs2 s) := by
  unfold execRol
  exact scalarResult_outInv h

theorem execSar_outInv {rd rs1 rs2 : Reg} {s : State} (h : s.Inv) : OutInv (execSar rd rs1 rs2 s) := by
  unfold execSar
  exact scalarResult_outInv h

theorem execShr_outInv {rd rs1 rs2 : Reg} {s : State} (h : s.Inv) : OutInv (execShr rd rs1 rs2 s) := by
  unfold execShr
  exact scalarResult_outInv h

theorem execShl_outInv {rd rs1 rs2 : Reg} {s : State} (h : s.Inv) : OutInv (execShl rd rs1 rs2 s) := by
  unfold execShl
  exact scalarResult_outInv h

theorem execXor_outInv {rd rs1 rs2 : Reg} {s : State} (h : s.Inv) : OutInv (execXor rd rs1 rs2 s) := by
  unfold execXor
  exact scalarResult_outInv h

theorem execOr_outInv {rd rs1 rs2 : Reg} {s : State} (h : s.Inv) : OutInv (execOr rd rs1 rs2 s) := by
  unfold execOr
  exact scalarResult_outInv h

theorem execAnd_outInv {rd rs1 rs2 : Reg} {s : State} (h : s.Inv) : OutInv (execAnd rd rs1 rs2 s) := by
  unfold execAnd
  exact scalarResult_outInv h

theorem execSub_outInv {rd rs1 rs2 : Reg} {s : State} (h : s.Inv) : OutInv (execSub rd rs1 rs2 s) := by
  unfold execSub
  exact scalarResult_outInv h

theorem execAdd_outInv {rd rs1 rs2 : Reg} {s : State} (h : s.Inv) : OutInv (execAdd rd rs1 rs2 s) := by
  unfold execAdd
  exact scalarResult_outInv h

/-! #### Dispatch -/

theorem exec_outInv {i : Instr} {s : State} (h : s.Inv) : OutInv (exec i s) := by
  unfold exec
  split
  · exact execAdd_outInv h
  · exact execSub_outInv h
  · exact execAnd_outInv h
  · exact execOr_outInv h
  · exact execXor_outInv h
  · exact execShl_outInv h
  · exact execShr_outInv h
  · exact execSar_outInv h
  · exact execRol_outInv h
  · exact execSlt_outInv h
  · exact execSltu_outInv h
  · exact execMin_outInv h
  · exact execMax_outInv h
  · exact execMinu_outInv h
  · exact execMaxu_outInv h
  · exact execClz_outInv h
  · exact execPopc_outInv h
  · exact execAndn_outInv h
  · exact execAddi_outInv h
  · exact execAndi_outInv h
  · exact execOri_outInv h
  · exact execXori_outInv h
  · exact execSlti_outInv h
  · exact execSltui_outInv h
  · exact execShli_outInv h
  · exact execShri_outInv h
  · exact execSari_outInv h
  · exact execRoli_outInv h
  · exact execLui_outInv h
  · exact execAddpc_outInv h
  · exact execMul_outInv h
  · exact execMulh_outInv h
  · exact execMulhu_outInv h
  · exact execDiv_outInv h
  · exact execDivu_outInv h
  · exact execRem_outInv h
  · exact execRemu_outInv h
  · exact execFadd_outInv h
  · exact execFsub_outInv h
  · exact execFmul_outInv h
  · exact execFfma_outInv h
  · exact execFmin_outInv h
  · exact execFmax_outInv h
  · exact execFcvtif_outInv h
  · exact execFcvtfi_outInv h
  · exact execFcmpeq_outInv h
  · exact execFcmplt_outInv h
  · exact execFcmple_outInv h
  · exact execBeq_outInv h
  · exact execBne_outInv h
  · exact execBlt_outInv h
  · exact execBge_outInv h
  · exact execBltu_outInv h
  · exact execBgeu_outInv h
  · exact execJal_outInv h
  · exact execJalr_outInv h
  · exact execLd_outInv h
  · exact execSt_outInv h
  · exact execLda_outInv h
  · exact execStl_outInv h
  · exact execAmoSwap_outInv h
  · exact execAmoAdd_outInv h
  · exact execAmoAnd_outInv h
  · exact execAmoOr_outInv h
  · exact execAmoXor_outInv h
  · exact execAmoMin_outInv h
  · exact execAmoMax_outInv h
  · exact execAmoMinu_outInv h
  · exact execAmoMaxu_outInv h
  · exact execAmoFadd_outInv h
  · exact execCas_outInv h
  · exact execFence_outInv h
  · exact execCvta_outInv h
  · exact execSpchk_outInv h
  · exact execMfs_outInv h
  · exact execMts_outInv h
  · exact execMtsFpflags_outInv h
  · exact execMtsSlotmask_outInv h
  · exact execMtsPreq_outInv h
  · exact execMtsLeavegrant_outInv h
  · exact execMtsMosslim_outInv h
  · exact execMtsLeaveclus_outInv h
  · exact execMtsLeaveslot_outInv h
  · exact execMtsBiasctl_outInv h
  · exact execMtsMon_outInv h
  · exact execMtsMonsnap_outInv h
  · exact execMtsPwrevt_outInv h
  · exact execTrap_outInv h
  · exact execTret_outInv h
  · exact execBkpt_outInv h
  · exact execExit_outInv h
  · exact execOwnwait_outInv h
  · exact execTokpost_outInv h
  · exact execToktake_outInv h
  · exact execYield_outInv h
  · exact execSuspend_outInv h
  · exact execBar_outInv h
  · exact execBararr_outInv h
  · exact execBarwait_outInv h
  · exact execGrpinfo_outInv h
  · exact execLaunch_outInv h
  · exact execLaunchBlock_outInv h
  · exact execEvadd_outInv h
  · exact execEvwait_outInv h
  · exact execEvrd_outInv h
  · exact execEvset_outInv h
  · exact execRpsh_outInv h
  · exact execRpop_outInv h
  · exact execRinit_outInv h
  · exact execMclass_outInv h
  · exact execMfree_outInv h
  · exact execMrefresh_outInv h
  · exact execMage_outInv h
  · exact execMquery_outInv h
  · exact execLeave_outInv h
  · exact execLeaverd_outInv h
  · exact execEngCopy_outInv h
  · exact execEngFill_outInv h
  · exact execEngRefresh_outInv h
  · exact execEngGather_outInv h
  · exact execEngScatter_outInv h
  · exact execEngScatteradd_outInv h
  · exact execEngColl_outInv h
  · exact execEngFamo_outInv h
  · exact execEngFcas_outInv h
  · exact execEngEvsig_outInv h
  · exact execEngTwset_outInv h
  · exact execEngTwclr_outInv h
  · exact execEngTwbud_outInv h
  · exact execEngTkcmt_outInv h
  · exact execEngTkconf_outInv h
  · exact execEngTkrej_outInv h
  · exact execEngTwstat_outInv h
  · exact execEngSeqopen_outInv h
  · exact execEngSeqclose_outInv h
  · exact execEngWswap_outInv h
  · exact execEngWstat_outInv h
  · exact execEngCqry_outInv h
  · exact execVadd_outInv h
  · exact execVsub_outInv h
  · exact execVmul_outInv h
  · exact execVfma_outInv h
  · exact execVfms_outInv h
  · exact execVmin_outInv h
  · exact execVmax_outInv h
  · exact execVabs_outInv h
  · exact execVneg_outInv h
  · exact execVscl_outInv h
  · exact execVcpy_outInv h
  · exact execVbcst_outInv h
  · exact execViadd_outInv h
  · exact execVisub_outInv h
  · exact execVimul_outInv h
  · exact execVimulh_outInv h
  · exact execVimad_outInv h
  · exact execVimin_outInv h
  · exact execVimax_outInv h
  · exact execViabs_outInv h
  · exact execVclz_outInv h
  · exact execVpopc_outInv h
  · exact execVand_outInv h
  · exact execVor_outInv h
  · exact execVxor_outInv h
  · exact execVlut3_outInv h
  · exact execVshl_outInv h
  · exact execVshr_outInv h
  · exact execVsar_outInv h
  · exact execVrot_outInv h
  · exact execVfshl_outInv h
  · exact execVfshr_outInv h
  · exact execVcmp_outInv h
  · exact execVsel_outInv h
  · exact execMand_outInv h
  · exact execMor_outInv h
  · exact execMxor_outInv h
  · exact execMnot_outInv h
  · exact execMcnt_outInv h
  · exact execMfirst_outInv h
  · exact execVcvt_outInv h
  · exact execVqnt_outInv h
  · exact execVdq_outInv h
  · exact execVretag_outInv h
  · exact execVrcp_outInv h
  · exact execVrsq_outInv h
  · exact execVsqrt_outInv h
  · exact execVdiv_outInv h
  · exact execVexp2_outInv h
  · exact execVlog2_outInv h
  · exact execVtanh_outInv h
  · exact execVrsum_outInv h
  · exact execVrmax_outInv h
  · exact execVrmin_outInv h
  · exact execVramax_outInv h
  · exact execVscan_outInv h
  · exact execVcsum_outInv h
  · exact execVperm_outInv h
  · exact execVshuf_outInv h
  · exact execVtrn_outInv h
  · exact execVrgath_outInv h
  · exact execVrscat_outInv h
  · exact execVtopk_outInv h
  · exact execVsample_outInv h
  · exact execVld_outInv h
  · exact execVst_outInv h
  · exact execVldx_outInv h
  · exact execVstx_outInv h
  · exact execMld_outInv h
  · exact execMst_outInv h
  · exact execMma_outInv h
  · exact execMmaz_outInv h
  · exact execAclr_outInv h
  · exact execAswap_outInv h
  · exact execAdrain_outInv h
  · exact execSlotmaskTakesEffect_outInv h
  · exact execVWordStart_outInv h
  · exact execVWordFinish_outInv h
  · exact execMWordStart_outInv h
  · exact execMWordFinish_outInv h
  · exact execLWordStart_outInv h
  · exact execNearReplyDue_outInv h
  · exact execNearReplyArrival_outInv h
  · exact execFreezeWatchdogExpiry_outInv h
  · exact execFarReply_outInv h
  · exact execLWordFinish_outInv h
  · exact execPostPointReached_outInv h
  · exact execWriteBufferDrain_outInv h
  · exact execWriteApplied_outInv h
  · exact execEventAdd_outInv h
  · exact execGroupArrival_outInv h
  · exact execWswapDecision_outInv h
  · exact execExitDrainComplete_outInv h
  · exact execRecordWriteBack_outInv h
  · exact execDispatch_outInv h
  · exact execHardwareRestore_outInv h
  · exact execBalancingPeriod_outInv h
  · exact execMigrationCommand_outInv h
  · exact execPreemptionRequest_outInv h
  · exact execPartitionDrain_outInv h
  · exact execPreemptionDeadline_outInv h
  · exact execHardwareSave_outInv h
  · exact execTimeoutSuspension_outInv h
  · exact execStopRecordCut_outInv h
  · exact execDebugResume_outInv h
  · exact execAgeTick_outInv h
  · exact execRefreshRequest_outInv h
  · exact execRowGroupExpiry_outInv h
  · exact execKeepRefreshDue_outInv h
  · exact execMossRewriteStart_outInv h
  · exact execMossRewriteEnd_outInv h
  · exact execLeaveBoundary_outInv h
  · exact execDroopEvent_outInv h
  · exact execDroopFreezeEnd_outInv h
  · exact execEngSubmission_outInv h
  · exact execEngineCommandStart_outInv h
  · exact execEngineChunk_outInv h
  · exact execEngineCommandCompletion_outInv h
  · exact execLaunchPoolAccept_outInv h
  · exact execLaunchEnd_outInv h
  · exact execMonitorSnapshotDone_outInv h
  · exact execTimingError_outInv h
  · exact execTimingReplayFailure_outInv h
  · exact execPartitionReset_outInv h
  · exact execEngineReset_outInv h
  · exact execLinkReset_outInv h
  · exact execLinkDown_outInv h
  · exact execFlitCrcFailure_outInv h
  · exact execRetransmitTimeout_outInv h
  · exact execReadRequest_outInv h
  · exact execReadReply_outInv h
  · exact execWrite_outInv h
  · exact execAtomicRequest_outInv h
  · exact execAtomicReply_outInv h
  · exact execEventSignal_outInv h
  · exact execAcknowledgmentOnly_outInv h
  · exact execCollectiveData_outInv h
  · exact execCollectiveAbort_outInv h
  · exact execVoid_outInv h
  · exact execCollectiveTimeout_outInv h
  · exact execCheckpointCommit_outInv h
  · exact execIdentityEntryWrite_outInv h
  · exact execSpareRestore_outInv h
  · exact execRdmaWrite_outInv h
  · exact execRdmaRead_outInv h
  · exact execRdmaInvalidRequest_outInv h
  · exact execEthernetPortDown_outInv h
  · exact execLaunchMailboxWrite_outInv h
  · exact execHostLaunchTake_outInv h
  · exact execWeightSetArm_outInv h
  · exact execShardFetchStart_outInv h
  · exact execShardFetchComplete_outInv h
  · exact execShardFetchFailure_outInv h
  · exact execShardTimeout_outInv h
  · exact execCapRequest_outInv h
  · exact execFloorRequest_outInv h
  · exact execPowerMeasurement_outInv h
  · exact execBiasSelection_outInv h
  · exact execThermalTrip_outInv h
  · exact execTripRecovery_outInv h
  · exact execPowerUp_outInv h
  · exact execAttestationRequest_outInv h
  · exact execPartitionForm_outInv h
  · exact execExpertEnableSet_outInv h
  · exact execTranslationInvalidation_outInv h
  · exact execPageScrub_outInv h
  · exact execReplayCaptureStart_outInv h
  · exact execPartitionDump_outInv h
  · exact execLinkRetrainComplete_outInv h
  · exact execMonitorPeriodicSample_outInv h
  · exact execInstructionLineFetch_outInv h
  · exact execReservedKindFlit_outInv h
  · exact execRecoveryCommand_outInv h
  · exact execPartitionTrapVectorSet_outInv h
  · exact execUnreliableTransportPacket_outInv h
  · exact execPartitionReplay_outInv h

/-! #### Fetch -/

theorem State.fetchLines_inv {s : State} {c : CtxLoc} {va : Word} (h : s.Inv) : (s.fetchLines c va).Inv := by
  unfold State.fetchLines
  dsimp only
  split
  · exact State.fetchLine_inv h
  · exact State.fetchLine_inv (State.fetchLine_inv h)

/-! #### Schedule -/

theorem issueNext_outInv {s : State} (h : s.Inv) : OutInv (issueNext s) := by
  unfold issueNext
  split
  · exact outInv_next h
  · dsimp only
    split
    · exact exec_outInv (State.fetchLines_inv h)
    · exact outInv_next (State.fault_inv (State.fetchLines_inv h))

/-! #### Lunit -/

theorem sendL_inv {c : CtxLoc} {k p : ℕ} {s : State} (h : s.Inv) : (sendL c k p s).Inv := by
  unfold sendL
  split
  · exact h
  · split
    · exact h
    · refine inv_ite ?_ ?_
      · exact h
      · dsimp only
        exact State.setLitem_inv (sendAtom_inv h)

theorem goOnL_inv {c : CtxLoc} {k : ℕ} {late : Bool} {s : State} (h : s.Inv) : (goOnL c k late s).Inv := by
  unfold goOnL
  dsimp only
  split
  · exact h
  · refine inv_ite ?_ ?_
    · exact h
    · refine State.setLitem_inv ?_
      split
      · exact readIndices_inv h
      · exact askNext_inv h

/-! #### Schedule -/

theorem enabled_someInv {s : State} {f : State → Out} (h : OutInv (f s)) : SomeInv id (enabled s f) := by
  unfold enabled
  split
  · rename_i t heq
    split
    · exact someInv_none
    · exact someInv_some (h t heq)
  · exact someInv_none

/-- Every outcome of an event on a state that keeps the invariant keeps it. -/
def KeepsInv (f : State → Out) : Prop := ∀ t, t.Inv → OutInv (f t)

theorem ownReplies_keepInv {s : State} {c : CtxLoc} : ∀ f ∈ ownReplies s c, KeepsInv f := by
  simp only [ownReplies, List.mem_flatMap, List.mem_cons, List.not_mem_nil, or_false]
  rintro f ⟨k, -, p, -, rfl | rfl | rfl⟩ t h
  · exact execFarReply_outInv h
  · exact execNearReplyArrival_outInv h
  · exact atCtx_outInv h fun s h => sendL_inv h

theorem goOn_keepInv {s : State} {c : CtxLoc} :
    ∀ f ∈ (List.range s.cx.litems.length).map fun k => fun s => atCtx c s (goOnL c k false), KeepsInv f := by
  simp only [List.forall_mem_map]
  exact fun k _ t h => atCtx_outInv h fun s h => goOnL_inv h

theorem nearDue_keepInv {s : State} {c : CtxLoc} :
    ∀ f ∈ (List.range s.cx.litems.length).flatMap fun k =>
      (List.range ((s.cx.litems[k]?).elim 0 fun i => i.parts.length)).map fun p => execNearReplyDue c ⟨k, p⟩, KeepsInv f := by
  simp only [List.mem_flatMap, List.mem_map]
  rintro f ⟨k, -, p, -, rfl⟩ t h
  exact execNearReplyDue_outInv h

theorem rewrites_keepInv {s : State} {pcl : ℕ} :
    ∀ f ∈ (ownBanks s pcl).flatMap fun b => [execMossRewriteEnd pcl b, execMossRewriteStart pcl b], KeepsInv f := by
  simp only [List.mem_flatMap, List.mem_cons, List.not_mem_nil, or_false]
  rintro f ⟨b, -, rfl | rfl⟩ t h
  · exact execMossRewriteEnd_outInv h
  · exact execMossRewriteStart_outInv h

theorem keepsInv_nil : ∀ f ∈ ([] : List (State → Out)), KeepsInv f := fun _ hf => nomatch hf

theorem keepsInv_cons {f : State → Out} {l : List (State → Out)} (hf : ∀ {t : State}, t.Inv → OutInv (f t)) (hl : ∀ g ∈ l, KeepsInv g) :
    ∀ g ∈ f :: l, KeepsInv g := List.forall_mem_cons.mpr ⟨fun _ => hf, hl⟩

theorem keepsInv_append {l l' : List (State → Out)} (h : ∀ f ∈ l, KeepsInv f) (h' : ∀ f ∈ l', KeepsInv f) : ∀ f ∈ l ++ l', KeepsInv f :=
  List.forall_mem_append.mpr ⟨h, h'⟩

theorem ownEvents_keepInv {s : State} : ∀ f ∈ ownEvents s, KeepsInv f := by
  unfold ownEvents
  dsimp only
  refine keepsInv_append (keepsInv_append (keepsInv_append (keepsInv_append (keepsInv_append (keepsInv_append (keepsInv_append
    (keepsInv_append (keepsInv_append ?_ goOn_keepInv) ownReplies_keepInv) nearDue_keepInv) ?_) rewrites_keepInv)
    (List.forall_mem_map.mpr fun e _ t h => execEngineCommandCompletion_outInv h)) (List.forall_mem_map.mpr fun e _ t h => execEngineChunk_outInv h))
    (List.forall_mem_map.mpr fun e _ t h => execEngineCommandStart_outInv h)) ?_
  · exact keepsInv_cons execLWordFinish_outInv <| keepsInv_cons execVWordFinish_outInv <| keepsInv_cons execMWordFinish_outInv <|
      keepsInv_cons execEngSubmission_outInv <| keepsInv_cons execPostPointReached_outInv <| keepsInv_cons execPostPointReached_outInv <|
      keepsInv_cons execPostPointReached_outInv <| keepsInv_cons execPostPointReached_outInv <| keepsInv_cons execVWordStart_outInv <|
      keepsInv_cons execMWordStart_outInv <| keepsInv_cons execLWordStart_outInv <| keepsInv_nil
  · exact keepsInv_cons execStopRecordCut_outInv <| keepsInv_cons execHardwareRestore_outInv <|
      keepsInv_cons execSlotmaskTakesEffect_outInv <| keepsInv_nil
  · exact keepsInv_cons execWswapDecision_outInv <| keepsInv_cons execWriteApplied_outInv <| keepsInv_cons execEventAdd_outInv <|
      keepsInv_cons execGroupArrival_outInv <| keepsInv_cons execLaunchPoolAccept_outInv <| keepsInv_cons execWriteBufferDrain_outInv <|
      keepsInv_cons execExitDrainComplete_outInv <| keepsInv_cons execRecordWriteBack_outInv <| keepsInv_cons execHardwareSave_outInv <|
      keepsInv_cons execDispatch_outInv <| keepsInv_nil

theorem ownEvent_someInv {s : State} (h : s.Inv) : SomeInv id (ownEvent s) := by
  intro t ht
  obtain ⟨f, hf, he⟩ := List.exists_of_findSome?_eq_some ht
  exact enabled_someInv (ownEvents_keepInv f hf s h) t he


/-! #### Weights -/

theorem State.mailboxSeen_inv {s : State} (h : s.Inv) : s.mailboxSeen.Inv := by
  unfold State.mailboxSeen
  split
  · exact h
  · exact inv_ite h (State.armNow_inv (State.inv_with h))

theorem State.packetGap_inv {s : State} {port qp : ℕ} (h : s.Inv) : (s.packetGap port qp).Inv := by
  unfold State.packetGap
  exact inv_ite (State.inv_with h) h

theorem State.readAgain_inv {s : State} {p : ℕ} {table : Word} {f : Fetch} {d : Shard} (h : s.Inv) : (s.readAgain p table f d).Inv := by
  unfold State.readAgain
  exact inv_ite h (inv_ite (State.onFetch_inv h) (State.sendRead_inv (State.onFetch_inv h)))

theorem State.onShard_inv {s : State} {p t i : ℕ} {g : Armed → Fetch → Shard → State → State} (hs : s.Inv)
    (h : ∀ y0 y1 y2 y3, y3.Inv → (g y0 y1 y2 y3).Inv) : (s.onShard p t i g).Inv := by
  unfold State.onShard
  refine State.onTable_inv ?_ ?_
  · exact hs
  · intro x1 x2 x3 h1
    split
    · exact h _ _ _ _ h1
    · exact State.noteRead_inv h1
    · exact h1

theorem State.readNak_inv {s : State} {p t i : ℕ} {refused : Bool} (h : s.Inv) : (s.readNak p t i refused).Inv := by
  unfold State.readNak
  exact State.onShard_inv h (fun x1 x2 x3 x4 h1 => inv_ite (State.onFetch_inv h1) (State.readAgain_inv h1))

theorem State.readTimeout_inv {s : State} {p t i : ℕ} (h : s.Inv) : (s.readTimeout p t i).Inv := by
  unfold State.readTimeout
  exact State.onShard_inv h (fun x1 x2 x3 x4 h1 => State.readAgain_inv h1)

theorem State.shardBytes_inv {s : State} {p t i off : ℕ} {bs : List Byte} (h : s.Inv) : (s.shardBytes p t i off bs).Inv := by
  unfold State.shardBytes
  refine State.onShard_inv ?_ ?_
  · exact h
  · intro x1 x2 x3 x4 h1
    refine inv_ite ?_ ?_
    · exact h1
    · refine inv_ite ?_ ?_
      · exact State.putShard_inv h1
      · refine inv_ite ?_ ?_
        · exact State.putShard_inv (State.onFetch_inv h1)
        · split
          · exact State.onFetch_inv (State.noteSpan_inv h1)
          · exact State.putShard_inv h1

theorem State.shardAsk_inv {s : State} {p t i : ℕ} (h : s.Inv) : (s.shardAsk p t i).Inv := by
  unfold State.shardAsk
  exact State.onShard_inv h (fun x1 x2 x3 x4 h1 => inv_ite (State.askFar_inv h1) h1)

/-! #### Fabric -/

theorem State.flitPasses_inv {s : State} {l : ℕ} (h : s.Inv) : (s.flitPasses l).Inv := by
  unfold State.flitPasses
  exact inv_ite h (State.onLink_inv h)

theorem State.retrainFails_inv {s : State} {l : ℕ} (h : s.Inv) : (s.retrainFails l).Inv := by
  unfold State.retrainFails
  exact inv_ite (State.onLink_inv h) h

theorem State.setInterval_inv {s : State} {us : ℕ} (h : s.Inv) : (s.setInterval us).Inv := by
  unfold State.setInterval
  exact inv_ite (State.inv_with h) h

theorem State.sendAck_inv {s : State} {own n : ℕ} (h : s.Inv) : (s.sendAck own n).Inv := by
  unfold State.sendAck
  dsimp only
  exact inv_ite h (State.onPair_inv (State.inv_with h))

/-! #### Storage -/

theorem State.spoil_inv {s : State} {a1 : EccUnit} (h : s.Inv) : (s.spoil a1).Inv := by
  unfold State.spoil
  split
  · exact State.onClu_inv h
  · exact State.onCtx_inv h
  · dsimp only
    exact inv_ite h (State.setSub_inv h)
  · dsimp only
    split
    · exact State.inv_with h
    · exact State.inv_with h
  · exact State.onClu_inv h
  · split
    · exact State.inv_with h
    · exact h
  · exact State.inv_with h

theorem State.ecc_inv {s : State} {u : EccUnit} {fixed : Bool} (h : s.Inv) : (s.ecc u fixed).Inv := by
  unfold State.ecc
  refine inv_ite ?_ ?_
  · exact h
  · refine inv_ite ?_ ?_
    · exact State.inv_with h
    · split
      · exact State.spoil_inv h
      · exact State.note_inv (State.spoil_inv h)

/-! #### Leave -/

theorem askStep_inv {pcl sub : ℕ} {s : State} (h : s.Inv) : (askStep pcl sub s).Inv := by
  unfold askStep
  exact foldl_inv (fun x1 x2 h1 => inv_ite (startM_inv h1) h1) h

theorem askOne_inv {pcl r : ℕ} {s : State} (h : s.Inv) : (askOne pcl r s).Inv := by
  unfold askOne
  refine inv_ite ?_ ?_
  · exact askStep_inv h
  · split
    · exact h
    · exact inv_ite (State.cmdChunk_inv h) (State.cmdStart_inv h)

theorem State.contestSlots_inv {s : State} {pcl : ℕ} {reqs : List ℕ} (h : s.Inv) : (s.contestSlots pcl reqs).Inv := by
  unfold State.contestSlots
  dsimp only
  split
  · exact State.onClu_inv (foldl_keeps (P := fun b : State × List ℕ => b.1.Inv) (fun x3 x4 h2 => askOne_inv h2) h)
  · exact foldl_keeps (P := fun b : State × List ℕ => b.1.Inv) (fun x2 x3 h2 => askOne_inv h2) h

/-! #### Storage -/

theorem State.homeFails_inv {s : State} {u : ℕ} {on : Bool} (h : s.Inv) : (s.homeFails u on).Inv := by
  unfold State.homeFails
  dsimp only
  exact inv_ite h (State.inv_with h)

/-! #### Lunit -/

theorem State.contestBank_inv {s : State} {pcl bank : ℕ} {reqs : List (CtxLoc × ℕ × ℕ)} {cycles : ℕ} (h : s.Inv) :
    (s.contestBank pcl bank reqs cycles).Inv := by
  unfold State.contestBank
  dsimp only
  refine inv_ite ?_ ?_
  · exact h
  · split
    · exact h
    · exact inv_ite h (foldl_inv (fun x3 x4 h2 => nearDue_inv h2) (State.onClu_inv (nearArrives_inv h)))

/-! #### Engines -/

theorem State.chunkRead_inv {s : State} {pcl e n : ℕ} (h : s.Inv) : (s.chunkRead pcl e n).Inv := by
  unfold State.chunkRead
  split
  · exact h
  · dsimp only
    refine inv_ite ?_ ?_
    · exact h
    · split
      · exact h
      · exact State.putHead_inv (inv_ite (State.sampleFree_inv (inv_ite h (State.setClu_inv h))) (inv_ite h (State.setClu_inv h)))

/-! #### Strands -/

theorem State.debugWrite_inv {s : State} {c : CtxLoc} {off : ℕ} {bs : List Byte} (h : s.Inv) : (s.debugWrite c off bs).Inv := by
  unfold State.debugWrite
  dsimp only
  exact inv_ite h (State.setCtx_inv h)

theorem State.beginStream_inv {s : State} {c : CtxLoc} (h : s.Inv) : (s.beginStream c).Inv := by
  unfold State.beginStream
  dsimp only
  split
  · refine inv_ite ?_ ?_
    · split
      · exact State.deliverHeld_inv h
      · exact h
    · split
      · refine State.endError_inv ?_
        refine State.streamSave_inv ?_
        split
        · exact State.deliverHeld_inv h
        · exact h
      · refine State.onCtx_inv ?_
        refine State.streamSave_inv ?_
        split
        · exact State.deliverHeld_inv h
        · exact h
  · split
    · exact State.deliverHeld_inv h
    · exact h

/-! #### Matrix -/

theorem checkFails_inv {c : CtxLoc} {k : ℕ} {i : Item} {e : Flt} {s : State} (h : s.Inv) : (checkFails c k i e s).Inv := by
  unfold checkFails
  exact inv_ite (endM_inv h) (State.raise_inv (State.onCtx_inv h))

theorem stepCycle_inv {c : CtxLoc} {k : ℕ} {i : Item} {f : MF} {z : Bool} {s : State} (h : s.Inv) : (stepCycle c k i f z s).Inv := by
  unfold stepCycle
  dsimp only
  split
  · exact h
  · refine inv_ite ?_ ?_
    · split
      · exact State.setCtx_inv h
      · exact checkFails_inv h
      · exact checkFails_inv h
    · exact inv_ite (State.setCtx_inv h) h

theorem goOnM_inv {c : CtxLoc} {k : ℕ} {s : State} (h : s.Inv) : (goOnM c k s).Inv := by
  unfold goOnM
  dsimp only
  split
  · exact h
  · refine inv_ite ?_ ?_
    · exact h
    · split
      · refine inv_ite ?_ ?_
        · split
          · exact inv_ite h (State.setCtx_inv h)
          · exact endM_inv h
        · exact stepCycle_inv h
      · split
        · refine inv_ite ?_ ?_
          · exact h
          · split
            · exact State.setCtx_inv h
            · exact State.raise_inv (State.setCtx_inv h)
        · exact inv_ite h (State.setCtx_inv h)
        · exact h

/-! #### VSpecial -/

theorem writeV_inv {c : CtxLoc} {s : State} (h : s.Inv) : (writeV c s).Inv := by
  unfold writeV
  split
  · exact h
  · split
    · exact h
    · refine inv_ite ?_ ?_
      · exact h
      · dsimp only
        exact State.setCtx_inv h

theorem writeVQuarter_inv {c : CtxLoc} {q : ℕ} {s : State} (h : s.Inv) : (writeVQuarter c q s).Inv := by
  unfold writeVQuarter
  split
  · exact h
  · split
    · exact h
    · refine inv_ite ?_ ?_
      · exact h
      · dsimp only
        exact State.setCtx_inv h

theorem goOnV_inv {c : CtxLoc} {picks : ℕ} {s : State} (h : s.Inv) : (goOnV c picks s).Inv := by
  unfold goOnV
  exact inv_ite (rowsV_inv h) h

/-! #### Lunit -/

theorem writeQuarter_inv {c : CtxLoc} {k : ℕ} {s : State} (h : s.Inv) : (writeQuarter c k s).Inv := by
  unfold writeQuarter
  dsimp only
  split
  · exact h
  · refine inv_ite ?_ ?_
    · exact h
    · split
      · exact h
      · exact State.setCtx_inv h

/-! #### Ops -/

theorem State.refocus_inv {s : State} {c : CtxLoc} (h : s.Inv) : (s.refocus c).Inv := by
  unfold State.refocus
  split
  · exact h
  · obtain ⟨hm, ho, hs, hc, hp⟩ := h
    exact ⟨hm, twf_tset (twf_filter ho), hs, hc, hp⟩


/-! #### Schedule -/

theorem runMove_outInv {m : Move} {s : State} (h : s.Inv) : OutInv (runMove m s) := by
  unfold runMove
  split
  · exact exec_outInv h
  · exact noObject_outInv h (fun x3 h1 => issueNext_outInv (State.refocus_inv h1))
  · exact atCtx_outInv h (fun x5 h1 => goOnL_inv h1)
  · exact atCtx_outInv h (fun x5 h1 => sendL_inv h1)
  · exact atCtx_outInv h (fun x4 h1 => writeQuarter_inv h1)
  · exact atCtx_outInv h (fun x4 h1 => goOnV_inv h1)
  · exact atCtx_outInv h (fun x4 h1 => writeVQuarter_inv h1)
  · exact atCtx_outInv h (fun x3 h1 => writeV_inv h1)
  · exact atCtx_outInv h (fun x4 h1 => goOnM_inv h1)
  · exact atCtx_outInv h (fun x3 h1 => State.beginStream_inv h1)
  · exact atCtx_outInv h (fun x5 h1 => State.debugWrite_inv h1)
  · exact atClu_outInv h (fun x4 h1 => State.cmdChunk_inv h1)
  · exact atClu_outInv h (fun x5 h1 => State.chunkRead_inv h1)
  · exact atClu_outInv h (fun x6 h1 => State.contestBank_inv h1)
  · exact outInv_next (State.homeFails_inv h)
  · exact atClu_outInv h (fun x4 h1 => State.contestSlots_inv h1)
  · exact outInv_next (State.ecc_inv h)
  · exact outInv_next (State.sendAck_inv h)
  · exact outInv_next (State.setInterval_inv h)
  · exact atLink_outInv h (fun x3 h1 => State.retrainFails_inv h1)
  · exact atLink_outInv h (fun x3 h1 => State.flitPasses_inv h1)
  · exact atPart_outInv h (fun x5 h1 => State.shardAsk_inv h1)
  · exact atPart_outInv h (fun x7 h1 => State.shardBytes_inv h1)
  · exact atPart_outInv h (fun x5 h1 => State.readTimeout_inv h1)
  · exact atPart_outInv h (fun x6 h1 => State.readNak_inv h1)
  · exact atPort_outInv h (fun x4 h1 => State.packetGap_inv h1)
  · exact outInv_next (State.mailboxSeen_inv h)

/-! #### Step -/

theorem step_outInv {s : State} (h : s.Inv) : OutInv (step s) := by
  unfold step
  split
  · exact runMove_outInv (State.inv_with h)
  · split
    · rename_i h2
      exact outInv_next (ownEvent_someInv h _ h2)
    · exact issueNext_outInv h

/-- Settles O60: each function of the model that makes a state keeps the invariant, from the updates of one table up to the arms of `exec`. -/
theorem stepKeepsInvariant : Obligations.StepKeepsInvariant := by
  unfold Obligations.StepKeepsInvariant
  exact fun s t h he => step_outInv h t he

end Sys2Proof.Machine
end
section
namespace Sys2Proof.Machine

/-- Settles O56: each word, parcel by parcel. -/
theorem decodedWords : Obligations.DecodedWords := by
  refine ⟨rfl, rfl, rfl, rfl, rfl, rfl, rfl, rfl, rfl, rfl, rfl, rfl, rfl⟩

/-- The reset state lists no context, so each reads the default. -/
theorem State.reset_ctxAt (c : CtxLoc) : State.reset.ctxAt c = {} := by
  unfold State.ctxAt
  split <;> rfl

/-- Settles O59: every table of the reset state is empty, so each entry is its default. -/
theorem resetValues : Obligations.ResetValues := by
  refine ⟨⟨rfl, rfl, rfl, rfl, rfl⟩, rfl, rfl, rfl, fun c => ?_, fun p k => ⟨rfl, rfl⟩, fun p => ⟨rfl, fun n => ⟨rfl, rfl⟩, fun n => rfl, rfl⟩,
    fun l => rfl, fun p => ⟨rfl, rfl⟩⟩
  rw [State.reset_ctxAt]
  exact ⟨rfl, rfl, rfl, rfl, rfl, rfl, rfl, fun r => ite_self _⟩
end Sys2Proof.Machine
end
section
namespace Sys2Proof.Machine

/-! ### Fetching, and the step (R40, R41) -/

/-- Two states that differ in what a fetch changes alone: the instruction cache, the controller's log, the free values. -/
def State.fetchedTo (s t : State) : Prop := t = { s with icache := t.icache, mgr := { s.mgr with log := t.mgr.log }, free := t.free }

theorem State.fetchedTo_trans {s t u : State} (h : s.fetchedTo t) (g : t.fetchedTo u) : s.fetchedTo u := by
  unfold State.fetchedTo at *
  rw [g, h]

theorem State.noteWalk_fetchedTo (s : State) (pcl p va : Nat) : s.fetchedTo (s.noteWalk pcl p va) := by
  unfold State.noteWalk
  split <;> rfl

theorem State.cacheLine_fetchedTo (s : State) (l : ILine) : s.fetchedTo (s.cacheLine l) := by
  unfold State.cacheLine
  dsimp only
  split
  · rfl
  · split <;> rfl

theorem State.fetchLine_fetchedTo (s : State) (c : CtxLoc) (va : Nat) : s.fetchedTo (s.fetchLine c va) := by
  unfold State.fetchLine
  dsimp only
  split
  · rfl
  · split
    · exact s.noteWalk_fetchedTo ..
    · split
      · rfl
      · exact s.cacheLine_fetchedTo _

theorem State.fetchLines_fetchedTo (s : State) (c : CtxLoc) (va : Word) : s.fetchedTo (s.fetchLines c va) := by
  unfold State.fetchLines
  dsimp only
  split
  · exact s.fetchLine_fetchedTo ..
  · exact State.fetchedTo_trans (s.fetchLine_fetchedTo ..) (State.fetchLine_fetchedTo ..)

@[simp] theorem State.fetchLines_focus (s : State) (c : CtxLoc) (va : Word) : (s.fetchLines c va).focus = s.focus := by
  rw [s.fetchLines_fetchedTo c va]

@[simp] theorem State.fetchLines_cx (s : State) (c : CtxLoc) (va : Word) : (s.fetchLines c va).cx = s.cx := by
  rw [s.fetchLines_fetchedTo c va]

@[simp] theorem State.refocus_focus (s : State) (c : CtxLoc) : (s.refocus c).focus = c := by
  unfold State.refocus
  split
  · rename_i h
    exact h.symm
  · rfl

/-- The next word of a context that may issue is the one that its pc decodes to. -/
theorem issueNext_ok {s : State} {i : Instr} (h : s.canIssue = true)
    (hw : fetchWord (s.fetchLines s.focus s.cx.pc) s.focus s.cx.pc = .ok i) : issueNext s = exec i (s.fetchLines s.focus s.cx.pc) := by
  simp only [issueNext, h, hw, Bool.not_true, Bool.false_eq_true, if_false, State.fetchLines_focus, State.fetchLines_cx]

theorem issueNext_error {s : State} {e : BitVec 8} {v : Word} (h : s.canIssue = true)
    (hw : fetchWord (s.fetchLines s.focus s.cx.pc) s.focus s.cx.pc = .error (e, v)) :
    issueNext s = .next ((s.fetchLines s.focus s.cx.pc).fault e v) := by
  simp only [issueNext, h, hw, Bool.not_true, Bool.false_eq_true, if_false, State.fetchLines_focus, State.fetchLines_cx]

/-- The step of a schedule that names a context. -/
theorem step_issue {s : State} {c : CtxLoc} {r : List Move} (h : s.agenda = .issue c :: r) (hc : c.ok = true) :
    step s = issueNext ({ s with agenda := r }.refocus c) := by
  simp only [step, h, runMove, noObject, hc, if_true]

/-- The step where nothing is scheduled and no event of the machine's own is enabled. -/
theorem step_own {s : State} (h : s.agenda = []) (ho : ownEvent s = none) : step s = issueNext s := by
  simp only [step, h, ho]

/-- A word that is fetched whole and decodes is the word. -/
theorem fetchWord_ok {s : State} {c : CtxLoc} {va : Word} {p : Parcel} {ps q : List Parcel} {i : Instr}
    (hp : fetchParcel s c (s.ctxAt c) va = .ok p) (hps : fetchParcels s c (s.ctxAt c) (wordParcels p) va = .ok ps)
    (hd : decode ps = .ok (i, q)) : fetchWord s c va = .ok i := by
  simp only [fetchWord, hp, hps, hd]

/-- A parcel that is not cached comes from device memory, through the translation of its address. -/
theorem fetchParcel_uncached {s : State} {c : CtxLoc} {x : Context} {va : Word} {pa : Nat} (hva : va.toNat < 2 ^ 48)
    (hc : cachedLine s c x (va.toNat / 64) = none) (ht : translate s c.pcl x.part va.toNat .fetch = .ok pa) (hp : pa / 64 ∉ s.poison) :
    fetchParcel s c x va = .ok (BitVec.ofNat 32 (loadNat s.mem pa 4)) := by
  have htop : bitsOf va 48 16 = 0 := (bitsOf_top_eq_zero_iff va rfl).mpr hva
  have hpoison : s.poison.contains (pa / 64) = false := by simpa using hp
  simp only [fetchParcel, htop, hc, ht, hpoison, bne_self_eq_false, Bool.false_eq_true, if_false]

/-- Settles O58: the step's cases are those of `step`, `runMove` and `issueNext`. -/
theorem stepRunsDecoded : Obligations.StepRunsDecoded := by
  refine ⟨fun s e r h => ?event, fun s c r h hc => ?issue, fun s => ?own, fun s c va => ?fetch, fun s c va p ps q i => ?word,
    fun s c va pa => ?parcel⟩
  case event => simp only [step, h, runMove]
  case issue =>
    intro t u hi
    have hf : t.focus = c := State.refocus_focus _ c
    have hu : t.fetchLines t.focus t.cx.pc = u := by rw [hf]
    rw [step_issue h hc]
    refine ⟨fun i hw => ?_, fun e v hw => ?_⟩
    · rw [issueNext_ok hi (by rwa [hu, hf]), hu]
    · rw [issueNext_error hi (by rwa [hu, hf]), hu]
  case own =>
    intro u ha ho hi
    rw [step_own ha ho]
    exact ⟨fun i hw => issueNext_ok hi hw, fun e v hw => issueNext_error hi hw⟩
  case fetch => exact s.fetchLines_fetchedTo c va
  case word => exact fetchWord_ok
  case parcel => exact fetchParcel_uncached
end Sys2Proof.Machine
end
section
namespace Sys2Proof.Machine

/-! ### Products and quotients (R96) -/

theorem mul_eq_ofInt (a b : Word) : a * b = BitVec.ofInt 64 (a.toInt * b.toInt) := by
  rw [BitVec.ofInt_mul, BitVec.ofInt_toInt, BitVec.ofInt_toInt]

/-- The upper half of a signed product. -/
theorem mulh_eq (a b : Word) :
    BitVec.ofInt 64 (a.toInt * b.toInt / 2 ^ 64) = (a.signExtend 128 * b.signExtend 128).extractLsb' 64 64 := by
  have hprod : a.signExtend 128 * b.signExtend 128 = BitVec.ofInt 128 (a.toInt * b.toInt) := by
    rw [BitVec.signExtend, BitVec.signExtend, ← BitVec.ofInt_mul]
  rw [hprod]
  apply BitVec.eq_of_toNat_eq
  simp only [BitVec.extractLsb'_toNat, BitVec.toNat_ofInt, Nat.shiftRight_eq_div_pow]
  generalize a.toInt * b.toInt = p
  omega

theorem mulhu_eq (a b : Word) :
    BitVec.ofNat 64 (a.toNat * b.toNat / 2 ^ 64) = (a.setWidth 128 * b.setWidth 128).extractLsb' 64 64 := by
  have hlt : a.toNat * b.toNat < 2 ^ 128 := by
    calc a.toNat * b.toNat < 2 ^ 64 * 2 ^ 64 := Nat.mul_lt_mul'' a.isLt b.isLt
      _ = 2 ^ 128 := by decide
  apply BitVec.eq_of_toNat_eq
  have ha : a.toNat % 2 ^ 128 = a.toNat := Nat.mod_eq_of_lt (Nat.lt_trans a.isLt (by decide))
  have hb : b.toNat % 2 ^ 128 = b.toNat := Nat.mod_eq_of_lt (Nat.lt_trans b.isLt (by decide))
  simp only [BitVec.extractLsb'_toNat, BitVec.toNat_mul, BitVec.toNat_setWidth, BitVec.toNat_ofNat, ha, hb, Nat.mod_eq_of_lt hlt,
    Nat.shiftRight_eq_div_pow]

theorem sdiv_eq_ofInt (a b : Word) : BitVec.ofInt 64 (a.toInt.tdiv b.toInt) = a.sdiv b := by
  apply BitVec.eq_of_toInt_eq
  rw [BitVec.toInt_ofInt, BitVec.toInt_sdiv]

theorem srem_eq_ofInt (a b : Word) : BitVec.ofInt 64 (a.toInt.tmod b.toInt) = a.srem b := by
  rw [← BitVec.toInt_srem, BitVec.ofInt_toInt]

theorem ofNat_udiv (a b : Word) : BitVec.ofNat 64 (a.toNat / b.toNat) = a / b := by
  rw [← BitVec.toNat_udiv, BitVec.ofNat_toNat, BitVec.setWidth_eq]

theorem ofNat_umod (a b : Word) : BitVec.ofNat 64 (a.toNat % b.toNat) = a % b := by
  rw [← BitVec.toNat_umod, BitVec.ofNat_toNat, BitVec.setWidth_eq]

/-- The quotient and the remainder give the dividend back, but for the one quotient that a word does not hold. -/
theorem sdiv_mul_add_srem {a b : Word} (h : ¬(a = BitVec.intMin 64 ∧ b = -1)) :
    a.toInt = (a.sdiv b).toInt * b.toInt + (a.srem b).toInt := by
  rw [BitVec.toInt_srem, BitVec.toInt_sdiv_of_ne_or_ne a b (not_and_or.mp h), Int.mul_comm]
  exact (Int.mul_tdiv_add_tmod a.toInt b.toInt).symm

/-- Settles O4: each word is `scalarResult` of its value; the corners are those of the library's signed division. -/
theorem multiplyDivideWords : Obligations.MultiplyDivideWords := by
  intro s rd rs1 rs2 a b q r
  refine ⟨?mul, ?mulh, ?mulhu, ?div, ?divu, ?rem, ?remu, fun hb ha => ?overflow, fun hb h => ?back⟩
  case mul => exact completes_of_scalarResult rfl (mul_eq_ofInt a b)
  case mulh => exact completes_of_scalarResult rfl (mulh_eq a b)
  case mulhu => exact completes_of_scalarResult rfl (mulhu_eq a b)
  case div => exact completes_of_scalarResult rfl (if_congr Iff.rfl rfl (sdiv_eq_ofInt a b))
  case divu => exact completes_of_scalarResult rfl (if_congr Iff.rfl rfl (ofNat_udiv a b))
  case rem => exact completes_of_scalarResult rfl (if_congr Iff.rfl rfl (srem_eq_ofInt a b))
  case remu => exact completes_of_scalarResult rfl (if_congr Iff.rfl rfl (ofNat_umod a b))
  case overflow =>
    have hq : q = a.sdiv b := if_neg (by rw [hb]; decide)
    have hr : r = a.srem b := if_neg (by rw [hb]; decide)
    rw [hq, hr, ha, hb]
    exact ⟨BitVec.intMin_sdiv_neg_one, by decide⟩
  case back =>
    have hq : q = a.sdiv b := if_neg hb
    have hr : r = a.srem b := if_neg hb
    rw [hq, hr]
    exact sdiv_mul_add_srem h
end Sys2Proof.Machine
end
section
namespace Sys2Proof.Machine

/-! ### Scalar floating point (R97) -/

/-- A word that is `fpsResult` completes with the value and its flags. -/
theorem completes_of_fpsResult {i : Instr} {s : State} {rd : Reg} {v : Context → Nat × Flags} {w : Nat × Flags}
    (hexec : exec i s = fpsResult i rd v s) (hv : v s.cx = w) : Completes i s (s.wroteFp rd w) := by
  intro h
  rw [hexec, fpsResult, issue_of_issues h, ← hv]
  simp [State.onCx, State.wroteFp, Context.retire]

/-- The two zeros decode to a zero of their sign. -/
theorem decodeFp_zero {a : Nat} (h : a % 2 ^ 31 = 0) : ∃ g e, decodeFp .fp32 a = .fin g 0 e false := by
  have hm : a % 2 ^ 23 = 0 := by omega
  have hx : a / 2 ^ 23 % 2 ^ 8 = 0 := by omega
  refine ⟨decide (a / 2 ^ 31 % 2 = 1), 1 - 127 - 23, ?_⟩
  simp only [decodeFp, mantBits, expoBits, hm, hx]
  rfl

theorem fpCmp_zeros {a b : Nat} (ha : a % 2 ^ 31 = 0) (hb : b % 2 ^ 31 = 0) : fpCmp .fp32 a b = some (true, false) := by
  obtain ⟨g, e, hx⟩ := decodeFp_zero ha
  obtain ⟨g', e', hy⟩ := decodeFp_zero hb
  simp [fpCmp, hx, hy, Num.isNan, numLt, scaled]

theorem isNan_inf (g : Bool) : (Num.inf g).isNan = false := rfl
theorem isNan_fin (g : Bool) (n : Nat) (e : Int) (t : Bool) : (Num.fin g n e t).isNan = false := rfl
theorem isNan_nan : Num.nan.isNan = true := rfl

theorem isNan_ite {c : Prop} [Decidable c] {x y : Num} (hx : x.isNan = false) (hy : y.isNan = false) : (if c then x else y).isNan = false := by
  split
  · exact hx
  · exact hy

/-- The NaNs of single precision: the greatest exponent with a mantissa that is not 0. -/
theorem isNan_decodeFp_iff (d : Nat) : (decodeFp .fp32 d).isNan = true ↔ d / 2 ^ 23 % 2 ^ 8 = 2 ^ 8 - 1 ∧ d % 2 ^ 23 ≠ 0 := by
  have hfmt : (Fmt.fp32 != .e4m3) = true := rfl
  have hfmt' : decide (Fmt.fp32 = .e4m3) = false := rfl
  by_cases hx : d / 2 ^ 23 % 2 ^ 8 = 2 ^ 8 - 1
  · by_cases hm : d % 2 ^ 23 = 0
    · simp only [decodeFp, mantBits, expoBits, hfmt, hx, hm, decide_true, Bool.and_self, if_true, isNan_inf, ne_eq, not_true, and_false,
        Bool.false_eq_true]
    · simp only [decodeFp, mantBits, expoBits, hfmt, hx, hm, decide_true, Bool.and_self, if_true, if_false, isNan_nan, ne_eq, not_false_eq_true,
        and_self]
  · simp only [decodeFp, mantBits, expoBits, hfmt', hx, decide_false, Bool.false_and, Bool.false_eq_true, if_false, false_and, iff_false]
    exact ne_true_of_eq_false (isNan_ite rfl rfl)

/-- They are the patterns above infinity's. -/
theorem isNan_decodeFp_fp32 (d : Nat) : (decodeFp .fp32 d).isNan = true ↔ 0x7F800000 < d % 2 ^ 31 := by
  rw [isNan_decodeFp_iff]
  omega

theorem decodeFp_inf : decodeFp .fp32 0x7F800000 = .inf false := by decide

theorem fpFma_inf_zero (m : RMode) (d : Nat) :
    fpFma .fp32 m false false 0x7F800000 0 d = if (decodeFp .fp32 d).isNan then nanOut .fp32 1 fNI else nanOut .fp32 4 fNV := by
  obtain ⟨g, e, hz⟩ := decodeFp_zero (a := 0) rfl
  simp only [fpFma, decodeFp_inf, hz, isNan_inf, isNan_fin, mulNum, Bool.false_or, if_true]

/-- Settles O5: each word is `fpsResult` of its function; the corners follow from what the operands decode to. -/
theorem scalarFloatWords : Obligations.ScalarFloatWords := by
  intro s rd rs1 rs2 m a b d order cmp
  refine ⟨?fadd, ?fsub, ?fmul, ?ffma, ?fmin, ?fmax, ?fcvtif, ?fcvtfi, ?fcmpeq, ?fcmplt, ?fcmple, fpCmp_zeros, fun ha hb hd => ?generated,
    fun ha hb hd => ?propagated⟩
  case fadd | fsub | fmul | ffma | fmin | fmax | fcvtif | fcvtfi | fcmpeq | fcmplt | fcmple => exact completes_of_fpsResult rfl rfl
  case generated =>
    rw [ha, hb, fpFma_inf_zero, if_neg (fun h => absurd ((isNan_decodeFp_fp32 d).mp h) (by omega))]
    exact ⟨rfl, rfl⟩
  case propagated =>
    rw [ha, hb, fpFma_inf_zero, if_pos ((isNan_decodeFp_fp32 d).mpr hd)]
    rfl
end Sys2Proof.Machine
end
section
namespace Sys2Proof.Machine

/-! ### Scalar memory words at issue (R101, R107 to R109) -/

/-- The places that the check of an address lets a word name: all but, for an atomic, those of the register window. -/
def mayName (winOk : Bool) (p : Place) : Prop := winOk = true ∨ ∀ o, p ≠ .win o

/-- The check of an address, in its order. -/
theorem checkAddr_none {x : Context} {kinds w : Nat} {winOk : Bool} {a : Word} (h : placeOf x.wsize a = none) :
    checkAddr x kinds winOk a w = .bad 0x06 a := by
  simp only [checkAddr, h]

theorem checkAddr_some {x : Context} {kinds w : Nat} {winOk : Bool} {a : Word} {p : Place} (h : placeOf x.wsize a = some p) :
    (¬ mayName winOk p → checkAddr x kinds winOk a w = .bad 0x06 a) ∧
    (mayName winOk p → a.toNat % w ≠ 0 → checkAddr x kinds winOk a w = .bad 0x07 a) ∧
    (mayName winOk p → a.toNat % w = 0 → ∀ k, watchHit x kinds p w = some k →
      checkAddr x kinds winOk a w = .bad 0x17 (a + BitVec.ofNat 64 k)) ∧
    (mayName winOk p → a.toNat % w = 0 → watchHit x kinds p w = none → checkAddr x kinds winOk a w = .ok p) := by
  unfold checkAddr
  rw [h]
  cases winOk
  case true =>
    have hm : mayName true p := .inl rfl
    exact ⟨fun hn => absurd hm hn, fun _ hw => by simp [hw], fun _ hw k hk => by simp [hw, hk], fun _ hw hk => by simp [hw, hk]⟩
  case false =>
    cases p
    case win o =>
      have hm : ¬ mayName false (.win o) := fun hn => hn.resolve_left Bool.false_ne_true o rfl
      exact ⟨fun _ => rfl, fun hn => absurd hn hm, fun hn => absurd hn hm, fun hn => absurd hn hm⟩
    all_goals
      exact ⟨fun hn => absurd (.inr fun _ h => nomatch h) hn, fun _ hw => by simp [hw], fun _ hw k hk => by simp [hw, hk], fun _ hw hk => by simp [hw, hk]⟩

/-- What `issueL` comes to. -/
theorem memoryWord_of_issueL {i : Instr} {s : State} {kinds n : Nat} {winOk : Bool} {addr data old : Context → Word} {allowed : Place → Prop}
    {a b d : Word} (hexec : exec i s = issueL i kinds winOk n addr data old s) (ha : addr s.cx = a) (hb : data s.cx = b) (hd : old s.cx = d)
    (hallow : ∀ p, allowed p ↔ mayName winOk p) : MemoryWord i s kinds n allowed a b d := by
  subst ha hb hd
  have hbad : ∀ c v, checkAddr s.cx kinds winOk (addr s.cx) n = .bad c v → Faults i s c v := by
    intro c v hc hi
    rw [hexec, issueL, issue_of_issues hi, hc]
    rfl
  refine ⟨fun hp => hbad _ _ (checkAddr_none hp), fun p hp => ?_⟩
  obtain ⟨hname, halign, hwatch, hok⟩ := checkAddr_some (kinds := kinds) (w := n) (winOk := winOk) hp
  rw [hallow]
  refine ⟨fun h => hbad _ _ (hname h), fun h hw => hbad _ _ (halign h hw), fun h hw k hk => hbad _ _ (hwatch h hw k hk), fun h hw hk hi => ?_⟩
  rw [hexec, issueL, issue_of_issues hi, hok h hw hk]
  cases hin : s.cx.intrap
  · rfl
  · rfl

/-! The arms of `exec` for these words. -/

theorem exec_ld (wd : Width) (rd rs1 : Reg) (imm : BitVec 11) (s : State) : exec (.ld wd rd rs1 imm) s = execLd wd rd rs1 imm s := rfl
theorem exec_st (wd : Width) (rs2 rs1 : Reg) (imm : BitVec 11) (s : State) : exec (.st wd rs2 rs1 imm) s = execSt wd rs2 rs1 imm s := rfl
theorem exec_lda (wd : Width) (sc : Scope) (rd rs1 : Reg) (s : State) : exec (.lda wd sc rd rs1) s = execLda wd sc rd rs1 s := rfl
theorem exec_stl (wd : Width) (sc : Scope) (rs rs1 : Reg) (s : State) : exec (.stl wd sc rs rs1) s = execStl wd sc rs rs1 s := rfl
theorem exec_amoSwap (word : Bool) (sc : Scope) (seq : Bool) (rd rs1 rs2 : Reg) (s : State) :
    exec (.amoSwap word sc seq rd rs1 rs2) s = execAmoSwap word sc seq rd rs1 rs2 s := rfl
theorem exec_amoAdd (word : Bool) (sc : Scope) (seq : Bool) (rd rs1 rs2 : Reg) (s : State) :
    exec (.amoAdd word sc seq rd rs1 rs2) s = execAmoAdd word sc seq rd rs1 rs2 s := rfl
theorem exec_amoAnd (word : Bool) (sc : Scope) (seq : Bool) (rd rs1 rs2 : Reg) (s : State) :
    exec (.amoAnd word sc seq rd rs1 rs2) s = execAmoAnd word sc seq rd rs1 rs2 s := rfl
theorem exec_amoOr (word : Bool) (sc : Scope) (seq : Bool) (rd rs1 rs2 : Reg) (s : State) :
    exec (.amoOr word sc seq rd rs1 rs2) s = execAmoOr word sc seq rd rs1 rs2 s := rfl
theorem exec_amoXor (word : Bool) (sc : Scope) (seq : Bool) (rd rs1 rs2 : Reg) (s : State) :
    exec (.amoXor word sc seq rd rs1 rs2) s = execAmoXor word sc seq rd rs1 rs2 s := rfl
theorem exec_amoMin (word : Bool) (sc : Scope) (seq : Bool) (rd rs1 rs2 : Reg) (s : State) :
    exec (.amoMin word sc seq rd rs1 rs2) s = execAmoMin word sc seq rd rs1 rs2 s := rfl
theorem exec_amoMax (word : Bool) (sc : Scope) (seq : Bool) (rd rs1 rs2 : Reg) (s : State) :
    exec (.amoMax word sc seq rd rs1 rs2) s = execAmoMax word sc seq rd rs1 rs2 s := rfl
theorem exec_amoMinu (word : Bool) (sc : Scope) (seq : Bool) (rd rs1 rs2 : Reg) (s : State) :
    exec (.amoMinu word sc seq rd rs1 rs2) s = execAmoMinu word sc seq rd rs1 rs2 s := rfl
theorem exec_amoMaxu (word : Bool) (sc : Scope) (seq : Bool) (rd rs1 rs2 : Reg) (s : State) :
    exec (.amoMaxu word sc seq rd rs1 rs2) s = execAmoMaxu word sc seq rd rs1 rs2 s := rfl
theorem exec_amoFadd (sc : Scope) (seq : Bool) (rd rs1 rs2 : Reg) (s : State) :
    exec (.amoFadd sc seq rd rs1 rs2) s = execAmoFadd sc seq rd rs1 rs2 s := rfl
theorem exec_cas (word : Bool) (sc : Scope) (seq : Bool) (rd rs1 rs2 : Reg) (s : State) :
    exec (.cas word sc seq rd rs1 rs2) s = execCas word sc seq rd rs1 rs2 s := rfl

/-- Settles O9: each word is `issueL` of its address and its data. -/
theorem loadStoreWords : Obligations.LoadStoreWords := by
  intro s wd sc rd rs1 rs2 imm a o n any
  have hall : ∀ p, any p ↔ mayName true p := fun p => iff_of_true trivial (.inl rfl)
  exact ⟨memoryWord_of_issueL (exec_ld ..) rfl rfl rfl hall, memoryWord_of_issueL (exec_st ..) rfl rfl rfl hall,
    memoryWord_of_issueL (exec_lda ..) rfl rfl rfl hall, memoryWord_of_issueL (exec_stl ..) rfl rfl rfl hall⟩

/-- Settles O10: each atomic is `issueL` with the register window refused. -/
theorem atomicWords : Obligations.AtomicWords := by
  intro s w sc q rd rs1 rs2 a b n noWin
  have hno : ∀ p, noWin p ↔ mayName false p := fun p => ⟨.inr, fun h => h.resolve_left Bool.false_ne_true⟩
  exact ⟨memoryWord_of_issueL (exec_amoSwap ..) rfl rfl rfl hno, memoryWord_of_issueL (exec_amoAdd ..) rfl rfl rfl hno,
    memoryWord_of_issueL (exec_amoAnd ..) rfl rfl rfl hno, memoryWord_of_issueL (exec_amoOr ..) rfl rfl rfl hno,
    memoryWord_of_issueL (exec_amoXor ..) rfl rfl rfl hno, memoryWord_of_issueL (exec_amoMin ..) rfl rfl rfl hno,
    memoryWord_of_issueL (exec_amoMax ..) rfl rfl rfl hno, memoryWord_of_issueL (exec_amoMinu ..) rfl rfl rfl hno,
    memoryWord_of_issueL (exec_amoMaxu ..) rfl rfl rfl hno, memoryWord_of_issueL (exec_amoFadd ..) rfl rfl rfl hno,
    memoryWord_of_issueL (exec_cas ..) rfl rfl rfl hno⟩
end Sys2Proof.Machine
end
section
namespace Sys2Proof.Machine

/-! ### What issue grants -/

/-- What a word that issues outside a handler finds: its context runs, and nothing freezes or holds it. -/
structure Grants (s : State) : Prop where
  resident : s.cx.resident = true
  halt : s.cx.halt = none
  debug : s.cx.debug = false
  drain : s.cx.drain = .none
  hold : s.cx.hold = .none
  thawed : s.frozen s.focus.pcl s.focus.sub = false
  untripped : s.mgr.tripped = false
  converges : (s.partAt s.cx.part).capture.diverged = false

theorem canIssue_iff (s : State) : s.canIssue = true ↔ s.cx.live = true ∧ s.frozen s.focus.pcl s.focus.sub = false ∧ s.mgr.tripped = false ∧
    (s.partAt s.cx.part).capture.diverged = false := by
  simp [State.canIssue, and_assoc]

theorem Issues.grants {s : State} {i : Instr} (h : Issues s i) (hi : s.cx.intrap = false) : Grants s := by
  obtain ⟨hlive, hf, ht, hd⟩ := (canIssue_iff s).mp h.1
  simp only [Context.live, hi, Bool.and_false, Bool.false_or, Bool.and_eq_true, Option.isNone_iff_eq_none, Bool.not_eq_true'] at hlive
  obtain ⟨⟨⟨⟨hres, hhalt⟩, hdebug⟩, hdrain⟩, hhold⟩ := hlive
  refine ⟨hres, hhalt, hdebug, ?_, ?_, hf, ht, hd⟩
  · split at hdrain
    · assumption
    · exact absurd hdrain Bool.false_ne_true
  · split at hhold
    · assumption
    · exact absurd hhold Bool.false_ne_true

/-- A word that no handler may issue finds its context outside one. -/
theorem Issues.intrap_false {s : State} {i : Instr} (h : Issues s i) (hi : handlerOk i = false) : s.cx.intrap = false := by
  cases ht : s.cx.intrap
  · rfl
  · exact absurd (h.2.1 ht) (by simp [hi])

/-! ### Freezes: the overdue accesses of a sub-core -/

/-- A reply of a part of the word is overdue (R34). -/
def Item.overdue (i : Item) : Bool := i.parts.any fun p => match p.st with | .due => true | _ => false

/-- An L word of the context waits for an overdue reply. -/
def Context.overdue (x : Context) : Bool := (x.ql.items ++ x.lane).any Item.overdue

theorem State.frozen_onCx {s : State} {f : Context → Context} (h : (f s.cx).overdue = s.cx.overdue) (pcl sub : Nat) :
    (s.onCx f).frozen pcl sub = s.frozen pcl sub := by
  have hat : ∀ c, ((s.onCx f).ctxAt c).overdue = (s.ctxAt c).overdue := by
    intro c
    unfold State.ctxAt
    by_cases hc : c = s.focus
    · rw [if_pos hc, if_pos (show c = (s.onCx f).focus from hc)]
      exact h
    · rw [if_neg hc, if_neg (show ¬ c = (s.onCx f).focus from hc)]
      rfl
  exact congrArg (List.any (List.range 3)) (funext fun k => hat ⟨pcl, sub, k⟩)

@[simp] theorem State.partAt_onCx (s : State) (f : Context → Context) (p : Nat) : (s.onCx f).partAt p = s.partAt p := rfl
@[simp] theorem State.cluAt_onCx (s : State) (f : Context → Context) (p : Nat) : (s.onCx f).cluAt p = s.cluAt p := rfl

/-! ### Points at issue (R115) -/

/-- The queue of an engine with one point more, and pc past the word. -/
def Context.pointed (x : Context) (g : Eng) (i : Instr) (a b : Word) : Context :=
  { x.setQueue g { x.queue g with items := (x.queue g).items ++ [mkItem x i (x.queue g) a b 0 0] } with pc := x.pc + 4 }

theorem State.pointed_eq (s : State) (g : Eng) (i : Instr) (a b : Word) : s.pointed g i a b = s.onCx fun x => x.pointed g i a b := rfl

theorem enqueuePoint_room {s : State} {g : Eng} {i : Instr} {a b : Word} (h : (s.cx.queue g).points < 8) :
    enqueuePoint g i a b 0 s = (s.pointed g i a b, true) := by
  rw [enqueuePoint]
  exact if_neg (Nat.not_le.mpr h)

theorem placePoint_full {s : State} {g : Eng} {i : Instr} {a b : Word} {k : State → State} (h : 8 ≤ (s.cx.queue g).points) :
    placePoint g i a b k s = s := by
  have he : enqueuePoint g i a b 0 s = (s, false) := if_pos h
  simp only [placePoint, he, Bool.not_false, if_true]

theorem placePoint_room {s : State} {g : Eng} {i : Instr} {a b : Word} {k : State → State} (h : (s.cx.queue g).points < 8) :
    placePoint g i a b k s =
      if (s.cx.queue g).items.isEmpty && (k (s.pointed g i a b)).pointReady (k (s.pointed g i a b)).focus g then
        (k (s.pointed g i a b)).reachPoint (k (s.pointed g i a b)).focus g
      else k (s.pointed g i a b) := by
  simp only [placePoint, enqueuePoint_room h, Bool.not_true, Bool.false_eq_true, if_false]

theorem placePoint_behind {s : State} {g : Eng} {i : Instr} {a b : Word} {k : State → State} (hne : (s.cx.queue g).items ≠ [])
    (h : (s.cx.queue g).points < 8) : placePoint g i a b k s = k (s.pointed g i a b) := by
  have hfirst : (s.cx.queue g).items.isEmpty = false := by simpa using hne
  rw [placePoint_room h, hfirst, Bool.false_and, if_neg Bool.false_ne_true]

theorem placePoint_first {s : State} {g : Eng} {i : Instr} {a b : Word} {k : State → State} (he : (s.cx.queue g).items = [])
    (h : (k (s.pointed g i a b)).pointReady (k (s.pointed g i a b)).focus g = true) :
    placePoint g i a b k s = (k (s.pointed g i a b)).reachPoint (k (s.pointed g i a b)).focus g := by
  have hpoints : (s.cx.queue g).points = 0 := by simp [Queue.points, he]
  have hfirst : (s.cx.queue g).items.isEmpty = true := by simp [he]
  rw [placePoint_room (by omega), hfirst, h, Bool.and_self, if_pos rfl]

@[simp] theorem Context.queue_setQueue (x : Context) (g : Eng) (q : Queue) : (x.setQueue g q).queue g = q := by cases g <;> rfl

theorem Context.pointed_queue (x : Context) (g : Eng) (i : Instr) (a b : Word) :
    (x.pointed g i a b).queue g = { x.queue g with items := (x.queue g).items ++ [mkItem x i (x.queue g) a b 0 0] } := by
  cases g <;> rfl

/-- A point that enters a queue waits for no reply. -/
theorem Context.overdue_pointed (x : Context) (g : Eng) (i : Instr) (a b : Word) : (x.pointed g i a b).overdue = x.overdue := by
  cases g
  case l =>
    have hj : (mkItem x i x.ql a b 0 0).overdue = false := rfl
    simp only [Context.overdue, Context.pointed, Context.setQueue, Context.queue, List.any_append, List.any_cons, List.any_nil, hj, Bool.or_false]
  all_goals rfl

/-- A context whose engines may start words. -/
theorem engineOn_of_grants {s : State} (h : Grants s) (hp : s.cx.parked = false) : s.engineOn s.focus = true := by
  simp [State.engineOn, State.ctxAt_at_focus, Context.running, h.resident, h.halt, h.debug, hp, h.drain, Drain.away, h.thawed, h.untripped,
    h.converges]

/-- The state of a context that has put a point into an empty queue grants as before, and the point is ready. -/
theorem pointReady_of_grants {s : State} {g : Eng} {j : Item} {r : List Item} (h : Grants s) (hp : s.cx.parked = false)
    (he : (s.cx.queue g).items = j :: r) (hj : Instr.isPoint j.ins = true) : s.pointReady s.focus g = true := by
  simp only [State.pointReady, State.ctxAt_at_focus, h.resident, hp, h.debug, h.thawed, h.untripped, h.drain, Drain.away, he, hj,
    engineOn_of_grants h hp, Bool.not_false, Bool.or_true, Bool.and_self]

theorem Context.pointed_fields (x : Context) (g : Eng) (i : Instr) (a b : Word) :
    let y := x.pointed g i a b
    y.resident = x.resident ∧ y.halt = x.halt ∧ y.debug = x.debug ∧ y.drain = x.drain ∧ y.hold = x.hold ∧ y.part = x.part ∧
      y.parked = x.parked := by
  cases g <;> exact ⟨rfl, rfl, rfl, rfl, rfl, rfl, rfl⟩

theorem Grants.pointed {s : State} (h : Grants s) (g : Eng) (i : Instr) (a b : Word) : Grants (s.pointed g i a b) := by
  obtain ⟨hres, hhalt, hdebug, hdrain, hhold, hpart, -⟩ := s.cx.pointed_fields g i a b
  refine ⟨hres.trans h.resident, hhalt.trans h.halt, hdebug.trans h.debug, hdrain.trans h.drain, hhold.trans h.hold, ?_, h.untripped, ?_⟩
  · exact (State.frozen_onCx (f := fun x => x.pointed g i a b) (s.cx.overdue_pointed g i a b) _ _).trans h.thawed
  · show ((s.partAt (s.cx.pointed g i a b).part).capture.diverged) = false
    rw [hpart]
    exact h.converges

/-- A point with no word ahead of it makes its action. -/
theorem placePoint_acts {s : State} {g : Eng} {i : Instr} {a b : Word} (h : Grants s) (hp : s.cx.parked = false)
    (he : (s.cx.queue g).items = []) (hi : Instr.isPoint i = true) :
    placePoint g i a b id s = (s.pointed g i a b).reachPoint s.focus g := by
  refine placePoint_first (k := id) he (pointReady_of_grants (j := mkItem s.cx i (s.cx.queue g) a b 0 0) (r := []) (h.pointed g i a b) ?_ ?_ hi)
  · exact (s.cx.pointed_fields g i a b).2.2.2.2.2.2.trans hp
  · show ((s.cx.pointed g i a b).queue g).items = _
    rw [Context.pointed_queue, he]
    rfl
end Sys2Proof.Machine
end
section
namespace Sys2Proof.Machine

/-! ### Drains of the write buffer (R250, R256) -/

/-- Two states that differ in what drains change alone: stamps that contexts observe, the write buffers, the clocks and the writes under way. -/
def State.drainedTo (s t : State) : Prop :=
  t = { s with cx := { s.cx with obs := t.cx.obs }, others := t.others, clus := t.clus, clocks := t.clocks, transit := t.transit }

theorem State.drainedTo_refl (s : State) : s.drainedTo s := rfl

theorem State.drainedTo_trans {s t u : State} (h : s.drainedTo t) (g : t.drainedTo u) : s.drainedTo u := by
  unfold State.drainedTo at *
  rw [g, h]

theorem foldl_rel {α : Type} {R : State → State → Prop} (hrefl : ∀ s, R s s) (htrans : ∀ {s t u}, R s t → R t u → R s u) {f : State → α → State}
    (hf : ∀ s a, R s (f s a)) (l : List α) (s : State) : R s (l.foldl f s) := by
  induction l generalizing s with
  | nil => exact hrefl s
  | cons a l ih => exact htrans (hf s a) (ih (f s a))

theorem State.observe_drainedTo (s : State) (c : CtxLoc) (st : Stamp) : s.drainedTo (s.onCtx c fun x => x.observe st) := by
  unfold State.onCtx State.setCtx State.ctxAt
  split <;> rfl

theorem State.drainOne_drainedTo (s : State) (pcl : Nat) (b : Buffered) : s.drainedTo (s.drainOne pcl b) := by
  unfold State.drainOne
  refine State.drainedTo_trans (t := List.foldl _ _ b.seenBy) ?_ rfl
  refine State.drainedTo_trans ?_ (foldl_rel State.drainedTo_refl State.drainedTo_trans (fun s c => s.observe_drainedTo c _) _ _)
  rfl

theorem State.drainWith_drainedTo (s : State) (pcl : Nat) (b : Buffered) : s.drainedTo (s.drainWith pcl b) :=
  foldl_rel State.drainedTo_refl State.drainedTo_trans (fun s w => s.drainOne_drainedTo pcl w) _ _

theorem drainFirst_drainedTo (pcl : Nat) (p : Buffered → Bool) (n : Nat) (s : State) : s.drainedTo (drainFirst pcl p n s) := by
  induction n generalizing s with
  | zero => rfl
  | succ n ih =>
    unfold drainFirst
    split
    · exact State.drainedTo_trans (s.drainWith_drainedTo pcl _) (ih _)
    · rfl

theorem State.releaseDrain_drainedTo (s : State) (c : CtxLoc) (sc : Scope) : s.drainedTo (s.releaseDrain c sc) := by
  unfold State.releaseDrain
  split
  · rfl
  · rfl
  · rfl
  · exact drainFirst_drainedTo ..

/-- A table reads a written entry that is not the default, whatever its form. -/
theorem tget_tset_ne {α : Type} [DecidableEq α] {v d : α} (h : v ≠ d) (t : Tbl α) (k : Nat) : tget (tset t k v d) k d = v := by
  induction t with
  | nil => simp [tset, tget, h]
  | cons e r ih =>
    obtain ⟨j, w⟩ := e
    simp only [tset]
    split
    · simp [tget]
    · split
      · simp [tget]
      · rename_i hk hj
        simp [tget, hj, ih]

/-- A buffered write after the write of number `id` has drained under a stamp. -/
def afterDrain (id : Nat) (st : Stamp) (w : Buffered) : Buffered :=
  if w.id = id then { w with stamp := some st, seenBy := [] } else { w with seen := w.seen.filter (· != id) }

/-- The writes of a buffer that have not drained. -/
def undrained (l : List Buffered) : Nat := l.countP fun w => w.stamp.isNone

theorem afterDrain_id (id : Nat) (st : Stamp) (w : Buffered) : (afterDrain id st w).id = w.id := by
  unfold afterDrain
  split <;> rfl

theorem isNone_afterDrain {id : Nat} {st : Stamp} {w : Buffered} :
    (afterDrain id st w).stamp.isNone = true ↔ w.id ≠ id ∧ w.stamp.isNone = true := by
  unfold afterDrain
  split
  · simp [*]
  · simp [*]

theorem undrained_map_le (l : List Buffered) (id : Nat) (st : Stamp) : undrained (l.map (afterDrain id st)) ≤ undrained l := by
  unfold undrained
  rw [List.countP_map]
  exact List.countP_mono_left fun w _ hw => (isNone_afterDrain.mp hw).2

theorem undrained_map_lt {l : List Buffered} {w : Buffered} (hw : w ∈ l) (hn : w.stamp.isNone = true) (st : Stamp) :
    undrained (l.map (afterDrain w.id st)) < undrained l := by
  induction l with
  | nil => exact absurd hw (List.not_mem_nil)
  | cons e r ih =>
    simp only [undrained, List.map_cons, List.countP_cons] at *
    have hle := undrained_map_le r w.id st
    simp only [undrained] at hle
    rcases List.mem_cons.mp hw with rfl | hr
    · have h1 : (afterDrain w.id st w).stamp.isNone = false := by simp [afterDrain]
      simp only [h1, hn, Bool.false_eq_true, if_false, if_true]
      omega
    · have := ih hr
      have hmono : (if (afterDrain w.id st e).stamp.isNone = true then 1 else 0) ≤ (if e.stamp.isNone = true then 1 else 0 : Nat) := by
        split
        · rw [if_pos (isNone_afterDrain.mp ‹_›).2]
        · exact Nat.zero_le _
      omega

theorem foldl_onCtx_clus {α : Type} (f : α → CtxLoc) (g : α → Context → Context) (l : List α) (s : State) :
    (l.foldl (fun s a => s.onCtx (f a) (g a)) s).clus = s.clus := by
  induction l generalizing s with
  | nil => rfl
  | cons a l ih => rw [List.foldl_cons, ih, State.onCtx_clus]

theorem State.cluAt_onClu_of_ne {s : State} {pcl : Nat} {f : Cluster → Cluster} (h : f (s.cluAt pcl) ≠ {}) :
    (s.onClu pcl f).cluAt pcl = f (s.cluAt pcl) := tget_tset_ne h s.clus pcl

/-- A write that drains is marked in a buffer that holds something. -/
theorem State.drainOne_wbuf {s : State} {pcl : Nat} {b : Buffered} (h : (s.cluAt pcl).wbuf ≠ []) :
    ∃ st, ((s.drainOne pcl b).cluAt pcl).wbuf = (s.cluAt pcl).wbuf.map (afterDrain b.id st) := by
  let st := (s.stampWrite (dieOf pcl) (s.ctxAt b.who).obs).1
  let f := fun cl : Cluster => { cl with wbuf := cl.wbuf.map (afterDrain b.id st) }
  have hne : f (s.cluAt pcl) ≠ {} := fun e => h (List.map_eq_nil_iff.mp (congrArg Cluster.wbuf e))
  have hclus : (s.drainOne pcl b).clus = (s.onClu pcl f).clus := foldl_onCtx_clus id (fun _ x => x.observe st) b.seenBy _
  refine ⟨st, ?_⟩
  rw [show (s.drainOne pcl b).cluAt pcl = (s.onClu pcl f).cluAt pcl from congrArg (fun t => tget t pcl ({} : Cluster)) hclus, State.cluAt_onClu_of_ne hne]

/-- Draining a chain of writes marks each of them. -/
theorem foldl_drainOne_wbuf {pcl id : Nat} {n : Nat} (l : List Buffered) (s : State)
    (h : (∃ w ∈ (s.cluAt pcl).wbuf, w.id = id ∧ w.stamp.isNone = true ∧ undrained (s.cluAt pcl).wbuf ≤ n ∧ ∃ b ∈ l, b.id = id) ∨
      ((s.cluAt pcl).wbuf ≠ [] ∧ undrained (s.cluAt pcl).wbuf < n)) :
    undrained ((l.foldl (fun s w => s.drainOne pcl w) s).cluAt pcl).wbuf < n := by
  induction l generalizing s with
  | nil =>
    rcases h with ⟨w, hw, hid, hn, hle, b, hb, -⟩ | h
    · exact absurd hb List.not_mem_nil
    · exact h.2
  | cons e r ih =>
    rw [List.foldl_cons]
    apply ih
    rcases h with ⟨w, hw, hid, hn, hle, b, hb, hbid⟩ | ⟨hne, hlt⟩
    · obtain ⟨st, he⟩ := State.drainOne_wbuf (b := e) (List.ne_nil_of_mem hw)
      rw [he]
      by_cases hid' : w.id = e.id
      · refine .inr ⟨by simpa using List.ne_nil_of_mem hw, Nat.lt_of_lt_of_le ?_ hle⟩
        rw [← hid']
        exact undrained_map_lt hw hn st
      · refine .inl ⟨_, List.mem_map_of_mem hw, by rwa [afterDrain_id], isNone_afterDrain.mpr ⟨hid', hn⟩,
          Nat.le_trans (undrained_map_le _ _ _) hle, b, ?_, hbid⟩
        rcases List.mem_cons.mp hb with rfl | hr
        · exact absurd (hid.trans hbid.symm) hid'
        · exact hr
    · obtain ⟨st, he⟩ := State.drainOne_wbuf (b := e) hne
      rw [he]
      exact .inr ⟨by simpa using hne, Nat.lt_of_le_of_lt (undrained_map_le _ _ _) hlt⟩

theorem mem_drainChain (w : List Buffered) (b : Buffered) : b ∈ drainChain w b := by
  unfold drainChain
  induction w.takeWhile fun e => e.id != b.id with
  | nil => exact List.mem_singleton_self b
  | cons e r ih =>
    rw [List.foldr_cons]
    split
    · exact List.mem_cons_of_mem _ ih
    · exact ih

/-- What a release drains: no write of the chosen kind is left in the buffer. -/
theorem drainFirst_spec {pcl : Nat} {p : Buffered → Bool} {n : Nat} {s : State} (h : undrained (s.cluAt pcl).wbuf ≤ n) :
    ∀ b ∈ ((drainFirst pcl p n s).cluAt pcl).wbuf, b.stamp = none → p b = false := by
  induction n generalizing s with
  | zero =>
    intro b hb hn
    have : 0 < undrained (s.cluAt pcl).wbuf := List.countP_pos_iff.mpr ⟨b, hb, by simp [hn]⟩
    omega
  | succ n ih =>
    unfold drainFirst
    split
    · rename_i w hw
      have hmem := List.mem_of_find?_eq_some hw
      have hopen := List.find?_some hw
      simp only [Bool.and_eq_true] at hopen
      refine ih (Nat.le_of_lt_succ (Nat.lt_of_lt_of_le ?_ h))
      exact foldl_drainOne_wbuf _ _ (.inl ⟨w, hmem, rfl, hopen.1, Nat.le_refl _, w, mem_drainChain _ _, rfl⟩)
    · rename_i hw
      intro b hb hn
      have := List.find?_eq_none.mp hw b hb
      simpa [hn] using this

/-- After a release at die scope or wider every write that the context has observed has drained. -/
theorem State.releaseDrain_spec {s : State} {c : CtxLoc} {sc : Scope} (h : wide sc = true) :
    ∀ b ∈ ((s.releaseDrain c sc).cluAt c.pcl).wbuf, b.stamp = none → c ∉ b.seenBy := by
  have hd : s.releaseDrain c sc = s.drainAll c.pcl fun b => b.seenBy.contains c := by
    cases sc <;> simp_all [wide, State.releaseDrain]
  rw [hd]
  intro b hb hn
  simpa using drainFirst_spec (p := fun b => b.seenBy.contains c) (List.countP_le_length) b hb hn

end Sys2Proof.Machine
end
section
namespace Sys2Proof.Machine

/-! ### Fences and tokens with nothing ahead of them (R110, R114, R115) -/

theorem exec_fence (kinds : BitVec 4) (sc : Scope) (s : State) : exec (.fence kinds sc) s = execFence kinds sc s := rfl
theorem exec_tokpost (snd rcv : Eng) (s : State) : exec (.tokpost snd rcv) s = execTokpost snd rcv s := rfl
theorem exec_toktake (snd rcv : Eng) (s : State) : exec (.toktake snd rcv) s = execToktake snd rcv s := rfl

/-- A fence that acts leaves everything as it was, but for what it drains and, at system scope, for what comes before later writes. -/
theorem State.fencePoint_eq (s : State) (c : CtxLoc) (k : BitVec 4) (sc : Scope) :
    s.fencePoint c k sc = s.releaseDrain c sc ∨
      s.fencePoint c k sc = (s.releaseDrain c sc).onCtx c fun x => { x with sysfence := x.sysfence.max x.obs } := by
  unfold State.fencePoint
  split
  · split
    · exact .inr rfl
    · exact .inl rfl
  · exact .inl rfl

theorem State.fencePoint_narrow (s : State) (c : CtxLoc) (k : BitVec 4) {sc : Scope} (h : sc = .subcore ∨ sc = .core ∨ sc = .cluster) :
    s.fencePoint c k sc = s := by
  rcases h with rfl | rfl | rfl <;> rfl

theorem Queue.with_items_nil {q : Queue} (h : q.items = []) : { q with items := [] } = q := by
  cases q
  cases h
  rfl

theorem Context.setQueue_queue (x : Context) (g : Eng) : x.setQueue g (x.queue g) = x := by cases g <;> rfl

/-- A point that has entered an empty queue and leaves it again has moved pc alone. -/
theorem Context.popItem_pointed {x : Context} {g : Eng} {i : Instr} {a b : Word} (he : (x.queue g).items = []) :
    (x.pointed g i a b).popItem g = { x with pc := x.pc + 4 } := by
  have hpop : (x.pointed g i a b).popItem g = { x.setQueue g { x.queue g with items := [] } with pc := x.pc + 4 } := by
    rw [Context.popItem, Context.pointed_queue, he]
    cases g <;> rfl
  rw [hpop, Queue.with_items_nil he, Context.setQueue_queue]

@[simp] theorem State.pointed_focus (s : State) (g : Eng) (i : Instr) (a b : Word) : (s.pointed g i a b).focus = s.focus := rfl

theorem State.ctxAt_pointed (s : State) (g : Eng) (i : Instr) (a b : Word) : (s.pointed g i a b).ctxAt s.focus = (s.pointed g i a b).cx :=
  State.ctxAt_at_focus _

theorem pointed_items {s : State} {g : Eng} {i : Instr} {a b : Word} (he : (s.cx.queue g).items = []) :
    ((s.pointed g i a b).cx.queue g).items = [mkItem s.cx i (s.cx.queue g) a b 0 0] := by
  rw [State.pointed_eq, State.onCx_cx, Context.pointed_queue, he, List.nil_append]

/-- A fence outside a handler that finds the L queue empty acts. -/
theorem exec_fence_acts {s : State} {k : BitVec 4} {sc : Scope} (h : Issues s (.fence k sc)) (hi : s.cx.intrap = false)
    (he : s.cx.ql.items = []) (hp : s.cx.parked = false) :
    exec (.fence k sc) s = .next (((s.pointed .l (.fence k sc) 0 0).fencePoint s.focus k sc).onCtx s.focus fun x => x.popItem .l) := by
  rw [exec_fence, execFence, issue_of_issues h, hi, if_neg Bool.false_ne_true, placePoint_acts (g := .l) (h.grants hi) hp he rfl]
  simp only [State.reachPoint, State.ctxAt_pointed, pointed_items (g := .l) he]
  rfl

/-- A fence of a handler that finds the lane empty acts. -/
theorem exec_fence_handler {s : State} {k : BitVec 4} {sc : Scope} (h : Issues s (.fence k sc)) (hi : s.cx.intrap = true)
    (he : s.cx.lane = []) : exec (.fence k sc) s = .next ((s.fencePoint s.focus k sc).onCx Context.retire) := by
  rw [exec_fence, execFence, issue_of_issues h, hi, if_pos rfl, he, List.isEmpty_nil, if_pos rfl]

theorem exec_fence_held {s : State} {k : BitVec 4} {sc : Scope} (h : Issues s (.fence k sc)) (hi : s.cx.intrap = true)
    (he : s.cx.lane ≠ []) : exec (.fence k sc) s = .next s := by
  have hne : s.cx.lane.isEmpty = false := by simpa using he
  rw [exec_fence, execFence, issue_of_issues h, hi, if_pos rfl, hne, if_neg Bool.false_ne_true]


/-- What is left when a narrow fence outside a handler has acted. -/
theorem pointed_popItem {s : State} {g : Eng} {i : Instr} {a b : Word} (he : (s.cx.queue g).items = []) :
    ((s.pointed g i a b).onCtx s.focus fun x => x.popItem g) = s.passed := by
  rw [← State.pointed_focus s g i a b, State.onCtx_at_focus]
  exact congrArg (fun x => ({ s with cx := x } : State)) (Context.popItem_pointed he)

theorem completes_fence_narrow {s : State} {k : BitVec 4} {sc : Scope} (h : sc = .subcore ∨ sc = .core ∨ sc = .cluster)
    (ha : (s.cx.intrap = true ∧ s.cx.lane = []) ∨ (s.cx.intrap = false ∧ s.cx.ql.items = [] ∧ s.cx.parked = false)) :
    Completes (.fence k sc) s s.passed := by
  intro hi
  rcases ha with ⟨ht, hl⟩ | ⟨ht, hl, hp⟩
  · rw [exec_fence_handler hi ht hl, State.fencePoint_narrow _ _ _ h]
    rfl
  · rw [exec_fence_acts hi ht hl hp, State.fencePoint_narrow _ _ _ h, pointed_popItem (g := .l) hl]

/-- A wide fence of the focused context: what it drains, and what it keeps. -/
theorem fencePoint_wide (s : State) (k : BitVec 4) {sc : Scope} (h : wide sc = true) :
    let t := s.fencePoint s.focus k sc
    t.focus = s.focus ∧ t.mem = s.mem ∧ (∃ o f, t.cx = { s.cx with obs := o, sysfence := f }) ∧
      ∀ b ∈ (t.cluAt s.focus.pcl).wbuf, b.stamp = none → s.focus ∉ b.seenBy := by
  have hd := s.releaseDrain_drainedTo s.focus sc
  have hw := State.releaseDrain_spec (s := s) (c := s.focus) h
  have hfocus : (s.releaseDrain s.focus sc).focus = s.focus := by rw [hd]
  have hmem : (s.releaseDrain s.focus sc).mem = s.mem := by rw [hd]
  have hcx : (s.releaseDrain s.focus sc).cx = { s.cx with obs := (s.releaseDrain s.focus sc).cx.obs } := congrArg State.cx hd
  rcases s.fencePoint_eq s.focus k sc with he | he
  · rw [he]
    exact ⟨hfocus, hmem, ⟨_, _, hcx⟩, hw⟩
  · have he' : s.fencePoint s.focus k sc = (s.releaseDrain s.focus sc).onCx fun x => { x with sysfence := x.sysfence.max x.obs } := by
      rw [he, ← State.onCtx_at_focus, hfocus]
    rw [he']
    refine ⟨hfocus, hmem, ⟨(s.releaseDrain s.focus sc).cx.obs, s.cx.sysfence.max (s.releaseDrain s.focus sc).cx.obs, ?_⟩, hw⟩
    rw [State.onCx_cx, hcx]

theorem fence_wide_acts {s : State} {k : BitVec 4} {sc : Scope} (hw : wide sc = true) (hi : Issues s (.fence k sc))
    (ha : (s.cx.intrap = true ∧ s.cx.lane = []) ∨ (s.cx.intrap = false ∧ s.cx.ql.items = [] ∧ s.cx.parked = false)) :
    ∃ t, exec (.fence k sc) s = .next t ∧ t.cx.pc = s.cx.pc + 4 ∧ t.cx.ql.items = s.cx.ql.items ∧ t.cx.lane = s.cx.lane ∧
      t.mem = s.mem ∧ ∀ b ∈ (t.cluAt s.focus.pcl).wbuf, b.stamp = none → s.focus ∉ b.seenBy := by
  rcases ha with ⟨ht, hl⟩ | ⟨ht, hl, hp⟩
  · obtain ⟨hfocus, hmem, ⟨o, f, hcx⟩, hb⟩ := fencePoint_wide s k hw
    refine ⟨_, exec_fence_handler hi ht hl, ?_, ?_, ?_, hmem, hb⟩
    all_goals simp only [State.onCx_cx, hcx, Context.retire]
  · obtain ⟨hfocus, hmem, ⟨o, f, hcx⟩, hb⟩ := fencePoint_wide (s.pointed .l (.fence k sc) 0 0) k hw
    rw [State.pointed_focus] at hfocus hmem hcx hb
    have hon : (((s.pointed .l (.fence k sc) 0 0).fencePoint s.focus k sc).onCtx s.focus fun x => x.popItem .l) =
        ((s.pointed .l (.fence k sc) 0 0).fencePoint s.focus k sc).onCx fun x => x.popItem .l := by
      rw [← State.onCtx_at_focus, hfocus]
    refine ⟨_, exec_fence_acts hi ht hl hp, ?_⟩
    rw [hon]
    refine ⟨?_, ?_, ?_, hmem, hb⟩
    all_goals simp only [State.onCx_cx, hcx]
    · rfl
    · show ((s.cx.ql.items ++ _).drop 1) = _
      rw [hl]
      rfl
    · rfl

/-! ### Tokens -/

theorem exec_toktake_of_issues {s : State} {snd rcv : Eng} (h : Issues s (.toktake snd rcv)) (hne : snd ≠ rcv) :
    exec (.toktake snd rcv) s =
      match s.cx.popTok (tq snd rcv) with
      | none => .next (s.waiting wTok (queueId s.focus.ctx (tq snd rcv)))
      | some (none, x) => .next ((s.onCx fun _ => x).waited.onCx Context.retire)
      | some (some m, x) => .next ((s.onCx fun _ => x).waited.fault m.cause m.tval) := by
  rw [exec_toktake, execToktake, issue_of_issues h, if_neg hne]
  cases s.cx.popTok (tq snd rcv) with
  | none => rfl
  | some p =>
    obtain ⟨m, x⟩ := p
    cases m <;> rfl

/-- The end of a wait that is not open changes nothing. -/
theorem State.waited_of_unwaiting {s : State} (h : tfind s.cx.waits 4 = none) : s.waited = s := by
  simp only [State.waited, State.waitEnd, State.ctxAt_at_focus, h]

/-- The end of a wait leaves the focused context as it was, but for its open waits. -/
theorem State.logWait_cx (s : State) (pcl : Nat) (w : WaitEntry) : (s.logWait pcl w).cx = s.cx := by
  unfold State.logWait
  dsimp only
  split <;> rfl

theorem State.waited_cx (s : State) : ∃ ws, s.waited.cx = { s.cx with waits := ws } := by
  unfold State.waited State.waitEnd
  split
  · exact ⟨_, rfl⟩
  · refine ⟨tdel s.cx.waits 4, ?_⟩
    show (State.logWait _ _ _).cx = _
    rw [State.logWait_cx, State.onCtx_at_focus]
    rfl

theorem Context.popTok_nil {x : Context} {n : Nat} (h : (tget x.toks n {}).toks = []) : x.popTok n = none := by
  simp only [Context.popTok, h]

theorem Context.popTok_cons {x : Context} {n : Nat} {m : Option Mark} {r : List (Option Mark)} (h : (tget x.toks n {}).toks = m :: r) :
    x.popTok n = some (m, { x with toks := tset x.toks n { tget x.toks n {} with toks := r, pops := (tget x.toks n {}).pops + 1 } {} }) := by
  simp only [Context.popTok, h]

/-- The token queue after a push, and after the oldest token is taken. -/
def TokQ.pushed (t : TokQ) (m : Option Mark) : TokQ := { t with toks := t.toks ++ [m], pushes := t.pushes + 1 }

theorem Context.pushTok_room {x : Context} {n : Nat} {m : Option Mark} (h : (tget x.toks n {}).toks.length < 8) :
    x.pushTok n m = ({ x with toks := tset x.toks n ((tget x.toks n {}).pushed m) {} }, true) := if_neg (Nat.not_le.mpr h)

/-- A queue's head leaves it whatever the tokens are. -/
theorem Context.popItem_toks (x : Context) (g : Eng) (t : Tbl TokQ) : { x with toks := t }.popItem g = { x.popItem g with toks := t } := by
  cases g <;> rfl

/-- TOKPOST with no word ahead of it pushes its token. -/
theorem exec_tokpost_acts {s : State} {snd rcv : Eng} (h : Issues s (.tokpost snd rcv)) (hne : snd ≠ rcv) (he : (s.cx.queue snd).items = [])
    (hp : s.cx.parked = false) (hroom : (tget s.cx.toks (tq snd rcv) {}).toks.length < 8) :
    exec (.tokpost snd rcv) s = .next { s with cx := { s.cx with
      pc := s.cx.pc + 4, toks := tset s.cx.toks (tq snd rcv) ((tget s.cx.toks (tq snd rcv) {}).pushed none) {} } } := by
  have htoks : (s.pointed snd (.tokpost snd rcv) 0 0).cx.toks = s.cx.toks := by
    cases snd <;> rfl
  have hpush : (s.pointed snd (.tokpost snd rcv) 0 0).cx.pushTok (tq snd rcv) none = _ := Context.pushTok_room (by rwa [htoks])
  rw [exec_tokpost, execTokpost, issue_of_issues h, if_neg hne, placePoint_acts (h.grants (h.intrap_false rfl)) hp he rfl]
  simp only [State.reachPoint, State.ctxAt_pointed, pointed_items he, mkItem, State.tokPoint, hpush, if_true, htoks]
  rw [← State.pointed_focus s snd (.tokpost snd rcv) 0 0, State.setCtx_at_focus, Context.popItem_toks]
  have hx : (s.pointed snd (.tokpost snd rcv) 0 0).cx.popItem snd = { s.cx with pc := s.cx.pc + 4 } := Context.popItem_pointed he
  rw [hx]
  rfl

/-- Settles O12: a fence acts where nothing is ahead of it, and a token is pushed and taken at once. -/
theorem fenceAndTokenWords : Obligations.FenceAndTokenWords := by
  refine ⟨fun s kinds sc => ⟨fun ht hl hi => exec_fence_held hi ht hl, fun ha hn => completes_fence_narrow hn ha, fun ha hw hi => ?wide⟩,
    fun s snd rcv hne => ⟨fun he hp hroom hi => exec_tokpost_acts hi hne he hp hroom, fun r hr hw hi => ?taken, fun r hr hi => ?takes,
      fun m r hr hw hi => ?mark, fun hr hi => ?empty⟩⟩
  case wide =>
    refine fence_wide_acts ?_ hi ha
    rcases hw with rfl | rfl | rfl <;> rfl
  case taken =>
    rw [exec_toktake_of_issues hi hne, Context.popTok_cons hr]
    exact congrArg (fun t : State => Host.Outcome.next (t.onCx Context.retire)) (State.waited_of_unwaiting hw)
  case takes =>
    rw [exec_toktake_of_issues hi hne, Context.popTok_cons hr]
    obtain ⟨ws, hx⟩ := State.waited_cx (s.onCx fun _ => { s.cx with
      toks := tset s.cx.toks (tq snd rcv) { tget s.cx.toks (tq snd rcv) {} with toks := r, pops := (tget s.cx.toks (tq snd rcv) {}).pops + 1 } {} })
    refine ⟨_, rfl, ?_⟩
    simp only [State.onCx_cx, hx]
    exact ⟨rfl, rfl, rfl⟩
  case mark =>
    rw [exec_toktake_of_issues hi hne, Context.popTok_cons hr]
    exact congrArg (fun t : State => Host.Outcome.next (t.fault m.cause m.tval)) (State.waited_of_unwaiting hw)
  case empty =>
    rw [exec_toktake_of_issues hi hne, Context.popTok_nil hr]
    rfl

end Sys2Proof.Machine
end
section
namespace Sys2Proof.Machine

/-! ### Fields of a word -/

/-- The mask of `n` bits from bit `lo` up. -/
def fieldMask (lo n : Nat) : Word := BitVec.ofNat 64 ((2 ^ n - 1) <<< lo)

theorem getLsbD_fieldMask (lo n i : Nat) : (fieldMask lo n).getLsbD i = (decide (i < 64) && decide (lo ≤ i) && decide (i < lo + n)) := by
  rw [fieldMask, BitVec.getLsbD_ofNat, Nat.testBit_shiftLeft, Nat.testBit_two_pow_sub_one, Bool.and_assoc]
  congr 1
  by_cases h : lo ≤ i
  · simp only [ge_iff_le, h, decide_true, Bool.true_and, decide_eq_decide]
    omega
  · simp [h]

theorem putBits_eq (w : Word) (lo n v : Nat) :
    putBits w lo n v = (w &&& ~~~ fieldMask lo n) ||| BitVec.ofNat 64 ((v % 2 ^ n) <<< lo) := rfl

/-- A field, back in its place, is the word under the field's mask. -/
theorem ofNat_bitsOf_shiftLeft (w : Word) (lo n : Nat) : BitVec.ofNat 64 (bitsOf w lo n <<< lo) = w &&& fieldMask lo n := by
  apply BitVec.eq_of_getLsbD_eq
  intro i hi
  rw [BitVec.getLsbD_and, getLsbD_fieldMask, BitVec.getLsbD_ofNat, Nat.testBit_shiftLeft, bitsOf, Nat.testBit_mod_two_pow, BitVec.toNat_ushiftRight, Nat.testBit_shiftRight,
    decide_eq_true hi, Bool.true_and, Bool.true_and]
  by_cases h : lo ≤ i
  · simp only [ge_iff_le, h, decide_true, Bool.true_and, Nat.add_sub_cancel' h, BitVec.getLsbD]
    by_cases hn : i < lo + n
    · simp [hn, show i - lo < n by omega]
    · simp [hn, show ¬ i - lo < n by omega]
  · simp [h]

theorem ofNat_bitsOf_zero (w : Word) (n : Nat) : BitVec.ofNat 64 (bitsOf w 0 n) = w &&& fieldMask 0 n := ofNat_bitsOf_shiftLeft w 0 n

/-- A field that is written with the same field of another word. -/
theorem putBits_bitsOf (w v : Word) (lo n : Nat) :
    putBits w lo n (bitsOf v lo n) = (w &&& ~~~ fieldMask lo n) ||| (v &&& fieldMask lo n) := by
  rw [putBits_eq, Nat.mod_eq_of_lt (by rw [bitsOf_eq]; exact Nat.mod_lt _ (Nat.two_pow_pos n)), ofNat_bitsOf_shiftLeft]

theorem putBits_zero (w : Word) (lo n : Nat) : putBits w lo n 0 = w &&& ~~~ fieldMask lo n := by
  rw [putBits_eq, Nat.zero_mod, Nat.zero_shiftLeft]
  exact BitVec.or_zero

/-- Two fields that do not overlap, written one after the other. -/
theorem masked_or_masked (w v : Word) {m k : Word} (h : m &&& k = 0) :
    (((w &&& ~~~m) ||| (v &&& m)) &&& ~~~k) ||| (v &&& k) = (w &&& ~~~(m ||| k)) ||| (v &&& (m ||| k)) := by
  apply BitVec.eq_of_getLsbD_eq
  intro i hi
  have hb : (m.getLsbD i && k.getLsbD i) = false := by rw [← BitVec.getLsbD_and, h]; simp
  simp only [BitVec.getLsbD_or, BitVec.getLsbD_and, BitVec.getLsbD_not, hi, decide_true, Bool.true_and]
  cases hm : m.getLsbD i <;> cases hk : k.getLsbD i <;> simp_all

theorem ofNat_bitsOf_setWidth (w : Word) (n : Nat) : BitVec.ofNat n (bitsOf w 0 n) = w.setWidth n := by
  rw [bitsOf_zero]
  apply BitVec.eq_of_toNat_eq
  simp

end Sys2Proof.Machine
end
section
namespace Sys2Proof.Machine

/-! ### Special registers that are read (R113) -/

theorem exec_mfs (n : BitVec 12) (rd : Reg) (s : State) : exec (.mfs n rd) s = execMfs n rd s := rfl

theorem exec_mfs_of_issues {s : State} {n : BitVec 12} {rd : Reg} (h : Issues s (.mfs n rd)) :
    exec (.mfs n rd) s =
      if assignedReg n.toNat = false then .next (s.fault 0x02 (n.setWidth 64))
      else if 0x100 ≤ n.toNat ∧ s.cx.sup = false then .next (s.fault 0x03 (n.setWidth 64))
      else .next ((afterRead s n.toNat).onCx fun x => (x.setRg rd (readReg s n.toNat)).retire) := by
  rw [exec_mfs, execMfs, issue_of_issues h]
  simp only [Bool.not_eq_eq_eq_not, Bool.not_true, Bool.and_eq_true, decide_eq_true_eq]

theorem exec_mfs_reads {s : State} {n : BitVec 12} {rd : Reg} (h : Issues s (.mfs n rd)) (ha : assignedReg n.toNat = true)
    (hp : n.toNat < 0x100 ∨ s.cx.sup = true) :
    exec (.mfs n rd) s = .next ((afterRead s n.toNat).wrote rd (readReg s n.toNat)) := by
  have hsup : ¬ (0x100 ≤ n.toNat ∧ s.cx.sup = false) := by
    rintro ⟨hn, hs⟩
    rcases hp with hp | hp
    · omega
    · exact absurd hp (by simp [hs])
  rw [exec_mfs_of_issues h, if_neg (by simp [ha]), if_neg hsup, State.onCx_setRg_retire]

theorem afterRead_plain {s : State} {n : Nat} (h18 : n ≠ 0x018) (h1A : n ≠ 0x01A) (h70 : n ≠ 0x070) : afterRead s n = s := by
  rw [afterRead, if_neg h18, if_neg h1A, if_neg h70]

/-- A register that a read leaves as it is. -/
theorem completes_mfs {s : State} {n : BitVec 12} {rd : Reg} {v : Word} (hv : readReg s n.toNat = v) (ha : assignedReg n.toNat = true)
    (hp : n.toNat < 0x100 ∨ s.cx.sup = true) (h18 : n ≠ 0x018) (h1A : n ≠ 0x01A) (h70 : n ≠ 0x070) :
    Completes (.mfs n rd) s (s.wrote rd v) := by
  intro h
  rw [exec_mfs_reads h ha hp, hv, afterRead_plain]
  · exact fun e => h18 (BitVec.eq_of_toNat_eq e)
  · exact fun e => h1A (BitVec.eq_of_toNat_eq e)
  · exact fun e => h70 (BitVec.eq_of_toNat_eq e)

/-- A read of a register moves pc past the word and writes rd alone, beside the counter that it reads. -/
theorem afterRead_wrote (s : State) (n : Nat) (rd : Reg) (v : Word) :
    ((afterRead s n).wrote rd v).cx.pc = s.cx.pc + 4 ∧ ((afterRead s n).wrote rd v).cx.regs = (s.cx.setRg rd v).regs ∧
      ((afterRead s n).wrote rd v).mem = s.mem := by
  unfold afterRead
  split
  · unfold State.wrote Context.setRg
    split <;> exact ⟨rfl, rfl, rfl⟩
  · split
    · unfold State.wrote Context.setRg
      split <;> exact ⟨rfl, rfl, rfl⟩
    · split <;> exact ⟨rfl, rfl, rfl⟩

/-- Settles O13: the checks in their order, and the value of each register by its number. -/
theorem specialRegisterReads : Obligations.SpecialRegisterReads := by
  intro s n rd x cl plain
  refine ⟨fun ha h => ?number, fun ha hn hs h => ?privilege, ?plain, fun ha hp h18 h1A h70 => completes_mfs rfl ha hp h18 h1A h70,
    fun h => ?cycles, fun h => ?waitcyc, fun h => ?leave, fun ha hp h => ?frame⟩
  case number => rw [exec_mfs_of_issues h, if_pos ha]; rfl
  case privilege => rw [exec_mfs_of_issues h, if_neg (by simp [ha]), if_pos ⟨hn, hs⟩]; rfl
  case plain =>
    simp only [plain, List.forall_mem_cons, List.not_mem_nil, false_imp_iff, implies_true, and_true]
    repeat' apply And.intro
    all_goals exact fun hp => completes_mfs rfl rfl hp (by decide) (by decide) (by decide)
  case cycles =>
    refine ⟨x.cycles + Config.freeCycles s.free, ?_⟩
    rw [exec_mfs_reads h rfl (.inl (by decide))]
    rfl
  case waitcyc =>
    refine ⟨x.waitcyc + Config.freeCycles s.free, ?_⟩
    rw [exec_mfs_reads h rfl (.inl (by decide))]
    rfl
  case leave =>
    refine ⟨readReg s 0x070, ?_⟩
    rw [exec_mfs_reads h rfl (.inl (by decide))]
    rfl
  case frame => exact ⟨_, _, exec_mfs_reads h ha hp, afterRead_wrote s n.toNat rd _⟩

end Sys2Proof.Machine
end
section
namespace Sys2Proof.Machine

/-! ### Special registers that are written (R113) -/

theorem exec_mts (n : BitVec 12) (rs1 : Reg) (s : State) : exec (.mts n rs1) s = execMts n rs1 s := rfl
theorem exec_mtsFpflags (rs1 : Reg) (s : State) : exec (.mtsFpflags rs1) s = execMtsFpflags rs1 s := rfl
theorem exec_mtsSlotmask (rs1 : Reg) (s : State) : exec (.mtsSlotmask rs1) s = execMtsSlotmask rs1 s := rfl
theorem exec_mtsPreq (rs1 : Reg) (s : State) : exec (.mtsPreq rs1) s = execMtsPreq rs1 s := rfl
theorem exec_mtsLeavegrant (rs1 : Reg) (s : State) : exec (.mtsLeavegrant rs1) s = execMtsLeavegrant rs1 s := rfl
theorem exec_mtsMosslim (k : BitVec 3) (rs1 : Reg) (s : State) : exec (.mtsMosslim k rs1) s = execMtsMosslim k rs1 s := rfl
theorem exec_mtsLeaveclus (rs1 : Reg) (s : State) : exec (.mtsLeaveclus rs1) s = execMtsLeaveclus rs1 s := rfl
theorem exec_mtsLeaveslot (rs1 : Reg) (s : State) : exec (.mtsLeaveslot rs1) s = execMtsLeaveslot rs1 s := rfl
theorem exec_mtsBiasctl (rs1 : Reg) (s : State) : exec (.mtsBiasctl rs1) s = execMtsBiasctl rs1 s := rfl
theorem exec_mtsMon (k : BitVec 4) (rs1 : Reg) (s : State) : exec (.mtsMon k rs1) s = execMtsMon k rs1 s := rfl
theorem exec_mtsMonsnap (rs1 : Reg) (s : State) : exec (.mtsMonsnap rs1) s = execMtsMonsnap rs1 s := rfl
theorem exec_mtsPwrevt (rs1 : Reg) (s : State) : exec (.mtsPwrevt rs1) s = execMtsPwrevt rs1 s := rfl

theorem mtsForm_number {i : Instr} {n : Nat} {rs1 : Reg} {k : State → Word → Except (BitVec 8 × Word) State} {s : State} (h : Issues s i)
    (ha : assignedReg n = false) : mtsForm i n rs1 k s = .next (s.fault 0x02 (BitVec.ofNat 64 n)) := by
  rw [mtsForm, issue_of_issues h, ha]
  rfl

theorem mtsForm_privilege {i : Instr} {n : Nat} {rs1 : Reg} {k : State → Word → Except (BitVec 8 × Word) State} {s : State} (h : Issues s i)
    (ha : assignedReg n = true) (hw : mayWrite s n = false) : mtsForm i n rs1 k s = .next (s.fault 0x03 (BitVec.ofNat 64 n)) := by
  rw [mtsForm, issue_of_issues h, ha, hw]
  rfl

theorem mtsForm_ok {i : Instr} {n : Nat} {rs1 : Reg} {k : State → Word → Except (BitVec 8 × Word) State} {s t : State} (h : Issues s i)
    (ha : assignedReg n = true) (hw : mayWrite s n = true) (hk : k s (s.cx.rg rs1) = .ok t) :
    mtsForm i n rs1 k s = .next (t.onCx Context.retire) := by
  rw [mtsForm, issue_of_issues h, ha, hw, hk]
  rfl

theorem mtsForm_error {i : Instr} {n : Nat} {rs1 : Reg} {k : State → Word → Except (BitVec 8 × Word) State} {s : State} {e : BitVec 8 × Word}
    (h : Issues s i) (ha : assignedReg n = true) (hw : mayWrite s n = true) (hk : k s (s.cx.rg rs1) = .error e) :
    mtsForm i n rs1 k s = .next (s.fault e.1 e.2) := by
  rw [mtsForm, issue_of_issues h, ha, hw, hk]
  rfl

theorem ofNat_toNat_setWidth (n : BitVec 12) : BitVec.ofNat 64 n.toNat = n.setWidth 64 := by
  apply BitVec.eq_of_toNat_eq
  simp

/-- An MTS whose value is accepted. -/
theorem completes_mts {s t : State} {n : BitVec 12} {rs1 : Reg} (ha : assignedReg n.toNat = true) (hw : Machine.mayWrite s n.toNat = true)
    (hk : writeReg s n.toNat (s.cx.rg rs1) = .ok t) : Completes (.mts n rs1) s (t.onCx Context.retire) :=
  fun h => (exec_mts ..).trans (mtsForm_ok h ha hw hk)

theorem faults_mts_privilege {s : State} {n : BitVec 12} {rs1 : Reg} (ha : assignedReg n.toNat = true) (hw : Machine.mayWrite s n.toNat = false) :
    Faults (.mts n rs1) s 0x03 (n.setWidth 64) :=
  fun h => (exec_mts ..).trans ((mtsForm_privilege h ha hw).trans (by rw [ofNat_toNat_setWidth]; rfl))

/-- What an accepted value of an MTS leaves: pc, the registers and memory. -/
def KeepsFrame (s : State) (r : Except (BitVec 8 × Word) State) : Prop :=
  ∀ t, r = .ok t → t.cx.pc = s.cx.pc ∧ t.cx.regs = s.cx.regs ∧ t.mem = s.mem

theorem keepsFrame_ite {s : State} {c : Prop} [Decidable c] {a b : Except (BitVec 8 × Word) State} (ha : KeepsFrame s a) (hb : KeepsFrame s b) :
    KeepsFrame s (if c then a else b) := by
  split
  · exact ha
  · exact hb

theorem keepsFrame_ok {s t : State} (hpc : t.cx.pc = s.cx.pc) (hregs : t.cx.regs = s.cx.regs) (hmem : t.mem = s.mem) :
    KeepsFrame s (.ok t) := fun _ e => Except.ok.inj e ▸ ⟨hpc, hregs, hmem⟩

theorem keepsFrame_error {s : State} {e : BitVec 8 × Word} : KeepsFrame s (.error e) := fun _ h => nomatch h

theorem writeReg_keepsFrame (s : State) (n : Nat) (v : Word) : KeepsFrame s (writeReg s n v) := by
  unfold writeReg
  iterate 16 refine keepsFrame_ite (keepsFrame_ok rfl rfl rfl) ?_
  refine keepsFrame_ite (keepsFrame_ite keepsFrame_error (keepsFrame_ok rfl rfl rfl)) ?_
  iterate 3 refine keepsFrame_ite (keepsFrame_ok rfl rfl rfl) ?_
  exact keepsFrame_ok rfl rfl rfl

theorem exists_ok_ite {s : State} {c : Prop} [Decidable c] {b : Except (BitVec 8 × Word) State}
    (hb : ∃ t, b = .ok t) : ∃ t, (if c then .ok s else b : Except (BitVec 8 × Word) State) = .ok t := by
  split
  · exact ⟨_, rfl⟩
  · exact hb

/-- The one value that a register without a row of its own refuses (R357). -/
theorem writeReg_ok {s : State} {n : Nat} {v : Word} (h : ¬(0x0A1 ≤ n ∧ n ≤ 0x0A4 ∧ bitsOf v 60 2 = 3)) : ∃ t, writeReg s n v = .ok t := by
  unfold writeReg
  iterate 16 refine exists_ok_ite ?_
  split
  · rename_i hn
    simp only [Bool.and_eq_true, decide_eq_true_eq] at hn
    rw [if_neg (fun hv => h ⟨hn.1, hn.2, hv⟩)]
    exact ⟨_, rfl⟩
  · iterate 3 refine exists_ok_ite ?_
    exact ⟨_, rfl⟩

/-- An MTS whose value changes the context alone. -/
theorem completes_mts_cx {s t : State} {n : BitVec 12} {rs1 : Reg} {f : Context → Context} (ha : assignedReg n.toNat = true)
    (hw : Machine.mayWrite s n.toNat = true) (hk : writeReg s n.toNat (s.cx.rg rs1) = .ok (s.onCx f)) (ht : s.onCx (fun x => (f x).retire) = t) :
    Completes (.mts n rs1) s t := ht ▸ completes_mts ha hw hk

theorem ofNat_shiftLeft (a k : Nat) : BitVec.ofNat 64 (a <<< k) = BitVec.ofNat 64 a <<< k := by
  apply BitVec.eq_of_toNat_eq
  simp [Nat.shiftLeft_eq, Nat.mul_mod]

/-- The fields of `stat` that an MTS writes (R10). -/
theorem stat_written (w v : Word) :
    putBits (putBits w 0 4 (bitsOf v 0 4)) 8 3 (bitsOf v 8 3) = (w &&& ~~~(0x70F : Word)) ||| (v &&& 0x70F) := by
  rw [putBits_bitsOf, putBits_bitsOf, masked_or_masked _ _ (by decide)]
  rfl

theorem base_written (w v : Word) : putBits w 8 3 (bitsOf v 0 3) = (w &&& ~~~(0x700 : Word)) ||| ((v &&& 7) <<< 8) := by
  rw [putBits_eq, Nat.mod_eq_of_lt (by rw [bitsOf_zero]; exact Nat.mod_lt _ (by decide)), ofNat_shiftLeft, ofNat_bitsOf_zero]
  rfl

theorem savearea_written (v : Word) : putBits (putBits v 0 8 0) 48 16 0 = v &&& 0xFFFFFFFFFF00 := by
  rw [putBits_zero, putBits_zero, BitVec.and_assoc]
  rfl

/-- Settles O14: the number, the privilege, and the fields of each register under their masks. -/
theorem specialRegisterWrites : Obligations.SpecialRegisterWrites := by
  intro s n rs1 x v user sup
  refine ⟨fun ha h => ?number, ?user, ?sup, ?supRefused, fun hs he => ?evspin, fun hs he => ?evspinRefused, fun ha hw hd h => ?frame, ?never⟩
  case number => rw [exec_mts, execMts, mtsForm_number h ha, ofNat_toNat_setWidth]; rfl
  case user =>
    simp only [user, List.forall_mem_cons, List.not_mem_nil, false_imp_iff, implies_true, and_true]
    refine ⟨?vshape, ?fpctl, ?tview, ?aview⟩
    case vshape => exact completes_mts_cx rfl rfl rfl (congrArg (fun w => ({ s with cx := { x with vshape := w, pc := x.pc + 4 } } : State)) (ofNat_bitsOf_zero v 12))
    case fpctl => exact completes_mts_cx rfl rfl rfl (congrArg (fun w => ({ s with cx := { x with fpctl := w, pc := x.pc + 4 } } : State)) (ofNat_bitsOf_zero v 2))
    case tview =>
      exact completes_mts_cx rfl rfl rfl (congrArg (fun w => ({ s with cx := { x with tviews := tset x.tviews 0 w 0, pc := x.pc + 4 } } : State)) (ofNat_bitsOf_zero v 34))
    case aview =>
      exact completes_mts_cx rfl rfl rfl (congrArg (fun w => ({ s with cx := { x with aviews := tset x.aviews 7 w 0, pc := x.pc + 4 } } : State)) (ofNat_bitsOf_zero v 9))
  case sup =>
    simp only [sup, List.forall_mem_cons, List.not_mem_nil, false_imp_iff, implies_true, and_true]
    refine ⟨?stat, ?estat, ?epc, ?ecause, ?etval, ?tvec, ?escratch, ?base, ?pdeadline, ?yieldtab, ?savearea, ?dbgctl⟩ <;> intro hs
    case estat | etval | escratch => exact completes_mts_cx rfl hs rfl rfl
    case stat => exact completes_mts_cx rfl hs rfl (congrArg (fun w => ({ s with cx := { x with stat := w, pc := x.pc + 4 } } : State)) (stat_written x.stat v))
    case epc => exact completes_mts_cx rfl hs rfl (congrArg (fun w => ({ s with cx := { x with epc := w, pc := x.pc + 4 } } : State)) (putBits_zero v 0 2))
    case ecause => exact completes_mts_cx rfl hs rfl (congrArg (fun w => ({ s with cx := { x with ecause := w, pc := x.pc + 4 } } : State)) (ofNat_bitsOf_zero v 8))
    case tvec => exact completes_mts_cx rfl hs rfl (congrArg (fun w => ({ s with cx := { x with tvec := w, pc := x.pc + 4 } } : State)) (putBits_zero v 0 2))
    case base => exact completes_mts_cx rfl hs rfl (congrArg (fun w => ({ s with cx := { x with stat := w, pc := x.pc + 4 } } : State)) (base_written x.stat v))
    case pdeadline => exact completes_mts_cx rfl hs rfl (congrArg (fun w => ({ s with cx := { x with pdeadline := w, pc := x.pc + 4 } } : State)) (ofNat_bitsOf_setWidth v 32))
    case yieldtab => exact completes_mts_cx rfl hs rfl (congrArg (fun w => ({ s with cx := { x with yieldtab := w, pc := x.pc + 4 } } : State)) (putBits_zero v 0 6))
    case savearea => exact completes_mts_cx rfl hs rfl (congrArg (fun w => ({ s with cx := { x with savearea := w, pc := x.pc + 4 } } : State)) (savearea_written v))
    case dbgctl => exact completes_mts_cx rfl hs rfl (congrArg (fun w => ({ s with cx := { x with dbgctl := w, pc := x.pc + 4 } } : State)) (ofNat_bitsOf_setWidth v 3))
  case supRefused =>
    simp only [sup, List.forall_mem_cons, List.not_mem_nil, false_imp_iff, implies_true, and_true]
    repeat' apply And.intro
    all_goals exact fun hs => faults_mts_privilege rfl hs
  case evspin =>
    refine completes_mts_cx rfl ?_ rfl (congrArg (fun w => ({ s with cx := { x with evspin := w, pc := x.pc + 4 } } : State)) (ofNat_bitsOf_setWidth v 32))
    show (s.cx.sup && _) = true
    rw [he, Bool.and_true]
    exact hs
  case evspinRefused =>
    refine faults_mts_privilege rfl ?_
    show (s.cx.sup && _) = false
    rw [he, Bool.and_false]
  case frame =>
    obtain ⟨t, ht⟩ := writeReg_ok (s := s) hd
    obtain ⟨hpc, hregs, hmem⟩ := writeReg_keepsFrame s n.toNat v t ht
    exact ⟨_, (exec_mts ..).trans (mtsForm_ok h ha hw ht), congrArg (· + 4) hpc, hregs, hmem⟩
  case never =>
    simp only [List.forall_mem_cons, List.not_mem_nil, false_imp_iff, implies_true, and_true]
    repeat' apply And.intro
    all_goals exact faults_mts_privilege rfl rfl
end Sys2Proof.Machine
end
section
namespace Sys2Proof.Machine

/-! ### Registers with a row of their own -/

section
variable {i : Instr} {n : Nat} {rs1 : Reg} {k : State → Word → Except (BitVec 8 × Word) State} {s : State}

/-- An MTS whose register takes the value. -/
theorem completes_mtsForm {t u : State} (hexec : exec i s = mtsForm i n rs1 k s) (ha : assignedReg n = true) (hw : Machine.mayWrite s n = true)
    (hk : k s (s.cx.rg rs1) = .ok t) (hu : t.onCx Context.retire = u) : Completes i s u :=
  fun h => hexec.trans ((mtsForm_ok h ha hw hk).trans (congrArg _ hu))

/-- An MTS whose register refuses the value. -/
theorem faults_mtsForm {e : BitVec 8} {v : Word} (hexec : exec i s = mtsForm i n rs1 k s) (ha : assignedReg n = true)
    (hw : Machine.mayWrite s n = true) (hk : k s (s.cx.rg rs1) = .error (e, v)) : Faults i s e v :=
  fun h => hexec.trans (mtsForm_error (e := (e, v)) h ha hw hk)

/-- An MTS without the register's privilege. -/
theorem faults_mtsForm_privilege (hexec : exec i s = mtsForm i n rs1 k s) (ha : assignedReg n = true) (hw : Machine.mayWrite s n = false) :
    Faults i s 0x03 (BitVec.ofNat 64 n) :=
  fun h => hexec.trans (mtsForm_privilege h ha hw)

end

theorem mayWrite_sup {s : State} {n : Nat} (h : needOf n = .sup) : Machine.mayWrite s n = s.cx.sup := by rw [Machine.mayWrite, h]

theorem mayWrite_expert {s : State} {n : Nat} (h : needOf n = .expert) : Machine.mayWrite s n = (s.cx.sup && (s.partAt s.cx.part).expert) := by
  rw [Machine.mayWrite, h]

theorem needOf_mon (k : BitVec 4) : needOf (0x160 + k.toNat) = .sup := by
  revert k
  decide

theorem assignedReg_mon (k : BitVec 4) : assignedReg (0x160 + k.toNat) = true := by
  revert k
  decide

theorem needOf_mosslim (b : BitVec 3) : needOf (0x120 + b.toNat) = .expert := by
  revert b
  decide

theorem assignedReg_mosslim (b : BitVec 3) : assignedReg (0x120 + b.toNat) = true := by
  revert b
  decide

/-- Settles O15: the privilege of each register, and what it takes and refuses. -/
theorem ownRowRegisterWrites : Obligations.OwnRowRegisterWrites := by
  intro s rs1 k b x v c cl field m p u expert withClu
  have hm : BitVec.ofNat 8 (bitsOf v 0 8) = m := ofNat_bitsOf_setWidth v 8
  have hf : ∀ lo n, bitsOf (s.cx.rg rs1) lo n = field lo n := bitsOf_eq v
  have hg : ∀ lo n, bitsOf (guardWord b.toNat) lo n = (guardWord b.toNat).toNat / 2 ^ lo % 2 ^ n := bitsOf_eq _
  have hexpert : ∀ {n}, needOf n = .expert → expert → Machine.mayWrite s n = true := by
    intro n hn he
    rw [mayWrite_expert hn, he.1, he.2, Bool.and_self]
  have hnot : ∀ {n}, needOf n = .expert → ¬ expert → Machine.mayWrite s n = false := by
    intro n hn he
    rw [mayWrite_expert hn, ← Bool.not_eq_true, Bool.and_eq_true]
    exact he
  have hsup : ∀ {n}, needOf n = .sup → x.sup = true → Machine.mayWrite s n = true := fun hn hs => (mayWrite_sup hn).trans hs
  refine ⟨?fpflags, fun hs hv => ?slotUser, fun hs hv => ?slotUserBad, fun hs hv => ?slotSup, fun hs hv => ?slotSupBad, fun hs => ?preq,
    fun hs hv => ?mon, fun hs hv => ?monBad, fun hs hv => ?monsnap, fun hs hv => ?monsnapBad, fun hs hv => ?pwrevtNone, fun hs hv he => ?pwrevt,
    fun he hv hsum => ?leavegrant, fun he hv => ?leavegrantBad, fun he hv => ?leaveslot, fun he hv => ?leaveslotBad, fun he hv => ?leaveclus,
    fun he hv => ?leaveclusBad, fun he => ?biasctl, fun he hv => ?mosslim, fun he hv => ?mosslimBad, fun he => ⟨?_, ?_, ?_, ?_, ?_⟩,
    fun hs => ⟨?_, ?_, ?_, ?_⟩⟩
  case fpflags => exact completes_mtsForm (exec_mtsFpflags ..) rfl rfl rfl rfl
  case slotUser =>
    refine completes_mtsForm (exec_mtsSlotmask ..) rfl rfl ((if_neg (ne_true_of_eq_false hs)).trans (if_neg ?_)) (by rw [hm]; rfl)
    rw [hm]
    simpa using hv
  case slotUserBad =>
    refine faults_mtsForm (exec_mtsSlotmask ..) rfl rfl ((if_neg (ne_true_of_eq_false hs)).trans (if_pos ?_))
    rw [hm]
    simpa [Decidable.or_iff_not_imp_left] using hv
  case slotSup =>
    refine completes_mtsForm (exec_mtsSlotmask ..) rfl rfl ((if_pos hs).trans (if_neg ?_)) (by rw [hm]; rfl)
    rw [hm]
    simpa using hv
  case slotSupBad =>
    refine faults_mtsForm (exec_mtsSlotmask ..) rfl rfl ((if_pos hs).trans (if_pos ?_))
    rw [hm]
    simpa [Decidable.or_iff_not_imp_left] using hv
  case preq => exact completes_mtsForm (exec_mtsPreq ..) rfl (hsup rfl hs) rfl rfl
  case mon =>
    exact completes_mtsForm (exec_mtsMon ..) (assignedReg_mon k) (hsup (needOf_mon k) hs) (if_neg (by rw [hf]; omega)) rfl
  case monBad =>
    exact faults_mtsForm (exec_mtsMon ..) (assignedReg_mon k) (hsup (needOf_mon k) hs) (if_pos (by rw [hf]; omega))
  case monsnap =>
    exact completes_mtsForm (exec_mtsMonsnap ..) rfl (hsup rfl hs) (if_neg (ne_true_of_eq_false hv)) rfl
  case monsnapBad => exact faults_mtsForm (exec_mtsMonsnap ..) rfl (hsup rfl hs) (if_pos hv)
  case pwrevtNone => exact completes_mtsForm (exec_mtsPwrevt ..) rfl (hsup rfl hs) (if_pos ((hf 0 16).trans hv)) rfl
  case pwrevt =>
    have hn : (eventOf c.pcl (field 0 16)).2 = field 0 10 := by
      show field 0 16 % 1024 = field 0 10
      simp only [field]
      omega
    have hbad : eventBad s s.cx.part s.focus.pcl (bitsOf (s.cx.rg rs1) 0 16) = none := by rw [hf]; exact he
    refine completes_mtsForm (t := s.onPart x.part fun p => { p with
      pwrevt := BitVec.ofNat 16 (((eventOf c.pcl (field 0 16)).1 + 1) * 1024 + (eventOf c.pcl (field 0 16)).2) })
      (exec_mtsPwrevt ..) rfl (hsup rfl hs) ((if_neg (by rw [hf]; exact hv)).trans ?_) (by rw [hn]; rfl)
    simp only [hbad, ← hf]
    rfl
  case leavegrant =>
    refine completes_mtsForm (exec_mtsLeavegrant ..) rfl (hexpert rfl he) (if_neg ?_) (by rw [hf]; rfl)
    simp only [hf, Bool.or_eq_true, decide_eq_true_eq]
    exact not_or.mpr ⟨Nat.not_lt.mpr hv, Nat.not_lt.mpr hsum⟩
  case leavegrantBad =>
    refine faults_mtsForm (exec_mtsLeavegrant ..) rfl (hexpert rfl he) (if_pos ?_)
    simpa only [hf, Bool.or_eq_true, decide_eq_true_eq] using hv
  case leaveslot =>
    refine completes_mtsForm (exec_mtsLeaveslot ..) rfl (hexpert rfl he) (if_neg ?_)
      (congrArg (fun w => withClu { cl with leaveslot := w }) (ofNat_bitsOf_zero v 56))
    simpa [hf] using hv
  case leaveslotBad =>
    refine faults_mtsForm (exec_mtsLeaveslot ..) rfl (hexpert rfl he) (if_pos ?_)
    simpa [hf] using hv
  case leaveclus =>
    refine completes_mtsForm (exec_mtsLeaveclus ..) rfl (hexpert rfl he) (if_neg ?_) (by rw [hf, hf]; rfl)
    simp only [hf, Bool.or_eq_true, decide_eq_true_eq]
    omega
  case leaveclusBad =>
    refine faults_mtsForm (exec_mtsLeaveclus ..) rfl (hexpert rfl he) (if_pos ?_)
    simp only [hf, Bool.or_eq_true, decide_eq_true_eq]
    omega
  case biasctl => exact completes_mtsForm (exec_mtsBiasctl ..) rfl (hexpert rfl he) rfl (by rw [hf]; rfl)
  case mosslim =>
    refine completes_mtsForm (exec_mtsMosslim ..) (assignedReg_mosslim b) (hexpert (needOf_mosslim b) he) (if_pos ?_)
      (congrArg (fun w => (s.setPart x.part { p with mosslim := tset p.mosslim b.toNat w (guardWord b.toNat) }).passed) (ofNat_bitsOf_zero v 48))
    simpa [hf, hg] using hv
  case mosslimBad =>
    refine faults_mtsForm (exec_mtsMosslim ..) (assignedReg_mosslim b) (hexpert (needOf_mosslim b) he) (if_neg ?_)
    simpa [hf, hg] using hv
  · exact faults_mtsForm_privilege (exec_mtsLeavegrant ..) rfl (hnot rfl he)
  · exact faults_mtsForm_privilege (exec_mtsLeaveslot ..) rfl (hnot rfl he)
  · exact faults_mtsForm_privilege (exec_mtsLeaveclus ..) rfl (hnot rfl he)
  · exact faults_mtsForm_privilege (exec_mtsBiasctl ..) rfl (hnot rfl he)
  · exact faults_mtsForm_privilege (exec_mtsMosslim ..) (assignedReg_mosslim b) (hnot (needOf_mosslim b) he)
  · exact faults_mtsForm_privilege (exec_mtsPreq ..) rfl ((mayWrite_sup rfl).trans hs)
  · exact faults_mtsForm_privilege (exec_mtsMon ..) (assignedReg_mon k) ((mayWrite_sup (needOf_mon k)).trans hs)
  · exact faults_mtsForm_privilege (exec_mtsMonsnap ..) rfl ((mayWrite_sup rfl).trans hs)
  · exact faults_mtsForm_privilege (exec_mtsPwrevt ..) rfl ((mayWrite_sup rfl).trans hs)
end Sys2Proof.Machine
end
section
namespace Sys2Proof.Machine

/-! ### TRAP, BKPT and EXIT (R117, R38) -/

theorem exec_trap (rs1 : Reg) (s : State) : exec (.trap rs1) s = execTrap rs1 s := rfl
theorem exec_bkpt (s : State) : exec .bkpt s = execBkpt s := rfl
theorem exec_exit (s : State) : exec .exit s = execExit s := rfl

/-- What a change of the queues alone leaves of a context. -/
def Context.sameButQueues (x y : Context) : Prop :=
  y = { x with hold := y.hold, qv := y.qv, qm := y.qm, ql := y.ql, qe := y.qe }

theorem Context.unheld_sameButQueues (x : Context) (b : Bool) (g : Eng) (q : Queue) :
    x.sameButQueues ((if b then { x with hold := .none } else x).setQueue g q) := by
  cases b <;> cases g <;> rfl

theorem Context.discardMarked_sameButQueues (x : Context) : x.sameButQueues x.discardMarked := by
  unfold Context.discardMarked
  split
  · rfl
  · exact x.unheld_sameButQueues _ _ _

/-- Without a step in the M queue no energy is declared there. -/
theorem checkHead_of_noStep {s : State} {c : CtxLoc} (h : (s.ctxAt c).noStep) : checkHead c s = s := by
  unfold checkHead
  simp only
  split
  · rfl
  · rename_i k i hk
    have hmem : i ∈ (s.ctxAt c).qm.items := by
      unfold mNext at hk
      split at hk
      · exact absurd hk (by simp)
      · rename_i j _
        obtain ⟨w, hw, he⟩ := Option.map_eq_some_iff.mp hk
        obtain ⟨rfl, rfl⟩ := Prod.mk.inj he
        exact List.mem_of_getElem? hw
    rw [h i hmem]

theorem Context.exiting_handler {x : Context} (h : x.intrap = true) :
    let y := x.exiting
    y.drain = .exit ∧ y.intrap = false ∧ y.parked = false ∧ y.marked = none ∧ y.regs = x.regs := by
  have hx : x.exiting = { Context.discardMarked { x.retire with drain := .exit, counting := false, heldPush := [], heldReply := [], heldWait := [] } with
      parked := false, marked := none, stat := putBits x.stat 1 1 0 } := if_pos h
  have hd := Context.discardMarked_sameButQueues { x.retire with drain := .exit, counting := false, heldPush := [], heldReply := [], heldWait := [] }
  rw [hx]
  rw [Context.sameButQueues] at hd
  rw [hd]
  refine ⟨rfl, ?_, rfl, rfl, rfl⟩
  show (putBits x.stat 1 1 0).getLsbD 1 = false
  rw [putBits_zero, BitVec.getLsbD_and, BitVec.getLsbD_not, getLsbD_fieldMask]
  simp

/-- Settles O16: TRAP and BKPT raise their causes, and EXIT drains the strand. -/
theorem trapBreakpointExitWords : Obligations.TrapBreakpointExitWords := by
  intro s rs1
  refine ⟨fun h => ?_, fun h => ?_, fun ht h => ?_, fun ht => ?_⟩
  · rw [exec_trap, execTrap, issue_of_issues h]
    rfl
  · rw [exec_bkpt, execBkpt, issue_of_issues h]
    rfl
  · have hx : s.cx.exiting = { s.cx with
        pc := s.cx.pc + 4, drain := .exit, counting := false, heldPush := [], heldReply := [], heldWait := [] } :=
      if_neg (ht ▸ Bool.false_ne_true)
    rw [exec_exit, execExit, issue_of_issues h, ht, if_neg Bool.false_ne_true]
    exact congrArg (fun x => Host.Outcome.next ({ s with cx := x } : State)) hx
  · obtain ⟨hdrain, hintrap, hparked, hmarked, hregs⟩ := Context.exiting_handler ht
    refine ⟨s.cx.exiting, fun h => ?_, hdrain, hintrap, hparked, hmarked, hregs, fun hn => checkHead_of_noStep ?_⟩
    · rw [exec_exit, execExit, issue_of_issues h, ht, if_pos rfl]
      rfl
    · show ((({ s with cx := s.cx.exiting } : State)).ctxAt s.focus).noStep
      rwa [State.ctxAt, if_pos rfl]
end Sys2Proof.Machine
end
section
namespace Sys2Proof.Machine

/-! ### Reading after writing in the state's tables -/

theorem risingFrom_head {α : Type} {i : Nat} {w : α} {r : Tbl α} {o : Option Nat} (h : risingFrom o ((i, w) :: r) = true) :
    risingFrom (some i) r = true := by
  cases o <;> simp_all [risingFrom]

/-- Two tables with rising keys and no default listed that read alike are the same table. -/
theorem risingFrom_ext {α : Type} [DecidableEq α] {d : α} {t u : Tbl α} {o : Option Nat} (ht : risingFrom o t = true) (hu : risingFrom o u = true)
    (hta : ∀ e ∈ t, e.2 ≠ d) (hua : ∀ e ∈ u, e.2 ≠ d) (h : ∀ k, tget t k d = tget u k d) : t = u := by
  induction t generalizing u o with
  | nil =>
    cases u with
    | nil => rfl
    | cons e r =>
      have := h e.1
      simp only [tget, if_true] at this
      exact absurd this.symm (hua e List.mem_cons_self)
  | cons e r ih =>
    obtain ⟨i, w⟩ := e
    cases u with
    | nil =>
      have := h i
      simp only [tget, if_true] at this
      exact absurd this (hta (i, w) List.mem_cons_self)
    | cons e' r' =>
      obtain ⟨j, w'⟩ := e'
      have hr := risingFrom_head ht
      have hr' := risingFrom_head hu
      have hij : i = j := by
        rcases Nat.lt_trichotomy i j with hlt | heq | hgt
        · have := h i
          rw [tget, if_pos rfl, tget, if_neg (by omega), tget_of_risingFrom hr' (by omega)] at this
          exact absurd this (hta (i, w) List.mem_cons_self)
        · exact heq
        · have := h j
          rw [tget, if_neg (by omega), tget_of_risingFrom hr (by omega), tget, if_pos rfl] at this
          exact absurd this.symm (hua (j, w') List.mem_cons_self)
      subst hij
      have hw : w = w' := by
        have := h i
        rwa [tget, if_pos rfl, tget, if_pos rfl] at this
      subst hw
      congr 1
      refine ih hr hr' (fun e he => hta e (List.mem_cons_of_mem _ he)) (fun e he => hua e (List.mem_cons_of_mem _ he)) fun k => ?_
      by_cases hk : k = i
      · subst hk
        rw [tget_of_risingFrom hr (Nat.le_refl _), tget_of_risingFrom hr' (Nat.le_refl _)]
      · have := h k
        rwa [tget, if_neg hk, tget, if_neg hk] at this

theorem twf_ext {α : Type} [DecidableEq α] {d : α} {t u : Tbl α} (ht : twf t d = true) (hu : twf u d = true)
    (h : ∀ k, tget t k d = tget u k d) : t = u := by
  simp only [twf, Bool.and_eq_true, List.all_eq_true, bne_iff_ne, ne_eq] at ht hu
  exact risingFrom_ext ht.1 hu.1 ht.2 hu.2 h

/-- Writing what a canonical table reads changes nothing. -/
theorem tset_tget {α : Type} [DecidableEq α] {d : α} {t : Tbl α} (ht : twf t d = true) (k : Nat) : tset t k (tget t k d) d = t := by
  refine twf_ext (twf_tset ht) ht fun j => ?_
  by_cases hj : j = k
  · rw [hj, tget_tset_wf ht]
  · exact tget_tset_other hj

theorem tset_tset {α : Type} [DecidableEq α] {d v w : α} {t : Tbl α} (ht : twf t d = true) (k : Nat) :
    tset (tset t k v d) k w d = tset t k w d := by
  refine twf_ext (twf_tset (twf_tset ht)) (twf_tset ht) fun j => ?_
  by_cases hj : j = k
  · rw [hj, tget_tset_wf (twf_tset ht), tget_tset_wf ht]
  · rw [tget_tset_other hj, tget_tset_other hj, tget_tset_other hj]

section
variable {s : State}

theorem State.Inv.mem (h : s.Inv) : Memory.wf s.mem = true := h.1
theorem State.Inv.others (h : s.Inv) : twf s.others {} = true := h.2.1
theorem State.Inv.subs (h : s.Inv) : twf s.subs {} = true := h.2.2.1
theorem State.Inv.clus (h : s.Inv) : twf s.clus {} = true := h.2.2.2.1
theorem State.Inv.parts (h : s.Inv) : twf s.parts {} = true := h.2.2.2.2

theorem State.cluAt_setClu_same (h : twf s.clus {} = true) (p : Nat) (cl : Cluster) : (s.setClu p cl).cluAt p = cl := tget_tset_wf h
theorem State.cluAt_setClu_other {p q : Nat} (h : q ≠ p) (cl : Cluster) : (s.setClu p cl).cluAt q = s.cluAt q := tget_tset_other h
theorem State.cluAt_onClu_same (h : twf s.clus {} = true) (p : Nat) (f : Cluster → Cluster) : (s.onClu p f).cluAt p = f (s.cluAt p) := tget_tset_wf h
theorem State.cluAt_onClu_other {p q : Nat} (h : q ≠ p) (f : Cluster → Cluster) : (s.onClu p f).cluAt q = s.cluAt q := tget_tset_other h

theorem State.setClu_cluAt (h : twf s.clus {} = true) (p : Nat) : s.setClu p (s.cluAt p) = s :=
  congrArg (fun t => ({ s with clus := t } : State)) (tset_tget h p)
theorem State.setClu_setClu (h : twf s.clus {} = true) (p : Nat) (a b : Cluster) : (s.setClu p a).setClu p b = s.setClu p b :=
  congrArg (fun t => ({ s with clus := t } : State)) (tset_tset h p)

theorem State.subAt_setSub_same (h : twf s.subs {} = true) (p k : Nat) (u : SubCore) : (s.setSub p k u).subAt p k = u := tget_tset_wf h
theorem State.setSub_setSub (h : twf s.subs {} = true) (p k : Nat) (a b : SubCore) : (s.setSub p k a).setSub p k b = s.setSub p k b :=
  congrArg (fun t => ({ s with subs := t } : State)) (tset_tset h _)

theorem State.partAt_setPart_same (h : twf s.parts {} = true) (p : Nat) (x : Partition) : (s.setPart p x).partAt p = x := tget_tset_wf h
theorem State.partAt_onPart_same (h : twf s.parts {} = true) (p : Nat) (f : Partition → Partition) : (s.onPart p f).partAt p = f (s.partAt p) :=
  tget_tset_wf h
theorem State.partAt_onPart_other {p q : Nat} (h : q ≠ p) (f : Partition → Partition) : (s.onPart p f).partAt q = s.partAt q := tget_tset_other h

theorem State.ctxAt_setCtx_same (h : twf s.others {} = true) (c : CtxLoc) (x : Context) : (s.setCtx c x).ctxAt c = x := by
  unfold State.setCtx State.ctxAt
  by_cases hc : c = s.focus
  · rw [if_pos hc, if_pos (show c = ({ s with cx := x } : State).focus from hc)]
  · rw [if_neg hc, if_neg (show ¬ c = ({ s with others := tset s.others (ckey c) x {} } : State).focus from hc)]
    exact tget_tset_wf h

theorem State.ctxAt_onCtx_same (h : twf s.others {} = true) (c : CtxLoc) (f : Context → Context) : (s.onCtx c f).ctxAt c = f (s.ctxAt c) :=
  State.ctxAt_setCtx_same h c _

theorem State.setCtx_ctxAt (h : twf s.others {} = true) (c : CtxLoc) : s.setCtx c (s.ctxAt c) = s := by
  unfold State.setCtx State.ctxAt
  by_cases hc : c = s.focus
  · rw [if_pos hc, if_pos hc]
  · rw [if_neg hc, if_neg hc]
    exact congrArg (fun t => ({ s with others := t } : State)) (tset_tget h (ckey c))

theorem State.setCtx_setCtx (h : twf s.others {} = true) (c : CtxLoc) (x y : Context) : (s.setCtx c x).setCtx c y = s.setCtx c y := by
  unfold State.setCtx
  by_cases hc : c = s.focus
  · rw [if_pos hc, if_pos hc, if_pos (show c = ({ s with cx := x } : State).focus from hc)]
  · rw [if_neg hc, if_neg hc, if_neg (show ¬ c = ({ s with others := tset s.others (ckey c) x {} } : State).focus from hc)]
    exact congrArg (fun t => ({ s with others := t } : State)) (tset_tset h (ckey c))

end
end Sys2Proof.Machine
end
section
namespace Sys2Proof.Machine

/-! ### OWNWAIT (R119) -/

theorem exec_ownwait (rs1 : Reg) (s : State) : exec (.ownwait rs1) s = execOwnwait rs1 s := rfl

theorem exec_ownwait_free {s : State} {rs1 : Reg} (h : Issues s (.ownwait rs1)) (hf : ownedTile s (s.cx.rg rs1) = some false) :
    exec (.ownwait rs1) s = .next (s.waited.onCx Context.retire) := by
  simp only [exec_ownwait, execOwnwait, issue_of_issues h, hf]

theorem exec_ownwait_owned {s : State} {rs1 : Reg} (h : Issues s (.ownwait rs1)) (hf : ownedTile s (s.cx.rg rs1) = some true) :
    exec (.ownwait rs1) s = .next (s.waiting wOwner (s.cx.rg rs1)) := by
  simp only [exec_ownwait, execOwnwait, issue_of_issues h, hf]

theorem ownedTile_win {s : State} {a : Word} {o : Nat} (h : placeOf s.cx.wsize a = some (.win o)) :
    ownedTile s a = some (s.cx.gran (o / 256)).owner := by
  rw [ownedTile, h]

theorem ownedTile_moss {s : State} {a : Word} {o : Nat} (h : placeOf s.cx.wsize a = some (.moss o)) :
    ownedTile s a = some ((s.cluAt s.focus.pcl).rg (o / 4096)).owner := by
  rw [ownedTile, h]

theorem ownedTile_none {s : State} {a : Word} (hw : ∀ o, placeOf s.cx.wsize a ≠ some (.win o))
    (hm : ∀ o, placeOf s.cx.wsize a ≠ some (.moss o)) : ownedTile s a = none := by
  unfold ownedTile
  split
  · exact absurd ‹_› (hw _)
  · exact absurd ‹_› (hm _)
  · rfl

/-- A word that ends a wait and goes past: pc and registers. -/
theorem waited_retire (s : State) : (s.waited.onCx Context.retire).cx.pc = s.cx.pc + 4 ∧ (s.waited.onCx Context.retire).cx.regs = s.cx.regs := by
  obtain ⟨ws, h⟩ := s.waited_cx
  rw [State.onCx_cx, h]
  exact ⟨rfl, rfl⟩

/-- Settles O19: by the tile that the address names. -/
theorem ownerWaitWord : Obligations.OwnerWaitWord := by
  intro s rs1 a
  have hfree (ht : ownedTile s a = some false) (hu : s.unwaiting) : Completes (.ownwait rs1) s s.passed := by
    intro h
    rw [exec_ownwait_free h ht, State.waited_of_unwaiting hu]
    rfl
  have howned (ht : ownedTile s a = some true) : Completes (.ownwait rs1) s { s with cx := s.cx.waitMark 4 wOwner a } :=
    fun h => exec_ownwait_owned h ht
  refine ⟨fun o ho => ?_, fun h hfind => ?_, fun o ho => ?_, fun hw hm h => ?_⟩
  · have ht := ownedTile_win ho
    exact ⟨fun hf => hfree (hf ▸ ht), fun hf => howned (hf ▸ ht)⟩
  · have ht : ownedTile s a = some false := by
      rcases hfind with ⟨o, ho, hf⟩ | ⟨o, ho, hf⟩
      · exact hf ▸ ownedTile_win ho
      · exact hf ▸ ownedTile_moss ho
    exact ⟨_, exec_ownwait_free h ht, waited_retire s⟩
  · have ht := ownedTile_moss ho
    exact ⟨fun hf => hfree (hf ▸ ht), fun hf => howned (hf ▸ ht)⟩
  · have ht := ownedTile_none hw hm
    simp only [exec_ownwait, execOwnwait, issue_of_issues h]
    rw [show ownedTile s (s.cx.rg rs1) = none from ht]
    rfl

/-! ### Groups (R203) -/

theorem exec_bar (k : BitVec 2) (s : State) : exec (.bar k) s = execBar k s := rfl
theorem exec_bararr (rd : Reg) (k : BitVec 2) (s : State) : exec (.bararr rd k) s = execBararr rd k s := rfl
theorem exec_barwait (k : BitVec 2) (rs1 : Reg) (s : State) : exec (.barwait k rs1) s = execBarwait k rs1 s := rfl
theorem exec_grpinfo (rd : Reg) (k : BitVec 2) (s : State) : exec (.grpinfo rd k) s = execGrpinfo rd k s := rfl

/-- A read through a write buffer that holds nothing changes nothing. -/
theorem devRead_state {s : State} (h : s.Inv) {c : CtxLoc} (hb : (s.cluAt c.pcl).wbuf = []) (pa n : Nat) : (devRead s c pa n).2.2.2 = s := by
  have he : (devRead s c pa n).2.2.2 = s.setClu c.pcl { s.cluAt c.pcl with wbuf := [] } := by
    simp only [devRead, hb, List.map_nil]
  have hc : ({ s.cluAt c.pcl with wbuf := [] } : Cluster) = s.cluAt c.pcl := by
    revert hb
    cases s.cluAt c.pcl
    rintro rfl
    rfl
  rw [he, hc, State.setClu_cluAt h.clus]

theorem seeGroup_eq {s : State} (h : s.Inv) (hb : (s.cluAt s.focus.pcl).wbuf = []) (v : GroupView) :
    s.seeGroup v = { s with cx := { s.cx with obs := s.cx.obs.max v.stamp } } := by
  rw [State.seeGroup, devRead_state h hb]
  rfl

theorem setWidth64_add (a b : BitVec 32) : (a ++ b : BitVec 64) = BitVec.ofNat 64 (a.toNat * 2 ^ 32 + b.toNat) := by
  apply BitVec.eq_of_toNat_eq
  have ha := a.isLt
  have hb := b.isLt
  rw [BitVec.toNat_append, Nat.shiftLeft_eq, BitVec.toNat_ofNat, ← Nat.shiftLeft_eq, ← Nat.shiftLeft_add_eq_or_of_lt hb, Nat.shiftLeft_eq,
    Nat.mod_eq_of_lt (by omega)]

/-- The four words of a group that has no entry for them. -/
theorem group_faults {s : State} {k : BitVec 2} {e : BitVec 8} {v : Word} (hv : groupView s k = .error (e, v)) (he : e ≠ 0x08) (rd rs1 : Reg) :
    Faults (.bar k) s e v ∧ Faults (.bararr rd k) s e v ∧ Faults (.barwait k rs1) s e v ∧ Faults (.grpinfo rd k) s e v := by
  have hg : s.groupFault (e, v) = s.faulted e v := congrArg (fun t : State => t.fault e v) (if_neg he)
  refine ⟨fun h => ?_, fun h => ?_, fun h => ?_, fun h => ?_⟩
  · simp only [exec_bar, execBar, issue_of_issues h, hv, hg]
  · simp only [exec_bararr, execBararr, issue_of_issues h, hv, hg]
  · simp only [exec_barwait, execBarwait, issue_of_issues h, hv, hg]
  · simp only [exec_grpinfo, execGrpinfo, issue_of_issues h, hv, hg]

theorem exec_barwait_of_issues {s : State} {k : BitVec 2} {rs1 : Reg} {v : GroupView} (h : Issues s (.barwait k rs1)) (hv : groupView s k = .ok v) :
    exec (.barwait k rs1) s =
      if 1 ≤ (v.phase - (s.cx.rg rs1).setWidth 32).toNat ∧ (v.phase - (s.cx.rg rs1).setWidth 32).toNat ≤ 2 ^ 31 then
        .next ((s.seeGroup v).waited.onCx Context.retire)
      else .next (s.waiting wGroup (BitVec.ofNat 64 (getAt s.cx.grp (8 * k.toNat) 8))) := by
  simp only [exec_barwait, execBarwait, issue_of_issues h, hv, Bool.and_eq_true, decide_eq_true_eq]

/-- Settles O20: what the group's entry says, and where there is none to read. -/
theorem groupWaitWords : Obligations.GroupWaitWords := by
  refine ⟨fun s k rd rs1 v hv => ?_, fun s k rd rs1 l => ?_, fun s k rd rs1 hm => ?_⟩
  · intro d
    have hdone (h1 : 1 ≤ d) (h2 : d ≤ 2 ^ 31) (h : Issues s (.barwait k rs1)) :
        exec (.barwait k rs1) s = .next ((s.seeGroup v).waited.onCx Context.retire) :=
      (exec_barwait_of_issues h hv).trans (if_pos ⟨h1, h2⟩)
    refine ⟨hdone, fun h1 h2 hu hi hb h => ?_, fun h1 h2 h => ?_, fun hd h => ?_, fun h => ?_, fun hi hb => seeGroup_eq hi hb v⟩
    · rw [hdone h1 h2 h, State.waited_of_unwaiting (s := s.seeGroup v) hu, seeGroup_eq hi hb]
      rfl
    · obtain ⟨ws, hw⟩ := (s.seeGroup v).waited_cx
      refine ⟨_, hdone h1 h2 h, ?_⟩
      rw [State.onCx_cx, hw]
      exact ⟨rfl, rfl, rfl⟩
    · rw [exec_barwait_of_issues h hv]
      exact if_neg hd
    · simp only [exec_grpinfo, execGrpinfo, issue_of_issues h, hv, setWidth64_add, State.onCx_setRg_retire]
  · intro c g va all hmem hl
    have hview : groupView s k = match translate s s.focus.pcl s.cx.part va .load with
        | .error e => .error (e, BitVec.ofNat 64 va)
        | .ok pa => if (groupSeen s s.focus pa).2 then .error (0x0D, BitVec.ofNat 64 va)
          else if (groupSeen s s.focus pa).1.members = 0 then .error (0x1C, BitVec.ofNat 64 (0x200 + g)) else .ok (groupSeen s s.focus pa).1 := by
      simp only [groupView, hmem, hl, Bool.not_true, Bool.false_eq_true, if_false]
      rfl
    refine ⟨fun e he hne => ?_, fun pa hpa => ⟨fun hbad => ?_, fun hgood hnone => ?_⟩⟩
    · rw [show translate s s.focus.pcl s.cx.part va .load = .error e from he] at hview
      exact group_faults hview hne rd rs1
    · rw [show translate s s.focus.pcl s.cx.part va .load = .ok pa from hpa] at hview
      exact group_faults (hview.trans (if_pos hbad)) (by decide) rd rs1
    · rw [show translate s s.focus.pcl s.cx.part va .load = .ok pa from hpa] at hview
      refine group_faults (hview.trans ?_) (by decide) rd rs1
      exact (if_neg (hgood ▸ Bool.false_ne_true)).trans (if_pos hnone)
  · refine group_faults ?_ (by decide) rd rs1
    simp only [groupView, hm, Bool.not_false, if_true]
end Sys2Proof.Machine
end
section
namespace Sys2Proof.Machine

/-! ### Event counters at issue (R205 to R207) -/

theorem exec_evrd (rd rs1 : Reg) (s : State) : exec (.evrd rd rs1) s = execEvrd rd rs1 s := rfl
theorem exec_evwait (rd rs1 rs2 : Reg) (s : State) : exec (.evwait rd rs1 rs2) s = execEvwait rd rs1 rs2 s := rfl
theorem exec_evadd (sc : Scope) (rs1 rs2 : Reg) (s : State) : exec (.evadd sc rs1 rs2) s = countWord (.evadd sc rs1 rs2) rs1 rs2 s := rfl
theorem exec_evset (rs1 rs2 : Reg) (s : State) : exec (.evset rs1 rs2) s = countWord (.evset rs1 rs2) rs1 rs2 s := rfl

/-- The register that EVWAIT waits by: the one that waits already for the same, and else a new one. -/
def heldFor (x : Context) (pcl n : Nat) (thr : Word) : EvReg :=
  match x.evreg with
  | some r => if r.pcl = pcl && r.n = n && r.thr = thr then r else ⟨pcl, n, thr, none⟩
  | none => ⟨pcl, n, thr, none⟩

theorem heldFor_names (x : Context) (pcl n : Nat) (thr : Word) :
    (heldFor x pcl n thr).pcl = pcl ∧ (heldFor x pcl n thr).n = n ∧ (heldFor x pcl n thr).thr = thr := by
  unfold heldFor
  split
  · split
    · rename_i h
      simpa [and_assoc] using h
    · exact ⟨rfl, rfl, rfl⟩
  · exact ⟨rfl, rfl, rfl⟩

/-- A counter that has reached the threshold is seen. -/
theorem EvReg.changed_reached {r : EvReg} {pcl n : Nat} {k : Counter} (h : r.pcl = pcl ∧ r.n = n ∧ r.thr.toNat ≤ k.val.toNat) :
    ∃ v, (r.changed pcl n k).seen = some v ∧ (r.seen = none → v = (k.val, k.stamp)) := by
  obtain ⟨hp, hn, ht⟩ := h
  cases hs : r.seen with
  | none =>
    refine ⟨(k.val, k.stamp), ?_, fun _ => rfl⟩
    simp [EvReg.changed, hp, hn, ht, hs]
  | some v =>
    refine ⟨v, ?_, fun h => nomatch h⟩
    simp [EvReg.changed, hs]

theorem EvReg.changed_below {r : EvReg} {pcl n : Nat} {k : Counter} (h : k.val.toNat < r.thr.toNat) : r.changed pcl n k = r := by
  have : ¬ r.thr.toNat ≤ k.val.toNat := by omega
  simp [EvReg.changed, this]

section
variable {s : State} {rd rs1 rs2 : Reg}

theorem exec_evwait_of_issues (h : Issues s (.evwait rd rs1 rs2)) {e : Nat × Nat} (he : eventOf s.focus.pcl (s.cx.rg rs1).toNat = e)
    (hid : eventBad s s.cx.part s.focus.pcl (s.cx.rg rs1).toNat = none) :
    exec (.evwait rd rs1 rs2) s =
      match ((heldFor s.cx e.1 e.2 (s.cx.rg rs2)).changed e.1 e.2 ((s.cluAt e.1).counter e.2)).seen with
      | some (v, st) => .next ((s.onCx fun x => (({ x with evreg := none }.observe st).setRg rd v).retire).waited)
      | none => .next ((s.onCx fun x => { x with evreg := some (heldFor s.cx e.1 e.2 (s.cx.rg rs2)) }).waiting wEvent (s.cx.rg rs1)) := by
  subst he
  simp only [exec_evwait, execEvwait, issue_of_issues h, hid]
  rfl

theorem exec_evwait_seen {v : Word} {st : Stamp} (h : Issues s (.evwait rd rs1 rs2)) {e : Nat × Nat}
    (he : eventOf s.focus.pcl (s.cx.rg rs1).toNat = e) (hid : eventBad s s.cx.part s.focus.pcl (s.cx.rg rs1).toNat = none)
    (hv : ((heldFor s.cx e.1 e.2 (s.cx.rg rs2)).changed e.1 e.2 ((s.cluAt e.1).counter e.2)).seen = some (v, st)) :
    exec (.evwait rd rs1 rs2) s = .next ((s.onCx fun x => (({ x with evreg := none }.observe st).setRg rd v).retire).waited) := by
  rw [exec_evwait_of_issues h he hid, hv]

theorem exec_evwait_unseen (h : Issues s (.evwait rd rs1 rs2)) {e : Nat × Nat}
    (he : eventOf s.focus.pcl (s.cx.rg rs1).toNat = e) (hid : eventBad s s.cx.part s.focus.pcl (s.cx.rg rs1).toNat = none)
    (hv : ((heldFor s.cx e.1 e.2 (s.cx.rg rs2)).changed e.1 e.2 ((s.cluAt e.1).counter e.2)).seen = none) :
    exec (.evwait rd rs1 rs2) s =
      .next ((s.onCx fun x => { x with evreg := some (heldFor s.cx e.1 e.2 (s.cx.rg rs2)) }).waiting wEvent (s.cx.rg rs1)) := by
  rw [exec_evwait_of_issues h he hid, hv]

/-- The words of an event id that is none. -/
theorem event_faults {c : BitVec 8} (hid : eventBad s s.cx.part s.focus.pcl (s.cx.rg rs1).toNat = some c) (sc : Scope) :
    Faults (.evrd rd rs1) s c (s.cx.rg rs1) ∧ Faults (.evwait rd rs1 rs2) s c (s.cx.rg rs1) ∧ Faults (.evadd sc rs1 rs2) s c (s.cx.rg rs1) ∧
      Faults (.evset rs1 rs2) s c (s.cx.rg rs1) := by
  refine ⟨fun h => ?_, fun h => ?_, fun h => ?_, fun h => ?_⟩
  · simp only [exec_evrd, execEvrd, issue_of_issues h, hid]
    rfl
  · simp only [exec_evwait, execEvwait, issue_of_issues h, hid]
    rfl
  · simp only [exec_evadd, countWord, issue_of_issues h, hid]
    rfl
  · simp only [exec_evset, countWord, issue_of_issues h, hid]
    rfl
end

theorem State.onCx_observe_setRg_retire (s : State) (st : Stamp) (rd : Reg) (v : Word) :
    (s.onCx fun x => ((x.observe st).setRg rd v).retire) =
      ({ s with cx := { s.cx with obs := s.cx.obs.max st } } : State).wrote rd v := by
  unfold State.wrote Context.setRg
  split <;> rfl

theorem Context.evreg_none {x : Context} (h : x.evreg = none) : { x with evreg := none } = x := by
  cases x
  cases h
  rfl

theorem Context.observe_setRg_fields (x : Context) (st : Stamp) (rd : Reg) (v : Word) :
    let y := (({ x with evreg := none }.observe st).setRg rd v).retire
    y.pc = x.pc + 4 ∧ y.evreg = none ∧ y.regs = (x.setRg rd v).regs ∧ y.waits = x.waits := by
  unfold Context.setRg
  split <;> exact ⟨rfl, rfl, rfl, rfl⟩

/-- Settles O21: the counter that the id names, and the ids that fault. -/
theorem eventReadWords : Obligations.EventReadWords := by
  intro s rd rs1 rs2 x id thr e k seen
  refine ⟨fun hid => ⟨fun h => ?_, fun hr hu ht h => ?_, fun ht h => ?_, fun hr ht h => ?_⟩, fun hbad => ?_, fun h1 h2 h3 => ?_⟩
  · have hid' : eventBad s s.cx.part s.focus.pcl (s.cx.rg rs1).toNat = none := hid
    simp only [exec_evrd, execEvrd, issue_of_issues h, hid', State.onCx_observe_setRg_retire]
    rfl
  · have hheld : heldFor s.cx e.1 e.2 (s.cx.rg rs2) = ⟨e.1, e.2, s.cx.rg rs2, none⟩ := by rw [heldFor, hr]
    obtain ⟨⟨v, st⟩, hv, hnone⟩ := EvReg.changed_reached (r := heldFor s.cx e.1 e.2 (s.cx.rg rs2)) (pcl := e.1) (n := e.2) (k := k)
      (by rw [hheld]; exact ⟨rfl, rfl, ht⟩)
    obtain ⟨rfl, rfl⟩ := Prod.mk.inj (hnone (by rw [hheld]))
    have hexec := exec_evwait_seen h rfl hid hv
    have hwait : (s.onCx fun x => (({ x with evreg := none }.observe k.stamp).setRg rd k.val).retire).unwaiting := by
      obtain ⟨-, -, -, hwaits⟩ := s.cx.observe_setRg_fields k.stamp rd k.val
      exact (congrArg (fun w => tfind w 4) hwaits).trans hu
    have hnext : (s.onCx fun x => (({ x with evreg := none }.observe k.stamp).setRg rd k.val).retire) =
        s.onCx fun x => ((x.observe k.stamp).setRg rd k.val).retire :=
      congrArg (fun y : Context => ({ s with cx := ((y.observe k.stamp).setRg rd k.val).retire } : State)) (Context.evreg_none hr)
    rw [State.waited_of_unwaiting hwait, hnext, State.onCx_observe_setRg_retire] at hexec
    exact hexec
  · have hnames := heldFor_names s.cx e.1 e.2 (s.cx.rg rs2)
    obtain ⟨⟨v, st⟩, hv, -⟩ := EvReg.changed_reached (r := heldFor s.cx e.1 e.2 (s.cx.rg rs2)) (k := k)
      ⟨hnames.1, hnames.2.1, hnames.2.2.symm ▸ ht⟩
    have hexec := exec_evwait_seen h rfl hid hv
    obtain ⟨ws, hw⟩ := State.waited_cx (s.onCx fun x => (({ x with evreg := none }.observe st).setRg rd v).retire)
    obtain ⟨hpc, hevreg, hregs, -⟩ := s.cx.observe_setRg_fields st rd v
    refine ⟨_, v, hexec, ?_⟩
    rw [hw, State.onCx_cx]
    exact ⟨hpc, hevreg, hregs⟩
  · have hheld : heldFor s.cx e.1 e.2 (s.cx.rg rs2) = ⟨e.1, e.2, s.cx.rg rs2, none⟩ := by rw [heldFor, hr]
    have hseen : ((heldFor s.cx e.1 e.2 (s.cx.rg rs2)).changed e.1 e.2 k).seen = none := by
      rw [hheld, EvReg.changed_below (r := ⟨e.1, e.2, s.cx.rg rs2, none⟩) ht]
    rw [exec_evwait_unseen h rfl hid hseen, hheld]
    rfl
  · refine event_faults ?_ .device
    have : (decide (65536 ≤ id.toNat) || decide (40 < id.toNat / 1024 % 64)) = true := by
      simp only [Bool.or_eq_true, decide_eq_true_eq]
      omega
    exact if_pos this
  · refine event_faults ?_ .device
    have hin : ¬(decide (65536 ≤ id.toNat) || decide (40 < id.toNat / 1024 % 64)) = true := by
      simp only [Bool.or_eq_true, decide_eq_true_eq, not_or]
      omega
    exact (if_neg hin).trans (if_pos (by rw [Bool.not_eq_true']; exact h3))

/-! ### Event counters at their point (R206) -/

/-- A change of a counter on the own die, at a scope inside it, only sets the change under way. -/
theorem State.countPoint_near {s : State} {c : CtxLoc} {sc : Scope} {i : Item} {b : Bool} (hsc : sc = .subcore ∨ sc = .core ∨ sc = .cluster)
    (hdie : dieOf (eventOf c.pcl i.a.toNat).1 = dieOf c.pcl) :
    s.countPoint c sc i b = ({ s with adds := s.adds ++ [⟨whoOf (s.ctxAt c), (eventOf c.pcl i.a.toNat).1, (eventOf c.pcl i.a.toNat).2, i.b, b,
      false, (s.ctxAt c).obs, none⟩] } : State).onCtx c fun x => x.popItem .l := by
  have hdie' : (dieOf (eventOf c.pcl i.a.toNat).1 != dieOf c.pcl) = false := by simp [hdie]
  rcases hsc with rfl | rfl | rfl <;>
    simp only [State.countPoint, State.release, State.releaseDrain, wide, hdie', Bool.or_self, Bool.false_eq_true, if_false, State.sendAdd]

theorem State.onCtx_of_focus {s : State} {c : CtxLoc} (h : s.focus = c) (f : Context → Context) : s.onCtx c f = s.onCx f :=
  h ▸ s.onCtx_at_focus f

/-- A stamp changes the clock of its die. -/
theorem State.drainedTo.trans_stamp {s t : State} {d : Nat} {o : Stamp} (h : s.drainedTo t) : s.drainedTo (t.stampWrite d o).2 :=
  State.drainedTo_trans h rfl

/-- A release at die scope or wider drains, and gives a new stamp of its die. -/
theorem State.release_wide (s : State) (c : CtxLoc) {sc : Scope} (home : Nat) (h : wide sc = true) :
    ∃ st t, s.release c sc home = (st, some (dieOf c.pcl), t) ∧ s.drainedTo t := by
  have hdrain := s.releaseDrain_drainedTo c sc
  simp only [State.release, h, Bool.true_or, if_true]
  exact ⟨_, _, rfl, hdrain.trans_stamp⟩

/-- What drains leave of the focused context and of what is under way. -/
theorem State.drainedTo_fields {s t : State} (h : s.drainedTo t) :
    t.focus = s.focus ∧ t.cx = { s.cx with obs := t.cx.obs } ∧ t.adds = s.adds ∧ t.arrivals = s.arrivals ∧ t.launching = s.launching ∧
      t.mem = s.mem := by
  unfold State.drainedTo at h
  rw [h]
  exact ⟨rfl, rfl, rfl, rfl, rfl, rfl⟩

/-- What a change of a counter at device scope leaves: the change under way under a new stamp, the point gone, memory as it was. -/
theorem State.countPoint_device (s : State) (i : Item) (b : Bool) :
    ∃ st, (s.countPoint s.focus .device i b).adds = s.adds ++ [⟨whoOf s.cx, (eventOf s.focus.pcl i.a.toNat).1, (eventOf s.focus.pcl i.a.toNat).2,
        i.b, b, false, st, some (dieOf s.focus.pcl)⟩] ∧
      (s.countPoint s.focus .device i b).cx.pc = (s.cx.popItem .l).pc ∧ (s.countPoint s.focus .device i b).mem = s.mem := by
  obtain ⟨st, t, hrel, hdrain⟩ := s.release_wide s.focus (sc := .device) (eventOf s.focus.pcl i.a.toNat).1 rfl
  obtain ⟨hfocus, hcx, hadds, -, -, hmem⟩ := State.drainedTo_fields hdrain
  have hcount : s.countPoint s.focus .device i b =
      (t.sendAdd (whoOf (t.ctxAt s.focus)) s.focus.pcl i.a.toNat i.b b false st (some (dieOf s.focus.pcl))).onCtx s.focus fun x => x.popItem .l := by
    simp only [State.countPoint, hrel]
  have hwho : whoOf (t.ctxAt s.focus) = whoOf s.cx := by
    rw [← hfocus, State.ctxAt_at_focus, hcx]
    rfl
  refine ⟨st, ?_, ?_, ?_⟩
  · rw [hcount, State.onCtx_adds, hwho]
    simp only [State.sendAdd, hadds]
  · rw [hcount, State.onCtx_of_focus (s := t.sendAdd _ _ _ _ _ _ _ _) hfocus]
    show (t.cx.popItem .l).pc = _
    rw [hcx]
    rfl
  · rw [hcount, State.onCtx_mem]
    exact hmem

theorem countWord_acts {s : State} {i : Instr} {rs1 rs2 : Reg} (h : Issues s i) (hi : Instr.isPoint i = true) (hh : handlerOk i = false)
    (hid : eventBad s s.cx.part s.focus.pcl (s.cx.rg rs1).toNat = none) (he : s.cx.ql.items = []) (hp : s.cx.parked = false) :
    countWord i rs1 rs2 s = .next ((s.pointed .l i (s.cx.rg rs1) (s.cx.rg rs2)).reachPoint s.focus .l) := by
  simp only [countWord, issue_of_issues h, hid]
  exact congrArg Host.Outcome.next (placePoint_acts (g := .l) (h.grants (h.intrap_false hh)) hp he hi)

theorem pointed_obs (s : State) (g : Eng) (i : Instr) (a b : Word) :
    (s.pointed g i a b).cx.obs = s.cx.obs ∧ whoOf (s.pointed g i a b).cx = whoOf s.cx ∧ (s.pointed g i a b).cx.pc = s.cx.pc + 4 := by
  cases g <;> exact ⟨rfl, rfl, rfl⟩

theorem State.onCtx_with_adds (s : State) (l : List EvAdd) (c : CtxLoc) (f : Context → Context) :
    ({ s with adds := l } : State).onCtx c f = { s.onCtx c f with adds := l } := by
  unfold State.onCtx State.setCtx State.ctxAt
  split <;> rfl

/-- Settles O22: the change is under way. -/
theorem eventWritesUnderWay : Obligations.EventWritesUnderWay := by
  intro s rs1 rs2 sc x id e hid he hp hsc hdie
  refine ⟨fun h => ?_, fun h => ?_⟩
  · rw [exec_evadd, countWord_acts h rfl rfl hid he hp]
    simp only [State.reachPoint, State.ctxAt_pointed, pointed_items (g := .l) he]
    obtain ⟨hobs, hwho, -⟩ := pointed_obs s .l (.evadd sc rs1 rs2) (s.cx.rg rs1) (s.cx.rg rs2)
    rw [show (mkItem s.cx (.evadd sc rs1 rs2) (s.cx.queue .l) (s.cx.rg rs1) (s.cx.rg rs2) 0 0).ins = .evadd sc rs1 rs2 from rfl]
    simp only []
    rw [State.countPoint_near hsc (by exact hdie), State.ctxAt_pointed, hobs, hwho]
    rw [State.onCtx_with_adds, pointed_popItem (g := .l) he]
    rfl
  · rw [exec_evset, countWord_acts h rfl rfl hid he hp]
    simp only [State.reachPoint, State.ctxAt_pointed, pointed_items (g := .l) he]
    obtain ⟨-, hwho, -⟩ := pointed_obs s .l (.evset rs1 rs2) (s.cx.rg rs1) (s.cx.rg rs2)
    obtain ⟨st, hadds, hpc, hmem⟩ := (s.pointed .l (.evset rs1 rs2) (s.cx.rg rs1) (s.cx.rg rs2)).countPoint_device
      (mkItem s.cx (.evset rs1 rs2) (s.cx.queue .l) (s.cx.rg rs1) (s.cx.rg rs2) 0 0) true
    rw [hwho] at hadds
    refine ⟨_, st, rfl, hadds, hpc.trans ?_, hmem⟩
    rw [State.pointed_eq, State.onCx_cx, Context.popItem_pointed (g := .l) he]
end Sys2Proof.Machine
end
section
namespace Sys2Proof.Machine

/-! ### LEAVE and LEAVERD (R302, R303) -/

theorem exec_leave (rd rs1 : Reg) (s : State) : exec (.leave rd rs1) s = execLeave rd rs1 s := rfl
theorem exec_leaverd (rd : Reg) (s : State) : exec (.leaverd rd) s = execLeaverd rd s := rfl
theorem exec_yield (idx : BitVec 16) (s : State) : exec (.yield idx) s = execYield idx s := rfl
theorem exec_suspend (rd rs1 rs2 : Reg) (s : State) : exec (.suspend rd rs1 rs2) s = execSuspend rd rs1 rs2 s := rfl

/-- The fields of the `leave` register. -/
theorem leaveWord_fields (s : State) : let u := s.subAt s.focus.pcl s.focus.sub
    (leaveWord s).toNat % 2 ^ 16 = u.account % 2 ^ 16 ∧
      (s.cx.resv < 2 ^ 16 → u.account < 2 ^ 16 → (leaveWord s).toNat / 2 ^ 16 % 2 ^ 16 = s.cx.resv) := by
  have hp := (Config.freePos s.free).isLt
  simp only [leaveWord, BitVec.toNat_ofNat]
  constructor
  · omega
  · intro h1 h2
    omega

/-- A word that completes with a result and no wait of the front end open. -/
theorem waited_setRg_retire {s : State} (h : s.unwaiting) (rd : Reg) (v : Word) :
    (s.onCx fun x => (x.setRg rd v).retire).waited = s.wrote rd v := by
  rw [State.onCx_setRg_retire]
  refine State.waited_of_unwaiting ?_
  have hw : (s.wrote rd v).cx.waits = s.cx.waits := by
    unfold State.wrote Context.setRg
    split <;> rfl
  rw [hw]
  exact h

theorem State.returnLeave_focus (s : State) : s.returnLeave s.focus =
    { s.setSub s.focus.pcl s.focus.sub { s.subAt s.focus.pcl s.focus.sub with
        account := min Config.accountCap ((s.subAt s.focus.pcl s.focus.sub).account + s.cx.resv) } with cx := { s.cx with resv := 0 } } := by
  simp only [State.returnLeave, State.ctxAt_at_focus]
  exact State.onCtx_at_focus (s.setSub _ _ _) _

/-- Settles O24: the account, the reservation and the `leave` register. -/
theorem leaveWords : Obligations.LeaveWords := by
  intro s rd rs1 x c v u expert
  refine ⟨fun he h => ?_, fun he hv h => ?_, fun he hv hr h => ?_, fun he hv hr hz hacc hfirst hu h => ?_, fun he hv hr hz hacc h => ?_,
    fun he hz hr h => ?_, fun h => ?_⟩
  · have hno : (s.partAt s.cx.part).expert = false := Bool.not_eq_true _ ▸ he
    rw [exec_leave, execLeave, issue_of_issues h]
    simp only [hno, Bool.not_false, if_true]
    rfl
  · have hyes : (s.partAt s.cx.part).expert = true := he
    rw [exec_leave, execLeave, issue_of_issues h]
    simp only [hyes, Bool.not_true, Bool.false_eq_true, if_false, if_pos (show 32768 < (s.cx.rg rs1).toNat from hv)]
    rfl
  · have hyes : (s.partAt s.cx.part).expert = true := he
    rw [exec_leave, execLeave, issue_of_issues h]
    simp only [hyes, Bool.not_true, Bool.false_eq_true, if_false, if_neg (Nat.not_lt.mpr (show (s.cx.rg rs1).toNat ≤ 32768 from hv)),
      if_pos (show 32768 < s.cx.resv + (s.cx.rg rs1).toNat from hr)]
    rfl
  · have hyes : (s.partAt s.cx.part).expert = true := he
    have hf : u.first = none := by
      rw [SubCore.first, hfirst]
      rfl
    rw [exec_leave, execLeave, issue_of_issues h]
    simp only [hyes, Bool.not_true, Bool.false_eq_true, if_false, if_neg (Nat.not_lt.mpr (show (s.cx.rg rs1).toNat ≤ 32768 from hv)),
      if_neg (Nat.not_lt.mpr (show s.cx.resv + (s.cx.rg rs1).toNat ≤ 32768 from hr)), if_neg (show s.cx.rg rs1 ≠ 0 from hz)]
    rw [show (s.subAt s.focus.pcl s.focus.sub).first = none from hf]
    simp only [Bool.or_false, decide_eq_true_eq]
    rw [if_neg (Nat.not_lt.mpr (show (s.cx.rg rs1).toNat ≤ (s.subAt s.focus.pcl s.focus.sub).account from hacc))]
    exact congrArg Host.Outcome.next (waited_setRg_retire
      (s := { s.setSub c.pcl c.sub { u with account := u.account - v.toNat } with cx := { x with resv := x.resv + v.toNat } }) hu rd _)
  · have hyes : (s.partAt s.cx.part).expert = true := he
    rw [exec_leave, execLeave, issue_of_issues h]
    simp only [hyes, Bool.not_true, Bool.false_eq_true, if_false, if_neg (Nat.not_lt.mpr (show (s.cx.rg rs1).toNat ≤ 32768 from hv)),
      if_neg (Nat.not_lt.mpr (show s.cx.resv + (s.cx.rg rs1).toNat ≤ 32768 from hr)), if_neg (show s.cx.rg rs1 ≠ 0 from hz)]
    rw [if_pos]
    · rfl
    · simp only [Bool.or_eq_true, decide_eq_true_eq]
      exact .inl hacc
  · have hyes : (s.partAt s.cx.part).expert = true := he
    have hz' : s.cx.rg rs1 = 0 := hz
    rw [exec_leave, execLeave, issue_of_issues h]
    have h0 : (0 : Word).toNat = 0 := rfl
    have hr' : ¬ 32768 < s.cx.resv := Nat.not_lt.mpr hr
    simp only [hyes, Bool.not_true, Bool.false_eq_true, if_false, hz', h0, Nat.add_zero, Nat.not_lt_zero, if_true, hr', State.returnLeave_focus]
    exact congrArg Host.Outcome.next (State.onCx_setRg_retire _ rd 0)
  · refine ⟨leaveWord s, ?_, leaveWord_fields s⟩
    rw [exec_leaverd, execLeaverd, issue_of_issues h]
    exact congrArg Host.Outcome.next (State.onCx_setRg_retire _ rd _)

/-! ### YIELD and SUSPEND (R197 to R201) -/

/-- Settles O25: by the state of the strand. -/
theorem yieldWord : Obligations.YieldWord := by
  intro s idx x e
  refine ⟨fun hy hp h => ?_, fun hy h => ?_, fun hy h => ?_, fun hy hp save restore he h => ?_, fun hy hp he h => ?_⟩
  · have hy' : s.cx.ystate = 0 := hy
    have hp' : s.cx.preq = false := hp
    rw [exec_yield, execYield, issue_of_issues h]
    simp only [hy', hp']
    rfl
  · rw [exec_yield, execYield, issue_of_issues h]
    exact if_pos hy
  · have hy' : s.cx.ystate = 1 := hy
    rw [exec_yield, execYield, issue_of_issues h]
    simp only [hy']
    rfl
  · have hy' : s.cx.ystate = 0 := hy
    have hp' : s.cx.preq = true := hp
    have he' : yieldEntry s s.focus.pcl s.cx.part s.cx.yieldtab idx.toNat = .ok (some (save, restore)) := he
    rw [exec_yield, execYield, issue_of_issues h]
    simp only [hy', hp', he']
    rfl
  · have hy' : s.cx.ystate = 0 := hy
    have hp' : s.cx.preq = true := hp
    have he' : yieldEntry s s.focus.pcl s.cx.part s.cx.yieldtab idx.toNat = .ok none := he
    rw [exec_yield, execYield, issue_of_issues h]
    simp only [hy', hp', he']
    rfl

/-- A strand that suspends: its front end has stopped, and it drains. -/
def State.suspending (s : State) (rd rs1 rs2 : Reg) : State :=
  { s with cx := { s.cx with
      pc := s.cx.pc + 4, counting := false,
      drain := .suspended rd (explicitCause s.focus.pcl (s.cx.rg rs1)) ((s.cx.rg rs2).setWidth 32) (s.cx.pc + 4) } }

/-- What SUSPEND does once nothing holds it, by the fields of rs1. -/
theorem exec_suspend_of_issues {s : State} {rd rs1 rs2 : Reg} (h : Issues s (.suspend rd rs1 rs2)) (ht : s.cx.triple = false)
    (hy : s.cx.ystate = 0) (hk : (s.cx.rg rs1).toNat / 2 ^ 28 = 1 ∨ (s.cx.rg rs1).toNat / 2 ^ 28 = 3)
    (hthr : (s.cx.rg rs1).toNat / 2 ^ 28 = 1 → (s.cx.rg rs2).toNat < 2 ^ 32) {e : Option (BitVec 8)}
    (he : (if (s.cx.rg rs1).toNat / 2 ^ 28 = 1 then eventBad s s.cx.part s.focus.pcl ((s.cx.rg rs1).toNat % 2 ^ 16) else none) = e) :
    exec (.suspend rd rs1 rs2) s =
      .next (e.elim (s.suspending rd rs1 rs2) fun c => s.fault c (BitVec.ofNat 64 ((s.cx.rg rs1).toNat % 2 ^ 16))) := by
  have hkind : bitsOf (s.cx.rg rs1) 28 4 = (s.cx.rg rs1).toNat / 2 ^ 28 := by
    rw [bitsOf_eq]
    omega
  have hhigh : bitsOf (s.cx.rg rs1) 32 32 = 0 := by
    rw [bitsOf_eq]
    omega
  have hgood : (s.cx.ystate != 0 || bitsOf (s.cx.rg rs1) 32 32 != 0 || (bitsOf (s.cx.rg rs1) 28 4 != 1 && bitsOf (s.cx.rg rs1) 28 4 != 3) ||
      (decide (bitsOf (s.cx.rg rs1) 28 4 = 1) && decide (2 ^ 32 ≤ (s.cx.rg rs2).toNat))) = false := by
    rw [hkind, hhigh, hy]
    rcases hk with hk | hk
    · have := hthr hk
      rw [hk]
      simp only [decide_eq_false (show ¬ 2 ^ 32 ≤ (s.cx.rg rs2).toNat by omega)]
      rfl
    · rw [hk]
      rfl
  rw [exec_suspend, execSuspend, issue_of_issues h]
  simp only [ht, hgood, Bool.false_eq_true, if_false]
  simp only [hkind, bitsOf_zero, he]
  cases e <;> rfl

/-- Settles O26: the faults of SUSPEND, and its start. -/
theorem suspendWord : Obligations.SuspendWord := by
  intro s rd rs1 rs2 x v thr kind
  refine ⟨fun ht h => ?_, fun ht hbad h => ?_, fun ht hy hk hthr hid h => ?_, fun ht hy hk hthr e hid h => ?_, fun ht hy hk h => ?_⟩
  · have ht' : s.cx.triple = true := ht
    rw [exec_suspend, execSuspend, issue_of_issues h]
    simp only [ht', if_true]
    rfl
  · have ht' : s.cx.triple = false := ht
    have hb : (s.cx.ystate != 0 || bitsOf (s.cx.rg rs1) 32 32 != 0 ||
        (bitsOf (s.cx.rg rs1) 28 4 != 1 && bitsOf (s.cx.rg rs1) 28 4 != 3) ||
        (decide (bitsOf (s.cx.rg rs1) 28 4 = 1) && decide (2 ^ 32 ≤ (s.cx.rg rs2).toNat))) = true := by
      have hkind : kind = (s.cx.rg rs1).toNat / 2 ^ 28 := rfl
      have hv := (s.cx.rg rs1).isLt
      simp only [Bool.or_eq_true, Bool.and_eq_true, bne_iff_ne, ne_eq, decide_eq_true_eq, bitsOf_eq]
      rcases hbad with hy | ⟨h1, h3⟩ | ⟨h1, hthr⟩
      · exact .inl (.inl (.inl hy))
      · by_cases hhigh : (s.cx.rg rs1).toNat / 2 ^ 32 % 2 ^ 32 = 0
        · exact .inl (.inr (by omega))
        · exact .inl (.inl (.inr hhigh))
      · exact .inr ⟨by omega, hthr⟩
    rw [exec_suspend, execSuspend, issue_of_issues h]
    simp only [ht', hb, Bool.false_eq_true, if_false, if_true]
    rfl
  · exact exec_suspend_of_issues h ht hy (.inl hk) (fun _ => hthr) ((if_pos hk).trans hid)
  · exact exec_suspend_of_issues h ht hy (.inl hk) (fun _ => hthr) ((if_pos hk).trans hid)
  · have hk1 : ¬(s.cx.rg rs1).toNat / 2 ^ 28 = 1 := by
      have : (s.cx.rg rs1).toNat / 2 ^ 28 = 3 := hk
      omega
    exact exec_suspend_of_issues h ht hy (.inr hk) (fun h1 => absurd h1 hk1) (if_neg hk1)
end Sys2Proof.Machine
end
section
namespace Sys2Proof.Machine

/-! ### V words at issue (R20, R26, R159) -/

theorem exec_vadd (f : VF) (s : State) : exec (.vadd f) s = execVadd f s := rfl
theorem exec_vsub (f : VF) (s : State) : exec (.vsub f) s = execVsub f s := rfl
theorem exec_vmul (f : VF) (s : State) : exec (.vmul f) s = execVmul f s := rfl
theorem exec_vfma (f : VF) (s : State) : exec (.vfma f) s = execVfma f s := rfl
theorem exec_vfms (f : VF) (s : State) : exec (.vfms f) s = execVfms f s := rfl
theorem exec_vmin (f : VF) (s : State) : exec (.vmin f) s = execVmin f s := rfl
theorem exec_vmax (f : VF) (s : State) : exec (.vmax f) s = execVmax f s := rfl
theorem exec_vabs (f : VF) (s : State) : exec (.vabs f) s = execVabs f s := rfl
theorem exec_vneg (f : VF) (s : State) : exec (.vneg f) s = execVneg f s := rfl
theorem exec_vcpy (f : VF) (s : State) : exec (.vcpy f) s = execVcpy f s := rfl
theorem exec_vbcst (f : VF) (s : State) : exec (.vbcst f) s = execVbcst f s := rfl
theorem exec_vscl (f : VF) (s : State) : exec (.vscl f) s = execVscl f s := rfl
theorem exec_viadd (f : VF) (s : State) : exec (.viadd f) s = execViadd f s := rfl
theorem exec_visub (f : VF) (s : State) : exec (.visub f) s = execVisub f s := rfl
theorem exec_vimul (f : VF) (s : State) : exec (.vimul f) s = execVimul f s := rfl
theorem exec_vimulh (f : VF) (s : State) : exec (.vimulh f) s = execVimulh f s := rfl
theorem exec_vimad (f : VF) (s : State) : exec (.vimad f) s = execVimad f s := rfl
theorem exec_vimin (f : VF) (s : State) : exec (.vimin f) s = execVimin f s := rfl
theorem exec_vimax (f : VF) (s : State) : exec (.vimax f) s = execVimax f s := rfl
theorem exec_viabs (f : VF) (s : State) : exec (.viabs f) s = execViabs f s := rfl
theorem exec_vclz (f : VF) (s : State) : exec (.vclz f) s = execVclz f s := rfl
theorem exec_vpopc (f : VF) (s : State) : exec (.vpopc f) s = execVpopc f s := rfl
theorem exec_vand (f : VF) (s : State) : exec (.vand f) s = execVand f s := rfl
theorem exec_vor (f : VF) (s : State) : exec (.vor f) s = execVor f s := rfl
theorem exec_vxor (f : VF) (s : State) : exec (.vxor f) s = execVxor f s := rfl
theorem exec_vlut3 (f : VF) (s : State) : exec (.vlut3 f) s = execVlut3 f s := rfl
theorem exec_vshl (f : VF) (s : State) : exec (.vshl f) s = execVshl f s := rfl
theorem exec_vshr (f : VF) (s : State) : exec (.vshr f) s = execVshr f s := rfl
theorem exec_vsar (f : VF) (s : State) : exec (.vsar f) s = execVsar f s := rfl
theorem exec_vrot (f : VF) (s : State) : exec (.vrot f) s = execVrot f s := rfl
theorem exec_vfshl (f : VF) (s : State) : exec (.vfshl f) s = execVfshl f s := rfl
theorem exec_vfshr (f : VF) (s : State) : exec (.vfshr f) s = execVfshr f s := rfl
theorem exec_vcmp (f : VF) (s : State) : exec (.vcmp f) s = execVcmp f s := rfl
theorem exec_vsel (f : VF) (s : State) : exec (.vsel f) s = execVsel f s := rfl
theorem exec_mand (f : VF) (s : State) : exec (.mand f) s = execMand f s := rfl
theorem exec_mor (f : VF) (s : State) : exec (.mor f) s = execMor f s := rfl
theorem exec_mxor (f : VF) (s : State) : exec (.mxor f) s = execMxor f s := rfl
theorem exec_mnot (f : VF) (s : State) : exec (.mnot f) s = execMnot f s := rfl
theorem exec_mcnt (f : VF) (s : State) : exec (.mcnt f) s = execMcnt f s := rfl
theorem exec_mfirst (f : VF) (s : State) : exec (.mfirst f) s = execMfirst f s := rfl
theorem exec_vcvt (f : VF) (s : State) : exec (.vcvt f) s = execVcvt f s := rfl
theorem exec_vqnt (f : VF) (s : State) : exec (.vqnt f) s = execVqnt f s := rfl
theorem exec_vdq (f : VF) (s : State) : exec (.vdq f) s = execVdq f s := rfl
theorem exec_vretag (f : VF) (s : State) : exec (.vretag f) s = execVretag f s := rfl
theorem exec_vrcp (f : VF) (s : State) : exec (.vrcp f) s = execVrcp f s := rfl
theorem exec_vrsq (f : VF) (s : State) : exec (.vrsq f) s = execVrsq f s := rfl
theorem exec_vsqrt (f : VF) (s : State) : exec (.vsqrt f) s = execVsqrt f s := rfl
theorem exec_vdiv (f : VF) (s : State) : exec (.vdiv f) s = execVdiv f s := rfl
theorem exec_vexp2 (f : VF) (s : State) : exec (.vexp2 f) s = execVexp2 f s := rfl
theorem exec_vlog2 (f : VF) (s : State) : exec (.vlog2 f) s = execVlog2 f s := rfl
theorem exec_vtanh (f : VF) (s : State) : exec (.vtanh f) s = execVtanh f s := rfl
theorem exec_vrsum (f : VF) (s : State) : exec (.vrsum f) s = execVrsum f s := rfl
theorem exec_vrmax (f : VF) (s : State) : exec (.vrmax f) s = execVrmax f s := rfl
theorem exec_vrmin (f : VF) (s : State) : exec (.vrmin f) s = execVrmin f s := rfl
theorem exec_vramax (f : VF) (s : State) : exec (.vramax f) s = execVramax f s := rfl
theorem exec_vscan (f : VF) (s : State) : exec (.vscan f) s = execVscan f s := rfl
theorem exec_vcsum (f : VF) (s : State) : exec (.vcsum f) s = execVcsum f s := rfl
theorem exec_vperm (f : VF) (s : State) : exec (.vperm f) s = execVperm f s := rfl
theorem exec_vshuf (f : VF) (s : State) : exec (.vshuf f) s = execVshuf f s := rfl
theorem exec_vtrn (f : VF) (s : State) : exec (.vtrn f) s = execVtrn f s := rfl
theorem exec_vrgath (f : VF) (s : State) : exec (.vrgath f) s = execVrgath f s := rfl
theorem exec_vrscat (f : VF) (s : State) : exec (.vrscat f) s = execVrscat f s := rfl
theorem exec_vtopk (f : VF) (s : State) : exec (.vtopk f) s = execVtopk f s := rfl
theorem exec_vsample (f : VF) (s : State) : exec (.vsample f) s = execVsample f s := rfl
theorem exec_vld (f : VF) (s : State) : exec (.vld f) s = execVld f s := rfl
theorem exec_vst (f : VF) (s : State) : exec (.vst f) s = execVst f s := rfl
theorem exec_vldx (f : VF) (s : State) : exec (.vldx f) s = execVldx f s := rfl
theorem exec_vstx (f : VF) (s : State) : exec (.vstx f) s = execVstx f s := rfl
theorem exec_mld (f : VF) (s : State) : exec (.mld f) s = execMld f s := rfl
theorem exec_mst (f : VF) (s : State) : exec (.mst f) s = execMst f s := rfl

/-- The granule operands of a V word with their strides. -/
def vOps (op : VOp) (f : VF) : List (Nat × Nat) :=
  match op with
  | .vabs | .vneg | .vscl | .vcpy | .viabs | .vclz | .vpopc | .vrcp | .vrsq | .vsqrt | .vexp2 | .vlog2 | .vtanh | .vrsum | .vrmax | .vrmin
  | .vramax | .vscan | .vcsum | .vtrn | .vdq => [opA f, opD f]
  | .vbcst => if f.bs then [opD f] else [opA f, opD f]
  | .vcmp => if f.bs then [opA f] else [opA f, opB f]
  | .mand | .mor | .mxor | .mnot | .mcnt | .mfirst => []
  | .vcvt | .vqnt => if f.rnd = .sr then [opA f, opB f, opD f] else [opA f, opD f]
  | .vretag => [opD f]
  | .vperm | .vshuf | .vtopk => [opA f, opB f, opD f]
  | .vrgath => [opB f, opD f]
  | .vrscat => [opA f, opB f]
  | _ => opsABD f

/-- Its single granule. -/
def vExtra (op : VOp) (f : VF) : List Nat :=
  match op with
  | .vqnt | .vdq => [scaleG f]
  | _ => []

/-- The mask that a V word captures. -/
def vCaptures (op : VOp) (f : VF) (x : Context) : Mask :=
  match op with
  | .mand => x.mreg f.va.toNat &&& x.mreg f.vb.toNat
  | .mor => x.mreg f.va.toNat ||| x.mreg f.vb.toNat
  | .mxor => x.mreg f.va.toNat ^^^ x.mreg f.vb.toNat
  | .mnot => ~~~x.mreg f.va.toNat
  | .mcnt | .mfirst => x.mreg f.va.toNat
  | _ => x.mreg f.mask.toNat

/-- Every V word issues in one way. -/
theorem exec_ofV (op : VOp) (f : VF) (s : State) (h : op.isL = false) :
    exec (Instr.ofV op f) s = issueV (Instr.ofV op f) f (vOps op f) (vExtra op f) (vCaptures op f) s := by
  cases op with
  | vadd => exact exec_vadd f s
  | vsub => exact exec_vsub f s
  | vmul => exact exec_vmul f s
  | vfma => exact exec_vfma f s
  | vfms => exact exec_vfms f s
  | vmin => exact exec_vmin f s
  | vmax => exact exec_vmax f s
  | vabs => exact exec_vabs f s
  | vneg => exact exec_vneg f s
  | vcpy => exact exec_vcpy f s
  | vbcst => exact exec_vbcst f s
  | vscl => exact exec_vscl f s
  | viadd => exact exec_viadd f s
  | visub => exact exec_visub f s
  | vimul => exact exec_vimul f s
  | vimulh => exact exec_vimulh f s
  | vimad => exact exec_vimad f s
  | vimin => exact exec_vimin f s
  | vimax => exact exec_vimax f s
  | viabs => exact exec_viabs f s
  | vclz => exact exec_vclz f s
  | vpopc => exact exec_vpopc f s
  | vand => exact exec_vand f s
  | vor => exact exec_vor f s
  | vxor => exact exec_vxor f s
  | vlut3 => exact exec_vlut3 f s
  | vshl => exact exec_vshl f s
  | vshr => exact exec_vshr f s
  | vsar => exact exec_vsar f s
  | vrot => exact exec_vrot f s
  | vfshl => exact exec_vfshl f s
  | vfshr => exact exec_vfshr f s
  | vcmp => exact exec_vcmp f s
  | vsel => exact exec_vsel f s
  | mand => exact exec_mand f s
  | mor => exact exec_mor f s
  | mxor => exact exec_mxor f s
  | mnot => exact exec_mnot f s
  | mcnt => exact exec_mcnt f s
  | mfirst => exact exec_mfirst f s
  | vcvt => exact exec_vcvt f s
  | vqnt => exact exec_vqnt f s
  | vdq => exact exec_vdq f s
  | vretag => exact exec_vretag f s
  | vrcp => exact exec_vrcp f s
  | vrsq => exact exec_vrsq f s
  | vsqrt => exact exec_vsqrt f s
  | vdiv => exact exec_vdiv f s
  | vexp2 => exact exec_vexp2 f s
  | vlog2 => exact exec_vlog2 f s
  | vtanh => exact exec_vtanh f s
  | vrsum => exact exec_vrsum f s
  | vrmax => exact exec_vrmax f s
  | vrmin => exact exec_vrmin f s
  | vramax => exact exec_vramax f s
  | vscan => exact exec_vscan f s
  | vcsum => exact exec_vcsum f s
  | vperm => exact exec_vperm f s
  | vshuf => exact exec_vshuf f s
  | vtrn => exact exec_vtrn f s
  | vrgath => exact exec_vrgath f s
  | vrscat => exact exec_vrscat f s
  | vtopk => exact exec_vtopk f s
  | vsample => exact exec_vsample f s
  | vld => exact absurd h Bool.false_ne_true.symm
  | vst => exact absurd h Bool.false_ne_true.symm
  | vldx => exact absurd h Bool.false_ne_true.symm
  | vstx => exact absurd h Bool.false_ne_true.symm
  | mld => exact absurd h Bool.false_ne_true.symm
  | mst => exact absurd h Bool.false_ne_true.symm

/-- The granule operands of a V word are among its three. -/
theorem mem_vOps {op : VOp} {f : VF} {o : Nat × Nat} (h : o ∈ vOps op f) : o = opA f ∨ o = opB f ∨ o = opD f := by
  unfold vOps opsABD at h
  split at h
  all_goals
    repeat' split at h
    all_goals simp only [List.mem_cons, List.not_mem_nil, or_false] at h <;> tauto

theorem mem_vExtra {op : VOp} {f : VF} {g : Nat} (h : g ∈ vExtra op f) : g = scaleG f := by
  unfold vExtra at h
  split at h
  · exact List.mem_singleton.mp h
  · exact List.mem_singleton.mp h
  · exact absurd h List.not_mem_nil

/-- Operands whose granules of every row lie in the window pass the check. -/
theorem rowCheck_none {wsize rows : Nat} {ops : List (Nat × Nat)} (h : ∀ o ∈ ops, ∀ j < rows, o.1 + j * o.2 < wsize) :
    rowCheck wsize rows ops = none := by
  rw [rowCheck, List.find?_eq_none]
  intro g hg
  obtain ⟨j, hj, hg⟩ := List.mem_flatMap.mp hg
  obtain ⟨o, ho, rfl⟩ := List.mem_map.mp hg
  simpa using h o ho j (List.mem_range.mp hj)

theorem badMask_none {x : Context} {i : Instr} (h : x.mbad = 0) : badMask x i = none := by
  rw [badMask, List.find?_eq_none]
  intro m _
  simp [h]

/-- A V word that issue accepts enters the V queue. -/
theorem completes_issueV {i : Instr} {f : VF} {ops : List (Nat × Nat)} {extra : List Nat} {m : Context → Mask} {s : State}
    (hexec : exec i s = issueV i f ops extra m s) (hops : rowCheck s.cx.wsize (shapeRows s.cx.vshape) ops = none)
    (hextra : ∀ g ∈ extra, g < s.cx.wsize) (hmask : s.cx.mbad = 0) :
    Completes i s (s.queued .v i 3 (if f.bs then s.cx.rg (f.vb.setWidth 5) else 0) 0 0 (m s.cx)) := by
  intro h
  have hx : (extra.find? fun g => decide (s.cx.wsize ≤ g)) = none := List.find?_eq_none.mpr fun g hg => by simpa using hextra g hg
  simp only [hexec, issueV, issue_of_issues h, hops, hx, Option.or_none, badMask_none hmask]
  rfl

/-- A V word one of whose granules lies outside the window. -/
theorem faults_issueV_window {i : Instr} {f : VF} {ops : List (Nat × Nat)} {m : Context → Mask} {s : State} {g : Nat}
    (hexec : exec i s = issueV i f ops [] m s) (hops : rowCheck s.cx.wsize (shapeRows s.cx.vshape) ops = some g) :
    Faults i s 0x06 (BitVec.ofNat 64 g) := by
  intro h
  simp only [hexec, issueV, issue_of_issues h, hops, Option.some_or]
  rfl

theorem faults_issueV_mask {i : Instr} {f : VF} {ops : List (Nat × Nat)} {m : Context → Mask} {s : State} {k : Nat}
    (hexec : exec i s = issueV i f ops [] m s) (hops : rowCheck s.cx.wsize (shapeRows s.cx.vshape) ops = none)
    (hmask : badMask s.cx i = some k) : Faults i s 0x0E (BitVec.ofNat 64 k) := by
  intro h
  simp only [hexec, issueV, issue_of_issues h, hops, List.find?_nil, Option.or_none, hmask]
  rfl

/-- The first entry of a list that lies outside is the one that is found. -/
theorem find?_of_first {l : List Nat} {n k g : Nat} (hk : l[k]? = some g) (hg : n ≤ g) (hbefore : ∀ h ∈ l.take k, h < n) :
    (l.find? fun g => decide (n ≤ g)) = some g := by
  induction l generalizing k with
  | nil => exact absurd hk (by simp)
  | cons a l ih =>
    cases k with
    | zero =>
      obtain rfl : a = g := by simpa using hk
      simp [hg]
    | succ k =>
      have ha : a < n := hbefore a (by simp)
      rw [List.find?_cons_of_neg (by simpa using ha)]
      exact ih (by simpa using hk) fun h hh => hbefore h (by simp [hh])

/-- The words of two granule operands and a granule destination. -/
theorem threeOperands {op : VOp} {f : VF} (hb : f.bs = false)
    (h : op ∈ [VOp.vadd, .vsub, .vmul, .vfma, .vfms, .vmin, .vmax, .viadd, .visub, .vimul, .vimulh, .vimad, .vimin, .vimax, .vand, .vor, .vxor,
      .vlut3, .vshl, .vshr, .vsar, .vrot, .vfshl, .vfshr, .vsel, .vdiv]) :
    op.isL = false ∧ vOps op f = [opA f, opB f, opD f] ∧ vExtra op f = [] ∧ maskReads (Instr.ofV op f) = [f.mask.toNat] := by
  have hABD : opsABD f = [opA f, opB f, opD f] := if_neg (hb ▸ Bool.false_ne_true)
  simp only [List.mem_cons, List.not_mem_nil, or_false] at h
  rcases h with rfl | rfl | rfl | rfl | rfl | rfl | rfl | rfl | rfl | rfl | rfl | rfl | rfl | rfl | rfl | rfl | rfl | rfl | rfl | rfl | rfl |
    rfl | rfl | rfl | rfl | rfl
  all_goals exact ⟨rfl, hABD, rfl, rfl⟩

/-- Settles O27: the queue entry, the first granule outside the window, the poisoned mask. -/
theorem vectorWordsIssue : Obligations.VectorWordsIssue := by
  refine ⟨fun op f s hop => ?_, fun op f s hb hop => ?_⟩
  · intro x inside m hA hB hD himm hmask
    have hops : rowCheck s.cx.wsize (shapeRows s.cx.vshape) (vOps op f) = none := by
      refine rowCheck_none fun o ho => ?_
      rcases mem_vOps ho with rfl | rfl | rfl
      · exact hA
      · exact hB
      · exact hD
    exact completes_issueV (exec_ofV op f s hop) hops (fun g hg => (mem_vExtra hg).symm ▸ himm) hmask
  · intro inside grans
    obtain ⟨hL, hoper, hextra, hreads⟩ := threeOperands hb hop
    have hexec := exec_ofV op f s hL
    rw [hoper, hextra] at hexec
    refine ⟨fun k g hk hg hbefore => ?_, fun hA hB hD hm hbad => ?_⟩
    · exact faults_issueV_window hexec (find?_of_first hk hg hbefore)
    · have hops : rowCheck s.cx.wsize (shapeRows s.cx.vshape) [opA f, opB f, opD f] = none := by
        refine rowCheck_none fun o ho => ?_
        simp only [List.mem_cons, List.not_mem_nil, or_false] at ho
        rcases ho with rfl | rfl | rfl
        · exact hA
        · exact hB
        · exact hD
      have hne : f.mask.toNat ≠ 0 := fun h => hm (BitVec.eq_of_toNat_eq h)
      have hbm : badMask s.cx (Instr.ofV op f) = some f.mask.toNat := by
        rw [badMask, hreads]
        simp [hne, hbad]
      have heq : BitVec.ofNat 64 f.mask.toNat = f.mask.setWidth 64 := BitVec.eq_of_toNat_eq (by simp)
      exact heq ▸ faults_issueV_mask hexec hops hbm

/-! ### The vector memory words at issue (R156, R157) -/

theorem exec_vld_form (f : VF) (s : State) :
    exec (.vld f) s = issueVM (.vld f) f [opD f] (vldChecks f 1) true (fun _ => 0) (govMask f) s := exec_vld f s
theorem exec_vst_form (f : VF) (s : State) :
    exec (.vst f) s = issueVM (.vst f) f [opD f] (vldChecks f 2) true (fun _ => 0) (govMask f) s := exec_vst f s
theorem exec_vldx_form (f : VF) (s : State) :
    exec (.vldx f) s = issueVM (.vldx f) f [opB f, opD f] (fun _ => []) false (fun _ => 0) (govMask f) s := exec_vldx f s
theorem exec_vstx_form (f : VF) (s : State) :
    exec (.vstx f) s = issueVM (.vstx f) f [opB f, opD f] (fun _ => []) false (fun _ => 0) (govMask f) s := exec_vstx f s
theorem exec_mld_form (f : VF) (s : State) :
    exec (.mld f) s = issueVM (.mld f) f [] (mldChecks f 1) true (fun _ => 0) (fun _ => 0) s := exec_mld f s
theorem exec_mst_form (f : VF) (s : State) :
    exec (.mst f) s = issueVM (.mst f) f [] (mldChecks f 2) true (fun x => b2w (f.vd != 0 && x.mbad.getLsbD f.vd.toNat))
      (fun x => x.mreg f.vd.toNat) s := exec_mst f s

/-- A vector memory word that issue accepts enters the L queue. -/
theorem completes_issueVM {i : Instr} {f : VF} {ops : List (Nat × Nat)} {rows : Context → List (Option Flt)} {stride : Bool} {d : Context → Word}
    {m : Context → Mask} {s : State} (hexec : exec i s = issueVM i f ops rows stride d m s)
    (hops : ∀ o ∈ ops, ∀ j < shapeRows s.cx.vshape, o.1 + j * o.2 < s.cx.wsize) (hmask : s.cx.mbad = 0) (hrows : ∀ e ∈ rows s.cx, e = none)
    {b w : Word} {k : Mask} (hb : (if stride then s.cx.rg (f.vb.setWidth 5) else 0) = b) (hd : d s.cx = w) (hk : m s.cx = k) :
    Completes i s (s.queued .l i 3 (s.cx.rg (f.va.setWidth 5)) b w k) := by
  intro h
  subst hb hd hk
  have hlow : lowestWatch (rows s.cx) = none := by
    have : (rows s.cx).findSome? id = none := List.findSome?_eq_none_iff.mpr hrows
    rw [lowestWatch, this]
  have hm : (f.mask != 0 && s.cx.mbad.getLsbD f.mask.toNat) = false := by simp [hmask]
  simp only [hexec, issueVM, issue_of_issues h, rowCheck_none hops, hm, Bool.false_eq_true, if_false, hlow]
  rfl

/-- Settles O31: each word enters the L queue with what it captures. -/
theorem vectorMemoryWordsQueue : Obligations.VectorMemoryWordsQueue := by
  intro f s x base stride m inside good
  have hone (o : Nat × Nat) (ho : inside o) : ∀ p ∈ [o], inside p := fun p hp => (List.mem_singleton.mp hp).symm ▸ ho
  have htwo (o q : Nat × Nat) (ho : inside o) (hq : inside q) : ∀ p ∈ [o, q], inside p := by
    intro p hp
    rcases List.mem_pair.mp hp with rfl | rfl
    · exact ho
    · exact hq
  have hno : ∀ p ∈ ([] : List (Nat × Nat)), inside p := fun p hp => absurd hp List.not_mem_nil
  have hnil : good [] := fun e he => absurd he List.not_mem_nil
  refine ⟨fun hD hm hg => ?_, fun hD hm hg => ?_, fun hD hB hm => ?_, fun hD hB hm => ?_, fun hm hg => ?_, fun hm hg => ?_⟩
  · exact completes_issueVM (exec_vld_form f s) (hone _ hD) hm hg rfl rfl rfl
  · exact completes_issueVM (exec_vst_form f s) (hone _ hD) hm hg rfl rfl rfl
  · exact completes_issueVM (exec_vldx_form f s) (htwo _ _ hB hD) hm hnil rfl rfl rfl
  · exact completes_issueVM (exec_vstx_form f s) (htwo _ _ hB hD) hm hnil rfl rfl rfl
  · exact completes_issueVM (exec_mld_form f s) hno hm hg rfl rfl rfl
  · have hd : b2w (f.vd != 0 && s.cx.mbad.getLsbD f.vd.toNat) = 0 := by
      rw [show s.cx.mbad = 0 from hm]
      simp [b2w]
    exact completes_issueVM (exec_mst_form f s) hno hm hg rfl hd rfl

/-! ### ENG words at issue (R54, R266) -/

theorem exec_engCopy (f : EF) (s : State) : exec (.engCopy f) s = execEngCopy f s := rfl
theorem exec_engFill (f : EF) (s : State) : exec (.engFill f) s = execEngFill f s := rfl
theorem exec_engRefresh (f : EF) (s : State) : exec (.engRefresh f) s = execEngRefresh f s := rfl
theorem exec_engGather (f : EF) (s : State) : exec (.engGather f) s = execEngGather f s := rfl
theorem exec_engScatter (f : EF) (s : State) : exec (.engScatter f) s = execEngScatter f s := rfl
theorem exec_engScatteradd (f : EF) (s : State) : exec (.engScatteradd f) s = execEngScatteradd f s := rfl
theorem exec_engColl (f : EF) (s : State) : exec (.engColl f) s = execEngColl f s := rfl
theorem exec_engFamo (f : EF) (s : State) : exec (.engFamo f) s = execEngFamo f s := rfl
theorem exec_engFcas (f : EF) (s : State) : exec (.engFcas f) s = execEngFcas f s := rfl
theorem exec_engEvsig (f : EF) (s : State) : exec (.engEvsig f) s = execEngEvsig f s := rfl
theorem exec_engTwset (f : EF) (s : State) : exec (.engTwset f) s = execEngTwset f s := rfl
theorem exec_engTwclr (f : EF) (s : State) : exec (.engTwclr f) s = execEngTwclr f s := rfl
theorem exec_engTwbud (f : EF) (s : State) : exec (.engTwbud f) s = execEngTwbud f s := rfl
theorem exec_engTkcmt (f : EF) (s : State) : exec (.engTkcmt f) s = execEngTkcmt f s := rfl
theorem exec_engTkconf (f : EF) (s : State) : exec (.engTkconf f) s = execEngTkconf f s := rfl
theorem exec_engTkrej (f : EF) (s : State) : exec (.engTkrej f) s = execEngTkrej f s := rfl
theorem exec_engTwstat (f : EF) (s : State) : exec (.engTwstat f) s = execEngTwstat f s := rfl
theorem exec_engSeqopen (f : EF) (s : State) : exec (.engSeqopen f) s = execEngSeqopen f s := rfl
theorem exec_engSeqclose (f : EF) (s : State) : exec (.engSeqclose f) s = execEngSeqclose f s := rfl
theorem exec_engWswap (f : EF) (s : State) : exec (.engWswap f) s = execEngWswap f s := rfl
theorem exec_engWstat (f : EF) (s : State) : exec (.engWstat f) s = execEngWstat f s := rfl
theorem exec_engCqry (f : EF) (s : State) : exec (.engCqry f) s = execEngCqry f s := rfl

/-- The ENG words. -/
def engWords (f : EF) : List Instr :=
  [.engCopy f, .engFill f, .engRefresh f, .engGather f, .engScatter f, .engScatteradd f, .engColl f, .engFamo f, .engFcas f, .engEvsig f,
    .engTwset f, .engTwclr f, .engTwbud f, .engTkcmt f, .engTkconf f, .engTkrej f, .engTwstat f, .engSeqopen f, .engSeqclose f, .engWswap f,
    .engWstat f, .engCqry f]

/-- Every ENG word issues in one way. -/
theorem exec_engWord {f : EF} {i : Instr} (h : i ∈ engWords f) (s : State) : exec i s = engWord i f s := by
  simp only [engWords, List.mem_cons, List.not_mem_nil, or_false] at h
  rcases h with rfl | rfl | rfl | rfl | rfl | rfl | rfl | rfl | rfl | rfl | rfl | rfl | rfl | rfl | rfl | rfl | rfl | rfl | rfl | rfl | rfl | rfl
  · exact exec_engCopy f s
  · exact exec_engFill f s
  · exact exec_engRefresh f s
  · exact exec_engGather f s
  · exact exec_engScatter f s
  · exact exec_engScatteradd f s
  · exact exec_engColl f s
  · exact exec_engFamo f s
  · exact exec_engFcas f s
  · exact exec_engEvsig f s
  · exact exec_engTwset f s
  · exact exec_engTwclr f s
  · exact exec_engTwbud f s
  · exact exec_engTkcmt f s
  · exact exec_engTkconf f s
  · exact exec_engTkrej f s
  · exact exec_engTwstat f s
  · exact exec_engSeqopen f s
  · exact exec_engSeqclose f s
  · exact exec_engWswap f s
  · exact exec_engWstat f s
  · exact exec_engCqry f s

theorem completes_engWord {f : EF} {i : Instr} {s : State} (hexec : exec i s = engWord i f s)
    (hcheck : engIssueCheck s (fnOf i) (s.cx.rg f.rs1) (s.cx.rg f.rs2) = none) :
    Completes i s ((s.queued .e i 1 (s.cx.rg f.rs1) (s.cx.rg f.rs2) 0 0).onCx fun y =>
      if f.wait then { y with hold := .command s.cx.qe.issued.toNat } else y) := by
  intro h
  simp only [hexec, engWord, issue_of_issues h, hcheck]
  rfl

theorem faults_engWord {f : EF} {i : Instr} {s : State} {c : BitVec 8} {v : Word} (hexec : exec i s = engWord i f s)
    (hcheck : engIssueCheck s (fnOf i) (s.cx.rg f.rs1) (s.cx.rg f.rs2) = some (c, v)) : Faults i s c v := by
  intro h
  simp only [hexec, engWord, issue_of_issues h, hcheck]
  rfl

/-- Where the record of a function that takes one may lie. -/
theorem engIssueCheck_record {s : State} {fn : Nat} {a b : Word} (h : hasRecord fn = true) :
    ((∀ o, placeOf s.cx.wsize a ≠ some (.win o)) → engIssueCheck s fn a b = some (0x06, a)) ∧
      (∀ o, placeOf s.cx.wsize a = some (.win o) → a.toNat % 256 ≠ 0 → engIssueCheck s fn a b = some (0x07, a)) := by
  refine ⟨fun hw => ?_, fun o ho hmis => ?_⟩
  · rw [engIssueCheck, if_pos h]
    split
    · exact absurd ‹_› (hw _)
    · rfl
  · rw [engIssueCheck, if_pos h, ho]
    simp only [bne_iff_ne, ne_eq, hmis, not_false_eq_true, if_true]

theorem engRecord_words {f : EF} {i : Instr} (h : i ∈ [Instr.engCopy f, .engFill f, .engRefresh f, .engGather f, .engScatter f, .engScatteradd f,
    .engColl f, .engFamo f, .engFcas f, .engTwset f, .engSeqopen f, .engWswap f]) : i ∈ engWords f ∧ hasRecord (fnOf i) = true := by
  simp only [List.mem_cons, List.not_mem_nil, or_false] at h
  rcases h with rfl | rfl | rfl | rfl | rfl | rfl | rfl | rfl | rfl | rfl | rfl | rfl
  all_goals exact ⟨by simp [engWords], rfl⟩

/-- Settles O33: the E queue, and where a record may lie. -/
theorem engineWords : Obligations.EngineWords := by
  constructor
  · intro f s x a b i hi hcheck
    exact completes_engWord (exec_engWord hi s) hcheck
  · intro f s a i hi
    obtain ⟨hmem, hrec⟩ := engRecord_words hi
    obtain ⟨hout, hmis⟩ := engIssueCheck_record (s := s) (a := s.cx.rg f.rs1) (b := s.cx.rg f.rs2) hrec
    exact ⟨fun hw => faults_engWord (exec_engWord hmem s) (hout hw), fun o ho ha => faults_engWord (exec_engWord hmem s) (hmis o ho ha)⟩

end Sys2Proof.Machine
end
section
namespace Sys2Proof.Machine

/-! ### V words start and finish (R30, R123 to R125) -/

theorem popField_ofV (op : VOp) (f : VF) : popField (Instr.ofV op f) = f.pop := by cases op <;> rfl
theorem pushField_ofV (op : VOp) (f : VF) : pushField (Instr.ofV op f) = f.push := by cases op <;> rfl

theorem named_zero (g : Eng) : named g 0 = [] := by cases g <;> rfl

theorem popsOf_zero {g : Eng} {i : Instr} (h : popField i = 0) : popsOf g i = [] := by rw [popsOf, h, named_zero, List.map_nil]
theorem pushesOf_zero {g : Eng} {i : Instr} (h : pushField i = 0) : pushesOf g i = [] := by rw [pushesOf, h, named_zero, List.map_nil]

/-- Every V word has its frame. -/
theorem vwordOf_ofV {op : VOp} {f : VF} {i : Item} (hi : i.ins = Instr.ofV op f) (h : op.isL = false) : ∃ w, vwordOf i = some w := by
  rw [← Option.isSome_iff_exists]
  unfold vwordOf
  rw [hi]
  cases op with
  | vld | vst | vldx | vstx | mld | mst => exact absurd h Bool.false_ne_true.symm
  | _ => rfl

/-- The end of a wait that the context has not open changes nothing. -/
theorem State.waitEnd_none {s : State} {c : CtxLoc} {unit : Nat} {b : BitVec 8} (h : tfind (s.ctxAt c).waits unit = none) :
    s.waitEnd c unit b = s := by
  rw [State.waitEnd, h]

/-- Settles O30: the word is under way, and nothing else has changed. -/
theorem vectorWordStarts : Obligations.VectorWordStarts := by
  intro s c op f i r x hinv hok hon hdroop hitems hphase hins hL hpop hown hwait
  obtain ⟨w, hw⟩ := vwordOf_ofV hins hL
  have hpops : popsOf .v i.ins = [] := popsOf_zero (by rw [hins, popField_ofV, hpop])
  have hempty : emptyPop x .v i.ins = none := by rw [emptyPop, hpops, List.find?_nil]
  have howned : ((vGrans x i).find? fun g => (x.gran g).owner) = none := List.find?_eq_none.mpr fun g hg => by simp [hown g hg]
  have htake : takeTokens x .v i = (none, x) := by
    rw [takeTokens, hphase, hpops]
    rfl
  let t := s.setCtx c { x with qv := { x.qv with items := { i with
        phase := .going, left := 0, time := 0, pend := [], vis := [], lost := 0, target := none } :: r, started := x.qv.started + 1 } }
  have hleft : (if w.late = true then 0 else 0) = 0 := ite_self 0
  have hstart : startV c s = if isPermute i.ins then t.setSub c.pcl c.sub { t.subAt c.pcl c.sub with xlog := [] } else t := by
    have hitems' : (s.ctxAt c).qv.items = i :: r := hitems
    have hstep : startStep i = some (true, 0) := by rw [startStep, hphase]
    have hwait' : tfind (s.ctxAt c).waits 0 = none := hwait
    have hempty' : emptyPop (s.ctxAt c) .v i.ins = none := hempty
    have howned' : ((vGrans (s.ctxAt c) i).find? fun g => ((s.ctxAt c).gran g).owner) = none := howned
    have htake' : takeTokens (s.ctxAt c) .v i = (none, s.ctxAt c) := htake
    simp only [startV, hitems', hstep, hw, hon, hdroop, Bool.not_true, Bool.or_self, Bool.false_eq_true, if_false, if_true, hempty', howned',
      State.waitEnd_none hwait', htake', hleft]
    rfl
  have hexec : exec (.vWordStart c) s = .next (startV c s) := atCtx_of_ok hok
  refine ⟨startV c s, hexec, ?_, ?_⟩
  · rw [hstart]
    split
    · exact State.ctxAt_setCtx_same hinv.others c _
    · exact State.ctxAt_setCtx_same hinv.others c _
  · have ht : t.mem = s.mem := by simp [t]
    rw [hstart]
    split
    · exact ht
    · exact ht

/-! ### A V word of one row -/

/-- The context after the writes of the one row of a word. -/
def VWord.written (w : VWord) (x : Context) : Context := (w.row x 0).writes.foldl Context.make x

/-- The flags that the one row of a word brings. -/
def VWord.brings (w : VWord) (x : Context) : Word := flagsIn ((w.row x 0).writes ++ [.flags ((w.row x 0).flags.setWidth 64)])

/-- The context after a word of one row that pushes nothing. -/
def VWord.finished (w : VWord) (x : Context) (i : Item) : Context :=
  { w.written x with
      fpflags := x.fpflags ||| (i.val ||| w.brings x),
      qv := { (w.written x).qv with items := (w.written x).qv.items.drop 1, finished := (w.written x).qv.finished + 1 } }

/-- A word without writes pending reads its row: the writes then wait for their cycle. -/
theorem VWord.step_row {w : VWord} {r : VRun} (hfault : r.fault = none) (htarget : r.target = none) (hpend : r.pend = []) (hlate : w.late = false)
    (hcheck : w.check r.x 0 = none) (hrow : (w.row r.x 0).fault = none) (hown : (w.row r.x 0).target = none) :
    ∃ n m, w.step 0 r 0 =
      { r with pend := [(n, 0, (w.row r.x 0).writes ++ [.flags ((w.row r.x 0).flags.setWidth 64)])], next := 1, t := m } := by
  have hdue : r.due w.sees = r := by
    cases r
    cases hpend
    rfl
  have hseen : w.seen r 0 = r.x := by rw [VWord.seen, hlate, if_neg Bool.false_ne_true]
  have hopen : (r.fault.isSome || r.target.isSome) = false := by rw [hfault, htarget]; rfl
  simp only [VWord.step, hopen, Bool.false_eq_true, if_false, hdue, hcheck, hseen, hrow, hown, hpend, List.nil_append, hlate]
  exact ⟨_, _, rfl⟩

/-- The context when every pending write of a run has been made. -/
theorem VRun.flush_one (r : VRun) (n : Nat) (ws : List VWrite) (v : Word) (hpend : r.pend = [(n, 0, ws ++ [.flags v])]) :
    r.flush.x = ws.foldl Context.make r.x ∧ r.flush.flags = r.flags ||| flagsIn (ws ++ [.flags v]) := by
  have hx : r.flush.x = (ws ++ [VWrite.flags v]).foldl Context.make r.x := by
    rw [VRun.flush, VRun.make, hpend]
    rfl
  have hf : r.flush.flags = r.flags ||| flagsIn (ws ++ [.flags v]) := by
    rw [VRun.flush, VRun.make, hpend]
    rfl
  refine ⟨?_, hf⟩
  rw [hx, List.foldl_append]
  rfl

/-- A word under way pushes nothing and leaves the queue. -/
theorem finishHead_silent {s : State} {g : Eng} {c : CtxLoc} {i : Item} (hinv : s.Inv) (x : Context) :
    finishHead g c i [] (s.setCtx c x) =
      s.setCtx c (x.setQueue g { x.queue g with items := (x.queue g).items.drop 1, finished := (x.queue g).finished + 1 }) := by
  simp only [finishHead, Context.pushAll, State.ctxAt_setCtx_same hinv.others, State.setCtx_setCtx hinv.others]

/-- A started word of one row that finds its operands in order reads its row, makes its writes and leaves. -/
theorem finishV_oneRow {s : State} {c : CtxLoc} {i : Item} {q : List Item} {w : VWord} (hinv : s.Inv) (hon : s.engineOn c = true)
    (hitems : (s.ctxAt c).qv.items = i :: q) (hphase : i.phase = .going) (hpend : i.pend = []) (htarget : i.target = none)
    (hw : vwordOf i = some w) (hleft : i.left = 0) (hrows : vRows i = [0]) (hperm : isPermute i.ins = false) (hpush : pushField i.ins = 0)
    (hlate : w.late = false) (hcheck : w.check (s.ctxAt c) 0 = none) (hfault : (w.row (s.ctxAt c) 0).fault = none)
    (hrow : (w.row (s.ctxAt c) 0).target = none) :
    finishV c s = s.setCtx c (w.finished (s.ctxAt c) i) := by
  have hre : rePush .v c s = none := by
    simp only [rePush, Context.queue, hitems, hphase]
  have hgoing : vGoing (s.ctxAt c) = some (i, w) := by
    simp only [vGoing, hitems, hphase, hw]
  let r0 : VRun := { VRun.of (s.ctxAt c) i with target := none }
  obtain ⟨n, m, hstep⟩ := VWord.step_row (w := w) (r := r0) rfl rfl hpend hlate hcheck hfault hrow
  have hread : readRowsV c w none [0] (s, r0, i) = (s, w.step 0 r0 0, i) := by
    simp only [readRowsV, hperm, Bool.and_false, Bool.false_eq_true, if_false, State.contest, Bool.not_false, if_true]
    rfl
  let ws := (w.row (s.ctxAt c) 0).writes ++ [.flags ((w.row (s.ctxAt c) 0).flags.setWidth 64)]
  let r1 : VRun := { r0 with pend := [(n, 0, ws)], next := 1, t := m }
  have hstep' : w.step 0 r0 0 = r1 := hstep
  have hlist : (if stepWord i.ins then [0] else rowsOf i) = [0] := by
    have := hrows
    rwa [vRows, hleft, List.drop_zero] at this
  have hdone : (vRows (r1.item i)).isEmpty = true := by
    show (((if stepWord i.ins then [0] else rowsOf i).drop 1).isEmpty) = true
    rw [hlist]
    rfl
  obtain ⟨hx, hflags⟩ := r1.flush_one n (w.row (s.ctxAt c) 0).writes ((w.row (s.ctxAt c) 0).flags.setWidth 64) rfl
  have hrowsV : rowsV c 2048 none true s = overV c i r1 s := by
    simp only [rowsV, hgoing, hrows]
    rw [show List.take 2048 [0] = [0] from rfl]
    rw [show readRowsV c w none [0] (s, { VRun.of (s.ctxAt c) i with target := none }, i) = (s, r1, i) from hread.trans (by rw [hstep'])]
    simp only [htarget]
    rw [show r1.fault = none from rfl, show r1.target = none from rfl]
    simp only [Option.isSome_none, Bool.false_eq_true, if_false]
    exact if_pos (by rw [Bool.true_and]; exact hdone)
  have hover : overV c i r1 s = finishHead .v c { (r1.flush).item i with left := 0 } []
      (s.setCtx c { r1.flush.x with fpflags := r1.x.fpflags ||| (i.val ||| r1.flush.flags) }) := by
    simp only [overV, hperm, Bool.false_eq_true, if_false]
    rw [show pushesOf .v ((r1.flush).item i).ins = [] from pushesOf_zero hpush]
    rfl
  have hzero : (0 : Word) ||| w.brings (s.ctxAt c) = w.brings (s.ctxAt c) := BitVec.zero_or
  rw [finishV, hre, if_pos hon, hrowsV, hover, finishHead_silent hinv, hx, hflags]
  rw [show r1.flags ||| flagsIn ((w.row (s.ctxAt c) 0).writes ++ [.flags ((w.row (s.ctxAt c) 0).flags.setWidth 64)]) = w.brings (s.ctxAt c)
    from hzero]
  rfl
end Sys2Proof.Machine
end
section
namespace Sys2Proof.Machine

/-! ### The mask words and MCNT (R138, R139) -/

/-- A word without granules finds nothing to check. -/
theorem VWord.check_nil {w : VWord} {x : Context} {j : Nat} (hs : w.srcs j = []) (hd : w.dests x j = []) : w.check x j = none := by
  rw [VWord.check, hs, hd]
  rfl

theorem vRows_step {i : Item} (h : stepWord i.ins = true) (hleft : i.left = 0) : vRows i = [0] := by
  rw [vRows, h, hleft]
  rfl

theorem countP_testBit_mod {m n : Nat} {a : Nat} (h : n ≤ m) :
    (List.range m).countP (a % 2 ^ n).testBit = (List.range n).countP a.testBit := by
  obtain ⟨k, rfl⟩ := Nat.exists_eq_add_of_le h
  rw [List.range_add, List.countP_append]
  have hlow : (List.range n).countP (a % 2 ^ n).testBit = (List.range n).countP a.testBit := by
    refine List.countP_congr fun j hj => ?_
    rw [Nat.testBit_mod_two_pow, decide_eq_true (List.mem_range.mp hj), Bool.true_and]
  have hhigh : ((List.range k).map (n + ·)).countP (a % 2 ^ n).testBit = 0 := by
    rw [List.countP_eq_zero]
    intro j hj
    obtain ⟨l, -, rfl⟩ := List.mem_map.mp hj
    simp [Nat.testBit_mod_two_pow]
  rw [hlow, hhigh, Nat.add_zero]

theorem shapeRows_le (v : Word) : shapeRows v ≤ 16 := by
  rw [shapeRows, bitsOf]
  omega

/-- The ones of a captured mask among the active rows. -/
theorem ones_maskRows (i : Item) :
    ones (maskRows i) = ((List.range (128 * shapeRows i.vshape)).filter fun k => i.mask.getLsbD k).length := by
  have hle : 128 * shapeRows i.vshape ≤ 2048 := by
    have := shapeRows_le i.vshape
    omega
  have hmask : maskRows i = i.mask.toNat % 2 ^ (128 * shapeRows i.vshape) := by
    rw [maskRows, getAt]
    rfl
  rw [ones, hmask, countP_testBit_mod hle, List.countP_eq_length_filter]
  rfl

theorem VWord.finished_mask {w : VWord} {x : Context} {i : Item} {r : List Item} {n : Nat} {m : Mask}
    (hrow : w.row x 0 = { writes := [.mask n m] }) (hitems : x.qv.items = i :: r) :
    w.finished x i = { x.setMreg n m with
      mbad := putAt x.mbad n 1 0, fpflags := x.fpflags ||| i.val, qv := { x.qv with items := r, finished := x.qv.finished + 1 } } := by
  have hb : i.val ||| w.brings x = i.val := by
    rw [VWord.brings, hrow]
    show i.val ||| (0 ||| (0#5).setWidth 64) = i.val
    simp
  rw [VWord.finished, hb, VWord.written, hrow]
  simp only [List.foldl_cons, List.foldl_nil, Context.make, Context.setMreg]
  split <;> rw [hitems] <;> rfl

/-- Settles O29: the masks of the mask words, and the count of MCNT. -/
theorem maskWordResults : Obligations.MaskWordResults := by
  intro s c f i r x hinv hok hon hitems hphase hleft hpend htarget hpush hwait
  have hexec : exec (.vWordFinish c) s = .next (finishV c s) := atCtx_of_ok hok
  refine ⟨fun hins => ?_, fun hins => ?_⟩
  · obtain ⟨w, hw, hrow, hcheck, hlate, hstep, hperm, hfield⟩ : ∃ w, vwordOf i = some w ∧ (∀ x j, w.row x j = { writes := [.mask f.vd.toNat i.mask] }) ∧
        (∀ x, w.check x 0 = none) ∧ w.late = false ∧ stepWord i.ins = true ∧ isPermute i.ins = false ∧ pushField i.ins = f.push := by
      simp only [List.mem_cons, List.not_mem_nil, or_false] at hins
      rcases hins with h | h | h | h <;> rw [vwordOf, h] <;>
        exact ⟨_, rfl, fun _ _ => rfl, fun _ => VWord.check_nil rfl rfl, rfl, rfl, rfl, rfl⟩
    have hfin := finishV_oneRow hinv hon hitems hphase hpend htarget hw hleft (vRows_step hstep hleft) hperm (hfield.trans hpush) hlate (hcheck _)
      (by rw [hrow]) (by rw [hrow])
    refine ⟨finishV c s, hexec, ?_⟩
    rw [hfin, State.ctxAt_setCtx_same hinv.others]
    exact VWord.finished_mask (hrow _ _) hitems
  · have hw : vwordOf i = some (vwMcnt i f) := by rw [vwordOf, hins]
    have hfin := finishV_oneRow hinv hon hitems hphase hpend htarget hw hleft (vRows_step (by rw [hins]; rfl) hleft) (by rw [hins]; rfl)
      ((by rw [hins]; rfl : pushField i.ins = f.push).trans hpush) rfl (VWord.check_nil rfl rfl) rfl rfl
    have hwritten : (vwMcnt i f).written (s.ctxAt c) = (s.ctxAt c).setRg (f.vd.setWidth 5) (BitVec.ofNat 64 (ones (maskRows i))) := rfl
    have hregs : ((s.ctxAt c).setRg (f.vd.setWidth 5) (BitVec.ofNat 64 (ones (maskRows i)))).qv = (s.ctxAt c).qv ∧
        ((s.ctxAt c).setRg (f.vd.setWidth 5) (BitVec.ofNat 64 (ones (maskRows i)))).win = (s.ctxAt c).win := by
      unfold Context.setRg
      split <;> exact ⟨rfl, rfl⟩
    refine ⟨finishV c s, hexec, ?_⟩
    rw [hfin, State.ctxAt_setCtx_same hinv.others, VWord.finished, hwritten, ← ones_maskRows]
    refine ⟨rfl, ?_, hregs.2⟩
    show ((Context.setRg _ _ _).qv.items.drop 1) = r
    rw [hregs.1, hitems]
    rfl

/-! ### Element-wise words of one row (R129 to R134) -/

theorem testBit_getAt {w : Nat} (d : BitVec w) (lo n k : Nat) : (getAt d lo n).testBit k = (decide (k < n) && d.getLsbD (lo + k)) := by
  rw [getAt, Nat.testBit_mod_two_pow, BitVec.testBit_toNat, BitVec.getLsbD_ushiftRight]

theorem getLsbD_ofNat_shiftLeft (w lo n v k : Nat) :
    (BitVec.ofNat w ((v % 2 ^ n) <<< lo)).getLsbD k = (decide (k < w) && decide (lo ≤ k) && decide (k < lo + n) && v.testBit (k - lo)) := by
  rw [BitVec.getLsbD_ofNat, Nat.testBit_shiftLeft, Nat.testBit_mod_two_pow]
  by_cases h : lo ≤ k
  · have : (decide (k - lo < n)) = decide (k < lo + n) := decide_eq_decide.mpr (by omega)
    simp [h, this, Bool.and_assoc]
  · simp [h]

theorem getLsbD_putAt {w : Nat} (d : BitVec w) (lo n v k : Nat) :
    (putAt d lo n v).getLsbD k = (decide (k < w) && if lo ≤ k ∧ k < lo + n then v.testBit (k - lo) else d.getLsbD k) := by
  have hmask : (BitVec.ofNat w ((2 ^ n - 1) <<< lo)).getLsbD k = (decide (k < w) && decide (lo ≤ k) && decide (k < lo + n)) := by
    have hmod : (2 ^ n - 1) % 2 ^ n = 2 ^ n - 1 := Nat.mod_eq_of_lt (Nat.sub_lt (Nat.two_pow_pos n) Nat.one_pos)
    rw [← hmod, getLsbD_ofNat_shiftLeft, Nat.testBit_two_pow_sub_one]
    by_cases h : lo ≤ k ∧ k < lo + n
    · have : k - lo < n := by omega
      simp [h.1, h.2, this]
    · by_cases h1 : lo ≤ k
      · have : ¬ k < lo + n := fun h2 => h ⟨h1, h2⟩
        simp [this]
      · simp [h1]
  rw [putAt, BitVec.getLsbD_or, BitVec.getLsbD_and, BitVec.getLsbD_not, hmask, getLsbD_ofNat_shiftLeft]
  by_cases hk : k < w
  · by_cases h : lo ≤ k ∧ k < lo + n
    · simp [hk, h.1, h.2]
    · have hn : (decide (lo ≤ k) && decide (k < lo + n)) = false := by simpa [Bool.and_eq_true] using h
      simp [hk, h, hn]
  · simp [hk, BitVec.getLsbD_of_ge d k (Nat.le_of_not_lt hk)]

/-- A written field reads back. -/
theorem getAt_putAt_same {w : Nat} (d : BitVec w) {lo n : Nat} (v : Nat) (h : lo + n ≤ w) : getAt (putAt d lo n v) lo n = v % 2 ^ n := by
  refine Nat.eq_of_testBit_eq fun k => ?_
  rw [testBit_getAt, getLsbD_putAt, Nat.testBit_mod_two_pow]
  by_cases hk : k < n
  · have hw : lo + k < w := by omega
    simp [hk, hw]
  · simp [hk]

/-- A written field leaves the others as they were. -/
theorem getAt_putAt_other {w : Nat} (d : BitVec w) {lo n v lo' n' : Nat} (h : lo' + n' ≤ lo ∨ lo + n ≤ lo') :
    getAt (putAt d lo n v) lo' n' = getAt d lo' n' := by
  refine Nat.eq_of_testBit_eq fun k => ?_
  rw [testBit_getAt, testBit_getAt, getLsbD_putAt]
  by_cases hk : k < n'
  · rw [if_neg (by omega)]
    by_cases hw : lo' + k < w
    · simp [hw]
    · simp [hw, BitVec.getLsbD_of_ge d _ (Nat.le_of_not_lt hw)]
  · simp [hk]

theorem Fmt.count_mul_bits (f : Fmt) : f.count * f.bits = 2048 := by cases f <;> rfl

/-- Elements that a list names take the values of a function, and the others stay. -/
theorem elemAt_putElems (f : Fmt) (g : Nat → Nat) {e : Nat} (he : e < f.count) :
    ∀ (es : List Nat) (d : GranData), (∀ k ∈ es, k < f.count) →
      elemAt (putElems f.bits d (es.map fun k => (k, g k))) f e = if e ∈ es then g e % 2 ^ f.bits else elemAt d f e
  | [], d, _ => by simp [putElems]
  | k :: es, d, h => by
    have ih := elemAt_putElems f g he es (putAt d (k * f.bits) f.bits (g k)) fun j hj => h j (List.mem_cons_of_mem _ hj)
    rw [List.map_cons, putElems, ih]
    by_cases hmem : e ∈ es
    · rw [if_pos hmem, if_pos (List.mem_cons_of_mem _ hmem)]
    · rw [if_neg hmem]
      by_cases hek : e = k
      · subst hek
        rw [if_pos List.mem_cons_self]
        refine getAt_putAt_same _ _ ?_
        have := Fmt.count_mul_bits f
        have hle : (e + 1) * f.bits ≤ f.count * f.bits := Nat.mul_le_mul_right _ he
        rw [Nat.add_mul] at hle
        omega
      · rw [if_neg (by simp [hek, hmem])]
        refine getAt_putAt_other _ ?_
        rcases Nat.lt_or_gt_of_ne hek with hlt | hgt
        · left
          have : (e + 1) * f.bits ≤ k * f.bits := Nat.mul_le_mul_right _ hlt
          rwa [Nat.add_mul, Nat.one_mul] at this
        · right
          have : (k + 1) * f.bits ≤ e * f.bits := Nat.mul_le_mul_right _ hgt
          rwa [Nat.add_mul, Nat.one_mul] at this

theorem elemAt_lt (d : GranData) (f : Fmt) (e : Nat) : elemAt d f e < 2 ^ f.bits := Nat.mod_lt _ (Nat.two_pow_pos _)

/-- An element's value differs from its bits by a multiple of their range. -/
theorem intOf_emod (f : Fmt) (a : Nat) : ∃ k : Int, intOf f a = a - k * 2 ^ f.bits := by
  unfold intOf
  split
  · exact ⟨1, by rw [Int.one_mul]⟩
  · exact ⟨0, by rw [Int.zero_mul, Int.sub_zero]⟩

theorem intFit_unsat (f : Fmt) (v : Int) : (intFit f false v).1 = (v % 2 ^ f.bits).toNat := by
  simp only [intFit, Bool.false_and, Bool.false_eq_true, if_false]

/-- An integer result agrees modulo the range of the format with that of the bits. -/
theorem intFit_congr (f : Fmt) {v : Int} {n : Nat} (h : ∃ k : Int, v = n + k * 2 ^ f.bits) : (intFit f false v).1 = n % 2 ^ f.bits := by
  obtain ⟨k, rfl⟩ := h
  rw [intFit_unsat, Int.add_mul_emod_self_right]
  norm_cast

/-- An element-wise word of one row over tagged granules without poison: its write. -/
theorem elementwise_written {i : Item} {f : VF} {bitwise : Bool} {lat : Nat} {fn : Nat → Nat → Nat → Nat × Flags} {x : Context}
    (hA : (x.gran f.va.toNat).fmt = f.fmt) (hB : (x.gran f.vb.toNat).fmt = f.fmt) (hD : (x.gran f.vd.toNat).fmt = f.fmt)
    (hne : f.fmt ≠ .empty) (hbs : f.bs = false) :
    ∃ G, (elementwise i f bitwise true false lat fn).written x = x.setGran f.vd.toNat G ∧ G.fmt = f.fmt ∧
      G.data = putElems f.fmt.bits (x.gran f.vd.toNat).data ((actives i.mask f.fmt i.vshape 0).map fun e =>
        (e, (fn (elemAt (x.gran f.va.toNat).data f.fmt e) (elemAt (x.gran f.vb.toNat).data f.fmt e) (elemAt (x.gran f.vd.toNat).data f.fmt e)).1)) := by
  have hread (g : Gran) (h : g.fmt = f.fmt) : g.read = g.data := if_neg (h ▸ hne)
  have h0 (a b : Nat) : a + 0 * b = a := by omega
  have hvd : vdG f 0 = f.vd.toNat := h0 _ _
  refine ⟨_, congrArg (fun g => x.setGran g _) hvd, rfl, ?_⟩
  simp only [vdG, vaG, h0, Gran.put, List.map_map, Function.comp_def, srcB, hbs, Bool.false_eq_true, if_false, vbG,
    hread _ hA, hread _ hB, hread _ hD]

/-- The result of an element-wise word of two operands without saturation (R129, R132, R133). -/
def rowValue (op : VOp) (f : VF) (i : Item) : Option (Nat → Nat → Nat) :=
  match op with
  | .vadd => some fun a b => (fpAdd f.fmt (vmode i f) false a b).1
  | .vsub => some fun a b => (fpSub f.fmt (vmode i f) false a b).1
  | .vmul => some fun a b => (fpMul f.fmt (vmode i f) false a b).1
  | .viadd => some fun a b => (a + b) % 2 ^ f.fmt.bits
  | .visub => some fun a b => (a + 2 ^ f.fmt.bits - b) % 2 ^ f.fmt.bits
  | .vimul => some fun a b => a * b % 2 ^ f.fmt.bits
  | .vand => some Nat.land
  | .vor => some Nat.lor
  | .vxor => some Nat.xor
  | _ => none

theorem intFit_add (f : Fmt) (a b : Nat) : (intFit f false (intOf f a + intOf f b)).1 = (a + b) % 2 ^ f.bits := by
  obtain ⟨k, hk⟩ := intOf_emod f a
  obtain ⟨l, hl⟩ := intOf_emod f b
  refine intFit_congr f ⟨-(k + l), ?_⟩
  rw [hk, hl]
  push_cast
  ring

theorem intFit_sub (f : Fmt) (a : Nat) {b : Nat} (hb : b < 2 ^ f.bits) :
    (intFit f false (intOf f a - intOf f b)).1 = (a + 2 ^ f.bits - b) % 2 ^ f.bits := by
  obtain ⟨k, hk⟩ := intOf_emod f a
  obtain ⟨l, hl⟩ := intOf_emod f b
  refine intFit_congr f ⟨l - k - 1, ?_⟩
  rw [hk, hl, Nat.cast_sub (by omega)]
  push_cast
  ring

theorem intFit_mul (f : Fmt) (a b : Nat) : (intFit f false (intOf f a * intOf f b)).1 = a * b % 2 ^ f.bits := by
  obtain ⟨k, hk⟩ := intOf_emod f a
  obtain ⟨l, hl⟩ := intOf_emod f b
  refine intFit_congr f ⟨k * l * 2 ^ f.bits - a * l - b * k, ?_⟩
  rw [hk, hl]
  push_cast
  ring

/-- The frame of an element-wise word of two operands, and its result. -/
theorem vwordOf_rowValue {op : VOp} {f : VF} {i : Item} {v : Nat → Nat → Nat} (hins : i.ins = Instr.ofV op f) (hsat : f.sat = false)
    (hv : rowValue op f i = some v) :
    ∃ bitwise fn, vwordOf i = some (elementwise i f bitwise true false 6 fn) ∧ stepWord i.ins = false ∧ isPermute i.ins = false ∧
      ∀ a b d, b < 2 ^ f.fmt.bits → (fn a b d).1 % 2 ^ f.fmt.bits = v a b % 2 ^ f.fmt.bits := by
  unfold vwordOf
  rw [hins]
  cases op with
  | vadd => cases hv; exact ⟨_, _, rfl, rfl, rfl, fun a b _ _ => by rw [hsat]⟩
  | vsub => cases hv; exact ⟨_, _, rfl, rfl, rfl, fun a b _ _ => by rw [hsat]⟩
  | vmul => cases hv; exact ⟨_, _, rfl, rfl, rfl, fun a b _ _ => by rw [hsat]⟩
  | viadd => cases hv; exact ⟨_, _, rfl, rfl, rfl, fun a b _ _ => by rw [hsat, intFit_add, Nat.mod_mod]⟩
  | visub => cases hv; exact ⟨_, _, rfl, rfl, rfl, fun a b _ hb => by rw [hsat, intFit_sub _ _ hb, Nat.mod_mod]⟩
  | vimul => cases hv; exact ⟨_, _, rfl, rfl, rfl, fun a b _ _ => by rw [hsat, intFit_mul, Nat.mod_mod]⟩
  | vand => cases hv; exact ⟨_, _, rfl, rfl, rfl, fun _ _ _ _ => rfl⟩
  | vor => cases hv; exact ⟨_, _, rfl, rfl, rfl, fun _ _ _ _ => rfl⟩
  | vxor => cases hv; exact ⟨_, _, rfl, rfl, rfl, fun _ _ _ _ => rfl⟩
  | _ => exact nomatch hv

/-- What an element-wise word finds in tagged granules without poison. -/
theorem elementwise_check {i : Item} {f : VF} {bitwise : Bool} {lat : Nat} {fn : Nat → Nat → Nat → Nat × Flags} {x : Context}
    (h : ∀ g ∈ [x.gran f.va.toNat, x.gran f.vb.toNat, x.gran f.vd.toNat], g.fmt = f.fmt ∧ g.poison = false) (hbs : f.bs = false) :
    (elementwise i f bitwise true false lat fn).check x 0 = none := by
  obtain ⟨hAf, hAp⟩ := h _ List.mem_cons_self
  obtain ⟨hBf, hBp⟩ := h _ (List.mem_cons_of_mem _ List.mem_cons_self)
  obtain ⟨hDf, hDp⟩ := h _ (List.mem_cons_of_mem _ (List.mem_cons_of_mem _ List.mem_cons_self))
  simp [VWord.check, elementwise, hbs, vaG, vbG, vdG, hAf, hAp, hBf, hBp, hDf, hDp, tagOk]

/-- Settles O28: the elements of the destination, and the frame. -/
theorem elementwiseRow : Obligations.ElementwiseRow := by
  intro s c op f i r x A B D hinv hok hwin hon hitems hphase hleft hpend htarget hins hshape hpush hbs hsat hwait hfmt hgran n value v hv hfp hint
  have hv' : rowValue op f i = some v := by
    cases op <;> exact hv
  obtain ⟨bitwise, fn, hw, hstep, hperm, hfn⟩ := vwordOf_rowValue hins hsat hv'
  have hne : f.fmt ≠ .empty := fun h => hfmt (by simp [h])
  have hrows : vRows i = [0] := by
    rw [vRows, hstep, hleft, rowsOf, hshape]
    rfl
  have hcheck := elementwise_check (i := i) (bitwise := bitwise) (lat := 6) (fn := fn) hgran hbs
  have hfin := finishV_oneRow hinv hon hitems hphase hpend htarget hw hleft hrows hperm (by rw [hins, pushField_ofV, hpush]) rfl hcheck rfl rfl
  have hfmts (g : Gran) (hg : g ∈ [A, B, D]) : g.fmt = f.fmt := (hgran g hg).1
  obtain ⟨G, hwritten, hGfmt, hGdata⟩ := elementwise_written (i := i) (bitwise := bitwise) (lat := 6) (fn := fn) (x := s.ctxAt c)
    (hfmts A List.mem_cons_self) (hfmts B (List.mem_cons_of_mem _ List.mem_cons_self))
    (hfmts D (List.mem_cons_of_mem _ (List.mem_cons_of_mem _ List.mem_cons_self))) hne hbs
  have hexec : exec (.vWordFinish c) s = .next (finishV c s) := atCtx_of_ok hok
  refine ⟨finishV c s, hexec, ?_⟩
  intro y
  have hy : y = (elementwise i f bitwise true false 6 fn).finished (s.ctxAt c) i := by
    show (finishV c s).ctxAt c = _
    rw [hfin, State.ctxAt_setCtx_same hinv.others]
  have hgran' (g : Nat) : y.gran g = ((elementwise i f bitwise true false 6 fn).written (s.ctxAt c)).gran g := by
    rw [hy]
    rfl
  have hself : y.gran f.vd.toNat = G := (hgran' _).trans (hwritten ▸ tget_tset_wf hwin)
  refine ⟨?_, fun e he => ?_, fun g hg => ?_, ?_, ?_, ?_, ?_, ?_⟩
  · rw [hself, hGfmt]
  · have hmem : e ∈ actives i.mask f.fmt i.vshape 0 ↔ active i.mask f.fmt i.vshape 0 e = true := by
      rw [actives, List.mem_filter, List.mem_range]
      exact and_iff_right he
    have hin : ∀ k ∈ actives i.mask f.fmt i.vshape 0, k < f.fmt.count := fun k hk => List.mem_range.mp (List.mem_filter.mp hk).1
    rw [hself, hGdata, elemAt_putElems f.fmt _ he _ _ hin]
    by_cases ha : active i.mask f.fmt i.vshape 0 e = true
    · rw [if_pos (hmem.mpr ha), if_pos ha]
      exact hfn _ _ _ (elemAt_lt _ _ _)
    · rw [if_neg (fun h => ha (hmem.mp h)), if_neg ha]
  · rw [hgran', hwritten]
    exact tget_tset_other hg
  · rw [hy, VWord.finished, hwritten]
    rfl
  · rw [hy, VWord.finished, hwritten]
    rfl
  · rw [hy, VWord.finished, hwritten]
    rfl
  · rw [hy, VWord.finished, hwritten]
    show (s.ctxAt c).qv.items.drop 1 = r
    rw [show (s.ctxAt c).qv.items = i :: r from hitems]
    rfl
  · rw [hfin, State.setCtx_mem]
end Sys2Proof.Machine
end
section
namespace Sys2Proof.Machine

/-! ### The matrix words at issue (R172, R174, R175) -/

theorem exec_mma (f : MF) (s : State) : exec (.mma f) s = execMma f s := rfl
theorem exec_mmaz (f : MF) (s : State) : exec (.mmaz f) s = execMmaz f s := rfl
theorem exec_aclr (f : AF) (s : State) : exec (.aclr f) s = execAclr f s := rfl
theorem exec_aswap (f : AF) (s : State) : exec (.aswap f) s = execAswap f s := rfl
theorem exec_adrain (f : AF) (s : State) : exec (.adrain f) s = execAdrain f s := rfl

/-- An M word that may start: it is no point, and it has not started or stands at a resumption step. -/
def Item.unstarted (i : Item) : Bool := !Instr.isPoint i.ins && (match i.phase with | .idle | .parked _ => true | _ => false)

theorem mNext_eq (x : Context) : mNext x = match x.qm.items.findIdx? Item.unstarted with
    | none => none
    | some k => (x.qm.items[k]?).map fun i => (k, i) := rfl

/-- The first word that may start, by its place in the queue. -/
theorem mNext_some {x : Context} {k : Nat} {i : Item} :
    mNext x = some (k, i) ↔ x.qm.items.findIdx? Item.unstarted = some k ∧ x.qm.items[k]? = some i := by
  rw [mNext_eq]
  split
  · rename_i h
    simp [h]
  · rename_i j h
    rw [h]
    constructor
    · intro hm
      obtain ⟨a, ha, he⟩ := Option.map_eq_some_iff.mp hm
      obtain ⟨rfl, rfl⟩ := Prod.mk.inj he
      exact ⟨rfl, ha⟩
    · rintro ⟨hk, hi⟩
      obtain rfl := Option.some.inj hk
      rw [hi]
      rfl

theorem mNext_none {x : Context} : mNext x = none ↔ x.qm.items.findIdx? Item.unstarted = none := by
  rw [mNext_eq]
  split
  · rename_i h
    simp [h]
  · rename_i k h
    obtain ⟨hlt, -⟩ := List.findIdx?_eq_some_iff_getElem.mp h
    simp [h, List.getElem?_eq_getElem hlt]

/-- A word that may start and enters a queue without another is the one that starts next. -/
theorem mNext_enter {x : Context} {q : Queue} {i : Item} (hn : mNext x = none) (hq : q.items = x.qm.items ++ [i]) (hi : i.unstarted = true) (y : Context)
    (hy : y.qm = q) : mNext y = some (x.qm.items.length, i) := by
  rw [mNext_some, hy, hq, List.findIdx?_append, mNext_none.mp hn]
  constructor
  · rw [List.findIdx?_cons, hi]
    simp
  · simp

theorem mNext_keep {x : Context} {q : Queue} {i : Item} {e : Nat × Item} (hn : mNext x = some e) (hq : q.items = x.qm.items ++ [i]) (y : Context)
    (hy : y.qm = q) : mNext y = some e := by
  obtain ⟨k, j⟩ := e
  obtain ⟨hk, hj⟩ := mNext_some.mp hn
  rw [mNext_some, hy, hq, List.findIdx?_append, hk]
  refine ⟨rfl, ?_⟩
  rw [List.getElem?_append_left (List.getElem?_eq_some_iff.mp hj).1]
  exact hj

theorem setNth_append {α : Type} (l : List α) (a b : α) : setNth (l ++ [a]) l.length b = l ++ [b] := by
  induction l with
  | nil => rfl
  | cons c l ih =>
    rw [List.cons_append, List.length_cons, setNth, ih]
    rfl

section
variable {s : State} {c : CtxLoc} {k : Nat} {i : Item} {f : MF} {z : Bool}

/-- The head step of a context that runs is checked. -/
theorem checkHead_step (hn : mNext (s.ctxAt c) = some (k, i)) (hf : stepOf i.ins = some (f, z)) (hp : i.phase = .idle)
    (hl : i.lost = 0) (hh : (s.ctxAt c).halt = none) (hd : (s.ctxAt c).debug = false) (hpk : (s.ctxAt c).parked = false) :
    checkHead c s = if 32768 + (s.ctxAt c).resv < f.en.toNat then
        s.raise c 0x13 (f.en.setWidth 64) i.pc (some (.m, i.seq, i.pc))
      else s.setCtx c ((s.ctxAt c).setMItem k { i with lost := 1 }) := by
  simp only [checkHead, hn, hf, hp, hl, hh, hd, hpk, bne_self_eq_false, Option.isSome_none, Bool.or_self, Bool.false_eq_true, if_false]

/-- A head that has been checked is not checked again. -/
theorem checkHead_checked (hn : mNext (s.ctxAt c) = some (k, i)) (hl : i.lost ≠ 0) : checkHead c s = s := by
  have hl' : (i.lost != 0) = true := by simpa using hl
  simp only [checkHead, hn]
  split
  · rw [hl']
    rfl
  · rfl

end

/-- The steps. -/
theorem exec_step_of_issues {s : State} {f : MF} {i : Instr} (hi : i = .mma f ∨ i = .mmaz f) (h : Issues s i)
    (hcheck : stepCheck i f s.cx.wsize (tget s.cx.tviews f.tA.toNat 0) (tget s.cx.tviews f.tB.toNat 0) (tget s.cx.aviews f.acc.toNat 0) = none) :
    exec i s = .next (checkHead s.focus (s.queued .m i 6 (tget s.cx.tviews f.tA.toNat 0) (tget s.cx.tviews f.tB.toNat 0)
      (tget s.cx.aviews f.acc.toNat 0) 0)) := by
  have hexec : exec i s = issueStep i f s := by
    rcases hi with rfl | rfl
    · exact exec_mma f s
    · exact exec_mmaz f s
  simp only [hexec, issueStep, issue_of_issues h, hcheck]
  rfl

theorem completes_issueAcc {s : State} {g : AF} {i : Instr} (hexec : exec i s = issueAcc i g s)
    (hcheck : visCheck s.cx.wsize (tget s.cx.aviews g.acc.toNat 0) g.acc = none) :
    Completes i s (s.queued .m i 6 0 0 (tget s.cx.aviews g.acc.toNat 0) 0) := by
  intro h
  simp only [hexec, issueAcc, issue_of_issues h, hcheck]
  rfl

/-! ### ACLR runs (R169, R175) -/

theorem Context.inFlight_of_going {x : Context} {j : Item} (hj : j ∈ x.qm.items) (hphase : j.phase = .going) : x.inFlight = true := by
  simp only [Context.inFlight, Bool.or_eq_true, List.any_eq_true]
  exact .inl (.inl (.inl (.inr ⟨j, by simp [hj], by rw [hphase]⟩)))

/-- A fault of a context with an M word under way only records the fault and halts it: the cut comes later. -/
theorem State.raise_inFlight {s : State} {c : CtxLoc} {cause : BitVec 8} {tval epc : Word} {m : Option (Eng × BitVec 32 × Word)}
    {j : Item} (hinv : s.Inv) (hj : j ∈ (s.ctxAt c).qm.items) (hphase : j.phase = .going) :
    s.raise c cause tval epc m = s ∨ ∃ h, s.raise c cause tval epc m =
      s.onCtx c fun x => { x with ecause := cause.setWidth 64, etval := tval, halt := h } := by
  unfold State.raise
  simp only
  split
  · exact .inl rfl
  · refine .inr ⟨_, if_pos ?_⟩
    rw [State.ctxAt_onCtx_same hinv.others]
    exact Context.inFlight_of_going hj hphase

theorem head?_setNth_succ {α : Type} (l : List α) (k : Nat) (a : α) : (setNth l (k + 1) a).head? = l.head? := by
  cases l <;> rfl

/-- A word under way at the head of the M queue keeps the queue's check from it: what the check changes. -/
theorem checkHead_behind {s : State} {c : CtxLoc} {j : Item} {r : List Item} (hinv : s.Inv) (hitems : (s.ctxAt c).qm.items = j :: r)
    (hphase : j.phase = .going) :
    let x := s.ctxAt c
    let y := (checkHead c s).ctxAt c
    y.qm.items.head? = some j ∧ y.qm.started = x.qm.started ∧ y.banks = x.banks ∧ y.win = x.win ∧ y.regs = x.regs := by
  have hmem : j ∈ (s.ctxAt c).qm.items := hitems ▸ List.mem_cons_self
  have hself : (s.ctxAt c).qm.items.head? = some j := by rw [hitems]; rfl
  unfold checkHead
  simp only
  split
  · exact ⟨hself, rfl, rfl, rfl, rfl⟩
  · rename_i k i hn
    have hk : k ≠ 0 := by
      rintro rfl
      obtain ⟨hfind, hget⟩ := mNext_some.mp hn
      rw [hitems, List.findIdx?_cons] at hfind
      have hj : j.unstarted = false := by rw [Item.unstarted, hphase]; simp
      simp [hj] at hfind
    split
    · split
      · exact ⟨hself, rfl, rfl, rfl, rfl⟩
      · split
        · rcases State.raise_inFlight (cause := 0x13) (tval := _) (epc := i.pc) (m := some (.m, i.seq, i.pc)) hinv hmem hphase with h | ⟨_, h⟩
          · rw [h]
            exact ⟨hself, rfl, rfl, rfl, rfl⟩
          · rw [h, State.ctxAt_onCtx_same hinv.others]
            exact ⟨hself, rfl, rfl, rfl, rfl⟩
        · rw [State.ctxAt_setCtx_same hinv.others]
          obtain ⟨l, rfl⟩ := Nat.exists_eq_succ_of_ne_zero hk
          refine ⟨?_, rfl, rfl, rfl, rfl⟩
          show (setNth _ (l + 1) _).head? = _
          rw [head?_setNth_succ]
          exact hself
    · exact ⟨hself, rfl, rfl, rfl, rfl⟩

/-- Settles O32: the queue entries, the check of the head, and the run of ACLR. -/
theorem matrixWords : Obligations.MatrixWords := by
  refine ⟨fun f g s => ?_, fun s c f i r => ?_⟩
  · intro x va vb av bv
    refine ⟨fun i hi hcheck hpark h => ?_, fun hcheck => ⟨?_, ?_, ?_⟩⟩
    · have hi' : i = .mma f ∨ i = .mmaz f := by simpa using hi
      have hexec := exec_step_of_issues hi' h hcheck
      have hstep : ∃ z, stepOf i = some (f, z) := by
        rcases hi' with rfl | rfl <;> exact ⟨_, rfl⟩
      have hpoint : Instr.isPoint i = false := by rcases hi' with rfl | rfl <;> rfl
      have hok : handlerOk i = false := by rcases hi' with rfl | rfl <;> rfl
      obtain ⟨z, hz⟩ := hstep
      have hg := h.grants (h.intrap_false hok)
      let j := mkItem s.cx i s.cx.qm va vb av 0
      let t := s.queued .m i 6 va vb av 0
      have hcx : t.ctxAt s.focus = t.cx := State.ctxAt_at_focus t
      have hh : (t.ctxAt s.focus).halt = none := by rw [hcx]; exact hg.halt
      have hd : (t.ctxAt s.focus).debug = false := by rw [hcx]; exact hg.debug
      have hpk : (t.ctxAt s.focus).parked = false := by rw [hcx]; exact hpark
      have hstart : j.unstarted = true := by
        show (!Instr.isPoint i && true) = true
        rw [hpoint]
        rfl
      refine ⟨fun hn hen => ?_, fun hn hen => ?_, fun e he hlost => ?_⟩
      · have hn' : mNext (t.ctxAt s.focus) = some (s.cx.qm.items.length, j) := hcx ▸ mNext_enter hn rfl hstart _ rfl
        have hch := checkHead_step (c := s.focus) hn' hz rfl rfl hh hd hpk
        rw [if_neg (by rw [hcx]; exact Nat.not_lt.mpr hen), hcx, show t.setCtx s.focus _ = _ from State.setCtx_at_focus t _] at hch
        refine ⟨_, hexec.trans (congrArg Host.Outcome.next hch), ?_⟩
        refine ⟨?_, rfl, rfl, rfl, rfl, rfl, rfl⟩
        show setNth (s.cx.qm.items ++ [j]) s.cx.qm.items.length _ = _
        exact setNth_append _ _ _
      · have hn' : mNext (t.ctxAt s.focus) = some (s.cx.qm.items.length, j) := hcx ▸ mNext_enter hn rfl hstart _ rfl
        have hch := checkHead_step (c := s.focus) hn' hz rfl rfl hh hd hpk
        rw [if_pos (by rw [hcx]; exact hen)] at hch
        exact hexec.trans (congrArg Host.Outcome.next hch)
      · have hn' : mNext (t.ctxAt s.focus) = some e := hcx ▸ mNext_keep he rfl _ rfl
        exact hexec.trans (congrArg Host.Outcome.next (checkHead_checked (c := s.focus) hn' hlost))
    · exact completes_issueAcc (exec_aclr g s) hcheck
    · exact completes_issueAcc (exec_aswap g s) hcheck
    · exact completes_issueAcc (exec_adrain g s) hcheck
  · intro x hinv hok hon hitems hins hpop hpush hwait
    refine ⟨fun hphase hdroop => ?_, fun hphase => ?_⟩
    · have hn : mNext (s.ctxAt c) = some (0, i) := by
        rw [mNext_some, hitems, List.findIdx?_cons]
        have hi : i.unstarted = true := by rw [Item.unstarted, hphase, hins]; rfl
        simp [hi]
      have hno : stepOf i.ins = none := by rw [hins]; rfl
      have hch : checkHead c s = s := by simp only [checkHead, hn, hno]
      have hpops : popsOf .m i.ins = [] := popsOf_zero (by rw [hins]; exact hpop)
      have hempty : emptyPop (s.ctxAt c) .m i.ins = none := by rw [emptyPop, hpops, List.find?_nil]
      have hgrans : mGrans i = [] := by rw [mGrans, hins]
      have hacc : (accOfM i.ins).isNone = false := by rw [hins]; rfl
      have horder : mOrder (List.take 0 (s.ctxAt c).qm.items) i = true := by simp [mOrder, hno]
      have hstep : startStep i = some (true, 0) := by rw [startStep, hphase]
      have htake : takeTokens (s.ctxAt c) .m i = (none, s.ctxAt c) := by
        rw [takeTokens, hphase, hpops]
        rfl
      let j : Item := { i with phase := .going, left := 0, time := 0, vis := [], rows := [], pend := [], target := none, lost := 2 }
      let y : Context := { s.ctxAt c with qm := { (s.ctxAt c).qm with started := (s.ctxAt c).qm.started + 1, items := j :: r } }
      have hstart : startM c s = checkHead c (s.setCtx c y) := by
        simp only [startM, hon, if_true, hch, hn, hstep, hdroop, hno, hacc, horder, hempty, hgrans, List.find?_nil, Bool.not_true,
          Bool.and_false, Bool.or_self, Bool.false_eq_true, if_false, State.waitEnd_none hwait, beginM, htake, Context.setMItem]
        rw [show setNth (s.ctxAt c).qm.items 0 j = j :: r by rw [hitems]; rfl]
      have hexec : exec (.mWordStart c) s = .next (startM c s) := atCtx_of_ok hok
      have hy : (s.setCtx c y).ctxAt c = y := State.ctxAt_setCtx_same hinv.others c y
      have hb := checkHead_behind (State.setCtx_inv (c := c) (x := y) hinv) (j := j) (r := r) (by rw [hy]) rfl
      simp only [hy] at hb
      exact ⟨_, hexec.trans (congrArg Host.Outcome.next hstart), hb⟩
    · have hexec : exec (.mWordFinish c) s = .next (finishM c s) := atCtx_of_ok hok
      have hre : rePush .m c s = none := by
        simp only [rePush, Context.queue]
        rw [show (s.ctxAt c).qm.items = i :: r from hitems]
        simp only [hphase]
      have hgoing : mGoing (s.ctxAt c) = some i := by
        rw [mGoing, show (s.ctxAt c).qm.items = i :: r from hitems]
        simp only [hphase]
      have hno : stepOf i.ins = none := by rw [hins]; rfl
      have hpushes : pushesOf .m i.ins = [] := pushesOf_zero (by rw [hins]; exact hpush)
      let z : Context := { x.setBank f.acc.toNat {} with fpflags := x.fpflags ||| i.val }
      have hfin : finishM c s = s.setCtx c (z.setQueue .m
          { z.queue .m with items := (z.queue .m).items.drop 1, finished := (z.queue .m).finished + 1 }) := by
        simp only [finishM, hre, hgoing, hon, if_true, endM, hno]
        rw [hins]
        simp only [overM, hpushes]
        exact finishHead_silent hinv z
      refine ⟨_, hexec.trans (congrArg Host.Outcome.next hfin), ?_⟩
      rw [State.ctxAt_setCtx_same hinv.others]
      show ({ x with banks := _, fpflags := _, qm := { x.qm with items := (s.ctxAt c).qm.items.drop 1, finished := _ } } : Context) = _
      rw [show (s.ctxAt c).qm.items = i :: r from hitems]
      rfl
end Sys2Proof.Machine
end
section
namespace Sys2Proof.Machine

/-! ### Row groups (R218, R234, R235) -/

theorem Cluster.rg_setRg_same {cl : Cluster} (h : twf cl.rgs {} = true) (n : Nat) (r : RowGroup) : (cl.setRg n r).rg n = r := tget_tset_wf h
theorem Cluster.rg_setRg_other {cl : Cluster} {n m : Nat} (h : m ≠ n) (r : RowGroup) : (cl.setRg n r).rg m = cl.rg m := tget_tset_other h
theorem Cluster.setRg_wf {cl : Cluster} (h : twf cl.rgs {} = true) (n : Nat) (r : RowGroup) : twf (cl.setRg n r).rgs {} = true := twf_tset h

theorem mem_rgRange {n0 c n : Nat} : n ∈ rgRange n0 c ↔ n0 ≤ n ∧ n < n0 + c := by
  simp only [rgRange, List.mem_map, List.mem_range]
  constructor
  · rintro ⟨k, hk, rfl⟩
    omega
  · rintro ⟨h1, h2⟩
    exact ⟨n - n0, by omega, by omega⟩

/-- What each of a run of steps does to its own row group, where a later one leaves it as it is. -/
theorem foldl_rg {f : Cluster → Nat → Cluster} {P : RowGroup → Prop} (hwf : ∀ cl n, twf cl.rgs {} = true → twf (f cl n).rgs {} = true)
    (hown : ∀ cl n, twf cl.rgs {} = true → P ((f cl n).rg n)) (hkeep : ∀ cl n m, twf cl.rgs {} = true → P (cl.rg m) → P ((f cl n).rg m))
    (l : List Nat) {cl : Cluster} (h : twf cl.rgs {} = true) : ∀ n, n ∈ l ∨ P (cl.rg n) → P ((l.foldl f cl).rg n) := by
  induction l generalizing cl with
  | nil =>
    intro n hn
    exact hn.resolve_left List.not_mem_nil
  | cons a l ih =>
    intro n hn
    rw [List.foldl_cons]
    refine ih (hwf cl a h) n ?_
    rcases hn with hn | hn
    · rcases List.mem_cons.mp hn with rfl | hn
      · exact .inr (hown cl n h)
      · exact .inl hn
    · exact .inr (hkeep cl a n h hn)

/-- A row group that MCLASS has allocated (R234). -/
def Claimed (cls : BitVec 3) (e : Nat) (r : RowGroup) : Prop :=
  r.cls = cls ∧ r.valid = false ∧ r.age = 0 ∧ r.alloc = BitVec.ofNat 12 e

theorem claimRg_range {cls : BitVec 3} {evid : BitVec 16} {limcls : BitVec 3} {e : Nat} {cl : Cluster} (h : twf cl.rgs {} = true) (l : List Nat) :
    ∀ n ∈ l, Claimed cls e ((l.foldl (claimRg cls evid limcls e) cl).rg n) := by
  have hclaim (cl : Cluster) (n : Nat) (h : twf cl.rgs {} = true) : Claimed cls e ((claimRg cls evid limcls e cl n).rg n) := by
    rw [claimRg, Cluster.rg_setRg_same h]
    exact ⟨rfl, rfl, rfl, rfl⟩
  refine fun n hn => foldl_rg (P := Claimed cls e) (fun cl n h => Cluster.setRg_wf h _ _) hclaim (fun cl n m h hm => ?_) l h n (.inl hn)
  by_cases hmn : m = n
  · rw [hmn]
    exact hclaim cl n h
  · show Claimed cls e ((cl.setRg n _).rg m)
    rwa [Cluster.rg_setRg_other hmn]

theorem Cluster.unref_rgs (cl : Cluster) (a : Nat) : (cl.unref a).rgs = cl.rgs := by
  unfold Cluster.unref
  split
  · rfl
  · split <;> rfl

theorem freeRg_wf {cl : Cluster} (n : Nat) (h : twf cl.rgs {} = true) : twf (freeRg cl n).rgs {} = true := by
  unfold freeRg
  simp only
  split
  · exact h
  · exact Cluster.setRg_wf ((Cluster.unref_rgs _ _).symm ▸ h) _ _

theorem freeRg_self {cl : Cluster} (n : Nat) (h : twf cl.rgs {} = true) : ((freeRg cl n).rg n).cls = 0 := by
  unfold freeRg
  simp only
  split
  · assumption
  · rw [Cluster.rg_setRg_same ((Cluster.unref_rgs _ _).symm ▸ h)]

theorem freeRg_keeps {cl : Cluster} (n m : Nat) (h : twf cl.rgs {} = true) (hm : (cl.rg m).cls = 0) : ((freeRg cl n).rg m).cls = 0 := by
  by_cases hmn : m = n
  · rw [hmn]
    exact freeRg_self n h
  · unfold freeRg
    simp only
    split
    · exact hm
    · rw [Cluster.rg_setRg_other hmn, Cluster.rg, Cluster.unref_rgs]
      exact hm

theorem freeRg_range {cl : Cluster} (h : twf cl.rgs {} = true) (l : List Nat) : ∀ n ∈ l, ((l.foldl freeRg cl).rg n).cls = 0 :=
  fun n hn => foldl_rg (P := fun r => r.cls = 0) (fun _ n => freeRg_wf n) (fun _ n => freeRg_self n) (fun _ n m => freeRg_keeps n m) l h n (.inl hn)

/-! ### The MOSS words at their point (R233 to R238) -/

section
variable {s : State} {c : CtxLoc} {i : Item} {rest : List Item}

/-- No row group of a run is engine-owned. -/
theorem unowned_any {cl : Cluster} {n0 k : Nat} (h : ∀ n ∈ rgRange n0 k, (cl.rg n).owner = false) :
    ((rgRange n0 k).any fun n => (cl.rg n).owner) = false := by
  rw [List.any_eq_false]
  intro n hn
  rw [h n hn]
  exact Bool.false_ne_true

/-- A MOSS word but MREFRESH whose action is made replies and leaves the queue. -/
theorem mossPoint_pops {rd : Reg} {v : Word} {t : State} (ha : mossAction s c i = some (rd, v, t))
    (hfree : ∀ rd rs1 rs2, i.ins = .mfree rd rs1 rs2 → storing s c.pcl (mossN i.a) (mossC i.b) = false)
    (hrefresh : ∀ rd rs1 rs2, i.ins ≠ .mrefresh rd rs1 rs2) (ht : tfind (t.ctxAt c).waits 2 = none) :
    s.mossPoint c i rest = t.onCtx c fun x => { x.setRg rd v with ql := { x.ql with items := rest } } := by
  unfold State.mossPoint
  simp only [ha, State.waitEnd_none ht]
  split
  · rw [hfree _ _ _ ‹_›, if_neg Bool.false_ne_true]
  · rw [if_neg Bool.false_ne_true]

section
variable {cls : BitVec 3} {rd rs1 rs2 : Reg}

theorem mossAction_mclass_refused (hi : i.ins = .mclass cls rd rs1 rs2)
    (hown : ∀ n ∈ rgRange (mossN i.a) (mossC i.b), ((s.cluAt c.pcl).rg n).owner = false) (hinv : s.Inv)
    (hbusy : ∃ n ∈ rgRange (mossN i.a) (mossC i.b), ((s.cluAt c.pcl).rg n).cls ≠ 0) : mossAction s c i = some (rd, 1, s) := by
  have hany : ((rgRange (mossN i.a) (mossC i.b)).any fun n => ((s.cluAt c.pcl).rg n).cls != 0) = true := by
    simpa [List.any_eq_true] using hbusy
  simp only [mossAction, hi, unowned_any hown, Bool.false_eq_true, if_false, mclassAct, hany, if_true, State.setClu_cluAt hinv.clus]

theorem mossAction_mclass_full (hi : i.ins = .mclass cls rd rs1 rs2)
    (hown : ∀ n ∈ rgRange (mossN i.a) (mossC i.b), ((s.cluAt c.pcl).rg n).owner = false) (hinv : s.Inv)
    (hfree : ∀ n ∈ rgRange (mossN i.a) (mossC i.b), ((s.cluAt c.pcl).rg n).cls = 0) (hfull : tfree (s.cluAt c.pcl).alloc 1 4095 = none) :
    mossAction s c i = some (rd, 2, s) := by
  have hany : ((rgRange (mossN i.a) (mossC i.b)).any fun n => ((s.cluAt c.pcl).rg n).cls != 0) = false := by
    simpa [List.any_eq_false] using hfree
  simp only [mossAction, hi, unowned_any hown, Bool.false_eq_true, if_false, mclassAct, hany, hfull, State.setClu_cluAt hinv.clus]

theorem mossAction_mclass {e : Nat} (hi : i.ins = .mclass cls rd rs1 rs2)
    (hown : ∀ n ∈ rgRange (mossN i.a) (mossC i.b), ((s.cluAt c.pcl).rg n).owner = false) (hwf : twf (s.cluAt c.pcl).rgs {} = true)
    (hfree : ∀ n ∈ rgRange (mossN i.a) (mossC i.b), ((s.cluAt c.pcl).rg n).cls = 0) (he : tfree (s.cluAt c.pcl).alloc 1 4095 = some e) :
    ∃ cl, mossAction s c i = some (rd, 0, s.setClu c.pcl cl) ∧ ∀ n ∈ rgRange (mossN i.a) (mossC i.b), Claimed cls e (cl.rg n) := by
  have hany : ((rgRange (mossN i.a) (mossC i.b)).any fun n => ((s.cluAt c.pcl).rg n).cls != 0) = false := by
    simpa [List.any_eq_false] using hfree
  simp only [mossAction, hi, unowned_any hown, Bool.false_eq_true, if_false, mclassAct, hany, he]
  refine ⟨_, rfl, claimRg_range ?_ _⟩
  exact hwf

theorem mossAction_mfree_refused (hi : i.ins = .mfree rd rs1 rs2) (hinv : s.Inv)
    (hown : ∃ n ∈ rgRange (mossN i.a) (mossC i.b), ((s.cluAt c.pcl).rg n).owner = true) : mossAction s c i = some (rd, 1, s) := by
  have hany : ((rgRange (mossN i.a) (mossC i.b)).any fun n => ((s.cluAt c.pcl).rg n).owner) = true := by
    simpa [List.any_eq_true] using hown
  simp only [mossAction, hi, mfreeAct, hany, if_true, State.setClu_cluAt hinv.clus]

theorem mossAction_mfree (hi : i.ins = .mfree rd rs1 rs2)
    (hown : ∀ n ∈ rgRange (mossN i.a) (mossC i.b), ((s.cluAt c.pcl).rg n).owner = false) (hwf : twf (s.cluAt c.pcl).rgs {} = true) :
    ∃ cl, mossAction s c i = some (rd, 0, s.setClu c.pcl cl) ∧ ∀ n ∈ rgRange (mossN i.a) (mossC i.b), (cl.rg n).cls = 0 := by
  simp only [mossAction, hi, mfreeAct, unowned_any hown, Bool.false_eq_true, if_false]
  exact ⟨_, rfl, freeRg_range hwf _⟩

theorem unowned_one (h : ((s.cluAt c.pcl).rg (mossN i.a)).owner = false) :
    ((rgRange (mossN i.a) 1).any fun n => ((s.cluAt c.pcl).rg n).owner) = false := by
  refine unowned_any fun n hn => ?_
  obtain ⟨h1, h2⟩ := mem_rgRange.mp hn
  rwa [show n = mossN i.a by omega]

theorem mossAction_mage (hi : i.ins = .mage rd rs1) (hown : ((s.cluAt c.pcl).rg (mossN i.a)).owner = false) :
    mossAction s c i = some (rd, mageWord (s.cluAt c.pcl) (mossN i.a), s) := by
  simp only [mossAction, hi, unowned_one hown, Bool.false_eq_true, if_false]

theorem mossAction_mquery (hi : i.ins = .mquery rd rs1 rs2) (hown : ((s.cluAt c.pcl).rg (mossN i.a)).owner = false) :
    mossAction s c i = some (rd, rgWord ((s.cluAt c.pcl).rg (mossN i.a)) (s.ctxAt c).rdinv,
      if bitOf i.b 0 then s.onCtx c fun x => { x with rdinv := false } else s) := by
  simp only [mossAction, hi, unowned_one hown, Bool.false_eq_true, if_false]
end
end

/-! ### Points that are reached (R114, R115) -/

theorem exec_postPointReached (c : CtxLoc) (en : Eng) (s : State) : exec (.postPointReached c en) s = execPostPointReached c en s := rfl

/-- A point at the head of its queue that is ready makes its action. -/
theorem exec_postPointReached_ready {s : State} {c : CtxLoc} {g : Eng} (hok : c.ok = true) (h : s.pointReady c g = true) :
    exec (.postPointReached c g) s = .next (s.reachPoint c g) := by
  rw [exec_postPointReached, execPostPointReached, atCtx_of_ok hok, if_pos h]

theorem State.onCtx_eq_setCtx (s : State) (c : CtxLoc) (f : Context → Context) : s.onCtx c f = s.setCtx c (f (s.ctxAt c)) := rfl

theorem Context.setQueue_popItem {x : Context} {g : Eng} {i : Item} {r : List Item} (h : (x.queue g).items = i :: r) :
    x.popItem g = x.setQueue g { x.queue g with items := r } := by
  rw [Context.popItem, h]
  rfl

/-- Settles O39: the push, the fence, the change of a counter. -/
theorem pointReached : Obligations.PointReached := by
  intro s c i r x hinv hok hphase
  refine ⟨fun snd rcv hi hitems hready => ?_, fun kinds hi hitems hready => ?_, fun rs1 rs2 hi hitems hready => ?_⟩
  · intro q hroom
    have hitems' : ((s.ctxAt c).queue snd).items = i :: r := hitems
    rw [exec_postPointReached_ready hok hready]
    have hpush := Context.pushTok_room (x := s.ctxAt c) (m := none) hroom
    simp only [State.reachPoint, hitems', hi, State.tokPoint, hpush, if_true, Context.popItem_toks]
    rw [Context.setQueue_popItem hitems']
    rfl
  · have hitems' : ((s.ctxAt c).queue .l).items = i :: r := hitems
    rw [exec_postPointReached_ready hok hready]
    simp only [State.reachPoint, hitems', hi, State.fencePoint_narrow _ _ _ (.inr (.inr rfl))]
    rw [State.onCtx_eq_setCtx, Context.setQueue_popItem hitems']
    rfl
  · have hitems' : ((s.ctxAt c).queue .l).items = i :: r := hitems
    rw [exec_postPointReached_ready hok hready]
    simp only [State.reachPoint, hitems', hi]
    intro hdie
    rw [State.countPoint_near (.inr (.inr rfl)) hdie, State.onCtx_with_adds, State.onCtx_eq_setCtx, Context.setQueue_popItem hitems']
    rfl

/-- Settles O40: what each word does to the row groups, and its reply. -/
theorem mossWordActions : Obligations.MossWordActions := by
  intro s c i r x cl n0 k hinv hwf hok hitems hphase hready hwait howner done
  have hown : ∀ n ∈ rgRange n0 k, (cl.rg n).owner = false := by
    intro n hn
    obtain ⟨h1, h2⟩ := mem_rgRange.mp hn
    exact howner n h1 (by omega)
  have hown1 : (cl.rg n0).owner = false := howner n0 (Nat.le_refl _) (by omega)
  have hreach (hm : s.reachPoint c .l = s.mossPoint c i r) : exec (.postPointReached c .l) s = .next (s.mossPoint c i r) := by
    rw [exec_postPointReached_ready hok hready, hm]
  have hitems' : ((s.ctxAt c).queue .l).items = i :: r := hitems
  have hdone {rd : Reg} {v : Word} {t : State} (hm : s.reachPoint c .l = s.mossPoint c i r) (ha : mossAction s c i = some (rd, v, t))
      (hfree : ∀ rd rs1 rs2, i.ins = .mfree rd rs1 rs2 → storing s c.pcl (mossN i.a) (mossC i.b) = false)
      (hrefresh : ∀ rd rs1 rs2, i.ins ≠ .mrefresh rd rs1 rs2) (ht : t.ctxAt c = x) (hmem : t.mem = s.mem) (hto : twf t.others {} = true) :
      done rd v (t.onCtx c fun y => { y.setRg rd v with ql := { y.ql with items := r } }) := by
    refine ⟨(hreach hm).trans (congrArg Host.Outcome.next (mossPoint_pops ha hfree hrefresh (ht.symm ▸ hwait))), ?_, ?_⟩
    · rw [State.ctxAt_onCtx_same hto, ht]
    · rw [State.onCtx_mem, hmem]
  refine ⟨fun cls rd rs1 rs2 hi => ⟨fun ⟨n, h1, h2, h3⟩ => ?_, fun hfree e he => ?_⟩, fun rd rs1 rs2 hi hst => ?_, fun rd rs1 hi => ?_,
    fun rd rs1 rs2 hi hb => ?_⟩
  · have hm : s.reachPoint c .l = s.mossPoint c i r := by simp only [State.reachPoint, hitems', hi]
    have ha := mossAction_mclass_refused hi hown hinv ⟨n, mem_rgRange.mpr ⟨h1, h2⟩, h3⟩
    refine ⟨_, hdone hm ha (fun _ _ _ h => ?_) (fun _ _ _ h => ?_) rfl rfl hinv.others, ?_⟩
    · rw [hi] at h; exact nomatch h
    · rw [hi] at h; exact nomatch h
    · rw [State.onCtx_clus]
  · have hm : s.reachPoint c .l = s.mossPoint c i r := by simp only [State.reachPoint, hitems', hi]
    obtain ⟨cl', ha, hcl⟩ := mossAction_mclass hi hown hwf (fun n hn => hfree n (mem_rgRange.mp hn).1 (mem_rgRange.mp hn).2) he
    refine ⟨_, hdone hm ha (fun _ _ _ h => ?_) (fun _ _ _ h => ?_) rfl rfl hinv.others, fun n h1 h2 => ?_⟩
    · rw [hi] at h; exact nomatch h
    · rw [hi] at h; exact nomatch h
    · have hclu : ((s.setClu c.pcl cl').onCtx c fun y => { y.setRg rd 0 with ql := { y.ql with items := r } }).cluAt c.pcl = cl' := by
        rw [State.cluAt, State.onCtx_clus]
        exact State.cluAt_setClu_same hinv.clus _ _
      rw [hclu]
      exact hcl n (mem_rgRange.mpr ⟨h1, h2⟩)
  · have hm : s.reachPoint c .l = s.mossPoint c i r := by simp only [State.reachPoint, hitems', hi]
    obtain ⟨cl', ha, hcl⟩ := mossAction_mfree hi hown hwf
    refine ⟨_, hdone hm ha (fun _ _ _ _ => hst) (fun _ _ _ h => ?_) rfl rfl hinv.others, fun n h1 h2 => ?_⟩
    · rw [hi] at h; exact nomatch h
    · have hclu : ((s.setClu c.pcl cl').onCtx c fun y => { y.setRg rd 0 with ql := { y.ql with items := r } }).cluAt c.pcl = cl' := by
        rw [State.cluAt, State.onCtx_clus]
        exact State.cluAt_setClu_same hinv.clus _ _
      rw [hclu]
      exact hcl n (mem_rgRange.mpr ⟨h1, h2⟩)
  · have hm : s.reachPoint c .l = s.mossPoint c i r := by simp only [State.reachPoint, hitems', hi]
    have ha := mossAction_mage hi hown1
    refine ⟨_, hdone hm ha (fun _ _ _ h => ?_) (fun _ _ _ h => ?_) rfl rfl hinv.others, ?_⟩
    · rw [hi] at h; exact nomatch h
    · rw [hi] at h; exact nomatch h
    · rw [State.onCtx_clus]
  · have hm : s.reachPoint c .l = s.mossPoint c i r := by simp only [State.reachPoint, hitems', hi]
    have ha := mossAction_mquery hi hown1
    have hbit : bitOf i.b 0 = false := by rw [hb]; rfl
    rw [hbit] at ha
    refine ⟨_, hdone hm ha (fun _ _ _ h => ?_) (fun _ _ _ h => ?_) rfl rfl hinv.others, ?_⟩
    · rw [hi] at h; exact nomatch h
    · rw [hi] at h; exact nomatch h
    · rw [State.onCtx_clus]
      rfl
end Sys2Proof.Machine
end
section
namespace Sys2Proof.Machine

/-! ### Words whose action is made at a point, at issue (R115) -/

theorem exec_mclass (cls : BitVec 3) (rd rs1 rs2 : Reg) (s : State) : exec (.mclass cls rd rs1 rs2) s = execMclass cls rd rs1 rs2 s := rfl
theorem exec_mfree (rd rs1 rs2 : Reg) (s : State) : exec (.mfree rd rs1 rs2) s = execMfree rd rs1 rs2 s := rfl
theorem exec_mrefresh (rd rs1 rs2 : Reg) (s : State) : exec (.mrefresh rd rs1 rs2) s = execMrefresh rd rs1 rs2 s := rfl
theorem exec_mage (rd rs1 : Reg) (s : State) : exec (.mage rd rs1) s = execMage rd rs1 s := rfl
theorem exec_mquery (rd rs1 rs2 : Reg) (s : State) : exec (.mquery rd rs1 rs2) s = execMquery rd rs1 rs2 s := rfl
theorem exec_launch (rd rs1 : Reg) (s : State) : exec (.launch rd rs1) s = execLaunch rd rs1 s := rfl
theorem exec_launchBlock (rd rs1 : Reg) (s : State) : exec (.launchBlock rd rs1) s = execLaunchBlock rd rs1 s := rfl

/-- A word places its point. -/
def Places (i : Instr) (s : State) (g : Eng) (a b : Word) (k : State → State) : Prop :=
  Issues s i → exec i s = .next (placePoint g i a b k s)

theorem Places.queues {i : Instr} {s : State} {g : Eng} {a b : Word} {k : State → State} (h : Places i s g a b k) : QueuesPoint i s g a b k := by
  intro hne
  refine ⟨fun hroom hi => ?_, fun hfull hi => ?_⟩
  · rw [h hi, placePoint_behind hne hroom]
  · rw [h hi, placePoint_full hfull]

/-- A wait that is noted changes a context in nothing else. -/
theorem Context.waitMark_heldAs (x : Context) (h : Hold) (unit : Nat) (kind : BitVec 8) (obj : Word) :
    ∃ w, ({ x with hold := h } : Context).waitMark unit kind obj = { x with hold := h, waits := w } := by
  unfold Context.waitMark
  split
  · exact ⟨_, rfl⟩
  · exact ⟨_, rfl⟩

/-- BAR holds the next word until the arrival is known (R203). -/
def Context.barHeld (k : BitVec 2) (x : Context) : Context :=
  { x with hold := .arriving }.waitMark 4 wGroup (BitVec.ofNat 64 (getAt x.grp (8 * k.toNat) 8))

theorem Context.barHeld_eq (k : BitVec 2) (x : Context) : ∃ w, x.barHeld k = { x with hold := .arriving, waits := w } :=
  x.waitMark_heldAs .arriving 4 wGroup _

theorem Context.poolHeld_eq (x : Context) : ∃ w, x.poolHeld = { x with hold := .pool, waits := w } := x.waitMark_heldAs .pool 4 wPool 0

section
variable {s : State} {rd rs1 rs2 : Reg}

theorem places_tokpost {snd rcv : Eng} (h : snd ≠ rcv) : Places (.tokpost snd rcv) s snd 0 0 id := by
  intro hi
  rw [exec_tokpost, execTokpost, issue_of_issues hi, if_neg h]

theorem places_fence {kinds : BitVec 4} {sc : Scope} (h : s.cx.intrap = false) : Places (.fence kinds sc) s .l 0 0 id := by
  intro hi
  rw [exec_fence, execFence, issue_of_issues hi, h, if_neg Bool.false_ne_true]

theorem places_countWord {i : Instr} (hexec : exec i s = countWord i rs1 rs2 s) (h : eventBad s s.cx.part s.focus.pcl (s.cx.rg rs1).toNat = none) :
    Places i s .l (s.cx.rg rs1) (s.cx.rg rs2) id := by
  intro hi
  simp only [hexec, countWord, issue_of_issues hi, h]
  rfl

theorem places_bar {k : BitVec 2} {v : GroupView} (h : groupView s k = .ok v) : Places (.bar k) s .l 0 0 fun s => s.onCx (Context.barHeld k) := by
  intro hi
  simp only [exec_bar, execBar, issue_of_issues hi, h]
  rfl

theorem places_bararr {k : BitVec 2} {v : GroupView} (h : groupView s k = .ok v) : Places (.bararr rd k) s .l 0 0 id := by
  intro hi
  simp only [exec_bararr, execBararr, issue_of_issues hi, h]

theorem places_launch {va : Nat} (h : placeOf s.cx.wsize (s.cx.rg rs1) = some (.dev va)) (ha : (s.cx.rg rs1).toNat % 128 = 0) :
    Places (.launch rd rs1) s .l (s.cx.rg rs1) 0 id := by
  intro hi
  simp only [exec_launch, execLaunch, launchWord, issue_of_issues hi, h, ha, bne_self_eq_false, Bool.false_eq_true, if_false]
  rfl

theorem places_launchBlock {va : Nat} (h : placeOf s.cx.wsize (s.cx.rg rs1) = some (.dev va)) (ha : (s.cx.rg rs1).toNat % 128 = 0) :
    Places (.launchBlock rd rs1) s .l (s.cx.rg rs1) 0 fun s => s.onCx Context.poolHeld := by
  intro hi
  simp only [exec_launchBlock, execLaunchBlock, launchWord, issue_of_issues hi, h, ha, bne_self_eq_false, Bool.false_eq_true, if_false, if_true]

theorem places_mossWord {i : Instr} {a b : Context → Word} (hexec : exec i s = mossWord i a b s) (h : mossIssueCheck s i (a s.cx) (b s.cx) = none) :
    Places i s .l (a s.cx) (b s.cx) id := by
  intro hi
  simp only [hexec, mossWord, issue_of_issues hi, h]

theorem bitsOf_high_zero {w : Word} {lo n : Nat} (hn : lo + n = 64) (h : w.toNat < 2 ^ lo) : (bitsOf w lo n != 0) = false := by
  simpa using (bitsOf_top_eq_zero_iff w hn).mpr h

theorem places_mclass {cls : BitVec 3} (h : mossCheck (s.cx.rg rs1) (s.cx.rg rs2) true = none) (hc : mclassCheck s cls (s.cx.rg rs2) = none) :
    Places (.mclass cls rd rs1 rs2) s .l (s.cx.rg rs1) (s.cx.rg rs2) id :=
  places_mossWord (a := fun x => x.rg rs1) (b := fun x => x.rg rs2) (exec_mclass cls rd rs1 rs2 s) (by simp only [mossIssueCheck, h, hc, Option.or_none])

theorem places_mfree (h : mossCheck (s.cx.rg rs1) (s.cx.rg rs2) true = none) (hb : (s.cx.rg rs2).toNat < 2 ^ 16) :
    Places (.mfree rd rs1 rs2) s .l (s.cx.rg rs1) (s.cx.rg rs2) id :=
  places_mossWord (a := fun x => x.rg rs1) (b := fun x => x.rg rs2) (exec_mfree rd rs1 rs2 s)
    (by simp only [mossIssueCheck, h, bitsOf_high_zero (lo := 16) (n := 48) rfl hb, Bool.false_eq_true, if_false, Option.or_none])

theorem places_mrefresh (h : mossCheck (s.cx.rg rs1) (s.cx.rg rs2) true = none) (hb : (s.cx.rg rs2).toNat < 2 ^ 16) :
    Places (.mrefresh rd rs1 rs2) s .l (s.cx.rg rs1) (s.cx.rg rs2) id :=
  places_mossWord (a := fun x => x.rg rs1) (b := fun x => x.rg rs2) (exec_mrefresh rd rs1 rs2 s)
    (by simp only [mossIssueCheck, h, bitsOf_high_zero (lo := 16) (n := 48) rfl hb, Bool.false_eq_true, if_false, Option.or_none])

theorem places_mage (h : mossCheck (s.cx.rg rs1) 0 false = none) : Places (.mage rd rs1) s .l (s.cx.rg rs1) 0 id :=
  places_mossWord (a := fun x => x.rg rs1) (b := fun _ => 0) (exec_mage rd rs1 s) (by simp only [mossIssueCheck, h])

theorem places_mquery (h : mossCheck (s.cx.rg rs1) (s.cx.rg rs2) false = none) (hb : (s.cx.rg rs2).toNat < 2) :
    Places (.mquery rd rs1 rs2) s .l (s.cx.rg rs1) (s.cx.rg rs2) id :=
  places_mossWord (a := fun x => x.rg rs1) (b := fun x => x.rg rs2) (exec_mquery rd rs1 rs2 s)
    (by simp only [mossIssueCheck, h, bitsOf_high_zero (lo := 1) (n := 63) rfl hb, Bool.false_eq_true, if_false, Option.or_none])

end

/-! ### Points that act in their issue cycle -/

/-- A context that holds its front end, with a wait noted: nothing else has changed. -/
def Context.heldAs (x : Context) (f : Context → Context) : Prop := ∃ h w, f x = { x with hold := h, waits := w }

theorem pointReady_heldAs {s : State} {f : Context → Context} (hf : s.cx.heldAs f) (g : Eng) :
    (s.onCx f).pointReady s.focus g = s.pointReady s.focus g := by
  obtain ⟨h, w, hx⟩ := hf
  have hfrozen := State.frozen_onCx (s := s) (f := f) (by rw [hx]; rfl) s.focus.pcl s.focus.sub
  have hat : (s.onCx f).ctxAt s.focus = f s.cx := State.ctxAt_at_focus (s.onCx f)
  have hon : (s.onCx f).engineOn s.focus = s.engineOn s.focus := by
    simp only [State.engineOn, hat, hfrozen, State.ctxAt_at_focus, hx]
    rfl
  simp only [State.pointReady, hat, hfrozen, hon, State.ctxAt_at_focus, hx]
  cases g <;> rfl

/-- A point with nothing ahead that holds the front end makes its action. -/
theorem placePoint_held {s : State} {i : Instr} {a b : Word} {f : Context → Context} (h : Grants s) (hp : s.cx.parked = false)
    (he : s.cx.ql.items = []) (hi : Instr.isPoint i = true) (hf : (s.pointed .l i a b).cx.heldAs f) :
    placePoint .l i a b (fun s => s.onCx f) s = ((s.pointed .l i a b).onCx f).reachPoint s.focus .l := by
  refine placePoint_first (k := fun s => s.onCx f) (g := .l) he ?_
  refine (pointReady_heldAs hf .l).trans ?_
  refine pointReady_of_grants (j := mkItem s.cx i (s.cx.queue .l) a b 0 0) (r := []) (h.pointed .l i a b) ?_ ?_ hi
  · exact (s.cx.pointed_fields .l i a b).2.2.2.2.2.2.trans hp
  · exact pointed_items (g := .l) he

/-- An arrival at its point: under way to the group's entry, the point gone. -/
theorem arrivePoint_ok {s : State} {i : Item} {k : BitVec 2} {rd : Option Reg} {bar : Bool} {l : Launch} {pa : Nat}
    (hl : s.launchOf s.cx = some l) (hpa : groupEntry s s.focus.pcl s.cx.part l (getAt s.cx.grp (8 * k.toNat) 8) = .ok pa) :
    ∃ st o, (s.arrivePoint s.focus i k rd bar).cx = { s.cx.popItem .l with obs := o, replies := s.cx.replies ++ (rd.map BitVec.toNat).toList } ∧
      (s.arrivePoint s.focus i k rd bar).arrivals = s.arrivals ++
        [⟨s.cx.part, pa, getAt s.cx.grp (8 * k.toNat) 8, s.cx.launchid.toNat, false, s.focus, s.cx.serial, rd, bar, st⟩] ∧
      (s.arrivePoint s.focus i k rd bar).mem = s.mem := by
  obtain ⟨st, t, hrel, hdrain⟩ := s.release_wide s.focus (sc := .device) s.focus.pcl rfl
  obtain ⟨hfocus, hcx, -, harr, -, hmem⟩ := State.drainedTo_fields hdrain
  have hact : s.arrivePoint s.focus i k rd bar =
      ({ t with arrivals := t.arrivals ++
        [⟨s.cx.part, pa, getAt s.cx.grp (8 * k.toNat) 8, s.cx.launchid.toNat, false, s.focus, s.cx.serial, rd, bar, st⟩] } : State).onCx
        fun x => { x.popItem .l with replies := x.replies ++ (rd.map BitVec.toNat).toList } := by
    simp only [State.arrivePoint, State.ctxAt_at_focus, hl, hpa, hrel]
    refine State.onCtx_of_focus ?_ _
    exact hfocus
  refine ⟨st, t.cx.obs, ?_, ?_, ?_⟩
  · rw [hact, State.onCx_cx, hcx]
    rfl
  · rw [hact, State.onCx_arrivals, harr]
  · rw [hact]
    exact hmem

/-- A launch at its point whose record is readable, or only poisoned: the request is under way to the pool. -/
theorem launchPoint_ok {s : State} {i : Item} {rd : Reg} {block : Bool} (h : launchUnread s s.focus i.a = none) :
    ∃ st o, (s.launchPoint s.focus i rd block).cx = { s.cx.popItem .l with obs := o, replies := s.cx.replies ++ [rd.toNat] } ∧
      (s.launchPoint s.focus i rd block).launching = s.launching ++
        [⟨s.focus, s.cx.serial, s.cx.part, rd, i.a, block, i.pc, st, s.cx.depth, false⟩] ∧
      (s.launchPoint s.focus i rd block).mem = s.mem := by
  obtain ⟨st, t, hrel, hdrain⟩ := s.release_wide s.focus (sc := .device) s.focus.pcl rfl
  obtain ⟨hfocus, hcx, -, -, hlau, hmem⟩ := State.drainedTo_fields hdrain
  have hact : s.launchPoint s.focus i rd block =
      ({ t with launching := t.launching ++ [⟨s.focus, s.cx.serial, s.cx.part, rd, i.a, block, i.pc, st, s.cx.depth, false⟩] } : State).onCx
        fun x => { x.popItem .l with replies := x.replies ++ [rd.toNat] } := by
    simp only [State.launchPoint, State.ctxAt_at_focus, h, hrel]
    refine State.onCtx_of_focus ?_ _
    exact hfocus
  refine ⟨st, t.cx.obs, ?_, ?_, ?_⟩
  · rw [hact, State.onCx_cx, hcx]
    rfl
  · rw [hact, State.onCx_launching, hlau]
  · rw [hact]
    exact hmem

theorem translate_onCx (s : State) (f : Context → Context) (pcl p va : Nat) (k : Acc) : translate (s.onCx f) pcl p va k = translate s pcl p va k := rfl

/-- Memory reads the same whatever the focused context holds. -/
theorem vread_onCx (s : State) (f : Context → Context) (pcl p : Nat) (l : List (Nat × Nat)) : vread (s.onCx f) pcl p l = vread s pcl p l := by
  induction l with
  | nil => rfl
  | cons e r ih =>
    simp only [vread, translate_onCx, ih]
    rfl

theorem vbytes_pointed (s : State) (g : Eng) (i : Instr) (a b : Word) (pcl p va n : Nat) :
    vbytes (s.pointed g i a b) pcl p va n = vbytes s pcl p va n := by
  rw [State.pointed_eq]
  exact vread_onCx s _ pcl p _

/-- The fault of the one point of the L queue: it stands there, marked. -/
theorem pointFault_head {s : State} {c : CtxLoc} {i : Item} {cause : BitVec 8} {tval : Word} (hf : s.focus = c) (hitems : s.cx.ql.items = [i]) :
    s.pointFault c i cause tval =
      (s.onCx fun y => { y with ql := { y.ql with items := y.ql.items.map fun j => { j with phase := .parked 0 } } }).raise c cause tval i.pc
        (some (.l, i.seq, i.pc)) := by
  rw [State.pointFault, State.onCtx_of_focus hf]
  refine congrArg (fun t : State => t.raise c cause tval i.pc (some (.l, i.seq, i.pc))) ?_
  simp only [State.onCx, hitems]
  rfl

/-- A walk that is reported changes the log alone. -/
theorem State.noteWalk_onCx (s : State) (f : Context → Context) (a b n : Nat) : (s.onCx f).noteWalk a b n = (s.noteWalk a b n).onCx f := by
  have h : leafOf (s.onCx f) a b n = leafOf s a b n := rfl
  unfold State.noteWalk
  rw [h]
  split <;> rfl

theorem State.noteWalk_focus (s : State) (a b n : Nat) : (s.noteWalk a b n).focus = s.focus := by
  unfold State.noteWalk
  split <;> rfl

/-- What a context with a point more, holding or not, is after the point has left. -/
theorem popItem_held {x y : Context} {i : Instr} {a b : Word} {h : Hold} {w : Tbl (BitVec 8 × Word)} (he : x.ql.items = [])
    (hy : y = { x.pointed .l i a b with hold := h, waits := w }) :
    (y.popItem .l).pc = x.pc + 4 ∧ (y.popItem .l).ql.items = [] ∧ (y.popItem .l).regs = x.regs ∧ (y.popItem .l).hold = h := by
  subst hy
  refine ⟨rfl, ?_, rfl, rfl⟩
  show (x.ql.items ++ [mkItem x i x.ql a b 0 0]).drop 1 = []
  rw [he]
  rfl

section
variable {s : State} {rd rs1 rs2 : Reg} {k : BitVec 2}

/-- The head of the L queue of a context that placed a point into an empty one. -/
theorem held_items {i : Instr} {a b : Word} {f : Context → Context} (he : s.cx.ql.items = []) (hf : (s.pointed .l i a b).cx.heldAs f) :
    (((s.pointed .l i a b).onCx f).ctxAt s.focus).ql.items = [mkItem s.cx i s.cx.ql a b 0 0] := by
  obtain ⟨h, w, hx⟩ := hf
  have hat : ((s.pointed .l i a b).onCx f).ctxAt s.focus = f (s.pointed .l i a b).cx := State.ctxAt_at_focus _
  rw [hat, hx]
  exact pointed_items (g := .l) he

/-- The arrival of a word that finds the L queue empty. -/
theorem arrival_acts {i : Instr} {f : Context → Context} {rd : Option Reg} {bar : Bool} {l : Launch} {pa : Nat} {hold : Hold} {w : Tbl (BitVec 8 × Word)}
    (hf : f (s.pointed .l i 0 0).cx = { (s.pointed .l i 0 0).cx with hold := hold, waits := w }) (he : s.cx.ql.items = [])
    (hl : s.launchOf s.cx = some l) (hpa : groupEntry s s.focus.pcl s.cx.part l (getAt s.cx.grp (8 * k.toNat) 8) = .ok pa) :
    let t := ((s.pointed .l i 0 0).onCx f).arrivePoint s.focus (mkItem s.cx i s.cx.ql 0 0 0 0) k rd bar
    (t.cx.pc = s.cx.pc + 4 ∧ t.cx.ql.items = [] ∧ t.cx.regs = s.cx.regs ∧ t.cx.replies = s.cx.replies ++ (rd.map BitVec.toNat).toList ∧ t.mem = s.mem) ∧
      t.cx.hold = hold ∧ ∃ st, t.arrivals = s.arrivals ++
        [⟨s.cx.part, pa, getAt s.cx.grp (8 * k.toNat) 8, s.cx.launchid.toNat, false, s.focus, s.cx.serial, rd, bar, st⟩] := by
  let u := (s.pointed .l i 0 0).onCx f
  have hu : u.cx = { s.cx.pointed .l i 0 0 with hold := hold, waits := w } := hf
  have hlu : u.launchOf u.cx = some l := by
    rw [hu]
    exact hl
  have hgrp : u.cx.grp = s.cx.grp := by rw [hu]; rfl
  have hpart : u.cx.part = s.cx.part := by rw [hu]; rfl
  have hpau : groupEntry u u.focus.pcl u.cx.part l (getAt u.cx.grp (8 * k.toNat) 8) = .ok pa := by
    rw [hgrp, hpart]
    exact hpa
  obtain ⟨st, o, hcx, harr, hmem⟩ := arrivePoint_ok (i := mkItem s.cx i s.cx.ql 0 0 0 0) (rd := rd) (bar := bar) hlu hpau
  obtain ⟨hpc, hql, hregs, hhold⟩ := popItem_held he hu
  refine ⟨⟨?_, ?_, ?_, ?_, hmem⟩, ?_, st, ?_⟩
  · exact (congrArg Context.pc hcx).trans hpc
  · exact (congrArg (fun y => y.ql.items) hcx).trans hql
  · exact (congrArg Context.regs hcx).trans hregs
  · refine (congrArg Context.replies hcx).trans ?_
    show u.cx.replies ++ _ = _
    rw [hu]
    rfl
  · exact (congrArg Context.hold hcx).trans hhold
  · refine harr.trans ?_
    rw [hu]
    rfl

/-- The request of a LAUNCH that finds the L queue empty, whose record is readable. -/
theorem launch_acts {i : Instr} {a : Word} {f : Context → Context} {block : Bool} {hold : Hold} {w : Tbl (BitVec 8 × Word)}
    (hf : f (s.pointed .l i a 0).cx = { (s.pointed .l i a 0).cx with hold := hold, waits := w }) (he : s.cx.ql.items = [])
    (hread : ∀ e, vbytes s s.focus.pcl s.cx.part a.toNat 128 = .error e → e.1 = 0x0D) :
    let t := ((s.pointed .l i a 0).onCx f).launchPoint s.focus (mkItem s.cx i s.cx.ql a 0 0 0) rd block
    (t.cx.pc = s.cx.pc + 4 ∧ t.cx.ql.items = [] ∧ t.cx.regs = s.cx.regs ∧ t.cx.replies = s.cx.replies ++ [rd.toNat] ∧ t.mem = s.mem) ∧
      t.cx.hold = hold ∧ ∃ st, t.launching = s.launching ++
        [⟨s.focus, s.cx.serial, s.cx.part, rd, a, block, s.cx.pc, st, s.cx.depth, false⟩] := by
  let u := (s.pointed .l i a 0).onCx f
  have hu : u.cx = { s.cx.pointed .l i a 0 with hold := hold, waits := w } := hf
  have hpart : (u.ctxAt u.focus).part = s.cx.part := by
    rw [State.ctxAt_at_focus, hu]
    rfl
  have hunread : launchUnread u u.focus (mkItem s.cx i s.cx.ql a 0 0 0).a = none := by
    unfold launchUnread
    rw [hpart]
    have hvu : vbytes u u.focus.pcl s.cx.part (mkItem s.cx i s.cx.ql a 0 0 0).a.toNat 128 = vbytes s s.focus.pcl s.cx.part a.toNat 128 :=
      (vread_onCx _ f _ _ _).trans (vbytes_pointed s _ _ _ _ _ _ _ _)
    rw [hvu]
    split
    · exact if_pos (hread _ ‹_›)
    · rfl
  obtain ⟨st, o, hcx, hlau, hmem⟩ := launchPoint_ok (rd := rd) (block := block) hunread
  obtain ⟨hpc, hql, hregs, hhold⟩ := popItem_held he hu
  refine ⟨⟨?_, ?_, ?_, ?_, hmem⟩, ?_, st, ?_⟩
  · exact (congrArg Context.pc hcx).trans hpc
  · exact (congrArg (fun y => y.ql.items) hcx).trans hql
  · exact (congrArg Context.regs hcx).trans hregs
  · refine (congrArg Context.replies hcx).trans ?_
    show u.cx.replies ++ _ = _
    rw [hu]
    rfl
  · exact (congrArg Context.hold hcx).trans hhold
  · refine hlau.trans ?_
    rw [hu]
    rfl

/-- A LAUNCH whose record is not readable: a fault with the word marked. -/
theorem launch_faults {e : BitVec 8 × Nat} (he : s.cx.ql.items = []) {a : Word} (hv : vbytes s s.focus.pcl s.cx.part a.toNat 128 = .error e)
    (hne : e.1 ≠ 0x0D) :
    let u := (s.pointed .l (.launch rd rs1) a 0).onCx fun y => { y with ql := { y.ql with items := y.ql.items.map fun j => { j with phase := .parked 0 } } }
    (s.pointed .l (.launch rd rs1) a 0).launchPoint s.focus (mkItem s.cx (.launch rd rs1) s.cx.ql a 0 0 0) rd false =
      (if e.1 = 0x08 then u.noteWalk s.focus.pcl s.cx.part e.2 else u).raise s.focus e.1 (BitVec.ofNat 64 e.2) s.cx.pc
        (some (.l, s.cx.ql.issued, s.cx.pc)) := by
  intro u
  have hitems : (s.pointed .l (.launch rd rs1) a 0).cx.ql.items = [mkItem s.cx (.launch rd rs1) s.cx.ql a 0 0 0] := pointed_items (g := .l) he
  have hunread : launchUnread (s.pointed .l (.launch rd rs1) a 0) s.focus a = some e := by
    rw [launchUnread, vbytes_pointed, State.ctxAt_pointed]
    rw [show vbytes s s.focus.pcl (s.pointed .l (.launch rd rs1) a 0).cx.part a.toNat 128 = .error e from hv]
    exact if_neg hne
  have hpoint : (s.pointed .l (.launch rd rs1) a 0).launchPoint s.focus (mkItem s.cx (.launch rd rs1) s.cx.ql a 0 0 0) rd false =
      (if e.1 = 0x08 then (s.pointed .l (.launch rd rs1) a 0).noteWalk s.focus.pcl ((s.pointed .l (.launch rd rs1) a 0).ctxAt s.focus).part e.2
        else s.pointed .l (.launch rd rs1) a 0).pointFault s.focus (mkItem s.cx (.launch rd rs1) s.cx.ql a 0 0 0) e.1 (BitVec.ofNat 64 e.2) := by
    simp only [State.launchPoint]
    rw [show launchUnread (s.pointed .l (.launch rd rs1) a 0) s.focus (mkItem s.cx (.launch rd rs1) s.cx.ql a 0 0 0).a = some e from hunread]
  rw [hpoint]
  split
  · have hcx (v : State) (a b n : Nat) : (v.noteWalk a b n).cx = v.cx := by
      unfold State.noteWalk
      split <;> rfl
    rw [pointFault_head (s := (s.pointed .l (.launch rd rs1) a 0).noteWalk _ _ _) (c := s.focus) (State.noteWalk_focus _ _ _ _) (by rw [hcx]; exact hitems), ← State.noteWalk_onCx, State.ctxAt_pointed]
    rfl
  · rw [pointFault_head (c := s.focus) (State.pointed_focus _ _ _ _ _) hitems]
    rfl

/-! ### The MOSS words with nothing ahead of them -/

variable {i : Instr} {a b : Word}

/-- A word that has replied and left: its point has moved pc alone. -/
theorem pointed_reply (he : s.cx.ql.items = []) (v : Word) :
    ((s.pointed .l i a b).onCtx s.focus fun x => { x.setRg rd v with ql := { x.ql with items := [] } }) = s.wrote rd v := by
  rw [State.onCtx_of_focus (State.pointed_focus s .l i a b)]
  have hq : ({ s.cx.ql with items := [] } : Queue) = s.cx.ql := Queue.with_items_nil he
  have hx : { (s.cx.pointed .l i a b).setRg rd v with ql := { s.cx.ql with items := [] } } = { s.cx.setRg rd v with pc := s.cx.pc + 4 } := by
    rw [hq]
    unfold Context.setRg
    split <;> rfl
  exact congrArg (fun x => ({ s with cx := x } : State)) hx

theorem storing_pointed (he : s.cx.ql.items = []) (pcl n0 n : Nat) : storing (s.pointed .l i a b) pcl n0 n = storing s pcl n0 n := by
  have hitems : (s.pointed .l i a b).cx.ql.items = [mkItem s.cx i s.cx.ql a b 0 0] := pointed_items (g := .l) he
  unfold storing
  rw [State.contexts, State.contexts, List.any_cons, List.any_cons, hitems, he, List.any_append, List.any_append, List.any_cons, List.any_nil]
  rw [show (mkItem s.cx i s.cx.ql a b 0 0).parts = [] from rfl, List.any_nil, Bool.and_false, Bool.false_or]
  rfl

/-- A MOSS word that finds the L queue empty makes its action. -/
theorem exec_moss_acts (hplace : Places i s .l a b id) (hi : Instr.isPoint i = true) (hh : handlerOk i = false) (he : s.cx.ql.items = [])
    (hp : s.cx.parked = false)
    (hm : (s.pointed .l i a b).reachPoint s.focus .l = (s.pointed .l i a b).mossPoint s.focus (mkItem s.cx i s.cx.ql a b 0 0) [])
    (h : Issues s i) : exec i s = .next ((s.pointed .l i a b).mossPoint s.focus (mkItem s.cx i s.cx.ql a b 0 0) []) := by
  rw [hplace h, placePoint_acts (g := .l) (h.grants (h.intrap_false hh)) hp he hi, hm]

/-- The action of a MOSS word that finds the L queue empty is made, and the word replies. -/
theorem moss_acts {v : Word} {t : State} (hplace : Places i s .l a b id) (hi : Instr.isPoint i = true) (hh : handlerOk i = false)
    (he : s.cx.ql.items = []) (hp : s.cx.parked = false)
    (hm : (s.pointed .l i a b).reachPoint s.focus .l = (s.pointed .l i a b).mossPoint s.focus (mkItem s.cx i s.cx.ql a b 0 0) [])
    (ha : mossAction (s.pointed .l i a b) s.focus (mkItem s.cx i s.cx.ql a b 0 0) = some (rd, v, t))
    (hfree : ∀ rd rs1 rs2, i = .mfree rd rs1 rs2 → storing s s.focus.pcl (mossN a) (mossC b) = false)
    (hrefresh : ∀ rd rs1 rs2, i ≠ .mrefresh rd rs1 rs2) (ht : tfind (t.ctxAt s.focus).waits 2 = none) (h : Issues s i) :
    exec i s = .next (t.onCtx s.focus fun x => { x.setRg rd v with ql := { x.ql with items := [] } }) := by
  rw [exec_moss_acts hplace hi hh he hp hm h]
  exact congrArg Host.Outcome.next
    (mossPoint_pops ha (fun rd rs1 rs2 e => (storing_pointed he _ _ _).trans (hfree rd rs1 rs2 e)) hrefresh ht)
end

theorem reachPoint_head {s : State} {c : CtxLoc} {j : Item} {r : List Item} (h : ((s.ctxAt c).queue .l).items = j :: r)
    (hj : (∃ cls rd rs1 rs2, j.ins = .mclass cls rd rs1 rs2) ∨ (∃ rd rs1 rs2, j.ins = .mfree rd rs1 rs2) ∨ (∃ rd rs1 rs2, j.ins = .mrefresh rd rs1 rs2) ∨
      (∃ rd rs1, j.ins = .mage rd rs1) ∨ ∃ rd rs1 rs2, j.ins = .mquery rd rs1 rs2) : s.reachPoint c .l = s.mossPoint c j r := by
  simp only [State.reachPoint, h]
  rcases hj with ⟨_, _, _, _, hj⟩ | ⟨_, _, _, hj⟩ | ⟨_, _, _, hj⟩ | ⟨_, _, hj⟩ | ⟨_, _, _, hj⟩ <;> rw [hj]

section
variable {s : State} {rd rs1 rs2 : Reg} {a b : Word}

theorem pointed_waits (i : Instr) (a b : Word) : ((s.pointed .l i a b).ctxAt s.focus).waits = s.cx.waits := by
  rw [State.ctxAt_pointed]
  rfl

theorem pointed_head (i : Instr) (a b : Word) (he : s.cx.ql.items = []) :
    (((s.pointed .l i a b).ctxAt s.focus).queue .l).items = [mkItem s.cx i (s.cx.queue .l) a b 0 0] := by
  rw [State.ctxAt_pointed]
  exact pointed_items (g := .l) he

/-- A MOSS word whose action changes nothing but its reply. -/
theorem completes_moss_reply {i : Instr} {v : Word} (hplace : Places i s .l a b id) (hi : Instr.isPoint i = true) (hh : handlerOk i = false)
    (he : s.cx.ql.items = []) (hp : s.cx.parked = false) (hw : tfind s.cx.waits 2 = none)
    (hj : (∃ cls rd rs1 rs2, i = .mclass cls rd rs1 rs2) ∨ (∃ rd rs1 rs2, i = .mfree rd rs1 rs2) ∨ (∃ rd rs1 rs2, i = .mrefresh rd rs1 rs2) ∨
      (∃ rd rs1, i = .mage rd rs1) ∨ ∃ rd rs1 rs2, i = .mquery rd rs1 rs2)
    (ha : mossAction (s.pointed .l i a b) s.focus (mkItem s.cx i s.cx.ql a b 0 0) = some (rd, v, s.pointed .l i a b))
    (hfree : ∀ rd rs1 rs2, i = .mfree rd rs1 rs2 → storing s s.focus.pcl (mossN a) (mossC b) = false)
    (hrefresh : ∀ rd rs1 rs2, i ≠ .mrefresh rd rs1 rs2) : Completes i s (s.wrote rd v) := by
  intro h
  rw [moss_acts hplace hi hh he hp (reachPoint_head (pointed_head i a b he) hj) ha hfree hrefresh (by rw [pointed_waits]; exact hw) h,
    pointed_reply he]

/-- A MOSS word whose action changes the cluster and replies. -/
theorem moss_changes {i : Instr} {v : Word} {cl : Cluster} (hinv : s.Inv) (hplace : Places i s .l a b id) (hi : Instr.isPoint i = true)
    (hh : handlerOk i = false) (he : s.cx.ql.items = []) (hp : s.cx.parked = false) (hw : tfind s.cx.waits 2 = none)
    (hj : (∃ cls rd rs1 rs2, i = .mclass cls rd rs1 rs2) ∨ (∃ rd rs1 rs2, i = .mfree rd rs1 rs2) ∨ (∃ rd rs1 rs2, i = .mrefresh rd rs1 rs2) ∨
      (∃ rd rs1, i = .mage rd rs1) ∨ ∃ rd rs1 rs2, i = .mquery rd rs1 rs2)
    (ha : mossAction (s.pointed .l i a b) s.focus (mkItem s.cx i s.cx.ql a b 0 0) = some (rd, v, (s.pointed .l i a b).setClu s.focus.pcl cl))
    (hfree : ∀ rd rs1 rs2, i = .mfree rd rs1 rs2 → storing s s.focus.pcl (mossN a) (mossC b) = false)
    (hrefresh : ∀ rd rs1 rs2, i ≠ .mrefresh rd rs1 rs2) (h : Issues s i) :
    ∃ t, exec i s = .next t ∧ t.cx = (s.wrote rd v).cx ∧ t.mem = s.mem ∧ t.cluAt s.focus.pcl = cl := by
  have hreply := pointed_reply (s := s) (rd := rd) (i := i) (a := a) (b := b) he v
  rw [State.onCtx_of_focus (State.pointed_focus _ _ _ _ _)] at hreply
  refine ⟨_, moss_acts hplace hi hh he hp (reachPoint_head (pointed_head i a b he) hj) ha hfree hrefresh ?_ h, ?_, ?_, ?_⟩
  · show tfind ((s.pointed .l i a b).ctxAt s.focus).waits 2 = none
    rw [pointed_waits]
    exact hw
  · rw [State.onCtx_of_focus (s := (s.pointed .l i a b).setClu s.focus.pcl cl) (c := s.focus) rfl]
    have hcx := congrArg State.cx hreply
    exact hcx
  · rw [State.onCtx_mem]
    rfl
  · rw [State.cluAt, State.onCtx_clus]
    exact State.cluAt_setClu_same (s := s.pointed .l i a b) hinv.clus _ _

/-- What the head of the L queue does at its point, for the words of groups and launches. -/
theorem reachPoint_bararr {c : CtxLoc} {j : Item} {r : List Item} {k : BitVec 2} (h : ((s.ctxAt c).queue .l).items = j :: r)
    (hj : j.ins = .bararr rd k) : s.reachPoint c .l = s.arrivePoint c j k (some rd) false := by
  simp only [State.reachPoint, h, hj]

theorem reachPoint_bar {c : CtxLoc} {j : Item} {r : List Item} {k : BitVec 2} (h : ((s.ctxAt c).queue .l).items = j :: r)
    (hj : j.ins = .bar k) : s.reachPoint c .l = s.arrivePoint c j k none true := by
  simp only [State.reachPoint, h, hj]

theorem reachPoint_launch {c : CtxLoc} {j : Item} {r : List Item} (h : ((s.ctxAt c).queue .l).items = j :: r)
    (hj : j.ins = .launch rd rs1) : s.reachPoint c .l = s.launchPoint c j rd false := by
  simp only [State.reachPoint, h, hj]

theorem reachPoint_launchBlock {c : CtxLoc} {j : Item} {r : List Item} (h : ((s.ctxAt c).queue .l).items = j :: r)
    (hj : j.ins = .launchBlock rd rs1) : s.reachPoint c .l = s.launchPoint c j rd true := by
  simp only [State.reachPoint, h, hj]

/-- MREFRESH with row groups to rewrite: it queues them, and stays. -/
theorem mrefresh_queues (hinv : s.Inv) (hplace : Places (.mrefresh rd rs1 rs2) s .l a b id) (he : s.cx.ql.items = [])
    (hp : s.cx.parked = false) (hw : tfind s.cx.waits 2 = none)
    (hown : ∀ n ∈ rgRange (mossN a) (mossC b), ((s.cluAt s.focus.pcl).rg n).owner = false) (h : Issues s (.mrefresh rd rs1 rs2)) :
    let ns := refreshed (s.cluAt s.focus.pcl) (mossN a) (mossC b)
    (ns = [] → exec (.mrefresh rd rs1 rs2) s = .next (s.wrote rd 0)) ∧
    (ns ≠ [] → ∃ t j, exec (.mrefresh rd rs1 rs2) s = .next t ∧ t.cx.ql.items = [j] ∧ j.left = ns.length ∧ t.cx.pc = s.cx.pc + 4 ∧
      t.cx.regs = s.cx.regs ∧ t.mem = s.mem ∧
      (t.cluAt s.focus.pcl).rewrites = (s.cluAt s.focus.pcl).rewrites ++ ns.map fun n => ({ n := n, who := some s.focus } : Rewrite)) := by
  intro ns
  let i : Instr := .mrefresh rd rs1 rs2
  have hexec := exec_moss_acts hplace rfl rfl he hp (reachPoint_head (pointed_head i a b he) (.inr (.inr (.inl ⟨rd, rs1, rs2, rfl⟩)))) h
  have ha : mossAction (s.pointed .l i a b) s.focus (mkItem s.cx i s.cx.ql a b 0 0) = some (rd, 0, s.pointed .l i a b) := by
    have hany : ((rgRange (mossN a) (mossC b)).any fun n => (((s.pointed .l i a b).cluAt s.focus.pcl).rg n).owner) = false := unowned_any hown
    show (if ((rgRange (mossN a) (mossC b)).any fun n => (((s.pointed .l i a b).cluAt s.focus.pcl).rg n).owner) = true then none else _) = _
    rw [hany]
    rfl
  have hwait : tfind ((s.pointed .l i a b).ctxAt s.focus).waits 2 = none := by
    rw [pointed_waits]
    exact hw
  have hpoint : (s.pointed .l i a b).mossPoint s.focus (mkItem s.cx i s.cx.ql a b 0 0) [] =
      if ns.isEmpty then s.wrote rd 0
      else ((s.pointed .l i a b).onClu s.focus.pcl fun cl =>
          { cl with rewrites := cl.rewrites ++ ns.map fun n => { n := n, who := some s.focus } }).onCtx s.focus fun x =>
            { x with ql := { x.ql with items := [{ mkItem s.cx i s.cx.ql a b 0 0 with phase := .going, left := ns.length }] } } := by
    have hins : (mkItem s.cx i s.cx.ql a b 0 0).ins = .mrefresh rd rs1 rs2 := rfl
    simp only [State.mossPoint, ha, State.waitEnd_none hwait, hins, Bool.false_eq_true, if_false]
    rw [← pointed_reply (i := i) (a := a) (b := b) he]
    rfl
  refine ⟨fun hns => ?_, fun hns => ?_⟩
  · rw [hexec, hpoint, hns]
    rfl
  · have hne : ns.isEmpty = false := by simpa using hns
    rw [hne, if_neg Bool.false_ne_true] at hpoint
    refine ⟨_, { mkItem s.cx i s.cx.ql a b 0 0 with phase := .going, left := ns.length }, hexec.trans (congrArg Host.Outcome.next hpoint), ?_⟩
    rw [State.onCtx_of_focus (s := (s.pointed .l i a b).onClu _ _) (c := s.focus) rfl]
    refine ⟨rfl, rfl, rfl, rfl, rfl, ?_⟩
    have hclu := congrArg Cluster.rewrites (State.cluAt_onClu_same (s := s.pointed .l i a b) hinv.clus s.focus.pcl
      fun cl => { cl with rewrites := cl.rewrites ++ ns.map fun n => { n := n, who := some s.focus } })
    exact hclu

end

/-- Without a count the second operand is not looked at. -/
theorem mossCheck_count {a b : Word} : mossCheck a 0 false = mossCheck a b false := by
  simp only [mossCheck, Bool.false_and, Bool.false_eq_true, if_false]

section
variable {s : State} {rd rs1 rs2 : Reg} {k : BitVec 2} {cls : BitVec 3}

/-- A word of the L queue has passed with its queue empty, and waits for its replies. -/
def Past (s t : State) (rs : List Nat) : Prop :=
  t.cx.pc = s.cx.pc + 4 ∧ t.cx.ql.items = [] ∧ t.cx.regs = s.cx.regs ∧ t.cx.replies = s.cx.replies ++ rs ∧ t.mem = s.mem

theorem bararr_arrives {v : GroupView} {l : Launch} {pa : Nat} (he : s.cx.ql.items = []) (hp : s.cx.parked = false) (hv : groupView s k = .ok v)
    (hl : s.launchOf s.cx = some l) (hpa : groupEntry s s.focus.pcl s.cx.part l (getAt s.cx.grp (8 * k.toNat) 8) = .ok pa)
    (h : Issues s (.bararr rd k)) :
    ∃ t st, exec (.bararr rd k) s = .next t ∧ Past s t [rd.toNat] ∧ t.cx.hold = s.cx.hold ∧ t.arrivals = s.arrivals ++
      [⟨s.cx.part, pa, getAt s.cx.grp (8 * k.toNat) 8, s.cx.launchid.toNat, false, s.focus, s.cx.serial, some rd, false, st⟩] := by
  obtain ⟨hpast, hhold, st, harr⟩ := arrival_acts (i := .bararr rd k) (f := id) (rd := some rd) (bar := false) (hold := s.cx.hold) (w := s.cx.waits)
    rfl he hl hpa
  refine ⟨_, st, ?_, hpast, hhold, harr⟩
  rw [places_bararr hv h, placePoint_acts (g := .l) (h.grants (h.intrap_false rfl)) hp he rfl, reachPoint_bararr (pointed_head _ 0 0 he) rfl]
  rfl

theorem bar_arrives {v : GroupView} {l : Launch} {pa : Nat} (he : s.cx.ql.items = []) (hp : s.cx.parked = false) (hv : groupView s k = .ok v)
    (hl : s.launchOf s.cx = some l) (hpa : groupEntry s s.focus.pcl s.cx.part l (getAt s.cx.grp (8 * k.toNat) 8) = .ok pa)
    (h : Issues s (.bar k)) :
    ∃ t st, exec (.bar k) s = .next t ∧ Past s t [] ∧ t.cx.hold = .arriving ∧ t.arrivals = s.arrivals ++
      [⟨s.cx.part, pa, getAt s.cx.grp (8 * k.toNat) 8, s.cx.launchid.toNat, false, s.focus, s.cx.serial, none, true, st⟩] := by
  obtain ⟨w, hf⟩ := (s.pointed .l (.bar k) 0 0).cx.barHeld_eq k
  obtain ⟨hpast, hhold, st, harr⟩ := arrival_acts (i := .bar k) (f := Context.barHeld k) (rd := none) (bar := true) (hold := .arriving) (w := w)
    hf he hl hpa
  refine ⟨_, st, ?_, hpast, hhold, harr⟩
  rw [places_bar hv h, placePoint_held (h.grants (h.intrap_false rfl)) hp he rfl ⟨_, _, hf⟩, reachPoint_bar (held_items he ⟨_, _, hf⟩) rfl]

variable {va : Nat} (hva : placeOf s.cx.wsize (s.cx.rg rs1) = some (.dev va)) (ha : (s.cx.rg rs1).toNat % 128 = 0)

include hva ha

theorem launch_requests (he : s.cx.ql.items = []) (hp : s.cx.parked = false)
    (hread : ∀ e, vbytes s s.focus.pcl s.cx.part (s.cx.rg rs1).toNat 128 = .error e → e.1 = 0x0D) (h : Issues s (.launch rd rs1)) :
    ∃ t st, exec (.launch rd rs1) s = .next t ∧ Past s t [rd.toNat] ∧ t.cx.hold = s.cx.hold ∧
      t.launching = s.launching ++ [⟨s.focus, s.cx.serial, s.cx.part, rd, s.cx.rg rs1, false, s.cx.pc, st, s.cx.depth, false⟩] := by
  obtain ⟨hpast, hhold, st, hlau⟩ := launch_acts (rd := rd) (i := .launch rd rs1) (f := id) (block := false) (hold := s.cx.hold) (w := s.cx.waits)
    rfl he hread
  refine ⟨_, st, ?_, hpast, hhold, hlau⟩
  rw [places_launch hva ha h, placePoint_acts (g := .l) (h.grants (h.intrap_false rfl)) hp he rfl, reachPoint_launch (pointed_head _ _ 0 he) rfl]
  rfl

theorem launchBlock_requests (he : s.cx.ql.items = []) (hp : s.cx.parked = false)
    (hread : ∀ e, vbytes s s.focus.pcl s.cx.part (s.cx.rg rs1).toNat 128 = .error e → e.1 = 0x0D) (h : Issues s (.launchBlock rd rs1)) :
    ∃ t st, exec (.launchBlock rd rs1) s = .next t ∧ Past s t [rd.toNat] ∧ t.cx.hold = .pool ∧
      t.launching = s.launching ++ [⟨s.focus, s.cx.serial, s.cx.part, rd, s.cx.rg rs1, true, s.cx.pc, st, s.cx.depth, false⟩] := by
  obtain ⟨w, hf⟩ := (s.pointed .l (.launchBlock rd rs1) (s.cx.rg rs1) 0).cx.poolHeld_eq
  obtain ⟨hpast, hhold, st, hlau⟩ := launch_acts (rd := rd) (i := .launchBlock rd rs1) (f := Context.poolHeld) (block := true) (hold := .pool) (w := w)
    hf he hread
  refine ⟨_, st, ?_, hpast, hhold, hlau⟩
  rw [places_launchBlock hva ha h, placePoint_held (h.grants (h.intrap_false rfl)) hp he rfl ⟨_, _, hf⟩,
    reachPoint_launchBlock (held_items he ⟨_, _, hf⟩) rfl]

theorem launch_unread (he : s.cx.ql.items = []) (hp : s.cx.parked = false) {e : BitVec 8 × Nat}
    (hv : vbytes s s.focus.pcl s.cx.part (s.cx.rg rs1).toNat 128 = .error e) (hne : e.1 ≠ 0x0D) :
    let u := (s.pointed .l (.launch rd rs1) (s.cx.rg rs1) 0).onCx
      fun y => { y with ql := { y.ql with items := y.ql.items.map fun j => { j with phase := .parked 0 } } }
    Completes (.launch rd rs1) s ((if e.1 = 0x08 then u.noteWalk s.focus.pcl s.cx.part e.2 else u).raise s.focus e.1 (BitVec.ofNat 64 e.2) s.cx.pc
      (some (.l, s.cx.ql.issued, s.cx.pc))) := by
  intro u h
  rw [places_launch hva ha h, placePoint_acts (g := .l) (h.grants (h.intrap_false rfl)) hp he rfl, reachPoint_launch (pointed_head _ _ 0 he) rfl]
  exact congrArg Host.Outcome.next (launch_faults he hv hne)

end

section
variable {s : State} {rd rs1 rs2 : Reg} {cls : BitVec 3} (hinv : s.Inv) (hwf : twf (s.cluAt s.focus.pcl).rgs {} = true) (he : s.cx.ql.items = [])
  (hp : s.cx.parked = false) (hw : tfind s.cx.waits 2 = none)

section
variable (hm : mossCheck (s.cx.rg rs1) (s.cx.rg rs2) true = none) (hc : mclassCheck s cls (s.cx.rg rs2) = none)
  (hown : ∀ n ∈ rgRange (mossN (s.cx.rg rs1)) (mossC (s.cx.rg rs2)), ((s.cluAt s.focus.pcl).rg n).owner = false)

include hinv he hp hw hm hc hown

theorem mclass_refused (hbusy : ∃ n ∈ rgRange (mossN (s.cx.rg rs1)) (mossC (s.cx.rg rs2)), ((s.cluAt s.focus.pcl).rg n).cls ≠ 0) :
    Completes (.mclass cls rd rs1 rs2) s (s.wrote rd 1) :=
  completes_moss_reply (places_mclass hm hc) rfl rfl he hp hw (.inl ⟨_, _, _, _, rfl⟩) (mossAction_mclass_refused rfl hown hinv hbusy)
    (by simp) (by simp)

variable (hfree : ∀ n ∈ rgRange (mossN (s.cx.rg rs1)) (mossC (s.cx.rg rs2)), ((s.cluAt s.focus.pcl).rg n).cls = 0)

include hfree

theorem mclass_full (hfull : tfree (s.cluAt s.focus.pcl).alloc 1 4095 = none) : Completes (.mclass cls rd rs1 rs2) s (s.wrote rd 2) :=
  completes_moss_reply (places_mclass hm hc) rfl rfl he hp hw (.inl ⟨_, _, _, _, rfl⟩) (mossAction_mclass_full rfl hown hinv hfree hfull)
    (by simp) (by simp)

include hwf

theorem mclass_claims {e : Nat} (hent : tfree (s.cluAt s.focus.pcl).alloc 1 4095 = some e) (h : Issues s (.mclass cls rd rs1 rs2)) :
    ∃ t, exec (.mclass cls rd rs1 rs2) s = .next t ∧ t.cx = (s.wrote rd 0).cx ∧ t.mem = s.mem ∧
      ∀ n ∈ rgRange (mossN (s.cx.rg rs1)) (mossC (s.cx.rg rs2)), Claimed cls e ((t.cluAt s.focus.pcl).rg n) := by
  obtain ⟨cl, ha, hcl⟩ := mossAction_mclass (s := s.pointed .l (.mclass cls rd rs1 rs2) (s.cx.rg rs1) (s.cx.rg rs2)) (c := s.focus)
    (i := mkItem s.cx (.mclass cls rd rs1 rs2) s.cx.ql (s.cx.rg rs1) (s.cx.rg rs2) 0 0) rfl hown hwf hfree hent
  obtain ⟨t, hexec, hcx, hmem, hclu⟩ := moss_changes hinv (places_mclass hm hc) rfl rfl he hp hw (.inl ⟨_, _, _, _, rfl⟩) ha (by simp) (by simp) h
  rw [← hclu] at hcl
  exact ⟨t, hexec, hcx, hmem, hcl⟩
end

section
variable (hm : mossCheck (s.cx.rg rs1) (s.cx.rg rs2) true = none) (hb : (s.cx.rg rs2).toNat < 2 ^ 16)
  (hst : storing s s.focus.pcl (mossN (s.cx.rg rs1)) (mossC (s.cx.rg rs2)) = false)

include hinv he hp hw hm hb hst

theorem mfree_refused (hown : ∃ n ∈ rgRange (mossN (s.cx.rg rs1)) (mossC (s.cx.rg rs2)), ((s.cluAt s.focus.pcl).rg n).owner = true) :
    Completes (.mfree rd rs1 rs2) s (s.wrote rd 1) :=
  completes_moss_reply (places_mfree hm hb) rfl rfl he hp hw (.inr (.inl ⟨_, _, _, rfl⟩)) (mossAction_mfree_refused rfl hinv hown)
    (fun _ _ _ _ => hst) (by simp)

include hwf

theorem mfree_frees (hown : ∀ n ∈ rgRange (mossN (s.cx.rg rs1)) (mossC (s.cx.rg rs2)), ((s.cluAt s.focus.pcl).rg n).owner = false)
    (h : Issues s (.mfree rd rs1 rs2)) :
    ∃ t, exec (.mfree rd rs1 rs2) s = .next t ∧ t.cx = (s.wrote rd 0).cx ∧ t.mem = s.mem ∧
      ∀ n ∈ rgRange (mossN (s.cx.rg rs1)) (mossC (s.cx.rg rs2)), ((t.cluAt s.focus.pcl).rg n).cls = 0 := by
  obtain ⟨cl, ha, hcl⟩ := mossAction_mfree (s := s.pointed .l (.mfree rd rs1 rs2) (s.cx.rg rs1) (s.cx.rg rs2)) (c := s.focus)
    (i := mkItem s.cx (.mfree rd rs1 rs2) s.cx.ql (s.cx.rg rs1) (s.cx.rg rs2) 0 0) rfl hown hwf
  obtain ⟨t, hexec, hcx, hmem, hclu⟩ := moss_changes hinv (places_mfree hm hb) rfl rfl he hp hw (.inr (.inl ⟨_, _, _, rfl⟩)) ha
    (fun _ _ _ _ => hst) (by simp) h
  rw [← hclu] at hcl
  exact ⟨t, hexec, hcx, hmem, hcl⟩
end

/-- A reply and the deletion of `rdinv` do not see each other. -/
theorem reply_clears (v : Word) (y : Context) :
    { ({ y with rdinv := false } : Context).setRg rd v with ql := { y.ql with items := [] } } =
      { ({ y.setRg rd v with ql := { y.ql with items := [] } } : Context) with rdinv := false } := by
  unfold Context.setRg
  split <;> rfl

theorem State.cluAt_pointed (g : Eng) (i : Instr) (a b : Word) (p : Nat) : (s.pointed g i a b).cluAt p = s.cluAt p := rfl

theorem pointed_mquery {a b : Word} (hown : ((s.cluAt s.focus.pcl).rg (mossN a)).owner = false) :
    mossAction (s.pointed .l (.mquery rd rs1 rs2) a b) s.focus (mkItem s.cx (.mquery rd rs1 rs2) s.cx.ql a b 0 0) =
      some (rd, rgWord ((s.cluAt s.focus.pcl).rg (mossN a)) s.cx.rdinv, if bitOf b 0 then
        (s.pointed .l (.mquery rd rs1 rs2) a b).onCtx s.focus fun x => { x with rdinv := false } else s.pointed .l (.mquery rd rs1 rs2) a b) := by
  have hact := mossAction_mquery (s := s.pointed .l (.mquery rd rs1 rs2) a b) (c := s.focus)
    (i := mkItem s.cx (.mquery rd rs1 rs2) s.cx.ql a b 0 0) (rd := rd) (rs1 := rs1) (rs2 := rs2) rfl hown
  rw [State.ctxAt_pointed, State.cluAt_pointed] at hact
  exact hact

section
variable (hown : ((s.cluAt s.focus.pcl).rg (mossN (s.cx.rg rs1))).owner = false)

include he hp hw hown

theorem mage_replies (hm : mossCheck (s.cx.rg rs1) 0 false = none) :
    Completes (.mage rd rs1) s (s.wrote rd (mageWord (s.cluAt s.focus.pcl) (mossN (s.cx.rg rs1)))) :=
  completes_moss_reply (places_mage hm) rfl rfl he hp hw (.inr (.inr (.inr (.inl ⟨_, _, rfl⟩)))) (mossAction_mage rfl hown) (by simp) (by simp)

variable (hm : mossCheck (s.cx.rg rs1) (s.cx.rg rs2) false = none)

include hm

theorem mquery_replies (hb : bitOf (s.cx.rg rs2) 0 = false) (hsmall : (s.cx.rg rs2).toNat < 2) :
    Completes (.mquery rd rs1 rs2) s (s.wrote rd (rgWord ((s.cluAt s.focus.pcl).rg (mossN (s.cx.rg rs1))) s.cx.rdinv)) := by
  have hact := pointed_mquery (rd := rd) (rs1 := rs1) (rs2 := rs2) (b := s.cx.rg rs2) hown
  rw [hb, if_neg Bool.false_ne_true] at hact
  exact completes_moss_reply (places_mquery hm hsmall) rfl rfl he hp hw (.inr (.inr (.inr (.inr ⟨_, _, _, rfl⟩)))) hact (by simp) (by simp)

theorem mquery_clears (hb : bitOf (s.cx.rg rs2) 0 = true) (hsmall : (s.cx.rg rs2).toNat < 2) :
    Completes (.mquery rd rs1 rs2) s
      { s with cx := { s.cx.setRg rd (rgWord ((s.cluAt s.focus.pcl).rg (mossN (s.cx.rg rs1))) s.cx.rdinv) with pc := s.cx.pc + 4, rdinv := false } } := by
  intro h
  have hact := pointed_mquery (rd := rd) (rs1 := rs1) (rs2 := rs2) (b := s.cx.rg rs2) hown
  rw [hb, if_pos rfl] at hact
  rw [moss_acts (places_mquery hm hsmall) rfl rfl he hp (reachPoint_head (pointed_head _ _ _ he) (.inr (.inr (.inr (.inr ⟨_, _, _, rfl⟩))))) hact
    (by simp) (by simp) ?_ h]
  · have hreply := pointed_reply (i := .mquery rd rs1 rs2) (a := s.cx.rg rs1) (b := s.cx.rg rs2) he
      (rd := rd) (rgWord ((s.cluAt s.focus.pcl).rg (mossN (s.cx.rg rs1))) s.cx.rdinv)
    rw [State.onCtx_of_focus (State.pointed_focus _ _ _ _ _)] at hreply ⊢
    rw [State.onCtx_of_focus (s := (s.pointed .l (.mquery rd rs1 rs2) (s.cx.rg rs1) (s.cx.rg rs2)).onCx _) (c := s.focus) rfl]
    refine congrArg Host.Outcome.next (Eq.trans ?_ (congrArg (fun t => t.onCx fun x => { x with rdinv := false }) hreply))
    exact congrArg (fun x => ({ s with cx := x } : State)) (reply_clears _ _)
  · rw [State.onCtx_of_focus (State.pointed_focus _ _ _ _ _)]
    exact (congrArg (fun x => tfind x.waits 2) (State.ctxAt_at_focus ((s.pointed .l (.mquery rd rs1 rs2) (s.cx.rg rs1) (s.cx.rg rs2)).onCx fun x => { x with rdinv := false }))).trans hw
end
end

/-- Settles O11: the points that queue, and the points that act. -/
theorem pointWords : Obligations.PointWords := by
  refine ⟨fun s snd rcv kinds sc rd rs1 rs2 k cls => ?_, fun s rd rs1 rs2 k cls => ?_⟩
  · intro a b isDev member
    refine ⟨fun h => (places_tokpost h).queues, fun h => (places_fence h).queues, fun h => (places_countWord (exec_evadd sc rs1 rs2 s) h).queues,
      fun h => (places_countWord (exec_evset rs1 rs2 s) h).queues, fun ⟨v, h⟩ => (places_bar h).queues, fun ⟨v, h⟩ => (places_bararr h).queues,
      fun ⟨va, h⟩ ha => (places_launch h ha).queues, fun ⟨va, h⟩ ha => (places_launchBlock h ha).queues, fun h hc => (places_mclass h hc).queues,
      fun h hb => (places_mfree h hb).queues, fun h hb => (places_mrefresh h hb).queues, fun h => (places_mage h).queues,
      fun h hb => (places_mquery h hb).queues⟩
  · intro x c a b cl g n0 run free past hinv hwf he hp hw
    refine ⟨fun v l pa hv hl hpa => ⟨bararr_arrives he hp hv hl hpa, bar_arrives he hp hv hl hpa⟩,
      fun ⟨va, hva⟩ ha => ⟨fun hread => ⟨launch_requests hva ha he hp hread, launchBlock_requests hva ha he hp hread⟩,
        fun e hv hne => launch_unread hva ha he hp hv hne⟩, fun hm => ⟨fun hc hown => ?_, fun hb hst => ?_, fun hb hown => ?_⟩,
      fun hm hown => ⟨?_, fun hb => mquery_replies he hp hw hown hm ?_ ?_, fun hb => mquery_clears he hp hw hown hm ?_ ?_⟩⟩
    · exact ⟨mclass_refused hinv he hp hw hm hc hown, mclass_full hinv he hp hw hm hc hown,
        fun hfree e => mclass_claims hinv hwf he hp hw hm hc hown hfree⟩
    · refine ⟨fun hno => mfree_refused hinv he hp hw hm hb hst ?_, mfree_frees hinv hwf he hp hw hm hb hst⟩
      have hex : ∃ n ∈ run (mossC b), (cl.rg n).owner = true := by simpa [free] using hno
      exact hex
    · intro ns
      have hqueues := mrefresh_queues (rd := rd) hinv (places_mrefresh hm hb) he hp hw hown
      exact ⟨fun hns h => (hqueues h).1 hns, fun hns h => (hqueues h).2 hns⟩
    · exact mage_replies he hp hw hown ((mossCheck_count (a := a) (b := b)).trans hm)
    · exact (congrArg (bitOf · 0) hb).trans rfl
    · exact lt_of_eq_of_lt (congrArg BitVec.toNat hb) Nat.zero_lt_two
    · exact (congrArg (bitOf · 0) hb).trans rfl
    · exact lt_of_eq_of_lt (congrArg BitVec.toNat hb) Nat.one_lt_two
end Sys2Proof.Machine
end
section
namespace Sys2Proof.Machine

/-! ### TRET (R120, R351): a counterexample outside the canonical form

The statement takes any state. A token table with two entries for one queue is not canonical; deleting its first entry
shows the second, so that the queue still has the token that the second entry holds. -/

/-- A strand in its handler that returns to a third place, with two entries for token queue 0: the second holds a token. -/
def shadowedToken : State :=
  { cx := { resident := true, stat := 7, estat := 4, epc := 0x84, eissue := 0x80, parked := true, toks := [(0, {}), (0, { toks := [none] })] } }

/-- The tokens of queue 0 after a word. -/
def tokensAfter (o : Out) : List (Option Mark) :=
  match o with
  | .next t => (tget t.cx.toks 0 {}).toks
  | _ => []

theorem shadowedToken_issues : Issues shadowedToken .tret := by
  unfold Issues
  decide +kernel

/-- TRET leaves the token that the second entry holds. -/
theorem tret_shadowedToken :
    tokensAfter (exec .tret shadowedToken) = [none] := by
  decide +kernel

/-- Refutes O18: a token queue with two table entries is not emptied by a return to another address. -/
theorem not_returnWord : ¬ Obligations.ReturnWord := by
  intro ⟨_, _, h⟩
  obtain ⟨y, hexec, -, -, -, -, -, -, -, hgone⟩ := h shadowedToken shadowedToken_issues (by decide) (by decide) rfl rfl rfl rfl rfl (by unfold Context.noStep; decide)
  have htoks := (hgone (by decide) (by decide)).2.2.2.2.2 0 (by decide)
  have hrun := tret_shadowedToken
  rw [hexec] at hrun
  exact absurd (htoks.symm.trans hrun) (by decide)
end Sys2Proof.Machine
end
section
namespace Sys2Proof.Machine

/-! ### The cut (R345): what it leaves of a context -/

/-- A context with a raised halt: the cause registers and the halt line. -/
def Context.raised (x : Context) (ecause etval : Word) (h : Option Halt) : Context := { x with ecause := ecause, etval := etval, halt := h }

/-- A context with other masks and granules, and another L queue: all that a cut touches. -/
def Context.loaded (x y : Context) : Context := { x with masks := y.masks, mbad := y.mbad, win := y.win, obs := y.obs, ql := y.ql }

section
variable (x : Context) (i : Item) (f : VF) (ok sel : Nat → Bool) (e t : Word) (h : Option Halt)

theorem foldl_writeElems_loaded (l : List Nat) : ∀ x : Context, l.foldl (writeElems i f sel) x = x.loaded (l.foldl (writeElems i f sel) x) := by
  induction l with
  | nil => exact fun _ => rfl
  | cons j l ih =>
    intro x
    exact (ih (writeElems i f sel x j)).trans rfl

theorem foldl_writeElems_raised (l : List Nat) : ∀ x : Context,
    l.foldl (writeElems i f sel) (x.raised e t h) = (l.foldl (writeElems i f sel) x).raised e t h := by
  induction l with
  | nil => exact fun _ => rfl
  | cons j l ih => exact fun x => ih (writeElems i f sel x j)

theorem writeMask_loaded : writeMask x i f ok sel = x.loaded (writeMask x i f ok sel) := by
  unfold writeMask Context.setMreg
  simp only
  split <;> split <;> rfl

theorem writeMask_raised : writeMask (x.raised e t h) i f ok sel = (writeMask x i f ok sel).raised e t h := by
  unfold writeMask Context.setMreg
  simp only
  split <;> split <;> rfl

theorem writeLoaded_raised : writeLoaded (x.raised e t h) i f ok sel = (writeLoaded x i f ok sel).map fun y => y.raised e t h := by
  have hcheck : (if i.wrote.isEmpty then ((runRows i f).filter ok).findSome? (loadCheck (x.raised e t h) i f) else none) =
      (if i.wrote.isEmpty then ((runRows i f).filter ok).findSome? (loadCheck x i f) else none) := rfl
  unfold writeLoaded
  rw [hcheck]
  split
  · rfl
  · exact congrArg Except.ok (foldl_writeElems_raised i f sel e t h _ x)

/-- What a load writes does not look at a raised halt. -/
theorem writeParts_raised : writeParts (x.raised e t h) i ok sel = (writeParts x i ok sel).map fun y => y.raised e t h := by
  unfold writeParts
  split
  · exact writeLoaded_raised ..
  · exact writeLoaded_raised ..
  · exact congrArg Except.ok (writeMask_raised ..)
  · rfl

theorem writeLoaded_loaded {y : Context} (hy : writeLoaded x i f ok sel = .ok y) : y = x.loaded y := by
  unfold writeLoaded at hy
  split at hy
  · cases hy
  · cases hy
    exact foldl_writeElems_loaded ..

/-- A load writes masks and granules alone. -/
theorem writeParts_loaded {y : Context} (hy : writeParts x i ok sel = .ok y) : y = x.loaded y := by
  unfold writeParts at hy
  split at hy
  · exact writeLoaded_loaded _ _ _ _ _ hy
  · exact writeLoaded_loaded _ _ _ _ _ hy
  · cases hy
    exact writeMask_loaded ..
  · cases hy
    rfl

theorem Context.stopHead_loaded : x.stopHead = x.loaded x.stopHead := by
  unfold Context.stopHead
  split
  · rfl
  · split
    · split
      · rename_i y hy
        have hl := writeParts_loaded _ _ _ _ hy
        rw [hl]
        rfl
      · rfl
    · rfl

theorem Context.stopHead_raised : (x.raised e t h).stopHead = x.stopHead.raised e t h := by
  have hql : (x.raised e t h).ql = x.ql := rfl
  unfold Context.stopHead
  rw [hql]
  split
  · rfl
  · rename_i i r _
    split
    · rw [writeParts_raised]
      cases writeParts x i (fun _ => true) fun k => decide (k < i.reached) <;> rfl
    · rfl

/-- The cut of the L words changes masks, granules, the stamp and the L queue alone. -/
theorem Context.stopL_loaded : x.stopL = x.loaded x.stopL := by
  unfold Context.stopL
  rw [x.stopHead_loaded]
  rfl

theorem Context.stopL_raised : (x.raised e t h).stopL = x.stopL.raised e t h := by
  unfold Context.stopL
  rw [x.stopHead_raised]
  rfl

/-- Where no load is under way at the head, the cut writes nothing. -/
theorem Context.stopL_unstarted (hq : ∀ i ∈ x.ql.items.head?, i.phase ≠ .going) : x.stopL.masks = x.masks ∧ x.stopL.win = x.win := by
  have hx : x.stopHead = x := by
    unfold Context.stopHead
    split
    · rfl
    · rename_i i r hitems
      have hne : i.phase ≠ .going := hq i (by rw [hitems]; rfl)
      split
      · contradiction
      · rfl
  unfold Context.stopL
  rw [hx]
  exact ⟨rfl, rfl⟩

end

/-! ### What the ends of waits leave -/

/-- Two states with the same memory and the same ways to it. -/
def State.sameWays (s t : State) : Prop := t.mem = s.mem ∧ t.poison = s.poison ∧ t.failing = s.failing ∧ t.tlb = s.tlb ∧ t.parts = s.parts

theorem State.sameWays.refl (s : State) : s.sameWays s := ⟨rfl, rfl, rfl, rfl, rfl⟩

theorem State.sameWays.trans {s t u : State} (h : s.sameWays t) (h' : t.sameWays u) : s.sameWays u := by
  obtain ⟨h1, h2, h3, h4, h5⟩ := h
  obtain ⟨k1, k2, k3, k4, k5⟩ := h'
  exact ⟨k1.trans h1, k2.trans h2, k3.trans h3, k4.trans h4, k5.trans h5⟩

theorem walk_sameWays {s t : State} (h : s.sameWays t) (p : Partition) (va fuel : Nat) : ∀ table, walk t p va fuel table = walk s p va fuel table := by
  obtain ⟨hmem, hpoison, -⟩ := h
  induction fuel with
  | zero => exact fun _ => rfl
  | succ fuel ih =>
    intro table
    simp only [walk, hmem, hpoison, ih]

theorem translate_sameWays {s t : State} (h : s.sameWays t) (pcl p va : Nat) (k : Acc) : translate t pcl p va k = translate s pcl p va k := by
  have hwalk := walk_sameWays h
  obtain ⟨-, -, -, htlb, hparts⟩ := h
  have hpart : t.partAt p = s.partAt p := congrArg (fun q => tget q p ({} : Partition)) hparts
  simp only [translate, leafOf, hpart, htlb, hwalk]

theorem State.onCtx_sameWays (s : State) (c : CtxLoc) (f : Context → Context) : s.sameWays (s.onCtx c f) := by
  unfold State.onCtx State.setCtx
  split <;> exact ⟨rfl, rfl, rfl, rfl, rfl⟩

theorem State.logWait_lost {s : State} {pcl : Nat} (h : (s.cluAt pcl).waitcap ≤ (s.cluAt pcl).waitlog.length) (w : WaitEntry) :
    s.logWait pcl w = s.onClu pcl fun cl => { cl with waitlost := cl.waitlost + 1 } := if_neg (Nat.not_lt.mpr h)

/-- A state in which waits of a context have ended without an entry of the log. -/
structure State.waitsEnded (s : State) (c : CtxLoc) (t : State) : Prop where
  ways : s.sameWays t
  inv : t.Inv
  nothing : t.logsNothing c
  waits : ∃ w, t.ctxAt c = { s.ctxAt c with waits := w }

/-- The end of a wait that is counted as lost. -/
theorem waitEnd_lost {s : State} {c : CtxLoc} {unit : Nat} {w : BitVec 8 × Word} {b : BitVec 8} (hw : tfind (s.ctxAt c).waits unit = some w)
    (hfull : (s.cluAt c.pcl).waitcap ≤ (s.cluAt c.pcl).waitlog.length) :
    ∃ v n, s.waitEnd c unit b = { ((s.onCtx c fun x => { x with waits := tdel x.waits unit }).onClu c.pcl
      fun cl => { cl with waitlost := cl.waitlost + 1 }).sample c.pcl 1 v with free := n } := by
  have hfull' : ((s.onCtx c fun x => { x with waits := tdel x.waits unit }).cluAt c.pcl).waitcap ≤
      ((s.onCtx c fun x => { x with waits := tdel x.waits unit }).cluAt c.pcl).waitlog.length := by
    rw [State.cluAt, State.onCtx_clus]
    exact hfull
  unfold State.waitEnd
  rw [hw]
  simp only [State.logWait_lost hfull']
  exact ⟨_, _, rfl⟩

theorem State.waitEnd_waitsEnded {s t : State} {c : CtxLoc} (h : s.waitsEnded c t) (unit : Nat) (b : BitVec 8) : s.waitsEnded c (t.waitEnd c unit b) := by
  cases hw : tfind (t.ctxAt c).waits unit with
  | none => rwa [State.waitEnd_none hw]
  | some e =>
    have hfull : (t.cluAt c.pcl).waitcap ≤ (t.cluAt c.pcl).waitlog.length := by
      refine h.nothing.resolve_left fun hnil => ?_
      rw [hnil] at hw
      cases hw
    have hinv : (t.onCtx c fun x => { x with waits := tdel x.waits unit }).Inv := State.onCtx_inv h.inv
    obtain ⟨v, n, hv⟩ := waitEnd_lost (b := b) hw hfull
    obtain ⟨w, hx⟩ := h.waits
    have hctx : (t.waitEnd c unit b).ctxAt c = { t.ctxAt c with waits := tdel (t.ctxAt c).waits unit } := by
      rw [hv]
      exact State.ctxAt_onCtx_same h.inv.others c _
    have hclu : (t.waitEnd c unit b).cluAt c.pcl =
        (((t.onCtx c fun x => { x with waits := tdel x.waits unit }).onClu c.pcl fun cl => { cl with waitlost := cl.waitlost + 1 }).sample c.pcl 1 v).cluAt c.pcl := by
      rw [hv]
      rfl
    refine ⟨h.ways.trans ?_, State.waitEnd_inv h.inv, .inr ?_, tdel (t.ctxAt c).waits unit, ?_⟩
    · rw [hv]
      exact State.onCtx_sameWays t c _
    · rw [hclu, State.sample, State.cluAt_onClu_same (State.onClu_inv hinv).clus, State.cluAt_onClu_same hinv.clus, State.cluAt, State.onCtx_clus]
      exact hfull
    · rw [hctx, hx]

theorem State.waitsEnd_waitsEnded {s : State} {c : CtxLoc} (hinv : s.Inv) (hn : s.logsNothing c) (b : BitVec 8) :
    s.waitsEnded c (s.waitsEnd c b) := by
  unfold State.waitsEnd
  refine List.foldlRecOn (motive := s.waitsEnded c) _ _ ⟨.refl s, hinv, hn, _, rfl⟩ fun t ht u _ => State.waitEnd_waitsEnded ht u b

/-! ### The write of the save area -/

theorem length_stopRecord (x : Context) (g : Eng) (m : Option (Eng × BitVec 32 × Word)) (cyc : BitVec 32) : (stopRecord x g m cyc).length = 64 := by
  cases g <;> simp only [stopRecord, List.length_append, toLE_length, otherEngs, List.map_cons, List.map_nil, List.flatMap_cons, List.flatMap_nil, List.length_nil]

/-- Every line of a run of bytes begins in it. -/
theorem mem_lines {fuel a : Nat} {bs : List Byte} {e : Nat × List Byte} (h : e ∈ lines fuel a bs) : a ≤ e.1 ∧ e.1 < a + bs.length := by
  induction fuel generalizing a bs with
  | zero => cases h
  | succ fuel ih =>
    rw [lines] at h
    split at h
    · cases h
    · rename_i hne
      have hlen : 0 < bs.length := List.length_pos_iff.mpr (by simpa using hne)
      rcases List.mem_cons.mp h with rfl | h
      · exact ⟨le_rfl, by omega⟩
      · obtain ⟨h1, h2⟩ := ih h
        rw [List.length_drop] at h2
        have : a % 64 < 64 := Nat.mod_lt _ (by decide)
        omega

/-- Lines that are all mapped go out: no context and no way to memory changes. -/
theorem sendLines_mapped {c : CtxLoc} {bad : Bool} {l : List (Nat × List Byte)} : ∀ {s : State},
    (∀ e ∈ l, ∃ pa, translate s c.pcl (s.ctxAt c).part e.1 .store = .ok pa) →
    ∃ t, s.sendLines c bad l = (t, none) ∧ t.focus = s.focus ∧ t.cx = s.cx ∧ t.others = s.others := by
  induction l with
  | nil => exact fun _ => ⟨_, rfl, rfl, rfl, rfl⟩
  | cons e l ih =>
    intro s h
    obtain ⟨pa, hpa⟩ := h e List.mem_cons_self
    simp only [State.sendLines, hpa]
    exact ih fun e he => h e (List.mem_cons_of_mem _ he)

/-- The cut of a context that has raised a fault outside a handler. -/
theorem cut_enters {s : State} {c : CtxLoc} {h : Halt} (hh : (s.ctxAt c).halt = some h) (hwhy : h.why = .fault) (htrap : (s.ctxAt c).intrap = false) :
    s.cut c = ((s.onCtx c Context.stopL).waitsEnd c 2).trapEntry c h := by
  simp only [State.cut, hh, hwhy, htrap]
  rfl

/-- What entering a handler makes of a context. -/
def Context.handled (x : Context) (ctx : Nat) (h : Halt) : Context :=
  { x with estat := fullStat x.stat ctx, stat := trapStat x.stat, epc := h.epc, eissue := x.pc, pc := x.tvec,
           emark := h.mark.elim 0 (fun m => m.2.2 ||| 1), marked := h.mark.map (fun m => (m.1, m.2.1)),
           parked := true, halt := none, evreg := none }

/-- A handler that is set and a save area that is mapped: the handler is entered. -/
theorem trapEntry_enters {s : State} {c : CtxLoc} {h : Halt} (ho : twf s.others {} = true) (htvec : 4 ≤ (s.ctxAt c).tvec.toNat)
    (hmap : ∀ k < 256, ∃ pa, translate s c.pcl (s.ctxAt c).part ((s.ctxAt c).savearea.toNat + 0xF00 + k) .store = .ok pa) :
    (s.trapEntry c h).ctxAt c = (s.ctxAt c).handled c.ctx h := by
  have hset : ¬ bitsOf (s.ctxAt c).tvec 2 62 = 0 := by
    intro hzero
    have := (bitsOf_top_eq_zero_iff (s.ctxAt c).tvec (lo := 2) (n := 62) rfl).mp hzero
    omega
  have hlen : (stopRecords (s.ctxAt c) h.mark s.free).length = 256 := by
    simp only [stopRecords, List.length_append, length_stopRecord]
  obtain ⟨t, hsend, hfocus, hcx, hothers⟩ := sendLines_mapped (c := c) (bad := false) (s := { s with free := s.free + 1 })
    (l := lines ((stopRecords (s.ctxAt c) h.mark s.free).length / 64 + 2) ((s.ctxAt c).savearea.toNat + 0xF00) (stopRecords (s.ctxAt c) h.mark s.free))
    fun e he => by
      obtain ⟨h1, h2⟩ := mem_lines he
      obtain ⟨pa, hpa⟩ := hmap (e.1 - ((s.ctxAt c).savearea.toNat + 0xF00)) (by omega)
      rw [Nat.add_sub_cancel' h1] at hpa
      exact ⟨pa, hpa⟩
  have hctx : t.ctxAt c = s.ctxAt c := by
    unfold State.ctxAt
    rw [hfocus, hcx, hothers]
  have hentry : s.trapEntry c h = t.onCtx c fun x => x.handled c.ctx h := by
    simp only [State.trapEntry, if_neg hset, State.sendSave, hsend]
    rfl
  rw [hentry, State.ctxAt_onCtx_same (hothers ▸ ho), hctx]

/-- The context that a fault leaves in its handler. -/
theorem raise_handled {s : State} {c : CtxLoc} {cause : BitVec 8} {tval epc : Word} {m : Option (Eng × BitVec 32 × Word)} (hinv : s.Inv)
    (hres : (s.ctxAt c).resident = true) (hhalt : (s.ctxAt c).halt = none) (hdbg : (s.ctxAt c).debug = false)
    (htrap : (s.ctxAt c).intrap = false) (hflight : (s.ctxAt c).inFlight = false) (htvec : 4 ≤ (s.ctxAt c).tvec.toNat)
    (h16 : cause ≠ 0x16) (h17 : cause ≠ 0x17) (hnone : s.logsNothing c)
    (hmap : ∀ k < 256, ∃ pa, translate s c.pcl (s.ctxAt c).part ((s.ctxAt c).savearea.toNat + 0xF00 + k) .store = .ok pa) :
    ∃ w, (s.raise c cause tval epc m).ctxAt c =
      { (s.ctxAt c).stopL.raised (cause.setWidth 64) tval (some ⟨.fault, epc, m⟩) with waits := w }.handled c.ctx ⟨.fault, epc, m⟩ := by
  let x := s.ctxAt c
  let s1 := s.onCtx c fun x => x.raised (cause.setWidth 64) tval (some ⟨.fault, epc, m⟩)
  have hx1 : s1.ctxAt c = x.raised (cause.setWidth 64) tval (some ⟨.fault, epc, m⟩) := State.ctxAt_onCtx_same hinv.others c _
  have hsave : (s1.ctxAt c).inFlight = false := by
    have hnosave : (x.raised (cause.setWidth 64) tval (some ⟨.fault, epc, m⟩)).toSave = x.toSave := by
      unfold Context.toSave
      rw [hhalt]
      rfl
    rw [hx1, ← hflight]
    unfold Context.inFlight
    rw [hnosave]
    rfl
  have hraise : s.raise c cause tval epc m = ((s1.onCtx c Context.stopL).waitsEnd c 2).trapEntry c ⟨.fault, epc, m⟩ := by
    have hcut := cut_enters (s := s1) (c := c) (h := ⟨.fault, epc, m⟩) (by rw [hx1]; rfl) rfl (by rw [hx1]; exact htrap)
    have hdebug : (!(s.ctxAt c).intrap && ((decide (cause = 0x16) && (s.ctxAt c).dbgctl.getLsbD 0) ||
        (decide (cause = 0x17) && (s.ctxAt c).dbgctl.getLsbD 1))) = false := by
      rw [decide_eq_false h16, decide_eq_false h17, Bool.false_and, Bool.false_and, Bool.or_false, Bool.and_false]
    have hgo : ((s.ctxAt c).halt.isSome || (s.ctxAt c).debug || !(s.ctxAt c).resident) = false := by
      rw [hhalt, hdbg, hres]
      rfl
    have hsettle : s1.settle c = s1.cut c := by
      rw [State.settle, hsave]
      rfl
    rw [← hcut, ← hsettle]
    simp only [State.raise, hgo, hdebug, Bool.false_eq_true, if_false]
    rfl
  have hinv2 : (s1.onCtx c Context.stopL).Inv := State.onCtx_inv (State.onCtx_inv hinv)
  have hx2 : (s1.onCtx c Context.stopL).ctxAt c = x.stopL.raised (cause.setWidth 64) tval (some ⟨.fault, epc, m⟩) := by
    rw [State.ctxAt_onCtx_same (State.onCtx_inv hinv).others, hx1, Context.stopL_raised]
  have hl := x.stopL_loaded
  have hpart : x.stopL.part = x.part := by rw [hl]; rfl
  have hsavearea : x.stopL.savearea = x.savearea := by rw [hl]; rfl
  have htv : x.stopL.tvec = x.tvec := by rw [hl]; rfl
  have hwaits : x.stopL.waits = x.waits := by rw [hl]; rfl
  have hnothing : (s1.onCtx c Context.stopL).logsNothing c := by
    unfold State.logsNothing
    rw [hx2, State.cluAt, State.onCtx_clus, State.onCtx_clus]
    exact hnone.imp_left hwaits.trans
  have hended := State.waitsEnd_waitsEnded hinv2 hnothing 2
  have hways := ((s.onCtx_sameWays c _).trans (s1.onCtx_sameWays c _)).trans hended.ways
  obtain ⟨w, hx3⟩ := hended.waits
  rw [hx2] at hx3
  refine ⟨w, ?_⟩
  rw [hraise, trapEntry_enters hended.inv.others, hx3]
  · rw [hx3]
    exact htv ▸ htvec
  · intro k hk
    rw [translate_sameWays hways, hx3]
    exact hpart ▸ hsavearea ▸ hmap k hk

/-- The bits of `stat` in a handler: supervisor mode, the handler flag, the data watches off; the others as they were (R348). -/
theorem getLsbD_trapStat (w : Word) {i : Nat} (hi : i < 64) : (trapStat w).getLsbD i = (decide (i < 2) || (w.getLsbD i && decide (i ≠ 3))) := by
  rw [trapStat, putBits_zero, putBits_eq, BitVec.getLsbD_and, BitVec.getLsbD_or, BitVec.getLsbD_and, BitVec.getLsbD_not, BitVec.getLsbD_not,
    getLsbD_fieldMask, getLsbD_fieldMask, show (3 % 2 ^ 2) <<< 0 = 2 ^ 2 - 1 from rfl, BitVec.getLsbD_ofNat, Nat.testBit_two_pow_sub_one]
  by_cases h2 : i < 2
  · simp [h2, hi, show i ≠ 3 by omega, show ¬ 3 ≤ i by omega]
  · by_cases h3 : i = 3
    · simp [h3]
    · simp [h2, h3, hi]
      omega

theorem trapStat_base (w : Word) : (trapStat w).extractLsb' 8 3 = w.extractLsb' 8 3 := by
  apply BitVec.eq_of_getLsbD_eq
  intro i hi
  rw [BitVec.getLsbD_extractLsb', BitVec.getLsbD_extractLsb', getLsbD_trapStat _ (by omega)]
  simp [show ¬ 8 + i < 2 by omega, show 8 + i ≠ 3 by omega]

/-- What the handler finds in the saved registers and in `stat`. -/
theorem handled_fields (x : Context) (ctx : Nat) (h : Halt) (e t : Word) (w : Tbl (BitVec 8 × Word)) :
    let y := ({ x.stopL.raised e t (some h) with waits := w } : Context).handled ctx h
    y.ecause = e ∧ y.etval = t ∧ y.epc = h.epc ∧ y.eissue = x.pc ∧ y.pc = x.tvec ∧ y.estat = fullStat x.stat ctx ∧
    y.sup = true ∧ y.intrap = true ∧ y.wte = false ∧ y.pe = x.pe ∧ y.base = x.base ∧ y.parked = true ∧ y.halt = none ∧
    y.emark = (h.mark.elim 0 fun a => a.2.2 ||| 1) ∧ y.regs = x.regs ∧ y.tvec = x.tvec ∧ y.masks = x.stopL.masks ∧ y.win = x.stopL.win := by
  intro y
  have hl := x.stopL_loaded
  have hstat : y.stat = trapStat x.stat := by
    show trapStat x.stopL.stat = _
    rw [hl]
    rfl
  have hbit (i : Nat) (hi : i < 64) : y.stat.getLsbD i = (decide (i < 2) || (x.stat.getLsbD i && decide (i ≠ 3))) := by
    rw [hstat, getLsbD_trapStat _ hi]
  have hpc : x.stopL.pc = x.pc := by rw [hl]; rfl
  have htv : x.stopL.tvec = x.tvec := by rw [hl]; rfl
  have hregs : x.stopL.regs = x.regs := by rw [hl]; rfl
  have hest : x.stopL.stat = x.stat := by rw [hl]; rfl
  refine ⟨rfl, rfl, rfl, hpc, htv, congrArg (fullStat · ctx) hest, hbit 0 (by decide), hbit 1 (by decide),
    (hbit 3 (by decide)).trans (by simp), (hbit 2 (by decide)).trans ?_, ?_, rfl, rfl, rfl, hregs, htv, rfl, rfl⟩
  · simp only [Nat.lt_irrefl, decide_false, Bool.false_or]
    exact Bool.and_true _
  · exact (congrArg (·.extractLsb' 8 3) hstat).trans (trapStat_base x.stat)

/-- Settles O17: a fault enters the handler. -/
theorem faultEntersHandler : Obligations.FaultEntersHandler := by
  intro s c cause tval epc m x hinv hres hhalt hdbg htrap hflight htvec h16 h17 hnone hmap
  obtain ⟨w, hy⟩ := raise_handled (m := m) (tval := tval) (epc := epc) hinv hres hhalt hdbg htrap hflight htvec h16 h17 hnone hmap
  rw [hy]
  obtain ⟨h1, h2, h3, h4, h5, h6, h7, h8, h9, h10, h11, h12, h13, h14, h15, h16, hmasks, hwin⟩ :=
    handled_fields x c.ctx ⟨.fault, epc, m⟩ (cause.setWidth 64) tval w
  refine ⟨h1, h2, h3, h4, h5, h6, h7, h8, h9, h10, h11, h12, h13, h14, h15, h16, hmasks, hwin, fun hq => ?_⟩
  obtain ⟨hm, hw⟩ := x.stopL_unstarted hq
  exact ⟨hmasks.trans hm, hwin.trans hw⟩
end Sys2Proof.Machine
end
section
namespace Sys2Proof.Machine

/-! ### Rings (R208, R209) -/

theorem exec_rinit (n : BitVec 2) (rs1 : Reg) (s : State) : exec (.rinit n rs1) s = execRinit n rs1 s := rfl
theorem exec_rpsh (n : BitVec 2) (rs1 : Reg) (s : State) : exec (.rpsh n rs1) s = execRpsh n rs1 s := rfl
theorem exec_rpop (rd : Reg) (n : BitVec 2) (s : State) : exec (.rpop rd n) s = execRpop rd n s := rfl

/-! #### Eight aligned bytes of Moss -/

theorem loadBytes_eq_map (m : List Host.Cell) (n : Nat) : ∀ a, loadBytes m a n = (List.range n).map fun i => tget m (a + i) 0 := by
  induction n with
  | zero => exact fun _ => rfl
  | succ n ih =>
    intro a
    rw [loadBytes, ih, List.range_succ_eq_map, List.map_cons, List.map_map]
    refine congrArg _ (List.map_congr_left fun i _ => ?_)
    rw [Nat.add_right_comm]
    rfl

/-- Eight aligned bytes lie in one row group. -/
theorem rgsOf_aligned {off : Nat} (h : off % 8 = 0) : rgsOf off 8 = [off / 4096] := by
  have hlast : (off + 8 - 1) / 4096 = off / 4096 := by omega
  rw [rgsOf, hlast, Nat.sub_self]
  rfl

theorem rg_of_aligned {off i : Nat} (h : off % 8 = 0) (hi : i < 8) : (off + i) / 4096 = off / 4096 := by omega

section
variable {cl : Cluster} {off v : Nat} {st : Stamp}

theorem mossRead_aligned (h : off % 8 = 0) (hv : (cl.rg (off / 4096)).valid = true) :
    ∃ stamp, mossRead cl off 8 = some ⟨loadBytes cl.moss off 8, (cl.rg (off / 4096)).poison, false, stamp⟩ := by
  have hbytes : ((List.range 8).map fun i => if (cl.rg ((off + i) / 4096)).valid then tget cl.moss (off + i) 0 else 0) = loadBytes cl.moss off 8 := by
    rw [loadBytes_eq_map]
    refine List.map_congr_left fun i hi => ?_
    rw [rg_of_aligned h (List.mem_range.mp hi), hv, if_pos rfl]
  unfold mossRead
  rw [rgsOf_aligned h, hbytes]
  simp only [List.map_cons, List.map_nil, List.any_cons, List.any_nil, hv, Bool.not_true, Bool.false_and, Bool.or_false, Bool.false_eq_true, if_false,
    Bool.true_and]
  exact ⟨_, rfl⟩

/-- What a write of eight aligned bytes leaves of a row group that is not FREE. -/
structure MossWritten (cl cl' : Cluster) (off v : Nat) : Prop where
  moss : cl'.moss = storeBytes (touchRg cl false (off / 4096)).moss off (toLE 8 v)
  rgs : cl'.rgs = (touchRg cl false (off / 4096)).rgs

theorem mossWrite_free (h : off % 8 = 0) (hf : (cl.rg (off / 4096)).cls = 0) : mossWrite cl off (toLE 8 v) false st = none := by
  unfold mossWrite
  rw [toLE_length, rgsOf_aligned h]
  simp [hf]

theorem mossWrite_aligned (h : off % 8 = 0) (hf : (cl.rg (off / 4096)).cls ≠ 0) :
    ∃ cl', mossWrite cl off (toLE 8 v) false st = some cl' ∧ MossWritten cl cl' off v := by
  unfold mossWrite
  rw [toLE_length, rgsOf_aligned h]
  simp only [List.any_cons, List.any_nil, hf, decide_false, Bool.or_false, Bool.false_eq_true, if_false, List.foldl_cons, List.foldl_nil]
  exact ⟨_, rfl, rfl, rfl⟩

theorem touchRg_rg (hwf : twf cl.rgs {} = true) (b : Bool) (g : Nat) :
    (touchRg cl b g).rg g = { cl.rg g with valid := true, age := 0, reqd := false, xtrap := false, poison := ((cl.rg g).valid && (cl.rg g).poison) || b } := by
  unfold touchRg
  simp only
  split <;> exact tget_tset_wf hwf

theorem touchRg_wf (hwf : twf cl.rgs {} = true) (b : Bool) (g : Nat) : twf (touchRg cl b g).rgs {} = true := by
  unfold touchRg
  simp only
  split <;> exact twf_tset hwf

theorem touchRg_other {b : Bool} {g g' : Nat} (h : g' ≠ g) : (touchRg cl b g).rg g' = cl.rg g' := by
  unfold touchRg
  simp only
  split <;> exact tget_tset_other h

theorem touchRg_moss {b : Bool} {g : Nat} (h : (cl.rg g).valid = true) : (touchRg cl b g).moss = cl.moss := by
  simp only [touchRg, h, if_true]
  rfl

theorem touchRg_moss_wf (h : Memory.wf cl.moss = true) (b : Bool) (g : Nat) : Memory.wf (touchRg cl b g).moss = true := by
  unfold touchRg
  simp only
  split
  · exact h
  · exact zeroBytes_wf h

end

/-! #### Ring reads and writes -/

section
variable {s : State} {c : CtxLoc} {d : Word} {off v : Nat} {st : Stamp}

theorem ringWrite_area (hk : ringKind d ≠ 1) : ringWrite s c d off v st =
    .ok (s.setSub c.pcl c.sub { s.subAt c.pcl c.sub with ringMem := storeBytes (s.subAt c.pcl c.sub).ringMem off (toLE 8 v) }) := if_neg hk

/-- Two writes of a ring in the area of a triple. -/
theorem ringWrite_area_twice (hinv : s.Inv) (off' v' : Nat) :
    (s.setSub c.pcl c.sub { s.subAt c.pcl c.sub with ringMem := storeBytes (s.subAt c.pcl c.sub).ringMem off (toLE 8 v) }).setSub c.pcl c.sub
      { (s.setSub c.pcl c.sub { s.subAt c.pcl c.sub with ringMem := storeBytes (s.subAt c.pcl c.sub).ringMem off (toLE 8 v) }).subAt c.pcl c.sub with
        ringMem := storeBytes ((s.setSub c.pcl c.sub { s.subAt c.pcl c.sub with
          ringMem := storeBytes (s.subAt c.pcl c.sub).ringMem off (toLE 8 v) }).subAt c.pcl c.sub).ringMem off' (toLE 8 v') } =
    s.setSub c.pcl c.sub { s.subAt c.pcl c.sub with
      ringMem := storeBytes (storeBytes (s.subAt c.pcl c.sub).ringMem off (toLE 8 v)) off' (toLE 8 v') } := by
  rw [State.subAt_setSub_same hinv.subs, State.setSub_setSub hinv.subs]

theorem ringWrite_moss (hk : ringKind d = 1) (h : off % 8 = 0) (hf : ((s.cluAt c.pcl).rg (off / 4096)).cls ≠ 0) :
    ∃ cl, ringWrite s c d off v st = .ok (s.setClu c.pcl cl) ∧ MossWritten (s.cluAt c.pcl) cl off v := by
  obtain ⟨cl, hcl, hw⟩ := mossWrite_aligned (v := v) (st := st) h hf
  exact ⟨cl, by simp only [ringWrite, hk, if_true, hcl], hw⟩

theorem ringRead_area (hk : ringKind d ≠ 1) (hbad : (s.subAt c.pcl c.sub).ringBad = []) (n : Nat) :
    ringRead s c d off n = .ok (loadNat (s.subAt c.pcl c.sub).ringMem off n, false, {}) := by
  simp only [ringRead, hk, if_false, hbad]
  rfl

theorem ringRead_moss (hk : ringKind d = 1) (h : off % 8 = 0) (hv : ((s.cluAt c.pcl).rg (off / 4096)).valid = true)
    (hp : ((s.cluAt c.pcl).rg (off / 4096)).poison = false) :
    ∃ st, ringRead s c d off 8 = .ok (loadNat (s.cluAt c.pcl).moss off 8, false, st) := by
  obtain ⟨st, hst⟩ := mossRead_aligned h hv
  exact ⟨st, by simp only [ringRead, hk, if_true, hst, hp, Bool.false_eq_true, if_false, loadNat]⟩

end

/-! #### The words -/

section
variable {s : State} {n : BitVec 2} {rd rs1 : Reg} {h t : Nat} {st : Stamp}

theorem rings_unset (hk : ringKind (tget s.cx.rings n.toNat 0) = 0) :
    Faults (.rpsh n rs1) s 0x18 (n.setWidth 64) ∧ Faults (.rpop rd n) s 0x18 (n.setWidth 64) := by
  refine ⟨fun hi => ?_, fun hi => ?_⟩
  · simp only [exec_rpsh, execRpsh, issue_of_issues hi, hk, if_true]
    rfl
  · simp only [exec_rpop, execRpop, issue_of_issues hi, hk, if_true]
    rfl

variable (hk : ringKind (tget s.cx.rings n.toNat 0) ≠ 0)

include hk

/-- An engine owns a row group of the ring. -/
theorem rings_owned (hf : ringFree s s.focus (tget s.cx.rings n.toNat 0) = false) :
    Completes (.rpsh n rs1) s (s.waiting wOwner (mossAddr (ringOff (tget s.cx.rings n.toNat 0)))) ∧
    Completes (.rpop rd n) s (s.waiting wOwner (mossAddr (ringOff (tget s.cx.rings n.toNat 0)))) := by
  refine ⟨fun hi => ?_, fun hi => ?_⟩
  · simp only [exec_rpsh, execRpsh, issue_of_issues hi, hk, hf, if_false, Bool.not_false, if_true]
  · simp only [exec_rpop, execRpop, issue_of_issues hi, hk, hf, if_false, Bool.not_false, if_true]

variable (hf : ringFree s s.focus (tget s.cx.rings n.toNat 0) = true)

include hf

/-- The head or the tail cannot be read. -/
theorem rings_unread {e : BitVec 8 × Word} (he : ringEnds s s.focus (tget s.cx.rings n.toNat 0) = .error e) :
    Faults (.rpsh n rs1) s e.1 e.2 ∧ Faults (.rpop rd n) s e.1 e.2 := by
  refine ⟨fun hi => ?_, fun hi => ?_⟩
  · simp only [exec_rpsh, execRpsh, issue_of_issues hi, hk, hf, he, if_false, Bool.not_true, Bool.false_eq_true]
    rfl
  · simp only [exec_rpop, execRpop, issue_of_issues hi, hk, hf, he, if_false, Bool.not_true, Bool.false_eq_true]
    rfl

variable (he : ringEnds s s.focus (tget s.cx.rings n.toNat 0) = .ok (h, t, false, st))

include he

/-- A full ring, or an earlier L word, holds RPSH. -/
theorem rpsh_held (hfull : s.cx.ql.items ≠ [] ∨ ringCap (tget s.cx.rings n.toNat 0) ≤ t - h) :
    Completes (.rpsh n rs1) s (s.waiting wRing (BitVec.ofNat 64 (ringOff (tget s.cx.rings n.toNat 0)))) := by
  intro hi
  have hheld : (!s.cx.ql.items.isEmpty || decide (ringCap (tget s.cx.rings n.toNat 0) ≤ t - h)) = true := by
    simpa using hfull
  simp only [exec_rpsh, execRpsh, issue_of_issues hi, hk, hf, he, if_false, Bool.not_true, Bool.false_eq_true, hheld, if_true]

/-- RPSH writes the entry and the tail. -/
theorem rpsh_pushes {s1 s2 : State} (hitems : s.cx.ql.items = []) (hroom : t - h < ringCap (tget s.cx.rings n.toNat 0))
    (h1 : ringWrite s s.focus (tget s.cx.rings n.toNat 0) (ringEntry (tget s.cx.rings n.toNat 0) t) (s.cx.rg rs1).toNat s.cx.obs = .ok s1)
    (h2 : ringWrite s1 s.focus (tget s.cx.rings n.toNat 0) (ringOff (tget s.cx.rings n.toNat 0) + 8) ((t + 1) % 2 ^ 64) s.cx.obs = .ok s2) :
    Completes (.rpsh n rs1) s (((s2.onCx Context.retire).waited).wakeRing s.focus (tget s.cx.rings n.toNat 0)) := by
  intro hi
  have hgo : (!s.cx.ql.items.isEmpty || decide (ringCap (tget s.cx.rings n.toNat 0) ≤ t - h)) = false := by
    rw [hitems, decide_eq_false (Nat.not_le.mpr hroom)]
    rfl
  simp only [exec_rpsh, execRpsh, issue_of_issues hi, hk, hf, he, if_false, Bool.not_true, Bool.false_eq_true, hgo, h1, h2]
  rfl

/-- An empty ring holds RPOP. -/
theorem rpop_held (hempty : t ≤ h) :
    Completes (.rpop rd n) s (s.waiting wRing (BitVec.ofNat 64 (ringOff (tget s.cx.rings n.toNat 0)))) := by
  intro hi
  simp only [exec_rpop, execRpop, issue_of_issues hi, hk, hf, he, if_false, Bool.not_true, Bool.false_eq_true, hempty, if_true]

/-- RPOP reads the entry, and writes the head. -/
theorem rpop_pops {s1 : State} {v : Nat} {st' : Stamp} (hsome : h < t)
    (hv : ringRead s s.focus (tget s.cx.rings n.toNat 0) (ringEntry (tget s.cx.rings n.toNat 0) h) 8 = .ok (v, false, st'))
    (h1 : ringWrite s s.focus (tget s.cx.rings n.toNat 0) (ringOff (tget s.cx.rings n.toNat 0)) ((h + 1) % 2 ^ 64) s.cx.obs = .ok s1) :
    Completes (.rpop rd n) s (((s1.onCx fun x => (((x.observe st).observe st').setRg rd (BitVec.ofNat 64 v)).retire).waited).wakeRing s.focus
      (tget s.cx.rings n.toNat 0)) := by
  intro hi
  simp only [exec_rpop, execRpop, issue_of_issues hi, hk, hf, he, if_false, Bool.not_true, Bool.false_eq_true, Nat.not_le.mpr hsome, hv, h1]
  rfl

end

/-! #### Rings of the area of a triple -/

theorem Context.observe_zero (x : Context) : x.observe {} = x := by
  have hmax (a : Word) : wmax a 0 = a := by
    unfold wmax
    split
    · rename_i hlt
      exact absurd hlt (Nat.not_lt_zero _)
    · rfl
  unfold Context.observe Stamp.max
  rw [hmax, hmax, hmax, hmax]

theorem State.wakeRing_area {d : Word} (hk : ringKind d ≠ 1) (s : State) (c : CtxLoc) : s.wakeRing c d = s := if_neg hk

theorem State.wakeRing_alone {s : State} (h : s.waiters = []) (c : CtxLoc) (d : Word) : s.wakeRing c d = s := by
  unfold State.wakeRing State.wakeAll
  rw [h]
  split <;> rfl

section
variable {s : State} {n : BitVec 2} {rd rs1 : Reg}

theorem ringFree_area {d : Word} (hk : ringKind d = 2) (c : CtxLoc) : ringFree s c d = true := by
  simp only [ringFree, hk]
  rfl

theorem ringEnds_area {d : Word} {c : CtxLoc} (hk : ringKind d = 2) (hbad : (s.subAt c.pcl c.sub).ringBad = []) :
    ringEnds s c d = .ok (loadNat (s.subAt c.pcl c.sub).ringMem (ringOff d) 8, loadNat (s.subAt c.pcl c.sub).ringMem (ringOff d + 8) 8, false, {}) := by
  have hk1 : ringKind d ≠ 1 := by rw [hk]; decide
  simp only [ringEnds, ringRead_area hk1 hbad]
  rfl

theorem ringEnds_poisoned {d : Word} {c : CtxLoc} (hk : ringKind d = 2) (hbad : ringOff d / 256 ∈ (s.subAt c.pcl c.sub).ringBad) :
    ringEnds s c d = .error (0x0E, BitVec.ofNat 64 (ringOff d / 256)) := by
  have hk1 : ringKind d ≠ 1 := by rw [hk]; decide
  have hread : ringRead s c d (ringOff d) 8 = .error (0x0E, BitVec.ofNat 64 (ringOff d / 256)) := by
    simp only [ringRead, hk1, if_false, List.contains_iff_mem.mpr hbad, if_true]
  simp only [ringEnds, hread]

/-- The focused context's ring area with other bytes. -/
def State.withRing (s : State) (m : List Host.Cell) : State :=
  s.setSub s.focus.pcl s.focus.sub { s.subAt s.focus.pcl s.focus.sub with ringMem := m }

variable (hk : ringKind (tget s.cx.rings n.toNat 0) = 2) (hbad : (s.subAt s.focus.pcl s.focus.sub).ringBad = [])

include hk hbad

theorem rpsh_area (hitems : s.cx.ql.items = [])
    (hroom : loadNat (s.subAt s.focus.pcl s.focus.sub).ringMem (ringOff (tget s.cx.rings n.toNat 0) + 8) 8 -
      loadNat (s.subAt s.focus.pcl s.focus.sub).ringMem (ringOff (tget s.cx.rings n.toNat 0)) 8 < ringCap (tget s.cx.rings n.toNat 0)) :
    ∃ s2, Completes (.rpsh n rs1) s (s2.onCx Context.retire).waited ∧ s2.cx = s.cx ∧ (s.Inv → s2 = s.withRing (storeBytes
      (storeBytes (s.subAt s.focus.pcl s.focus.sub).ringMem (ringEntry (tget s.cx.rings n.toNat 0)
        (loadNat (s.subAt s.focus.pcl s.focus.sub).ringMem (ringOff (tget s.cx.rings n.toNat 0) + 8) 8)) (toLE 8 (s.cx.rg rs1).toNat))
      (ringOff (tget s.cx.rings n.toNat 0) + 8)
      (toLE 8 ((loadNat (s.subAt s.focus.pcl s.focus.sub).ringMem (ringOff (tget s.cx.rings n.toNat 0) + 8) 8 + 1) % 2 ^ 64)))) := by
  have hk1 : ringKind (tget s.cx.rings n.toNat 0) ≠ 1 := by rw [hk]; decide
  have hk0 : ringKind (tget s.cx.rings n.toNat 0) ≠ 0 := by rw [hk]; decide
  have hpush := rpsh_pushes (rs1 := rs1) hk0 (ringFree_area hk _) (ringEnds_area hk hbad) hitems hroom (ringWrite_area hk1) (ringWrite_area hk1)
  rw [State.wakeRing_area hk1] at hpush
  exact ⟨_, hpush, rfl, fun hinv => ringWrite_area_twice hinv _ _⟩

theorem rpop_area (hsome : loadNat (s.subAt s.focus.pcl s.focus.sub).ringMem (ringOff (tget s.cx.rings n.toNat 0)) 8 <
      loadNat (s.subAt s.focus.pcl s.focus.sub).ringMem (ringOff (tget s.cx.rings n.toNat 0) + 8) 8) :
    Completes (.rpop rd n) s (((s.withRing (storeBytes (s.subAt s.focus.pcl s.focus.sub).ringMem (ringOff (tget s.cx.rings n.toNat 0))
      (toLE 8 ((loadNat (s.subAt s.focus.pcl s.focus.sub).ringMem (ringOff (tget s.cx.rings n.toNat 0)) 8 + 1) % 2 ^ 64)))).onCx fun x =>
        (x.setRg rd (BitVec.ofNat 64 (loadNat (s.subAt s.focus.pcl s.focus.sub).ringMem (ringEntry (tget s.cx.rings n.toNat 0)
          (loadNat (s.subAt s.focus.pcl s.focus.sub).ringMem (ringOff (tget s.cx.rings n.toNat 0)) 8)) 8))).retire).waited) := by
  have hk1 : ringKind (tget s.cx.rings n.toNat 0) ≠ 1 := by rw [hk]; decide
  have hk0 : ringKind (tget s.cx.rings n.toNat 0) ≠ 0 := by rw [hk]; decide
  have hpop := rpop_pops (rd := rd) hk0 (ringFree_area hk _) (ringEnds_area hk hbad) hsome (ringRead_area hk1 hbad 8) (ringWrite_area hk1)
  rw [State.wakeRing_area hk1] at hpop
  simp only [Context.observe_zero] at hpop
  exact hpop

end

/-! #### Rings of Moss -/

theorem mem_rgsOf {off n g : Nat} : g ∈ rgsOf off n ↔ off / 4096 ≤ g ∧ g ≤ (off + n - 1) / 4096 ∨ g = off / 4096 := by
  simp only [rgsOf, List.mem_map, List.mem_range]
  constructor
  · rintro ⟨k, hk, rfl⟩
    omega
  · rintro (⟨h1, h2⟩ | rfl)
    · exact ⟨g - off / 4096, by omega, by omega⟩
    · exact ⟨0, by omega, by omega⟩

section
variable {cl cl' : Cluster} {off v : Nat}

theorem MossWritten.cls (h : MossWritten cl cl' off v) (hwf : twf cl.rgs {} = true) (g : Nat) : (cl'.rg g).cls = (cl.rg g).cls := by
  have hrg : cl'.rg g = (touchRg cl false (off / 4096)).rg g := congrArg (fun t => tget t g ({} : RowGroup)) h.rgs
  rw [hrg]
  by_cases hg : g = off / 4096
  · rw [hg, touchRg_rg hwf]
  · rw [touchRg_other hg]

theorem MossWritten.valid_same (h : MossWritten cl cl' off v) (hwf : twf cl.rgs {} = true) : (cl'.rg (off / 4096)).valid = true := by
  have hrg : cl'.rg (off / 4096) = (touchRg cl false (off / 4096)).rg (off / 4096) := congrArg (fun t => tget t (off / 4096) ({} : RowGroup)) h.rgs
  rw [hrg, touchRg_rg hwf]

theorem MossWritten.valid (h : MossWritten cl cl' off v) (hwf : twf cl.rgs {} = true) {g : Nat} (hv : (cl.rg g).valid = true) :
    (cl'.rg g).valid = true := by
  by_cases hg : g = off / 4096
  · rw [hg]
    exact h.valid_same hwf
  · have hrg : cl'.rg g = (touchRg cl false (off / 4096)).rg g := congrArg (fun t => tget t g ({} : RowGroup)) h.rgs
    rw [hrg, touchRg_other hg, hv]

theorem MossWritten.wf (h : MossWritten cl cl' off v) (hwf : twf cl.rgs {} = true) : twf cl'.rgs {} = true := by
  rw [h.rgs]
  exact touchRg_wf hwf _ _

theorem MossWritten.moss_of_valid (h : MossWritten cl cl' off v) (hv : (cl.rg (off / 4096)).valid = true) :
    cl'.moss = storeBytes cl.moss off (toLE 8 v) := by
  rw [h.moss, touchRg_moss hv]

theorem MossWritten.moss_wf (h : MossWritten cl cl' off v) (hm : Memory.wf cl.moss = true) : Memory.wf cl'.moss = true := by
  rw [h.moss]
  exact storeBytes_wf (touchRg_moss_wf hm _ _)

end

section
variable {s : State} {n : BitVec 2} {rd rs1 : Reg} {d : Word} {c : CtxLoc}

theorem ringFree_moss (hown : ∀ g ∈ rgsOf (ringOff d) (64 + 8 * ringCap d), ((s.cluAt c.pcl).rg g).owner = false) : ringFree s c d = true := by
  have hall : ((rgsOf (ringOff d) (64 + 8 * ringCap d)).all fun g => !((s.cluAt c.pcl).rg g).owner) = true := by
    simpa [List.all_eq_true] using hown
  rw [ringFree, hall, Bool.or_true]

theorem ringFree_owned (hk : ringKind d = 1) (hown : ∃ g ∈ rgsOf (ringOff d) (64 + 8 * ringCap d), ((s.cluAt c.pcl).rg g).owner = true) :
    ringFree s c d = false := by
  have hall : ((rgsOf (ringOff d) (64 + 8 * ringCap d)).all fun g => !((s.cluAt c.pcl).rg g).owner) = false := by
    simpa [List.all_eq_false] using hown
  rw [ringFree, hall, hk]
  rfl

/-- Two writes of a ring of Moss, 8 bytes each, in row groups that are not FREE. -/
theorem ringWrite_moss_twice (hinv : s.Inv) (hwf : twf (s.cluAt c.pcl).rgs {} = true) (hk : ringKind d = 1) {o o' v v' : Nat} {st : Stamp}
    (ho : o % 8 = 0) (ho' : o' % 8 = 0) (hf : ((s.cluAt c.pcl).rg (o / 4096)).cls ≠ 0) (hf' : ((s.cluAt c.pcl).rg (o' / 4096)).cls ≠ 0) :
    ∃ s1 cl1 s2 cl2, ringWrite s c d o v st = .ok s1 ∧ ringWrite s1 c d o' v' st = .ok s2 ∧ s2.cx = s.cx ∧ s2.mem = s.mem ∧ s2.waiters = s.waiters ∧
      s2.focus = s.focus ∧ s2.cluAt c.pcl = cl2 ∧ MossWritten (s.cluAt c.pcl) cl1 o v ∧ MossWritten cl1 cl2 o' v' := by
  obtain ⟨cl1, h1, hw1⟩ := ringWrite_moss (v := v) (st := st) hk ho hf
  have hc1 : (s.setClu c.pcl cl1).cluAt c.pcl = cl1 := State.cluAt_setClu_same hinv.clus _ _
  obtain ⟨cl2, h2, hw2⟩ := ringWrite_moss (s := s.setClu c.pcl cl1) (v := v') (st := st) (c := c) hk ho' (by rw [hc1, hw1.cls hwf]; exact hf')
  rw [hc1] at hw2
  exact ⟨_, cl1, _, cl2, h1, h2, rfl, rfl, rfl, rfl, State.cluAt_setClu_same (State.setClu_inv hinv).clus _ _, hw1, hw2⟩

/-- A word that ends no wait and wakes nobody. -/
theorem ring_done {t : State} {f : Context → Context} (hw : tfind (f t.cx).waits 4 = none) (hn : t.waiters = []) :
    ((t.onCx f).waited).wakeRing c d = t.onCx f := by
  rw [State.waited_of_unwaiting (s := t.onCx f) hw, State.wakeRing_alone (s := t.onCx f) hn]

/-- Head and tail of a ring of Moss. -/
theorem ringEnds_moss (hk : ringKind d = 1) (ho : ringOff d % 64 = 0) (hv : ((s.cluAt c.pcl).rg (ringOff d / 4096)).valid = true)
    (hp : ((s.cluAt c.pcl).rg (ringOff d / 4096)).poison = false) :
    ∃ st, ringEnds s c d = .ok (loadNat (s.cluAt c.pcl).moss (ringOff d) 8, loadNat (s.cluAt c.pcl).moss (ringOff d + 8) 8, false, st) := by
  have hg : (ringOff d + 8) / 4096 = ringOff d / 4096 := by omega
  obtain ⟨st, h1⟩ := ringRead_moss (s := s) (c := c) hk (show ringOff d % 8 = 0 by omega) hv hp
  obtain ⟨st', h2⟩ := ringRead_moss (s := s) (c := c) (off := ringOff d + 8) hk (by omega) (by rw [hg]; exact hv) (by rw [hg]; exact hp)
  exact ⟨st, by simp only [ringEnds, h1, h2, Bool.or_false]⟩

theorem ringEnds_mossPoison (hk : ringKind d = 1) (ho : ringOff d % 64 = 0) (hv : ((s.cluAt c.pcl).rg (ringOff d / 4096)).valid = true)
    (hp : ((s.cluAt c.pcl).rg (ringOff d / 4096)).poison = true) : ringEnds s c d = .error (0x0D, mossAddr (ringOff d)) := by
  obtain ⟨st, hread⟩ := mossRead_aligned (cl := s.cluAt c.pcl) (show ringOff d % 8 = 0 by omega) hv
  have hring : ringRead s c d (ringOff d) 8 = .error (0x0D, mossAddr (ringOff d)) := by
    simp only [ringRead, hk, if_true, hread, hp]
  simp only [ringEnds, hring]

/-- The place of an entry: aligned, in a row group of the ring. -/
theorem ringEntry_place (ho : ringOff d % 64 = 0) (i : Nat) :
    ringEntry d i % 8 = 0 ∧ ringEntry d i / 4096 ∈ rgsOf (ringOff d) (64 + 8 * ringCap d) := by
  have hcap : i % ringCap d < ringCap d := Nat.mod_lt _ (Nat.succ_pos _)
  unfold ringEntry
  refine ⟨by omega, mem_rgsOf.mpr (.inl ⟨?_, ?_⟩)⟩
  · exact Nat.div_le_div_right (by omega)
  · exact Nat.div_le_div_right (by omega)

end

section
variable {s : State} {n : BitVec 2} {rd rs1 : Reg} (hinv : s.Inv) (hk : ringKind (tget s.cx.rings n.toNat 0) = 1)
  (ho : ringOff (tget s.cx.rings n.toNat 0) % 64 = 0) (hwait : s.waiters = []) (hun : s.unwaiting)
  (hgood : ∀ g ∈ rgsOf (ringOff (tget s.cx.rings n.toNat 0)) (64 + 8 * ringCap (tget s.cx.rings n.toNat 0)),
    ((s.cluAt s.focus.pcl).rg g).owner = false ∧ ((s.cluAt s.focus.pcl).rg g).valid = true ∧ ((s.cluAt s.focus.pcl).rg g).poison = false ∧
      ((s.cluAt s.focus.pcl).rg g).cls ≠ 0)

include hinv hk ho hwait hun hgood

theorem rpop_moss (hsome : loadNat (s.cluAt s.focus.pcl).moss (ringOff (tget s.cx.rings n.toNat 0)) 8 <
      loadNat (s.cluAt s.focus.pcl).moss (ringOff (tget s.cx.rings n.toNat 0) + 8) 8) :
    ∃ t, Completes (.rpop rd n) s t ∧ t.cx.pc = s.cx.pc + 4 ∧ t.cx.regs = (s.cx.setRg rd (BitVec.ofNat 64 (loadNat (s.cluAt s.focus.pcl).moss
        (ringEntry (tget s.cx.rings n.toNat 0) (loadNat (s.cluAt s.focus.pcl).moss (ringOff (tget s.cx.rings n.toNat 0)) 8)) 8))).regs ∧ t.mem = s.mem ∧
      (t.cluAt s.focus.pcl).moss = storeBytes (s.cluAt s.focus.pcl).moss (ringOff (tget s.cx.rings n.toNat 0))
        (toLE 8 ((loadNat (s.cluAt s.focus.pcl).moss (ringOff (tget s.cx.rings n.toNat 0)) 8 + 1) % 2 ^ 64)) := by
  obtain ⟨-, hv0, hp0, hf0⟩ := hgood _ (mem_rgsOf.mpr (.inr rfl))
  obtain ⟨he8, hemem⟩ := ringEntry_place ho (loadNat (s.cluAt s.focus.pcl).moss (ringOff (tget s.cx.rings n.toNat 0)) 8)
  obtain ⟨-, hve, hpe, -⟩ := hgood _ hemem
  obtain ⟨st, hends⟩ := ringEnds_moss (s := s) (c := s.focus) hk ho hv0 hp0
  obtain ⟨st', hread⟩ := ringRead_moss (s := s) (c := s.focus) hk he8 hve hpe
  obtain ⟨cl, h1, hm⟩ := ringWrite_moss (s := s) (c := s.focus) (v := (loadNat (s.cluAt s.focus.pcl).moss (ringOff (tget s.cx.rings n.toNat 0)) 8 + 1) % 2 ^ 64)
    (st := s.cx.obs) hk (show ringOff (tget s.cx.rings n.toNat 0) % 8 = 0 by omega) hf0
  have hpop := rpop_pops (rd := rd) (by rw [hk]; decide) (ringFree_moss fun g hg => (hgood g hg).1) hends hsome hread h1
  rw [ring_done (t := s.setClu s.focus.pcl cl) ?_ hwait] at hpop
  · refine ⟨_, hpop, ?_, ?_, rfl, ?_⟩
    · show (Context.setRg _ rd _).pc + 4 = _
      unfold Context.setRg
      split <;> rfl
    · show (Context.setRg _ rd _).regs = _
      unfold Context.setRg
      split <;> rfl
    · rw [State.cluAt_onCx, State.cluAt_setClu_same hinv.clus, hm.moss_of_valid hv0]
  · show tfind (Context.setRg _ rd _).waits 4 = none
    unfold Context.setRg
    split <;> exact hun

variable (hwf : twf (s.cluAt s.focus.pcl).rgs {} = true)

include hwf

theorem rpsh_moss (hitems : s.cx.ql.items = [])
    (hroom : loadNat (s.cluAt s.focus.pcl).moss (ringOff (tget s.cx.rings n.toNat 0) + 8) 8 -
      loadNat (s.cluAt s.focus.pcl).moss (ringOff (tget s.cx.rings n.toNat 0)) 8 < ringCap (tget s.cx.rings n.toNat 0)) :
    ∃ t, Completes (.rpsh n rs1) s t ∧ t.cx = { s.cx with pc := s.cx.pc + 4 } ∧ t.mem = s.mem ∧ (t.cluAt s.focus.pcl).moss =
      storeBytes (storeBytes (s.cluAt s.focus.pcl).moss (ringEntry (tget s.cx.rings n.toNat 0)
        (loadNat (s.cluAt s.focus.pcl).moss (ringOff (tget s.cx.rings n.toNat 0) + 8) 8)) (toLE 8 (s.cx.rg rs1).toNat))
        (ringOff (tget s.cx.rings n.toNat 0) + 8)
        (toLE 8 ((loadNat (s.cluAt s.focus.pcl).moss (ringOff (tget s.cx.rings n.toNat 0) + 8) 8 + 1) % 2 ^ 64)) := by
  have hg : (ringOff (tget s.cx.rings n.toNat 0) + 8) / 4096 = ringOff (tget s.cx.rings n.toNat 0) / 4096 := by omega
  obtain ⟨-, hv0, hp0, hf0⟩ := hgood _ (mem_rgsOf.mpr (.inr rfl))
  obtain ⟨he8, hemem⟩ := ringEntry_place ho (loadNat (s.cluAt s.focus.pcl).moss (ringOff (tget s.cx.rings n.toNat 0) + 8) 8)
  obtain ⟨-, hve, -, hfe⟩ := hgood _ hemem
  obtain ⟨st, hends⟩ := ringEnds_moss (s := s) (c := s.focus) hk ho hv0 hp0
  obtain ⟨s1, cl1, s2, cl2, h1, h2, hcx, hmem, hw2, -, hclu, hm1, hm2⟩ := ringWrite_moss_twice (c := s.focus) hinv hwf hk (v := (s.cx.rg rs1).toNat)
    (v' := (loadNat (s.cluAt s.focus.pcl).moss (ringOff (tget s.cx.rings n.toNat 0) + 8) 8 + 1) % 2 ^ 64) (st := s.cx.obs)
    he8 (show (ringOff (tget s.cx.rings n.toNat 0) + 8) % 8 = 0 by omega) hfe (by rw [hg]; exact hf0)
  have hpush := rpsh_pushes (by rw [hk]; decide) (ringFree_moss fun g hg => (hgood g hg).1) hends hitems hroom h1 h2
  rw [ring_done (by rw [hcx]; exact hun) (hw2.trans hwait)] at hpush
  refine ⟨_, hpush, congrArg Context.retire hcx, hmem, ?_⟩
  rw [State.cluAt_onCx, hclu, hm2.moss_of_valid (by rw [hg]; exact hm1.valid hwf hv0), hm1.moss_of_valid hve]

end

/-! #### RINIT -/

/-- A field of a word from which a bit outside the field was cleared. -/
theorem bitsOf_clearBit (w : Word) {b lo n : Nat} (h : b < lo ∨ lo + n ≤ b) : bitsOf (putBits w b 1 0) lo n = bitsOf w lo n := by
  apply Nat.eq_of_testBit_eq
  intro i
  rw [bitsOf, bitsOf, Nat.testBit_mod_two_pow, Nat.testBit_mod_two_pow]
  by_cases hi : i < n
  · rw [decide_eq_true hi, Bool.true_and, Bool.true_and, BitVec.toNat_ushiftRight, BitVec.toNat_ushiftRight, Nat.testBit_shiftRight, Nat.testBit_shiftRight,
      BitVec.testBit_toNat, BitVec.testBit_toNat, putBits_zero, BitVec.getLsbD_and, BitVec.getLsbD_not, getLsbD_fieldMask]
    by_cases hb : lo + i < 64
    · simp [hb]
      omega
    · simp [BitVec.getLsbD_of_ge _ _ (Nat.le_of_not_lt hb)]
  · rw [decide_eq_false hi, Bool.false_and, Bool.false_and]

section
variable {s : State} {n : BitVec 2} {rs1 : Reg}

/-- The descriptor that RINIT writes. -/
def ringDesc (v : Word) : Word := v &&& ~~~(BitVec.ofNat 64 (2 ^ 61))

theorem putBits_ringDesc (v : Word) : putBits v 61 1 0 = ringDesc v := putBits_zero v 61 1

theorem ringDesc_kind (v : Word) : ringKind (ringDesc v) = ringKind v := by
  rw [← putBits_ringDesc]
  exact bitsOf_clearBit v (by decide)

theorem ringDesc_off (v : Word) : ringOff (ringDesc v) = ringOff v := by
  rw [← putBits_ringDesc]
  exact bitsOf_clearBit v (by decide)

theorem ringDesc_cap (v : Word) : ringCap (ringDesc v) = ringCap v := by
  rw [← putBits_ringDesc]
  exact congrArg (· + 1) (bitsOf_clearBit v (by decide))

theorem ringKind_eq (v : Word) : ringKind v = v.toNat / 2 ^ 62 := by
  rw [ringKind, bitsOf_eq, Nat.mod_eq_of_lt]
  have := v.isLt
  omega

theorem ringOff_eq (v : Word) : ringOff v = v.toNat % 2 ^ 26 := bitsOf_zero v 26

theorem ringCap_eq (v : Word) : ringCap v = v.toNat / 2 ^ 48 % 2 ^ 8 + 1 := by rw [ringCap, bitsOf_eq]

/-- The descriptor is one that RINIT refuses at once. -/
def ringReserved (v : Word) : Bool := ringKind v = 3 || bitsOf v 56 5 != 0 || bitsOf v 26 22 != 0

/-- The memory that a ring of a kind has. -/
def ringLimit (v : Word) : Nat := if ringKind v = 1 then 2 ^ 26 else 12288

/-- The ring does not fit its memory, or is not aligned. -/
def ringUnfit (v : Word) : Bool := ringKind v != 0 && (ringOff v % 64 != 0 || ringLimit v < ringOff v + 64 + 8 * ringCap v)

theorem rinit_reserved (h : ringReserved (s.cx.rg rs1) = true) : Faults (.rinit n rs1) s 0x18 (s.cx.rg rs1) := by
  intro hi
  unfold ringReserved at h
  simp only [exec_rinit, execRinit, issue_of_issues hi, h, if_true]
  rfl

section
variable (hr : ringReserved (s.cx.rg rs1) = false)

include hr

theorem rinit_refused (h : ringKind (s.cx.rg rs1) = 2 ∧ s.cx.ringArea = false ∨ ringUnfit (s.cx.rg rs1) = true) :
    Faults (.rinit n rs1) s 0x06 (s.cx.rg rs1) := by
  intro hi
  unfold ringReserved at hr
  simp only [exec_rinit, execRinit, issue_of_issues hi, hr, Bool.false_eq_true, if_false, putBits_ringDesc, ringDesc_kind]
  unfold ringUnfit ringLimit at h
  split
  · rfl
  · rename_i hno
    rcases h with ⟨h1, h2⟩ | h
    · rw [h1, h2] at hno
      exact absurd rfl hno
    · rw [if_pos h]
      rfl

variable (ha : ringKind (s.cx.rg rs1) = 2 → s.cx.ringArea = true) (hu : ringUnfit (s.cx.rg rs1) = false)

include ha hu

/-- RINIT of an accepted descriptor. -/
theorem rinit_accepted (hi : Issues s (.rinit n rs1)) : exec (.rinit n rs1) s =
    if bitOf (s.cx.rg rs1) 61 && ringKind (s.cx.rg rs1) != 0 then
      if !ringFree s s.focus (ringDesc (s.cx.rg rs1)) then .next (s.waiting wOwner (mossAddr (ringOff (ringDesc (s.cx.rg rs1)))))
      else
        match ringWrite s s.focus (ringDesc (s.cx.rg rs1)) (ringOff (ringDesc (s.cx.rg rs1))) 0 s.cx.obs with
        | .error e => .next (s.fault e.1 e.2)
        | .ok s1 =>
          match ringWrite s1 s.focus (ringDesc (s.cx.rg rs1)) (ringOff (ringDesc (s.cx.rg rs1)) + 8) 0 s.cx.obs with
          | .error e => .next (s.fault e.1 e.2)
          | .ok s2 =>
            .next (((s2.onCx fun x => { x with rings := tset x.rings n.toNat (ringDesc (s.cx.rg rs1)) 0 }.retire).waited).wakeRing s.focus
              (ringDesc (s.cx.rg rs1)))
    else .next (s.onCx fun x => { x with rings := tset x.rings n.toNat (ringDesc (s.cx.rg rs1)) 0 }.retire) := by
  have harea : (decide (ringKind (s.cx.rg rs1) = 2) && !s.cx.ringArea) = false := by
    by_cases h2 : ringKind (s.cx.rg rs1) = 2
    · rw [ha h2, Bool.not_true, Bool.and_false]
    · rw [decide_eq_false h2, Bool.false_and]
  unfold ringReserved at hr
  unfold ringUnfit ringLimit at hu
  simp only [exec_rinit, execRinit, issue_of_issues hi, hr, Bool.false_eq_true, if_false, putBits_ringDesc, ringDesc_kind, harea, hu] <;> rfl

theorem rinit_plain (h : ringKind (s.cx.rg rs1) = 0 ∨ bitOf (s.cx.rg rs1) 61 = false) : Completes (.rinit n rs1) s
    { s with cx := { s.cx with rings := tset s.cx.rings n.toNat (ringDesc (s.cx.rg rs1)) 0, pc := s.cx.pc + 4 } } := by
  intro hi
  have hplain : (bitOf (s.cx.rg rs1) 61 && ringKind (s.cx.rg rs1) != 0) = false := by
    rcases h with h | h
    · rw [h, bne_self_eq_false, Bool.and_false]
    · rw [h, Bool.false_and]
  rw [rinit_accepted hr ha hu hi, hplain]
  rfl

variable (hb : bitOf (s.cx.rg rs1) 61 = true)

include hb

theorem rinit_area (hk : ringKind (s.cx.rg rs1) = 2) (hun : s.unwaiting) (hinv : s.Inv) : Completes (.rinit n rs1) s
    { s.withRing (storeBytes (storeBytes (s.subAt s.focus.pcl s.focus.sub).ringMem (ringOff (s.cx.rg rs1)) (toLE 8 0)) (ringOff (s.cx.rg rs1) + 8) (toLE 8 0)) with
      cx := { s.cx with rings := tset s.cx.rings n.toNat (ringDesc (s.cx.rg rs1)) 0, pc := s.cx.pc + 4 } } := by
  intro hi
  have hkd : ringKind (ringDesc (s.cx.rg rs1)) = 2 := (ringDesc_kind _).trans hk
  have hk1 : ringKind (ringDesc (s.cx.rg rs1)) ≠ 1 := by rw [hkd]; decide
  rw [rinit_accepted hr ha hu hi, hb, hk, ringFree_area hkd, ringWrite_area hk1, ringDesc_off]
  simp only [ringWrite_area hk1]
  rw [ringWrite_area_twice hinv, State.wakeRing_area hk1]
  exact congrArg Host.Outcome.next (State.waited_of_unwaiting (s := State.onCx _ _) hun)

variable (hk : ringKind (s.cx.rg rs1) = 1)
  (hown : ∀ g ∈ rgsOf (ringOff (s.cx.rg rs1)) (64 + 8 * ringCap (s.cx.rg rs1)), ((s.cluAt s.focus.pcl).rg g).owner = false)

include hk hown

theorem rinit_free (ho : ringOff (s.cx.rg rs1) % 8 = 0) (hf : ((s.cluAt s.focus.pcl).rg (ringOff (s.cx.rg rs1) / 4096)).cls = 0) :
    Faults (.rinit n rs1) s 0x09 (mossAddr (ringOff (s.cx.rg rs1))) := by
  intro hi
  have hkd : ringKind (ringDesc (s.cx.rg rs1)) = 1 := (ringDesc_kind _).trans hk
  have hfree : ringFree s s.focus (ringDesc (s.cx.rg rs1)) = true := ringFree_moss (by rw [ringDesc_off, ringDesc_cap]; exact hown)
  have hwrite : ringWrite s s.focus (ringDesc (s.cx.rg rs1)) (ringOff (s.cx.rg rs1)) 0 s.cx.obs = .error (0x09, mossAddr (ringOff (s.cx.rg rs1))) := by
    simp only [ringWrite, hkd, if_true, mossWrite_free ho hf]
  rw [rinit_accepted hr ha hu hi, hb, hk, hfree, ringDesc_off, hwrite]
  rfl

theorem rinit_moss (ho : ringOff (s.cx.rg rs1) % 64 = 0) (hf : ((s.cluAt s.focus.pcl).rg (ringOff (s.cx.rg rs1) / 4096)).cls ≠ 0) (hun : s.unwaiting)
    (hwait : s.waiters = []) (hinv : s.Inv) (hwf : twf (s.cluAt s.focus.pcl).rgs {} = true) (hm : Memory.wf (s.cluAt s.focus.pcl).moss = true) :
    ∃ t, Completes (.rinit n rs1) s t ∧ t.cx = { s.cx with rings := tset s.cx.rings n.toNat (ringDesc (s.cx.rg rs1)) 0, pc := s.cx.pc + 4 } ∧
      t.mem = s.mem ∧ ((t.cluAt s.focus.pcl).rg (ringOff (s.cx.rg rs1) / 4096)).valid = true ∧
      ∀ i < 16, tget (t.cluAt s.focus.pcl).moss (ringOff (s.cx.rg rs1) + i) 0 = 0 := by
  have hkd : ringKind (ringDesc (s.cx.rg rs1)) = 1 := (ringDesc_kind _).trans hk
  have hfree : ringFree s s.focus (ringDesc (s.cx.rg rs1)) = true := ringFree_moss (by rw [ringDesc_off, ringDesc_cap]; exact hown)
  have hg : (ringOff (s.cx.rg rs1) + 8) / 4096 = ringOff (s.cx.rg rs1) / 4096 := by omega
  obtain ⟨s1, cl1, s2, cl2, h1, h2, hcx, hmem, hw2, -, hclu, hm1, hm2⟩ := ringWrite_moss_twice (c := s.focus) (v := 0) (v' := 0) (st := s.cx.obs)
    (o := ringOff (s.cx.rg rs1)) (o' := ringOff (s.cx.rg rs1) + 8) hinv hwf hkd (by omega) (by omega) hf (by rw [hg]; exact hf)
  have hv2 : (cl2.rg (ringOff (s.cx.rg rs1) / 4096)).valid = true := hm2.valid (hm1.wf hwf) (hm1.valid_same hwf)
  have hmoss : cl2.moss = storeBytes cl1.moss (ringOff (s.cx.rg rs1) + 8) (toLE 8 0) := hm2.moss_of_valid (by rw [hg]; exact hm1.valid_same hwf)
  refine ⟨s2.onCx fun x => { x with rings := tset x.rings n.toNat (ringDesc (s.cx.rg rs1)) 0 }.retire, fun hi => ?_, ?_, hmem, ?_, fun i hi => ?_⟩
  · rw [rinit_accepted hr ha hu hi, hb, hk, hfree, ringDesc_off, h1]
    simp only [h2]
    rw [ring_done (t := s2) (by rw [hcx]; exact hun) (hw2.trans hwait)]
    rfl
  · rw [State.onCx_cx, hcx]
    rfl
  · rw [State.cluAt_onCx, hclu]
    exact hv2
  · have hzero (k : Nat) (hk : k < 8) : (toLE 8 0).getD k 0 = 0 := by
      revert k
      decide
    rw [State.cluAt_onCx, hclu, hmoss]
    by_cases h8 : i < 8
    · rw [storeBytes_other (by omega), hm1.moss, storeBytes_at (touchRg_moss_wf hm _ _) (by simpa using h8)]
      exact hzero i h8
    · rw [show ringOff (s.cx.rg rs1) + i = ringOff (s.cx.rg rs1) + 8 + (i - 8) by omega, storeBytes_at (hm1.moss_wf hm) (by rw [toLE_length]; omega)]
      exact hzero _ (by omega)

end
end

/-- A word that goes past, where no wait of the front end is open. -/
theorem retire_waited {t : State} (h : tfind t.cx.waits 4 = none) : (t.onCx Context.retire).waited = t.passed :=
  State.waited_of_unwaiting (s := t.onCx Context.retire) h

theorem retire_waited_fields (t : State) :
    (t.onCx Context.retire).waited.cx.pc = t.cx.pc + 4 ∧ (t.onCx Context.retire).waited.cx.regs = t.cx.regs := by
  obtain ⟨ws, hws⟩ := (t.onCx Context.retire).waited_cx
  rw [hws]
  exact ⟨rfl, rfl⟩

theorem setRg_waited_fields (t : State) (rd : Reg) (v : Word) :
    (t.onCx fun x => (x.setRg rd v).retire).waited.cx.pc = t.cx.pc + 4 ∧
      (t.onCx fun x => (x.setRg rd v).retire).waited.cx.regs = (t.cx.setRg rd v).regs := by
  obtain ⟨ws, hws⟩ := (t.onCx fun x => (x.setRg rd v).retire).waited_cx
  rw [hws]
  refine ⟨?_, rfl⟩
  show (Context.setRg _ rd _).pc + 4 = _
  unfold Context.setRg
  split <;> rfl

/-- Settles O23: RINIT, RPSH and RPOP on every kind of ring. -/
theorem ringWords : Obligations.RingWords := by
  intro s n rd rs1 x c v d u cl off zero entry withRing both waits kind reserved o fits inited accepted
  have hkind : ringKind v = kind := ringKind_eq v
  have hoff : ringOff v = o := ringOff_eq v
  have hcap : ringCap v = v.toNat / 2 ^ 48 % 2 ^ 8 + 1 := ringCap_eq v
  have hresv : ringReserved v = true ↔ kind = 3 ∨ reserved := by
    simp only [ringReserved, hkind, bitsOf_eq, Bool.or_eq_true, decide_eq_true_eq, bne_iff_ne, or_assoc]
    rfl
  have hunfit : ringUnfit v = true ↔ kind ≠ 0 ∧ ¬fits := by
    have hlim : ringLimit v = if kind = 1 then 2 ^ 26 else 12288 := by rw [ringLimit, hkind]
    simp only [ringUnfit, hkind, hoff, hcap, hlim, Bool.and_eq_true, Bool.or_eq_true, bne_iff_ne, decide_eq_true_eq, fits, not_and_or, not_le]
    omega
  have hcl : kind < 4 := by
    have := v.isLt
    omega
  have hother (hr : ¬reserved) (hk : kind = 0 ∨ kind = 1 ∨ kind = 2) : ringReserved v = false := by
    rw [← Bool.not_eq_true, hresv]
    rintro (h | h)
    · omega
    · exact hr h
  have haccept (h : accepted) : ringReserved v = false ∧ (ringKind v = 2 → x.ringArea = true) ∧ ringUnfit v = false := by
    obtain ⟨hr, hk⟩ := h
    refine ⟨hother hr ?_, fun h2 => ?_, ?_⟩
    · rcases hk with h | ⟨h, -⟩ | ⟨h, -⟩ <;> omega
    · rw [hkind] at h2
      rcases hk with h | ⟨h, -⟩ | ⟨-, h, -⟩
      · omega
      · omega
      · exact h
    · rw [← Bool.not_eq_true, hunfit]
      rintro ⟨h0, hf⟩
      rcases hk with h | ⟨-, h⟩ | ⟨-, -, h⟩
      · exact h0 h
      · exact hf h
      · exact hf h
  have hbit1 (h : v.toNat / 2 ^ 61 % 2 = 1) : bitOf v 61 = true := by
    rw [bitOf, ← BitVec.testBit_toNat, Nat.testBit_eq_decide_div_mod_eq, h]
    rfl
  have hbit0 (h : v.toNat / 2 ^ 61 % 2 = 0) : bitOf v 61 = false := by
    rw [bitOf, ← BitVec.testBit_toNat, Nat.testBit_eq_decide_div_mod_eq, h]
    rfl
  refine ⟨fun h => rinit_reserved (hresv.mpr h), fun hr h => ?_, fun hacc h => ?_, fun hacc hk hb hun hinv => ?_, fun hacc hk hb hown => ?_,
    fun hk => rings_unset hk, fun hk hbad => ?_, fun hk hbad => ?_, fun hk => ?_⟩
  · refine rinit_refused (hother hr (by rcases h with ⟨h, -⟩ | ⟨h, -⟩ <;> omega)) ?_
    rcases h with ⟨h, ha⟩ | ⟨h, hf⟩
    · exact .inl ⟨hkind.trans h, ha⟩
    · exact .inr (hunfit.mpr ⟨by omega, hf⟩)
  · obtain ⟨hr, ha, hu⟩ := haccept hacc
    exact rinit_plain hr ha hu (h.imp hkind.trans hbit0)
  · obtain ⟨hr, ha, hu⟩ := haccept hacc
    have hdone := rinit_area (n := n) hr ha hu (hbit1 hb) (hkind.trans hk) hun hinv
    rw [show ringOff (s.cx.rg rs1) = o from hoff] at hdone
    exact hdone
  · obtain ⟨hr, ha, hu⟩ := haccept hacc
    have hfits : fits := by
      rcases hacc.2 with h | ⟨-, h⟩ | ⟨h, -⟩
      · omega
      · exact h
      · omega
    have hown' : ∀ g ∈ rgsOf (ringOff (s.cx.rg rs1)) (64 + 8 * ringCap (s.cx.rg rs1)), ((s.cluAt s.focus.pcl).rg g).owner = false := by
      rw [show ringOff (s.cx.rg rs1) = o from hoff, show ringCap (s.cx.rg rs1) = _ from hcap]
      intro g hg
      exact hown g (by rwa [show 72 + 8 * (v.toNat / 2 ^ 48 % 2 ^ 8) = 64 + 8 * (v.toNat / 2 ^ 48 % 2 ^ 8 + 1) by omega])
    have hk1 : ringKind (s.cx.rg rs1) = 1 := hkind.trans hk
    have hinit := rinit_moss (n := n) hr ha hu (hbit1 hb) hk1 hown'
    have hfaults := rinit_free (n := n) hr ha hu (hbit1 hb) hk1 hown'
    rw [show ringOff (s.cx.rg rs1) = o from hoff] at hinit hfaults
    have ho : o % 64 = 0 := hfits.1
    refine ⟨fun hf => hfaults (by omega) hf, fun hf hun hwait hinv hwf hm hi => ?_⟩
    obtain ⟨t, hexec, hcx, hmem, hvalid, hzero⟩ := hinit ho hf hun hwait hinv hwf hm
    exact ⟨t, hexec hi, hcx, hmem, hvalid, hzero⟩
  · have hk0 : ringKind (tget s.cx.rings n.toNat 0) ≠ 0 := by
      rw [show ringKind (tget s.cx.rings n.toNat 0) = 2 from hk]
      decide
    have hfaults := rings_unread (rd := rd) (rs1 := rs1) hk0 (ringFree_area hk _) (ringEnds_poisoned hk hbad)
    exact hfaults
  · intro h t
    have hk0 : ringKind d ≠ 0 := by rw [hk]; decide
    have hends := ringEnds_area (s := s) (c := c) hk hbad
    refine ⟨fun hitems hroom hun hinv => ?_, fun hitems hroom hi => ?_, fun hfull => rpsh_held hk0 (ringFree_area hk _) hends hfull,
      fun hsome hun => ?_, fun hsome hi => ?_, fun hempty => rpop_held hk0 (ringFree_area hk _) hends hempty⟩
    · obtain ⟨s2, hpush, hcx, hs2⟩ := rpsh_area (rs1 := rs1) hk hbad hitems hroom
      rw [retire_waited (by rw [hcx]; exact hun), hs2 hinv] at hpush
      exact hpush
    · obtain ⟨s2, hpush, hcx, -⟩ := rpsh_area (rs1 := rs1) hk hbad hitems hroom
      obtain ⟨hpc, hregs⟩ := retire_waited_fields s2
      rw [hcx] at hpc hregs
      exact ⟨_, hpush hi, hpc, hregs⟩
    · have hpop := rpop_area (rd := rd) hk hbad hsome
      rwa [waited_setRg_retire (s := s.withRing _) hun] at hpop
    · have hpop := rpop_area (rd := rd) hk hbad hsome hi
      obtain ⟨hpc, hregs⟩ := setRg_waited_fields (s.withRing (storeBytes u.ringMem off (toLE 8 ((h + 1) % 2 ^ 64)))) rd
        (BitVec.ofNat 64 (loadNat u.ringMem (entry h) 8))
      exact ⟨_, hpop, hpc, hregs⟩
  · intro gs h t
    have hk0 : ringKind d ≠ 0 := by rw [hk]; decide
    refine ⟨fun hown i hi => ?_, fun ho hown hv hp => ?_, fun ho hwf hwait hun hinv hgood => ?_⟩
    · have hheld := rings_owned (rd := rd) (rs1 := rs1) hk0 (ringFree_owned (c := c) hk hown)
      rcases List.mem_pair.mp hi with rfl | rfl
      · exact hheld.1
      · exact hheld.2
    · have hfaults := rings_unread (rd := rd) (rs1 := rs1) hk0 (ringFree_moss hown) (ringEnds_mossPoison hk ho hv hp)
      exact hfaults
    · obtain ⟨-, hv0, hp0, -⟩ := hgood _ (mem_rgsOf.mpr (.inr rfl))
      obtain ⟨st, hends⟩ := ringEnds_moss (s := s) (c := c) hk ho hv0 hp0
      have hfree : ringFree s c d = true := ringFree_moss fun g hg => (hgood g hg).1
      refine ⟨fun hitems hroom hi => ?_, fun hfull => rpsh_held hk0 hfree hends hfull, fun hsome hi => ?_, fun hempty => rpop_held hk0 hfree hends hempty⟩
      · obtain ⟨t', hexec, hcx, hmem, hmoss⟩ := rpsh_moss (rs1 := rs1) hinv hk ho hwait hun hgood hwf hitems hroom
        exact ⟨t', hexec hi, hcx, hmem, hmoss⟩
      · obtain ⟨t', hexec, hpc, hregs, hmem, hmoss⟩ := rpop_moss (rd := rd) hinv hk ho hwait hun hgood hsome
        exact ⟨t', hexec hi, hpc, hregs, hmem, hmoss⟩
end Sys2Proof.Machine
end
section
namespace Sys2Proof.Machine

/-! ### Writes and atomics at their home (R102, R108, R248 to R253) -/

theorem exec_writeApplied (k : WriteRef) (s : State) : exec (.writeApplied k) s = execWriteApplied k s := rfl

/-- Two states with the same device memory, the same poison and the same writes under way. -/
def State.sameStore (s t : State) : Prop := t.mem = s.mem ∧ t.poison = s.poison ∧ t.transit = s.transit

/-- Who hears of a write learns no more than that. -/
theorem State.tell_sameStore (s : State) (who : Origin) (v : Word) (st : Stamp) (flt : Option (BitVec 8)) : s.sameStore (s.tell who v st flt) := by
  unfold State.tell State.sameStore
  split
  · simp only
    split <;> simp
  · exact ⟨rfl, rfl, rfl⟩
  · exact ⟨rfl, rfl, rfl⟩
  · exact ⟨rfl, rfl, rfl⟩

theorem coverLine_keeps (key : Nat × Nat × Nat × Nat) (pa n : Nat) (s : State) (u : Nat) :
    (State.coverLine key pa n s u).mem = s.mem ∧ (State.coverLine key pa n s u).transit = s.transit ∧
      ∀ v ∈ (State.coverLine key pa n s u).poison, v ∈ s.poison := by
  unfold State.coverLine
  split
  · exact ⟨rfl, rfl, fun _ h => h⟩
  · simp only
    split
    · exact ⟨rfl, rfl, fun _ h => (List.mem_filter.mp h).1⟩
    · exact ⟨rfl, rfl, fun _ h => h⟩

/-- The rows that a write completes lose poison, and change nothing else of the memory. -/
theorem State.coverRow_onlyClears (s : State) (t : Transit) :
    (s.coverRow t).mem = s.mem ∧ (s.coverRow t).transit = s.transit ∧ (∀ v ∈ (s.coverRow t).poison, v ∈ s.poison) ∧
      (t.bad = true → s.coverRow t = s) := by
  unfold State.coverRow
  split
  · exact ⟨rfl, rfl, fun _ h => h, fun _ => rfl⟩
  · split
    · exact ⟨rfl, rfl, fun _ h => h, fun _ => rfl⟩
    · rename_i key _ hbad
      have hfold := List.foldlRecOn (motive := fun u : State => u.mem = s.mem ∧ u.transit = s.transit ∧ ∀ v ∈ u.poison, v ∈ s.poison)
        (unitsOf t.pa t.data.length) (State.coverLine key t.pa t.data.length) ⟨rfl, rfl, fun _ h => h⟩ fun u hu l _ => by
          obtain ⟨hm, ht, hp⟩ := coverLine_keeps key t.pa t.data.length u l
          exact ⟨hm.trans hu.1, ht.trans hu.2.1, fun v hv => hu.2.2 v (hp v hv)⟩
      exact ⟨hfold.1, hfold.2.1, hfold.2.2, fun h => absurd h hbad⟩

/-- The unit of a line that a run of bytes covers is one of the run's units. -/
theorem mem_unitsOf {pa n u : Nat} (h1 : pa ≤ u * 64) (h2 : u * 64 + 64 ≤ pa + n) : u ∈ unitsOf pa n := by
  simp only [unitsOf, List.mem_map, List.mem_range]
  exact ⟨u - pa / 64, by omega, by omega⟩

/-- A line that a write covers whole is poisoned after it where the write is. -/
theorem applyBytes_whole {s : State} {pa u : Nat} {bs : List Byte} {bad : Bool} {st : Stamp} (h1 : pa ≤ u * 64) (h2 : u * 64 + 64 ≤ pa + bs.length) :
    u ∈ (applyBytes s pa bs bad st).poison ↔ bad = true := by
  have hwhole : u ∈ (unitsOf pa bs.length).filter fun u => decide (pa ≤ u * 64) && decide (u * 64 + 64 ≤ pa + bs.length) :=
    List.mem_filter.mpr ⟨mem_unitsOf h1 h2, by rw [decide_eq_true h1, decide_eq_true h2]; rfl⟩
  have hcon := List.contains_iff_mem.mpr hwhole
  cases bad
  · have hgone : u ∉ (applyBytes s pa bs false st).poison := by
      simp only [applyBytes, Bool.false_eq_true, if_false, List.append_nil, List.mem_filter, hcon, Bool.not_true, and_false, not_false_eq_true]
    exact iff_of_false hgone Bool.false_ne_true
  · have hin : u ∈ (applyBytes s pa bs true st).poison := by
      refine List.mem_append_right _ ?_
      rw [if_pos rfl]
      exact List.mem_filter.mpr ⟨mem_unitsOf h1 h2, by simp only [hcon, Bool.true_or]⟩
    exact iff_of_true hin rfl

section
variable {s : State} {k : Nat} {w : Transit} (hk : s.transit[k]? = some w)

include hk

/-- A write that waits for its dependency set (R253). -/
theorem writeApplied_waits {e : Bool} (ho : s.owed w.stamp (some w) none none = true) : exec (.writeApplied ⟨k, e⟩) s = .next s := by
  simp only [exec_writeApplied, execWriteApplied, hk, ho, Bool.true_or, if_true]

variable (hchip : w.chip = none) (htrip : s.mgr.tripped = false) (ho : s.owed w.stamp (some w) none none = false)

include hchip htrip ho

theorem writeApplied_applies : exec (.writeApplied ⟨k, false⟩) s = .next (s.applyOne w false) := by
  simp only [exec_writeApplied, execWriteApplied, hk, ho, hchip, htrip, Option.isSome_none, Bool.or_self, Bool.false_eq_true, if_false]
  cases w.who <;> rfl

theorem writeApplied_fails (hw : ∀ c n va, w.who ≠ .save c n va) : exec (.writeApplied ⟨k, true⟩) s = .next (s.applyOne w true) := by
  simp only [exec_writeApplied, execWriteApplied, hk, ho, hchip, htrip, Option.isSome_none, Bool.or_self, Bool.false_eq_true, if_false]
  split
  · rename_i c n va hsave _
    exact absurd hsave (hw c n va)
  · rfl

end

/-- A failed write changes no byte. -/
theorem applyOne_failed (s : State) (w : Transit) : (s.applyOne w true).transit = s.transit.erase w ∧ (s.applyOne w true).mem = s.mem := by
  obtain ⟨hm, -, ht⟩ := State.tell_sameStore { s with transit := s.transit.erase w } w.who 0 {} (some 0x0F)
  exact ⟨ht, hm⟩

/-- A write that is applied changes exactly its bytes, and the poison of the lines that it covers. -/
theorem applyOne_write {s : State} {w : Transit} (hm : Memory.wf s.mem = true) (ha : w.atom = none) :
    let t := s.applyOne w false
    t.transit = s.transit.erase w ∧ (∀ j < w.data.length, tget t.mem (w.pa + j) 0 = w.data.getD j 0) ∧
      (∀ a, a < w.pa ∨ w.pa + w.data.length ≤ a → tget t.mem a 0 = tget s.mem a 0) ∧
      (∀ u, w.pa ≤ u * 64 → u * 64 + 64 ≤ w.pa + w.data.length → (u ∈ t.poison ↔ w.bad = true)) := by
  intro t
  let s1 := applyBytes { s with transit := s.transit.erase w } w.pa w.data w.bad w.stamp
  have ⟨hcm, hct, hcp, hcb⟩ := s1.coverRow_onlyClears w
  have ht : t = ((s1.coverRow w).ringMail w.pa w.data.length).tell w.who 0 {} none := by
    simp only [t, State.applyOne, ha]
    rfl
  obtain ⟨htm, htp, htt⟩ := ((s1.coverRow w).ringMail w.pa w.data.length).tell_sameStore w.who 0 {} none
  rw [← ht] at htm htp htt
  have hmem : t.mem = storeBytes s.mem w.pa w.data := htm.trans hcm
  refine ⟨htt.trans hct, fun j hj => ?_, fun a hout => ?_, fun u h1 h2 => ?_⟩
  · rw [hmem]
    exact storeBytes_at hm hj
  · rw [hmem]
    exact storeBytes_other hout
  · have hwhole := applyBytes_whole (s := { s with transit := s.transit.erase w }) (bad := w.bad) (st := w.stamp) h1 h2
    rw [htp]
    constructor
    · exact fun hu => hwhole.mp (hcp u hu)
    · intro hb
      show u ∈ (s1.coverRow w).poison
      rw [hcb hb]
      exact hwhole.mpr hb

/-- Settles O35: a stamped write at its home. -/
theorem stampedWrites : Obligations.StampedWrites := by
  refine ⟨fun s k w hinv hk ha hchip htrip ho => ⟨fun hw => ?_, ?_⟩, fun s k w e hk ho => writeApplied_waits hk ho⟩
  · exact ⟨_, writeApplied_fails hk hchip htrip ho hw, applyOne_failed s w⟩
  · exact ⟨_, writeApplied_applies hk hchip htrip ho, applyOne_write hinv.mem ha⟩

/-! #### Atomics -/

theorem loadNat_storeBytes {m : List Host.Cell} (hm : Memory.wf m = true) (a : Nat) (bs : List Byte) {n : Nat} (hn : bs.length = n) :
    loadNat (storeBytes m a bs) a n = leNat bs := by
  have hbytes : loadBytes (storeBytes m a bs) a n = bs := by
    rw [loadBytes_eq_map]
    refine List.ext_getElem (by simp [hn]) fun i h1 h2 => ?_
    rw [List.getElem_map, List.getElem_range, storeBytes_at hm h2, List.getD_eq_getElem _ _ h2]
  rw [loadNat, hbytes]

/-- An atomic on a clean line writes the operation's value over its width. -/
theorem applyOne_atomic {s : State} {w : Transit} {a : Atom} (ha : w.atom = some a) (hp : w.pa / 64 ∉ s.poison) {n : Nat}
    (hn : n = if a.word then 4 else 8) :
    (s.applyOne w false).mem = storeBytes s.mem w.pa (toLE n (atomNew a.op (8 * n) (loadNat s.mem w.pa n) a.x.toNat a.cmp.toNat)) := by
  have hclean : s.poison.contains (w.pa / 64) = false := by
    rw [← Bool.not_eq_true, List.contains_iff_mem]
    exact hp
  subst hn
  simp only [State.applyOne, ha, hclean, Bool.false_eq_true, if_false]
  exact (State.tell_sameStore _ _ _ _ _).1

theorem applyOne_poisoned {s : State} {w : Transit} {a : Atom} (ha : w.atom = some a) (hp : w.pa / 64 ∈ s.poison) :
    (s.applyOne w false).mem = s.mem := by
  simp only [State.applyOne, ha, List.contains_iff_mem.mpr hp, Bool.false_eq_true, if_false, if_true]
  exact (State.tell_sameStore _ _ _ _ _).1

theorem loadNat_lt (m : List Host.Cell) (a n : Nat) : loadNat m a n < 256 ^ n := by
  have hlt (bs : List Byte) : leNat bs < 256 ^ bs.length := by
    induction bs with
    | nil => exact Nat.one_pos
    | cons b bs ih =>
      rw [leNat, List.length_cons, Nat.pow_succ]
      have := b.isLt
      omega
  have h := hlt (loadBytes m a n)
  rwa [loadBytes_length] at h

/-- Settles O36: an atomic at its home. -/
theorem atomicAppliedAtHome : Obligations.AtomicAppliedAtHome := by
  intro s k w a hinv hk ha hchip htrip ho n old
  refine ⟨_, writeApplied_applies hk hchip htrip ho, ?_, fun hp => applyOne_poisoned ha hp, fun hp => ?_⟩
  · intro b hb
    by_cases hp : w.pa / 64 ∈ s.poison
    · rw [applyOne_poisoned ha hp]
    · rw [applyOne_atomic (n := n) ha hp rfl]
      exact storeBytes_other (by rw [toLE_length]; exact hb)
  · have hbits : 2 ^ (8 * n) = 256 ^ n := by rw [Nat.pow_mul]
    have hold : old % 256 ^ n = old := Nat.mod_eq_of_lt (loadNat_lt ..)
    have hnew : loadNat (s.applyOne w false).mem w.pa n = atomNew a.op (8 * n) old a.x.toNat a.cmp.toNat % 256 ^ n := by
      rw [applyOne_atomic (n := n) ha hp rfl, loadNat_storeBytes hinv.mem _ _ (toLE_length ..), leNat_toLE]
    rw [hnew]
    refine ⟨fun hop => ?_, fun hop => ?_, fun hop => ?_⟩
    · simp only [hop, atomNew, hbits, Nat.mod_mod]
    · simp only [hop, atomNew, hbits, Nat.mod_mod, Nat.mod_add_mod, Nat.add_mod_mod]
    · simp only [hop, atomNew, hbits, hold]
      split
      · rw [Nat.mod_mod]
      · exact hold
end Sys2Proof.Machine
end
section
namespace Sys2Proof.Machine

/-! ### Changes of counters (R206) -/

theorem exec_eventAdd (k : Nat) (s : State) : exec (.eventAdd k) s = execEventAdd k s := rfl
theorem exec_groupArrival (k : Nat) (s : State) : exec (.groupArrival k) s = execGroupArrival k s := rfl

theorem State.wakeAll_alone {s : State} (h : s.waiters = []) (f : Waiter → Bool) : s.wakeAll f = s := by
  rw [State.wakeAll, h]
  rfl

/-- What the news of a changed counter leaves: the memory, the changes under way, the waiters and every counter. -/
structure State.toldOf (s t : State) : Prop where
  inv : t.Inv
  mem : t.mem = s.mem
  adds : t.adds = s.adds
  waiters : t.waiters = s.waiters
  counters : ∀ p, (t.cluAt p).counters = (s.cluAt p).counters

theorem State.toldOf.onCtx {s t : State} (h : s.toldOf t) (c : CtxLoc) (f : Context → Context) : s.toldOf (t.onCtx c f) := by
  refine ⟨State.onCtx_inv h.inv, ?_, ?_, ?_, fun p => ?_⟩
  · rw [State.onCtx_mem, h.mem]
  · rw [State.onCtx_adds, h.adds]
  · rw [State.onCtx_waiters, h.waiters]
  · rw [State.cluAt, State.onCtx_clus]
    exact h.counters p

theorem State.toldOf.testQueues {s t : State} (h : s.toldOf t) (p : Nat) : s.toldOf (t.testQueues p) := by
  refine ⟨State.onClu_inv h.inv, h.mem, h.adds, h.waiters, fun q => ?_⟩
  by_cases hq : q = p
  · subst hq
    rw [State.testQueues, State.cluAt_onClu_same h.inv.clus]
    exact h.counters q
  · rw [State.testQueues, State.cluAt_onClu_other hq]
    exact h.counters q

theorem State.toldOf.testAll {s t : State} (h : s.toldOf t) : s.toldOf t.testAll :=
  List.foldlRecOn (motive := s.toldOf) _ _ h fun _ hu p _ => hu.testQueues p

/-- The counter that a change leaves. -/
def changedBy (k : Counter) (a : EvAdd) : Counter :=
  let k' := if a.set then { k with val := a.inc, sat := false, err := false } else counterAdd k a.inc
  { k' with err := k'.err || a.err, stamp := k.stamp.max a.stamp }

theorem State.acted_idle {s : State} {p : Nat} (h : (s.partAt p).capture = {}) (kind place who : Nat) : s.acted p kind place who = s := by
  simp only [State.acted, h]
  rfl

/-- The waiters of a counter that a value satisfies. -/
def wakesAt (pcl n : Nat) (v : Word) (w : Waiter) : Bool :=
  match w.cond with
  | .counter p m thr => p = pcl && m = n && thr.toNat ≤ v.toNat
  | _ => false

/-- A context that waits for a counter has seen its change. -/
def Context.seesChange (pcl n : Nat) (k : Counter) (x : Context) : Context := { x with evreg := x.evreg.map fun r : EvReg => r.changed pcl n k }

/-- The news of a counter's change: the contexts that wait for it, and the engines. -/
def State.newsOf (s : State) (pcl n : Nat) (k : Counter) : State :=
  ((s.contexts.filter fun e => e.2.evreg.isSome).foldl (fun s e => s.onCtx e.1 (Context.seesChange pcl n k)) s).testAll

theorem State.newsOf_toldOf {s : State} (h : s.Inv) (pcl n : Nat) (k : Counter) : s.toldOf (s.newsOf pcl n k) :=
  State.toldOf.testAll (List.foldlRecOn (motive := s.toldOf) _ _ ⟨h, rfl, rfl, rfl, fun _ => rfl⟩ fun _ hu e _ => hu.onCtx e.1 _)

/-- The state in which a change has been written. -/
def State.addWritten (s : State) (a : EvAdd) : State :=
  ({ s with adds := s.adds.erase a } : State).onClu a.pcl fun cl =>
    { cl with counters := tset cl.counters a.n (changedBy ((s.cluAt a.pcl).counter a.n) a) {} }

theorem State.applyAdd_eq (s : State) (a : EvAdd) : s.applyAdd a =
    (((match (s.addWritten a).partOf a.pcl with
      | some p => (s.addWritten a).acted p capCounter (1024 * a.pcl + a.n) a.who
      | none => s.addWritten a).newsOf a.pcl a.n (changedBy ((s.cluAt a.pcl).counter a.n) a)).wakeAll
        (wakesAt a.pcl a.n (changedBy ((s.cluAt a.pcl).counter a.n) a).val)) := rfl

/-- A change that is applied: its counter has it, and no byte of memory changes. -/
theorem applyAdd_spec {s : State} {a : EvAdd} (hinv : s.Inv) (hwf : twf (s.cluAt a.pcl).counters {} = true) (hw : s.waiters = [])
    (hcap : ∀ p, (s.partAt p).capture = {}) :
    (s.applyAdd a).adds = s.adds.erase a ∧ (s.applyAdd a).mem = s.mem ∧
      ((s.applyAdd a).cluAt a.pcl).counter a.n = changedBy ((s.cluAt a.pcl).counter a.n) a := by
  have hacted : s.applyAdd a = ((s.addWritten a).newsOf a.pcl a.n (changedBy ((s.cluAt a.pcl).counter a.n) a)).wakeAll
      (wakesAt a.pcl a.n (changedBy ((s.cluAt a.pcl).counter a.n) a).val) := by
    rw [State.applyAdd_eq]
    split
    · rw [State.acted_idle (s := s.addWritten a) (hcap _)]
    · rfl
  have htold := State.newsOf_toldOf (s := s.addWritten a) (State.onClu_inv (s := { s with adds := s.adds.erase a }) hinv) a.pcl a.n
    (changedBy ((s.cluAt a.pcl).counter a.n) a)
  rw [hacted, State.wakeAll_alone (htold.waiters.trans hw)]
  refine ⟨htold.adds, htold.mem, ?_⟩
  rw [Cluster.counter, htold.counters, State.addWritten, State.cluAt_onClu_same (s := { s with adds := s.adds.erase a }) hinv.clus]
  exact tget_tset_wf hwf

/-- An add writes the exact sum, or the bound that it passes with the saturation bit. -/
theorem counterAdd_spec (k : Counter) (inc : Word) :
    let v := (k.val.toNat : Int) + inc.toInt; let k' := counterAdd k inc
    k'.err = k.err ∧ (0 ≤ v → v < 2 ^ 64 → (k'.val.toNat : Int) = v ∧ k'.sat = k.sat) ∧ (v < 0 → k'.val = 0 ∧ k'.sat = true) ∧
      (2 ^ 64 ≤ v → k'.val = BitVec.allOnes 64 ∧ k'.sat = true) := by
  intro v k'
  have hk' : k' = if v < 0 then { k with val := 0, sat := true } else if 2 ^ 64 ≤ v then { k with val := BitVec.allOnes 64, sat := true }
    else { k with val := BitVec.ofInt 64 v } := rfl
  rcases lt_or_ge v 0 with h0 | h0
  · rw [if_pos h0] at hk'
    rw [hk']
    exact ⟨rfl, fun h => absurd h0 (not_lt.mpr h), fun _ => ⟨rfl, rfl⟩, fun h => absurd h (by omega)⟩
  · rw [if_neg (not_lt.mpr h0)] at hk'
    rcases le_or_gt (2 ^ 64) v with h1 | h1
    · rw [if_pos h1] at hk'
      rw [hk']
      exact ⟨rfl, fun _ h => absurd h1 (not_le.mpr h), fun h => absurd h (not_lt.mpr h0), fun _ => ⟨rfl, rfl⟩⟩
    · rw [if_neg (not_le.mpr h1)] at hk'
      rw [hk']
      refine ⟨rfl, fun _ _ => ⟨?_, rfl⟩, fun h => absurd h (not_lt.mpr h0), fun h => absurd h (not_le.mpr h1)⟩
      show ((BitVec.ofInt 64 v).toNat : Int) = v
      rw [BitVec.toNat_ofInt]
      omega

/-! ### Arrivals at groups (R202 to R204) -/

/-- What the news of a phase leaves: the memory, the arrivals under way, the waiters and full logs. -/
structure State.phaseTold (s t : State) : Prop where
  inv : t.Inv
  mem : t.mem = s.mem
  arrivals : t.arrivals = s.arrivals
  waiters : t.waiters = s.waiters
  full : t.logsFull

theorem State.phaseTold.onCtx {s t : State} (h : s.phaseTold t) (c : CtxLoc) (f : Context → Context) : s.phaseTold (t.onCtx c f) := by
  refine ⟨State.onCtx_inv h.inv, ?_, ?_, ?_, fun p => ?_⟩
  · rw [State.onCtx_mem, h.mem]
  · rw [State.onCtx_arrivals, h.arrivals]
  · rw [State.onCtx_waiters, h.waiters]
  · rw [State.cluAt, State.onCtx_clus]
    exact h.full p

/-- A change of a cluster that keeps its log keeps full logs full. -/
theorem State.logsFull.onClu {s : State} (hinv : s.Inv) (h : s.logsFull) (p : Nat) {f : Cluster → Cluster}
    (hf : ∀ cl, (f cl).waitcap = cl.waitcap ∧ (f cl).waitlog = cl.waitlog) : (s.onClu p f).logsFull := by
  intro q
  by_cases hq : q = p
  · subst hq
    obtain ⟨hcap, hlog⟩ := hf (s.cluAt q)
    rw [State.cluAt_onClu_same hinv.clus, hcap, hlog]
    exact h q
  · rw [State.cluAt_onClu_other hq]
    exact h q

theorem State.logsFull.sample {s : State} (hinv : s.Inv) (h : s.logsFull) (p src : Nat) (v : BitVec 32) : (s.sample p src v).logsFull :=
  h.onClu hinv p fun _ => ⟨rfl, rfl⟩

theorem State.phaseTold.waitEnd {s t : State} (h : s.phaseTold t) (c : CtxLoc) (unit : Nat) (b : BitVec 8) : s.phaseTold (t.waitEnd c unit b) := by
  cases hw : tfind (t.ctxAt c).waits unit with
  | none => rwa [State.waitEnd_none hw]
  | some w =>
    obtain ⟨v, n, hv⟩ := waitEnd_lost (b := b) hw (h.full c.pcl)
    have h' := h.onCtx c fun x => { x with waits := tdel x.waits unit }
    have hlost := h'.full.onClu h'.inv c.pcl (f := fun cl => { cl with waitlost := cl.waitlost + 1 }) fun _ => ⟨rfl, rfl⟩
    refine ⟨State.waitEnd_inv h.inv, ?_, ?_, ?_, ?_⟩
    · rw [hv]
      exact h'.mem
    · rw [hv]
      exact h'.arrivals
    · rw [hv]
      exact h'.waiters
    · rw [hv]
      exact hlost.sample (State.onClu_inv h'.inv) c.pcl 1 v

theorem State.phaseTold.phaseDone {s t : State} (h : s.phaseTold t) (hw : s.waiters = []) (p l g : Nat) (ph : BitVec 32) (st : Stamp) :
    s.phaseTold (t.phaseDone p l g ph st) := by
  unfold State.phaseDone
  have hfold := List.foldlRecOn (motive := s.phaseTold)
    (t.contexts.filter fun e => e.2.resident && decide (e.2.part = p) && decide (e.2.launchid.toNat = l) &&
      (match e.2.hold with | .phase g' ph' => decide (g' = g) && decide (ph' = ph) | _ => false))
    (fun s e => (s.onCtx e.1 fun x => { x.observe st with hold := .none }).waitEnd e.1 4 0) h
    fun _ hu e _ => (hu.onCtx e.1 _).waitEnd e.1 4 0
  rw [State.wakeAll_alone]
  · exact hfold
  · exact hfold.waiters.trans hw

/-- An arrival that is applied writes the group's entry, and nothing else of memory. -/
theorem applyArrival_spec {s : State} {a : Arrival} (hinv : s.Inv) (hw : s.waiters = []) (hfull : s.logsFull) (hswaps : (s.partAt a.part).swaps = []) :
    (s.applyArrival a).arrivals = s.arrivals.erase a ∧
      (s.applyArrival a).mem = storeBytes s.mem a.pa (groupBytes (groupUpdate (groupAt s a.pa) a.lower false).1) := by
  let s1 := applyBytes { s with arrivals := s.arrivals.erase a } a.pa (groupBytes (groupUpdate (groupAt s a.pa) a.lower false).1) false a.stamp
  have hs1 : s1.phaseTold s1 := ⟨applyBytes_inv (s := { s with arrivals := s.arrivals.erase a }) hinv, rfl, rfl, rfl, hfull⟩
  suffices h : s1.phaseTold (s.applyArrival a) from ⟨h.arrivals, h.mem⟩
  unfold State.applyArrival
  simp only [hswaps, List.contains_nil]
  split
  · refine State.phaseTold.phaseDone (s := s1) ?_ hw ..
    split
    · exact hs1
    · exact hs1.onCtx ..
  · split
    · exact hs1
    · exact hs1.onCtx ..

theorem storeBytes_append (bs cs : List Byte) : ∀ (m : List Host.Cell) (a : Nat),
    storeBytes m a (bs ++ cs) = storeBytes (storeBytes m a bs) (a + bs.length) cs := by
  induction bs with
  | nil => exact fun _ _ => rfl
  | cons b bs ih =>
    intro m a
    rw [List.cons_append, storeBytes, ih, storeBytes, List.length_cons, Nat.add_assoc, Nat.add_comm 1]

/-- A number is read as before where a store does not touch its bytes. -/
theorem loadNat_storeBytes_other {m : List Host.Cell} {a b n : Nat} {bs : List Byte} (h : b + n ≤ a ∨ a + bs.length ≤ b) :
    loadNat (storeBytes m a bs) b n = loadNat m b n := by
  rw [loadNat, loadNat, loadBytes_eq_map, loadBytes_eq_map]
  refine congrArg leNat (List.map_congr_left fun i hi => storeBytes_other ?_)
  have := List.mem_range.mp hi
  omega

/-- The three counts of an entry that was written. -/
theorem groupAt_written {m : List Host.Cell} (hm : Memory.wf m = true) {t : State} {pa : Nat} {v : GroupView} (ht : t.mem = storeBytes m pa (groupBytes v)) :
    (groupAt t pa).members = v.members ∧ (groupAt t pa).arrivals = v.arrivals ∧ (groupAt t pa).phase = v.phase := by
  have hstore : t.mem = storeBytes (storeBytes (storeBytes m pa (toLE 4 v.members.toNat)) (pa + 4) (toLE 4 v.arrivals.toNat)) (pa + 8)
      (toLE 4 v.phase.toNat) := by
    rw [ht, groupBytes, storeBytes_append, storeBytes_append, List.length_append, toLE_length, toLE_length]
  have hword (w : BitVec 32) : BitVec.ofNat 32 (leNat (toLE 4 w.toNat)) = w := by
    rw [leNat_toLE, Nat.mod_eq_of_lt (show w.toNat < 256 ^ 4 from w.isLt)]
    exact BitVec.eq_of_toNat_eq (by simp)
  have h1 := storeBytes_wf (bs := toLE 4 v.members.toNat) (a := pa) hm
  have h2 := storeBytes_wf (bs := toLE 4 v.arrivals.toNat) (a := pa + 4) h1
  refine ⟨?_, ?_, ?_⟩
  · show BitVec.ofNat 32 (loadNat t.mem pa 4) = _
    rw [hstore, loadNat_storeBytes_other (.inl (by omega)), loadNat_storeBytes_other (.inl (by omega)), loadNat_storeBytes hm _ _ (toLE_length ..), hword]
  · show BitVec.ofNat 32 (loadNat t.mem (pa + 4) 4) = _
    rw [hstore, loadNat_storeBytes_other (.inl (by omega)), loadNat_storeBytes h1 _ _ (toLE_length ..), hword]
  · show BitVec.ofNat 32 (loadNat t.mem (pa + 8) 4) = _
    rw [hstore, loadNat_storeBytes h2 _ _ (toLE_length ..), hword]

/-- An update of an entry: the counts, and the phase where the arrivals reach the members. -/
theorem groupUpdate_spec (v : GroupView) (lower : Bool) :
    let m := if lower then v.members - 1 else v.members; let n := if lower then v.arrivals else v.arrivals + 1; let u := (groupUpdate v lower false).1
    u.members = m ∧ (m ≠ 0 → n = m → u.arrivals = 0 ∧ u.phase = v.phase + 1) ∧ (m = 0 ∨ n ≠ m → u.arrivals = n ∧ u.phase = v.phase) := by
  intro m n u
  let w : GroupView := if lower then { v with members := v.members - 1 } else { v with arrivals := v.arrivals + 1 }
  have hw : w.members = m ∧ w.arrivals = n ∧ w.phase = v.phase := by cases lower <;> exact ⟨rfl, rfl, rfl⟩
  obtain ⟨hwm, hwn, hwp⟩ := hw
  have hu : u = if w.members ≠ 0 ∧ w.arrivals = w.members then { w with arrivals := 0, phase := w.phase + 1 } else w := by
    have hdef : u = (if w.members != 0 && decide (w.arrivals = w.members) && !false then ({ w with arrivals := 0, phase := w.phase + 1 }, true)
      else (w, false)).1 := rfl
    rw [hdef]
    by_cases hc : w.members ≠ 0 ∧ w.arrivals = w.members
    · rw [if_pos hc, if_pos (by simpa using hc)]
    · rw [if_neg hc, if_neg (by simpa using hc)]
  refine ⟨?_, fun h0 h1 => ?_, fun h => ?_⟩
  · rw [hu]
    split <;> exact hwm
  · rw [hu, if_pos (by rw [hwm, hwn]; exact ⟨h0, h1⟩)]
    exact ⟨rfl, congrArg (· + 1) hwp⟩
  · rw [hu, if_neg (by rw [hwm, hwn]; tauto)]
    exact ⟨hwn, hwp⟩

/-- Settles O41: changes of counters, arrivals and ends at groups. -/
theorem countersAndGroups : Obligations.CountersAndGroups := by
  refine ⟨fun s k a => ?_, fun s k a => ?_⟩
  · intro c v hinv hwf hk ho htrip hw hcap
    obtain ⟨hadds, hmem, hc⟩ := applyAdd_spec hinv hwf hw hcap
    have hready : addReady s a = true := by
      have hd : (a.die.isSome && s.owed a.stamp none (some a) none) = false := by
        rcases ho with h | h
        · rw [h]
          rfl
        · rw [h, Bool.and_false]
      have hact : (match s.partOf a.pcl with
          | some p => s.mayAct p capCounter (1024 * a.pcl + a.n) a.who
          | none => true) = true := by
        split
        · simp only [State.mayAct, hcap]
        · rfl
      simp only [addReady, hd, htrip, Bool.not_false, Bool.true_and]
      exact hact
    refine ⟨s.applyAdd a, _, ?_, hadds, hmem, hc, rfl, fun hset => ?_, fun hset => ?_⟩
    · simp only [exec_eventAdd, execEventAdd, hk, hready, if_true]
    · simp only [changedBy, hset, if_true, Bool.false_or]
      exact ⟨trivial, trivial, trivial⟩
    · obtain ⟨herr, hsum, hlow, hhigh⟩ := counterAdd_spec c a.inc
      simp only [changedBy, hset, Bool.false_eq_true, if_false]
      exact ⟨congrArg (· || a.err) herr, hsum, hlow, hhigh⟩
  · intro v m n hinv hcalm hfull hk ho hswaps
    obtain ⟨htransit, hw, htrip⟩ := hcalm
    obtain ⟨hum, hdone, hopen⟩ := groupUpdate_spec v a.lower
    obtain ⟨harr, hmem⟩ := applyArrival_spec hinv hw hfull hswaps
    obtain ⟨hmembers, harrivals, hphase⟩ := groupAt_written hinv.mem hmem
    refine ⟨s.applyArrival a, ?_, harr, ?_, fun hm0 hn => ?_, fun hn => ?_, fun b hb => ?_⟩
    · simp only [exec_groupArrival, execGroupArrival, hk, ho, htrip, Bool.or_self, Bool.false_eq_true, if_false]
    · exact hmembers.trans hum
    · obtain ⟨ha, hp⟩ := hdone hm0 hn
      exact ⟨harrivals.trans ha, hphase.trans hp⟩
    · obtain ⟨ha, hp⟩ := hopen hn
      exact ⟨harrivals.trans ha, hphase.trans hp⟩
    · rw [hmem]
      exact storeBytes_other (by simpa [groupBytes] using hb)
end Sys2Proof.Machine
end
section
namespace Sys2Proof.Machine

/-! ### Keys of a canonical table -/

theorem lt_of_mem_rising {α : Type} : ∀ {t : Tbl α} {i : Nat} {e : Nat × α}, risingFrom (some i) t = true → e ∈ t → i < e.1
  | (j, w) :: r, i, e, h, he => by
    simp only [risingFrom, Bool.and_eq_true, decide_eq_true_eq] at h
    rcases List.mem_cons.mp he with rfl | he
    · exact h.1
    · exact lt_trans h.1 (lt_of_mem_rising h.2 he)

theorem nodup_keys_rising {α : Type} : ∀ {t : Tbl α} {o : Option Nat}, risingFrom o t = true → (t.map Prod.fst).Nodup
  | [], _, _ => List.nodup_nil
  | (j, w) :: r, o, h => by
    have hr := risingFrom_head h
    rw [List.map_cons, List.nodup_cons]
    refine ⟨fun hj => ?_, nodup_keys_rising hr⟩
    obtain ⟨e, he, hej⟩ := List.mem_map.mp hj
    exact absurd (lt_of_mem_rising hr he) (by rw [hej]; exact lt_irrefl _)

theorem tget_of_mem_rising {α : Type} {d : α} : ∀ {t : Tbl α} {o : Option Nat} {e : Nat × α}, risingFrom o t = true → e ∈ t → tget t e.1 d = e.2
  | (j, w) :: r, o, e, h, he => by
    have hr := risingFrom_head h
    rcases List.mem_cons.mp he with rfl | he
    · exact if_pos rfl
    · rw [tget, if_neg (ne_of_gt (lt_of_mem_rising hr he))]
      exact tget_of_mem_rising hr he

theorem tget_of_not_key {α : Type} {d : α} {k : Nat} : ∀ {t : Tbl α}, k ∉ t.map Prod.fst → tget t k d = d
  | [], _ => rfl
  | (j, w) :: r, h => by
    rw [List.map_cons, List.mem_cons, not_or] at h
    rw [tget, if_neg h.1]
    exact tget_of_not_key h.2

/-! ### The age of row groups (R222 to R226, R231) -/

theorem exec_ageTick (pcl : Nat) (temp : BitVec 8) (s : State) : exec (.ageTick pcl temp) s = execAgeTick pcl temp s := rfl
theorem exec_refreshRequest (pcl n : Nat) (s : State) : exec (.refreshRequest pcl n) s = execRefreshRequest pcl n s := rfl
theorem exec_rowGroupExpiry (pcl n : Nat) (s : State) : exec (.rowGroupExpiry pcl n) s = execRowGroupExpiry pcl n s := rfl
theorem exec_keepRefreshDue (pcl n : Nat) (s : State) : exec (.keepRefreshDue pcl n) s = execKeepRefreshDue pcl n s := rfl

/-- A row group at which nothing is due, under the limits of a cluster. -/
def RowGroup.quiet (cl : Cluster) (r : RowGroup) : Prop :=
  keepDue cl r = false ∧ expires cl r = false ∧ (r.reqd = true ∨ r.age.toNat < requestPoint (rgLimit cl r))

/-- What is due depends on the band and the limits alone. -/
theorem RowGroup.quiet_congr {cl cl' : Cluster} (hb : cl'.band = cl.band) (hl : cl'.limits = cl.limits) {r : RowGroup} (h : r.quiet cl) : r.quiet cl' := by
  have hlim (c : Nat) : classLimit cl' c = classLimit cl c := by simp only [classLimit, hb, hl]
  have hrg : rgLimit cl' r = rgLimit cl r := hlim _
  obtain ⟨hk, he, hr⟩ := h
  refine ⟨?_, ?_, ?_⟩
  · rw [keepDue, hlim]
    exact hk
  · rw [expires, hrg]
    exact he
  · rw [hrg]
    exact hr

section
variable {s : State} {pcl : Nat}

theorem State.onClu_id (hinv : s.Inv) {f : Cluster → Cluster} (h : f (s.cluAt pcl) = s.cluAt pcl) : s.onClu pcl f = s := by
  rw [State.onClu, h, State.setClu_cluAt hinv.clus]

/-- The sweep of a row group at which nothing is due changes its age alone. -/
theorem sweepOne_quiet (hinv : s.Inv) (hwf : twf (s.cluAt pcl).rgs {} = true) {n : Nat}
    (h : (sweepAge ((s.cluAt pcl).rg n)).quiet (s.cluAt pcl)) (seen : List (BitVec 12)) :
    sweepOne pcl (s, seen) n = (s.setClu pcl ((s.cluAt pcl).setRg n (sweepAge ((s.cluAt pcl).rg n))), seen) := by
  let cl := (s.cluAt pcl).setRg n (sweepAge ((s.cluAt pcl).rg n))
  let s1 := s.setClu pcl cl
  have hcl : s1.cluAt pcl = cl := State.cluAt_setClu_same hinv.clus _ _
  have hrg : cl.rg n = sweepAge ((s.cluAt pcl).rg n) := Cluster.rg_setRg_same hwf _ _
  have hs1 : s1.Inv := State.setClu_inv hinv
  obtain ⟨hkeep, hexp, hreq⟩ := RowGroup.quiet_congr (cl' := cl) rfl rfl h
  have hkeeps : s1.keepRefresh pcl n = s1 := by
    refine State.onClu_id hs1 ?_
    rw [hcl, hrg, hkeep]
    rfl
  have hnoreq : (((cl.rg n).valid && timed (cl.rg n) && !(cl.rg n).reqd) && decide (requestPoint (rgLimit cl (cl.rg n)) ≤ (cl.rg n).age.toNat)) = false := by
    rw [hrg]
    rcases hreq with h | h
    · rw [h, Bool.not_true, Bool.and_false, Bool.false_and]
    · rw [decide_eq_false (not_le.mpr h), Bool.and_false]
  have hrefresh : s1.refreshRequest pcl n = s1 := by
    simp only [State.refreshRequest, hcl, hnoreq, Bool.false_eq_true, if_false]
  have hexpire (b : Bool) : s1.expireRg pcl n b = s1 := by
    simp only [State.expireRg, hcl, hrg, hexp, Bool.false_eq_true, if_false]
  have hage : s.onClu pcl (fun cl => cl.setRg n (sweepAge (cl.rg n))) = s1 := rfl
  simp only [sweepOne, hage, hkeeps, hrefresh, hexpire, hcl, hrg, hexp, Bool.false_and, Bool.false_eq_true, if_false]
  rfl

/-- A sweep of row groups at which nothing is due. -/
theorem sweep_quiet (l : List Nat) : ∀ {s : State} {seen : List (BitVec 12)}, s.Inv → twf (s.cluAt pcl).rgs {} = true → l.Nodup →
    (∀ n ∈ l, (sweepAge ((s.cluAt pcl).rg n)).quiet (s.cluAt pcl)) →
    ∃ cl, (l.foldl (sweepOne pcl) (s, seen)).1 = s.setClu pcl cl ∧ cl.temp = (s.cluAt pcl).temp ∧ cl.band = (s.cluAt pcl).band ∧
      cl.limits = (s.cluAt pcl).limits ∧ ∀ n, cl.rg n = if n ∈ l then sweepAge ((s.cluAt pcl).rg n) else (s.cluAt pcl).rg n := by
  induction l with
  | nil =>
    intro s seen hinv _ _ _
    exact ⟨s.cluAt pcl, (State.setClu_cluAt hinv.clus _).symm, rfl, rfl, rfl, fun _ => rfl⟩
  | cons n l ih =>
    intro s seen hinv hwf hnd hq
    obtain ⟨hn, hnd⟩ := List.nodup_cons.mp hnd
    let cl := (s.cluAt pcl).setRg n (sweepAge ((s.cluAt pcl).rg n))
    have hcl : (s.setClu pcl cl).cluAt pcl = cl := State.cluAt_setClu_same hinv.clus _ _
    have hother (m : Nat) (hm : m ≠ n) : cl.rg m = (s.cluAt pcl).rg m := Cluster.rg_setRg_other hm _
    obtain ⟨cl', hfold, ht, hb, hl, hrgs⟩ := ih (s := s.setClu pcl cl) (seen := seen) (State.setClu_inv hinv) (by rw [hcl]; exact Cluster.setRg_wf hwf _ _) hnd
      fun m hm => by
        rw [hcl, hother m fun h => hn (h ▸ hm)]
        exact RowGroup.quiet_congr rfl rfl (hq m (List.mem_cons_of_mem _ hm))
    rw [hcl] at ht hb hl hrgs
    refine ⟨cl', ?_, ht, hb, hl, fun m => ?_⟩
    · rw [List.foldl_cons, sweepOne_quiet hinv hwf (hq n List.mem_cons_self), hfold, State.setClu_setClu hinv.clus]
    · rw [hrgs m]
      by_cases hm : m = n
      · rw [hm, if_neg hn, if_pos List.mem_cons_self]
        exact Cluster.rg_setRg_same hwf _ _
      · rw [hother m hm]
        simp only [List.mem_cons, hm, false_or]

end

/-- A temperature at which the module trips is one of band 7. -/
theorem nextBand_hot {b t : Nat} (ht : 115 ≤ t) : 7 ≤ nextBand b t := by
  have hup : ((List.range 8).filter fun b => decide (1 ≤ b) && decide (35 + 10 * b ≤ t)).length = 7 := by
    have h : ((List.range 8).filter fun b => decide (1 ≤ b) && decide (35 + 10 * b ≤ t)) = (List.range 8).filter fun b => decide (1 ≤ b) := by
      refine List.filter_congr fun b hb => ?_
      have := List.mem_range.mp hb
      rw [decide_eq_true (show 35 + 10 * b ≤ t by omega), Bool.and_true]
    rw [h]
    rfl
  have hdown : ((List.range 7).find? fun b => decide (t + 2 < 45 + 10 * b)) = none := by
    rw [List.find?_eq_none]
    intro b hb
    have := List.mem_range.mp hb
    simp only [decide_eq_true_eq]
    omega
  unfold nextBand
  simp only [hup, hdown, Option.getD_none]
  split
  · exact le_rfl
  · split <;> omega

/-- The band table of the partition that a cluster belongs to. -/
def State.limitsOf (s : State) (pcl : Nat) : Tbl Word :=
  match s.partOf pcl with
  | some p => (s.partAt p).mosslim
  | none => []

/-- The cluster with a new reading of its sensor. -/
def State.sensed (s : State) (pcl : Nat) (temp : BitVec 8) : Cluster :=
  { s.cluAt pcl with temp := temp, band := BitVec.ofNat 3 (nextBand (s.cluAt pcl).band.toNat temp.toNat), limits := s.limitsOf pcl }

theorem State.ageTick_eq (s : State) (pcl : Nat) (temp : BitVec 8) : s.ageTick pcl temp =
    if s.mgr.tripped then s
    else (if nextBand (s.cluAt pcl).band.toNat temp.toNat = 7 && (s.cluAt pcl).band != 7 then (s.setClu pcl (s.sensed pcl temp)).enterBand7 pcl
      else s.setClu pcl (s.sensed pcl temp)).sweep pcl := rfl

/-- An age tick at which nothing is due. -/
theorem ageTick_quiet {s : State} {pcl : Nat} {temp : BitVec 8} (hinv : s.Inv) (hwf : twf (s.cluAt pcl).rgs {} = true)
    (htrip : s.mgr.tripped = false) (hq : ∀ e ∈ (s.cluAt pcl).rgs, (sweepAge e.2).quiet (s.sensed pcl temp))
    (hband : nextBand (s.cluAt pcl).band.toNat temp.toNat < 7) :
    ∃ cl, s.ageTick pcl temp = s.setClu pcl cl ∧ cl.temp = temp ∧ cl.band = BitVec.ofNat 3 (nextBand (s.cluAt pcl).band.toNat temp.toNat) ∧
      cl.limits = s.limitsOf pcl ∧ ∀ n, cl.rg n = sweepAge ((s.cluAt pcl).rg n) := by
  let new := s.sensed pcl temp
  have hnew : (s.setClu pcl new).cluAt pcl = new := State.cluAt_setClu_same hinv.clus _ _
  have hrising : risingFrom none (s.cluAt pcl).rgs = true := by
    simp only [twf, Bool.and_eq_true] at hwf
    exact hwf.1
  have hno7 : ¬ nextBand (s.cluAt pcl).band.toNat temp.toNat = 7 := by omega
  have htick : s.ageTick pcl temp = (((s.cluAt pcl).rgs.map Prod.fst).foldl (sweepOne pcl) (s.setClu pcl new, [])).1 := by
    rw [State.ageTick_eq, htrip, decide_eq_false hno7, Bool.false_and, if_neg Bool.false_ne_true, if_neg Bool.false_ne_true, State.sweep, hnew]
    rfl
  obtain ⟨cl, hfold, ht, hb, hl, hrgs⟩ := sweep_quiet (pcl := pcl) ((s.cluAt pcl).rgs.map Prod.fst) (s := s.setClu pcl new) (seen := [])
    (State.setClu_inv hinv) (by rw [hnew]; exact hwf) (nodup_keys_rising hrising) fun n hn => by
      obtain ⟨e, he, rfl⟩ := List.mem_map.mp hn
      have hval : new.rg e.1 = e.2 := tget_of_mem_rising hrising he
      rw [hnew, hval]
      exact hq e he
  rw [hnew] at ht hb hl hrgs
  refine ⟨cl, by rw [htick, hfold, State.setClu_setClu hinv.clus], ht, hb, hl, fun n => ?_⟩
  rw [hrgs n]
  split
  · rfl
  · rename_i hn
    have hfree : (s.cluAt pcl).rg n = {} := tget_of_not_key hn
    show (s.cluAt pcl).rg n = _
    rw [hfree]
    rfl

/-- The expiry of a row group whose resident allocator takes it. -/
theorem deliverExpiry_resident {s : State} {pcl n : Nat} {a : AllocEntry} {l : Launch} {c : CtxLoc}
    (ha : tfind (s.cluAt pcl).alloc ((s.cluAt pcl).rg n).alloc.toNat = some a) (hl : tfind (s.partAt a.part).launches a.launch = some l)
    (hres : residentOf s a.part a.launch a.strand = some c) (htrap : (s.ctxAt c).intrap = false) (hhalt : (s.ctxAt c).halt = none)
    (hdbg : (s.ctxAt c).debug = false) (hdrain : (s.ctxAt c).drain = .none) :
    s.deliverExpiry pcl n = s.raise c 0x0B (expiryTval n pcl) (s.ctxAt c).pc none := by
  simp only [State.deliverExpiry, ha, hl, hres, htrap, hhalt, hdbg, hdrain]
  rfl

/-- Settles O45: age ticks, requests, expiries and KEEP. -/
theorem rowGroupsAge : Obligations.RowGroupsAge := by
  intro s pcl cl hinv hpcl hwf
  refine ⟨fun temp htrip => ?_, fun n => ?_⟩
  · intro lim new hq hband
    obtain ⟨cl', htick, ht, hb, hl, hrgs⟩ := ageTick_quiet hinv hwf htrip hq hband
    have hcool : (decide (115 ≤ temp.toNat) && !s.mgr.tripped) = false := by
      rw [decide_eq_false, Bool.false_and]
      intro hhot
      have := nextBand_hot (b := cl.band.toNat) hhot
      omega
    have hclu : (s.ageTick pcl temp).cluAt pcl = cl' := by rw [htick, State.cluAt_setClu_same hinv.clus]
    refine ⟨s.ageTick pcl temp, ?_, ?_, ?_, ?_, fun n => ?_, ?_⟩
    · rw [exec_ageTick, execAgeTick, atClu_of_lt hpcl, hcool]
      rfl
    · rw [hclu, ht]
    · rw [hclu, hb]
    · rw [hclu, hl]
      rfl
    · rw [hclu, hrgs]
    · rw [htick]
      rfl
  · intro r
    refine ⟨fun hv ht hr hage hev => ?_, fun he ht => ?_, fun he ht a l c ha hl hres => ?_, fun hk => ?_⟩
    · have hdue : (r.valid && timed r && !r.reqd && decide (requestPoint (rgLimit cl r) ≤ r.age.toNat)) = true := by
        rw [hv, ht, hr, decide_eq_true hage]
        rfl
      rw [exec_refreshRequest, execRefreshRequest, atClu_of_lt hpcl]
      simp only [State.refreshRequest]
      rw [if_pos hdue, if_neg hev]
      rfl
    · rw [exec_rowGroupExpiry, execRowGroupExpiry, atClu_of_lt hpcl]
      simp only [State.expireRg]
      rw [if_pos he, ht, Bool.or_false]
      rfl
    · intro x htrap hhalt hdbg hdrain
      let s1 := s.setClu pcl (cl.setRg n { r with valid := false, xtrap := true })
      have hclu : s1.cluAt pcl = cl.setRg n { r with valid := false, xtrap := true } := State.cluAt_setClu_same hinv.clus _ _
      have hrg : (s1.cluAt pcl).rg n = { r with valid := false, xtrap := true } := by rw [hclu, Cluster.rg_setRg_same hwf]
      have hdeliver : s1.deliverExpiry pcl n = s1.raise c 0x0B (expiryTval n pcl) (s1.ctxAt c).pc none := by
        refine deliverExpiry_resident (a := a) (l := l) ?_ hl hres htrap hhalt hdbg hdrain
        rw [hrg, hclu]
        exact ha
      rw [exec_rowGroupExpiry, execRowGroupExpiry, atClu_of_lt hpcl]
      simp only [State.expireRg]
      rw [if_pos he, ht, Bool.or_true, Bool.and_true, if_pos rfl]
      exact congrArg Host.Outcome.next hdeliver
    · rw [exec_keepRefreshDue, execKeepRefreshDue, atClu_of_lt hpcl]
      simp only [State.keepRefresh, State.onClu]
      rw [if_pos hk]
end Sys2Proof.Machine
end
section
namespace Sys2Proof.Machine

/-! ### What faults, waits and starts of M words cannot touch

A property of states that survives changes of contexts, sub-cores, partitions and memory, of what is under way, and of the logs, monitors and
slots of clusters survives faults, ends of waits and the start of an M word. -/

/-- What both branches keep, the choice between them keeps. -/
theorem ite_keeps {P : State → Prop} {b : Prop} [Decidable b] {s t : State} (hs : P s) (ht : P t) : P (if b then s else t) := by
  split
  · exact hs
  · exact ht

/-- A property that faults, waits and starts of M words keep. -/
structure FaultFrame (P : State → Prop) : Prop where
  setCtx : ∀ {s} c x, P s → P (s.setCtx c x)
  setSub : ∀ {s} p k u, P s → P (s.setSub p k u)
  setPart : ∀ {s} p q, P s → P (s.setPart p q)
  bytes : ∀ {s} pa bs bad st, P s → P (applyBytes s pa bs bad st)
  underWay : ∀ {s} clocks transit arrivals mgr free, s.mgr.log ⊆ mgr.log → P s →
    P { s with clocks := clocks, transit := transit, arrivals := arrivals, mgr := mgr, free := free }
  cluster : ∀ {s} p mons log lost pre held, P s →
    P (s.setClu p { s.cluAt p with mons := mons, waitlog := log, waitlost := lost, preempting := pre, slotsHeld := held })

/-- What the end of the strand in `c` does to the group of its slot `k`, as `State.endStrand` has it. -/
def State.lowerGroup (s : State) (c : CtxLoc) (u : State) (k : Nat) : State :=
  let x := s.ctxAt c
  if getAt x.grp (32 + k) 1 = 1 then
    match u.launchOf x with
    | none => u
    | some l =>
      let g := getAt x.grp (8 * k) 8
      match groupEntry u c.pcl x.part l g with
      | .error _ => u.noteWalk c.pcl x.part (l.groups.toNat + 16 * g)
      | .ok pa =>
        let (st, u) := u.stampWrite (dieOf c.pcl) x.obs
        { u with arrivals := u.arrivals ++ [⟨x.part, pa, g, x.launchid.toNat, true, c, x.serial, none, false, st⟩] }
  else u

namespace FaultFrame

variable {P : State → Prop} (hP : FaultFrame P) {s : State} {c : CtxLoc}

include hP

theorem onCtx (f : Context → Context) (h : P s) : P (s.onCtx c f) := hP.setCtx c _ h

theorem noteWalk (pcl p va : Nat) (h : P s) : P (s.noteWalk pcl p va) := by
  unfold State.noteWalk
  split
  · exact hP.underWay _ _ _ _ _ (List.subset_append_left _ _) h
  · exact h

theorem stampWrite (d : Nat) (o : Stamp) (h : P s) : P (s.stampWrite d o).2 := hP.underWay _ _ _ _ _ (List.Subset.refl _) h

theorem debugTaken (epc : Word) (m : Option (Eng × BitVec 32 × Word)) (h : P s) : P (s.debugTaken c epc m) := hP.underWay _ _ _ _ _ (by rw [State.onCtx_mgr]; exact List.Subset.refl _) (hP.onCtx _ h)

theorem sendLines (bad : Bool) (l : List (Nat × List Byte)) : ∀ {s : State}, P s → P (s.sendLines c bad l).1 := by
  induction l with
  | nil => exact fun h => h
  | cons e r ih =>
    intro s h
    unfold State.sendLines
    simp only
    split
    · exact hP.noteWalk _ _ _ h
    · exact ih (hP.underWay _ _ _ _ _ (List.Subset.refl _) (hP.stampWrite _ _ h))

theorem vwrite (pcl p : Nat) (o : Stamp) (l : List (Nat × List Byte)) : ∀ {s : State}, P s → P (s.vwrite pcl p o l).1 := by
  induction l with
  | nil => exact fun h => h
  | cons e r ih =>
    intro s h
    unfold State.vwrite
    split
    · exact hP.noteWalk _ _ _ h
    · split
      · exact h
      · exact ih (hP.bytes _ _ _ _ h)

theorem sample (p src : Nat) (v : BitVec 32) (h : P s) : P (s.sample p src v) := hP.cluster p _ _ _ _ _ h

theorem logWait (p : Nat) (w : WaitEntry) (h : P s) : P (s.logWait p w) := by
  unfold State.logWait
  simp only
  split
  · exact hP.bytes _ _ _ _ (hP.cluster p _ _ _ _ _ h)
  · exact hP.cluster p _ _ _ _ _ h

theorem waitEnd (unit : Nat) (b : BitVec 8) (h : P s) : P (s.waitEnd c unit b) := by
  unfold State.waitEnd
  split
  · exact h
  · exact hP.underWay _ _ _ _ _ (List.Subset.refl _) (hP.sample _ _ _ (hP.logWait _ _ (hP.onCtx _ h)))

theorem waitsEnd (b : BitVec 8) (h : P s) : P (s.waitsEnd c b) :=
  List.foldlRecOn (motive := P) _ _ h fun _ hu _ _ => hP.waitEnd _ b hu

theorem notPreempting (h : P s) (p k : Nat) : P (s.onClu p fun cl => if cl.preempting = some k then { cl with preempting := none } else cl) := by
  simp only [State.onClu]
  split
  · exact hP.cluster p _ _ _ _ _ h
  · exact hP.cluster p (s.cluAt p).mons (s.cluAt p).waitlog (s.cluAt p).waitlost (s.cluAt p).preempting (s.cluAt p).slotsHeld h

theorem vstore (pcl p : Nat) (o : Stamp) (va : Nat) (bs : List Byte) (h : P s) : P (s.vstore pcl p o va bs).1 := hP.vwrite _ _ _ _ h

theorem returnLeave (h : P s) : P (s.returnLeave c) := by
  unfold State.returnLeave
  exact hP.onCtx _ (hP.setSub _ _ _ h)

theorem idleCtx (h : P s) : P (s.idleCtx c) := hP.notPreempting (hP.setSub _ _ _ (hP.onCtx _ (hP.returnLeave h))) _ _

theorem lowerGroup (k : Nat) {u : State} (h : P u) : P (s.lowerGroup c u k) := by
  unfold State.lowerGroup
  dsimp only
  refine ite_keeps ?_ h
  split
  · exact h
  · split
    · exact hP.noteWalk _ _ _ h
    · exact hP.underWay _ _ _ _ _ (List.Subset.refl _) (hP.stampWrite _ _ h)

theorem endStrand (b : Bool) (e : Option (BitVec 8 × Word)) (h : P s) : P (s.endStrand c b e) := by
  unfold State.endStrand
  dsimp only
  have hlowered : ∀ l, P (List.foldl _ s l) := fun l => foldl_keeps (f := s.lowerGroup c) (fun u k hu => hP.lowerGroup k hu) h
  refine hP.idleCtx (hP.setPart _ _ (ite_keeps (hP.setPart _ _ (hP.underWay _ _ _ _ _ (List.subset_append_left _ _) (hP.vstore _ _ _ _ _ (hlowered _))))
    (hP.vstore _ _ _ _ _ (hlowered _))))

theorem endError (cause : BitVec 8) (tval : Word) (h : P s) : P (s.endError c cause tval) := by
  unfold State.endError
  simp only
  split
  · split
    · exact hP.debugTaken _ _ (hP.onCtx _ h)
    · exact hP.debugTaken _ _ (hP.onCtx _ h)
  · exact hP.endStrand _ _ (hP.onCtx _ h)

theorem trapEntry (k : Halt) (h : P s) : P (s.trapEntry c k) := by
  unfold State.trapEntry
  simp only
  split
  · exact hP.endError _ _ h
  · have hsend : ∀ l, P (State.sendLines { s with free := s.free + 1 } c false l).1 := fun l => hP.sendLines _ l (hP.underWay s.clocks s.transit s.arrivals s.mgr _ (List.Subset.refl _) h)
    split
    · exact hP.endError _ _ (hsend _)
    · exact hP.onCtx _ (hsend _)

theorem cut (h : P s) : P (s.cut c) := by
  unfold State.cut
  simp only
  split
  · exact h
  · split
    · split
      · exact hP.endError _ _ (hP.waitsEnd _ (hP.onCtx _ h))
      · exact hP.trapEntry _ (hP.waitsEnd _ (hP.onCtx _ h))
    · exact hP.debugTaken _ _ (hP.waitsEnd _ (hP.onCtx _ h))
    · exact hP.onCtx _ (hP.waitsEnd _ (hP.onCtx _ h))

theorem raise (cause : BitVec 8) (tval epc : Word) (m : Option (Eng × BitVec 32 × Word)) (h : P s) : P (s.raise c cause tval epc m) := by
  unfold State.raise State.settle
  dsimp only
  exact ite_keeps h (ite_keeps (hP.onCtx _ h) (hP.cut (hP.onCtx _ h)))

theorem checkHead (h : P s) : P (checkHead c s) := by
  unfold Machine.checkHead
  simp only
  split
  · exact h
  · split
    · split
      · exact h
      · split
        · exact hP.raise _ _ _ _ h
        · exact hP.setCtx _ _ h
    · exact h

theorem takeSlot (p k : Nat) (h : P s) : P (s.onClu p fun cl => cl.takeSlot k) := by
  unfold State.onClu Cluster.takeSlot
  split
  · exact hP.cluster p (s.cluAt p).mons (s.cluAt p).waitlog (s.cluAt p).waitlost (s.cluAt p).preempting (s.cluAt p).slotsHeld h
  · exact hP.cluster p _ _ _ _ _ h

theorem drawLeave (en : Nat) (h : P s) : P (s.drawLeave c en) := by
  unfold State.drawLeave
  exact hP.onCtx _ (hP.setSub _ _ _ h)

theorem beginM (k : Nat) (i : Item) (fresh : Bool) (n : Nat) (h : P s) : P (beginM c k i fresh n s) := by
  unfold Machine.beginM
  simp only
  split
  · exact hP.raise _ _ _ _ (hP.setCtx _ _ h)
  · split
    · exact hP.checkHead (hP.setCtx _ _ h)
    · refine hP.checkHead (hP.onCtx _ (hP.takeSlot _ _ ?_))
      split
      · exact hP.setSub _ _ _ (hP.setCtx _ _ h)
      · exact hP.drawLeave _ (hP.setCtx _ _ h)

theorem sampleFree (p src : Nat) (h : P s) : P (s.sampleFree p src) := hP.underWay _ _ _ _ _ (List.Subset.refl _) (hP.sample _ _ _ h)

theorem startM (h : P s) : P (startM c s) := by
  unfold Machine.startM
  have hc : P (if s.engineOn c then Machine.checkHead c s else s) := by
    exact ite_keeps (hP.checkHead h) h
  generalize (if s.engineOn c then Machine.checkHead c s else s) = t at hc
  simp only
  split
  · exact hc
  · split
    · exact hc
    · split
      · exact hc
      · split
        · exact hP.onCtx _ hc
        · exact hP.onCtx _ hc
        · split
          · exact hP.beginM _ _ _ _ (hP.waitEnd _ _ hc)
          · split
            · exact hP.onCtx _ (hP.setSub _ _ _ hc)
            · exact ite_keeps (hP.raise _ _ _ _ hc) (hP.beginM _ _ _ _ (hP.waitEnd _ _ (ite_keeps (hP.sampleFree _ _ hc) (hP.sample _ _ _ hc))))

theorem noteWaiter (h : P s) : P (s.noteWaiter c) := by
  unfold State.noteWaiter
  simp only
  split
  · exact hP.startM h
  · exact h

end FaultFrame

/-! ### Refilling the accounts of a cluster -/

theorem State.subAt_setSub_other {s : State} {p k j : Nat} (h : j ≠ k) (u : SubCore) : (s.setSub p k u).subAt p j = s.subAt p j :=
  tget_tset_other (by omega)

/-- A change of each sub-core of a list changes those, from their old contents, and nothing else. -/
theorem foldl_setSub {p : Nat} {f : Nat → SubCore → SubCore} (l : List Nat) : ∀ {s : State}, twf s.subs {} = true → l.Nodup →
    let t := l.foldl (fun t k => t.setSub p k (f k (t.subAt p k))) s
    (∀ k ∈ l, t.subAt p k = f k (s.subAt p k)) ∧ (∀ k, k ∉ l → t.subAt p k = s.subAt p k) ∧ t.clus = s.clus ∧ t.mem = s.mem := by
  induction l with
  | nil => exact fun _ _ => ⟨fun _ hk => absurd hk List.not_mem_nil, fun _ _ => rfl, rfl, rfl⟩
  | cons j r ih =>
    intro s hs hnd
    obtain ⟨hj, hr⟩ := List.nodup_cons.mp hnd
    obtain ⟨hin, hout, hclus, hmem⟩ := ih (s := s.setSub p j (f j (s.subAt p j))) (twf_tset hs) hr
    have hsame : ∀ {k}, k ≠ j → (s.setSub p j (f j (s.subAt p j))).subAt p k = s.subAt p k := fun h => State.subAt_setSub_other h _
    refine ⟨fun k hk => ?_, fun k hk => ?_, hclus, hmem⟩
    · rcases List.mem_cons.mp hk with rfl | hk
      · exact (hout k hj).trans (State.subAt_setSub_same hs p k _)
      · exact (hin k hk).trans (congrArg (f k) (hsame fun e => hj (e ▸ hk)))
    · rw [List.mem_cons, not_or] at hk
      exact (hout k hk.2).trans (hsame hk.1)

/-- R296: each account of a cluster takes its refill, up to its cap: the fixed grant where one is set, and else at least a quarter of an
equal share of what the fixed grants leave. -/
theorem refill_spec {s : State} (hs : twf s.subs {} = true) (pcl share : Nat) :
    let t := s.refill pcl share
    let auto := (List.range 128).filter fun k => (s.subAt pcl k).fixed = 0
    let left := share - (List.range 128).foldl (fun n k => n + (s.subAt pcl k).fixed) 0
    t.clus = s.clus ∧ t.mem = s.mem ∧
    ∀ k < 128, let u := s.subAt pcl k; let v := t.subAt pcl k
      v.account = min Config.accountCap (u.account + v.refill) ∧ v.drawn = 0 ∧ (u.fixed ≠ 0 → v.refill = u.fixed) ∧
      (u.fixed = 0 → left / (4 * auto.length) ≤ v.refill) := by
  intro t auto left
  let sum := auto.foldl (fun t k => t + demand s pcl k) 0
  let m := left / (4 * auto.length)
  let give := fun k => refillOf (s.subAt pcl k).fixed m (left - auto.length * m) (demand s pcl k) sum auto.length
  obtain ⟨hin, -, hclus, hmem⟩ := foldl_setSub (p := pcl) (f := fun k u => u.refilled (give k)) (List.range 128) hs List.nodup_range
  refine ⟨hclus, hmem, fun k hk => ?_⟩
  intro u v
  have hv : v = u.refilled (give k) := hin k (List.mem_range.mpr hk)
  rw [hv]
  refine ⟨rfl, rfl, fun h => if_pos (bne_iff_ne.mpr h), fun h => ?_⟩
  have hgive : give k = m + (if sum = 0 then (left - auto.length * m) / auto.length else (left - auto.length * m) * demand s pcl k / sum) :=
    if_neg (by simpa using h)
  exact le_of_le_of_eq (Nat.le_add_right m _) hgive.symm

/-! ### The control boundary -/

/-- What a cluster's boundary reads, and the invariant, are as in `s`. -/
def BoundarySame (s t : State) : Prop :=
  t.Inv ∧ ∀ p, (t.cluAt p).grantNext = (s.cluAt p).grantNext ∧ (t.cluAt p).granted = (s.cluAt p).granted ∧
    (t.cluAt p).engNext = (s.cluAt p).engNext ∧ (t.cluAt p).band = (s.cluAt p).band

theorem boundarySame_frame (s : State) : FaultFrame (BoundarySame s) where
  setCtx _ _ := fun ⟨hinv, h⟩ => ⟨State.setCtx_inv hinv, by simpa [State.cluAt] using h⟩
  setSub _ _ _ := fun ⟨hinv, h⟩ => ⟨State.setSub_inv hinv, h⟩
  setPart _ _ := fun ⟨hinv, h⟩ => ⟨State.setPart_inv hinv, h⟩
  bytes _ _ _ _ := fun ⟨hinv, h⟩ => ⟨applyBytes_inv hinv, h⟩
  underWay _ _ _ _ _ _ := fun ⟨hinv, h⟩ => ⟨State.inv_with hinv, h⟩
  cluster {t} p mons log lost pre held := fun ⟨hinv, h⟩ => by
    refine ⟨State.setClu_inv hinv, fun q => ?_⟩
    by_cases hq : q = p
    · subst hq
      rw [State.cluAt_setClu_same hinv.clus]
      exact h q
    · rw [State.cluAt_setClu_other hq]
      exact h q

/-- What the boundary of cluster `pcl` makes of it, whatever M words wait. -/
theorem boundary_cluster {s : State} {pcl : Nat} (hinv : s.Inv) (ht : s.mgr.tripped = false) :
    ∃ u, BoundarySame s u ∧ ((s.boundary pcl).cluAt pcl) = (u.cluAt pcl).boundary := by
  let heads := (s.contexts.filter fun e => e.1.pcl = pcl && !e.2.qm.items.isEmpty).map Prod.fst
  let u := ([0, 1, 2].flatMap fun k => heads.filter fun c => c.ctx = k).foldl State.noteWaiter s
  have hu : BoundarySame s u := foldl_keeps (fun _ _ h => (boundarySame_frame s).noteWaiter h) ⟨hinv, fun _ => ⟨rfl, rfl, rfl, rfl⟩⟩
  let t := u.onClu pcl Cluster.boundary
  have hrefill : (t.refill pcl (matrixShare (t.cluAt pcl))).clus = t.clus := (refill_spec (s := t) hu.1.subs pcl _).1
  have hb : s.boundary pcl = t.refill pcl (matrixShare (t.cluAt pcl)) := if_neg (by simp [ht])
  refine ⟨u, hu, ?_⟩
  rw [hb]
  exact (congrArg (fun c => tget c pcl ({} : Cluster)) hrefill).trans (State.cluAt_onClu_same hu.1.clus pcl _)

theorem boundary_values (cl : Cluster) : cl.boundary.eng = cl.engNext ∧ cl.boundary.deficit = 0 ∧
    cl.boundary.grant = (let g := min cl.grantNext cl.granted; if cl.band = 7 then g / 2 else g) ∧
    cl.boundary.pool = (let p := cl.boundary.grant * cl.engNext / 8; p - min cl.deficit (p / 2)) := ⟨rfl, rfl, rfl, rfl⟩

/-- The boundary of a cluster without M words. -/
theorem boundary_idle {s : State} {pcl : Nat} (ht : s.mgr.tripped = false) (hm : ∀ e ∈ s.contexts, e.1.pcl = pcl → e.2.qm.items = []) :
    s.boundary pcl = let t := s.onClu pcl Cluster.boundary; t.refill pcl (matrixShare (t.cluAt pcl)) := by
  have hheads : (s.contexts.filter fun e => e.1.pcl = pcl && !e.2.qm.items.isEmpty) = [] := by
    refine List.filter_eq_nil_iff.mpr fun e he => ?_
    by_cases hp : e.1.pcl = pcl
    · simp [hm e he hp]
    · simp [hp]
  simp [State.boundary, ht, hheads]

/-! ### Rewrites -/

theorem drawNow_values (cl : Cluster) (n : Nat) :
    cl.drawNow n = { cl with pool := cl.pool - n, deficit := cl.deficit + (n - cl.pool) } := by
  unfold Cluster.drawNow
  split
  case isTrue h => rw [Nat.sub_eq_zero_of_le h, Nat.add_zero]
  case isFalse h => rw [Nat.sub_eq_zero_of_le (by omega : cl.pool ≤ n)]

theorem refreshRg_valid {cl : Cluster} {n : Nat} (hv : (cl.rg n).valid = true) (hc : (cl.rg n).cls ≠ 0) :
    refreshRg cl n = cl.setRg n { cl.rg n with age := 0, reqd := false } := if_pos (by simp only [hv, Bool.true_and]; exact bne_iff_ne.mpr hc)

theorem rewritten_last {x : Context} {i : Item} {q : List Item} {rd rs1 rs2 : BitVec 5} (hq : x.ql.items = i :: q)
    (hi : i.ins = .mrefresh rd rs1 rs2) (hp : i.phase = .going) (hl : i.left = 1) :
    x.rewritten true = { x.setRg rd (i.val + 1) with ql := { x.ql with items := q } } := by
  simp [Context.rewritten, hq, hi, hp, hl, b2w]

/-- The state of an ended rewrite `r` of a valid row group, before what it was for hears of it. -/
def State.rewritten (s : State) (pcl : Nat) (r : Rewrite) : State :=
  let cl := s.cluAt pcl
  s.setClu pcl { cl.setRg r.n { cl.rg r.n with age := 0, reqd := false } with rewrites := cl.rewrites.erase r }

theorem rewriteEnd_valid {s : State} {pcl bank : Nat} {r : Rewrite}
    (hr : (s.cluAt pcl).rewrites.find? (fun q => q.n % 128 = bank && q.running) = some r)
    (hv : ((s.cluAt pcl).rg r.n).valid = true) (hc : ((s.cluAt pcl).rg r.n).cls ≠ 0) :
    s.rewriteEnd pcl bank = match r.who, r.eng with
      | some c, _ => (s.rewritten pcl r).onCtx c fun x => x.rewritten true
      | none, some (p, e, n) => (s.rewritten pcl r).onCmd p e n fun k => { k with left := k.left - 1, moved := k.moved + 4096 }
      | none, none => s.rewritten pcl r := by
  have hdid : (((s.cluAt pcl).rg r.n).valid && ((s.cluAt pcl).rg r.n).cls != 0) = true := by simp only [hv, Bool.true_and]; exact bne_iff_ne.mpr hc
  unfold State.rewriteEnd State.rewritten
  simp only [hr, refreshRg_valid hv hc, hdid]
  rfl

/-- A change of a command of an engine changes it in its queue, and nothing but that queue. -/
theorem onCmd_head {s : State} (hinv : s.Inv) {p e n : Nat} {f : Cmd → Cmd} (hwf : twf (s.cluAt p).engines [] = true) {k : Cmd} {q : List Cmd}
    (hq : s.engQueue p e = k :: q) (hk : k.num = n) : ((s.onCmd p e n f).engQueue p e).head? = some (f k) := by
  have hset : (s.onCmd p e n f).engQueue p e = (s.engQueue p e).map fun k => if k.num = n then f k else k := by
    unfold State.onCmd
    exact (congrArg (fun c : Cluster => tget c.engines e []) (State.cluAt_onClu_same hinv.clus p _)).trans (tget_tset_wf hwf)
  simp [hset, hq, hk]

theorem onCmd_rgs {s : State} (hinv : s.Inv) (p e n pcl : Nat) (f : Cmd → Cmd) : ((s.onCmd p e n f).cluAt pcl).rgs = (s.cluAt pcl).rgs := by
  unfold State.onCmd
  by_cases h : pcl = p
  · subst h
    rw [State.cluAt_onClu_same hinv.clus]
  · rw [State.cluAt_onClu_other h]

theorem State.rewritten_engines {s : State} (hinv : s.Inv) (pcl p : Nat) (r : Rewrite) :
    ((s.rewritten pcl r).cluAt p).engines = (s.cluAt p).engines := by
  unfold State.rewritten
  by_cases h : p = pcl
  · subst h
    rw [State.cluAt_setClu_same hinv.clus]
    rfl
  · rw [State.cluAt_setClu_other h]

theorem rewriteStart_starts {s : State} {pcl bank : Nat} {r : Rewrite}
    (hr : ((s.cluAt pcl).rewrites.filter fun q => q.n % 128 = bank).head? = some r) (hrun : r.running = false)
    (hn : nearWaits s pcl bank = false) (ht : s.mgr.tripped = false) :
    s.rewriteStart pcl bank = s.setClu pcl { (if r.eng.isSome then s.cluAt pcl else (s.cluAt pcl).drawNow 2) with
      rewrites := { r with running := true } :: (if r.eng.isSome then s.cluAt pcl else (s.cluAt pcl).drawNow 2).rewrites.erase r } := by
  unfold State.rewriteStart
  simp only [hr, hrun, hn, ht, Bool.or_self, Bool.false_eq_true, if_false]

theorem exec_mossRewriteStart (pcl bank : Nat) (s : State) : exec (.mossRewriteStart pcl bank) s = execMossRewriteStart pcl bank s := rfl
theorem exec_mossRewriteEnd (pcl bank : Nat) (s : State) : exec (.mossRewriteEnd pcl bank) s = execMossRewriteEnd pcl bank s := rfl
theorem exec_leaveBoundary (pcl : Nat) (s : State) : exec (.leaveBoundary pcl) s = execLeaveBoundary pcl s := rfl
theorem exec_droopEvent (pcl : Nat) (s : State) : exec (.droopEvent pcl) s = execDroopEvent pcl s := rfl
theorem exec_droopFreezeEnd (pcl : Nat) (s : State) : exec (.droopFreezeEnd pcl) s = execDroopFreezeEnd pcl s := rfl

section

variable {pcl : Nat} (hpcl : pcl < 40)

include hpcl

theorem mossRewriteStart_next (bank : Nat) (s : State) : exec (.mossRewriteStart pcl bank) s = .next (s.rewriteStart pcl bank) := by
  rw [exec_mossRewriteStart, execMossRewriteStart, atClu_of_lt hpcl]

theorem mossRewriteEnd_next (bank : Nat) (s : State) : exec (.mossRewriteEnd pcl bank) s = .next (s.rewriteEnd pcl bank) := by
  rw [exec_mossRewriteEnd, execMossRewriteEnd, atClu_of_lt hpcl]

theorem leaveBoundary_next (s : State) : exec (.leaveBoundary pcl) s = .next (s.boundary pcl) := by
  rw [exec_leaveBoundary, execLeaveBoundary, atClu_of_lt hpcl]

theorem droopEvent_next (s : State) : exec (.droopEvent pcl) s = .next (if s.mgr.tripped then s else s.onClu pcl Cluster.droops) := by
  rw [exec_droopEvent, execDroopEvent, atClu_of_lt hpcl]

theorem droopFreezeEnd_next (s : State) : exec (.droopFreezeEnd pcl) s = .next (if (s.cluAt pcl).droop && !s.mgr.tripped then s.droopEnd pcl else s) := by
  rw [exec_droopFreezeEnd, execDroopFreezeEnd, atClu_of_lt hpcl]

end

/-- Settles O46. -/
theorem rewritesAndBoundaries : Obligations.RewritesAndBoundaries := by
  unfold Obligations.RewritesAndBoundaries
  refine ⟨fun s pcl bank r => ?_, fun s pcl => ?_⟩
  · intro cl g hinv hp
    refine ⟨fun hr hrun hn ht => ⟨fun he => ?_, fun he => ?_⟩, fun hr hv hc => ?_⟩
    · have hsome : r.eng.isSome = true := Option.isSome_iff_ne_none.mpr he
      refine (mossRewriteStart_next hp bank s).trans (congrArg Host.Outcome.next ((rewriteStart_starts hr hrun hn ht).trans ?_))
      simp only [hsome, if_true]
      rfl
    · refine (mossRewriteStart_next hp bank s).trans (congrArg Host.Outcome.next ((rewriteStart_starts hr hrun hn ht).trans ?_))
      simp only [he, drawNow_values]
      rfl
    · rw [mossRewriteEnd_next hp, rewriteEnd_valid hr hv hc]
      refine ⟨fun hw he => ?_, fun p e n k q hw he hpp hwf hq hk => ?_, fun c i q rd rs1 rs2 => ?_⟩
      · simp only [hw, he]
        rfl
      · have hinv' : (s.rewritten pcl r).Inv := State.setClu_inv hinv
        have heng := State.rewritten_engines hinv pcl p r
        simp only [hw, he]
        exact ⟨_, rfl, onCmd_rgs hinv' p e n pcl _, onCmd_head hinv' (heng ▸ hwf) ((congrArg (fun t => tget t e []) heng).trans hq) hk⟩
      · intro x hw hq hi hph hl
        simp only [hw]
        exact congrArg (fun y => Host.Outcome.next ((s.rewritten pcl r).setCtx c y)) (rewritten_last (x := s.ctxAt c) hq hi hph hl)
  · intro cl hinv hp ht
    have hexec := leaveBoundary_next hp s
    refine ⟨fun hm => ?_, ?_, ?_, fun hd => ?_⟩
    · let u := s.onClu pcl Cluster.boundary
      have hu : u.cluAt pcl = (s.cluAt pcl).boundary := State.cluAt_onClu_same hinv.clus pcl _
      have hinv' : u.Inv := State.onClu_inv hinv
      obtain ⟨hclus, hmem, hsubs⟩ := refill_spec (s := u) hinv'.subs pcl (matrixShare (u.cluAt pcl))
      have hcl : (u.refill pcl (matrixShare (u.cluAt pcl))).cluAt pcl = (s.cluAt pcl).boundary :=
        (congrArg (fun c => tget c pcl ({} : Cluster)) hclus).trans hu
      obtain ⟨heng, hdef, hgrant, hpool⟩ := boundary_values (s.cluAt pcl)
      refine ⟨_, hexec.trans (congrArg Host.Outcome.next (boundary_idle ht hm)), hmem, ?_⟩
      intro g share auto left
      have hshare : share = matrixShare (u.cluAt pcl) := by
        rw [hu]
        exact congrArg (fun c : Cluster => c.grant - c.grant * (s.cluAt pcl).engNext / 8) hcl
      refine ⟨(congrArg Cluster.grant hcl).trans hgrant, (congrArg Cluster.eng hcl).trans heng, (congrArg Cluster.deficit hcl).trans hdef, ?_, ?_⟩
      · intro p
        have hp' : p = (s.cluAt pcl).boundary.grant * (s.cluAt pcl).engNext / 8 := congrArg (fun c : Cluster => c.grant * (s.cluAt pcl).engNext / 8) hcl
        rw [hp']
        exact (congrArg Cluster.pool hcl).trans hpool
      · intro k hk
        obtain ⟨hacc, hdrawn, hfixed, hauto⟩ := hsubs k hk
        have hleft : left = matrixShare (u.cluAt pcl) - (List.range 128).foldl (fun n k => n + (s.subAt pcl k).fixed) 0 := congrArg (· - _) hshare
        exact ⟨hacc, hdrawn, hfixed, fun h => le_of_eq_of_le (congrArg (· / (4 * auto.length)) hleft) (hauto h)⟩
    · obtain ⟨u, ⟨-, hsame⟩, hcl⟩ := boundary_cluster (pcl := pcl) hinv ht
      obtain ⟨hnext, hgranted, heng, hband⟩ := hsame pcl
      obtain ⟨heng', hdef, hgrant, -⟩ := boundary_values (u.cluAt pcl)
      rw [hnext, hgranted, hband] at hgrant
      exact ⟨_, hexec, by rw [hcl, heng', heng], by rw [hcl, hdef], by rw [hcl]; exact hgrant⟩
    · exact (droopEvent_next hp s).trans (congrArg Host.Outcome.next (if_neg (by simp [ht])))
    · intro done
      have hon : ((s.cluAt pcl).droop && !s.mgr.tripped) = true := by
        rw [show (s.cluAt pcl).droop = true from hd, ht]
        rfl
      rw [droopFreezeEnd_next hp, if_pos hon]
      exact ⟨fun h => congrArg Host.Outcome.next (if_neg (ne_true_of_eq_false h)), fun h => congrArg Host.Outcome.next (if_pos h)⟩

end Sys2Proof.Machine
end
section
namespace Sys2Proof.Machine

/-! ### The translation that a cluster holds -/

section

variable {s : State} {pcl p va : Nat} {k : Acc} {pa : Nat}

theorem leafOf_of_translate (h : translate s pcl p va k = .ok pa) : ∃ l, leafOf s pcl p va = .ok l := by
  unfold translate at h
  split at h
  · cases h
  · rename_i e lo hl
    exact ⟨_, hl⟩

/-- A mapped address has no malformed entry to report. -/
theorem State.noteWalk_of_translate (h : translate s pcl p va k = .ok pa) : s.noteWalk pcl p va = s := by
  obtain ⟨l, hl⟩ := leafOf_of_translate h
  rw [State.noteWalk, hl]

/-- A mapped address that takes no new entry has one already. -/
theorem tlb_of_fillTlb (h : translate s pcl p va k = .ok pa) (hf : fillTlb s pcl p va = s) :
    (s.tlb.any fun e => e.1 = pcl && e.2.1 = p && e.2.2.1 ≤ va && va < e.2.2.1 + e.2.2.2.1) = true := by
  by_contra hnot
  have hwalk : walk s (s.partAt p) va 4 (s.partAt p).root = .error true ∨ walk s (s.partAt p) va 4 (s.partAt p).root = .error false := by
    unfold fillTlb at hf
    simp only [if_neg hnot] at hf
    split at hf
    · have hlen := congrArg (fun t => t.tlb.length) hf
      simp only [List.length_cons] at hlen
      omega
    · rename_i m _
      cases m
      · exact .inr ‹_›
      · exact .inl ‹_›
  obtain ⟨l, hl⟩ := leafOf_of_translate h
  have hfind : (s.tlb.find? fun e => e.1 = pcl && e.2.1 = p && e.2.2.1 ≤ va && va < e.2.2.1 + e.2.2.2.1) = none := by
    rw [List.find?_eq_none]
    intro e he hp
    exact hnot (List.any_eq_true.mpr ⟨e, he, hp⟩)
  rcases hwalk with hw | hw <;> simp only [leafOf, hfind, hw, reduceCtorEq] at hl

theorem fillTlb_of_tlb (h : (s.tlb.any fun e => e.1 = pcl && e.2.1 = p && e.2.2.1 ≤ va && va < e.2.2.1 + e.2.2.2.1) = true) : fillTlb s pcl p va = s :=
  if_pos h

end

/-! ### The end of a wait -/

/-- The end of a wait of which the log takes no entry changes the context's waits, the monitors and the lost count of its cluster, and takes
a free value. -/
theorem waitEnd_shape {s : State} {c : CtxLoc} (hinv : s.Inv) (hn : s.logsNothing c) (unit : Nat) (b : BitVec 8) :
    ∃ w mons lost n, s.waitEnd c unit b =
      { (s.onCtx c fun x => { x with waits := w }).setClu c.pcl { s.cluAt c.pcl with mons := mons, waitlost := lost } with free := n } := by
  cases hw : tfind (s.ctxAt c).waits unit with
  | none =>
    refine ⟨(s.ctxAt c).waits, (s.cluAt c.pcl).mons, (s.cluAt c.pcl).waitlost, s.free, ?_⟩
    have hctx : (s.onCtx c fun x => { x with waits := (s.ctxAt c).waits }) = s := State.setCtx_ctxAt hinv.others c
    rw [State.waitEnd_none hw, hctx]
    have hclu := State.setClu_cluAt hinv.clus c.pcl
    rw [hclu]
  | some e =>
    have hfull : (s.cluAt c.pcl).waitcap ≤ (s.cluAt c.pcl).waitlog.length := by
      refine hn.resolve_left fun hnil => ?_
      rw [hnil] at hw
      cases hw
    obtain ⟨v, n, hv⟩ := waitEnd_lost (b := b) hw hfull
    let u := s.onCtx c fun x => { x with waits := tdel x.waits unit }
    have hu : u.Inv := State.onCtx_inv hinv
    have hclu : u.cluAt c.pcl = s.cluAt c.pcl := by
      unfold State.cluAt
      rw [State.onCtx_clus]
    refine ⟨tdel (s.ctxAt c).waits unit, ((s.cluAt c.pcl).mons.map fun e => if bitOf e.2.cfg 0 && bitsOf e.2.cfg 48 8 = 1 then (e.1, monSample e.2 v) else e),
      (s.cluAt c.pcl).waitlost + 1, n, hv.trans ?_⟩
    have hset : ((u.onClu c.pcl fun cl => { cl with waitlost := cl.waitlost + 1 }).sample c.pcl 1 v) =
        u.setClu c.pcl { s.cluAt c.pcl with
          mons := (s.cluAt c.pcl).mons.map fun e => if bitOf e.2.cfg 0 && bitsOf e.2.cfg 48 8 = 1 then (e.1, monSample e.2 v) else e
          waitlost := (s.cluAt c.pcl).waitlost + 1 } := by
      unfold State.sample State.onClu
      rw [State.cluAt_setClu_same hu.clus, State.setClu_setClu hu.clus, hclu]
    exact congrArg (fun t : State => { t with free := n }) hset

/-! ### The L items of a context without handler lane -/

theorem Context.litems_of_queue {x : Context} (h : x.lane = []) : x.litems = x.ql.items := if_pos (by rw [h]; rfl)

theorem Context.setLitems_of_queue {x : Context} (h : x.lane = []) (l : List Item) : x.setLitems l = { x with ql := { x.ql with items := l } } :=
  if_pos (by rw [h]; rfl)

/-- The context of a replaced item of the L queue. -/
theorem State.ctxAt_setLitem {s : State} {c : CtxLoc} (h : twf s.others {} = true) (hl : (s.ctxAt c).lane = []) (k : Nat) (i : Item) :
    (s.setLitem c k i).ctxAt c = { s.ctxAt c with ql := { (s.ctxAt c).ql with items := setNth (s.ctxAt c).ql.items k i } } := by
  rw [State.setLitem, State.ctxAt_onCtx_same h, Context.setLitems_of_queue hl, Context.litems_of_queue hl]

/-! ### A scalar store of device memory -/

/-- The one part of a scalar store. -/
def storePart (wd : Width) (a : Word) : LPart := { row := 0, off := 0, n := widthBytes wd, addr := a }

theorem widthBytes_pos (wd : Width) : 0 < widthBytes wd := by cases wd <;> decide

section

variable {s : State} {c : CtxLoc} {i : Item} {wd : Width} {rs2 rs1 : Reg} {imm : BitVec 11} {va pa : Nat}

theorem plainParts_store (x : Context) (hins : i.ins = .st wd rs2 rs1 imm) : plainParts s x i = [storePart wd i.a] := by
  simp only [plainParts, hins, scalarBytes]
  rfl

/-- The parts of a store whose translation the cluster holds. -/
theorem openParts_store (hins : i.ins = .st wd rs2 rs1 imm) (hf : i.fault = none) (ht : i.time = 0)
    (hp : placeOf (s.ctxAt c).wsize i.a = some (.dev va)) (htr : translate s c.pcl (s.ctxAt c).part va .store = .ok pa)
    (hfill : fillTlb s c.pcl (s.ctxAt c).part va = s) :
    openParts s c i [storePart wd i.a] = ({ i with parts := [{ storePart wd i.a with place := .dev va, pa := pa }] }, s) := by
  have hn : (storePart wd i.a).n ≠ 0 := (widthBytes_pos wd).ne'
  have hidx : indexed i.ins = none := by rw [hins]; rfl
  have hacc : accOf i.ins = .store := by rw [hins]; rfl
  have hplace : (placeOf (s.ctxAt c).wsize (storePart wd i.a).addr).map s.localPlace = some (.dev va) := by
    rw [show (storePart wd i.a).addr = i.a from rfl, hp]
    rfl
  have hnote : noteParts s c [storePart wd i.a] = s := by
    simp only [noteParts, List.foldl_cons, List.foldl_nil, hplace, if_neg hn, hfill, State.noteWalk_of_translate htr]
  have hres : resolve s c i (storePart wd i.a) = .ok { storePart wd i.a with place := .dev va, pa := pa } := by
    simp only [resolve, if_neg hn, hplace, hacc, htr]
  simp only [openParts, hidx, ht, Option.isSome_none, Bool.false_eq_true, if_false, Nat.zero_le, decide_true, List.filter_cons_of_pos,
    List.filter_nil, hnote, List.mapM_cons, List.mapM_nil, hres, Nat.not_lt_zero]
  simp [Item.settleParts, LPart.isTodo, LPart.flying, storePart, Item.stops, hf, bind, pure, Except.bind, Except.pure]

/-- The parts of the one request are the part. -/
theorem nextGroup_one {p : LPart} (hp : i.parts = [p]) (ht : p.isTodo = true) : nextGroup i = [0] := by
  simp [nextGroup, hp, ht]

/-- A started store that nothing holds enters its bytes into the write buffer. -/
theorem askNext_store (hins : i.ins = .st wd rs2 rs1 imm) (hf : i.fault = none) {p : LPart} (hparts : i.parts = [p]) (hst : p.st = .todo)
    (hp : p.place = .dev va) (hn : p.n = widthBytes wd) (hroom : (s.cluAt c.pcl).wbuf.length < 512) :
    askNext false c [] i s = ({ i with parts := [{ p with st := .out }] },
      (s.transfer c false).buffer c i.seq 0 p.pa (toLE (widthBytes wd) i.b.toNat)) := by
  have hpos : p.n ≠ 0 := by rw [hn]; exact (widthBytes_pos wd).ne'
  have hrel : releaseScope i.ins = none := by rw [hins]; rfl
  have hstore : isStore i.ins = true := by rw [hins]; rfl
  have hatom : atomOf i.ins = none := by rw [hins]; rfl
  have hwide : wideRelease i.ins = false := by rw [hins]; rfl
  have hisAtom : isAtom i.ins = false := by rw [hins]; rfl
  have htodo : p.isTodo = true := by rw [LPart.isTodo, hst]
  have hdata : storeData (s.ctxAt c) i p = .ok (toLE (widthBytes wd) i.b.toNat) := by rw [storeData, hins, hn]
  have hstops : i.stops = false := by rw [Item.stops, hf]; rfl
  have hgroup : groupOk s c [] i [p] = true := by
    simp [groupOk, partAhead, partHeld, hp, hpos]
    omega
  have hset : i.setPart 0 .out = { i with parts := [{ p with st := .out }] } := by simp [Item.setPart, hparts, setNth]
  have hask : askPart false c [] s i 0 p = ({ i with parts := [{ p with st := .out }] }, (s.transfer c false).buffer c i.seq 0 p.pa (toLE (widthBytes wd) i.b.toNat)) := by
    simp only [askPart, hstore, hisAtom, hdata, hp, hatom, hwide, hset, if_neg hpos, Bool.not_false, Bool.and_self, Bool.true_or, if_true,
      Bool.not_true, Bool.false_eq_true, if_false, bne_iff_ne.mpr hpos]
  have hgot : ([0].filterMap fun k => i.parts[k]?) = [p] := by simp [hparts]
  have hget : i.parts[0]? = some p := by simp [hparts]
  simp only [askNext, nextGroup_one hparts htodo, hrel, hstops, hgot, hgroup, Bool.not_true, Bool.or_self, Bool.false_eq_true, if_false, askParts,
    hget, hask]
  rfl

end

/-! ### The drain of a buffered write -/

/-- No earlier write holds a buffered write: it drains alone. -/
theorem drainChain_alone {w : List Buffered} {k : Nat} {b : Buffered} (hk : w[k]? = some b)
    (h : ∀ e ∈ w.take k, e.id ≠ b.id ∧ overlaps e.pa e.data.length b.pa b.data.length = false) : drainChain w b = [b] := by
  have hfold : ∀ l : List Buffered, (∀ e ∈ l, e.id ≠ b.id ∧ overlaps e.pa e.data.length b.pa b.data.length = false) →
      l.foldr (fun e l => if e.stamp.isNone && l.any fun d => overlaps e.pa e.data.length d.pa d.data.length then e :: l else l) [b] = [b] := by
    intro l
    induction l with
    | nil => exact fun _ => rfl
    | cons e r ih =>
      intro hl
      have he := (hl e List.mem_cons_self).2
      rw [List.foldr_cons, ih fun d hd => hl d (List.mem_cons_of_mem e hd), if_neg (by simp [he])]
  obtain ⟨hlt, hget⟩ := List.getElem?_eq_some_iff.mp hk
  have hsplit : w = w.take k ++ b :: w.drop (k + 1) := by
    rw [← hget, List.getElem_cons_drop, List.take_append_drop]
  have htake : (w.takeWhile fun e => e.id != b.id) = w.take k := by
    conv_lhs => rw [hsplit]
    rw [List.takeWhile_append_of_pos fun e he => bne_iff_ne.mpr (h e he).1, List.takeWhile_cons_of_neg (by simp), List.append_nil]
  rw [drainChain, htake, hfold _ h]

/-! ### WriteBuffer -/

/-- What the bytes of the parts that a context may ask for leave of a state: its contexts, clusters, memory, and the next number. -/
theorem State.transfer_fields (s : State) (c : CtxLoc) (near : Bool) :
    (s.transfer c near).focus = s.focus ∧ (s.transfer c near).cx = s.cx ∧ (s.transfer c near).others = s.others ∧
    (s.transfer c near).clus = s.clus ∧ (s.transfer c near).mem = s.mem ∧ (s.transfer c near).uid = s.uid := by
  unfold State.transfer
  dsimp only
  split <;> exact ⟨rfl, rfl, rfl, rfl, rfl, rfl⟩

section

variable {s : State} {c : CtxLoc} {i : Item} {wd : Width} {rs2 rs1 : Reg} {imm : BitVec 11} {va pa : Nat}

/-- A store that is alone in its L queue is the next word to start. -/
theorem lNext_store (hon : s.engineOn c = true) (hbusy : lBusy s c = false) (hlane : (s.ctxAt c).lane = []) (hq : (s.ctxAt c).ql.items = [i])
    (hidle : i.phase = .idle) (hins : i.ins = .st wd rs2 rs1 imm) : lNext s c = some (0, i, [storePart wd i.a]) := by
  have hlon : s.lOn c = true := by rw [State.lOn, hlane]; exact hon
  have hl : (s.ctxAt c).litems = [i] := by rw [Context.litems, hlane]; exact hq
  have hpoint : Instr.isPoint i.ins = false := by rw [hins]; rfl
  have hfirst : firstIdle [i] = some 0 := by simp [firstIdle, hpoint, hidle, List.findIdx?_cons]
  have hall : waitsAll i.ins = false := by rw [hins]; rfl
  have hparts : lParts s (s.ctxAt c) i = [storePart wd i.a] := by
    rw [lParts, show indexed i.ins = none by rw [hins]; rfl]
    exact plainParts_store _ hins
  simp only [lNext, hlon, hbusy, hlane, hl, hfirst, hall, hparts, List.isEmpty_nil, Bool.not_true, Bool.false_and, Bool.or_self, Bool.false_eq_true, if_false,
    List.getElem?_cons_zero, List.take_zero, aheadOk, bne_self_eq_false]

/-- A store of device memory names no tile. -/
theorem ownedPlace_store (hins : i.ins = .st wd rs2 rs1 imm) (hp : placeOf (s.ctxAt c).wsize i.a = some (.dev va)) :
    ownedPlace s c i [storePart wd i.a] = none := by
  have hplace : (placeOf (s.ctxAt c).wsize (storePart wd i.a).addr).map s.localPlace = some (.dev va) := by
    rw [show (storePart wd i.a).addr = i.a from rfl, hp]
    rfl
  have hg : lGrans i = [] := by simp only [lGrans, hins]
  have hn : (storePart wd i.a).n ≠ 0 := (widthBytes_pos wd).ne'
  simp only [ownedPlace, hg, List.find?_nil, Option.map_none, Option.none_or, List.findSome?_cons, List.findSome?_nil, if_neg hn, hplace]

/-- The state in which a started word of the L queue of `c` asks for its parts. -/
def State.begun (s : State) (c : CtxLoc) : State :=
  let t := s.waitEnd c 2 0
  t.onCtx c fun x => { x with ql := { x.ql with started := x.ql.started + 1 } }

/-- A store starts as its request leaves it. -/
theorem startL_store (hon : s.engineOn c = true) (hbusy : lBusy s c = false) (hlane : (s.ctxAt c).lane = []) (hq : (s.ctxAt c).ql.items = [i])
    (hidle : i.phase = .idle) (hins : i.ins = .st wd rs2 rs1 imm) (hf : i.fault = none) (hp : placeOf (s.ctxAt c).wsize i.a = some (.dev va))
    (hlane' : ((s.waitEnd c 2 0).ctxAt c).lane = [])
    (hopen : openParts (s.begun c) c { i with phase := .going, time := 0 } [storePart wd i.a] =
      ({ i with phase := .going, time := 0, parts := [{ storePart wd i.a with place := .dev va, pa := pa }] }, s.begun c)) :
    startL c false s =
      let r := askNext false c [] { i with phase := .going, time := 0, parts := [{ storePart wd i.a with place := .dev va, pa := pa }] } (s.begun c)
      r.2.setLitem c 0 r.1 := by
  have hpops : popsOf .l i.ins = [] := popsOf_zero (by rw [hins]; rfl)
  have hempty : emptyPop (s.ctxAt c) .l i.ins = none := by rw [emptyPop, hpops, List.find?_nil]
  have htake : takeTokens ((s.waitEnd c 2 0).ctxAt c) .l i = (none, (s.waitEnd c 2 0).ctxAt c) := by
    rw [takeTokens, hidle, hpops]
    rfl
  have hreq : Item.requesting { i with phase := .going, time := 0, parts := [{ storePart wd i.a with place := .dev va, pa := pa }] } = true := by
    have hpoint : Instr.isPoint i.ins = false := by rw [hins]; rfl
    have hstops : Item.stops { i with phase := .going, time := 0, parts := [{ storePart wd i.a with place := .dev va, pa := pa }] } = false := by
      rw [Item.stops, hf]
      rfl
    simp only [Item.requesting, hpoint, hstops]
    rfl
  have hidx : indexed i.ins = none := by rw [hins]; rfl
  have hnone : ((s.waitEnd c 2 0).ctxAt c).lane.isEmpty = true := by rw [hlane']; rfl
  simp only [startL, lNext_store hon hbusy hlane hq hidle hins, hidle, hempty, ownedPlace_store hins hp, htake, hnone, if_true,
    hidx, List.take_zero]
  let o := openParts (s.begun c) c { i with phase := .going, time := 0 } [storePart wd i.a]
  change (let r := if o.1.requesting && !o.1.parts.isEmpty then askNext false c [] o.1 o.2 else (o.1, o.2); r.2.setLitem c 0 r.1) = _
  rw [show o = _ from hopen]
  exact congrArg (fun r : Item × State => r.2.setLitem c 0 r.1) (if_pos (Bool.and_eq_true_iff.mpr ⟨hreq, rfl⟩))

end

/-- What a word that begins has changed. -/
theorem begun_spec {s : State} {c : CtxLoc} (hinv : s.Inv) (hn : s.logsNothing c) :
    (s.begun c).Inv ∧ s.sameWays (s.begun c) ∧ (s.begun c).uid = s.uid ∧ ((s.begun c).cluAt c.pcl).wbuf = (s.cluAt c.pcl).wbuf ∧
    ∃ w, (s.waitEnd c 2 0).ctxAt c = { s.ctxAt c with waits := w } ∧
      (s.begun c).ctxAt c = { s.ctxAt c with waits := w, ql := { (s.ctxAt c).ql with started := (s.ctxAt c).ql.started + 1 } } := by
  obtain ⟨w, mons, lost, n, hw⟩ := waitEnd_shape hinv hn 2 0
  have hended := State.waitEnd_waitsEnded (s := s) (t := s) ⟨.refl s, hinv, hn, _, rfl⟩ 2 0
  have hctx : (s.waitEnd c 2 0).ctxAt c = { s.ctxAt c with waits := w } := by
    rw [hw]
    exact State.ctxAt_onCtx_same hinv.others c _
  have hu : (s.waitEnd c 2 0).uid = s.uid := by
    rw [hw]
    exact State.onCtx_uid s c _
  have hclu : ((s.waitEnd c 2 0).cluAt c.pcl).wbuf = (s.cluAt c.pcl).wbuf := by
    rw [hw]
    have h := congrArg Cluster.wbuf (State.cluAt_setClu_same (s := s.onCtx c fun x => { x with waits := w }) (State.onCtx_inv hinv).clus c.pcl
      { s.cluAt c.pcl with mons := mons, waitlost := lost })
    exact h
  have hbegun : (s.begun c).cluAt c.pcl = (s.waitEnd c 2 0).cluAt c.pcl := by
    unfold State.begun State.cluAt
    rw [State.onCtx_clus]
  refine ⟨State.onCtx_inv hended.inv, hended.ways.trans (State.onCtx_sameWays _ c _), (State.onCtx_uid _ c _).trans hu,
    (congrArg Cluster.wbuf hbegun).trans hclu, w, hctx, ?_⟩
  rw [State.begun, State.ctxAt_onCtx_same hended.inv.others, hctx]

/-- A store that begins asks with its translation. -/
theorem openParts_begun {s : State} {c : CtxLoc} {i : Item} {wd : Width} {rs2 rs1 : Reg} {imm : BitVec 11} {va pa : Nat} (hinv : s.Inv) (hn : s.logsNothing c)
    (hins : i.ins = .st wd rs2 rs1 imm) (hf : i.fault = none) (hp : placeOf (s.ctxAt c).wsize i.a = some (.dev va))
    (htr : translate s c.pcl (s.ctxAt c).part va .store = .ok pa) (hfill : fillTlb s c.pcl (s.ctxAt c).part va = s) :
    openParts (s.begun c) c { i with phase := .going, time := 0 } [storePart wd i.a] =
      ({ i with phase := .going, time := 0, parts := [{ storePart wd i.a with place := .dev va, pa := pa }] }, s.begun c) := by
  obtain ⟨-, hways, -, -, w, -, hctx⟩ := begun_spec hinv hn
  have htlb := tlb_of_fillTlb htr hfill
  have htr' := (translate_sameWays hways c.pcl (s.ctxAt c).part va .store).trans htr
  obtain ⟨-, -, -, hsame, -⟩ := hways
  rw [← hsame] at htlb
  exact openParts_store (s := s.begun c) (i := { i with phase := .going, time := 0 }) hins hf rfl (by rw [hctx]; exact hp) (by rw [hctx]; exact htr')
    (by rw [hctx]; exact fillTlb_of_tlb htlb)

/-- The write buffer after a store has entered it. -/
theorem buffer_wbuf {s : State} (hinv : s.Inv) (c : CtxLoc) (seq : BitVec 32) (part pa : Nat) (bs : List Byte) :
    ∃ seen, ((s.buffer c seq part pa bs).cluAt c.pcl).wbuf = (s.cluAt c.pcl).wbuf ++ [⟨s.uid, c, seq, part, pa, bs, false, none, seen, []⟩] :=
  ⟨((s.cluAt c.pcl).wbuf.filter fun b => b.stamp.isNone && b.seenBy.contains c).map Buffered.id, by
    have h := congrArg Cluster.wbuf (State.cluAt_onClu_same hinv.clus c.pcl fun cl =>
      let seen := (cl.wbuf.filter fun b => b.stamp.isNone && b.seenBy.contains c).map Buffered.id
      { cl with wbuf := cl.wbuf ++ [⟨s.uid, c, seq, part, pa, bs, false, none, seen, []⟩] })
    exact h⟩

/-- The contexts that have observed a write take its stamp alone. -/
theorem observed_fields (st : Stamp) (l : List CtxLoc) : ∀ s : State, let t := l.foldl (fun s c => s.onCtx c fun x => x.observe st) s
    t.transit = s.transit ∧ t.clocks = s.clocks ∧ t.mem = s.mem := by
  induction l with
  | nil => exact fun _ => ⟨rfl, rfl, rfl⟩
  | cons c r ih =>
    intro s
    obtain ⟨h1, h2, h3⟩ := ih (s.onCtx c fun x => x.observe st)
    exact ⟨h1.trans (State.onCtx_transit ..), h2.trans (State.onCtx_clocks ..), h3.trans (State.onCtx_mem ..)⟩

/-- What the drain of a buffered write puts under way. -/
theorem drainOne_fields (s : State) (pcl : Nat) (b : Buffered) :
    let st := ((tget s.clocks (dieOf pcl) {}).max (s.ctxAt b.who).obs).tick (dieOf pcl)
    (s.drainOne pcl b).transit = s.transit ++ [⟨.lword b.who b.seq b.part (some b.id), dieOf pcl, st, b.pa, b.data, b.bad, none, none⟩] ∧
    (s.drainOne pcl b).clocks = tset s.clocks (dieOf pcl) st {} ∧ (s.drainOne pcl b).mem = s.mem := by
  intro st
  unfold State.drainOne
  obtain ⟨h1, h2, h3⟩ := observed_fields st b.seenBy ((s.stampWrite (dieOf pcl) (s.ctxAt b.who).obs).2.onClu pcl fun cl => { cl with wbuf := cl.wbuf.map fun w =>
    if w.id = b.id then { w with stamp := some st, seenBy := [] } else { w with seen := w.seen.filter (· != b.id) } })
  exact ⟨congrArg (· ++ _) h1, h2, h3⟩

theorem exec_lWordStart (c : CtxLoc) (late : Bool) (s : State) : exec (.lWordStart c late) s = execLWordStart c late s := rfl
theorem exec_writeBufferDrain (pcl k : Nat) (s : State) : exec (.writeBufferDrain pcl k) s = execWriteBufferDrain pcl k s := rfl

/-- Settles O34. -/
theorem writeBuffer : Obligations.WriteBuffer := by
  unfold Obligations.WriteBuffer
  refine ⟨fun s c i wd rs2 rs1 imm va pa => ?_, fun s pcl k b hp hk hst ht hahead => ?_⟩
  · intro x hinv hok hon hbusy hn hlane hq hidle hins hf hrows hplace htr hfill hroom
    obtain ⟨hbinv, ⟨hmem, -⟩, huid, hwbuf, w, hctx, hbctx⟩ := begun_spec hinv hn
    let v := s.begun c
    let p : LPart := { storePart wd i.a with place := .dev va, pa := pa }
    let j : Item := { i with phase := .going, time := 0, parts := [{ p with st := .out }] }
    let u := (v.transfer c false).buffer c i.seq 0 pa (toLE (widthBytes wd) i.b.toNat)
    have hstart : startL c false s = u.setLitem c 0 j := by
      rw [startL_store hon hbusy hlane hq hidle hins hf hplace (by rw [hctx]; exact hlane) (openParts_begun hinv hn hins hf hplace htr hfill),
        askNext_store (s := v) (i := { i with phase := .going, time := 0, parts := [p] }) (p := p) hins hf rfl rfl rfl rfl (by rw [hwbuf]; exact hroom)]
    obtain ⟨hfocus, hcx, hothers, hclus, htmem, htuid⟩ := v.transfer_fields c false
    have hvinv : (v.transfer c false).Inv := State.transfer_inv hbinv
    obtain ⟨seen, hseen⟩ := buffer_wbuf hvinv c i.seq 0 pa (toLE (widthBytes wd) i.b.toNat)
    have hcl : (v.transfer c false).cluAt c.pcl = v.cluAt c.pcl := congrArg (fun t => tget t c.pcl ({} : Cluster)) hclus
    have huctx : u.ctxAt c = v.ctxAt c := by
      change (v.transfer c false).ctxAt c = v.ctxAt c
      simp only [State.ctxAt, hfocus, hcx, hothers]
    have htctx : (u.setLitem c 0 j).ctxAt c = { x with waits := w, ql := { x.ql with items := [j], started := x.ql.started + 1 } } := by
      have hl : ((u.ctxAt c)).lane = [] := by
        rw [huctx, hbctx]
        exact hlane
      have hset : setNth x.ql.items 0 j = [j] := by
        rw [hq]
        rfl
      rw [State.ctxAt_setLitem (s := u) hvinv.others hl, huctx, hbctx]
      exact congrArg (fun l => { x with waits := w, ql := { x.ql with items := l, started := x.ql.started + 1 } }) hset
    refine ⟨_, seen, (exec_lWordStart c false s).trans (atCtx_of_ok hok), ?_, ?_, ?_, ?_, ?_, ?_⟩
    · rw [hstart]
      have hset : (u.setLitem c 0 j).cluAt c.pcl = u.cluAt c.pcl := congrArg (fun t => tget t c.pcl ({} : Cluster)) (State.onCtx_clus u c _)
      rw [hset, hseen, hcl, hwbuf, htuid, huid]
    · rw [hstart, htctx]
      rfl
    · rw [hstart, htctx]
    · rw [hstart, htctx]
    · rw [hstart, htctx]
    · rw [hstart]
      exact (State.onCtx_mem u c _).trans (htmem.trans hmem)
  · refine ⟨s.drainOne pcl b, ?_, drainOne_fields s pcl b⟩
    rw [exec_writeBufferDrain, execWriteBufferDrain, atClu_of_lt hp, hk]
    simp only [hst, ht, Option.isNone_none, Bool.not_false, Bool.and_self, if_true, State.drainWith, drainChain_alone hk hahead, List.foldl_cons,
      List.foldl_nil]

end Sys2Proof.Machine
end
section
namespace Sys2Proof.Machine

/-! ### Replies and finishes of scalar loads (R102, R104) -/

theorem exec_farReply (c : CtxLoc) (k : PartRef) (e : Bool) (s : State) : exec (.farReply c k e) s = execFarReply c k e s := rfl
theorem exec_lWordFinish (c : CtxLoc) (s : State) : exec (.lWordFinish c) s = execLWordFinish c s := rfl

/-- A read that no buffered write covers brings the bytes of the homes. -/
theorem devRead_home {s : State} {c : CtxLoc} (hb : (s.cluAt c.pcl).wbuf = []) (pa n : Nat) :
    (devRead s c pa n).1 = loadBytes s.mem pa n ∧ (devRead s c pa n).2.1 = (unitsOf pa n).any fun u => s.poison.contains u := by
  have hsrc : ∀ a, newest [] a = none := fun _ => rfl
  simp only [devRead, hb, hsrc, loadBytes_eq_map, List.map_map, List.filterMap_map]
  refine ⟨rfl, ?_⟩
  simp

section

variable {s : State} {c : CtxLoc} {i : Item} {r : List Item} {wd : Width} {rd rs1 : Reg} {imm : BitVec 11}

/-- The one part of the head of the queue is looked at where it passes the test. -/
theorem lPart_head (hlane : (s.ctxAt c).lane = []) (hq : (s.ctxAt c).ql.items = i :: r) {p : LPart} (hparts : i.parts = [p])
    (t : Item → LPart → Bool) : lPart (s.ctxAt c) 0 0 t = if t i p then some (i, p) else none := by
  simp only [lPart, Context.litems_of_queue hlane, hq, hparts, List.getElem?_cons_zero, Option.bind_some]

/-- A scalar load gets bytes without poison. -/
theorem gotBytes_ld (hins : i.ins = .ld wd rd rs1 imm) (k : Nat) (p : LPart) (bs : List Byte) (cause : BitVec 8) (tval : Word) (st : Stamp) :
    gotBytes i k p bs false cause tval st = { { i with stamp := i.stamp.max st }.setPart k .done with val := extend wd (leNat bs) } := by
  obtain ⟨ins⟩ := i
  cases hins
  rfl

/-- A load whose one part has ended is complete. -/
theorem settleParts_ended {j : Item} {p : LPart} (hp : j.parts = [p]) (hf : p.flying = false) (ht : p.isTodo = false) :
    j.settleParts = { j with phase := .complete } := by
  simp only [Item.settleParts, hp, List.any_cons, List.any_nil, hf, ht, Bool.false_and, Bool.or_self, Bool.false_eq_true, if_false]

/-- A part replaced in an item with one part. -/
theorem setPart_one {p : LPart} (hp : i.parts = [p]) (st : PartSt) : i.setPart 0 st = { i with parts := [{ p with st := st }] } := by
  simp only [Item.setPart, hp, List.getElem?_cons_zero, setNth]

/-- The head of a list replaced. -/
theorem State.setLitem_head (hothers : twf s.others {} = true) (hlane : (s.ctxAt c).lane = []) (hq : (s.ctxAt c).ql.items = i :: r) (j : Item) :
    (s.setLitem c 0 j).ctxAt c = { s.ctxAt c with ql := { (s.ctxAt c).ql with items := j :: r } } := by
  rw [State.ctxAt_setLitem hothers hlane, hq]
  rfl

/-- The reply that a home fails. -/
theorem farReply_fails (hlane : (s.ctxAt c).lane = []) (hq : (s.ctxAt c).ql.items = i :: r) (hins : i.ins = .ld wd rd rs1 imm) {p : LPart}
    (hparts : i.parts = [p]) {va : Nat} (hp : p.place = .dev va) (hst : p.st = .out) (ha : p.addr = i.a) (hf : i.fault = none) :
    farReply c 0 0 true s = s.setLitem c 0 { i with parts := [{ p with st := .bad }], fault := some ⟨0x0F, i.a⟩, phase := .complete } := by
  have hread : Instr.readsOnly i.ins = true := by rw [hins]; rfl
  have haddr : faultAddr i p = i.a := by rw [faultAddr, hins, ha]
  have hfail : (i.failPart 0 ⟨0x0F, i.a⟩).settleParts = { i with parts := [{ p with st := .bad }], fault := some ⟨0x0F, i.a⟩, phase := .complete } := by
    rw [Item.failPart, setPart_one hparts, settleParts_ended rfl rfl rfl, noteFault, hf]
    rfl
  simp only [farReply, lPart_head hlane hq hparts, hread, hp, hst, Bool.and_self, if_true, rowHeld, List.take_zero, List.any_nil, Bool.or_self, Bool.false_eq_true, if_false, haddr, hfail]

/-- The reply that brings the bytes of the home. -/
theorem farReply_brings (hinv : s.Inv) (hlane : (s.ctxAt c).lane = []) (hq : (s.ctxAt c).ql.items = i :: r) (hins : i.ins = .ld wd rd rs1 imm)
    {p : LPart} (hparts : i.parts = [p]) {va : Nat} (hp : p.place = .dev va) (hst : p.st = .out)(hb : (s.cluAt c.pcl).wbuf = []) (hgood : ∀ u ∈ unitsOf p.pa p.n, u ∉ s.poison) :
    ∃ st, farReply c 0 0 false s = (s.transfer c false).setLitem c 0 { i with
      parts := [{ p with st := .done }], stamp := st, val := extend wd (loadNat s.mem p.pa p.n), phase := .complete } := by
  have hread : Instr.readsOnly i.ins = true := by rw [hins]; rfl
  obtain ⟨hbytes, hpoison⟩ := devRead_home hb p.pa p.n
  have hstate := devRead_state hinv hb p.pa p.n
  have hclean : (devRead s c p.pa p.n).2.1 = false := by
    rw [hpoison, List.any_eq_false]
    exact fun u hu hbad => hgood u hu (List.contains_iff_mem.mp hbad)
  have hgot : (gotBytes i 0 p (devRead s c p.pa p.n).1 (devRead s c p.pa p.n).2.1 0x0D p.addr (devRead s c p.pa p.n).2.2.1).settleParts =
      { i with parts := [{ p with st := .done }], stamp := i.stamp.max (devRead s c p.pa p.n).2.2.1,
               val := extend wd (loadNat s.mem p.pa p.n), phase := .complete } := by
    rw [hclean, hbytes, gotBytes_ld hins, setPart_one (i := { i with stamp := i.stamp.max (devRead s c p.pa p.n).2.2.1 }) hparts,
      settleParts_ended rfl rfl rfl]
    rfl
  refine ⟨i.stamp.max (devRead s c p.pa p.n).2.2.1, ?_⟩
  simp only [farReply, lPart_head hlane hq hparts, hread, hp, hst, Bool.and_self, if_true, rowHeld, List.take_zero, List.any_nil, Bool.or_self, Bool.false_eq_true, if_false, hgot, hstate]

/-- What a running L engine has its context in. -/
theorem State.engineOn_parts (hon : s.engineOn c = true) : (s.ctxAt c).resident = true ∧ (s.ctxAt c).halt = none ∧ (s.ctxAt c).debug = false ∧
    (s.ctxAt c).parked = false ∧ s.frozen c.pcl c.sub = false ∧ s.mgr.tripped = false := by
  simp only [State.engineOn, Context.running, Bool.and_eq_true, Bool.not_eq_true', Option.isNone_iff_eq_none] at hon
  obtain ⟨⟨⟨⟨⟨⟨⟨hres, hhalt⟩, hdebug⟩, hparked⟩, -⟩, hfrozen⟩, htripped⟩, -⟩ := hon
  exact ⟨hres, hhalt, hdebug, hparked, hfrozen, htripped⟩

/-- A complete load at the head of the queue finishes, or raises its fault. -/
theorem finishL_load (hon : s.engineOn c = true) (hlane : (s.ctxAt c).lane = []) (hq : (s.ctxAt c).ql.items = i :: r)
    (hdone : i.phase = .complete) (hins : i.ins = .ld wd rd rs1 imm) :
    finishL c s = match i.fault with
      | some f => failL c i r f s
      | none => finishHead .l c i (pushesOf .l i.ins)
          (s.setCtx c { ((s.ctxAt c).setRg rd i.val).observe i.stamp with rdinv := ((s.ctxAt c).setRg rd i.val).rdinv || i.sawInv }) := by
  obtain ⟨hres, hhalt, hdebug, hparked, hfrozen, htripped⟩ := State.engineOn_parts hon
  have hre : rePush .l c s = none := by simp only [rePush, Context.queue, hq, hdone]
  have hpoint : Instr.isPoint i.ins = false := by rw [hins]; rfl
  have hwrite : writeBack (s.ctxAt c) i = .ok ((s.ctxAt c).setRg rd i.val) := by
    rw [writeBack, hins]
    rfl
  unfold finishL
  rw [hre]
  cases hf : i.fault <;> simp only [hf, Context.litems_of_queue hlane, hq, hlane, List.isEmpty_nil, hdone, hpoint, hres, hfrozen, htripped, hparked, hdebug, hhalt,
    Option.isNone_none, hwrite, Bool.not_true, Bool.not_false, Bool.and_self, Bool.or_true, Bool.true_or, Bool.false_eq_true, if_false]

/-- A load with a fault raises it, and stands at the part at which it is made again. -/
theorem failL_load (hlane : (s.ctxAt c).lane = []) (hins : i.ins = .ld wd rd rs1 imm) (f : Flt) :
    failL c i r f s = (s.setCtx c { s.ctxAt c with ql := { (s.ctxAt c).ql with
      items := i.parkL (if f.cause = 0x0F ∧ i.parts ≠ [] then i.nextPart else i.time) :: r } }).raise c f.cause f.tval i.pc (some (.l, i.seq, i.pc)) := by
  have hread : Instr.readsOnly i.ins = true := by rw [hins]; rfl
  have hwrite : writeBack (s.ctxAt c) i = .ok ((s.ctxAt c).setRg rd i.val) := by
    rw [writeBack, hins]
    rfl
  have hparts : (!i.parts.isEmpty) = true ↔ i.parts ≠ [] := by simp
  unfold failL
  simp only [hlane, List.isEmpty_nil, Bool.not_true, Bool.false_and, Bool.false_eq_true, if_false, hread, Bool.and_true, if_true, hwrite, Context.setLitems_of_queue hlane]
  by_cases h : f.cause = 0x0F ∧ i.parts ≠ []
  · have hif : (decide (f.cause = 0x0F) && !i.parts.isEmpty) = true := Bool.and_eq_true_iff.mpr ⟨decide_eq_true h.1, hparts.mpr h.2⟩
    simp only [hif, if_true, hins, if_pos h]
  · have hif : (decide (f.cause = 0x0F) && !i.parts.isEmpty) = false := Bool.eq_false_iff.mpr fun e => by
      obtain ⟨h1, h2⟩ := Bool.and_eq_true_iff.mp e
      exact h ⟨of_decide_eq_true h1, hparts.mp h2⟩
    simp only [hif, Bool.false_eq_true, if_false, hins, if_neg h]

end

/-- Settles O37. -/
theorem loadsFinish : Obligations.LoadsFinish := by
  unfold Obligations.LoadsFinish
  refine ⟨fun s c i r wd rd rs1 imm p va => ?_, fun s c i r wd rd rs1 imm => ?_⟩
  · intro x hinv hok hlane hq _ hparts hf hins hp hst ha hn hb hgood
    refine ⟨?_, ?_⟩
    · obtain ⟨st, hreply⟩ := farReply_brings hinv hlane hq hins hparts hp hst hb (hn ▸ hgood)
      obtain ⟨hfocus, hcx, hothers, -, hmem, -⟩ := s.transfer_fields c false
      have hctx : (s.transfer c false).ctxAt c = x := by simp only [State.ctxAt, hfocus, hcx, hothers, x]
      have hl : ((s.transfer c false).ctxAt c).lane = [] := hctx ▸ hlane
      have hq' : ((s.transfer c false).ctxAt c).ql.items = i :: r := hctx ▸ hq
      have hset := State.setLitem_head (State.transfer_inv (c := c) (near := false) hinv).others hl hq'
        { i with parts := [{ p with st := .done }], stamp := st, val := extend wd (loadNat s.mem p.pa p.n), phase := .complete }
      refine ⟨_, { i with parts := [{ p with st := .done }], stamp := st, val := extend wd (loadNat s.mem p.pa p.n), phase := .complete },
        (exec_farReply c ⟨0, 0⟩ false s).trans ((atCtx_of_ok hok).trans (congrArg Host.Outcome.next hreply)), ?_, rfl, hf, ?_, ?_, ?_⟩
      · exact congrArg (fun y : Context => y.ql.items) hset
      · rw [hn]
      · rw [hset, hctx]
      · exact (State.onCtx_mem ..).trans hmem
    · have hset := State.setLitem_head hinv.others hlane hq
        { i with parts := [{ p with st := .bad }], fault := some ⟨0x0F, i.a⟩, phase := .complete }
      exact ⟨_, { i with parts := [{ p with st := .bad }], fault := some ⟨0x0F, i.a⟩, phase := .complete }, (exec_farReply c ⟨0, 0⟩ true s).trans ((atCtx_of_ok hok).trans
        (congrArg Host.Outcome.next (farReply_fails hlane hq hins hparts hp hst ha hf))), congrArg (fun y : Context => y.ql.items) hset, rfl, rfl,
        State.onCtx_mem ..⟩
  · intro x hinv hok hon hlane hq hdone hins
    have hexec : exec (.lWordFinish c) s = .next (finishL c s) := (exec_lWordFinish c s).trans (atCtx_of_ok hok)
    have hfin := finishL_load hon hlane hq hdone hins
    refine ⟨fun hf => ?_, fun f hf => ?_⟩
    · have hpush : pushesOf .l i.ins = [] := pushesOf_zero (by rw [hins]; rfl)
      rw [hf] at hfin
      simp only [hpush, finishHead_silent hinv] at hfin
      refine ⟨_, hexec.trans (congrArg Host.Outcome.next hfin), State.setCtx_mem .., (State.ctxAt_setCtx_same hinv.others c _).trans ?_⟩
      simp only [Context.setQueue, Context.queue, Context.observe, Context.setRg_ql, Context.setRg_obs, Context.setRg_rdinv, x, hq, List.drop_one,
        List.tail_cons]
    · rw [hf] at hfin
      exact hexec.trans (congrArg Host.Outcome.next (hfin.trans (failL_load hlane hins f)))

end Sys2Proof.Machine
end
section
namespace Sys2Proof.Machine

/-! ### The freeze of a sub-core (R34, R36): a counterexample with a focus outside the package

The statement takes any state. Contexts are kept under numbers; the focus ⟨0, 0, 3⟩, which is no context of the package, has the number of the
first context of sub-core 1. When the machine turns to another context, the state of the old focus is put away under that number, and the
overdue access that stood there is gone. -/

/-- A load of Moss that waits for its reply. -/
def waitingLoad : Item :=
  { ins := .ld .w 1 2 16, pc := 0x40, seq := 0, vshape := 0, fpctl := 0, a := mossAddr 0, b := 0, d := 0, mask := 0, phase := .going,
    parts := [{ row := 0, off := 0, n := 4, addr := mossAddr 0, place := .moss 0, st := .asked }] }

/-- Two strands of sub-core 1, the first with the load, under a focus that is no context of the package. -/
def strayFocus : State :=
  { focus := ⟨0, 0, 3⟩
    others := [(3, { resident := true, ql := { items := [waitingLoad] } }), (4, { resident := true })] }

/-- The strand of a context can issue its next word after an event. -/
def issuesAfter (d : CtxLoc) (o : Out) : Bool :=
  match o with
  | .next t => (t.refocus d).canIssue
  | _ => false

theorem strayFocus_inv : strayFocus.Inv := by
  unfold State.Inv
  decide +kernel

/-- The second strand of the sub-core issues words while the first one's reply is overdue. -/
theorem strayFocus_issues : issuesAfter ⟨0, 1, 1⟩ (exec (.nearReplyDue ⟨0, 1, 0⟩ ⟨0, 0⟩) strayFocus) = true := by
  decide +kernel

/-- Refutes O38: where the focus is no context of the package, turning to a context of a frozen sub-core can lose the overdue access. -/
theorem not_overdueAccessFreezes : ¬ Obligations.OverdueAccessFreezes := by
  unfold Obligations.OverdueAccessFreezes
  intro h
  obtain ⟨⟨t, hexec, -, hheld, -⟩, -⟩ := h strayFocus ⟨0, 1, 0⟩ 0 0 0 waitingLoad
    { row := 0, off := 0, n := 4, addr := mossAddr 0, place := .moss 0, st := .asked } strayFocus_inv (by decide) rfl rfl (by decide)
  have hissues := strayFocus_issues
  rw [hexec] at hissues
  exact absurd ((hheld ⟨0, 1, 1⟩ (by decide) rfl rfl).symm.trans hissues) (by decide)

end Sys2Proof.Machine
end
section
namespace Sys2Proof.Machine

/-! ### What writes of the hardware change -/

/-- Two states that differ in memory, what is known of its lines, the controller's state, and the clocks alone. -/
def State.wroteTo (s t : State) : Prop :=
  t = { s with mem := t.mem, poison := t.poison, covers := t.covers, stamps := t.stamps, mgr := t.mgr, clocks := t.clocks }

theorem State.wroteTo_refl (s : State) : s.wroteTo s := rfl

theorem State.wroteTo_trans {s t u : State} (h : s.wroteTo t) (g : t.wroteTo u) : s.wroteTo u := by
  unfold State.wroteTo at *
  rw [g, h]

theorem State.noteWalk_wroteTo (s : State) (pcl p va : Nat) : s.wroteTo (s.noteWalk pcl p va) := by
  unfold State.noteWalk
  split <;> rfl

theorem vwrite_wroteTo (pcl p : Nat) (o : Stamp) (l : List (Nat × List Byte)) : ∀ s : State, s.wroteTo (s.vwrite pcl p o l).1 := by
  induction l with
  | nil => exact fun _ => rfl
  | cons e r ih =>
    intro s
    unfold State.vwrite
    split
    · exact s.noteWalk_wroteTo _ _ _
    · split
      · rfl
      · exact State.wroteTo_trans (t := s.hwWrite _ _ _ _) rfl (ih _)

theorem vstore_wroteTo (s : State) (pcl p : Nat) (o : Stamp) (va : Nat) (bs : List Byte) : s.wroteTo (s.vstore pcl p o va bs).1 :=
  vwrite_wroteTo _ _ _ _ _

section

variable {s t : State} (h : s.wroteTo t)

include h

theorem State.wroteTo.ctxAt (c : CtxLoc) : t.ctxAt c = s.ctxAt c := by rw [show t = _ from h]; rfl
theorem State.wroteTo.cluAt (p : Nat) : t.cluAt p = s.cluAt p := by rw [show t = _ from h]; rfl
theorem State.wroteTo.subAt (p k : Nat) : t.subAt p k = s.subAt p k := by rw [show t = _ from h]; rfl
theorem State.wroteTo.parts : t.parts = s.parts := by rw [show t = _ from h]
theorem State.wroteTo.waiters : t.waiters = s.waiters := by rw [show t = _ from h]
theorem State.wroteTo.uid : t.uid = s.uid := by rw [show t = _ from h]

end

/-! ### A context that becomes idle -/

section

variable {s : State} (hinv : s.Inv) (c : CtxLoc)

include hinv

/-- A strand has left its context. -/
theorem idleCtx_resident : ((s.idleCtx c).ctxAt c).resident = false := by
  have h : (s.idleCtx c).ctxAt c = ((s.returnLeave c).onCtx c Context.idle).ctxAt c := rfl
  rw [h, State.ctxAt_onCtx_same (State.returnLeave_inv hinv).others]
  rfl

/-- What a strand that leaves its context changes of the clusters. -/
theorem idleCtx_cluAt (p : Nat) : ∃ pre, (s.idleCtx c).cluAt p = { s.cluAt p with preempting := pre } := by
  let u := ((s.returnLeave c).onCtx c Context.idle)
  have hclus : u.clus = s.clus := by simp [u, State.returnLeave]
  let v := u.setSub c.pcl c.sub { u.subAt c.pcl c.sub with waiters := (u.subAt c.pcl c.sub).waiters.filter fun w => w.1 != c.ctx }
  have hv : ∀ q, v.cluAt q = s.cluAt q := fun q => congrArg (fun t => tget t q ({} : Cluster)) hclus
  have hidle : s.idleCtx c = v.onClu c.pcl fun cl => if cl.preempting = some (ckey c) then { cl with preempting := none } else cl := rfl
  have hvinv : v.Inv := State.setSub_inv (State.onCtx_inv (State.returnLeave_inv hinv))
  rw [hidle]
  by_cases hp : p = c.pcl
  · subst hp
    rw [State.cluAt_onClu_same hvinv.clus, hv]
    split
    · exact ⟨none, rfl⟩
    · exact ⟨(s.cluAt c.pcl).preempting, rfl⟩
  · rw [State.cluAt_onClu_other hp, hv]
    exact ⟨(s.cluAt p).preempting, rfl⟩

omit hinv in
theorem idleCtx_fields : (s.idleCtx c).parts = s.parts ∧ (s.idleCtx c).waiters = s.waiters ∧ (s.idleCtx c).mem = s.mem := by
  unfold State.idleCtx State.returnLeave
  refine ⟨?_, ?_, ?_⟩ <;> simp

end

/-! ### The end of a strand -/

theorem tfind_tput {α : Type} (t : Tbl α) (k : Nat) (v : α) : tfind (tput t k v) k = some v := by
  induction t with
  | nil => simp [tput, tfind]
  | cons e r ih =>
    obtain ⟨j, w⟩ := e
    unfold tput
    split
    · simp [tfind]
    · split
      · simp [tfind]
      · rename_i hne
        simp only [tfind, if_neg hne, ih]

section

variable {s : State} {p id : Nat} {l : Launch}

/-- The launch of a lost record counts as many ended strands as before. -/
theorem loseRecord_ended (hinv : s.Inv) (strand : Nat) (hl : tfind (s.partAt p).launches id = some l) :
    ∃ l', tfind ((s.loseRecord p id strand).partAt p).launches id = some l' ∧ l'.ended = l.ended := by
  refine ⟨{ l with unmade := l.unmade ++ [strand] }, ?_, rfl⟩
  unfold State.loseRecord
  rw [State.partAt_onPart_same hinv.parts]
  simp only [hl]
  exact tfind_tput ..

/-- An ended strand is counted. -/
theorem countEnd_ended (hinv : s.Inv) (err : Option (BitVec 8 × Word × Nat × Word)) (hl : tfind (s.partAt p).launches id = some l) :
    ∃ l', tfind ((s.countEnd p id err).partAt p).launches id = some l' ∧ l'.ended = l.ended + 1 := by
  refine ⟨{ l with ended := l.ended + 1, errors := l.errors + (if err.isSome then 1 else 0), report := l.report.or err }, ?_, rfl⟩
  unfold State.countEnd
  rw [State.partAt_onPart_same hinv.parts]
  simp only [hl]
  exact tfind_tput ..

end

theorem lowerGroup_parts (s : State) (c : CtxLoc) (u : State) (k : Nat) : (s.lowerGroup c u k).parts = u.parts := by
  unfold State.lowerGroup
  dsimp only
  split
  · split
    · rfl
    · split
      · exact (u.noteWalk_wroteTo ..).parts
      · rfl
  · rfl

theorem lowerGroup_inv {s : State} {c : CtxLoc} {u : State} {k : Nat} (h : u.Inv) : (s.lowerGroup c u k).Inv :=
  (boundarySame_frame u).lowerGroup k ⟨h, fun _ => ⟨rfl, rfl, rfl, rfl⟩⟩ |>.1

/-- The launch is there, with this number of ended strands. -/
def State.endedIs (p id n : Nat) (s : State) : Prop := s.Inv ∧ ∃ l, tfind (s.partAt p).launches id = some l ∧ l.ended = n

theorem endedIs_of_parts {s t : State} {p id n : Nat} (h : s.endedIs p id n) (ht : t.Inv) (hp : t.parts = s.parts) : t.endedIs p id n := by
  obtain ⟨-, l, hl, hn⟩ := h
  refine ⟨ht, l, ?_, hn⟩
  rw [State.partAt, hp]
  exact hl

/-- A counted strand that leaves its context. -/
theorem counted_idle {s : State} {p id n : Nat} (h : s.endedIs p id n) (c : CtxLoc) (err : Option (BitVec 8 × Word × Nat × Word)) :
    ((((s.countEnd p id err).idleCtx c).ctxAt c).resident = false) ∧ ((s.countEnd p id err).idleCtx c).endedIs p id (n + 1) := by
  obtain ⟨hinv, l, hl, rfl⟩ := h
  obtain ⟨l', hl', hn⟩ := countEnd_ended hinv err hl
  have hc : (s.countEnd p id err).Inv := State.countEnd_inv hinv
  exact ⟨idleCtx_resident hc c, endedIs_of_parts ⟨hc, l', hl', hn⟩ (State.idleCtx_inv hc) (idleCtx_fields c).1⟩

/-- A strand that ends leaves its context, and its launch counts it. -/
theorem endStrand_ends {s : State} {c : CtxLoc} (b : Bool) (e : Option (BitVec 8 × Word)) {n : Nat}
    (h : s.endedIs (s.ctxAt c).part (s.ctxAt c).launchid.toNat n) :
    ((s.endStrand c b e).ctxAt c).resident = false ∧ (s.endStrand c b e).endedIs (s.ctxAt c).part (s.ctxAt c).launchid.toNat (n + 1) := by
  have hlowered : ∀ l, State.endedIs (s.ctxAt c).part (s.ctxAt c).launchid.toNat n (List.foldl (s.lowerGroup c) s l) := fun l =>
    foldl_keeps (fun u k hu => endedIs_of_parts hu (lowerGroup_inv hu.1) (lowerGroup_parts s c u k)) h
  have hstored : ∀ (u : State) pcl p o va bs, u.endedIs (s.ctxAt c).part (s.ctxAt c).launchid.toNat n →
      (u.vstore pcl p o va bs).1.endedIs (s.ctxAt c).part (s.ctxAt c).launchid.toNat n := fun u pcl p o va bs hu =>
    endedIs_of_parts hu (State.vstore_inv hu.1) (vstore_wroteTo ..).parts
  have hlost : ∀ (u : State) k, u.endedIs (s.ctxAt c).part (s.ctxAt c).launchid.toNat n →
      (u.loseRecord (s.ctxAt c).part (s.ctxAt c).launchid.toNat k).endedIs (s.ctxAt c).part (s.ctxAt c).launchid.toNat n := by
    rintro u k ⟨hu, l, hl, hn⟩
    obtain ⟨l', hl', hn'⟩ := loseRecord_ended hu k hl
    exact ⟨State.loseRecord_inv hu, l', hl', hn'.trans hn⟩
  unfold State.endStrand
  dsimp only
  refine counted_idle ?_ c _
  have htold : ∀ (u : State) mgr, u.endedIs (s.ctxAt c).part (s.ctxAt c).launchid.toNat n →
      State.endedIs (s.ctxAt c).part (s.ctxAt c).launchid.toNat n { u with mgr := mgr } := fun u mgr hu =>
    endedIs_of_parts hu (State.inv_with hu.1) rfl
  exact ite_keeps (hlost _ _ (htold _ _ (hstored _ _ _ _ _ _ (hlowered _)))) (hstored _ _ _ _ _ _ (hlowered _))

/-! ### Releases -/

/-- Drains change of a context what it has observed alone. -/
def State.observedTo (c : CtxLoc) (s t : State) : Prop := s.Inv → t.Inv ∧ ∃ o, t.ctxAt c = { s.ctxAt c with obs := o }

theorem State.observedTo_refl (c : CtxLoc) (s : State) : s.observedTo c s := fun h => ⟨h, _, rfl⟩

theorem State.observedTo_trans {c : CtxLoc} {s t u : State} (h : s.observedTo c t) (g : t.observedTo c u) : s.observedTo c u := by
  intro hs
  obtain ⟨ht, o, ho⟩ := h hs
  obtain ⟨hu, o', ho'⟩ := g ht
  exact ⟨hu, o', by rw [ho', ho]⟩

/-- A change of a context changes what stands under its number, whatever the focus. -/
theorem ctxAt_onCtx_cases {s : State} (h : twf s.others {} = true) (c d : CtxLoc) (f : Context → Context) :
    (s.onCtx d f).ctxAt c = s.ctxAt c ∨ (s.onCtx d f).ctxAt c = f (s.ctxAt c) := by
  unfold State.onCtx State.setCtx
  by_cases hd : d = s.focus
  · rw [if_pos hd]
    by_cases hc : c = s.focus
    · exact .inr (by simp [State.ctxAt, hc, hd])
    · exact .inl (by simp [State.ctxAt, hc])
  · rw [if_neg hd]
    by_cases hc : c = s.focus
    · exact .inl (by simp [State.ctxAt, hc])
    · by_cases hk : ckey c = ckey d
      · refine .inr ?_
        simp only [State.ctxAt, if_neg hc, if_neg hd, hk]
        exact tget_tset_wf h
      · refine .inl ?_
        simp only [State.ctxAt, if_neg hc]
        exact tget_tset_other hk

theorem State.observe_observedTo (c d : CtxLoc) (s : State) (st : Stamp) : s.observedTo c (s.onCtx d fun x => x.observe st) := by
  intro hs
  refine ⟨State.onCtx_inv hs, ?_⟩
  rcases ctxAt_onCtx_cases hs.others c d fun x => x.observe st with h | h
  · exact ⟨_, h⟩
  · exact ⟨_, h⟩

theorem State.drainOne_observedTo (c : CtxLoc) (s : State) (pcl : Nat) (b : Buffered) : s.observedTo c (s.drainOne pcl b) := by
  unfold State.drainOne
  refine State.observedTo_trans (t := List.foldl _ _ b.seenBy) ?_ fun h => ⟨State.inv_with h, _, rfl⟩
  refine State.observedTo_trans ?_ (foldl_rel (State.observedTo_refl c) State.observedTo_trans (fun s d => State.observe_observedTo c d s _) _ _)
  exact fun h => ⟨State.onClu_inv (State.stampWrite_inv h), _, rfl⟩

theorem drainFirst_observedTo (c : CtxLoc) (pcl : Nat) (p : Buffered → Bool) (n : Nat) : ∀ s : State, s.observedTo c (drainFirst pcl p n s) := by
  induction n with
  | zero => exact State.observedTo_refl c
  | succ n ih =>
    intro s
    unfold drainFirst
    split
    · exact State.observedTo_trans (foldl_rel (State.observedTo_refl c) State.observedTo_trans (fun s w => s.drainOne_observedTo c pcl w) _ _) (ih _)
    · exact State.observedTo_refl c s

theorem State.releaseDrain_observedTo (c d : CtxLoc) (sc : Scope) (s : State) : s.observedTo c (s.releaseDrain d sc) := by
  unfold State.releaseDrain
  split
  · exact State.observedTo_refl c s
  · exact State.observedTo_refl c s
  · exact State.observedTo_refl c s
  · exact drainFirst_observedTo c d.pcl _ _ s

/-- A cluster whose write buffer is empty has nothing to drain. -/
theorem State.releaseDrain_empty {s : State} {c : CtxLoc} (h : (s.cluAt c.pcl).wbuf = []) (sc : Scope) : s.releaseDrain c sc = s := by
  unfold State.releaseDrain State.drainAll
  rw [h]
  split <;> rfl

/-! ### Write-backs of a calm machine -/

theorem record_length (x : Context) (pc : Word) (state flags count cause : Nat) : (x.record pc state flags count cause).length = 64 := by
  simp only [Context.record, recordBytes, List.length_append, toLE_length]

section

variable {s : State} {c : CtxLoc}

/-- A release that nothing depends on may be applied at once. -/
theorem canWriteBack_settled (h : s.settled c.pcl) : s.canWriteBack c = true := by
  obtain ⟨htransit, hadds, harr, hlaunch, hbuf⟩ := h
  unfold State.canWriteBack
  rw [State.releaseDrain_empty hbuf]
  simp only [State.mayWrite, State.awaits, State.stampWrite, htransit, hadds, harr, hlaunch, List.any_nil, Bool.or_self, Bool.not_false]

/-- The record of a strand is written where its memory takes it. -/
theorem writeRecord_settled (h : s.settled c.pcl) (hstore : s.canStore c.pcl (s.ctxAt c).part (s.ctxAt c).recaddr.toNat 64) (pc : Word)
    (state flags count cause : Nat) : ∃ t, s.writeRecord c pc state flags count cause = (t, true) ∧ s.wroteTo t := by
  obtain ⟨htransit, -, -, -, hbuf⟩ := h
  let st := (s.stampWrite (dieOf c.pcl) (s.ctxAt c).obs).1
  let u := (s.stampWrite (dieOf c.pcl) (s.ctxAt c).obs).2
  let bs := (s.ctxAt c).record pc state flags count cause
  have hflush : u.flush st = u := by
    have hu : u.transit = [] := htransit
    rw [State.flush, hu]
    rfl
  have hok : (u.vstore c.pcl (s.ctxAt c).part st (s.ctxAt c).recaddr.toNat bs).2 = none :=
    hstore u ⟨rfl, rfl, rfl, rfl, rfl⟩ st bs (record_length ..)
  refine ⟨(u.vstore c.pcl (s.ctxAt c).part st (s.ctxAt c).recaddr.toNat bs).1, ?_, State.wroteTo_trans (t := u) rfl (vstore_wroteTo ..)⟩
  unfold State.writeRecord
  rw [State.releaseDrain_empty hbuf]
  dsimp only
  rw [show (s.stampWrite (dieOf c.pcl) (s.ctxAt c).obs).2.flush (s.stampWrite (dieOf c.pcl) (s.ctxAt c).obs).1 = u from hflush]
  generalize hr : State.vstore u c.pcl (s.ctxAt c).part (s.stampWrite (dieOf c.pcl) (s.ctxAt c).obs).1 (s.ctxAt c).recaddr.toNat
    ((s.ctxAt c).record pc state flags count cause) = r
  have hok' : r.2 = none := hr ▸ hok
  obtain ⟨t, w⟩ := r
  cases hok'
  rfl

/-- A strand whose partition has no expiries takes none. -/
theorem takeExpiry_none {p : Nat} (h : (s.partAt p).expiries = []) (launch strand : Nat) : s.takeExpiry p launch strand = (none, s) := by
  simp only [State.takeExpiry, h, List.find?_nil]

/-- A record that enters the ready queue of its cluster, after its strand has left. -/
theorem enterReady_ready {t : State} (ht : t.Inv) (hw : t.cluAt c.pcl = s.cluAt c.pcl) (p launch strand : Nat) (addr : Word) (prio : BitVec 3)
    (rd : Option (Reg × Option (Nat × Nat))) :
    (((t.idleCtx c).enterReady c.pcl p launch strand addr prio rd).ctxAt c).resident = false ∧
    (((t.idleCtx c).enterReady c.pcl p launch strand addr prio rd).cluAt c.pcl).ready =
      (s.cluAt c.pcl).ready ++ [⟨p, launch, strand, addr, prio, 0, (t.idleCtx c).uid, rd⟩] := by
  refine ⟨idleCtx_resident ht c, ?_⟩
  obtain ⟨pre, hpre⟩ := idleCtx_cluAt ht c c.pcl
  have h := congrArg Cluster.ready (State.cluAt_onClu_same (State.idleCtx_inv (c := c) ht).clus c.pcl fun cl =>
    { cl with ready := cl.ready ++ [⟨p, launch, strand, addr, prio, 0, (t.idleCtx c).uid, rd⟩] })
  rw [hpre, hw] at h
  exact h

/-- A drained strand at a yield is written back. -/
theorem writeBack_yielded {u : Bool} (hyield : (s.ctxAt c).drain = .yielded) (htriple : (s.ctxAt c).triple = false) (hd : drained s c = some u)
    (hcmds : cmdsOut s c = false) (hreplies : (s.ctxAt c).replies = []) (hs : s.settled c.pcl) :
    s.writeBack c = s.backReady c (s.ctxAt c).ypc 1 (if u then 64 else 0) := by
  simp only [State.writeBack, htriple, hd, hcmds, hreplies, canWriteBack_settled hs, hyield, Bool.false_and, Bool.false_eq_true, if_false, List.isEmpty_nil,
    Bool.not_true, Bool.or_self]

/-- A drained strand at a suspension is written back. -/
theorem writeBack_suspended {u : Bool} {rd : Reg} {cause thr : BitVec 32} {pc : Word} (hsusp : (s.ctxAt c).drain = .suspended rd cause thr pc)
    (htriple : (s.ctxAt c).triple = false) (hd : drained s c = some u)
    (hcmds : cmdsOut s c = false) (hreplies : (s.ctxAt c).replies = []) (hs : s.settled c.pcl) (hkind : bitsOf (cause.setWidth 64) 28 4 = 1) :
    s.writeBack c = s.backWaiting c pc (if u then 64 else 0) cause thr (some (rd, some (eventOf c.pcl (bitsOf (cause.setWidth 64) 0 16)))) := by
  simp only [State.writeBack, htriple, hd, hcmds, hreplies, canWriteBack_settled hs, hsusp, Bool.false_and, Bool.false_eq_true, if_false, List.isEmpty_nil,
    Bool.not_true, Bool.or_self, hkind, if_true]

/-- A waiter whose counter is below its threshold waits. -/
theorem register_waits {w : Waiter} {pcl n : Nat} {thr : BitVec 64} (hw : w.cond = .counter pcl n thr) (rings : Tbl Word)
    (hlt : ((s.cluAt pcl).counter n).val.toNat < thr.toNat) : s.register w rings = { s with waiters := s.waiters ++ [w] } := by
  have hcond : condHolds s w rings = false := by
    simp only [condHolds, hw]
    exact decide_eq_false (Nat.not_le.mpr hlt)
  simp only [State.register, hcond, Bool.false_eq_true, if_false]

end

theorem exec_slotmaskTakesEffect (c : CtxLoc) (s : State) : exec (.slotmaskTakesEffect c) s = execSlotmaskTakesEffect c s := rfl
theorem exec_exitDrainComplete (c : CtxLoc) (s : State) : exec (.exitDrainComplete c) s = execExitDrainComplete c s := rfl
theorem exec_recordWriteBack (c : CtxLoc) (s : State) : exec (.recordWriteBack c) s = execRecordWriteBack c s := rfl

/-- Settles O42. -/
theorem strandsLeave : Obligations.StrandsLeave := by
  unfold Obligations.StrandsLeave
  intro s c x hinv hok
  refine ⟨fun m hm hf => ?_, fun u l hdrain hd hl => ?_, fun u hcalm hs hd hcmds hreplies htriple hexp hstore => ⟨fun hyield => ?_, ?_⟩⟩
  · rw [exec_slotmaskTakesEffect, execSlotmaskTakesEffect, atCtx_of_ok hok]
    simp only [hf, Bool.false_eq_true, if_false, State.onCtx, show (s.ctxAt c).slotsNext = some m from hm]
    rfl
  · obtain ⟨hrinv, o, ho⟩ := State.releaseDrain_observedTo c c .device s hinv
    have hparts : (s.releaseDrain c .device).parts = s.parts := by rw [s.releaseDrain_drainedTo c .device]
    have hcount : (s.releaseDrain c .device).endedIs ((s.releaseDrain c .device).ctxAt c).part ((s.releaseDrain c .device).ctxAt c).launchid.toNat l.ended := by
      rw [ho]
      exact endedIs_of_parts ⟨hinv, l, hl, rfl⟩ hrinv hparts
    obtain ⟨hres, -, l', hl', hn⟩ := endStrand_ends u none hcount
    rw [ho] at hl'
    have hdone : s.exitDone c = (s.releaseDrain c .device).endStrand c u none := by
      simp only [State.exitDone, show (s.ctxAt c).drain = .exit from hdrain, hd]
    refine ⟨s.exitDone c, l', (exec_exitDrainComplete c s).trans (atCtx_of_ok hok), ?_, ?_, hn⟩
    · rw [hdone]
      exact hres
    · rw [hdone]
      exact hl'
  · obtain ⟨t, ht, hw⟩ := writeRecord_settled hs hstore x.ypc 1 (if u then 64 else 0) 0 (causeWith none)
    have htinv : t.Inv := by
      have h := State.writeRecord_inv (c := c) (pc := x.ypc) (state := 1) (flags := if u then 64 else 0) (count := 0) (cause := causeWith none) hinv
      rwa [ht] at h
    have hback : s.writeBack c = (t.idleCtx c).enterReady c.pcl x.part x.launchid.toNat x.strandid.toNat x.recaddr x.base none := by
      rw [writeBack_yielded hyield htriple hd hcmds hreplies hs]
      simp only [State.backReady, takeExpiry_none (s := s) (p := (s.ctxAt c).part) hexp]
      rw [show s.writeRecord c (s.ctxAt c).ypc 1 (if u then 64 else 0) 0 (causeWith none) = (t, true) from ht]
      rfl
    obtain ⟨hres, hready⟩ := enterReady_ready htinv (hw.cluAt c.pcl) x.part x.launchid.toNat x.strandid.toNat x.recaddr x.base none
    refine ⟨s.writeBack c, ⟨x.part, x.launchid.toNat, x.strandid.toNat, x.recaddr, x.base, 0, (t.idleCtx c).uid, none⟩,
      (exec_recordWriteBack c s).trans (atCtx_of_ok hok), ?_, ?_, rfl, rfl, rfl, rfl, rfl, rfl⟩
    · rw [hback]
      exact hres
    · rw [hback]
      exact hready
  · intro rd cause thr pc hsusp hkind e hlt
    obtain ⟨t, ht, hw⟩ := writeRecord_settled hs hstore pc 5 (if u then 64 else 0) thr.toNat cause.toNat
    have htinv : t.Inv := by
      have h := State.writeRecord_inv (c := c) (pc := pc) (state := 5) (flags := if u then 64 else 0) (count := thr.toNat) (cause := cause.toNat) hinv
      rwa [ht] at h
    let w : Waiter := ⟨x.part, x.launchid.toNat, x.strandid.toNat, x.recaddr, c.pcl, (if u then 64 else 0) / 16 % 2 = 1,
      condOf c.pcl x.launchid.toNat cause thr, some (rd, some e)⟩
    have hcond : w.cond = .counter e.1 e.2 (thr.setWidth 64) := by
      simp only [w, condOf, hkind]
      rfl
    have hbelow : (((t.idleCtx c).cluAt e.1).counter e.2).val.toNat < (thr.setWidth 64).toNat := by
      obtain ⟨pre, hpre⟩ := idleCtx_cluAt htinv c e.1
      rw [hpre, hw.cluAt, BitVec.toNat_setWidth, Nat.mod_eq_of_lt (by omega)]
      exact hlt
    have hback : s.writeBack c = { t.idleCtx c with waiters := (t.idleCtx c).waiters ++ [w] } := by
      rw [writeBack_suspended hsusp htriple hd hcmds hreplies hs hkind]
      simp only [State.backWaiting, ht]
      exact register_waits hcond _ hbelow
    have hwaiters : (t.idleCtx c).waiters = [] := ((idleCtx_fields c).2.1.trans hw.waiters).trans hcalm.2.1
    refine ⟨s.writeBack c, w, (exec_recordWriteBack c s).trans (atCtx_of_ok hok), ?_, ?_, hcond, rfl, rfl, rfl⟩
    · rw [hback]
      exact idleCtx_resident htinv c
    · rw [hback, hwaiters]
      rfl

end Sys2Proof.Machine
end
section
namespace Sys2Proof.Machine

/-! ### Requests of pre-emption (R352) -/

theorem exec_preemptionRequest (pcl : Nat) (s : State) : exec (.preemptionRequest pcl) s = execPreemptionRequest pcl s := rfl
theorem exec_partitionDrain (p : Nat) (s : State) : exec (.partitionDrain p) s = execPartitionDrain p s := rfl
theorem exec_preemptionDeadline (c : CtxLoc) (s : State) : exec (.preemptionDeadline c) s = execPreemptionDeadline c s := rfl
theorem exec_timeoutSuspension (c : CtxLoc) (s : State) : exec (.timeoutSuspension c) s = execTimeoutSuspension c s := rfl
theorem exec_stopRecordCut (c : CtxLoc) (n : Nat) (l : List Nat) (s : State) : exec (.stopRecordCut c n l) s = execStopRecordCut c n l s := rfl
theorem exec_debugResume (c : CtxLoc) (e : Option Word) (s : State) : exec (.debugResume c e) s = execDebugResume c e s := rfl

/-- What every step keeps and one element brings about holds after a fold over a list with that element. -/
theorem foldl_reaches {α β : Type} {P Q : β → Prop} {f : β → α → β} (hP : ∀ b a, P b → P (f b a)) (hQ : ∀ b a, P b → Q b → Q (f b a)) {a : α}
    (hit : ∀ b, P b → Q (f b a)) : ∀ {l : List α} {b : β}, a ∈ l → P b → Q (l.foldl f b) := by
  intro l
  induction l with
  | nil => exact fun h => absurd h List.not_mem_nil
  | cons e r ih =>
    intro b ha hb
    have hkeep : ∀ (r : List α) b, P b → Q b → Q (r.foldl f b) := fun r => by
      induction r with
      | nil => exact fun _ _ h => h
      | cons d r ihr => exact fun b hb hq => ihr (f b d) (hP b d hb) (hQ b d hb hq)
    rcases List.mem_cons.mp ha with rfl | ha
    · exact hkeep r _ (hP b a hb) (hit b hb)
    · exact ih ha (hP b e hb)

theorem Context.request_resident (x : Context) : x.request.resident = x.resident := by
  unfold Context.request
  split <;> rfl

theorem Context.request_preq {x : Context} (h : x.resident = true) : x.request.preq = true := by
  unfold Context.request
  rw [h, Bool.true_and]
  cases hp : x.preq
  · rfl
  · exact hp

/-- The strand is resident, in a canonical state. -/
def State.holdsStrand (c : CtxLoc) (s : State) : Prop := s.Inv ∧ (s.ctxAt c).resident = true

section

variable {c : CtxLoc} {s : State}

theorem onCtx_request_holds (d : CtxLoc) (h : s.holdsStrand c) : (s.onCtx d Context.request).holdsStrand c := by
  obtain ⟨hinv, hres⟩ := h
  refine ⟨State.onCtx_inv hinv, ?_⟩
  rcases ctxAt_onCtx_cases hinv.others c d Context.request with h | h
  · rw [h, hres]
  · rw [h, Context.request_resident, hres]

theorem onCtx_request_keeps (d : CtxLoc) (h : s.holdsStrand c) (hp : (s.ctxAt c).preq = true) : ((s.onCtx d Context.request).ctxAt c).preq = true := by
  rcases ctxAt_onCtx_cases h.1.others c d Context.request with he | he
  · rw [he, hp]
  · rw [he, Context.request_preq h.2]

theorem onCtx_request_hits (h : s.holdsStrand c) : ((s.onCtx c Context.request).ctxAt c).preq = true := by
  rw [State.ctxAt_onCtx_same h.1.others, Context.request_preq h.2]

theorem request_holds (d : CtxLoc) (h : s.holdsStrand c) : (s.request d).holdsStrand c := by
  unfold State.request
  split
  · exact foldl_keeps (fun u m hu => onCtx_request_holds m hu) h
  · exact onCtx_request_holds d h

theorem request_keeps (d : CtxLoc) (h : s.holdsStrand c) (hp : (s.ctxAt c).preq = true) : ((s.request d).ctxAt c).preq = true := by
  unfold State.request
  split
  · exact (foldl_keeps (P := fun u : State => u.holdsStrand c ∧ (u.ctxAt c).preq = true)
      (fun u m hu => ⟨onCtx_request_holds m hu.1, onCtx_request_keeps m hu.1 hu.2⟩) ⟨h, hp⟩).2
  · exact onCtx_request_keeps d h hp

/-- A requested strand has its request. -/
theorem request_hits (hok : c.ok = true) (h : s.holdsStrand c) : ((s.request c).ctxAt c).preq = true := by
  unfold State.request
  split
  · rename_i htriple
    have hmem : c ∈ (members c).filter fun m => (s.ctxAt m).triple := by
      refine List.mem_filter.mpr ⟨?_, htriple⟩
      simp only [CtxLoc.ok, Bool.and_eq_true, decide_eq_true_eq] at hok
      obtain ⟨pcl, sub, k⟩ := c
      have hk : k = 0 ∨ k = 1 ∨ k = 2 := by have := hok.2; simp only at this; omega
      rcases hk with rfl | rfl | rfl <;> simp [members]
    exact foldl_reaches (P := State.holdsStrand c) (Q := fun u => (u.ctxAt c).preq = true) (fun u m hu => onCtx_request_holds m hu)
      (fun u m hu hp => onCtx_request_keeps m hu hp) (fun u hu => onCtx_request_hits hu) hmem h
  · exact onCtx_request_hits h

/-- An entry that is not the default is in its table. -/
theorem mem_of_tget_ne {α : Type} {d : α} : ∀ {t : Tbl α} {k : Nat}, tget t k d ≠ d → (k, tget t k d) ∈ t
  | [], _, h => absurd rfl h
  | (j, w) :: r, k, h => by
    unfold tget at h ⊢
    split
    case isTrue he => exact he ▸ List.mem_cons_self
    case isFalse he =>
      rw [if_neg he] at h
      exact List.mem_cons_of_mem _ (mem_of_tget_ne h)

theorem cloc_ckey (hok : c.ok = true) : cloc (ckey c) = c := by
  obtain ⟨p, u, k⟩ := c
  simp only [CtxLoc.ok, Bool.and_eq_true, decide_eq_true_eq] at hok
  simp only [cloc, ckey, CtxLoc.mk.injEq]
  omega

/-- A resident strand of the package is in the list of contexts. -/
theorem mem_contexts (hok : c.ok = true) (h : (s.ctxAt c).resident = true) : (c, s.ctxAt c) ∈ s.contexts := by
  unfold State.contexts
  by_cases hc : c = s.focus
  · have hx : s.ctxAt c = s.cx := if_pos hc
    rw [hx, hc]
    exact List.mem_cons_self
  · have hx : s.ctxAt c = tget s.others (ckey c) {} := if_neg hc
    have hne : tget s.others (ckey c) ({} : Context) ≠ {} := fun e => by
      rw [hx, e] at h
      exact absurd h (by decide)
    refine List.mem_cons_of_mem _ (List.mem_map.mpr ⟨_, mem_of_tget_ne hne, ?_⟩)
    rw [cloc_ckey hok, hx]

end

/-! ### Saves that wait for their cut (R198, R352) -/

/-- A save whose cut waits for what is in flight. -/
theorem beginSave_waits {s : State} {c : CtxLoc} (hinv : s.Inv) (hh : (s.ctxAt c).halt = none) (hd : (s.ctxAt c).debug = false)
    (hr : (s.ctxAt c).resident = true) (hf : (s.ctxAt c).inFlight = true) (r : BitVec 8) (f w : Bool) (cause : BitVec 32) (pc : Word) (thr : BitVec 32) :
    s.beginSave c r f w cause pc thr =
      s.setCtx c { s.ctxAt c with halt := some ⟨.save r f w cause pc thr, (s.ctxAt c).pc, none⟩, counting := false } := by
  have hsave : (s.ctxAt c).toSave = false := by rw [Context.toSave, hh]; rfl
  have hflight : Context.inFlight { s.ctxAt c with halt := some ⟨.save r f w cause pc thr, (s.ctxAt c).pc, none⟩, counting := false } = true := by
    rw [Context.inFlight, hsave, Bool.false_and, Bool.or_false, Bool.or_eq_true, Bool.or_eq_true, Bool.or_eq_true] at hf
    rw [Context.inFlight]
    simp only [Bool.or_eq_true]
    rcases hf with (((hf | hf) | hf) | hf)
    · exact .inl (.inl (.inl (.inl hf)))
    · exact .inl (.inl (.inl (.inr hf)))
    · exact .inl (.inl (.inr hf))
    · exact .inr hf
  have hguard : ¬ ((s.ctxAt c).halt.isSome || (s.ctxAt c).debug || !(s.ctxAt c).resident) = true := by
    rw [hh, hd, hr]
    decide
  unfold State.beginSave State.settle
  dsimp only
  rw [if_neg hguard, State.ctxAt_onCtx_same hinv.others, if_pos hflight]
  rfl

/-- An address at a multiple of 4 has no low bits to clear. -/
theorem putBits_aligned {w : Word} (h : w.toNat % 4 = 0) : putBits w 0 2 0 = w := by
  have hlow : w &&& 3 = 0 := by
    refine BitVec.eq_of_toNat_eq ?_
    rw [BitVec.toNat_and]
    exact (Nat.and_two_pow_sub_one_eq_mod w.toNat 2).trans h
  rw [putBits_zero]
  refine BitVec.eq_of_getLsbD_eq fun i hi => ?_
  have hbit : (w.getLsbD i && (3 : Word).getLsbD i) = false := by rw [← BitVec.getLsbD_and, hlow]; exact BitVec.getLsbD_zero
  rw [BitVec.getLsbD_and, BitVec.getLsbD_not, show fieldMask 0 2 = 3 by decide, decide_eq_true hi, Bool.true_and]
  revert hbit
  cases w.getLsbD i <;> cases (3 : Word).getLsbD i <;> decide

/-! ### Halts for the debugger, and their end (R345, R358) -/

theorem Context.queue_of_inFlight {x : Context} (h : x.inFlight = false) :
    ∀ i ∈ x.qv.items ++ x.qm.items, i.phase ≠ .going := by
  simp only [Context.inFlight, Bool.or_eq_false_iff] at h
  obtain ⟨⟨⟨⟨-, h⟩, -⟩, -⟩, -⟩ := h
  intro i hi hg
  have := List.any_eq_false.mp h i (List.mem_append_left _ hi)
  rw [hg] at this
  exact this rfl

section

variable {s : State} {c : CtxLoc}

/-- Nothing in flight: the cut of the V and M words changes nothing. -/
theorem stopV_idle (h : (s.ctxAt c).inFlight = false) (n : Nat) : stopV c n s = s := by
  have hnone : vGoing (s.ctxAt c) = none := by
    unfold vGoing
    split
    · rename_i i r hi
      have hne := Context.queue_of_inFlight h i (by rw [hi]; simp)
      split
      · contradiction
      · rfl
    · rfl
  rw [stopV, hnone]

theorem stopM_idle (h : (s.ctxAt c).inFlight = false) (l : List Nat) : stopM c l s = s := by
  unfold stopM
  rw [List.filter_eq_nil_iff.mpr fun i hi hg => ?_]
  · rfl
  · have hne := Context.queue_of_inFlight h i (List.mem_append_right _ hi)
    split at hg
    · contradiction
    · cases hg

/-- No wait of the context is open: none ends. -/
theorem State.waitsEnd_none (h : (s.ctxAt c).waits = []) (b : BitVec 8) : s.waitsEnd c b = s := by
  have hone : ∀ u, s.waitEnd c u b = s := fun u => by
    unfold State.waitEnd
    rw [h]
    rfl
  exact foldl_keeps (P := fun t => t = s) (fun t u ht => by rw [ht, hone]) rfl

/-- The halt for the debugger of a context with nothing in flight. -/
theorem cut_debug (hinv : s.Inv) {epc : Word} (hh : (s.ctxAt c).halt = some ⟨.debug, epc, none⟩) (hw : (s.ctxAt c).waits = []) :
    s.cut c = { s.setCtx c { (s.ctxAt c).stopL with
        debug := true, halt := none, parked := true, epc := epc, eissue := (s.ctxAt c).pc, emark := 0, marked := none } with
      mgr := { s.mgr with told := s.mgr.told ++ [ckey c] } } := by
  have hwaits : ((s.onCtx c Context.stopL).ctxAt c).waits = [] := by
    rw [State.ctxAt_onCtx_same hinv.others, Context.stopL_loaded]
    exact hw
  have hpc : (s.ctxAt c).stopL.pc = (s.ctxAt c).pc := by
    rw [Context.stopL_loaded]
    rfl
  have hset : (s.onCtx c Context.stopL).onCtx c (fun x => { x with
      debug := true, halt := none, parked := true, epc := epc, eissue := x.pc, emark := 0, marked := none }) =
      s.setCtx c { (s.ctxAt c).stopL with
        debug := true, halt := none, parked := true, epc := epc, eissue := (s.ctxAt c).pc, emark := 0, marked := none } := by
    rw [State.onCtx, State.ctxAt_onCtx_same hinv.others, State.onCtx, State.setCtx_setCtx hinv.others, ← hpc]
  have hmgr : (s.onCtx c Context.stopL).mgr = s.mgr := State.onCtx_mgr ..
  simp only [State.cut, hh, State.waitsEnd_none hwaits, State.debugTaken, hmgr]
  exact congrArg (fun t : State => { t with mgr := { s.mgr with told := s.mgr.told ++ [ckey c] } }) hset

end

/-- Emptying the token queues changes them alone. -/
theorem Context.emptyToks_toks (x : Context) : x.emptyToks = { x with toks := x.emptyToks.toks } := by
  have h : ∀ (l : List Nat) (y : Context), let z := l.foldl (fun x q => { x with toks := tset x.toks q { tget x.toks q {} with toks := [] } {} }) y
      z = { y with toks := z.toks } := by
    intro l
    induction l with
    | nil => exact fun _ => rfl
    | cons q r ih =>
      intro y
      exact ih { y with toks := tset y.toks q { tget y.toks q {} with toks := [] } {} }
  exact h (List.range 16) x

theorem Queue.mem_dropItem {q : Queue} {t : Item → Bool} {i : Item} (h : i ∈ (q.dropItem t).items) : i ∈ q.items := by
  unfold Queue.dropItem at h
  split at h
  · exact h
  · split at h
    · exact List.mem_of_mem_erase h
    · exact List.mem_of_mem_erase h

/-- Where the marked word is discarded, no step is added. -/
theorem Context.discardMarked_noStep {x : Context} (h : x.noStep) : x.discardMarked.noStep := by
  intro i hi
  refine h i ?_
  unfold Context.discardMarked at hi
  dsimp only at hi
  split at hi
  · exact hi
  · rename_i g n _
    have hq : ∀ (y : Context) (t : Item → Bool), y.qm = x.qm → i ∈ (y.setQueue g ((y.queue g).dropItem t)).qm.items → i ∈ x.qm.items := by
      intro y t hy hm
      cases g with
      | m => exact hy ▸ Queue.mem_dropItem hm
      | v | l | e => exact hy ▸ hm
    refine hq _ _ ?_ hi
    exact (apply_ite Context.qm _ _ _).trans (ite_self _)

/-- A resumed context has no more steps than before. -/
theorem Context.resume_noStep {x : Context} (h : x.noStep) : x.resume.noStep := by
  unfold Context.resume
  dsimp only
  split
  · exact h
  · split
    · exact Context.discardMarked_noStep (x := { x with parked := false, debug := false }) h
    · rw [Context.emptyToks_toks]
      exact fun i hi => absurd hi List.not_mem_nil

/-- What a resumed context keeps. -/
theorem Context.resume_fields (x : Context) : x.resume.stat = x.stat ∧ x.resume.debug = false ∧ x.resume.heldPush = x.heldPush ∧
    x.resume.heldReply = x.heldReply ∧ x.resume.heldWait = x.heldWait := by
  unfold Context.resume
  dsimp only
  split
  · exact ⟨rfl, rfl, rfl, rfl, rfl⟩
  · split
    · have hd := Context.discardMarked_sameButQueues { x with parked := false, debug := false }
      rw [Context.sameButQueues] at hd
      rw [hd]
      exact ⟨rfl, rfl, rfl, rfl, rfl⟩
    · rw [Context.emptyToks_toks]
      exact ⟨rfl, rfl, rfl, rfl, rfl⟩

/-- Nothing is held back for a context: nothing is delivered. -/
theorem deliverHeld_plain {s : State} {c : CtxLoc} (hinv : s.Inv) (hp : (s.ctxAt c).heldPush = []) (hr : (s.ctxAt c).heldReply = [])
    (hw : (s.ctxAt c).heldWait = []) : s.deliverHeld c = s := by
  have hsame : ({ s.ctxAt c with heldPush := [], heldReply := [], heldWait := [] } : Context) = s.ctxAt c := by
    revert hp hr hw
    cases s.ctxAt c
    rintro rfl rfl rfl
    rfl
  unfold State.deliverHeld
  simp only [hp, hr, hw, List.foldl_nil, State.onCtx, hsame]
  exact State.setCtx_ctxAt hinv.others c

/-- Nothing is held back for a context: it goes on as it is. -/
theorem goesOn_plain {s : State} {c : CtxLoc} (hinv : s.Inv) (hp : (s.ctxAt c).heldPush = []) (hr : (s.ctxAt c).heldReply = [])
    (hw : (s.ctxAt c).heldWait = []) (hn : (s.ctxAt c).noStep) : s.goesOn c = s := by
  rw [State.goesOn, deliverHeld_plain hinv hp hr hw, checkHead_of_noStep hn]

/-- A context without marked word whose `epc` is its issue point goes on there. -/
theorem Context.resume_here {x : Context} (hm : x.emark = 0) (he : x.epc = x.eissue) (hk : x.marked = none) :
    x.resume = { x with parked := false, debug := false, pc := x.eissue } := by
  have hbit : bitOf x.emark 0 = false := by
    rw [hm]
    decide
  have hd : Context.discardMarked { x with parked := false, debug := false } = { x with parked := false, debug := false } := by
    rw [Context.discardMarked]
    simp only [hk]
  unfold Context.resume
  dsimp only
  rw [if_neg (by simp only [hbit, Bool.false_and, Bool.false_eq_true, not_false_eq_true]), if_pos he, hd, ← hk]

/-- Settles O44. -/
theorem preemptionAndHalts : Obligations.PreemptionAndHalts := by
  unfold Obligations.PreemptionAndHalts
  refine ⟨fun s pcl c r => ?_, fun s p hinv hp _ => ?_, fun s c => ?_, fun s c epc => ?_, fun s c e => ?_⟩
  · intro x hinv hpcl hv hres hpreq htriple hpre ht hr he hf
    let u := s.onClu pcl fun cl => { cl with preempting := some (ckey c) }
    have hany : ((readyHeads (s.cluAt pcl)).any fun r => (s.ctxAt c).eff.toNat < effOf r && (findSeats s pcl r).isNone) = true :=
      List.any_eq_true.mpr ⟨r, hr, by rw [hf, Option.isNone_none, Bool.and_true]; exact decide_eq_true he⟩
    have hpreempt : s.preempt pcl = u.onCtx c Context.request := by
      have htr : (u.ctxAt c).triple = false := htriple
      simp only [State.preempt, hpre, hv, ht, hany, Bool.not_false, Bool.and_self, if_true]
      simp only [State.request]
      exact if_neg (ne_true_of_eq_false htr)
    have hctx : (u.onCtx c Context.request).ctxAt c = x.request := State.ctxAt_onCtx_same (s := u) hinv.others c _
    have hreq : x.request = { x with preq := true, counting := x.ystate != 1 && (match x.drain with | .none | .restoring _ => true | _ => false) } := by
      rw [Context.request, hres, hpreq]
      rfl
    refine ⟨_, (exec_preemptionRequest pcl s).trans (atClu_of_lt hpcl), ?_, ?_, ?_, ?_⟩
    · rw [hpreempt, hctx, hreq]
    · rw [hpreempt, State.cluAt, State.onCtx_clus]
      exact congrArg Cluster.preempting (State.cluAt_onClu_same hinv.clus pcl _)
    · rw [hpreempt, hctx, hreq]
    · rw [hpreempt, hctx]
      exact congrArg Context.counting hreq
  · refine ⟨_, (exec_partitionDrain p s).trans (atPart_of_lt hp), fun c hok hres hpart => ?_⟩
    have hmem : (c, s.ctxAt c) ∈ s.contexts.filter fun e => e.2.resident && e.2.part = p :=
      List.mem_filter.mpr ⟨mem_contexts hok hres, by rw [hres, Bool.true_and]; exact decide_eq_true hpart⟩
    exact foldl_reaches (P := State.holdsStrand c) (Q := fun u => (u.ctxAt c).preq = true) (fun u (e : CtxLoc × Context) hu => request_holds e.1 hu)
      (fun u e hu hq => request_keeps e.1 hu hq) (fun u hu => request_hits hok hu) hmem ⟨hinv, hres⟩
  · intro x hinv hok hres hhalt hdebug hpe hdrain ht hflight hfrozen saving
    have hsave := beginSave_waits hinv hhalt hdebug hres hflight
    refine ⟨fun hpreq hcount hhold => ?_, fun g ph hhold hspin htrap htriple => ?_⟩
    · rw [exec_preemptionDeadline, execPreemptionDeadline, atCtx_of_ok hok]
      refine congrArg Host.Outcome.next ((if_pos ?_).trans (hsave 0x14 true false 0 0 0))
      simp only [show (s.ctxAt c).preq = true from hpreq, show (s.ctxAt c).counting = true from hcount, show (s.ctxAt c).pe = true from hpe,
        show (s.ctxAt c).drain = .none from hdrain, bne_iff_ne.mpr (show (s.ctxAt c).hold ≠ .pool from hhold), hfrozen, ht, Bool.true_or, Bool.not_false,
        Bool.and_self]
    · rw [exec_timeoutSuspension, execTimeoutSuspension, atCtx_of_ok hok]
      have hout : timeoutOf s c = some (x.pc, BitVec.ofNat 32 (2 * 2 ^ 28 + ph.toNat % 2 ^ 20 * 256 + g), 0) := by
        simp only [timeoutOf, holdCause, show (s.ctxAt c).hold = .phase g ph from hhold]
        rfl
      refine congrArg Host.Outcome.next ((if_neg ?_).trans ?_)
      · simp only [show (s.ctxAt c).pe = true from hpe, show (s.ctxAt c).intrap = false from htrap, show (s.ctxAt c).triple = false from htriple,
          show (s.ctxAt c).resident = true from hres, show (s.ctxAt c).drain = .none from hdrain, decide_eq_false (show (s.ctxAt c).evspin ≠ 0xFFFFFFFF from hspin),
          hfrozen, ht, Bool.not_true, Bool.or_self, Bool.false_eq_true, not_false_eq_true]
      · rw [hout]
        exact hsave 0 false true _ _ 0
  · intro x hinv hok hhalt hflight hwaits ht hfrozen
    rw [exec_stopRecordCut, execStopRecordCut, atCtx_of_ok hok]
    have hguard : ¬ ((s.ctxAt c).halt.isNone || s.mgr.tripped || s.frozen c.pcl c.sub) = true := by
      rw [show (s.ctxAt c).halt = _ from hhalt, ht, hfrozen]
      exact Bool.false_ne_true
    refine congrArg Host.Outcome.next ((if_neg hguard).trans ?_)
    rw [stopV_idle hflight, stopM_idle hflight, State.settle, if_neg (ne_true_of_eq_false hflight)]
    exact cut_debug hinv hhalt hwaits
  · intro x hinv hok hdebug hres hp hr hw hn
    let y0 : Context := { x with epc := (e.map fun v => putBits v 0 2 0).getD x.epc }
    let y : Context := { y0.resume with parked := x.intrap }
    obtain ⟨hstat, hdeb, hpush, hreply, hwait⟩ := y0.resume_fields
    have hguard : ((s.ctxAt c).debug && (s.ctxAt c).resident) = true := Bool.and_eq_true_iff.mpr ⟨hdebug, hres⟩
    have hctx : (s.setCtx c y).ctxAt c = y := State.ctxAt_setCtx_same hinv.others c y
    have hgo : (s.setCtx c y).goesOn c = s.setCtx c y := goesOn_plain (State.setCtx_inv hinv) (by rw [hctx]; exact hpush.trans hp)
      (by rw [hctx]; exact hreply.trans hr) (by rw [hctx]; exact hwait.trans hw) (by rw [hctx]; exact Context.resume_noStep (x := y0) hn)
    refine ⟨y, ?_, hstat, hdeb, rfl, fun hm he ha hk => ?_⟩
    · rw [exec_debugResume, execDebugResume, atCtx_of_ok hok]
      exact congrArg Host.Outcome.next ((if_pos hguard).trans hgo)
    · have hepc : y0.epc = x.eissue := by
        have halign : putBits x.eissue 0 2 0 = x.eissue := putBits_aligned ha
        show (e.map fun v => putBits v 0 2 0).getD x.epc = x.eissue
        rw [he, Option.map_some, Option.getD_some, halign]
      have hy : y0.resume = { y0 with parked := false, debug := false, pc := x.eissue } := Context.resume_here hm hepc hk
      have hpc := congrArg Context.pc hy
      have htoks := congrArg Context.toks hy
      have hqv := congrArg Context.qv hy
      exact ⟨hpc, htoks, hqv⟩

end Sys2Proof.Machine
end
section
namespace Sys2Proof.Machine

/-! ### Reads and writes of one line (R185) -/

theorem vread_sameWays {s t : State} (h : s.sameWays t) (pcl p : Nat) (l : List (Nat × Nat)) : vread t pcl p l = vread s pcl p l := by
  have htr := translate_sameWays h
  obtain ⟨hmem, hpoison, hfailing, -, -⟩ := h
  induction l with
  | nil => rfl
  | cons e r ih => simp only [vread, htr, hmem, hpoison, hfailing, ih]

theorem vbytes_sameWays {s t : State} (h : s.sameWays t) (pcl p va n : Nat) : vbytes t pcl p va n = vbytes s pcl p va n := vread_sameWays h ..

/-- The bytes of a line are one read. -/
theorem pieces_line {va : Nat} (h : va % 64 = 0) : pieces (64 / 64 + 2) va 64 = [(va, 64)] := by
  simp [pieces, h]

theorem length_vbytes_line {s : State} {pcl p va : Nat} {bs : List Byte} (h : va % 64 = 0) (hv : vbytes s pcl p va 64 = .ok bs) : bs.length = 64 := by
  rw [vbytes, pieces_line h] at hv
  simp only [vread] at hv
  split at hv
  · cases hv
  · split at hv
    · cases hv
    · split at hv
      · cases hv
      · cases hv
        rw [List.append_nil, loadBytes_eq_map, List.length_map, List.length_range]

theorem length_patch {bs new : List Byte} {off : Nat} (h : off + new.length ≤ bs.length) : (patch bs off new).length = bs.length := by
  simp only [patch, List.length_append, List.length_take, List.length_drop]
  omega

theorem length_seatedBytes {bs : List Byte} (h : bs.length = 64) : (seatedBytes bs).length = 64 := by
  have h1 : (patch bs 0x0F (toLE 1 4)).length = 64 := (length_patch (by rw [toLE_length]; omega)).trans h
  unfold seatedBytes
  dsimp only
  split
  · exact (length_patch (by rw [toLE_length]; omega)).trans h1
  · exact h1

/-- A line of bytes is one write. -/
theorem lines_line {va : Nat} {bs : List Byte} (h : va % 64 = 0) (hl : bs.length = 64) : lines (bs.length / 64 + 2) va bs = [(va, bs)] := by
  have hne : bs.isEmpty = false := by
    cases bs with
    | nil => cases hl
    | cons b r => rfl
  have hdrop : (bs.drop 64).isEmpty = true := by rw [List.drop_of_length_le (by omega)]; rfl
  rw [hl]
  simp only [lines, hne, h, hdrop, Nat.sub_zero, Bool.false_eq_true, if_false, if_true, List.take_of_length_le (show bs.length ≤ 64 by omega)]

/-- A hardware write of a mapped line. -/
theorem vstore_line {s : State} {pcl p va pa : Nat} {bs : List Byte} (h : va % 64 = 0) (hl : bs.length = 64) (ht : translate s pcl p va .store = .ok pa)
    (hf : pa / 64 ∉ s.failing) (o : Stamp) : s.vstore pcl p o va bs = (s.hwWrite o pa bs false, none) := by
  have hf' : s.failing.contains (pa / 64) = false := by simpa using hf
  rw [State.vstore, lines_line h hl]
  simp only [State.vwrite, ht, hf', Bool.false_eq_true, if_false]

/-! ### Dispatch (R33, R185, R190) -/

theorem exec_dispatch (pcl : Nat) (s : State) : exec (.dispatch pcl) s = execDispatch pcl s := rfl

/-- The context that a record without restore gives its strand, as the seat takes it. -/
def seatedContext (s : State) (seat : Seat) (r : Ready) (l : Launch) (bs : List Byte) : Context :=
  let x := freshContext s (s.ctxAt seat.c) seat r l r.addr bs
  if fieldAt bs 0x0F 1 = 0 then x else { x with pc := alignPc (wordAt bs 0) }

section

variable {s : State} {seat : Seat} {r : Ready} {l : Launch} {bs : List Byte} {pa : Nat}

theorem expiryTrap_none (c : CtxLoc) : s.expiryTrap c 0 = s := if_neg (by decide)

/-- A strand in state NEW without image, or RESUMABLE without a register to write, takes its seat. -/
theorem seatStrand_plain (hcause : fieldAt bs 0x24 4 = 0) (u : State)
    (hst : fieldAt bs 0x0F 1 = 0 ∧ l.imageN = 0 ∨ fieldAt bs 0x0F 1 = 2 ∧ r.rd = none) :
    u.seatStrand seat.c r l (freshContext s (s.ctxAt seat.c) seat r l r.addr bs) bs = u.setCtx seat.c (seatedContext s seat r l bs) := by
  unfold State.seatStrand seatedContext
  rcases hst with ⟨h0, himage⟩ | ⟨h2, hrd⟩
  · simp only [h0, himage, copyImage, hcause, expiryTrap_none, if_true]
  · simp only [h2, hrd, hcause, expiryTrap_none]
    rfl

/-- The record of the head is read, written RESIDENT, and its strand takes its seat. -/
theorem seatRecord_plain (hunmade : r.strand ∉ l.unmade) (htriple : l.triple = false) (ha : r.addr.toNat % 64 = 0)
    (hv : vbytes s seat.c.pcl r.part r.addr.toNat 64 = .ok bs) (ht : translate s seat.c.pcl r.part r.addr.toNat .store = .ok pa)
    (hf : pa / 64 ∉ s.failing) (hbad : recordBad bs = false) (hcause : fieldAt bs 0x24 4 = 0)
    (hst : fieldAt bs 0x0F 1 = 0 ∧ l.imageN = 0 ∨ fieldAt bs 0x0F 1 = 2 ∧ r.rd = none) :
    s.seatRecord r l seat r.addr r.strand = ((s.hwWrite {} pa (seatedBytes bs) false).setCtx seat.c (seatedContext s seat r l bs), true) := by
  have hun : l.unmade.contains r.strand = false := by simpa using hunmade
  have hstore := vstore_line ha (length_seatedBytes (length_vbytes_line ha hv)) ht hf {}
  simp only [State.seatRecord, hun, hv, htriple, hbad, hstore, Bool.false_and, Bool.false_eq_true, if_false, seatStrand_plain hcause _ hst]

/-- What the seated strand has. -/
theorem seatedContext_fields (hbad : recordBad bs = false) : let y := seatedContext s seat r l bs
    y.resident = true ∧ y.part = r.part ∧ y.launchid = BitVec.ofNat 16 r.launch ∧ y.strandid = BitVec.ofNat 24 (fieldAt bs 0x08 4) ∧
    y.pc = alignPc (if fieldAt bs 0x0F 1 = 0 then l.entry else BitVec.ofNat 64 (fieldAt bs 0 8)) ∧ y.wbase = seat.base ∧ y.wsize = seat.size ∧
    y.slots = seat.slots ∧ y.stat = BitVec.ofNat 64 (4 + fieldAt bs 0x0E 1 * 256) ∧ y.savearea = BitVec.ofNat 64 (fieldAt bs 0x10 8) &&& 0xFFFFFFFFFF00 ∧
    y.vshape = 0xFFF ∧ y.toks = [] ∧ y.qv.items = [] ∧ (fieldAt bs 0x0F 1 = 0 → y.rg 1 = BitVec.ofNat 64 (fieldAt bs 0x28 8)) := by
  intro y
  have hprio : fieldAt bs 0x0E 1 % 8 = fieldAt bs 0x0E 1 := by
    refine Nat.mod_eq_of_lt (Nat.lt_of_not_le fun h8 => ?_)
    simp only [recordBad, decide_eq_true h8, Bool.or_true, Bool.true_or, reduceCtorEq] at hbad
  have hsave : putBits (putBits (wordAt bs 0x10) 0 8 0) 48 16 0 = wordAt bs 0x10 &&& 0xFFFFFFFFFF00 := by
    rw [putBits_zero, putBits_zero, BitVec.and_assoc]
    exact congrArg (wordAt bs 0x10 &&& ·) (by decide)
  have hstat : BitVec.ofNat 64 (4 + fieldAt bs 0x0E 1 % 8 * 256) = BitVec.ofNat 64 (4 + fieldAt bs 0x0E 1 * 256) := by rw [hprio]
  have hy : y = { freshContext s (s.ctxAt seat.c) seat r l r.addr bs with
      pc := alignPc (if fieldAt bs 0x0F 1 = 0 then l.entry else BitVec.ofNat 64 (fieldAt bs 0 8)) } := by
    unfold y seatedContext
    by_cases h : fieldAt bs 0x0F 1 = 0
    · simp only [if_pos h]
      rfl
    · simp only [if_neg h]
      rfl
  have hs1 : (freshContext s (s.ctxAt seat.c) seat r l r.addr bs).rg 1 = wordAt bs 0x28 := by
    have hwf : ∀ (t : Tbl Word) k v, twf t 0 = true → twf (tset t k v 0) 0 = true := fun _ _ _ h => twf_tset h
    show tget (tset (tset (tset [] 1 (wordAt bs 0x28) 0) 2 (wordAt bs 0x30) 0) 3 (wordAt bs 0x38) 0) 1 0 = wordAt bs 0x28
    rw [tget_tset_other (by decide), tget_tset_other (by decide), tget_tset_wf rfl]
  rw [hy]
  exact ⟨rfl, rfl, rfl, rfl, rfl, rfl, rfl, rfl, hstat, hsave, rfl, rfl, rfl, fun _ => hs1⟩

end

/-- The dispatch of the best head whose one seat is given. -/
theorem dispatch_plain {s : State} {pcl : Nat} {seat : Seat} {r : Ready} {l : Launch} {bs : List Byte} {pa : Nat} (hinv : s.Inv)
    (hpcl : seat.c.pcl = pcl) (hbest : bestHead s pcl = some (r, [seat])) (htrip : s.mgr.tripped = false) (hstage : s.mgr.stage = 6)
    (hcap : (s.partAt r.part).capture = {}) (hl : tfind (s.partAt r.part).launches r.launch = some l) (hunmade : r.strand ∉ l.unmade) (htriple : l.triple = false)
    (ha : r.addr.toNat % 64 = 0) (hv : vbytes s pcl r.part r.addr.toNat 64 = .ok bs) (ht : translate s pcl r.part r.addr.toNat .store = .ok pa)
    (hf : pa / 64 ∉ s.failing) (hbad : recordBad bs = false) (hcause : fieldAt bs 0x24 4 = 0)
    (hst : fieldAt bs 0x0F 1 = 0 ∧ l.imageN = 0 ∨ fieldAt bs 0x0F 1 = 2 ∧ r.rd = none) :
    ((s.dispatch pcl).cluAt pcl).dispatches = (s.cluAt pcl).dispatches + 1 ∧ (s.dispatch pcl).mem = storeBytes s.mem pa (seatedBytes bs) ∧
    ∃ u, (s.dispatch pcl).ctxAt seat.c = seatedContext u seat r l bs := by
  let e := s.onClu pcl fun cl => { cl with ready := cl.ready.erase r }
  let u := e.sampleNat pcl 0x0A (e.cluAt pcl).ready.length
  have heinv : e.Inv := State.onClu_inv hinv
  have huinv : u.Inv := State.sampleNat_inv heinv
  have hways : s.sameWays u := ⟨rfl, rfl, rfl, rfl, rfl⟩
  have hclu : (u.cluAt pcl).dispatches = (s.cluAt pcl).dispatches := by
    have h1 := congrArg Cluster.dispatches (State.cluAt_onClu_same heinv.clus pcl fun cl => { cl with
      mons := cl.mons.map fun m => if bitOf m.2.cfg 0 && bitsOf m.2.cfg 48 8 = 0x0A then
        (m.1, monSample m.2 (BitVec.ofNat 32 (min (e.cluAt pcl).ready.length (2 ^ 32 - 1)))) else m })
    have h2 := congrArg Cluster.dispatches (State.cluAt_onClu_same hinv.clus pcl fun cl => { cl with ready := cl.ready.erase r })
    exact h1.trans h2
  have hmay : s.mayAct r.part capDispatch pcl (r.launch * 2 ^ 24 + r.strand) = true := by rw [State.mayAct, hcap]
  have hseat := seatRecord_plain (s := u) hunmade htriple ha (by rw [hpcl, vbytes_sameWays hways]; exact hv)
    (by rw [hpcl, translate_sameWays hways]; exact ht) hf hbad hcause hst
  let v := (u.hwWrite {} pa (seatedBytes bs) false).setCtx seat.c (seatedContext u seat r l bs)
  have hvinv : v.Inv := State.setCtx_inv (State.hwWrite_inv huinv)
  have hdispatch : s.dispatch pcl = v.onClu pcl Cluster.dispatched := by
    have hguard : ¬ (s.mgr.tripped || s.mgr.stage != 6 || !s.mayAct r.part capDispatch pcl (r.launch * 2 ^ 24 + r.strand)) = true := by
      rw [htrip, hstage, hmay]
      decide
    unfold State.dispatch
    simp only [hbest]
    rw [if_neg hguard, State.acted_idle hcap]
    have hl' : tfind (u.partAt r.part).launches r.launch = some l := hl
    have hzero : r.addr + BitVec.ofNat 64 (64 * 0) = r.addr := by simp
    have hall : State.seatAll r l [(seat, 0)] (u, false) = (v, true) := by
      rw [State.seatAll, hzero, Nat.add_zero, hseat]
      rfl
    change (match tfind (u.partAt r.part).launches r.launch with
      | none => u
      | some l => match State.seatAll r l [(seat, 0)] (u, false) with
        | (s, did) => if did = true then s.onClu pcl Cluster.dispatched else s) = _
    rw [hl']
    simp only [hall, if_true]
  have hvclu : v.cluAt pcl = u.cluAt pcl := congrArg (fun t => tget t pcl ({} : Cluster)) (State.setCtx_clus ..)
  rw [hdispatch]
  refine ⟨?_, State.setCtx_mem .., u, State.ctxAt_setCtx_same (State.hwWrite_inv huinv).others seat.c _⟩
  rw [State.cluAt_onClu_same hvinv.clus, hvclu]
  exact congrArg (· + 1) hclu

/-! ### The seat in an empty sub-core (R188, R190) -/

/-- The lowest slots of a sub-core where none is taken. -/
theorem lowest_slots {n : Nat} (h : 1 ≤ n) (h8 : n ≤ 8) :
    (((List.range 8).filter fun k => !(0 : BitVec 8).getLsbD k).take n).foldl (fun m k => m ||| BitVec.ofNat 8 (2 ^ k)) 0 = BitVec.ofNat 8 (2 ^ n - 1) := by
  interval_cases n <;> decide

/-- The one ready record of a cluster is the oldest of its priority. -/
theorem readyHeads_one {cl : Cluster} {r : Ready} (h : cl.ready = [r]) : readyHeads cl = [r] := by
  have hone : ∀ p, oldest (cl.ready.filter fun q => q.prio.toNat = p) = if r.prio.toNat = p then some r else none := fun p => by
    rw [h]
    by_cases hp : r.prio.toNat = p
    · simp only [List.filter_cons, List.filter_nil, hp, decide_true, if_true]
      rfl
    · simp only [List.filter_cons, List.filter_nil, hp, decide_false, Bool.false_eq_true, if_false]
      rfl
  have hlt : r.prio.toNat < 8 := r.prio.isLt
  unfold readyHeads
  rw [List.filterMap_congr fun p _ => hone p]
  generalize r.prio.toNat = p at hlt
  interval_cases p <;> rfl

section

variable {s : State} {pcl : Nat}

/-- A sub-core whose three contexts hold no strand and no engine-owned granule. -/
def State.emptySub (s : State) (pcl sub : Nat) : Prop :=
  ∀ k < 3, (s.ctxAt ⟨pcl, sub, k⟩).resident = false ∧ (s.ctxAt ⟨pcl, sub, k⟩).win.any (fun e => e.2.owner) = false

theorem isIdle_of_empty (h : s.emptySub pcl 0) {k : Nat} (hk : k < 3) : isIdle (s.ctxAt ⟨pcl, 0, k⟩) = true := by
  obtain ⟨hr, hw⟩ := h k hk
  rw [isIdle, hr, hw]
  rfl

theorem range_three : List.range 3 = [0, 1, 2] := rfl

theorem groupsUsed_empty (h : s.emptySub pcl 0) : groupsUsed s pcl 0 = [] := by
  have hring : ringGroup s pcl 0 = none := by
    simp only [ringGroup, range_three, List.findSome?_cons, List.findSome?_nil, (h 0 (by decide)).1, (h 1 (by decide)).1, (h 2 (by decide)).1,
      Bool.false_and, Bool.false_eq_true, if_false]
  simp only [groupsUsed, hring, range_three, List.flatMap_cons, List.flatMap_nil, isIdle_of_empty h (show 0 < 3 by decide),
    isIdle_of_empty h (show 1 < 3 by decide), isIdle_of_empty h (show 2 < 3 by decide), if_true]
  rfl

theorem lowSlots_empty (h : s.emptySub pcl 0) {n : Nat} (h1 : 1 ≤ n) (h8 : n ≤ 8) : lowSlots s pcl 0 n = some (BitVec.ofNat 8 (2 ^ n - 1)) := by
  have hfree : ¬ ((List.range 8).filter fun k => !(0 : BitVec 8).getLsbD k).length < n := Nat.not_lt.mpr (le_trans h8 (by decide))
  simp only [lowSlots, range_three, List.foldl_cons, List.foldl_nil, (h 0 (by decide)).1, (h 1 (by decide)).1, (h 2 (by decide)).1, Bool.false_eq_true, if_false]
  rw [if_neg hfree, lowest_slots h1 h8]

theorem freeBase_empty {w : Nat} (h : w ≤ 8) : freeBase [] w = some 0 := by
  unfold freeBase
  obtain ⟨n, hn⟩ : ∃ n, 9 - w = n + 1 := ⟨8 - w, by omega⟩
  rw [hn, List.range_succ_eq_map, List.find?_cons_of_pos (by simp)]

/-- The first context of an empty first sub-core is the seat. -/
theorem seatPlain_empty (h : s.emptySub pcl 0) {w n : Nat} (hw : w ≤ 8) (h1 : 1 ≤ n) (h8 : n ≤ 8) :
    seatPlain s pcl w n 0 = some [⟨⟨pcl, 0, 0⟩, 0, 48 * w, BitVec.ofNat 8 (2 ^ n - 1)⟩] := by
  have hfirst : ((List.range 3).find? fun k => isIdle (s.ctxAt ⟨pcl, 0, k⟩)) = some 0 := by
    simp only [range_three, List.find?_cons, isIdle_of_empty h (show 0 < 3 by decide)]
  simp only [seatPlain, hfirst, groupsUsed_empty h, freeBase_empty hw, lowSlots_empty h h1 h8, Nat.mul_zero]

/-- The one ready record of a cluster whose first sub-core is empty goes to its first context. -/
theorem bestHead_empty {r : Ready} {l : Launch} {bs : List Byte} (hr : (s.cluAt pcl).ready = [r]) (h : s.emptySub pcl 0)
    (hl : tfind (s.partAt r.part).launches r.launch = some l) (htriple : l.triple = false) (hv : vbytes s pcl r.part r.addr.toNat 64 = .ok bs)
    (hst : fieldAt bs 0x0F 1 ≠ 3) (hu8 : l.units ≤ 8) (h1 : 1 ≤ l.slots) (h8 : l.slots ≤ 8) :
    bestHead s pcl = some (r, [⟨⟨pcl, 0, 0⟩, 0, 48 * l.units, BitVec.ofNat 8 (2 ^ l.slots - 1)⟩]) := by
  have hslots : slotsNeeded s pcl r.part r.addr l.slots = l.slots := by
    simp only [slotsNeeded, hv, bne_iff_ne.mpr hst, if_true]
  have hseats : findSeats s pcl r = some [⟨⟨pcl, 0, 0⟩, 0, 48 * l.units, BitVec.ofNat 8 (2 ^ l.slots - 1)⟩] := by
    have hrange : List.range 128 = 0 :: (List.range 127).map Nat.succ := List.range_succ_eq_map
    simp only [findSeats, hl, htriple, Bool.false_eq_true, if_false, hslots, hrange, List.findSome?_cons, seatPlain_empty h hu8 h1 h8]
  simp only [bestHead, readyHeads_one hr, List.filterMap_cons, List.filterMap_nil, hseats, Option.map_some, List.foldl_cons, List.foldl_nil]

end

/-! ### Balancing and migration (R192) -/

theorem exec_balancingPeriod (s : State) : exec .balancingPeriod s = execBalancingPeriod s := rfl
theorem exec_migrationCommand (k : Nat) (s : State) : exec (.migrationCommand k) s = execMigrationCommand k s := rfl

theorem most_mem {f : Nat → Nat} : ∀ {l : List Nat} {a : Nat}, most f l = some a → a ∈ l
  | [], _, h => by cases h
  | c :: r, a, h => by
    unfold most at h
    split at h
    · cases h
      exact List.mem_cons_self
    · rename_i d hd
      split at h
      · cases h
        exact List.mem_cons_of_mem _ (most_mem hd)
      · cases h
        exact List.mem_cons_self

/-- What a migration moves, and where. -/
theorem migration_spec {s : State} {p : Nat} {m : Nat × Nat × Nat} (h : migration s p = some m) :
    idleCount s m.1 = 0 ∧ 1 ≤ m.2.2 ∧ m.2.2 ≤ 64 ∧ m.2.2 ≤ idleCount s m.2.1 := by
  unfold migration at h
  dsimp only at h
  split at h
  · rename_i a b ha hb
    split at h
    · cases h
    · cases h
      rename_i hn
      have hidle := of_decide_eq_true (List.mem_filter.mp (most_mem ha)).2
      exact ⟨hidle, Nat.one_le_iff_ne_zero.mpr hn, min_le_right .., (min_le_left ..).trans (min_le_right ..)⟩
  · cases h

/-- A balancing period commands the migrations that the partitions need. -/
theorem balancing_commands {s : State} (ht : s.mgr.tripped = false) (l : List Nat) (hcap : ∀ p ∈ l, (s.partAt p).capture = {}) : ∀ ms,
    l.foldl (fun t p => match migration s p with
      | none => t
      | some m =>
        let code := (m.1 * 40 + m.2.1) * 128 + m.2.2
        if t.mgr.tripped || !t.mayAct p capBalance p code then t
        else { t.acted p capBalance p code with migrations := t.migrations ++ [m] }) { s with migrations := ms } =
      { s with migrations := ms ++ l.filterMap (migration s) } := by
  induction l with
  | nil => exact fun ms => by rw [List.filterMap_nil, List.append_nil]; rfl
  | cons p r ih =>
    intro ms
    have ihr := ih fun q hq => hcap q (List.mem_cons_of_mem p hq)
    have hp := hcap p List.mem_cons_self
    rw [List.foldl_cons, List.filterMap_cons]
    cases hm : migration s p with
    | none => exact ihr ms
    | some m =>
      have hmay : State.mayAct { s with migrations := ms } p capBalance p ((m.1 * 40 + m.2.1) * 128 + m.2.2) = true := by
        rw [State.mayAct, show (State.partAt { s with migrations := ms } p).capture = {} from hp]
      have hact : State.acted { s with migrations := ms } p capBalance p ((m.1 * 40 + m.2.1) * 128 + m.2.2) = { s with migrations := ms } :=
        State.acted_idle (s := { s with migrations := ms }) hp _ _ _
      simp only [ht, hmay, hact, Bool.not_true, Bool.or_self, Bool.false_eq_true, if_false]
      rw [ihr (ms ++ [m]), List.append_assoc]
      rfl

/-- A command moves the oldest ready records. -/
theorem migrationCommand_moves {s : State} (hinv : s.Inv) {k : Nat} {m : Nat × Nat × Nat} (hk : s.migrations[k]? = some m) (hne : m.1 ≠ m.2.1) :
    ∃ t, exec (.migrationCommand k) s = .next t ∧ t.migrations = s.migrations.erase m ∧
      (t.cluAt m.1).ready = (s.cluAt m.1).ready.filter (fun r => !(oldestN m.2.2 (s.cluAt m.1).ready).contains r) ∧
      (t.cluAt m.2.1).ready = (s.cluAt m.2.1).ready ++ oldestN m.2.2 (s.cluAt m.1).ready := by
  let moved := oldestN m.2.2 (s.cluAt m.1).ready
  let u : State := { s with migrations := s.migrations.erase m }
  let v := u.onClu m.1 fun cl => { cl with ready := cl.ready.filter fun r => !moved.contains r }
  have hv : v.Inv := State.onClu_inv (State.inv_with hinv)
  refine ⟨v.onClu m.2.1 fun cl => { cl with ready := cl.ready ++ moved }, ?_, rfl, ?_, ?_⟩
  · rw [exec_migrationCommand, execMigrationCommand, hk]
  · rw [State.cluAt_onClu_other hne]
    have h := congrArg Cluster.ready (State.cluAt_onClu_same (s := u) hinv.clus m.1 fun cl => { cl with ready := cl.ready.filter fun r => !moved.contains r })
    exact h
  · have h := congrArg Cluster.ready (State.cluAt_onClu_same hv.clus m.2.1 fun cl => { cl with ready := cl.ready ++ moved })
    have ho : v.cluAt m.2.1 = s.cluAt m.2.1 := State.cluAt_onClu_other (s := u) hne.symm _
    rw [ho] at h
    exact h

/-! ### The hardware save (R353) -/

theorem exec_hardwareSave (c : CtxLoc) (s : State) : exec (.hardwareSave c) s = execHardwareSave c s := rfl
theorem exec_hardwareRestore (c : CtxLoc) (s : State) : exec (.hardwareRestore c) s = execHardwareRestore c s := rfl

section

variable {s : State} {c : CtxLoc}

/-- A strand that no barrier holds and no expiry awaits is saved ready. -/
theorem backSaved_ready {v : State} {forced : Bool} {pc : Word} (hh : (s.ctxAt c).hold = .none) (he : (s.partAt (s.ctxAt c).part).expiries = [])
    (hw : s.writeRecord c pc 3 (if forced then 48 else 16) 0 0 = (v, true)) (cause : BitVec 32) (thr : BitVec 32) :
    s.backSaved c forced false cause pc thr = (v.idleCtx c).enterReady c.pcl (s.ctxAt c).part (s.ctxAt c).launchid.toNat
      (s.ctxAt c).strandid.toNat (s.ctxAt c).recaddr (s.ctxAt c).base none := by
  have hcause : holdCause (s.ctxAt c) = 0 := by rw [holdCause, hh]
  have hrec : s.savedRecord c forced pc = (v, true) := by
    simp only [State.savedRecord, hcause, if_true, takeExpiry_none he]
    exact hw
  simp only [State.backSaved, hrec, Bool.false_and, Bool.false_eq_true, if_false, if_true]

/-- The save of a strand whose cut is made. -/
theorem hardwareSave_saving {u : State} {reason : BitVec 8} {forced : Bool} {cause : BitVec 32} {pc : Word} {thr : BitVec 32} (hinv : s.Inv)
    (hd : (s.ctxAt c).drain = .saving reason forced false cause pc thr) (htriple : (s.ctxAt c).triple = false) (hp : (s.ctxAt c).heldPush = [])
    (hr : (s.ctxAt c).heldReply = []) (hwt : (s.ctxAt c).heldWait = []) (hsave : s.canSave c = true) (hback : s.canWriteBack c = true)
    (hw : s.writeSave c reason (s.ctxAt c).pc = (u, none)) : s.hardwareSave c = u.backSaved c forced false cause (s.ctxAt c).pc thr := by
  unfold State.hardwareSave
  simp only [hd, deliverHeld_plain hinv hp hr hwt, hsave, hback, hw, htriple, Bool.not_true, Bool.or_self, Bool.false_eq_true, if_false]

/-- A save whose writes are applied. -/
theorem hardwareSave_saved {forced : Bool} {cause : BitVec 32} {pc : Word} {thr : BitVec 32} (hd : (s.ctxAt c).drain = .saved forced false cause pc thr)
    (htriple : (s.ctxAt c).triple = false) (ht : s.mgr.tripped = false) (hs : s.settled c.pcl) :
    s.hardwareSave c = s.backSaved c forced false cause pc thr := by
  have hout : s.savesOut c = false := by rw [State.savesOut, hs.1, List.any_nil]
  unfold State.hardwareSave
  simp only [hd, htriple, hout, canWriteBack_settled hs, ht, Bool.not_true, Bool.or_self, Bool.false_eq_true, if_false]

/-! ### The hardware restore (R355) -/

/-- A restored context with what its area had poisoned: `bad o n` says whether the `n` bytes at `o` are. -/
def Context.taint (y : Context) (size : Nat) (bad : Nat → Nat → Bool) : Context :=
  let y := ((List.range size).filter fun g => bad (0x8000 + 256 * g) 256).foldl (fun y g => y.setGran g { y.gran g with poison := true }) y
  let y := { y with mbad := (List.range 8).foldl (fun m k => if k != 0 && bad (0x400 + 256 * k) 256 then putAt m k 1 1 else m) 0 }
  ((List.range 8).filter fun k => bad (0x4800 + 1024 * k) 1024).foldl (fun y k => y.setBank k { y.bank k with bad := true }) y

/-- A restored context logs the wait that its front end goes on with. -/
def Context.waitsOn (y : Context) (hold : Hold) : Context :=
  match hold with
  | .phase g _ => y.waitMark 4 wGroup (BitVec.ofNat 64 g)
  | .pool => y.waitMark 4 wPool 0
  | .arriving => y.waitMark 4 wGroup (y.ql.barPoint.elim 0 fun k => BitVec.ofNat 64 (getAt y.grp (8 * k.toNat) 8))
  | _ => y

/-- Whether a read of the area of a strand brings poison. -/
def areaSpoiled (s : State) (c : CtxLoc) (o n : Nat) : Bool :=
  match vget s c.pcl (s.ctxAt c).part ((s.ctxAt c).savearea.toNat + o) n with
  | .ok (_, b) => b
  | .error _ => false

/-- A context that has the registers and the matrix queue of another. -/
def Context.sameRegs (x y : Context) : Prop := y.pc = x.pc ∧ y.regs = x.regs ∧ y.qm = x.qm

theorem Context.sameRegs_waitMark (y : Context) (u : Nat) (k : BitVec 8) (o : Word) : y.sameRegs (y.waitMark u k o) := by
  unfold Context.waitMark
  split
  · exact ⟨rfl, rfl, rfl⟩
  · exact ⟨rfl, rfl, rfl⟩

theorem Context.sameRegs_trans {x y z : Context} (h : x.sameRegs y) (g : y.sameRegs z) : x.sameRegs z :=
  ⟨g.1.trans h.1, g.2.1.trans h.2.1, g.2.2.trans h.2.2⟩

theorem Context.sameRegs_observe (y : Context) (o : Stamp) : y.sameRegs (y.observe o) := ⟨rfl, rfl, rfl⟩

theorem Context.sameRegs_waitsOn (y : Context) (hold : Hold) : y.sameRegs (y.waitsOn hold) := by
  cases hold with
  | phase | pool | arriving => exact Context.sameRegs_waitMark ..
  | none | command => exact ⟨rfl, rfl, rfl⟩

theorem Context.sameRegs_taint (y : Context) (size : Nat) (bad : Nat → Nat → Bool) : y.sameRegs (y.taint size bad) := by
  have hgrans : ∀ l : List Nat, y.sameRegs (l.foldl (fun y g => y.setGran g { y.gran g with poison := true }) y) := fun l =>
    foldl_keeps (P := y.sameRegs) (fun z g hz => Context.sameRegs_trans (z := z.setGran g { z.gran g with poison := true }) hz ⟨rfl, rfl, rfl⟩)
      ⟨rfl, rfl, rfl⟩
  exact foldl_keeps (P := y.sameRegs) (fun z k hz => Context.sameRegs_trans (z := z.setBank k { z.bank k with bad := true }) hz ⟨rfl, rfl, rfl⟩) (hgrans _)

/-- Nothing is poisoned: the masks alone are marked so. -/
theorem Context.taint_none (y : Context) (size : Nat) : y.taint size (fun _ _ => false) = { y with mbad := 0 } := by
  have hmbad : ∀ l : List Nat, l.foldl (fun (m : BitVec 8) _ => m) 0 = 0 := fun l => foldl_keeps (P := fun m : BitVec 8 => m = 0) (fun _ _ h => h) rfl
  simp only [Context.taint, List.filter_false, List.foldl_nil, Bool.and_false, Bool.false_eq_true, if_false, hmbad]

/-- An area that is accepted is put into the context, with the wait that its cause goes on with. -/
theorem hardwareRestore_eq {bs : List Byte} {b : Bool} {cause : BitVec 32} (hd : (s.ctxAt c).drain = .restoring cause)
    (hcause : cause.toNat / 2 ^ 28 ≠ 4) (ht : s.mgr.tripped = false) (hdebug : (s.ctxAt c).debug = false)
    (hv : vget s c.pcl (s.ctxAt c).part (s.ctxAt c).savearea.toNat (0x8000 + 256 * (s.ctxAt c).wsize) = .ok (bs, b))
    (hok : areaOk (s.ctxAt c) bs = true) :
    let y := (readArea (s.ctxAt c) bs s.free).taint (s.ctxAt c).wsize (areaSpoiled s c)
    ∃ (hold : Hold) (z : Context), (z = y ∨ ∃ o, z = y.observe o) ∧ (bitsOf (cause.setWidth 64) 28 4 = 0 → hold = y.hold ∧ z = y) ∧
      s.hardwareRestore c = checkHead c { s.setCtx c
        { z.waitsOn hold with drain := .none, counting := (z.waitsOn hold).counting && (z.waitsOn hold).ystate != 1, hold := hold } with
        free := s.free + 16 } := by
  have hexp : ∀ u : State, u.expiryTrap c cause.toNat = u := fun u => if_neg hcause
  unfold State.hardwareRestore
  simp only [hd, ht, hdebug, hv, hok, hexp, Bool.not_true, Bool.or_self, Bool.false_eq_true, if_false]
  refine ⟨_, _, ?_, ?_, rfl⟩
  · split
    · exact .inr ⟨_, rfl⟩
    · exact .inl rfl
  · intro hkind
    rw [hkind]
    exact ⟨rfl, rfl⟩

/-- An area that is accepted gives the context its registers and queues. -/
theorem hardwareRestore_puts {bs : List Byte} {b : Bool} {cause : BitVec 32} (hd : (s.ctxAt c).drain = .restoring cause)
    (hcause : cause.toNat / 2 ^ 28 ≠ 4) (ht : s.mgr.tripped = false) (hdebug : (s.ctxAt c).debug = false)
    (hv : vget s c.pcl (s.ctxAt c).part (s.ctxAt c).savearea.toNat (0x8000 + 256 * (s.ctxAt c).wsize) = .ok (bs, b))
    (hok : areaOk (s.ctxAt c) bs = true) :
    ∃ z, s.hardwareRestore c = checkHead c { s.setCtx c z with free := s.free + 16 } ∧ z.drain = .none ∧
      (readArea (s.ctxAt c) bs s.free).sameRegs z := by
  obtain ⟨hold, z, hz, -, heq⟩ := hardwareRestore_eq hd hcause ht hdebug hv hok
  have htaint := Context.sameRegs_taint (readArea (s.ctxAt c) bs s.free) (s.ctxAt c).wsize (areaSpoiled s c)
  obtain ⟨hpc, hregs, hqm⟩ : (readArea (s.ctxAt c) bs s.free).sameRegs (z.waitsOn hold) := by
    refine Context.sameRegs_trans ?_ (z.sameRegs_waitsOn hold)
    rcases hz with hz | ⟨o, hz⟩
    · rw [hz]
      exact htaint
    · rw [hz]
      exact Context.sameRegs_trans htaint (Context.sameRegs_observe _ o)
  obtain ⟨w, hw⟩ : ∃ w : Context, w = { z.waitsOn hold with
      drain := .none, counting := (z.waitsOn hold).counting && (z.waitsOn hold).ystate != 1, hold := hold } := ⟨_, rfl⟩
  rw [← hw] at heq
  refine ⟨w, heq, ?_, ?_⟩
  · rw [hw]
  · rw [hw]
    exact ⟨hpc, hregs, hqm⟩

/-- Without poisoned lines nothing that is read is poisoned. -/
theorem vget_clean (h : s.poison = []) {pcl p va n : Nat} {bs : List Byte} {b : Bool} (hv : vget s pcl p va n = .ok (bs, b)) : b = false := by
  have hclean : ∀ r, vget s pcl p va n = r → ∀ bs b, r = .ok (bs, b) → b = false := by
    rintro r rfl
    unfold vget
    refine foldl_keeps (P := fun r : Except (BitVec 8 × Nat) (List Byte × Bool) => ∀ bs b, r = .ok (bs, b) → b = false) (fun a q ha => ?_)
      (fun bs b he => by cases he; rfl)
    intro bs b he
    split at he
    · cases he
    · rename_i bs' b'
      split at he
      · cases he
      · split at he
        · cases he
        · cases he
          rw [ha bs' b' rfl, h]
          rfl
  exact hclean _ rfl bs b hv

/-- An area without poison is put into a context whose words wait for nothing. -/
theorem hardwareRestore_exact {bs : List Byte} (hd : (s.ctxAt c).drain = .restoring 0) (ht : s.mgr.tripped = false)
    (hdebug : (s.ctxAt c).debug = false) (hpoison : s.poison = [])
    (hv : vget s c.pcl (s.ctxAt c).part (s.ctxAt c).savearea.toNat (0x8000 + 256 * (s.ctxAt c).wsize) = .ok (bs, false))
    (hok : areaOk (s.ctxAt c) bs = true) (hh : (readArea (s.ctxAt c) bs s.free).hold = .none) :
    s.hardwareRestore c = checkHead c { s.setCtx c { readArea (s.ctxAt c) bs s.free with
        drain := .none, mbad := 0, counting := (readArea (s.ctxAt c) bs s.free).counting && (readArea (s.ctxAt c) bs s.free).ystate != 1 } with
      free := s.free + 16 } := by
  have hclean : areaSpoiled s c = fun _ _ => false := by
    funext o n
    unfold areaSpoiled
    split
    · rename_i hr
      exact vget_clean hpoison hr
    · rfl
  obtain ⟨hold, z, -, hplain, heq⟩ := hardwareRestore_eq hd (by decide) ht hdebug hv hok
  rw [hclean, Context.taint_none] at hplain
  obtain ⟨rfl, rfl⟩ := hplain (by decide)
  have hwaits : ({ readArea (s.ctxAt c) bs s.free with mbad := 0 } : Context).waitsOn (readArea (s.ctxAt c) bs s.free).hold =
      { readArea (s.ctxAt c) bs s.free with mbad := 0 } := by rw [hh]; rfl
  rw [heq, hwaits]

end


/-- Settles O43. -/
theorem dispatchAndSaves : Obligations.DispatchAndSaves := by
  unfold Obligations.DispatchAndSaves
  refine ⟨?_, fun s p m hformed hm ht hcap => ?_, fun s ht hcap => ?_, fun s k m => ?_, fun s u v c reason forced cause pc thr => ?_,
    fun s c forced cause pc thr => ?_, fun s c bs b cause => ?_, fun s c bs => ?_⟩
  · intro s pcl r seat l bs pa hinv hpcl hok hseat hbest htrip hstage hcap hf hl htriple hunmade ha hv ht hbad hcause hst
    have hbest' : bestHead s pcl = some (r, [seat]) := by
      rcases hbest with h | ⟨hr, hse, -, hu8, h1, h8, hempty⟩
      · exact h
      · have hst3 : fieldAt bs 0x0F 1 ≠ 3 := by
          rcases hst with ⟨h, -⟩ | ⟨h, -⟩ <;> omega
        rw [hse]
        exact bestHead_empty hr hempty hl htriple hv hst3 hu8 h1 h8
    obtain ⟨hdis, hmem, u, hu⟩ := dispatch_plain hinv hseat hbest' htrip hstage hcap hl hunmade htriple ha hv ht hf hbad hcause hst
    refine ⟨s.dispatch pcl, (exec_dispatch pcl s).trans (atClu_of_lt hpcl), hdis, hmem, ?_⟩
    rw [hu]
    exact seatedContext_fields hbad
  · obtain ⟨hidle, hone, h64, hlast⟩ := migration_spec hm
    refine ⟨?_, hidle, hone, h64, hlast⟩
    have h := balancing_commands ht [p] (fun q hq => List.mem_singleton.mp hq ▸ hcap) s.migrations
    rw [exec_balancingPeriod, execBalancingPeriod, hformed]
    rw [List.filterMap_cons, hm, List.filterMap_nil] at h
    exact congrArg Host.Outcome.next h
  · rw [exec_balancingPeriod, execBalancingPeriod]
    exact congrArg Host.Outcome.next (balancing_commands ht (formedParts s) (fun p _ => hcap p) s.migrations)
  · intro moved hinv hk hne
    exact migrationCommand_moves hinv hk hne
  · intro x y hinv hok hd htriple hp hr hw hcmds hwin hreplies hh hyh hres hdebug ht hback hexp hsave hrec
    have hcan : s.canSave c = true := by
      simp only [State.canSave, hcmds, show (s.ctxAt c).win.any (fun e => e.2.owner) = false from hwin, show (s.ctxAt c).replies = [] from hreplies,
        show (s.ctxAt c).hold = .none from hh, show (s.ctxAt c).resident = true from hres, show (s.ctxAt c).debug = false from hdebug, ht,
        List.isEmpty_nil, Bool.not_false, Bool.and_self]
    refine (exec_hardwareSave c s).trans ((atCtx_of_ok hok).trans (congrArg Host.Outcome.next ?_))
    rw [hardwareSave_saving hinv hd htriple hp hr hw hcan hback hsave]
    exact backSaved_ready hyh hexp hrec cause thr
  · rintro x hinv hok ⟨-, -, htrip⟩ hs hd htriple hh hexp hstore
    obtain ⟨t, ht, hw⟩ := writeRecord_settled hs hstore pc 3 (if forced then 48 else 16) 0 0
    have htinv : t.Inv := by
      have h := State.writeRecord_inv (c := c) (pc := pc) (state := 3) (flags := if forced then 48 else 16) (count := 0) (cause := 0) hinv
      rwa [ht] at h
    obtain ⟨hres, hready⟩ := enterReady_ready htinv (hw.cluAt c.pcl) x.part x.launchid.toNat x.strandid.toNat x.recaddr x.base none
    have hsave := (hardwareSave_saved hd htriple htrip hs).trans (backSaved_ready hh hexp ht cause thr)
    refine ⟨s.hardwareSave c, ⟨x.part, x.launchid.toNat, x.strandid.toNat, x.recaddr, x.base, 0, (t.idleCtx c).uid, none⟩,
      (exec_hardwareSave c s).trans (atCtx_of_ok hok), ?_, ?_, rfl, rfl, rfl, rfl, rfl⟩
    · rw [hsave]
      exact hres
    · rw [hsave]
      exact hready
  · intro x hinv hok hd hcause ht hdebug hv harea
    obtain ⟨z, hz, hdrain, hpc, hregs, hqm⟩ := hardwareRestore_puts hd hcause ht hdebug hv harea
    have hctx : ({ s.setCtx c z with free := s.free + 16 } : State).ctxAt c = z := State.ctxAt_setCtx_same hinv.others c z
    refine ⟨{ s.setCtx c z with free := s.free + 16 },
      (exec_hardwareRestore c s).trans ((atCtx_of_ok hok).trans (congrArg Host.Outcome.next hz)), ?_, ?_, ?_, State.setCtx_mem .., fun hn => ?_⟩
    · rw [hctx, hdrain]
    · rw [hctx, hpc]
    · rw [hctx, hregs]
    · refine checkHead_of_noStep ?_
      rw [hctx, Context.noStep, hqm]
      exact hn
  · intro x hinv hok hd ht hdebug hpoison hv harea y hh
    exact (exec_hardwareRestore c s).trans ((atCtx_of_ok hok).trans
      (congrArg Host.Outcome.next (hardwareRestore_exact hd ht hdebug hpoison hv harea hh)))

end Sys2Proof.Machine
end
section
namespace Sys2Proof.Machine

/-! ### The queues of the engines -/

theorem exec_engSubmission (c : CtxLoc) (s : State) : exec (.engSubmission c) s = execEngSubmission c s := rfl

/-- Each entry of a table changed alike. -/
theorem tget_map {α : Type} (f : α → α) {d : α} (hd : f d = d) (t : Tbl α) (k : Nat) : tget (t.map fun e => (e.1, f e.2)) k d = f (tget t k d) := by
  induction t with
  | nil => exact hd.symm
  | cons e r ih =>
    rw [List.map_cons]
    unfold tget
    split
    · rfl
    · exact ih

/-- The tests of a queue's waits change its head alone. -/
theorem testWaits_length (s : State) (q : List Cmd) : (testWaits s q).length = q.length := by
  unfold testWaits
  split
  · rfl
  · split
    · rfl
    · rfl

/-- The tests of a queue's waits leave a command without record as it is. -/
theorem testWaits_last {s : State} {k : Cmd} (hk : k.bytes = []) (q : List Cmd) : (testWaits s (q ++ [k])).getLast? = some k := by
  cases q with
  | nil =>
    rw [List.nil_append, testWaits, hk]
    simp
  | cons h r =>
    rw [List.cons_append, testWaits]
    split
    · rw [← List.cons_append]
      exact List.getLast?_concat
    · dsimp only
      rw [← List.cons_append]
      exact List.getLast?_concat

theorem State.engQueue_testQueues {s : State} (hinv : s.Inv) (pcl e : Nat) : (s.testQueues pcl).engQueue pcl e = testWaits s (s.engQueue pcl e) := by
  rw [State.engQueue, State.testQueues, State.cluAt_onClu_same hinv.clus]
  exact tget_map _ rfl ..

/-! ### Submission of a command without record (R267) -/

/-- The command that a record-less ENG word submits. -/
def cmdOf (s : State) (c : CtxLoc) (i : Item) (f : EF) : Cmd :=
  let x := s.ctxAt c
  let fn := fnOf i.ins
  let q := engineFor s c fn i.a []
  { id := i.seq.toNat, num := tget (s.cluAt q.1).engNum q.2 0, who := c, serial := x.serial, part := x.part, launch := x.launchid.toNat,
    strand := x.strandid.toNat, fn := BitVec.ofNat 7 fn, wait := f.wait, reply := f.reply, rd := f.rd, rs1 := i.a, rs2 := i.b, bytes := [], pc := i.pc,
    grans := [], rgs := [], obs := x.obs, group := if fn = 0x50 then getAt x.grp (8 * (bodyAux [] % 4)) 8 else 0 }

theorem isPoint_of_engFields {i : Instr} {f : EF} (h : engFields i = some f) : Instr.isPoint i = false := by
  revert h
  cases i <;> simp [engFields, Instr.isPoint]

section

variable {s : State} {c : CtxLoc} {i : Item} {f : EF}

theorem submission_head (hq : (s.ctxAt c).qe.items = [i]) (hf : engFields i.ins = some f) (hon : s.engineOn c = true) :
    s.submission c = submitHead c i f s := by
  unfold State.submission
  rw [hq]
  simp only [hf, hon, if_true]

theorem submitWait_none {fn : Nat} {a : Word} (hlen : (s.engQueue (engineFor s c fn a []).1 (engineFor s c fn a []).2).length < 64)
    (hreset : (s.cluAt (engineFor s c fn a []).1).resetting.contains (engineFor s c fn a []).2 = false) : submitWait s c fn a [] [] [] = none := by
  have hfull : ¬ 64 ≤ (tget (s.cluAt (engineFor s c fn a []).1).engines (engineFor s c fn a []).2 []).length := Nat.not_le.mpr hlen
  simp only [submitWait, List.find?_nil, hreset, decide_eq_false hfull, Bool.or_self, Bool.false_eq_true, if_false]

theorem submitHead_recordless (hrec : hasRecord (fnOf i.ins) = false) (hg : unitGrans (fnOf i.ins) i.a = [])
    (hlen : (s.engQueue (engineFor s c (fnOf i.ins) i.a []).1 (engineFor s c (fnOf i.ins) i.a []).2).length < 64)
    (hreset : (s.cluAt (engineFor s c (fnOf i.ins) i.a []).1).resetting.contains (engineFor s c (fnOf i.ins) i.a []).2 = false) :
    submitHead c i f s = s.submit c i f [] [] [] := by
  have hnil : ([] : List Nat).eraseDups = [] := rfl
  have hnil' : ([] : List (Nat × Nat)).eraseDups = [] := rfl
  simp only [submitHead, hrec, hg, Bool.false_eq_true, if_false, List.find?_nil, List.append_nil, hnil, hnil', submitWait_none hlen hreset, bne_self_eq_false]

end

/-! ### What a submission leaves -/

theorem pointsBehind_empty {s : State} {c : CtxLoc} (h : (s.ctxAt c).qe.items = []) (n : Nat) : s.pointsBehind c n = s := by
  have hready : s.pointReady c .e = false := by
    simp only [State.pointReady, Context.queue, h, Bool.and_false]
  cases n with
  | zero => rfl
  | succ n => rw [State.pointsBehind, hready, if_neg Bool.false_ne_true]

theorem dropItem_one {q : Queue} {i : Item} (hq : q.items = [i]) (hp : Instr.isPoint i.ins = false) :
    (q.dropItem fun _ => true).items = [] ∧ (q.dropItem fun _ => true).finished = q.finished + 1 := by
  have herase : [i].erase i = [] := by simp
  simp only [Queue.dropItem, hq, List.find?_cons, hp, herase, Bool.false_eq_true, if_false, and_self]

section

variable {s : State} {c : CtxLoc} {i : Item} {f : EF}

/-- A submitted command stands at the end of its queue, and its word is gone from the E queue. -/
theorem submit_recordless (hinv : s.Inv) (hq : (s.ctxAt c).qe.items = [i]) (hf : engFields i.ins = some f) (hw : (s.ctxAt c).waits = [])
    (ht : twf (s.cluAt (engineFor s c (fnOf i.ins) i.a []).1).engines [] = true) :
    let q := engineFor s c (fnOf i.ins) i.a []
    let t := s.submit c i f [] [] []
    (t.engQueue q.1 q.2).length = (s.engQueue q.1 q.2).length + 1 ∧ (t.engQueue q.1 q.2).getLast? = some (cmdOf s c i f) ∧
      (t.ctxAt c).qe.items = [] ∧ (t.ctxAt c).qe.finished = (s.ctxAt c).qe.finished + 1 ∧
      (t.ctxAt c).replies = (if f.reply then (s.ctxAt c).replies ++ [f.rd.toNat] else (s.ctxAt c).replies) := by
  intro q t
  let u := s.onClu q.1 fun cl => { cl with
    engines := tset cl.engines q.2 (tget cl.engines q.2 [] ++ [cmdOf s c i f]) []
    engNum := tset cl.engNum q.2 (tget (s.cluAt q.1).engNum q.2 0 + 1) 0 }
  let g : Context → Context := fun x => { x with
    qe := x.qe.dropItem fun _ => true, replies := if f.reply then x.replies ++ [f.rd.toNat] else x.replies }
  let v := (u.testQueues q.1).onCtx c g
  have hu : u.Inv := State.onClu_inv hinv
  have hctx : v.ctxAt c = g (s.ctxAt c) := State.ctxAt_onCtx_same (State.testQueues_inv hu).others c g
  obtain ⟨hitems, hfin⟩ := dropItem_one hq (isPoint_of_engFields hf)
  have ht' : t = v := by
    have hflip : s.flip c [] [] true = s := State.setCtx_ctxAt hinv.others c
    have hend : (u.testQueues q.1).waitEnd c 3 0 = u.testQueues q.1 := State.waitEnd_none (by
      rw [show ((u.testQueues q.1).ctxAt c).waits = [] from hw]
      rfl)
    have hpoints : v.pointsBehind c 8 = v := pointsBehind_empty (by rw [hctx]; exact hitems) 8
    have hsub : t = ((((s.flip c [] [] true).onClu q.1 fun cl => { cl with
        engines := tset cl.engines q.2 (tget cl.engines q.2 [] ++ [cmdOf s c i f]) []
        engNum := tset cl.engNum q.2 (tget (s.cluAt q.1).engNum q.2 0 + 1) 0 }).testQueues q.1).waitEnd c 3 0 |>.onCtx c g).pointsBehind c 8 := rfl
    rw [hsub, hflip, hend, hpoints]
  have hqueue : t.engQueue q.1 q.2 = testWaits u (s.engQueue q.1 q.2 ++ [cmdOf s c i f]) := by
    have hv : v.engQueue q.1 q.2 = (u.testQueues q.1).engQueue q.1 q.2 := by
      unfold State.engQueue State.cluAt
      rw [State.onCtx_clus]
    rw [ht', hv, State.engQueue_testQueues hu]
    refine congrArg (testWaits u) ?_
    have h := congrArg Cluster.engines (State.cluAt_onClu_same hinv.clus q.1 fun cl => { cl with
      engines := tset cl.engines q.2 (tget cl.engines q.2 [] ++ [cmdOf s c i f]) []
      engNum := tset cl.engNum q.2 (tget (s.cluAt q.1).engNum q.2 0 + 1) 0 })
    rw [State.engQueue, show (u.cluAt q.1).engines = _ from h]
    exact tget_tset_wf ht
  refine ⟨?_, ?_, ?_, ?_, ?_⟩
  · rw [hqueue, testWaits_length, List.length_append, List.length_singleton]
  · rw [hqueue]
    exact testWaits_last rfl _
  · rw [ht', hctx]
    exact hitems
  · rw [ht', hctx]
    exact hfin
  · rw [ht', hctx]

end

/-! ### The completion word of a rejected record (R273) -/

theorem gran_setGran_same {x : Context} (h : twf x.win {} = true) (g : Nat) (v : Gran) : (x.setGran g v).gran g = v := tget_tset_wf h

theorem setGran_twf {x : Context} (h : twf x.win {} = true) (g : Nat) (v : Gran) : twf (x.setGran g v).win {} = true := twf_tset h

theorem writeWin_keeps {P : Context → Prop} (hP : ∀ x g v, P x → P (x.setGran g v)) : ∀ (l : List Byte) (x : Context) (o : Nat), P x → P (writeWin x o l)
  | [], _, _, h => h
  | _ :: r, _, o, h => writeWin_keeps hP r _ (o + 1) (hP _ _ _ h)

theorem Gran.read_tagged {v : Gran} (h : v.fmt ≠ .empty) : v.read = v.data := if_neg h

/-- A byte written to a granule gives it a tag. -/
theorem gran_writeWinByte {x : Context} (h : twf x.win {} = true) {g o : Nat} (ho : o < 256) (b : Byte) :
    ((writeWinByte x (256 * g + o) b).gran g).read = putAt (x.gran g).read (8 * o) 8 b.toNat ∧ ((writeWinByte x (256 * g + o) b).gran g).fmt ≠ .empty := by
  have hdiv : (256 * g + o) / 256 = g := by omega
  have hmod : (256 * g + o) % 256 = o := by omega
  unfold writeWinByte
  rw [hdiv, hmod, gran_setGran_same h]
  have htag : (if (x.gran g).fmt = .empty then Fmt.raw else (x.gran g).fmt) ≠ .empty := by
    split
    · decide
    · assumption
  exact ⟨Gran.read_tagged htag, htag⟩

/-- A field is its first byte and the rest. -/
theorem getAt_byte {w : Nat} (d : BitVec w) (o n : Nat) : getAt d (8 * o) (8 * (n + 1)) = getAt d (8 * o) 8 + 2 ^ 8 * getAt d (8 * (o + 1)) (8 * n) := by
  simp only [getAt, BitVec.toNat_ushiftRight, Nat.shiftRight_eq_div_pow]
  rw [show 8 * (n + 1) = 8 + 8 * n by ring, pow_add, show 8 * (o + 1) = 8 * o + 8 by ring, pow_add, ← Nat.div_div_eq_div_mul]
  exact Nat.mod_mul

/-- Bytes written to a granule: they read back, and the fields before them are as they were. -/
theorem writeWin_gran : ∀ (n v : Nat) {x : Context} {g o : Nat}, twf x.win {} = true → o + n ≤ 256 →
    let y := (writeWin x (256 * g + o) (toLE n v)).gran g
    getAt y.read (8 * o) (8 * n) = v % 2 ^ (8 * n) ∧ (∀ lo m, lo + m ≤ 8 * o → getAt y.read lo m = getAt (x.gran g).read lo m) ∧
      ((x.gran g).fmt ≠ .empty ∨ 0 < n → y.fmt ≠ .empty) := by
  intro n
  induction n with
  | zero =>
    intro v x g o _ _ y
    exact ⟨by rw [Nat.mul_zero, Nat.pow_zero, Nat.mod_one, getAt, Nat.pow_zero, Nat.mod_one], fun _ _ _ => rfl, fun h => h.resolve_right (by decide)⟩
  | succ n ih =>
    intro v x g o hx ho y
    obtain ⟨hdata, htag⟩ := gran_writeWinByte hx (g := g) (o := o) (by omega) (BitVec.ofNat 8 v)
    obtain ⟨hrest, hbefore, hfmt⟩ := ih (v / 256) (x := writeWinByte x (256 * g + o) (BitVec.ofNat 8 v)) (g := g) (o := o + 1) (setGran_twf hx _ _) (by omega)
    refine ⟨?_, fun lo m hl => ?_, fun _ => hfmt (.inl htag)⟩
    · have hfirst : getAt y.read (8 * o) 8 = v % 2 ^ 8 := by
        refine (hbefore (8 * o) 8 (by omega)).trans ?_
        rw [hdata, getAt_putAt_same _ _ (by omega), BitVec.toNat_ofNat, Nat.mod_mod]
      have hd : getAt y.read (8 * (o + 1)) (8 * n) = v / 256 % 2 ^ (8 * n) := hrest
      rw [getAt_byte, hfirst, hd, show 8 * (n + 1) = 8 + 8 * n by ring, pow_add, Nat.mod_mul]
      rfl
    · refine (hbefore lo m (by omega)).trans ?_
      rw [hdata, getAt_putAt_other (lo := 8 * o) (n := 8) (h := Or.inl hl)]

section

variable {s : State} {c : CtxLoc} {i : Item} {f : EF}

/-- The completion word stands at its place in the record. -/
theorem putCompletion_gran {x : Context} (hx : twf x.win {} = true) {a : Word} (ha : a.toNat % 256 = 0) (v : Nat) :
    getAt ((x.putCompletion a v).gran (bitsOf a 8 40)).data (8 * 0x30) 64 = v % 2 ^ 64 := by
  have hplace : bitsOf a 0 48 + 0x30 = 256 * bitsOf a 8 40 + 0x30 := by
    simp only [bitsOf, BitVec.toNat_ushiftRight, Nat.shiftRight_eq_div_pow]
    have := a.isLt
    omega
  obtain ⟨hread, -, hfmt⟩ := writeWin_gran 8 v (x := x) (g := bitsOf a 8 40) (o := 0x30) hx (by omega)
  rw [Context.putCompletion, hplace, ← Gran.read_tagged (hfmt (.inr (by decide)))]
  exact hread

theorem putCompletion_keeps (x : Context) (a : Word) (v : Nat) : (x.putCompletion a v).regs = x.regs ∧ (x.putCompletion a v).pc = x.pc :=
  writeWin_keeps (P := fun y => y.regs = x.regs ∧ y.pc = x.pc) (fun _ _ _ h => h) _ x _ ⟨rfl, rfl⟩

/-- A record that its checks refuse is rejected. -/
theorem submitHead_rejects (hinv : s.Inv) (hrec : hasRecord (fnOf i.ins) = true) (ho : ((s.ctxAt c).gran (bitsOf i.a 8 40)).owner = false)
    (hp : ((s.ctxAt c).gran (bitsOf i.a 8 40)).poison = false) {code : Nat} (hcode : code ≠ 0)
    (hc : (recordCode s c (fnOf i.ins) ((granBytes ((s.ctxAt c).gran (bitsOf i.a 8 40)).read).take 128)).1 = code) :
    ∃ q, submitHead c i f s = (s.setCtx c { (s.ctxAt c).putCompletion i.a (3 + code * 256) with qe := q }).raise c 0x10 i.a i.pc (some (.e, i.seq, i.pc)) := by
  obtain ⟨g, m, hcode'⟩ : ∃ g m, recordCode s c (fnOf i.ins) ((granBytes ((s.ctxAt c).gran (bitsOf i.a 8 40)).read).take 128) = (code, g, m) :=
    ⟨_, _, by rw [← hc]⟩
  simp only [submitHead, hrec, if_true, List.find?_cons, List.find?_nil, ho, hp, hcode', bne_iff_ne.mpr hcode]
  rw [State.onCtx, State.ctxAt_onCtx_same hinv.others, State.onCtx, State.setCtx_setCtx hinv.others]
  exact ⟨_, rfl⟩

end

/-- Settles O47. -/
theorem commandsSubmitted : Obligations.CommandsSubmitted := by
  unfold Obligations.CommandsSubmitted
  intro s c i f x fn q hinv hok hon hq hf hw hphase
  refine ⟨fun hrec hg ht hlen hreset => ?_, fun hrec => ?_⟩
  · obtain ⟨hl, hlast, hitems, hfin, hreplies⟩ := submit_recordless hinv hq hf hw ht
    refine ⟨s.submit c i f [] [] [], cmdOf s c i f, ?_, hl, hlast, rfl, rfl, rfl, rfl, rfl, rfl, rfl, hitems, hfin, hreplies⟩
    refine (exec_engSubmission c s).trans ((atCtx_of_ok hok).trans (congrArg Host.Outcome.next ?_))
    rw [submission_head hq hf hon, submitHead_recordless hrec hg hlen hreset]
  · intro g ho hp ha hx code hcode hc
    obtain ⟨e, he⟩ := submitHead_rejects (f := f) hinv hrec ho hp hcode hc
    obtain ⟨hregs, hpc⟩ := putCompletion_keeps (s.ctxAt c) i.a (3 + code * 256)
    have hdata := putCompletion_gran hx ha (3 + code * 256)
    generalize (s.ctxAt c).putCompletion i.a (3 + code * 256) = y at he hregs hpc hdata
    refine ⟨{ y with qe := e }, ?_, hregs, hpc, hdata⟩
    refine (exec_engSubmission c s).trans ((atCtx_of_ok hok).trans (congrArg Host.Outcome.next ?_))
    rw [submission_head hq hf hon]
    exact he

end Sys2Proof.Machine
end
section
namespace Sys2Proof.Machine

/-! ### The engine queues of a cluster through a step

A property of one cluster's engine queues and of its list of aborted collectives, with the invariant; and the steps that leave both as they are. -/

/-- The invariant, and a property of the engine queues and of the aborted collectives of cluster `pcl`. -/
def State.engKeeps (pcl : Nat) (Q : Tbl (List Cmd) → List (Nat × Bool) → Prop) (t : State) : Prop :=
  t.Inv ∧ Q (t.cluAt pcl).engines (t.cluAt pcl).aborted

section

variable {pcl : Nat} {Q : Tbl (List Cmd) → List (Nat × Bool) → Prop} {s t : State}

theorem engKeeps_of_clus (h : s.engKeeps pcl Q) (ht : t.Inv) (hc : t.clus = s.clus) : t.engKeeps pcl Q := by
  refine ⟨ht, ?_⟩
  rw [State.cluAt, hc]
  exact h.2

theorem engKeeps_setClu (h : s.engKeeps pcl Q) (p : Nat) {cl : Cluster} (he : cl.engines = (s.cluAt p).engines) (ha : cl.aborted = (s.cluAt p).aborted) :
    (s.setClu p cl).engKeeps pcl Q := by
  refine ⟨State.setClu_inv h.1, ?_⟩
  by_cases hp : pcl = p
  · subst hp
    rw [State.cluAt_setClu_same h.1.clus, he, ha]
    exact h.2
  · rw [State.cluAt_setClu_other hp]
    exact h.2

theorem engKeeps_onClu (h : s.engKeeps pcl Q) (p : Nat) {f : Cluster → Cluster} (he : ∀ cl, (f cl).engines = cl.engines) (ha : ∀ cl, (f cl).aborted = cl.aborted) :
    (s.onClu p f).engKeeps pcl Q := engKeeps_setClu h p (he _) (ha _)

/-- Faults, waits and starts of M words leave the engine queues as they are. -/
theorem engKeeps_frame (pcl : Nat) (Q : Tbl (List Cmd) → List (Nat × Bool) → Prop) : FaultFrame (State.engKeeps pcl Q) where
  setCtx _ _ h := engKeeps_of_clus h (State.setCtx_inv h.1) (State.setCtx_clus ..)
  setSub _ _ _ h := engKeeps_of_clus h (State.setSub_inv h.1) rfl
  setPart _ _ h := engKeeps_of_clus h (State.setPart_inv h.1) rfl
  bytes _ _ _ _ h := engKeeps_of_clus h (applyBytes_inv h.1) rfl
  underWay _ _ _ _ _ _ h := engKeeps_of_clus h (State.inv_with h.1) rfl
  cluster p _ _ _ _ _ h := engKeeps_setClu h p rfl rfl

theorem engKeeps_wroteTo (h : s.engKeeps pcl Q) (ht : t.Inv) (hw : s.wroteTo t) : t.engKeeps pcl Q :=
  engKeeps_of_clus h ht (by rw [show t = _ from hw])

end

/-! ### Completions (R276) -/

/-- A change of a table's entries that leaves out no entry keeps its canonical form. -/
theorem twf_map {α : Type} [DecidableEq α] {d : α} (f : α → α) (hf : ∀ v, v ≠ d → f v ≠ d) {t : Tbl α} (h : twf t d = true) :
    twf (t.map fun e => (e.1, f e.2)) d = true := by
  have hrise : ∀ (t : Tbl α) i, risingFrom i (t.map fun e => (e.1, f e.2)) = risingFrom i t := by
    intro t
    induction t with
    | nil => exact fun i => by cases i <;> rfl
    | cons e r ih =>
      intro i
      cases i with
      | none => exact ih _
      | some i => exact congrArg (decide (i < e.1) && ·) (ih _)
  simp only [twf, Bool.and_eq_true, List.all_eq_true, bne_iff_ne] at h ⊢
  refine ⟨(hrise t none).trans h.1, fun e he => ?_⟩
  obtain ⟨e', he', rfl⟩ := List.mem_map.mp he
  exact hf _ (h.2 e' he')

theorem testWaits_ne_nil {s : State} {q : List Cmd} (h : q ≠ []) : testWaits s q ≠ [] := fun h' =>
  h (List.length_eq_zero_iff.mp (by rw [← testWaits_length s q, h']; rfl))

/-- A queue whose head has started has no wait to test. -/
theorem testWaits_started {s : State} {q : List Cmd} (h : ∀ k ∈ q, k.started = true) : testWaits s q = q := by
  cases q with
  | nil => rfl
  | cons k r => rw [testWaits, h k List.mem_cons_self, Bool.true_or, if_pos rfl]

section

variable {pcl : Nat} {Q : Tbl (List Cmd) → List (Nat × Bool) → Prop} {s : State}

/-- A change of the cluster's own queues. -/
theorem engKeeps_own {Q' : Tbl (List Cmd) → List (Nat × Bool) → Prop} (h : s.engKeeps pcl Q) {f : Cluster → Cluster}
    (hf : ∀ cl, Q cl.engines cl.aborted → Q' (f cl).engines (f cl).aborted) : (s.onClu pcl f).engKeeps pcl Q' := by
  refine ⟨State.onClu_inv h.1, ?_⟩
  rw [State.cluAt_onClu_same h.1.clus]
  exact hf _ h.2

theorem onCtx_engKeeps (h : s.engKeeps pcl Q) (c : CtxLoc) (f : Context → Context) : (s.onCtx c f).engKeeps pcl Q := (engKeeps_frame pcl Q).onCtx f h

theorem raiseLate_engKeeps (h : s.engKeeps pcl Q) (c : CtxLoc) (m : Mark) : (s.raiseLate c m).engKeeps pcl Q :=
  (engKeeps_frame pcl Q).raise _ _ _ _ (onCtx_engKeeps h c _)

theorem pushLate_engKeeps (h : s.engKeeps pcl Q) (c : CtxLoc) (q : Nat) (m : Option Mark) : (s.pushLate c q m).engKeeps pcl Q := by
  unfold State.pushLate
  dsimp only
  exact ite_keeps ((engKeeps_frame pcl Q).setCtx _ _ h) (raiseLate_engKeeps h _ _)

theorem releaseLate_engKeeps (h : s.engKeeps pcl Q) (c : CtxLoc) (id : Nat) (m : Option Mark) : (s.releaseLate c id m).engKeeps pcl Q := by
  unfold State.releaseLate
  split
  · refine ite_keeps ?_ h
    cases m with
    | none => exact onCtx_engKeeps h c _
    | some m => exact raiseLate_engKeeps (onCtx_engKeeps h c _) c m
  · exact h

theorem deliverCmd_engKeeps (h : s.engKeeps pcl Q) (k : Cmd) : (s.deliverCmd k).engKeeps pcl Q := by
  have hfree : State.engKeeps pcl Q { s with free := s.free + 1 } := engKeeps_of_clus h (State.inv_with h.1) rfl
  unfold State.deliverCmd
  dsimp only
  refine ite_keeps hfree (ite_keeps (onCtx_engKeeps hfree _ _) ?_)
  have hpushed := foldl_keeps (P := State.engKeeps pcl Q) (f := fun s q => s.pushLate k.who q k.mark) (l := k.pushes)
    (fun u q hu => pushLate_engKeeps hu _ _ _) (ite_keeps (b := k.reply = true) (onCtx_engKeeps hfree k.who fun x => x.replyLate k.rd.toNat (k.replyValue s.free)) hfree)
  exact ite_keeps (releaseLate_engKeeps hpushed _ _ _) hpushed

theorem signal_engKeeps (h : s.engKeeps pcl Q) (p e : Nat) (k : Cmd) (id : Nat) (inc : Word) (err wide : Bool) :
    (s.signal p e k id inc err wide).engKeeps pcl Q := by
  refine engKeeps_of_clus h (State.signal_inv h.1) ?_
  unfold State.signal State.sendAdd
  dsimp only
  generalize (wide || dieOf (eventOf k.who.pcl id).1 != dieOf p) = b
  cases b <;> rfl

theorem signals_engKeeps (h : s.engKeeps pcl Q) (p e : Nat) (k : Cmd) : (s.signals p e k).engKeeps pcl Q := by
  unfold State.signals
  exact ite_keeps h (foldl_keeps (P := State.engKeeps pcl Q) (fun _ _ hu => ite_keeps hu (signal_engKeeps hu ..)) h)

theorem flip_engKeeps (h : s.engKeeps pcl Q) (c : CtxLoc) (g : List Nat) (r : List (Nat × Nat)) (v : Bool) : (s.flip c g r v).engKeeps pcl Q := by
  unfold State.flip
  refine foldl_keeps (P := State.engKeeps pcl Q) (fun u a hu => ?_) (onCtx_engKeeps h c _)
  exact engKeeps_onClu hu a.1 (fun _ => rfl) fun _ => rfl

theorem giveSlot_engKeeps (h : s.engKeeps pcl Q) (p n : Nat) : (s.onClu p fun cl => cl.giveSlot n).engKeeps pcl Q := by
  refine engKeeps_onClu h p (fun cl => ?_) fun cl => ?_
  · unfold Cluster.giveSlot
    split <;> rfl
  · unfold Cluster.giveSlot
    split <;> rfl

theorem resetOver_engKeeps (h : s.engKeeps pcl Q) (p e : Nat) : (s.resetOver p e).engKeeps pcl Q :=
  ite_keeps (engKeeps_onClu h p (fun _ => rfl) fun _ => rfl) h

/-- A completion takes the head off its queue, and tests the waits of the queues' heads. -/
theorem complete1_engKeeps {Q' : Tbl (List Cmd) → List (Nat × Bool) → Prop} (h : s.engKeeps pcl Q) (e : Nat) (k : Cmd)
    (hdrop : ∀ E A, Q E A → Q' (tset E e ((tget E e []).drop 1) []) A) (htest : ∀ t E A, Q' E A → Q' (E.map fun q => (q.1, testWaits t q.2)) A) :
    (s.complete1 pcl e k).engKeeps pcl Q' := by
  unfold State.complete1
  dsimp only
  have hwritten := onCtx_engKeeps (ite_keeps h (onCtx_engKeeps h k.who fun x => x.putCompletion k.rs1 k.word) :
    (if k.bytes.isEmpty then s else s.onCtx k.who fun x => x.putCompletion k.rs1 k.word).engKeeps pcl Q) k.who fun x => x.unitWrites k.gwrites
  have hflipped := flip_engKeeps hwritten k.who k.grans k.rgs false
  have hslot := ite_keeps (b := k.slot = true) (giveSlot_engKeeps hflipped pcl k.cls) hflipped
  have hdropped := engKeeps_own (f := fun cl => { cl with engines := tset cl.engines e ((tget cl.engines e []).drop 1) [] }) hslot fun cl hcl => hdrop _ _ hcl
  have hnotes := foldl_keeps (P := State.engKeeps pcl Q') (f := fun s id => s.signal pcl e k id 1 false false) (l := k.notes)
    (fun u id hu => signal_engKeeps hu ..) (signals_engKeeps (deliverCmd_engKeeps hdropped k) pcl e k)
  exact engKeeps_own hnotes fun cl hcl => htest _ _ _ hcl

end

/-- A queue of a canonical table that has this length. -/
def queueLength (e L : Nat) (E : Tbl (List Cmd)) (_ : List (Nat × Bool)) : Prop := twf E [] = true ∧ (tget E e []).length = L

/-- A queue of a canonical table that has at most this length, and whose commands are all over. -/
def queueOver (e L : Nat) (E : Tbl (List Cmd)) (_ : List (Nat × Bool)) : Prop :=
  twf E [] = true ∧ (tget E e []).length ≤ L ∧ ∀ k ∈ tget E e [], k.started = true ∧ k.done = true

theorem testWaits_table (t : State) {E : Tbl (List Cmd)} (h : twf E [] = true) (e : Nat) :
    twf (E.map fun q => (q.1, testWaits t q.2)) [] = true ∧ tget (E.map fun q => (q.1, testWaits t q.2)) e [] = testWaits t (tget E e []) :=
  ⟨twf_map _ (fun _ hv => testWaits_ne_nil hv) h, tget_map _ rfl ..⟩

theorem queueLength_complete {pcl e L : Nat} {s : State} (h : s.engKeeps pcl (queueLength e (L + 1))) (k : Cmd) :
    (s.complete1 pcl e k).engKeeps pcl (queueLength e L) := by
  refine complete1_engKeeps h e k (fun E A ⟨hwf, hlen⟩ => ⟨twf_tset hwf, ?_⟩) fun t E A ⟨hwf, hlen⟩ => ?_
  · rw [tget_tset_wf hwf, List.length_drop, hlen]
    rfl
  · obtain ⟨htwf, hget⟩ := testWaits_table t hwf e
    exact ⟨htwf, by rw [hget, testWaits_length, hlen]⟩

theorem queueOver_complete {pcl e L : Nat} {s : State} (h : s.engKeeps pcl (queueOver e L)) (k : Cmd) :
    (s.complete1 pcl e k).engKeeps pcl (queueOver e L) := by
  refine complete1_engKeeps h e k (fun E A ⟨hwf, hlen, hall⟩ => ⟨twf_tset hwf, ?_⟩) fun t E A ⟨hwf, hlen, hall⟩ => ?_
  · rw [tget_tset_wf hwf, List.length_drop]
    exact ⟨le_trans (Nat.sub_le _ _) hlen, fun k hk => hall k (List.mem_of_mem_drop hk)⟩
  · obtain ⟨htwf, hget⟩ := testWaits_table t hwf e
    refine ⟨htwf, ?_⟩
    rw [hget, testWaits_started fun k hk => (hall k hk).1]
    exact ⟨hlen, hall⟩

theorem queueOver_completeAll {pcl e L : Nat} (n : Nat) : ∀ {s : State}, s.engKeeps pcl (queueOver e L) →
    (State.completeAll pcl e n s).engKeeps pcl (queueOver e L) := by
  induction n with
  | zero => exact fun h => h
  | succ n ih =>
    intro s h
    refine ih ?_
    unfold State.cmdComplete
    split
    · exact h
    · exact ite_keeps (resetOver_engKeeps (queueOver_complete h _) _ _) h

/-! ### Poison, and what others are told (R277, R404) -/

section

variable {pcl : Nat} {Q : Tbl (List Cmd) → List (Nat × Bool) → Prop} {s : State}

theorem vpoison_clus (s : State) (p q va n : Nat) : (s.vpoison p q va n).clus = s.clus := by
  unfold State.vpoison
  refine foldl_keeps (P := fun t : State => t.clus = s.clus) (fun t a ht => ?_) rfl
  split
  · exact ht
  · split <;> exact ht

theorem setRg_foldl_keeps (l : List Nat) (f : RowGroup → RowGroup) (cl : Cluster) :
    (l.foldl (fun cl g => cl.setRg g (f (cl.rg g))) cl).engines = cl.engines ∧ (l.foldl (fun cl g => cl.setRg g (f (cl.rg g))) cl).aborted = cl.aborted :=
  foldl_keeps (P := fun d : Cluster => d.engines = cl.engines ∧ d.aborted = cl.aborted) (f := fun cl g => cl.setRg g (f (cl.rg g)))
    (fun _ _ h => h) ⟨rfl, rfl⟩

theorem poisonAt_engKeeps (h : s.engKeeps pcl Q) (k : Cmd) (d : SideK) (a n : Nat) : (poisonAt s k d a n).engKeeps pcl Q := by
  unfold poisonAt
  refine ite_keeps h ?_
  cases d with
  | win => exact onCtx_engKeeps h _ _
  | moss p =>
    exact engKeeps_onClu h p (fun cl => (setRg_foldl_keeps _ (fun r => { r with poison := true }) cl).1)
      fun cl => (setRg_foldl_keeps _ (fun r => { r with poison := true }) cl).2
  | dev => exact engKeeps_of_clus h (State.vpoison_inv h.1) (vpoison_clus ..)
  | far _ => exact h

theorem poisonSpans_engKeeps (h : s.engKeeps pcl Q) (k : Cmd) : (poisonSpans k s).engKeeps pcl Q :=
  ite_keeps h (poisonAt_engKeeps h ..)

theorem poisonBegun_engKeeps (h : s.engKeeps pcl Q) (k : Cmd) : (poisonBegun k s).engKeeps pcl Q := by
  unfold poisonBegun
  refine foldl_keeps (P := State.engKeeps pcl Q) (fun u j hu => ?_) h
  split
  · exact hu
  · split
    · exact ite_keeps (poisonAt_engKeeps hu ..) hu
    · exact hu

theorem sendLater_clus (s : State) (own chip kind : Nat) (f : Flit) : (s.sendLater own chip kind f).clus = s.clus := by
  unfold State.sendLater
  split <;> rfl

/-- Telling the other participants keeps what the ends of their shares keep. -/
theorem collTell_engKeeps {c : Coll} (hend : ∀ u p q, State.engKeeps pcl Q u → (u.collAborted p q c.cid).engKeeps pcl Q) (h : s.engKeeps pcl Q) :
    (s.collTell c).engKeeps pcl Q := by
  unfold State.collTell
  refine foldl_keeps (P := State.engKeeps pcl Q) (fun u j hu => ?_) h
  split
  · exact hu
  · exact ite_keeps (hend _ _ _ hu) (ite_keeps hu (engKeeps_of_clus hu (State.sendLater_inv hu.1) (sendLater_clus ..)))

/-- A cluster that knows of an abort takes no other notice of it; its queues and its list stay as they are. -/
theorem collAborted_engKeeps (cid p q : Nat) (hmet : ∀ E A, Q E A → A.any (fun e => e.1 = cid) = true) (h : s.engKeeps pcl Q) :
    (s.collAborted p q cid).engKeeps pcl Q := by
  by_cases hq : q = pcl
  · subst hq
    have hknown := hmet _ _ h.2
    unfold State.collAborted
    simp only [hknown, Bool.true_or, if_true]
    exact h
  · have hother : ∀ (u : State) (f : Cluster → Cluster), u.engKeeps pcl Q → (u.onClu q f).engKeeps pcl Q := fun u f hu => by
      refine ⟨State.onClu_inv hu.1, ?_⟩
      rw [State.cluAt_onClu_other (Ne.symm hq)]
      exact hu.2
    unfold State.collAborted
    dsimp only
    refine ite_keeps h ?_
    split
    · exact hother _ _ h
    · split
      · exact h
      · exact hother _ _ (ite_keeps h (poisonSpans_engKeeps h _))

end

/-- The cluster that notes an abort has it last in its list. -/
theorem noteAbort_last (cl : Cluster) (cid : Nat) (met : Bool) : (cl.noteAbort cid met).aborted.getLast? = some (cid, met) := by
  unfold Cluster.noteAbort
  exact List.getLast?_concat

theorem any_of_getLast {A : List (Nat × Bool)} {cid : Nat} {met : Bool} (h : A.getLast? = some (cid, met)) : A.any (fun e => e.1 = cid) = true :=
  List.any_eq_true.mpr ⟨_, List.mem_of_getLast? h, decide_eq_true rfl⟩

theorem exec_collectiveTimeout (pcl : Nat) (s : State) : exec (.collectiveTimeout pcl) s = execCollectiveTimeout pcl s := rfl

/-- The time-out of a running collective aborts it, and its cluster knows. -/
theorem collTimeout_aborts {s : State} {pcl : Nat} {k : Cmd} {r : List Cmd} {c : Coll} (hinv : s.Inv) (hq : s.engQueue pcl 5 = k :: r) (hc : k.coll = some c)
    (hs : k.started = true) (hd : k.done = false) (ht : c.tmo ≠ 0) (htrip : s.mgr.tripped = false) (hwf : twf (s.cluAt pcl).engines [] = true) :
    (s.collTimeout pcl).engQueue pcl 5 = k.abort :: r ∧ ((s.collTimeout pcl).cluAt pcl).aborted.getLast? = some (c.cid, true) := by
  let Q : Tbl (List Cmd) → List (Nat × Bool) → Prop := fun E A => tget E 5 [] = k.abort :: r ∧ A.getLast? = some (c.cid, true)
  have hstart : s.engKeeps pcl fun E _ => twf E [] = true := ⟨hinv, hwf⟩
  have hnoted : ((poisonSpans k s).onClu pcl fun cl => { cl.noteAbort c.cid true with engines := tset cl.engines 5 (k.abort :: r) [] }).engKeeps pcl Q :=
    engKeeps_own (poisonSpans_engKeeps hstart k) fun cl hcl => ⟨tget_tset_wf hcl, noteAbort_last ..⟩
  have hrun : s.collTimeout pcl = ((poisonSpans k s).onClu pcl fun cl =>
      { cl.noteAbort c.cid true with engines := tset cl.engines 5 (k.abort :: r) [] }).collTell c := by
    have hq' : tget (s.cluAt pcl).engines 5 [] = k :: r := hq
    unfold State.collTimeout
    simp only [hq', hc, hs, hd, decide_eq_false ht, htrip, Bool.not_true, Bool.or_self, Bool.false_eq_true, if_false]
  rw [hrun]
  exact (collTell_engKeeps (fun u p q => collAborted_engKeeps c.cid p q fun E A hQ => any_of_getLast hQ.2) hnoted).2

/-! ### Resets (R381) -/

theorem length_setNth {α : Type} (l : List α) (k : Nat) (v : α) : (setNth l k v).length = l.length := by
  induction l generalizing k with
  | nil => rfl
  | cons a r ih =>
    cases k with
    | zero => rfl
    | succ k => exact congrArg (· + 1) (ih k)

section

variable {pcl e L : Nat} {s : State}

/-- A queue that is replaced by one of its length. -/
theorem queueLength_tset {E : Tbl (List Cmd)} {A : List (Nat × Bool)} (h : queueLength e L E A) {n : Nat} {q : List Cmd}
    (hq : q.length = (tget E n []).length) (A' : List (Nat × Bool)) : queueLength e L (tset E n q []) A' := by
  obtain ⟨hwf, hlen⟩ := h
  refine ⟨twf_tset hwf, ?_⟩
  by_cases hn : e = n
  · subst hn
    rw [tget_tset_wf hwf, hq, hlen]
  · rw [tget_tset_other hn, hlen]

theorem onClu_queueLength (h : s.engKeeps pcl (queueLength e L)) (p : Nat) {f : Cluster → Cluster}
    (hf : ∀ cl A, queueLength e L cl.engines A → queueLength e L (f cl).engines (f cl).aborted) : (s.onClu p f).engKeeps pcl (queueLength e L) := by
  by_cases hp : p = pcl
  · subst hp
    exact engKeeps_own h fun cl hcl => hf cl _ hcl
  · refine ⟨State.onClu_inv h.1, ?_⟩
    rw [State.cluAt_onClu_other (Ne.symm hp)]
    exact h.2

theorem onCmd_queueLength (h : s.engKeeps pcl (queueLength e L)) (p n num : Nat) (f : Cmd → Cmd) : (s.onCmd p n num f).engKeeps pcl (queueLength e L) :=
  onClu_queueLength h p fun _ _ hcl => queueLength_tset hcl (List.length_map ..) _

theorem collAborted_queueLength (h : s.engKeeps pcl (queueLength e L)) (p q cid : Nat) : (s.collAborted p q cid).engKeeps pcl (queueLength e L) := by
  unfold State.collAborted
  dsimp only
  refine ite_keeps h ?_
  split
  · exact onClu_queueLength h q fun _ _ hcl => hcl
  · rename_i i hi
    split
    · exact h
    · rename_i k hk
      by_cases hq : q = pcl
      · subst hq
        have hsame : s.engKeeps q fun E A => E = (s.cluAt q).engines ∧ queueLength e L E A := ⟨h.1, rfl, h.2⟩
        refine engKeeps_own (ite_keeps hsame (poisonSpans_engKeeps hsame _)) fun _ hcl => ?_
        exact queueLength_tset hcl.2 (by rw [length_setNth, hcl.1]) _
      · have hspans := ite_keeps (b := k.done = true) h (poisonSpans_engKeeps h { k with coll := k.collOf s q })
        refine ⟨State.onClu_inv hspans.1, ?_⟩
        rw [State.cluAt_onClu_other (Ne.symm hq)]
        exact hspans.2

theorem collTell_queueLength (h : s.engKeeps pcl (queueLength e L)) (c : Coll) : (s.collTell c).engKeeps pcl (queueLength e L) :=
  collTell_engKeeps (fun _ p q hu => collAborted_queueLength hu p q c.cid) h

theorem noteAbort_queueLength (h : s.engKeeps pcl (queueLength e L)) (p cid : Nat) (met : Bool) :
    (s.onClu p fun cl => cl.noteAbort cid met).engKeeps pcl (queueLength e L) := onClu_queueLength h p fun _ _ hcl => hcl

theorem collLost_queueLength (h : s.engKeeps pcl (queueLength e L)) (p : Nat) (k : Cmd) : (s.collLost p k).engKeeps pcl (queueLength e L) := by
  unfold State.collLost
  refine ite_keeps h ?_
  split
  · exact collTell_queueLength (noteAbort_queueLength h ..) _
  · exact h

theorem resetColl_queueLength (h : s.engKeeps pcl (queueLength e L)) (p : Nat) (k : Cmd) : (s.resetColl p k).engKeeps pcl (queueLength e L) := by
  unfold State.resetColl
  split
  · exact h
  · exact collTell_queueLength (noteAbort_queueLength (poisonSpans_engKeeps h k) ..) _

theorem sendWrite_engKeeps {Q : Tbl (List Cmd) → List (Nat × Bool) → Prop} (h : s.engKeeps pcl Q) (die : Nat) (obs : Stamp) (chip kind : Nat) (f : Flit)
    (who : Origin) (n : Nat) : State.engKeeps pcl Q { s.sendWrite die obs chip kind f who with free := n } :=
  engKeeps_of_clus h (State.inv_with (s := s.sendWrite die obs chip kind f who) (State.sendWrite_inv h.1)) rfl

theorem poisonFarBegun_queueLength (h : s.engKeeps pcl (queueLength e L)) (own n : Nat) (k : Cmd) : (s.poisonFarBegun own n k).engKeeps pcl (queueLength e L) := by
  unfold State.poisonFarBegun
  generalize farBegun s k = l
  refine foldl_keeps (P := State.engKeeps pcl (queueLength e L)) (fun u d hu => ?_) h
  dsimp only
  exact onCmd_queueLength (sendWrite_engKeeps hu ..) own n k.num _

theorem stopRunning_queueLength (h : s.engKeeps pcl (queueLength e L)) (p n : Nat) (k : Cmd) : (s.stopRunning p n k).engKeeps pcl (queueLength e L) := by
  unfold State.stopRunning
  exact ite_keeps (collLost_queueLength h p k) (ite_keeps h (resetColl_queueLength (poisonFarBegun_queueLength (poisonBegun_engKeeps h k) p n k) p k))

theorem dropRewrites_engKeeps {Q : Tbl (List Cmd) → List (Nat × Bool) → Prop} (h : s.engKeeps pcl Q) (p n : Nat) : (s.dropRewrites p n).engKeeps pcl Q := by
  unfold State.dropRewrites
  refine foldl_keeps (P := State.engKeeps pcl Q) (fun u c hu => ?_) h
  exact engKeeps_onClu hu c.1 (fun _ => rfl) fun _ => rfl

/-- A reset ends every command of the queue. -/
theorem endQueue_over (h : s.engKeeps pcl (queueLength e L)) : (s.endQueue pcl e).engKeeps pcl (queueOver e L) := by
  unfold State.endQueue
  have hstopped := foldl_keeps (P := State.engKeeps pcl (queueLength e L)) (f := fun s k => s.stopRunning pcl e k) (l := s.engQueue pcl e)
    (fun u k hu => stopRunning_queueLength hu pcl e k) h
  refine engKeeps_own (dropRewrites_engKeeps hstopped pcl e) fun cl ⟨hwf, hlen⟩ => ⟨twf_tset hwf, ?_⟩
  rw [tget_tset_wf hwf, List.length_map, hlen]
  refine ⟨le_refl _, fun k hk => ?_⟩
  obtain ⟨k', -, rfl⟩ := List.mem_map.mp hk
  exact ⟨rfl, rfl⟩

/-- What stands in the queue of a reset engine is over, and no command has come to it. -/
theorem engReset_over (hinv : s.Inv) (hwf : twf (s.cluAt pcl).engines [] = true) : (s.engReset pcl e).engKeeps pcl (queueOver e (s.engQueue pcl e).length) := by
  have hlen : s.engKeeps pcl (queueLength e (s.engQueue pcl e).length) := ⟨hinv, hwf, rfl⟩
  have hended : (if (s.engQueue pcl e).length = 0 then s else State.completeAll pcl e (s.engQueue pcl e).length (s.endQueue pcl e)).engKeeps pcl
      (queueOver e (s.engQueue pcl e).length) := by
    by_cases h0 : (s.engQueue pcl e).length = 0
    · have hnil : tget (s.cluAt pcl).engines e [] = [] := List.length_eq_zero_iff.mp h0
      rw [if_pos h0]
      refine ⟨hinv, hwf, ?_⟩
      rw [hnil]
      exact ⟨Nat.zero_le _, fun k hk => absurd hk List.not_mem_nil⟩
    · rw [if_neg h0]
      exact queueOver_completeAll _ (endQueue_over hlen)
  unfold State.engReset
  dsimp only
  split
  · exact engKeeps_onClu hended pcl (fun _ => rfl) fun _ => rfl
  · exact hended

end

/-! ### The decision of a WSWAP (R289) -/

section

variable {pcl : Nat} {s : State}

/-- Queues in canonical form. -/
def enginesWf (E : Tbl (List Cmd)) (_ : List (Nat × Bool)) : Prop := twf E [] = true

theorem onCmd_enginesWf (h : s.engKeeps pcl enginesWf) (p n num : Nat) (f : Cmd → Cmd) : (s.onCmd p n num f).engKeeps pcl enginesWf := by
  by_cases hp : p = pcl
  · subst hp
    exact engKeeps_own h fun cl hcl => twf_tset hcl
  · refine ⟨State.onCmd_inv h.1, ?_⟩
    unfold State.onCmd
    rw [State.cluAt_onClu_other (Ne.symm hp)]
    exact h.2

theorem tell_enginesWf (h : s.engKeeps pcl enginesWf) (who : Origin) (v : Word) (st : Stamp) (flt : Option (BitVec 8)) :
    (s.tell who v st flt).engKeeps pcl enginesWf := by
  unfold State.tell
  split
  · dsimp only
    split
    · exact onCtx_engKeeps h _ _
    · exact engKeeps_onClu (onCtx_engKeeps h _ _) _ (fun _ => rfl) fun _ => rfl
  · exact onCmd_enginesWf h ..
  · exact h
  · exact h

theorem coverLine_clus (key : Nat × Nat × Nat × Nat) (pa n : Nat) (s : State) (u : Nat) : (State.coverLine key pa n s u).clus = s.clus := by
  unfold State.coverLine
  dsimp only
  split
  · rfl
  · split <;> rfl

theorem coverRow_clus (s : State) (t : Transit) : (s.coverRow t).clus = s.clus := by
  unfold State.coverRow
  split
  · rfl
  · split
    · rfl
    · exact foldl_keeps (P := fun u : State => u.clus = s.clus) (fun u a hu => (coverLine_clus ..).trans hu) rfl

theorem applyOne_enginesWf (h : s.engKeeps pcl enginesWf) (t : Transit) (err : Bool) : (s.applyOne t err).engKeeps pcl enginesWf := by
  unfold State.applyOne
  dsimp only
  have hgone : State.engKeeps pcl enginesWf { s with transit := s.transit.erase t } := engKeeps_of_clus h (State.inv_with h.1) rfl
  refine ite_keeps (tell_enginesWf hgone ..) ?_
  split
  · refine tell_enginesWf (engKeeps_of_clus hgone (State.ringMail_inv (State.coverRow_inv (applyBytes_inv hgone.1))) ?_) ..
    exact coverRow_clus ..
  · refine ite_keeps (tell_enginesWf hgone ..) (tell_enginesWf ?_ ..)
    exact engKeeps_of_clus hgone (State.ringMail_inv (applyBytes_inv hgone.1)) rfl

theorem flush_enginesWf (h : s.engKeeps pcl enginesWf) (st : Stamp) : (s.flush st).engKeeps pcl enginesWf := by
  unfold State.flush
  exact foldl_keeps (P := State.engKeeps pcl enginesWf) (fun u t hu => ite_keeps (applyOne_enginesWf hu t false) hu) h

theorem engWrite_enginesWf (h : s.engKeeps pcl enginesWf) (die : Nat) (obs : Stamp) (pa : Nat) (bs : List Byte) (bad : Bool) :
    (s.engWrite die obs pa bs bad).engKeeps pcl enginesWf := by
  unfold State.engWrite
  have hflushed := flush_enginesWf ((engKeeps_frame pcl enginesWf).stampWrite die obs h) (s.stampWrite die obs).1
  exact engKeeps_of_clus hflushed (State.ringMail_inv (applyBytes_inv hflushed.1)) rfl

theorem noteRead_wroteTo {α : Type} (s : State) (p q : Nat) (r : Except (BitVec 8 × Nat) α) : s.wroteTo (s.noteRead p q r) := by
  unfold State.noteRead
  split
  · exact ite_keeps (s.noteWalk_wroteTo _ _ _) rfl
  · rfl

theorem noteTable_wroteTo (s : State) (p q t : Nat) : s.wroteTo (s.noteTable p q t) := by
  unfold State.noteTable
  dsimp only
  split
  · exact noteRead_wroteTo ..
  · exact ite_keeps rfl (noteRead_wroteTo ..)

/-! ### Waiters that are woken -/

variable {Q : Tbl (List Cmd) → List (Nat × Bool) → Prop}

theorem editRecord_engKeeps (h : s.engKeeps pcl Q) (p q l n : Nat) (a : Word) (st : Stamp) (f : List Byte → List Byte) :
    (s.editRecord p q l n a st f).1.engKeeps pcl Q := by
  have hfailed : ∀ (u : State) (c : BitVec 8), u.engKeeps pcl Q → (u.recordFailed q l n c a).engKeeps pcl Q := fun u c hu =>
    engKeeps_of_clus hu (State.recordFailed_inv hu.1) rfl
  unfold State.editRecord
  dsimp only
  split
  · exact hfailed _ _ (engKeeps_wroteTo h (State.noteRead_inv h.1) (noteRead_wroteTo ..))
  · have hstored : ∀ bs, (s.vstore p q st a.toNat bs).1.engKeeps pcl Q := fun bs => engKeeps_wroteTo h (State.vstore_inv h.1) (vstore_wroteTo ..)
    split
    · exact hstored _
    · exact hfailed _ _ (hstored _)

theorem takeExpiry_clus (s : State) (p l n : Nat) : (s.takeExpiry p l n).2.clus = s.clus := by
  unfold State.takeExpiry
  dsimp only
  split <;> rfl

theorem enterReady_engKeeps (h : s.engKeeps pcl Q) (p q l n : Nat) (a : Word) (prio : BitVec 3) (rd : Option (Reg × Option (Nat × Nat))) :
    (s.enterReady p q l n a prio rd).engKeeps pcl Q := by
  unfold State.enterReady
  have hready := engKeeps_onClu h p (f := fun cl => { cl with ready := cl.ready ++ [⟨q, l, n, a, prio, 0, s.uid, rd⟩] }) (fun _ => rfl) fun _ => rfl
  exact engKeeps_of_clus hready (State.inv_with hready.1) rfl

theorem wake_engKeeps (h : s.engKeeps pcl Q) (w : Waiter) : (s.wake w).engKeeps pcl Q := by
  have hgone : State.engKeeps pcl Q { s with waiters := s.waiters.erase w } := engKeeps_of_clus h (State.inv_with h.1) rfl
  have htaken := engKeeps_of_clus hgone (State.takeExpiry_inv hgone.1) (takeExpiry_clus _ w.part w.launch w.strand)
  unfold State.wake
  dsimp only
  exact ite_keeps (enterReady_engKeeps (editRecord_engKeeps htaken ..) ..) (editRecord_engKeeps htaken ..)

theorem phaseDone_engKeeps (h : s.engKeeps pcl Q) (p l g : Nat) (ph : BitVec 32) (st : Stamp) : (s.phaseDone p l g ph st).engKeeps pcl Q := by
  unfold State.phaseDone State.wakeAll
  refine foldl_keeps (P := State.engKeeps pcl Q) (fun u w hu => wake_engKeeps hu w) ?_
  exact foldl_keeps (P := State.engKeeps pcl Q) (fun u e hu => (engKeeps_frame pcl Q).waitEnd 4 0 (onCtx_engKeeps hu _ _)) h

end

end Sys2Proof.Machine
end
section
namespace Sys2Proof.Machine

/-! ### The head of an engine's queue -/

section

variable {s : State} {pcl n : Nat} {k : Cmd} {r : List Cmd}

/-- The head of a queue is replaced, and nothing else of it. -/
theorem engQueue_putHead (hinv : s.Inv) (hwf : twf (s.cluAt pcl).engines [] = true) (hq : s.engQueue pcl n = k :: r) (k' : Cmd) :
    (s.putHead pcl n k').engQueue pcl n = k' :: r := by
  have hq' : tget (s.cluAt pcl).engines n [] = k :: r := hq
  rw [State.engQueue, State.putHead, State.cluAt_onClu_same hinv.clus, hq']
  exact tget_tset_wf hwf

theorem putHead_pool (hinv : s.Inv) (k' : Cmd) : ((s.putHead pcl n k').cluAt pcl).pool = (s.cluAt pcl).pool := by
  rw [State.putHead, State.cluAt_onClu_same hinv.clus]

theorem sample_cluster (hinv : s.Inv) (p src : Nat) (v : BitVec 32) :
    ((s.sample p src v).cluAt p).engines = (s.cluAt p).engines ∧ ((s.sample p src v).cluAt p).pool = (s.cluAt p).pool := by
  rw [State.sample, State.cluAt_onClu_same hinv.clus]
  exact ⟨rfl, rfl⟩

theorem takeSlot_fields (cl : Cluster) (c : Nat) : (cl.takeSlot c).engines = cl.engines := by
  unfold Cluster.takeSlot
  split <;> rfl

/-! ### Starts (R274, R298) -/

theorem exec_engineCommandStart (pcl : Nat) (e : CEng) (s : State) : exec (.engineCommandStart pcl e) s = execEngineCommandStart pcl e s := rfl
theorem exec_engineChunk (pcl : Nat) (e : CEng) (s : State) : exec (.engineChunk pcl e) s = execEngineChunk pcl e s := rfl
theorem exec_engineCommandCompletion (pcl : Nat) (e : CEng) (s : State) :
    exec (.engineCommandCompletion pcl e) s = execEngineCommandCompletion pcl e s := rfl
theorem exec_wswapDecision (pcl : Nat) (s : State) : exec (.wswapDecision pcl) s = execWswapDecision pcl s := rfl
theorem exec_engineReset (pcl : Nat) (e : CEng) (s : State) : exec (.engineReset pcl e) s = execEngineReset pcl e s := rfl

theorem engineReset_next {e : CEng} (he : e ≠ .wsc) (hp : pcl < 40) : exec (.engineReset pcl e) s = .next (s.engReset pcl (CEng.num e)) := by
  rw [exec_engineReset, execEngineReset, atClu_of_lt hp]
  cases e with
  | wsc => exact absurd rfl he
  | copy0 | copy1 | copy2 | copy3 | gs | coll | twu => rfl

/-- A command that no collective is has nobody to tell of its loss. -/
theorem collLost_plain (h : k.fn ≠ 0x20) : s.collLost pcl k = s := by
  have hfn : (k.fn != 0x20) = true := bne_iff_ne.mpr h
  rw [State.collLost, hfn, Bool.true_or, if_pos rfl]

/-- A wait that brought the error bit ends the command. -/
theorem cmdStart_bad (hq : s.engQueue pcl n = k :: r) (ht : s.mgr.tripped = false) (hs : k.started = false) (hb : k.bad = true) (hfn : k.fn ≠ 0x20) :
    s.cmdStart pcl n = s.putHead pcl n (k.finish 1 0x10) := by
  unfold State.cmdStart
  simp only [hq, hs, ht, hb, Bool.or_self, Bool.false_eq_true, if_false, if_true]
  exact collLost_plain hfn

/-- The functions that do nothing more at their start than to be running. -/
def startsPlain (fn : BitVec 7) : Prop := fn.toNat < 0x20 ∨ fn = 0x30 ∨ fn = 0x31 ∨ fn = 0x38 ∨ fn = 0x60

theorem begin_plain (h : startsPlain k.fn) (u : State) : Cmd.begin pcl k u = ({ k with started := true }, u) := by
  have hne : k.fn ≠ 0x20 ∧ k.fn ≠ 0x50 ∧ ¬ (0x40 ≤ k.fn.toNat ∧ k.fn.toNat ≤ 0x48) := by
    rcases h with h | h | h | h | h
    · refine ⟨fun e => ?_, fun e => ?_, fun ⟨h1, _⟩ => by omega⟩
      · rw [e] at h
        exact absurd h (by decide)
      · rw [e] at h
        exact absurd h (by decide)
    all_goals rw [h]; decide
  obtain ⟨h20, h50, hwatch⟩ := hne
  have hwatch' : ¬ (0x40 ≤ k.fn.toNat && k.fn.toNat ≤ 0x48) = true := by simpa using hwatch
  unfold Cmd.begin
  dsimp only
  rw [if_neg h20, if_neg h50, if_neg hwatch']

/-- A command that is admitted starts: it draws its energy, and it is running. -/
theorem cmdStart_starts (hinv : s.Inv) (hwf : twf (s.cluAt pcl).engines [] = true) (hq : s.engQueue pcl n = k :: r) (ht : s.mgr.tripped = false)
    (hs : k.started = false) (hr : k.ready = true) (hb : k.bad = false) (he : k.energy ≤ poolOf (s.cluAt pcl) / 2) (hp : k.energy ≤ (s.cluAt pcl).pool)
    (hslot : (s.cluAt pcl).slotFree k.cls = true) (hfn : startsPlain k.fn) :
    ∃ k', (s.cmdStart pcl n).engQueue pcl n = k' :: r ∧ k'.started = true ∧ k'.done = k.done ∧
      ((s.cmdStart pcl n).cluAt pcl).pool = (s.cluAt pcl).pool - k.energy ∧ (s.cmdStart pcl n).mem = s.mem := by
  let u := s.setClu pcl { (s.cluAt pcl).takeSlot k.cls with pool := (s.cluAt pcl).pool - k.energy }
  have hu : u.Inv := State.setClu_inv hinv
  have hclu : (u.cluAt pcl).engines = (s.cluAt pcl).engines ∧ (u.cluAt pcl).pool = (s.cluAt pcl).pool - k.energy := by
    rw [State.cluAt_setClu_same hinv.clus]
    exact ⟨takeSlot_fields _ _, rfl⟩
  obtain ⟨v, hv⟩ : ∃ v, v = if k.bytes.isEmpty then u else if k.waited then u.sampleFree pcl 5 else u.sampleNat pcl 5 0 := ⟨_, rfl⟩
  have hvs : v.Inv ∧ (v.cluAt pcl).engines = (u.cluAt pcl).engines ∧ (v.cluAt pcl).pool = (u.cluAt pcl).pool ∧ v.mem = s.mem := by
    rw [hv]
    split
    · exact ⟨hu, rfl, rfl, rfl⟩
    · split
      · obtain ⟨h1, h2⟩ := sample_cluster hu pcl 5 (Config.freeSample u.free)
        exact ⟨State.inv_with (State.sample_inv hu), h1, h2, rfl⟩
      · obtain ⟨h1, h2⟩ := sample_cluster hu pcl 5 (BitVec.ofNat 32 (min 0 (2 ^ 32 - 1)))
        exact ⟨State.sample_inv hu, h1, h2, rfl⟩
  obtain ⟨hvinv, hve, hvp, hvm⟩ := hvs
  let k' : Cmd := { k with slot := true, drawn := true, waited := false, started := true }
  have hrun : s.cmdStart pcl n = v.putHead pcl n k' := by
    have hb' : ¬ (!(s.cluAt pcl).slotFree k.cls || (s.cluAt pcl).pool < k.energy) = true := by
      rw [hslot, decide_eq_false (Nat.not_lt.mpr hp)]
      decide
    unfold State.cmdStart
    simp only [hq, hs, ht, hb, hr, Bool.or_self, Bool.not_true, Bool.false_eq_true, if_false]
    unfold State.takeOn
    dsimp only
    rw [if_neg (Nat.not_lt.mpr he), if_neg hb', ← hv, begin_plain (k := { k with slot := true, drawn := true, waited := false }) hfn]
  have hvq : v.engQueue pcl n = k :: r := by
    rw [State.engQueue, hve, hclu.1]
    exact hq
  rw [hrun]
  refine ⟨k', engQueue_putHead hvinv (by rw [hve, hclu.1]; exact hwf) hvq k', rfl, rfl, ?_, hvm⟩
  rw [putHead_pool hvinv, hvp, hclu.2]

end

/-! ### The chunk of CQRY (R288) -/

section

variable {s : State} {pcl n : Nat} {k : Cmd} {r : List Cmd}

/-- The one chunk of a CQRY reads its counter, and the command is done. -/
theorem cmdChunk_cqry (hq : s.engQueue pcl n = k :: r) (ht : s.mgr.tripped = false) (hfn : k.fn = 0x60) (hs : k.started = true) (hd : k.done = false)
    (hl : k.left = 0) (hdrawn : k.drawn = true) (hw : k.waited = false) (ho : k.out = []) (hk : s.kept ≤ 2 ^ 20) (hrs2 : k.rs2 = 0) :
    let a := eventOf k.who.pcl k.rs1.toNat
    s.cmdChunk pcl n 4096 = s.putHead pcl n { k with
      pos := 1, result := ((s.cluAt a.1).counter a.2).val, obs := k.obs.max ((s.cluAt a.1).counter a.2).stamp
      drawn := false, far := [], early := [], done := true } := by
  intro a
  let k' : Cmd := { k with pos := 1, result := ((s.cluAt a.1).counter a.2).val, obs := k.obs.max ((s.cluAt a.1).counter a.2).stamp }
  have hsame : ({ k with drawn := true, waited := false } : Cmd) = k := by rw [← hdrawn, ← hw]
  have hchunk : Cmd.chunk pcl n 4096 k s = .ok k' s := by
    have hvalue : cqryValue s k = ((s.cluAt a.1).counter a.2).val := if_pos hrs2
    unfold Cmd.chunk
    rw [if_neg (by rw [hfn]; decide), if_pos hfn, hvalue]
    rfl
  have hend : k'.chunkEnd = true := by
    have hnum : k'.fn.toNat = 96 := by rw [show k'.fn = 0x60 from hfn]; rfl
    simp only [Cmd.chunkEnd, hnum]
    rfl
  have hfin : (decide (k'.total ≤ k'.pos) && (k'.fn != 0x20 || decide (k'.stage = 2))) = true := by
    have hnum : k'.fn.toNat = 96 := by rw [show k'.fn = 0x60 from hfn]; rfl
    have htotal : k'.total = 1 := by
      simp only [Cmd.total, hnum]
      rfl
    rw [htotal, show k'.fn = 0x60 from hfn]
    rfl
  have habsent : outAbsent k' s = false := by rw [outAbsent, show k'.out = [] from ho, List.any_nil]
  have hsend : sendOut pcl n k' s = (k', s) := by
    have hout : ({ k' with out := [] } : Cmd) = k' := by rw [← show k'.out = [] from ho]
    rw [sendOut, show k'.out = [] from ho, hout]
    rfl
  have hdone : chunkDone pcl n (.ok k' s) = s.putHead pcl n { k' with drawn := false, far := [], early := [], done := true } := by
    simp only [chunkDone, hend, sendThen, habsent, hsend, Bool.not_true, Bool.false_eq_true, if_false]
    rw [hfin]
  have hkept : (chunkDone pcl n (.ok k' s)).kept = s.kept := by
    rw [hdone]
    rfl
  have hfn50 : k.fn ≠ 0x50 := by
    rw [hfn]
    decide
  have hrun : ¬ (!k.started || k.done || k.left != 0 || s.mgr.tripped || decide (k.fn = 0x50)) = true := by
    rw [hs, hd, hl, ht, decide_eq_false hfn50]
    decide
  have henergy : ¬ (!k.drawn && decide ((s.cluAt pcl).pool < k.energy)) = true := by
    rw [hdrawn]
    exact Bool.false_ne_true
  unfold State.cmdChunk
  rw [hq]
  dsimp only
  rw [if_neg hrun, if_neg henergy, if_pos hdrawn, if_neg (ne_true_of_eq_false hw), hsame, hchunk, hkept, if_neg (Nat.not_lt.mpr hk), chunkSample, hkept,
    if_neg (Nat.lt_irrefl _), hdone]

/-! ### Completions of plain commands (R276) -/

/-- The command has no record, no slot and no tile. -/
structure Cmd.bare (k : Cmd) : Prop where
  bytes : k.bytes = []
  slot : k.slot = false
  grans : k.grans = []
  rgs : k.rgs = []
  gwrites : k.gwrites = []
  notes : k.notes = []

/-- Such a command leaves its queue and is delivered. -/
theorem complete1_bare (hinv : s.Inv) (hk : k.bare) : s.complete1 pcl n k =
    ((s.onClu pcl fun cl => { cl with engines := tset cl.engines n ((tget cl.engines n []).drop 1) [] }).deliverCmd k).testQueues pcl := by
  obtain ⟨hbytes, hslot, hgrans, hrgs, hgwrites, hnotes⟩ := hk
  have hsame : s.onCtx k.who (fun x => x) = s := State.setCtx_ctxAt hinv.others k.who
  have hflip : s.flip k.who [] [] false = s := hsame
  have hsignals : ∀ u : State, u.signals pcl n k = u := fun u => by
    rw [State.signals, hbytes]
    rfl
  have hunit : s.onCtx k.who (fun x => x.unitWrites []) = s := hsame
  unfold State.complete1
  simp only [hbytes, hslot, hgrans, hrgs, hgwrites, hnotes, List.isEmpty_nil, if_true, hunit, hflip, Bool.false_eq_true, if_false, hsignals, List.foldl_nil]

theorem pushes_bare (hk : k.bytes = []) : k.pushes = [] := by
  rw [Cmd.pushes, hk]
  rfl

/-- A command without tokens, reply and wait tells its strand nothing that a cluster or memory holds. -/
theorem deliverCmd_silent (hk : k.bytes = []) (hreply : k.reply = false) (hwait : k.wait = false) :
    (s.deliverCmd k).clus = s.clus ∧ (s.deliverCmd k).mem = s.mem := by
  unfold State.deliverCmd
  simp only [pushes_bare hk, hreply, hwait, Bool.false_eq_true, if_false, List.foldl_nil, List.map_nil, List.append_nil]
  split
  · exact ⟨rfl, rfl⟩
  · split
    · exact ⟨State.onCtx_clus .., State.onCtx_mem ..⟩
    · exact ⟨rfl, rfl⟩

/-- The reply of a command reaches its strand. -/
theorem deliverCmd_reply (hk : k.bytes = []) (hreply : k.reply = true) (hwait : k.wait = false) (hfn : k.fn ≠ 0x38) (hst : k.status = 0)
    (hheard : k.heard s = true) (hhalt : (s.ctxAt k.who).halted = false) :
    s.deliverCmd k = { s with free := s.free + 1 }.onCtx k.who fun x => x.replyLate k.rd.toNat k.result := by
  have hvalue : k.replyValue s.free = k.result := by
    simp only [Cmd.replyValue, hk, decide_eq_false hfn, List.isEmpty_nil, Bool.not_true, Bool.false_and, Bool.or_self, Bool.false_eq_true, if_false, hst, if_true]
  have hheard' : k.heard { s with free := s.free + 1 } = true := hheard
  have hhalt' : (State.ctxAt { s with free := s.free + 1 } k.who).halted = false := hhalt
  unfold State.deliverCmd
  simp only [hvalue, hheard', hhalt', hreply, hwait, pushes_bare hk, Bool.not_true, Bool.false_eq_true, if_false, if_true, List.foldl_nil]

theorem resetOver_keeps (s : State) (p e : Nat) : (s.resetOver p e).mem = s.mem ∧ ∀ c, (s.resetOver p e).ctxAt c = s.ctxAt c := by
  unfold State.resetOver
  split
  · exact ⟨rfl, fun _ => rfl⟩
  · exact ⟨rfl, fun _ => rfl⟩

theorem cmdComplete_head (hq : s.engQueue pcl n = k :: r) (hs : k.started = true) (hd : k.done = true) (hl : k.left = 0) (hsig : signalOut s pcl n k = false)
    (ht : s.mgr.tripped = false) : s.cmdComplete pcl n = (s.complete1 pcl n k).resetOver pcl n := by
  unfold State.cmdComplete
  simp only [hq, hs, hd, hl, hsig, ht, decide_true, Bool.not_false, Bool.and_self, if_true]

/-- A completion shortens its queue by its head. -/
theorem cmdComplete_length (hinv : s.Inv) (hwf : twf (s.cluAt pcl).engines [] = true) (hq : s.engQueue pcl n = k :: r) (hs : k.started = true)
    (hd : k.done = true) (hl : k.left = 0) (hsig : signalOut s pcl n k = false) (ht : s.mgr.tripped = false) :
    ((s.cmdComplete pcl n).engQueue pcl n).length = r.length := by
  have hlen : (tget (s.cluAt pcl).engines n []).length = r.length + 1 := congrArg List.length hq
  have hstart : s.engKeeps pcl (queueLength n (r.length + 1)) := ⟨hinv, hwf, hlen⟩
  rw [cmdComplete_head hq hs hd hl hsig ht]
  exact (resetOver_engKeeps (queueLength_complete hstart k) pcl n).2.2

/-- The completion of a command with a reply. -/
theorem cmdComplete_reply (hinv : s.Inv) (hq : s.engQueue pcl n = k :: r) (hs : k.started = true)
    (hd : k.done = true) (hl : k.left = 0) (ht : s.mgr.tripped = false) (hk : k.bare) (hst : k.status = 0) (hfn : k.fn ≠ 0x38) (hreply : k.reply = true)
    (hwait : k.wait = false) (hheard : k.heard s = true) (hhalt : (s.ctxAt k.who).halted = false) :
    (s.cmdComplete pcl n).ctxAt k.who = (s.ctxAt k.who).replyLate k.rd.toNat k.result ∧ (s.cmdComplete pcl n).mem = s.mem := by
  have hsig : signalOut s pcl n k = false := by rw [signalOut, decide_eq_false hfn, Bool.false_and]
  let u := s.onClu pcl fun cl => { cl with engines := tset cl.engines n ((tget cl.engines n []).drop 1) [] }
  have hdeliver : u.deliverCmd k = { u with free := u.free + 1 }.onCtx k.who fun x => x.replyLate k.rd.toNat k.result :=
    deliverCmd_reply hk.bytes hreply hwait hfn hst hheard hhalt
  obtain ⟨hmem, hctx⟩ := resetOver_keeps (s.complete1 pcl n k) pcl n
  rw [cmdComplete_head hq hs hd hl hsig ht, hctx, hmem, complete1_bare hinv hk]
  rw [show (s.onClu pcl fun cl => { cl with engines := tset cl.engines n ((tget cl.engines n []).drop 1) [] }).deliverCmd k = _ from hdeliver]
  refine ⟨?_, State.onCtx_mem ..⟩
  exact State.ctxAt_onCtx_same (s := { u with free := u.free + 1 }) hinv.others k.who _

end

/-! ### The reset of an engine with one queued command (R381) -/

section

variable {s : State} {pcl n : Nat} {k : Cmd}

theorem dropRewrites_fields (s : State) (pcl n : Nat) :
    (s.dropRewrites pcl n).mem = s.mem ∧ (s.dropRewrites pcl n).adds = s.adds ∧ (s.dropRewrites pcl n).mgr = s.mgr := by
  unfold State.dropRewrites
  refine foldl_keeps (P := fun t : State => t.mem = s.mem ∧ t.adds = s.adds ∧ t.mgr = s.mgr) (fun t c h => ?_) ⟨rfl, rfl, rfl⟩
  exact h

/-- A command that a reset has ended. -/
def Cmd.resetEnd (k : Cmd) (left : Nat) : Cmd := { k.finish 1 0x10 with out := [], stop := none, left := left }

/-- The queue of a reset engine that held one queued command. -/
theorem endQueue_single (hinv : s.Inv) (hwf : twf (s.cluAt pcl).engines [] = true) (hq : s.engQueue pcl n = [k]) (hs : k.started = false) (hfn : k.fn ≠ 0x20)
    (hfn2 : k.fn ≠ 0x02) (hl : k.left = 0) : let t := s.endQueue pcl n
    t.Inv ∧ t.engQueue pcl n = [k.resetEnd 0] ∧ ((t.cluAt pcl).resetting.contains n) = true ∧ t.mem = s.mem ∧ t.adds = s.adds ∧ t.mgr = s.mgr := by
  intro t
  have hd : (s.dropRewrites pcl n).engKeeps pcl fun E _ => twf E [] = true ∧ tget E n [] = [k] := dropRewrites_engKeeps ⟨hinv, hwf, hq⟩ pcl n
  obtain ⟨hdinv, hdwf, hdq⟩ := hd
  obtain ⟨hmem, hadds, hmgr⟩ := dropRewrites_fields s pcl n
  have hstop : s.stopRunning pcl n k = s := by
    rw [State.stopRunning, hs, collLost_plain hfn]
    rfl
  have hleft : ∀ u, leftOf u pcl n k = 0 := fun u => by rw [leftOf, if_neg hfn2, hl]
  have ht : t = (s.dropRewrites pcl n).onClu pcl fun cl => { cl with
      engines := tset cl.engines n ((tget cl.engines n []).map fun j => j.resetEnd (leftOf (s.dropRewrites pcl n) pcl n j)) []
      resetting := n :: cl.resetting.filter (· != n) } := by
    unfold t State.endQueue
    rw [hq, List.foldl_cons, List.foldl_nil, hstop]
    rfl
  have hclu := State.cluAt_onClu_same hdinv.clus pcl fun cl => { cl with
      engines := tset cl.engines n ((tget cl.engines n []).map fun j => j.resetEnd (leftOf (s.dropRewrites pcl n) pcl n j)) []
      resetting := n :: cl.resetting.filter (· != n) }
  rw [← ht] at hclu
  refine ⟨by rw [ht]; exact State.onClu_inv hdinv, ?_, ?_, ?_, ?_, ?_⟩
  · rw [State.engQueue, hclu]
    show tget (tset _ n _ []) n [] = _
    rw [tget_tset_wf hdwf, hdq, List.map_cons, List.map_nil, hleft]
  · rw [hclu]
    exact List.contains_iff_mem.mpr List.mem_cons_self
  · rw [ht]
    exact hmem
  · rw [ht]
    exact hadds
  · rw [ht]
    exact hmgr

theorem not_contains_filter_ne (l : List Nat) (n : Nat) : (l.filter (· != n)).contains n = false := by
  simp

/-- A reset that completes its one command is over. -/
theorem cmdComplete_reset (hinv : s.Inv) (hwf : twf (s.cluAt pcl).engines [] = true) (hq : s.engQueue pcl n = [k]) (hs : k.started = true)
    (hd : k.done = true) (hl : k.left = 0) (hadds : s.adds = []) (ht : s.mgr.tripped = false) (hk : k.bare) (hreply : k.reply = false)
    (hwait : k.wait = false) (hreset : (s.cluAt pcl).resetting.contains n = true) :
    (s.cmdComplete pcl n).engQueue pcl n = [] ∧ ((s.cmdComplete pcl n).cluAt pcl).resetting.contains n = false ∧ (s.cmdComplete pcl n).mem = s.mem ∧
      (s.cmdComplete pcl n).Inv := by
  have hsig : signalOut s pcl n k = false := by rw [signalOut, hadds, List.any_nil, Bool.and_false]
  let u := s.onClu pcl fun cl => { cl with engines := tset cl.engines n ((tget cl.engines n []).drop 1) [] }
  have hu : u.Inv := State.onClu_inv hinv
  obtain ⟨hclus, hmem⟩ := deliverCmd_silent (s := u) hk.bytes hreply hwait
  let v := (u.deliverCmd k).testQueues pcl
  have hvinv : v.Inv := State.testQueues_inv (State.deliverCmd_inv hu)
  have hvclu : v.cluAt pcl = { (u.deliverCmd k).cluAt pcl with
      engines := ((u.deliverCmd k).cluAt pcl).engines.map fun e => (e.1, testWaits (u.deliverCmd k) e.2) } :=
    State.cluAt_onClu_same (State.deliverCmd_inv hu).clus ..
  have hdclu : (u.deliverCmd k).cluAt pcl = u.cluAt pcl := by rw [State.cluAt, hclus]; rfl
  have huclu := State.cluAt_onClu_same hinv.clus pcl fun cl => { cl with engines := tset cl.engines n ((tget cl.engines n []).drop 1) [] }
  have huq : u.engQueue pcl n = [] := by
    have hq' : tget (s.cluAt pcl).engines n [] = [k] := hq
    rw [State.engQueue, show u.cluAt pcl = _ from huclu, hq']
    exact tget_tset_wf hwf
  have hvq : v.engQueue pcl n = [] := by
    rw [State.engQueue_testQueues (State.deliverCmd_inv hu), State.engQueue, hdclu, show tget (u.cluAt pcl).engines n [] = [] from huq]
    rfl
  have hvreset : (v.cluAt pcl).resetting = (s.cluAt pcl).resetting := by
    rw [hvclu, hdclu, show u.cluAt pcl = _ from huclu]
  have hover : s.cmdComplete pcl n = v.onClu pcl fun cl => { cl with resetting := cl.resetting.filter (· != n) } := by
    rw [cmdComplete_head hq hs hd hl hsig ht, complete1_bare hinv hk]
    refine if_pos ?_
    rw [show State.engQueue _ pcl n = [] from hvq, show (State.cluAt _ pcl).resetting = _ from hvreset, hreset]
    rfl
  have hclu := State.cluAt_onClu_same hvinv.clus pcl fun cl => { cl with resetting := cl.resetting.filter (· != n) }
  rw [← hover] at hclu
  refine ⟨?_, ?_, ?_, ?_⟩
  · rw [State.engQueue, hclu]
    exact hvq
  · rw [hclu]
    exact not_contains_filter_ne ..
  · rw [hover]
    exact hmem
  · rw [hover]
    exact State.onClu_inv hvinv

/-- The reset of an engine with one queued command that waits for nothing. -/
theorem engReset_single (hinv : s.Inv) (hwf : twf (s.cluAt pcl).engines [] = true) (hq : s.engQueue pcl n = [k]) (hs : k.started = false) (hfn : k.fn ≠ 0x20)
    (hfn2 : k.fn ≠ 0x02) (hl : k.left = 0) (hadds : s.adds = []) (ht : s.mgr.tripped = false) (hk : k.bare) (hreply : k.reply = false) (hwait : k.wait = false) :
    (s.engReset pcl n).engQueue pcl n = [] ∧ ((s.engReset pcl n).cluAt pcl).resetting.contains n = false ∧ (s.engReset pcl n).mem = s.mem ∧
      (n = 6 → ((s.engReset pcl n).cluAt pcl).tw = []) := by
  have hended := endQueue_over (e := n) (L := (s.engQueue pcl n).length) ⟨hinv, hwf, rfl⟩
  obtain ⟨heinv, heq, hereset, hemem, headds, hemgr⟩ := endQueue_single hinv hwf hq hs hfn hfn2 hl
  have hbare : (k.resetEnd 0).bare := ⟨hk.bytes, hk.slot, hk.grans, hk.rgs, hk.gwrites, hk.notes⟩
  obtain ⟨hq', hreset, hmem, hcinv⟩ := cmdComplete_reset heinv hended.2.1 heq rfl rfl rfl (headds.trans hadds) (by rw [hemgr]; exact ht) hbare hreply hwait hereset
  have hrun : s.engReset pcl n = if n = 6 then ((s.endQueue pcl n).cmdComplete pcl n).clearSlots pcl else (s.endQueue pcl n).cmdComplete pcl n := by
    unfold State.engReset
    rw [hq]
    rfl
  rw [hrun]
  split
  · have hclu := State.cluAt_onClu_same hcinv.clus pcl fun cl => { cl with tw := [] }
    refine ⟨?_, ?_, hmem.trans hemem, fun _ => ?_⟩
    · rw [State.engQueue, State.clearSlots, hclu]
      exact hq'
    · rw [State.clearSlots, hclu]
      exact hreset
    · rw [State.clearSlots, hclu]
  · exact ⟨hq', hreset, hmem.trans hemem, fun h => absurd h ‹_›⟩

end

/-! ### The decision of a WSWAP (R289) -/

section

variable {s : State} {pcl : Nat} {k : Cmd}

/-- Whether a resident-weight table shows every shard present and none flagged. -/
def tableGood (t : Except (BitVec 8) WTable) : Bool :=
  match t with
  | .ok w => w.present = 2 ^ w.n - 1 && w.flagged = 0
  | .error _ => false

/-- The state that the decision leaves, from the state `u` in which the pointer word is as the decision has it. -/
def State.swapEnds (u : State) (pcl : Nat) (k' : Cmd) (pa : Nat) (v : GroupView) : State :=
  let st := (u.stampWrite (dieOf pcl) k'.obs).1
  let f := (u.stampWrite (dieOf pcl) k'.obs).2.flush st
  let p := (f.onPart k'.part fun q => { q with swaps := q.swaps.filter fun w => w.1 != pa }).putHead pcl 7 k'
  let t := applyBytes p pa (groupBytes { groupAt p pa with arrivals := 0, phase := v.phase + 1 }) false st
  t.phaseDone k'.part k'.launch k'.group v.phase (tget t.stamps (pa / 64) {})

/-- The head of the queue after the decision is the command, over. -/
theorem swapEnds_head {u : State} (hu : u.engKeeps pcl enginesWf) (k' : Cmd) (pa : Nat) (v : GroupView) :
    ((u.swapEnds pcl k' pa v).engQueue pcl 7).head? = some k' := by
  have hflushed := flush_enginesWf ((engKeeps_frame pcl enginesWf).stampWrite (dieOf pcl) k'.obs hu) (u.stampWrite (dieOf pcl) k'.obs).1
  have hpart := (engKeeps_frame pcl enginesWf).setPart k'.part
    { ((u.stampWrite (dieOf pcl) k'.obs).2.flush (u.stampWrite (dieOf pcl) k'.obs).1).partAt k'.part with
      swaps := (((u.stampWrite (dieOf pcl) k'.obs).2.flush (u.stampWrite (dieOf pcl) k'.obs).1).partAt k'.part).swaps.filter fun w => w.1 != pa } hflushed
  have hput : State.engKeeps pcl (fun E _ => (tget E 7 []).head? = some k')
      ((((u.stampWrite (dieOf pcl) k'.obs).2.flush (u.stampWrite (dieOf pcl) k'.obs).1).onPart k'.part fun q =>
        { q with swaps := q.swaps.filter fun w => w.1 != pa }).putHead pcl 7 k') := by
    refine engKeeps_own hpart fun cl hcl => ?_
    show (tget (tset _ 7 _ []) 7 []).head? = some k'
    rw [tget_tset_wf hcl]
    rfl
  exact (phaseDone_engKeeps ((engKeeps_frame pcl _).bytes pa _ false _ hput) ..).2

/-- The decision: the pointer word is switched where the table is good and the word is mapped. -/
theorem decideSwap_spec (hs : s.engKeeps pcl enginesWf) (pa : Nat) (v : GroupView) :
    ∃ (u : State) (k' : Cmd), s.decideSwap pcl k pa v = u.swapEnds pcl k' pa v ∧ u.engKeeps pcl enginesWf ∧ k'.done = true ∧ (k'.status = 0 ∨ k'.status = 4) := by
  have hwalk : ∀ p q a, (s.noteWalk p q a).engKeeps pcl enginesWf := fun p q a => (engKeeps_frame pcl _).noteWalk p q a hs
  have htable : ∀ p q a, (s.noteTable p q a).engKeeps pcl enginesWf := fun p q a => engKeeps_wroteTo hs (State.noteTable_inv hs.1) (noteTable_wroteTo ..)
  unfold State.decideSwap
  dsimp only
  refine ⟨_, _, rfl, ?_, ?_, ?_⟩
  · split
    · exact engWrite_enginesWf hs ..
    · exact hwalk _ _ _
    · exact htable _ _ _
    · exact hs
  · split
    · rfl
    · rfl
  · split
    · exact .inl rfl
    · exact .inr rfl

end

/-! ### What the decision writes -/

section

variable {s : State} {pcl : Nat} {k : Cmd}

/-- Nothing is under way and nobody waits: the decision writes the entry, and nothing else. -/
theorem swapEnds_mem {u : State} (hinv : u.Inv) (htransit : u.transit = []) (hw : u.waiters = []) (hfull : u.logsFull) (k' : Cmd) (pa : Nat) (v : GroupView) :
    (u.swapEnds pcl k' pa v).mem = storeBytes u.mem pa (groupBytes { groupAt u pa with arrivals := 0, phase := v.phase + 1 }) := by
  let f := (u.stampWrite (dieOf pcl) k'.obs).2
  have hflush : (u.stampWrite (dieOf pcl) k'.obs).2.flush (u.stampWrite (dieOf pcl) k'.obs).1 = (u.stampWrite (dieOf pcl) k'.obs).2 := by
    rw [State.flush, show (u.stampWrite (dieOf pcl) k'.obs).2.transit = [] from htransit]
    rfl
  let p := (f.onPart k'.part fun q => { q with swaps := q.swaps.filter fun w => w.1 != pa }).putHead pcl 7 k'
  let t := applyBytes p pa (groupBytes { groupAt p pa with arrivals := 0, phase := v.phase + 1 }) false (u.stampWrite (dieOf pcl) k'.obs).1
  have hf : f.Inv := State.stampWrite_inv hinv
  have hpart : (f.onPart k'.part fun q => { q with swaps := q.swaps.filter fun w => w.1 != pa }).Inv := State.onPart_inv hf
  have hfull' : p.logsFull := State.logsFull.onClu hpart hfull pcl fun _ => ⟨rfl, rfl⟩
  have ht : t.phaseTold t := ⟨applyBytes_inv (State.onClu_inv hpart), rfl, rfl, rfl, hfull'⟩
  have hdone := (ht.phaseDone hw k'.part k'.launch k'.group v.phase (tget t.stamps (pa / 64) {})).mem
  have hrun : u.swapEnds pcl k' pa v = t.phaseDone k'.part k'.launch k'.group v.phase (tget t.stamps (pa / 64) {}) := by
    unfold State.swapEnds
    dsimp only
    rw [hflush]
  rw [hrun]
  exact hdone

/-- The decision with a good table and a mapped pointer word. -/
theorem decideSwap_good {w : WTable} {q : Nat} (ht : readTable s k.who.pcl k.part (bodyA k.bytes).toNat = .ok w)
    (hq : translate s k.who.pcl k.part (bodyB k.bytes).toNat .store = .ok q) (hgood : w.present = 2 ^ w.n - 1 ∧ w.flagged = 0) (pa : Nat) (v : GroupView) :
    s.decideSwap pcl k pa v = (s.engWrite (dieOf pcl) k.obs q (toLE 8 (bodyA k.bytes).toNat) false).swapEnds pcl { k.finish 0 0 with moved := 8 } pa v := by
  obtain ⟨hp, hf⟩ := hgood
  unfold State.decideSwap
  simp only [ht, hq, hp, hf, decide_true, Bool.and_self, if_true, Except.map]
  rfl

/-- The decision with a table that misses a shard or has one flagged. -/
theorem decideSwap_kept {w : WTable} (ht : readTable s k.who.pcl k.part (bodyA k.bytes).toNat = .ok w)
    (hbad : ¬ (w.present = 2 ^ w.n - 1 ∧ w.flagged = 0)) (pa : Nat) (v : GroupView) : s.decideSwap pcl k pa v = s.swapEnds pcl (k.finish 4 0) pa v := by
  have hbad' : (decide (w.present = 2 ^ w.n - 1) && decide (w.flagged = 0)) = false := by simpa using hbad
  unfold State.decideSwap
  simp only [ht, hbad', Bool.false_eq_true, if_false]
  rfl

/-- A write of an engine of a machine with nothing under way. -/
theorem engWrite_settled (htransit : s.transit = []) (die : Nat) (obs : Stamp) (pa : Nat) (bs : List Byte) (bad : Bool) :
    (s.engWrite die obs pa bs bad).mem = storeBytes s.mem pa bs ∧ (s.engWrite die obs pa bs bad).transit = [] ∧
      (s.engWrite die obs pa bs bad).waiters = s.waiters ∧ (s.engWrite die obs pa bs bad).clus = s.clus := by
  have hflush : (s.stampWrite die obs).2.flush (s.stampWrite die obs).1 = (s.stampWrite die obs).2 := by
    rw [State.flush, show (s.stampWrite die obs).2.transit = [] from htransit]
    rfl
  have hrun : s.engWrite die obs pa bs bad = (applyBytes (s.stampWrite die obs).2 pa bs bad (s.stampWrite die obs).1).ringMail pa bs.length := by
    unfold State.engWrite
    dsimp only
    rw [hflush]
  rw [hrun]
  exact ⟨rfl, htransit, rfl, rfl⟩

/-- The recorded phase would complete, and what the decision depends on is applied: it is made. -/
theorem wswap_decides {r : List Cmd} {l : Launch} {pa : Nat} (hq : s.engQueue pcl 7 = k :: r) (hfn : k.fn = 0x50) (hs : k.started = true) (hd : k.done = false)
    (htrip : s.mgr.tripped = false) (hl : tfind (s.partAt k.part).launches k.launch = some l) (hg : groupEntry s k.who.pcl k.part l k.group = .ok pa)
    (hph : (groupAt s pa).phase = k.phase) (hm : (groupAt s pa).members ≠ 0) (ha : (groupAt s pa).members ≤ (groupAt s pa).arrivals)
    (hmay : s.mayWrite (dieOf pcl) k.obs = true) : s.wswap pcl = s.decideSwap pcl k pa (groupAt s pa) := by
  unfold State.wswap
  simp only [hq, hfn, hs, hd, htrip, hl, hg, hph, hmay, bne_self_eq_false, bne_iff_ne.mpr hm, decide_eq_true ha, Bool.not_true, Bool.or_self, Bool.and_self,
    Bool.false_eq_true, if_false, if_true]

end

/-- Settles O48. -/
theorem engineCommandsRun : Obligations.EngineCommandsRun := by
  unfold Obligations.EngineCommandsRun
  refine ⟨fun s pcl e k r => ?_, fun s pcl pa q k r l w => ?_, fun s pcl k r c hinv hpcl hq hc hs hd ht htrip hwf => ?_⟩
  · intro cl n hinv hpcl hwf hq htrip
    refine ⟨fun hs hb hfn => ?_, fun hs hr hb he hp hslot hfn => ?_, fun hfn hs hd hl hdrawn hw ho _ hk => ?_,
      fun hs hd hl hbytes hslot hgrans hrgs hgwrites hnotes hst hfn hreply hwait hheard hhalt => ?_, fun hs hd hl hsig => ?_, fun he => ?_,
      fun hr he hs hfn2 hfn hl hadds hbytes hslot hgrans hrgs hgwrites hnotes hreply hwait => ?_⟩
    · rw [exec_engineCommandStart, execEngineCommandStart, atClu_of_lt hpcl, cmdStart_bad hq htrip hs hb hfn]
    · obtain ⟨k', hk'⟩ := cmdStart_starts hinv hwf hq htrip hs hr hb he hp hslot hfn
      exact ⟨_, k', (exec_engineCommandStart pcl e s).trans (atClu_of_lt hpcl), hk'⟩
    · intro a hrs2
      rw [exec_engineChunk, execEngineChunk, atClu_of_lt hpcl]
      exact congrArg Host.Outcome.next (cmdChunk_cqry hq htrip hfn hs hd hl hdrawn hw ho hk hrs2)
    · have hsig : signalOut s pcl n k = false := by rw [signalOut, decide_eq_false hfn, Bool.false_and]
      exact ⟨_, (exec_engineCommandCompletion pcl e s).trans (atClu_of_lt hpcl), cmdComplete_length hinv hwf hq hs hd hl hsig htrip,
        cmdComplete_reply hinv hq hs hd hl htrip ⟨hbytes, hslot, hgrans, hrgs, hgwrites, hnotes⟩ hst hfn hreply hwait hheard hhalt⟩
    · exact ⟨_, (exec_engineCommandCompletion pcl e s).trans (atClu_of_lt hpcl), cmdComplete_length hinv hwf hq hs hd hl hsig htrip⟩
    · exact ⟨_, engineReset_next he hpcl, (engReset_over hinv hwf).2.2⟩
    · subst hr
      obtain ⟨hq', hreset, hmem, htw⟩ := engReset_single hinv hwf hq hs hfn hfn2 hl hadds htrip ⟨hbytes, hslot, hgrans, hrgs, hgwrites, hnotes⟩ hreply hwait
      exact ⟨_, engineReset_next he hpcl, hq', hreset, hmem, fun h => htw (congrArg CEng.num h)⟩
  · intro v hinv htrip hpcl hwf hq hfn hs hd hl hg hph hm ha hmay
    have hexec : exec (.wswapDecision pcl) s = .next (s.decideSwap pcl k pa v) := by
      rw [exec_wswapDecision, execWswapDecision, atClu_of_lt hpcl, wswap_decides hq hfn hs hd htrip hl hg hph hm ha hmay]
    have hkeeps : s.engKeeps pcl enginesWf := ⟨hinv, hwf⟩
    refine ⟨?_, ?_⟩
    · obtain ⟨u, k', hspec, hu, hdone, hst⟩ := decideSwap_spec hkeeps (k := k) pa v
      refine ⟨_, k', hexec, ?_, hdone, hst⟩
      rw [hspec]
      exact swapEnds_head hu k' pa v
    · rintro ⟨htransit, hwaiters, -⟩ hfull ht hptr _ hdis
      have hother : ∀ (m : List Host.Cell) (g : GroupView), loadNat (storeBytes m pa (groupBytes g)) q 8 = loadNat m q 8 := fun m g =>
        loadNat_storeBytes_other (by simpa [groupBytes] using hdis)
      by_cases hgood : w.present = 2 ^ w.n - 1 ∧ w.flagged = 0
      · obtain ⟨hmem, htr, hwt, hclus⟩ := engWrite_settled htransit (dieOf pcl) k.obs q (toLE 8 (bodyA k.bytes).toNat) false
        have hu := engWrite_enginesWf hkeeps (dieOf pcl) k.obs q (toLE 8 (bodyA k.bytes).toNat) false
        have hdec := decideSwap_good (pcl := pcl) ht hptr hgood pa v
        have hfull' : (s.engWrite (dieOf pcl) k.obs q (toLE 8 (bodyA k.bytes).toNat) false).logsFull := fun p => by
          rw [State.cluAt, hclus]
          exact hfull p
        have hout := swapEnds_mem (pcl := pcl) hu.1 htr (hwt.trans hwaiters) hfull' { k.finish 0 0 with moved := 8 } pa v
        obtain ⟨-, harr, hphase⟩ := groupAt_written hu.1.mem hout
        refine ⟨_, { k.finish 0 0 with moved := 8 }, hexec, ?_, rfl, ?_, ?_, fun _ => ⟨rfl, rfl, ?_⟩, fun h => absurd hgood h⟩
        · rw [hdec]
          exact swapEnds_head hu ..
        · rw [hdec]
          exact harr
        · rw [hdec]
          exact hphase
        · rw [hdec, hout, hother, hmem, loadNat_storeBytes hinv.mem _ _ (toLE_length ..), leNat_toLE]
          exact Nat.mod_eq_of_lt (bodyA k.bytes).isLt
      · have hdec := decideSwap_kept (pcl := pcl) ht hgood pa v
        have hout := swapEnds_mem (pcl := pcl) hinv htransit hwaiters hfull (k.finish 4 0) pa v
        obtain ⟨-, harr, hphase⟩ := groupAt_written hinv.mem hout
        refine ⟨_, k.finish 4 0, hexec, ?_, rfl, ?_, ?_, fun h => absurd h hgood, fun _ => ⟨rfl, ?_⟩⟩
        · rw [hdec]
          exact swapEnds_head hkeeps ..
        · rw [hdec]
          exact harr
        · rw [hdec]
          exact hphase
        · rw [hdec, hout, hother]
  · obtain ⟨hqueue, hlast⟩ := collTimeout_aborts hinv hq hc hs hd ht htrip hwf
    exact ⟨_, (exec_collectiveTimeout pcl s).trans (atClu_of_lt hpcl), hqueue, rfl, rfl, hlast⟩

end Sys2Proof.Machine
end
section
namespace Sys2Proof.Machine

/-! ### Tables of launches and of queues -/

theorem tfind_tput_other {α : Type} {j k : Nat} (h : j ≠ k) (v : α) : ∀ t : Tbl α, tfind (tput t k v) j = tfind t j
  | [] => by simp [tput, tfind, h]
  | (i, w) :: r => by
    unfold tput
    split
    · simp only [tfind, if_neg h]
    · split
      · rename_i hk
        simp only [tfind, ← hk, if_neg h]
      · unfold tfind
        split
        · rfl
        · exact tfind_tput_other h v r

theorem tfind_tdel {α : Type} (t : Tbl α) (k : Nat) : tfind (tdel t k) k = none := by
  induction t with
  | nil => rfl
  | cons e r ih =>
    obtain ⟨j, v⟩ := e
    by_cases hj : j = k
    · subst hj
      have hcons : tdel ((j, v) :: r) j = tdel r j := by simp [tdel]
      rw [hcons, ih]
    · have hcons : tdel ((j, v) :: r) k = (j, v) :: tdel r k := by simp [tdel, hj]
      rw [hcons, tfind, if_neg (Ne.symm hj), ih]

/-! ### What the creation of strands leaves -/

/-- The invariant, the context in `c`, the queues of partition `p`, and a property of its launch `id`. -/
def State.launchKept (c : CtxLoc) (x : Context) (p id : Nat) (qs : Tbl HostQ) (R : Launch → Prop) (t : State) : Prop :=
  t.Inv ∧ t.ctxAt c = x ∧ (t.partAt p).queues = qs ∧ ∃ l, tfind (t.partAt p).launches id = some l ∧ R l

/-- A property of a launch that the ends and losses of its strands leave as it is. -/
def LaunchStable (R : Launch → Prop) : Prop := ∀ l ended errors unmade report, R l → R { l with ended := ended, errors := errors, unmade := unmade, report := report }

section

variable {s t : State} {c : CtxLoc} {x : Context} {p id : Nat} {qs : Tbl HostQ} {R : Launch → Prop}

theorem launchKept_of_parts (h : s.launchKept c x p id qs R) (ht : t.Inv) (hc : t.ctxAt c = s.ctxAt c) (hp : t.parts = s.parts) :
    t.launchKept c x p id qs R := by
  obtain ⟨-, hx, hq, hl⟩ := h
  refine ⟨ht, hc.trans hx, ?_, ?_⟩
  · rw [State.partAt, hp]
    exact hq
  · rw [State.partAt, hp]
    exact hl

theorem launchKept_wroteTo (h : s.launchKept c x p id qs R) (ht : t.Inv) (hw : s.wroteTo t) : t.launchKept c x p id qs R :=
  launchKept_of_parts h ht (hw.ctxAt c) hw.parts

/-- An end or a loss of a strand of the launch. -/
theorem launchKept_launch (hR : LaunchStable R) (h : s.launchKept c x p id qs R) {f : Launch → Launch} (hf : ∀ l, ∃ ended errors unmade report, f l = { l with
      ended := ended, errors := errors, unmade := unmade, report := report }) :
    (s.onPart p fun q => match tfind q.launches id with
      | none => q
      | some l => { q with launches := tput q.launches id (f l) }).launchKept c x p id qs R := by
  obtain ⟨hinv, hx, hq, l, hl, hRl⟩ := h
  refine ⟨State.onPart_inv hinv, hx, ?_, f l, ?_, ?_⟩
  · rw [State.partAt_onPart_same hinv.parts]
    simp only [hl]
    exact hq
  · rw [State.partAt_onPart_same hinv.parts]
    simp only [hl]
    exact tfind_tput ..
  · obtain ⟨ended, errors, unmade, report, hfl⟩ := hf l
    rw [hfl]
    exact hR l _ _ _ _ hRl

theorem recordFailed_launchKept (hR : LaunchStable R) (h : s.launchKept c x p id qs R) (strand : Nat) (cause : BitVec 8) (a : Word) :
    (s.recordFailed p id strand cause a).launchKept c x p id qs R := by
  have hcount : (s.countEnd p id (some (plainReport cause a strand))).launchKept c x p id qs R := by
    have h' := launchKept_launch hR h (f := fun l => { l with
      ended := l.ended + 1, errors := l.errors + (if (some (plainReport cause a strand)).isSome then 1 else 0)
      report := l.report.or (some (plainReport cause a strand)) }) fun l => ⟨_, _, _, _, rfl⟩
    exact h'
  have hlose : ((s.countEnd p id (some (plainReport cause a strand))).loseRecord p id strand).launchKept c x p id qs R := by
    have h' := launchKept_launch hR hcount (f := fun l => { l with unmade := l.unmade ++ [strand] }) fun l => ⟨_, _, _, _, rfl⟩
    exact h'
  exact launchKept_of_parts hlose (State.inv_with hlose.1) rfl rfl

theorem makeRecord_launchKept (hR : LaunchStable R) (pcl : Nat) (l : Launch) (obs : Stamp) (a : State × List Nat) (j : Nat)
    (h : a.1.launchKept c x p id qs R) : (makeRecord pcl p id l obs a j).1.launchKept c x p id qs R := by
  have hcreate : (createRecord a.1 pcl p id l obs j).1.launchKept c x p id qs R := by
    unfold createRecord
    dsimp only
    split
    · exact launchKept_wroteTo h (State.noteRead_inv h.1) (noteRead_wroteTo ..)
    · exact launchKept_wroteTo h (State.vstore_inv h.1) (vstore_wroteTo ..)
  unfold makeRecord
  generalize createRecord a.1 pcl p id l obs j = r at hcreate
  obtain ⟨u, e⟩ := r
  cases e with
  | none => exact hcreate
  | some e => exact recordFailed_launchKept hR hcreate ..

theorem enterReady_launchKept (h : s.launchKept c x p id qs R) (pcl q l n : Nat) (a : Word) (prio : BitVec 3) (rd : Option (Reg × Option (Nat × Nat))) :
    (s.enterReady pcl q l n a prio rd).launchKept c x p id qs R :=
  launchKept_of_parts h (State.enterReady_inv h.1) rfl rfl

theorem createStrands_launchKept (hR : LaunchStable R) (pcl : Nat) (l : Launch) (obs : Stamp) (n : Nat) : ∀ (i : Nat) {s : State},
    s.launchKept c x p id qs R → (createStrands pcl p id l obs n i s).launchKept c x p id qs R := by
  induction n with
  | zero => exact fun _ _ h => h
  | succ n ih =>
    intro i s h
    unfold createStrands
    dsimp only
    have hmade : ∀ unit : List Nat, (unit.foldl (makeRecord pcl p id l obs) (s, [])).1.launchKept c x p id qs R := fun unit =>
      foldl_keeps (P := fun a : State × List Nat => a.1.launchKept c x p id qs R) (fun a j ha => makeRecord_launchKept hR pcl l obs a j ha) h
    generalize (if l.triple = true then [i, i + 1, i + 2] else [i]) = unit
    refine ih _ ?_
    split
    · exact hmade _
    · exact enterReady_launchKept (hmade _) ..

/-- A launch that has started is in the pool. -/
theorem startLaunch_launchKept (hR : LaunchStable R) (hinv : s.Inv) (pcl : Nat) {l : Launch} (hl : R l) (obs : Stamp) :
    (s.startLaunch pcl p id l obs).launchKept c (s.ctxAt c) p id (s.partAt p).queues R := by
  unfold State.startLaunch
  refine createStrands_launchKept hR pcl l obs _ 0 ⟨State.onPart_inv hinv, rfl, ?_, l, ?_, hl⟩
  · rw [State.partAt_onPart_same hinv.parts]
  · rw [State.partAt_onPart_same hinv.parts]
    exact tfind_tput ..

end

/-! ### Requests of LAUNCH words (R211, R212) -/

theorem exec_launchPoolAccept (k : Nat) (s : State) : exec (.launchPoolAccept k) s = execLaunchPoolAccept k s := rfl
theorem exec_launchEnd (p id : Nat) (s : State) : exec (.launchEnd p id) s = execLaunchEnd p id s := rfl
theorem exec_launchMailboxWrite (p k : Nat) (tail head : BitVec 32) (s : State) :
    exec (.launchMailboxWrite p k tail head) s = execLaunchMailboxWrite p k tail head s := rfl
theorem exec_hostLaunchTake (p k : Nat) (s : State) : exec (.hostLaunchTake p k) s = execHostLaunchTake p k s := rfl

/-- The context of a LAUNCH word that has its reply. -/
def Context.launchReplied (x : Context) (r : LaunchReq) (v : Word) : Context := { x.setRg r.rd v with replies := x.replies.erase r.rd.toNat }

/-- The parent that made a request still runs, and waits for nothing else. -/
structure LaunchReq.heard (r : LaunchReq) (x : Context) : Prop where
  resident : x.resident = true
  serial : x.serial = r.serial
  hold : x.hold = .none
  waits : r.block = false ∨ tfind x.waits 4 = none

theorem launchReply_heard {s : State} {r : LaunchReq} (hinv : s.Inv) (h : r.heard (s.ctxAt r.who)) (v : Word) :
    s.launchReply r v = s.setCtx r.who ((s.ctxAt r.who).launchReplied r v) := by
  obtain ⟨hres, hser, hhold, hwaits⟩ := h
  have hset : ((s.ctxAt r.who).launchReplied r v).hold = .none := by
    unfold Context.launchReplied Context.setRg
    split <;> exact hhold
  have hnone : ({ (s.ctxAt r.who).launchReplied r v with hold := .none } : Context) = (s.ctxAt r.who).launchReplied r v := by rw [← hset]
  have hguard : ((s.ctxAt r.who).resident && decide ((s.ctxAt r.who).serial = r.serial)) = true := by rw [hres, hser, decide_eq_true rfl, Bool.and_self]
  have honce : (s.onCtx r.who fun x => { x.setRg r.rd v with replies := x.replies.erase r.rd.toNat, hold := if r.block then .none else x.hold }) =
      s.setCtx r.who ((s.ctxAt r.who).launchReplied r v) := by
    rw [State.onCtx, hhold, ite_self]
    exact congrArg (s.setCtx r.who) hnone
  unfold State.launchReply
  dsimp only
  rw [if_pos hguard, honce]
  split
  · refine State.waitEnd_none ?_
    rw [State.ctxAt_setCtx_same hinv.others]
    have hw := hwaits.resolve_left (ne_false_of_eq_true ‹_›)
    unfold Context.launchReplied Context.setRg
    split <;> exact hw
  · rfl

theorem launchReplied_rg {x : Context} {r : LaunchReq} (hrd : r.rd ≠ 0) (hwf : twf x.regs 0 = true) (v : Word) : (x.launchReplied r v).rg r.rd = v := by
  have h := Context.rg_setRg_same (x := x) (v := v) hwf hrd
  exact h

section

variable {s : State} {k : Nat} {r : LaunchReq}

/-- The requests that are under way, without one. -/
def State.withoutReq (s : State) (r : LaunchReq) : State := { s with launching := s.launching.erase r }

/-- A request at launch depth 7 is refused. -/
theorem poolAccept_deep (hk : s.launching[k]? = some r) (ho : s.owed r.obs none none none = false) (ht : s.mgr.tripped = false) (hd : 7 ≤ r.depth) :
    execLaunchPoolAccept k s = .next ((s.withoutReq r).launchReply r 3) := by
  unfold execLaunchPoolAccept
  simp only [hk, ho, ht, Bool.or_self, Bool.false_eq_true, if_false, if_pos hd]
  rfl

/-- A record that cannot be read is refused; a poisoned one is reported. -/
theorem poolAccept_unread (hk : s.launching[k]? = some r) (ho : s.owed r.obs none none none = false) (ht : s.mgr.tripped = false) (hd : r.depth < 7)
    {e : BitVec 8 × Nat} (hv : vbytes s r.who.pcl r.part r.addr.toNat 128 = .error e) :
    execLaunchPoolAccept k s =
      let t := (s.withoutReq r).noteRead (α := List Byte) r.who.pcl r.part (.error e)
      .next ((if e.1 = 0x0D then { t with mgr := { t.mgr with log := t.mgr.log ++ [(3877, r.who.pcl, r.part)] } } else t).launchReply r 2) := by
  have hsame : s.sameWays (s.withoutReq r) := ⟨rfl, rfl, rfl, rfl, rfl⟩
  have hv' : vbytes (s.withoutReq r) r.who.pcl r.part r.addr.toNat 128 = .error e := (vbytes_sameWays hsame ..).trans hv
  unfold execLaunchPoolAccept
  simp only [hk, ho, ht, Bool.or_self, Bool.false_eq_true, if_false, if_neg (Nat.not_le.mpr hd)]
  rw [show vbytes { s with launching := s.launching.erase r } r.who.pcl r.part r.addr.toNat 128 = .error e from hv']
  rfl

/-- A record that is read: refused, without room, or taken. -/
theorem poolAccept_read (hk : s.launching[k]? = some r) (ho : s.owed r.obs none none none = false) (ht : s.mgr.tripped = false) (hd : r.depth < 7)
    {bs : List Byte} (hv : vbytes s r.who.pcl r.part r.addr.toNat 128 = .ok bs) :
    let l := parseLaunch bs (r.depth + 1) r.who.pcl none
    (launchOk s r.who.pcl r.part bs l = false → execLaunchPoolAccept k s = .next ((s.withoutReq r).launchReply r 2)) ∧
    (launchOk s r.who.pcl r.part bs l = true → poolEntry (s.partAt r.part) (r.depth + 1) = none → r.block = false →
      execLaunchPoolAccept k s = .next ((s.withoutReq r).launchReply r 1)) ∧
    (∀ id, launchOk s r.who.pcl r.part bs l = true → poolEntry (s.partAt r.part) (r.depth + 1) = some id →
      execLaunchPoolAccept k s = .next (((s.withoutReq r).startLaunch r.who.pcl r.part id l r.obs).launchReply r (BitVec.ofNat 64 (id * 2 ^ 16)))) := by
  intro l
  have hsame : s.sameWays (s.withoutReq r) := ⟨rfl, rfl, rfl, rfl, rfl⟩
  have hv' : vbytes { s with launching := s.launching.erase r } r.who.pcl r.part r.addr.toNat 128 = .ok bs := (vbytes_sameWays hsame ..).trans hv
  have hok : launchOk { s with launching := s.launching.erase r } r.who.pcl r.part bs l = launchOk s r.who.pcl r.part bs l := by
    have himage : imageOk { s with launching := s.launching.erase r } r.who.pcl r.part l = imageOk s r.who.pcl r.part l := by
      funext k
      unfold imageOk
      rw [show vbytes { s with launching := s.launching.erase r } r.who.pcl r.part (l.image.toNat + 264 * k) 8 = _ from vbytes_sameWays hsame ..]
    unfold launchOk
    rw [himage]
    rfl
  refine ⟨fun hbad => ?_, fun hgood hfull hblock => ?_, fun id hgood hentry => ?_⟩
  · unfold execLaunchPoolAccept
    simp only [hk, ho, ht, Bool.or_self, Bool.false_eq_true, if_false, if_neg (Nat.not_le.mpr hd), hv']
    rw [show parseLaunch bs (r.depth + 1) r.who.pcl none = l from rfl, hok, hbad]
    rfl
  · have hfull' : poolEntry (State.partAt { s with launching := s.launching.erase r } r.part) (r.depth + 1) = none := hfull
    unfold execLaunchPoolAccept
    simp only [hk, ho, ht, Bool.or_self, Bool.false_eq_true, if_false, if_neg (Nat.not_le.mpr hd), hv', hfull', hblock]
    rw [show parseLaunch bs (r.depth + 1) r.who.pcl none = l from rfl, hok, hgood]
    rfl
  · have hentry' : poolEntry (State.partAt { s with launching := s.launching.erase r } r.part) (r.depth + 1) = some id := hentry
    unfold execLaunchPoolAccept
    simp only [hk, ho, ht, Bool.or_self, Bool.false_eq_true, if_false, if_neg (Nat.not_le.mpr hd), hv', hentry']
    rw [show parseLaunch bs (r.depth + 1) r.who.pcl none = l from rfl, hok, hgood]
    rfl

end


/-! ### The end of a launch (R213) -/

section

variable {s t : State} {p id : Nat}

/-- The invariant, and partition `p` without the launch `id`. -/
def State.launchGone (p id : Nat) (t : State) : Prop := t.Inv ∧ tfind (t.partAt p).launches id = none

theorem launchGone_of_parts (h : s.launchGone p id) (ht : t.Inv) (hp : t.parts = s.parts) : t.launchGone p id := by
  refine ⟨ht, ?_⟩
  rw [State.partAt, hp]
  exact h.2

/-- A change of a partition that brings no launch. -/
theorem launchGone_onPart (h : s.launchGone p id) (q : Nat) {f : Partition → Partition}
    (hf : ∀ v : Partition, tfind v.launches id = none → tfind (f v).launches id = none) : (s.onPart q f).launchGone p id := by
  refine ⟨State.onPart_inv h.1, ?_⟩
  by_cases hq : p = q
  · subst hq
    rw [State.partAt_onPart_same h.1.parts]
    exact hf _ h.2
  · rw [State.partAt_onPart_other hq]
    exact h.2

/-- A change of a launch that is there. -/
theorem launchGone_launch (h : s.launchGone p id) (q j : Nat) (f : Launch → Launch) :
    (s.onPart q fun v => match tfind v.launches j with
      | none => v
      | some l => { v with launches := tput v.launches j (f l) }).launchGone p id := by
  refine launchGone_onPart h q fun v hv => ?_
  split
  · exact hv
  · rename_i l hl
    by_cases hj : id = j
    · subst hj
      rw [hv] at hl
      cases hl
    · exact (tfind_tput_other hj _ _).trans hv

theorem recordFailed_launchGone (h : s.launchGone p id) (q j n : Nat) (cause : BitVec 8) (a : Word) : (s.recordFailed q j n cause a).launchGone p id := by
  have hcount := launchGone_launch h q j fun l => { l with
    ended := l.ended + 1, errors := l.errors + (if (some (plainReport cause a n)).isSome then 1 else 0)
    report := l.report.or (some (plainReport cause a n)) }
  have hlose := launchGone_launch hcount q j fun l => { l with unmade := l.unmade ++ [n] }
  exact launchGone_of_parts hlose (State.inv_with hlose.1) rfl

theorem editRecord_launchGone (h : s.launchGone p id) (c q l n : Nat) (a : Word) (st : Stamp) (f : List Byte → List Byte) :
    (s.editRecord c q l n a st f).1.launchGone p id := by
  unfold State.editRecord
  dsimp only
  split
  · exact recordFailed_launchGone (launchGone_of_parts h (State.noteRead_inv h.1) (noteRead_wroteTo ..).parts) ..
  · have hstored : ∀ bs, (s.vstore c q st a.toNat bs).1.launchGone p id := fun bs => launchGone_of_parts h (State.vstore_inv h.1) (vstore_wroteTo ..).parts
    split
    · exact hstored _
    · exact recordFailed_launchGone (hstored _) ..

theorem wake_launchGone (h : s.launchGone p id) (w : Waiter) : (s.wake w).launchGone p id := by
  have hgone : State.launchGone p id { s with waiters := s.waiters.erase w } := launchGone_of_parts h (State.inv_with h.1) rfl
  have htaken : (State.takeExpiry { s with waiters := s.waiters.erase w } w.part w.launch w.strand).2.launchGone p id := by
    unfold State.takeExpiry
    dsimp only
    split
    · exact hgone
    · exact launchGone_onPart hgone w.part (f := fun q => { q with expiries := q.expiries.erase _ }) fun _ hv => hv
  unfold State.wake
  dsimp only
  refine ite_keeps ?_ (editRecord_launchGone htaken ..)
  have hedited := editRecord_launchGone htaken w.pcl w.part w.launch w.strand w.addr
  exact launchGone_of_parts (hedited _ _) (State.enterReady_inv (hedited _ _).1) rfl

theorem wakeAll_launchGone (h : s.launchGone p id) (f : Waiter → Bool) : (s.wakeAll f).launchGone p id := by
  unfold State.wakeAll
  exact foldl_keeps (P := State.launchGone p id) (fun u w hu => wake_launchGone hu w) h

/-- Partitions and controller are as before. -/
def State.managedAs (s t : State) : Prop := t.parts = s.parts ∧ t.mgr = s.mgr

theorem State.managedAs.trans {s t u : State} (h : s.managedAs t) (g : t.managedAs u) : s.managedAs u := ⟨g.1.trans h.1, g.2.trans h.2⟩

theorem State.managedAs_refl (s : State) : s.managedAs s := ⟨rfl, rfl⟩

theorem onCtx_managed (s : State) (c : CtxLoc) (f : Context → Context) : s.managedAs (s.onCtx c f) := ⟨State.onCtx_parts .., State.onCtx_mgr ..⟩

theorem tell_managed (s : State) (who : Origin) (v : Word) (st : Stamp) (flt : Option (BitVec 8)) : s.managedAs (s.tell who v st flt) := by
  unfold State.tell
  split
  · dsimp only
    split
    · exact onCtx_managed ..
    · exact onCtx_managed ..
  · exact ⟨rfl, rfl⟩
  · exact ⟨rfl, rfl⟩
  · exact ⟨rfl, rfl⟩

theorem coverRow_managed (s : State) (t : Transit) : s.managedAs (s.coverRow t) := by
  unfold State.coverRow
  split
  · exact ⟨rfl, rfl⟩
  · split
    · exact ⟨rfl, rfl⟩
    · refine foldl_keeps (P := s.managedAs) (fun u a hu => ?_) ⟨rfl, rfl⟩
      unfold State.coverLine
      dsimp only
      split
      · exact hu
      · split <;> exact hu

theorem applyOne_managed (s : State) (t : Transit) (err : Bool) : s.managedAs (s.applyOne t err) := by
  unfold State.applyOne
  dsimp only
  split
  · exact tell_managed ..
  · split
    · have hcover := coverRow_managed (applyBytes { s with transit := s.transit.erase t } t.pa t.data t.bad t.stamp) t
      exact State.managedAs.trans (s := s) (t := State.ringMail _ t.pa t.data.length) hcover (tell_managed ..)
    · split
      · exact tell_managed ..
      · exact tell_managed ..

theorem flush_managed (s : State) (st : Stamp) : s.managedAs (s.flush st) := by
  unfold State.flush
  refine foldl_keeps (P := s.managedAs) (fun u t hu => ?_) ⟨rfl, rfl⟩
  split
  · exact hu.trans (applyOne_managed ..)
  · exact hu

theorem acted_launchGone (h : s.launchGone p id) (q kind place who : Nat) : (s.acted q kind place who).launchGone p id := by
  unfold State.acted
  dsimp only
  have hbytes : ∀ pa bs, (applyBytes s pa bs false {}).launchGone p id := fun pa bs => launchGone_of_parts h (applyBytes_inv h.1) rfl
  split
  · refine launchGone_onPart ?_ q fun v hv => ?_
    · split
      · exact hbytes _ _
      · exact h
    · exact hv
  · exact h

theorem applyAdd_launchGone (h : s.launchGone p id) (a : EvAdd) : (s.applyAdd a).launchGone p id := by
  have hwritten : (s.addWritten a).launchGone p id :=
    launchGone_of_parts h (State.onClu_inv (s := { s with adds := s.adds.erase a }) h.1) rfl
  have hnews : ∀ (u : State) c n k, u.launchGone p id → (u.newsOf c n k).launchGone p id := fun u c n k hu => by
    refine launchGone_of_parts hu (State.newsOf_toldOf hu.1 ..).inv ?_
    unfold State.newsOf State.testAll
    refine foldl_keeps (P := fun v : State => v.parts = u.parts) (fun v a hv => ?_) ?_
    · exact hv
    exact foldl_keeps (P := fun v : State => v.parts = u.parts) (fun _ _ hv => (State.onCtx_parts ..).trans hv) rfl
  rw [State.applyAdd_eq]
  refine wakeAll_launchGone (hnews _ _ _ _ ?_) _
  split
  · exact acted_launchGone hwritten ..
  · exact hwritten

theorem complete_launchGone (h : s.launchGone p id) (q k : Nat) (entry : List Byte) : (s.complete q k entry).launchGone p id := by
  have hstored : ∀ (u : State), u.launchGone p id → ∀ c va bs, (u.vstore c q {} va bs).1.launchGone p id := fun u hu c va bs =>
    launchGone_of_parts hu (State.vstore_inv hu.1) (vstore_wroteTo ..).parts
  have hnotified : ∀ (u : State), u.launchGone p id → ∀ v, (u.notifyHost q v entry).launchGone p id := fun u hu v => by
    unfold State.notifyHost
    split
    · exact hu
    · split
      · exact hu
      · exact launchGone_of_parts hu (State.inv_with hu.1) rfl
  unfold State.complete
  split
  · exact h
  · rename_i v _
    have hentry := hstored s h (hubClu s q) (v.comp.toNat + 32 * (v.tc.toNat % v.cap)) entry
    generalize s.vstore (hubClu s q) q {} (v.comp.toNat + 32 * (v.tc.toNat % v.cap)) entry = a at hentry ⊢
    obtain ⟨u, e⟩ := a
    have hhead := hstored u hentry (hubClu u q) v.head.toNat (headWord { v with tc := v.tc + 1 })
    dsimp only
    generalize u.vstore (hubClu u q) q {} v.head.toNat (headWord { v with tc := v.tc + 1 }) = a at hhead ⊢
    obtain ⟨w, e⟩ := a
    refine hnotified _ (launchGone_onPart hhead q fun v hv => ?_) _
    exact hv

end

/-! ### The end of a launch, exactly -/

section

variable {s : State} {p id : Nat} {l : Launch}

/-- The pool, and the instruction cache, without a launch. -/
def State.withoutLaunch (s : State) (p id : Nat) : State :=
  { s.setPart p { s.partAt p with launches := tdel (s.partAt p).launches id } with
    icache := s.icache.filter fun e => !(e.part = p && e.launch = id) }

/-- The ready queues without the records of a launch. -/
def State.withoutReady (s : State) (p id : Nat) : State :=
  (List.range 40).foldl (fun s c => s.onClu c fun cl => { cl with ready := cl.ready.filter fun r => !(r.part = p && r.launch = id) }) s

theorem withoutReady_none (hinv : s.Inv) (h : ∀ c < 40, ∀ r ∈ (s.cluAt c).ready, ¬(r.part = p ∧ r.launch = id)) : s.withoutReady p id = s := by
  unfold State.withoutReady
  have hstep : ∀ c ∈ List.range 40, (s.onClu c fun cl => { cl with ready := cl.ready.filter fun r => !(r.part = p && r.launch = id) }) = s := fun c hc => by
    have hkeep : (s.cluAt c).ready.filter (fun r => !(r.part = p && r.launch = id)) = (s.cluAt c).ready :=
      List.filter_eq_self.mpr fun r hr => by
        rw [Bool.not_eq_true', ← Bool.decide_and]
        exact decide_eq_false (h c (List.mem_range.mp hc) r hr)
    rw [State.onClu, hkeep]
    exact State.setClu_cluAt hinv.clus c
  refine List.foldlRecOn (motive := fun t => t = s) _ _ rfl fun t ht c hc => ?_
  rw [ht]
  exact hstep c hc

theorem withoutReady_launchGone (h : s.launchGone p id) : (s.withoutReady p id).launchGone p id := by
  unfold State.withoutReady
  exact foldl_keeps (P := State.launchGone p id) (fun u c hu => launchGone_of_parts hu (State.onClu_inv hu.1) rfl) h

theorem withoutLaunch_gone (hinv : s.Inv) : (s.withoutLaunch p id).launchGone p id := by
  refine ⟨State.inv_with (State.setPart_inv hinv), ?_⟩
  show tfind ((s.setPart p { s.partAt p with launches := tdel (s.partAt p).launches id }).partAt p).launches id = none
  rw [State.partAt_setPart_same hinv.parts]
  exact tfind_tdel ..

/-- The end of a launch gives its completion counter its EventAdd. -/
def State.endEvent (s : State) (l : Launch) : State :=
  if l.event = 0x03FF then s
  else
    let (st, s) := s.stampWrite (dieOf l.home) {}
    let (pcl, n) := eventOf l.home l.event.toNat
    if l.host.isSome then (s.flush st).applyAdd ⟨whoHardware, pcl, n, 1, false, false, st, some (dieOf l.home)⟩
    else s.sendAdd whoHardware l.home l.event.toNat 1 false false st (some (dieOf l.home))

/-- The end of a launch gives the host its entry. -/
def State.endEntry (s : State) (p id : Nat) (l : Launch) : State :=
  match l.host with
  | none => s
  | some (k, idx) => s.complete p k (entryBytes idx id (if l.errors = 0 then 0 else 1) l.errors (l.report.getD (0, 0, 0, 0)))

theorem endLaunch_ended (hl : tfind (s.partAt p).launches id = some l) (hn : l.n ≤ l.ended) (hm : l.host = none ∨ s.mayWrite (dieOf l.home) {} = true) :
    s.endLaunch p id = ((((s.withoutLaunch p id).withoutReady p id).endEvent l).endEntry p id l).wakePool p id := by
  have htold : (l.host.isSome && l.event != 0x03FF && !s.mayWrite (dieOf l.home) {}) = false := by
    rcases hm with h | h
    · rw [h]
      rfl
    · rw [h, Bool.not_true, Bool.and_false]
  unfold State.endLaunch
  rw [hl]
  dsimp only
  rw [htold, decide_eq_false (Nat.not_lt.mpr hn)]
  unfold State.endEntry State.endEvent
  rfl

theorem endEvent_launchGone (h : s.launchGone p id) : (s.endEvent l).launchGone p id := by
  have hstamped : (s.stampWrite (dieOf l.home) {}).2.launchGone p id := launchGone_of_parts h (State.stampWrite_inv h.1) rfl
  unfold State.endEvent
  dsimp only
  refine ite_keeps h (ite_keeps (applyAdd_launchGone (launchGone_of_parts hstamped (State.flush_inv hstamped.1) (flush_managed ..).1) _) ?_)
  exact launchGone_of_parts hstamped (State.inv_with hstamped.1) rfl

theorem endLaunch_gone (hinv : s.Inv) (hl : tfind (s.partAt p).launches id = some l) (hn : l.n ≤ l.ended)
    (hm : l.host = none ∨ s.mayWrite (dieOf l.home) {} = true) : (s.endLaunch p id).launchGone p id := by
  rw [endLaunch_ended hl hn hm]
  have hevent := endEvent_launchGone (l := l) (withoutReady_launchGone (withoutLaunch_gone (p := p) (id := id) hinv))
  refine wakeAll_launchGone ?_ _
  unfold State.endEntry
  split
  · exact hevent
  · exact complete_launchGone hevent ..

/-- Nobody waits, and no record is left: the end of a launch that a word made changes the pool, the cache and the counter's changes alone. -/
theorem endLaunch_exact (hinv : s.Inv) (hl : tfind (s.partAt p).launches id = some l) (hn : l.n ≤ l.ended) (hh : l.host = none) (hw : s.waiters = [])
    (hr : ∀ c < 40, ∀ r ∈ (s.cluAt c).ready, ¬(r.part = p ∧ r.launch = id)) : s.endLaunch p id = (s.withoutLaunch p id).endEvent l := by
  have hready : (s.withoutLaunch p id).withoutReady p id = s.withoutLaunch p id := withoutReady_none (withoutLaunch_gone hinv).1 hr
  have hentry : ∀ u : State, u.endEntry p id l = u := fun u => by
    unfold State.endEntry
    rw [hh]
  have hwaiters : ((s.withoutLaunch p id).endEvent l).waiters = [] := by
    unfold State.endEvent
    dsimp only
    split
    · exact hw
    · rw [hh]
      exact hw
  rw [endLaunch_ended hl hn (.inl hh), hready, hentry]
  exact State.wakeAll_alone hwaiters _

end

/-! ### The host queues (R410, R411) -/

section

variable {s : State} {p k : Nat} {q : HostQ}

/-- A mailbox write: the tail and the completion head that count. -/
theorem mailbox_queue (hinv : s.Inv) (ht : s.mgr.tripped = false) (hq : tfind (s.partAt p).queues k = some q) (tail head : BitVec 32) :
    let fwd := (tail - q.t).toNat
    let accepted := 1 ≤ fwd ∧ fwd ≤ q.cap ∧ (tail - q.h).toNat ≤ q.cap
    tfind ((s.mailbox p k tail head).partAt p).queues k = some { q with
      t := if accepted then tail else q.t
      hc := if (accepted ∨ tail = q.t) ∧ (head - q.hc).toNat ≤ (q.tc - q.hc).toNat then head else q.hc } := by
  intro fwd accepted
  have hok : (decide (1 ≤ fwd) && decide (fwd ≤ q.cap) && decide ((tail - q.h).toNat ≤ q.cap)) = decide accepted := by
    simp only [accepted, Bool.decide_and, Bool.and_assoc]
  have hzero : decide (fwd = 0) = decide (tail = q.t) := by
    refine decide_eq_decide.mpr ⟨fun h => ?_, fun h => ?_⟩
    · have h0 : (tail - q.t).toNat = 0 := h
      bv_omega
    · show (tail - q.t).toNat = 0
      rw [h, BitVec.sub_self]
      rfl
  have hcond : ((decide accepted || decide (tail = q.t)) && decide ((head - q.hc).toNat ≤ (q.tc - q.hc).toNat)) =
      decide ((accepted ∨ tail = q.t) ∧ (head - q.hc).toNat ≤ (q.tc - q.hc).toNat) := by
    rw [← Bool.decide_or, ← Bool.decide_and]
  let u := (s.vstore (hubClu s p) p {} q.mail.toNat (toLE 4 tail.toNat ++ toLE 4 head.toNat)).1
  have hu : u.Inv := State.vstore_inv hinv
  let q' : HostQ := { q with
    t := if decide accepted then tail else q.t
    hc := if ((decide accepted || decide (tail = q.t)) && decide ((head - q.hc).toNat ≤ (q.tc - q.hc).toNat)) = true then head else q.hc }
  have hput : tfind ((u.onPart p fun r => { r with queues := tput r.queues k q' }).partAt p).queues k = some q' := by
    rw [State.partAt_onPart_same hu.parts]
    exact tfind_tput ..
  have hq' : q' = { q with
      t := if accepted then tail else q.t
      hc := if (accepted ∨ tail = q.t) ∧ (head - q.hc).toNat ≤ (q.tc - q.hc).toNat then head else q.hc } := by
    simp only [q', hcond, decide_eq_true_eq]
  rw [← hq', ← hput]
  unfold State.mailbox
  simp only [hq, ht, Bool.false_eq_true, if_false]
  rw [hok, hzero]
  split
  · rfl
  · rfl

end

/-! ### The rotation of the host queues (R411) -/

section

variable {s : State} {p k : Nat} {q : HostQ}

/-- The head of a queue passes a record. -/
theorem passRecord_keeps {c : CtxLoc} {x : Context} {id : Nat} {qs : Tbl HostQ} {R : Launch → Prop} (h : s.launchKept c x p id qs R) (hq : tfind qs k = some q) :
    tfind ((s.passRecord p k).partAt p).queues k = some { q with h := q.h + 1 } ∧
      ∃ l, tfind ((s.passRecord p k).partAt p).launches id = some l ∧ R l := by
  obtain ⟨hinv, -, hqs, hl⟩ := h
  let q' : HostQ := { q with h := q.h + 1 }
  let u := (s.vstore (hubClu s p) p {} q'.head.toNat (headWord q')).1
  have hu : u.Inv := State.vstore_inv hinv
  have hparts : u.partAt p = s.partAt p := by
    rw [State.partAt, (vstore_wroteTo s (hubClu s p) p {} q'.head.toNat (headWord q')).parts]
    rfl
  have hpass : s.passRecord p k = u.onPart p fun r => { r with queues := tput r.queues k q', turn := k + 1 } := by
    unfold State.passRecord
    rw [hqs, hq]
  rw [hpass, State.partAt_onPart_same hu.parts, hparts]
  exact ⟨tfind_tput .., hl⟩

theorem hubFinds_launch {id : Nat} {bs : List Byte} (ht : q.h ≠ q.t) (hroom : (q.h - q.hc).toNat < q.cap)
    (hv : vbytes s (hubClu s p) p (q.ring.toNat + 128 * (q.h.toNat % q.cap)) 128 = .ok bs)
    (hok : launchOk s (hubClu s p) p bs (parseLaunch bs 0 (hubClu s p) (some (k, q.h))) = true) (hid : poolEntry (s.partAt p) 0 = some id) :
    hubFinds s p k q = some (.ok (id, parseLaunch bs 0 (hubClu s p) (some (k, q.h)))) := by
  have hguard : (decide (q.h = q.t) || decide (q.cap ≤ (q.h - q.hc).toNat)) = false := by
    rw [decide_eq_false ht, decide_eq_false (Nat.not_le.mpr hroom), Bool.or_self]
  simp only [hubFinds, hguard, hv, hok, hid, Bool.false_eq_true, if_false, if_true, Option.map_some]

/-- The hub takes a launch into the pool. -/
theorem takeRecord_launch {id : Nat} {l : Launch} (hinv : s.Inv) (ht : s.mgr.tripped = false) (hq : tfind (s.partAt p).queues k = some q)
    (hf : hubFinds s p k q = some (.ok (id, l))) (hturn : hubTurn s p = some k) (hmay : s.mayWrite (dieOf (hubClu s p)) {} = true) :
    tfind ((s.takeRecord p k).partAt p).queues k = some { q with h := q.h + 1 } ∧
      ∃ l', tfind ((s.takeRecord p k).partAt p).launches id = some l' ∧ l'.n = l.n ∧ l'.host = l.host := by
  let st := (s.stampWrite (dieOf (hubClu s p)) {}).1
  let u := (s.stampWrite (dieOf (hubClu s p)) {}).2.flush st
  have hu : u.Inv := State.flush_inv (State.stampWrite_inv hinv)
  have hparts : u.partAt p = s.partAt p := by
    rw [State.partAt, (flush_managed ..).1]
    rfl
  have hstable : LaunchStable fun l' => l'.n = l.n ∧ l'.host = l.host := fun _ _ _ _ _ h => h
  have hkept := startLaunch_launchKept (c := ⟨0, 0, 0⟩) (p := p) (id := id) hstable hu (hubClu s p) ⟨rfl, rfl⟩ st
  rw [hparts] at hkept
  have htake : s.takeRecord p k = (u.startLaunch (hubClu s p) p id l st).passRecord p k := by
    have hguard : (s.mgr.tripped || hubTurn s p != some k) = false := by
      rw [ht, hturn, bne_self_eq_false, Bool.or_self]
    unfold State.takeRecord
    rw [hq]
    simp only [hguard, hf, hmay, Bool.false_eq_true, if_false, if_true]
    rfl
  rw [htake]
  exact passRecord_keeps hkept hq

theorem mem_of_tfind {α : Type} : ∀ {t : Tbl α} {k : Nat} {v : α}, tfind t k = some v → (k, v) ∈ t
  | [], _, _, h => by cases h
  | (j, w) :: r, k, v, h => by
    unfold tfind at h
    split at h
    · rename_i hk
      cases h
      exact hk ▸ List.mem_cons_self
    · exact List.mem_cons_of_mem _ (mem_of_tfind h)

/-- In a rising list the first element from `t` on comes no later than any other one. -/
theorem find_le_of_rising {t j : Nat} : ∀ {ks : List Nat}, ks.Pairwise (· < ·) → j ∈ ks → t ≤ j → ∃ k, ks.find? (fun k => t ≤ k) = some k ∧ t ≤ k ∧ k ≤ j
  | [], _, hj, _ => absurd hj List.not_mem_nil
  | a :: r, hks, hj, htj => by
    obtain ⟨hlt, hr⟩ := List.pairwise_cons.mp hks
    by_cases ha : t ≤ a
    · refine ⟨a, List.find?_cons_of_pos (p := fun k => decide (t ≤ k)) (decide_eq_true ha), ha, ?_⟩
      rcases List.mem_cons.mp hj with rfl | hj
      · exact le_refl _
      · exact le_of_lt (hlt j hj)
    · have hj' : j ∈ r := (List.mem_cons.mp hj).resolve_left fun h => ha (h ▸ htj)
      obtain ⟨k, hk, h1, h2⟩ := find_le_of_rising hr hj' htj
      refine ⟨k, ?_, h1, h2⟩
      rw [List.find?_cons_of_neg (by simpa using ha)]
      exact hk

/-- A queue in front of the rotation, or behind one that has a record to take, has not the turn. -/
theorem hubTurn_ne {j : Nat} {r : HostQ} (hs : ((s.partAt p).queues.map Prod.fst).Pairwise (· < ·)) (hr : tfind (s.partAt p).queues j = some r)
    (hf : (hubFinds s p j r).isSome = true) (hj : (s.partAt p).turn ≤ j) (hk : k < (s.partAt p).turn ∨ j < k) : hubTurn s p ≠ some k := by
  have hsub : (((s.partAt p).queues.filter fun e => (hubFinds s p e.1 e.2).isSome).map Prod.fst).Pairwise (· < ·) :=
    hs.sublist (List.Sublist.map _ List.filter_sublist)
  have hmem : j ∈ ((s.partAt p).queues.filter fun e => (hubFinds s p e.1 e.2).isSome).map Prod.fst :=
    List.mem_map.mpr ⟨(j, r), List.mem_filter.mpr ⟨mem_of_tfind hr, hf⟩, rfl⟩
  obtain ⟨a, ha, h1, h2⟩ := find_le_of_rising hsub hmem hj
  have hturn : hubTurn s p = some a := by
    simp only [hubTurn, ha, Option.some_or]
  rw [hturn]
  intro h
  cases h
  omega

end

/-- Settles O49. -/
theorem launchesAccepted : Obligations.LaunchesAccepted := by
  unfold Obligations.LaunchesAccepted
  refine ⟨fun s k r => ?_, fun s p id l => ?_, fun s p id l hp hinv hl hn hm => ?_, fun s p k q tail head => ?_, fun s p k id q bs => ?_, fun s p k j q r => ?_⟩
  · rintro x hinv ⟨-, -, ht⟩ hk ho hres hser hhold hwaits reply
    have hheard : r.heard (s.ctxAt r.who) := ⟨hres, hser, hhold, hwaits⟩
    have hinv' : (s.withoutReq r).Inv := State.inv_with hinv
    have hreply : ∀ v, Host.Outcome.next ((s.withoutReq r).launchReply r v) = reply v := fun v =>
      congrArg Host.Outcome.next (launchReply_heard hinv' hheard v)
    refine ⟨fun hd => ?_, fun e hd hv => ⟨fun h0d h08 => ?_, fun hrd hwf => ?_⟩, fun bs hd hv => ?_⟩
    · rw [exec_launchPoolAccept, poolAccept_deep hk ho ht hd, hreply]
    · have hnote : (s.withoutReq r).noteRead (α := List Byte) r.who.pcl r.part (.error e) = s.withoutReq r := if_neg h08
      rw [exec_launchPoolAccept, poolAccept_unread hk ho ht hd hv]
      dsimp only
      rw [if_neg h0d, hnote, hreply]
    · have hnoted := noteRead_wroteTo (s.withoutReq r) r.who.pcl r.part (Except.error e : Except (BitVec 8 × Nat) (List Byte))
      have hninv := State.noteRead_inv (pcl := r.who.pcl) (part := r.part) (r := (Except.error e : Except (BitVec 8 × Nat) (List Byte))) hinv'
      obtain ⟨u, hu⟩ : ∃ u, u = (s.withoutReq r).noteRead r.who.pcl r.part (Except.error e : Except (BitVec 8 × Nat) (List Byte)) := ⟨_, rfl⟩
      rw [← hu] at hnoted hninv
      obtain ⟨v, hv'⟩ : ∃ v, v = if e.1 = 0x0D then { u with mgr := { u.mgr with log := u.mgr.log ++ [(3877, r.who.pcl, r.part)] } } else u := ⟨_, rfl⟩
      have hvinv : v.Inv := by
        rw [hv']
        split
        · exact State.inv_with hninv
        · exact hninv
      have hvctx : v.ctxAt r.who = s.ctxAt r.who := by
        rw [hv']
        split
        · exact hnoted.ctxAt r.who
        · exact hnoted.ctxAt r.who
      have hexec : exec (.launchPoolAccept k) s = .next (v.setCtx r.who ((s.ctxAt r.who).launchReplied r 2)) := by
        rw [exec_launchPoolAccept, poolAccept_unread hk ho ht hd hv]
        dsimp only
        rw [← hu, ← hv', launchReply_heard hvinv (by rw [hvctx]; exact hheard), hvctx]
      refine ⟨_, hexec, ?_, fun h0d => ?_⟩
      · rw [State.ctxAt_setCtx_same hvinv.others]
        exact launchReplied_rg hrd hwf 2
      · have hnote : u = s.withoutReq r := by
          rw [hu]
          exact if_neg (by rw [h0d]; decide)
        rw [State.setCtx_mgr, hv', if_pos h0d, hnote]
        rfl
    · intro l
      obtain ⟨hbad, hfull, hstart⟩ := poolAccept_read hk ho ht hd hv
      refine ⟨fun h => ?_, fun h1 h2 h3 => ?_, fun id h1 h2 hrd hwf => ?_⟩
      · rw [exec_launchPoolAccept, hbad h, hreply]
      · rw [exec_launchPoolAccept, hfull h1 h2 h3, hreply]
      · have hstable : LaunchStable fun l' => l'.n = l.n ∧ l'.entry = l.entry := fun _ _ _ _ _ h => h
        have hkept := startLaunch_launchKept (c := r.who) (p := r.part) (id := id) hstable hinv' r.who.pcl ⟨rfl, rfl⟩ r.obs
        obtain ⟨hsinv, hsctx, -, l', hl', hn, he⟩ := hkept
        have hsctx' : ((s.withoutReq r).startLaunch r.who.pcl r.part id l r.obs).ctxAt r.who = s.ctxAt r.who := hsctx
        have hset := launchReply_heard hsinv (by rw [hsctx']; exact hheard) (BitVec.ofNat 64 (id * 2 ^ 16))
        refine ⟨_, l', (exec_launchPoolAccept k s).trans (hstart id h1 h2), ?_, ?_, hn, he⟩
        · rw [hset, State.ctxAt_setCtx_same hsinv.others, hsctx']
          exact launchReplied_rg hrd hwf _
        · rw [hset, State.partAt, State.setCtx_parts]
          exact hl'
  · intro q hinv hp hl hn hh hw hr done
    have hexact := endLaunch_exact hinv hl hn hh hw hr
    have hexec : exec (.launchEnd p id) s = .next ((s.withoutLaunch p id).endEvent l) := by
      rw [exec_launchEnd, execLaunchEnd, atPart_of_lt hp, hexact]
    refine ⟨fun hev => ?_, fun hev => ?_⟩
    · rw [hexec, State.endEvent, if_pos hev]
      rfl
    · intro e
      refine ⟨((s.withoutLaunch p id).stampWrite (dieOf l.home) {}).1, ((s.withoutLaunch p id).stampWrite (dieOf l.home) {}).2.clocks, ?_⟩
      rw [hexec, State.endEvent, if_neg hev, hh]
      rfl
  · exact ⟨_, (exec_launchEnd p id s).trans (atPart_of_lt hp), (endLaunch_gone hinv hl hn hm).2⟩
  · intro fwd accepted hinv hp ht hq
    exact ⟨_, _, (exec_launchMailboxWrite p k tail head s).trans (atPart_of_lt hp), mailbox_queue hinv ht hq tail head, rfl, rfl, rfl⟩
  · rintro pcl l hinv ⟨-, -, ht⟩ hp hq hne hroom hv hok hid hturn hmay
    obtain ⟨hq', l', hl', hn, hh⟩ := takeRecord_launch hinv ht hq (hubFinds_launch hne hroom hv hok hid) hturn hmay
    exact ⟨_, _, l', (exec_hostLaunchTake p k s).trans (atPart_of_lt hp), hq', rfl, rfl, hl', hn, hh⟩
  · intro t hinv hp hs hq hr hf hj hk
    have hturn := hubTurn_ne hs hr hf hj hk
    have hstay : s.takeRecord p k = s := by
      unfold State.takeRecord
      rw [hq]
      simp only [bne_iff_ne.mpr hturn, Bool.or_true, if_true]
    rw [exec_hostLaunchTake, execHostLaunchTake, atPart_of_lt hp, hstay]

end Sys2Proof.Machine
end
section
namespace Sys2Proof.Machine
/-! ## Flits: a reply does not reach a word that is not under way

The statement lets the item be in any phase, and a reply changes only items that have started. -/

/-- A load of module 1 whose part is out, while the item itself stands as not started. -/
def unstartedFarLoad : Item :=
  { ins := .ld .w 5 6 0, pc := 0x40, seq := 0, vshape := 0, fpctl := 0, a := 0x1001000000000200, b := 0, d := 0, mask := 0, phase := .idle,
    parts := [{ row := 0, off := 0, n := 4, addr := 0x1001000000000200, place := .remote 1 0x200, st := .out }] }

/-- The reply of module 1 to the request with number 4. -/
def replyOfFour : Flit :=
  { src := 1, dst := 0, srcGen := 0, dstGen := 0, seq := 1, ack := 0, va := 0x200, part := 0, len := 8, op := 0, a := 4, b := 0, data := [], poison := 0, cid := 0 }

/-- The request that waits for that reply. -/
def requestFour : Txn := ⟨1, { replyOfFour with src := 0, dst := 1, seq := 4, len := 4 }, some (.lword ⟨0, 0, 0⟩ 0 0 none), true⟩

/-- The state that holds the load and its request. -/
def unstartedWaits : State :=
  { cx := { resident := true, ql := { items := [unstartedFarLoad] } }
    fabric := { ids := [(1, ⟨1, 0, 0, 1, 0, false⟩)], pairs := [(1, { waiting := [requestFour] })] } }

/-- The one item of the first context's L queue is complete after an event. -/
def headCompletes (o : Out) : Bool :=
  match o with
  | .next t => (t.ctxAt ⟨0, 0, 0⟩).ql.items.any fun i => i.phase = .complete
  | _ => false

theorem unstartedWaits_inv : unstartedWaits.Inv := by
  unfold State.Inv
  decide +kernel

theorem unstartedWaits_nextFlit : unstartedWaits.nextFlit replyOfFour := by
  unfold State.nextFlit
  decide +kernel

theorem unstartedWaits_reply : headCompletes (exec (.readReply replyOfFour) unstartedWaits) = false := by
  decide +kernel

/-- Refutes O50: a reply that comes for an item which has not started leaves the item as it is, so it is not complete. -/
theorem not_flitsApplied : ¬ Obligations.FlitsApplied := by
  unfold Obligations.FlitsApplied
  intro h
  obtain ⟨hnext, -, -⟩ := h
  obtain ⟨-, -, -, hreply, -⟩ := hnext unstartedWaits replyOfFour unstartedWaits_inv unstartedWaits_nextFlit
  obtain ⟨hread, -⟩ := hreply requestFour ⟨0, 0, 0⟩ 0 none unstartedFarLoad _ (by decide) rfl rfl rfl rfl rfl rfl rfl rfl rfl rfl
  obtain ⟨t, j, hexec, -, -, hitems, hphase, -⟩ := hread rfl _ _ _ _ rfl
  have hidle := unstartedWaits_reply
  rw [hexec] at hidle
  simp [headCompletes, hitems, hphase] at hidle

end Sys2Proof.Machine
end
section
namespace Sys2Proof.Machine

/-! ### What a fabric sends over (R389 to R397)

Sending and resending, failing and waking change the pairs and the buffers of the links; which routes are up, the identity table and the own
number stay as they are, and the controller's log grows. -/

/-- The routes of `G` are those of `F`: the same identity, the same table, and each link as it was but for what it buffers. -/
structure Fabric.routesAs (F G : Fabric) : Prop where
  chip : G.chip = F.chip
  gen : G.gen = F.gen
  ids : G.ids = F.ids
  wf : twf G.links {} = true
  up : ∀ l, (tget G.links l {}).up = (tget F.links l {}).up
  training : ∀ l, (tget G.links l {}).training = (tget F.links l {}).training

section

variable {F G : Fabric}

theorem routesAs_refl (h : twf F.links {} = true) : F.routesAs F := ⟨rfl, rfl, rfl, h, fun _ => rfl, fun _ => rfl⟩

theorem sendOn_routesAs (h : F.routesAs G) (l : Nat) (fs : List (List Byte × Bool)) : F.routesAs (G.sendOn l fs) := by
  have hlinks : ∀ k, (tget (G.sendOn l fs).links k {}).up = (tget G.links k {}).up ∧ (tget (G.sendOn l fs).links k {}).training = (tget G.links k {}).training := by
    intro k
    unfold Fabric.sendOn
    dsimp only
    by_cases hk : k = l
    · subst hk
      rw [tget_tset_wf h.wf]
      exact ⟨rfl, rfl⟩
    · rw [tget_tset_other hk]
      exact ⟨rfl, rfl⟩
  exact ⟨h.chip, h.gen, h.ids, twf_tset h.wf, fun k => (hlinks k).1.trans (h.up k), fun k => (hlinks k).2.trans (h.training k)⟩

/-- Something is sent, or nothing is. -/
theorem sends_routesAs (h : F.routesAs G) (b : Prop) [Decidable b] (l : Nat) (fs : List (List Byte × Bool)) :
    F.routesAs (if b then G else G.sendOn l fs) := by
  split
  · exact h
  · exact sendOn_routesAs h l fs

theorem routed_routesAs (h : F.routesAs G) (n : Nat) : routed G n = routed F n := by
  have hlink : ∀ l, G.linkUp l = F.linkUp l := fun l => by
    unfold Fabric.linkUp Link.open?
    rw [h.up, h.training]
  unfold routed Fabric.entry
  rw [h.ids, hlink, hlink]

theorem resend_routesAs (h : F.routesAs G) (own n : Nat) (p : Pair) (t : Txn) : t.resend G own n p = t.resend F own n p := by
  unfold Txn.resend
  rw [routed_routesAs h]
  unfold Fabric.genOf Fabric.entry
  rw [h.ids, h.chip, h.gen]

end

/-- The routes are those of `F`, and the controller's log holds at least `L`. -/
def State.controls (F : Fabric) (L : List (Nat × Nat × Nat)) (t : State) : Prop := F.routesAs t.fabric ∧ L ⊆ t.mgr.log

section

variable {F : Fabric} {L : List (Nat × Nat × Nat)} {s t : State}

theorem controls_of_eq (h : s.controls F L) (hf : t.fabric = s.fabric) (hm : t.mgr = s.mgr) : t.controls F L := by
  unfold State.controls
  rw [hf, hm]
  exact h

theorem controls_log (h : s.controls F L) (e : Nat × Nat × Nat) : State.controls F L { s with mgr := { s.mgr with log := s.mgr.log ++ [e] } } :=
  ⟨h.1, fun _ hx => List.mem_append_left _ (h.2 hx)⟩

theorem controls_pairs (h : s.controls F L) (ps : Tbl Pair) (later : List (Nat × Nat × Nat × Flit)) :
    State.controls F L { s with fabric := { s.fabric with pairs := ps, later := later } } :=
  ⟨⟨h.1.chip, h.1.gen, h.1.ids, h.1.wf, h.1.up, h.1.training⟩, h.2⟩

theorem onPair_controls (h : s.controls F L) (own n : Nat) (f : Pair → Pair) : (s.onPair own n f).controls F L := controls_pairs h _ s.fabric.later

theorem onCtx_controls (h : s.controls F L) (c : CtxLoc) (f : Context → Context) : (s.onCtx c f).controls F L := controls_of_eq h (by simp) (by simp)
theorem onClu_controls (h : s.controls F L) (p : Nat) (f : Cluster → Cluster) : (s.onClu p f).controls F L := controls_of_eq h rfl rfl
theorem onPart_controls (h : s.controls F L) (p : Nat) (f : Partition → Partition) : (s.onPart p f).controls F L := controls_of_eq h rfl rfl

theorem sendFrom_controls (h : s.controls F L) (own chip kind : Nat) (f : Flit) (who : Option Origin) : (s.sendFrom own chip kind f who).controls F L := by
  unfold State.sendFrom
  dsimp only
  split
  · exact controls_pairs (s := { s with fabric := _ }) ⟨sendOn_routesAs h.1 _ _, h.2⟩ _ s.fabric.later
  · exact controls_pairs h _ s.fabric.later

theorem sendLater_controls (h : s.controls F L) (own chip kind : Nat) (f : Flit) : (s.sendLater own chip kind f).controls F L := by
  unfold State.sendLater
  exact ite_keeps (sendFrom_controls h ..) (controls_pairs h s.fabric.pairs _)

theorem sendWrite_controls (h : s.controls F L) (die : Nat) (obs : Stamp) (chip kind : Nat) (f : Flit) (who : Origin) :
    (s.sendWrite die obs chip kind f who).controls F L := by
  unfold State.sendWrite
  refine sendFrom_controls ?_ ..
  exact controls_of_eq h rfl rfl

theorem noteWalk_controls (h : s.controls F L) (pcl p va : Nat) : (s.noteWalk pcl p va).controls F L := by
  unfold State.noteWalk
  split
  · exact controls_log h _
  · exact h

theorem resendWhere_controls (h : s.controls F L) (own n : Nat) (f : Txn → Bool) : (s.resendWhere own n f).controls F L := by
  unfold State.resendWhere
  dsimp only
  have hsent : ∀ G, F.routesAs G → State.controls F L { s with fabric := G } := fun G hG => ⟨hG, h.2⟩
  exact onPair_controls (hsent _ (sends_routesAs h.1 _ _ _)) _ _ _

/-! ### A transaction that ends with error (R391, R394, R397) -/

theorem landed_controls (h : s.controls F L) (t : Txn) : (s.landed t).controls F L := by
  unfold State.landed
  split
  · exact controls_of_eq h rfl rfl
  · exact h

theorem onFetch_controls (h : s.controls F L) (p : Nat) (a : Word) (i : Nat) (f : Fetch → Fetch) : (s.onFetch p a i f).controls F L := onPart_controls h _ _

theorem onCmd_controls (h : s.controls F L) (pcl e num : Nat) (f : Cmd → Cmd) : (s.onCmd pcl e num f).controls F L := onClu_controls h _ _

theorem tell_controls (h : s.controls F L) (who : Origin) (v : Word) (st : Stamp) (flt : Option (BitVec 8)) : (s.tell who v st flt).controls F L := by
  unfold State.tell
  split
  · dsimp only
    split
    · exact onCtx_controls h _ _
    · exact onClu_controls (onCtx_controls h _ _) _ _
  · exact onCmd_controls h _ _ _ _
  · exact h
  · exact h

theorem vpoison_controls (h : s.controls F L) (pcl p va n : Nat) : (s.vpoison pcl p va n).controls F L := by
  unfold State.vpoison
  refine foldl_keeps (P := State.controls F L) (fun u a hu => ?_) h
  split
  · exact hu
  · exact ite_keeps hu (controls_of_eq hu rfl rfl)

theorem poisonAt_controls (h : s.controls F L) (k : Cmd) (d : SideK) (a n : Nat) : (poisonAt s k d a n).controls F L := by
  unfold poisonAt
  refine ite_keeps h ?_
  cases d with
  | win => exact onCtx_controls h _ _
  | moss p => exact onClu_controls h _ _
  | dev => exact vpoison_controls h ..
  | far _ => exact h

theorem poisonSpans_controls (h : s.controls F L) (k : Cmd) : (poisonSpans k s).controls F L := ite_keeps h (poisonAt_controls h ..)

theorem poisonRest_controls (h : s.controls F L) (k : Cmd) : (poisonRest k s).controls F L := by
  unfold poisonRest
  refine foldl_keeps (P := State.controls F L) (fun u j hu => ?_) h
  split
  · exact hu
  · exact poisonAt_controls hu ..

theorem noteCmd_controls (h : s.controls F L) (k : Cmd) (code : BitVec 8) : (s.noteCmd k code).controls F L := by
  unfold State.noteCmd
  refine ite_keeps h ?_
  split
  · exact noteWalk_controls h ..
  · exact h

theorem sendOut_controls (h : s.controls F L) (own e : Nat) (k : Cmd) : (sendOut own e k s).2.controls F L := by
  unfold sendOut
  generalize { k with out := [] } = k'
  exact foldl_keeps (P := fun p : Cmd × State => p.2.controls F L) (fun p w hp => sendWrite_controls hp ..) (b := (k', s)) h

theorem collAborted_controls (h : s.controls F L) (p q cid : Nat) : (s.collAborted p q cid).controls F L := by
  unfold State.collAborted
  dsimp only
  refine ite_keeps h ?_
  split
  · exact onClu_controls h _ _
  · split
    · exact h
    · exact onClu_controls (ite_keeps h (poisonSpans_controls h _)) _ _

theorem collTell_controls (h : s.controls F L) (c : Coll) : (s.collTell c).controls F L := by
  unfold State.collTell
  refine foldl_keeps (P := State.controls F L) (fun u j hu => ?_) h
  split
  · exact hu
  · exact ite_keeps (collAborted_controls hu ..) (ite_keeps hu (sendLater_controls hu ..))

theorem cmdFails_controls (h : s.controls F L) (pcl e : Nat) (code : BitVec 8) (k : Cmd) : (s.cmdFails pcl e code k).controls F L := by
  have hsent := sendOut_controls (noteCmd_controls h k code) pcl e k
  unfold State.cmdFails
  generalize sendOut pcl e k (s.noteCmd k code) = r at hsent ⊢
  obtain ⟨k', u⟩ := r
  dsimp only at hsent ⊢
  have hrest := ite_keeps (b := (decide (code = 0x0F) && k'.fn != 0x20) = true) (poisonRest_controls hsent k') hsent
  split
  · exact collTell_controls (onClu_controls (onClu_controls (poisonSpans_controls hrest k') _ _) _ _) _
  · exact onClu_controls hrest _ _

theorem cmdFar_controls (h : s.controls F L) (pcl e num : Nat) (counted : Bool) : (s.cmdFar pcl e num counted).controls F L := by
  unfold State.cmdFar
  split
  · exact h
  · exact ite_keeps (ite_keeps (onClu_controls h _ _) (cmdFails_controls h ..)) h

theorem txnFails_controls (h : s.controls F L) (t : Txn) : (s.txnFails t).controls F L := by
  have hlanded := landed_controls h t
  unfold State.txnFails
  dsimp only
  split
  · exact hlanded
  · exact cmdFar_controls hlanded ..
  · exact onFetch_controls hlanded ..
  · exact tell_controls hlanded ..

theorem txnLost_controls (h : s.controls F L) (t : Txn) : (s.txnLost t).controls F L := by
  unfold State.txnLost
  refine txnFails_controls ?_ t
  split
  · exact onFetch_controls h ..
  · exact h

theorem voidPair_controls (h : s.controls F L) (own n : Nat) : (s.voidPair own n).controls F L := by
  unfold State.voidPair
  exact foldl_keeps (P := State.controls F L) (fun u t hu => txnLost_controls hu t) (onPair_controls h _ _ _)

theorem forget_controls (h : s.controls F L) (n : Nat) : (s.forget n).controls F L := by
  unfold State.forget
  exact foldl_keeps (P := State.controls F L) (fun u t hu => txnFails_controls hu t) (controls_pairs h _ _)

theorem resendAll_controls (h : s.controls F L) (n : Nat) : (s.resendAll n).controls F L :=
  foldl_keeps (P := State.controls F L) (fun _ own hu => resendWhere_controls hu own n _) h

/-! ### Strands that come back (R187, R190, R399) -/

theorem recordFailed_controls (h : s.controls F L) (p l n : Nat) (c : BitVec 8) (a : Word) : (s.recordFailed p l n c a).controls F L :=
  controls_log (s := (s.countEnd p l _).loseRecord p l n) (onPart_controls (onPart_controls h _ _) _ _) (434, n, p)

theorem noteRead_controls {α : Type} (h : s.controls F L) (pcl p : Nat) (r : Except (BitVec 8 × Nat) α) : (s.noteRead pcl p r).controls F L := by
  unfold State.noteRead
  split
  · exact ite_keeps (noteWalk_controls h ..) h
  · exact h

theorem vwrite_controls (pcl p : Nat) (o : Stamp) (l : List (Nat × List Byte)) : ∀ {s : State}, s.controls F L → (s.vwrite pcl p o l).1.controls F L := by
  induction l with
  | nil => exact fun h => h
  | cons e r ih =>
    intro s h
    unfold State.vwrite
    split
    · exact noteWalk_controls h ..
    · split
      · exact h
      · exact ih (controls_of_eq h rfl rfl)

theorem editRecord_controls (h : s.controls F L) (p q l n : Nat) (a : Word) (st : Stamp) (f : List Byte → List Byte) :
    (s.editRecord p q l n a st f).1.controls F L := by
  unfold State.editRecord
  dsimp only
  split
  · exact recordFailed_controls (noteRead_controls h ..) ..
  · have hstored : ∀ bs, (s.vstore p q st a.toNat bs).1.controls F L := fun bs => vwrite_controls _ _ _ _ h
    split
    · exact hstored _
    · exact recordFailed_controls (hstored _) ..

theorem takeExpiry_controls (h : s.controls F L) (p l n : Nat) : (s.takeExpiry p l n).2.controls F L := by
  unfold State.takeExpiry
  dsimp only
  split
  · exact h
  · exact controls_of_eq h rfl rfl

theorem enterReady_controls (h : s.controls F L) (p q l n : Nat) (a : Word) (prio : BitVec 3) (rd : Option (Reg × Option (Nat × Nat))) :
    (s.enterReady p q l n a prio rd).controls F L := controls_of_eq h rfl rfl

theorem wake_controls (h : s.controls F L) (w : Waiter) : (s.wake w).controls F L := by
  have htaken := takeExpiry_controls (s := { s with waiters := s.waiters.erase w }) (controls_of_eq h rfl rfl) w.part w.launch w.strand
  unfold State.wake
  dsimp only
  exact ite_keeps (enterReady_controls (editRecord_controls htaken ..) ..) (editRecord_controls htaken ..)

theorem bringBack_controls (h : s.controls F L) (r : Strand) : (s.bringBack r).controls F L := by
  unfold State.bringBack
  refine ite_keeps h ?_
  split
  · exact recordFailed_controls h ..
  · refine ite_keeps ?_ (enterReady_controls h ..)
    have hwaits : ∀ w, State.controls F L { s with waiters := s.waiters ++ [w] } := fun w => controls_of_eq h rfl rfl
    exact ite_keeps (wake_controls (hwaits _) _) (hwaits _)

end

end Sys2Proof.Machine
end
section
namespace Sys2Proof.Machine

/-! ### Sending again (R393, R397, R405) -/

theorem pairKey_div (own n : Nat) (hn : n < 4096) : pairKey own n / 4096 = own ∧ pairKey own n % 4096 = n := by
  unfold pairKey
  omega

theorem pairKey_of_key (k : Nat) : pairKey (k / 4096) (k % 4096) = k := by
  unfold pairKey
  omega

/-- The replay buffer of a pair after the transactions that a test selects are sent again. -/
def Fabric.resent (F : Fabric) (own n : Nat) (f : Txn → Bool) (p : Pair) : List Txn :=
  p.replay.map fun t => if f t then t.resend F own n p else t

/-- `q` is the pair `p` after sending again: a pair that keeps nothing stays as it is. -/
def Fabric.resentPair (F : Fabric) (own n : Nat) (f : Txn → Bool) (p q : Pair) : Prop :=
  q.replay = F.resent own n f p ∧ (p.replay = [] → q = p)

section

variable {F : Fabric} {L : List (Nat × Nat × Nat)} {s : State}

theorem sends_pairs (G : Fabric) (b : Prop) [Decidable b] (l : Nat) (fs : List (List Byte × Bool)) :
    (if b then G else G.sendOn l fs).pairs = G.pairs := by
  split <;> rfl

/-- Sending again changes the replay buffer of its own pair, and at most the acknowledgment that it has told. -/
theorem resendWhere_pairs (h : s.controls F L) (own n : Nat) (f : Txn → Bool) :
    ∃ q, F.resentPair own n f (s.pairAt own n) q ∧ (s.resendWhere own n f).fabric.pairs = tset s.fabric.pairs (pairKey own n) q {} := by
  have hresent : F.resent own n f (s.pairAt own n) = (s.pairAt own n).replay.map fun t => if f t then t.resend s.fabric own n (s.pairAt own n) else t := by
    simp only [Fabric.resent, resend_routesAs h.1]
  unfold Fabric.resentPair
  rw [hresent]
  unfold State.resendWhere State.onPair State.pairAt
  simp only [sends_pairs]
  refine ⟨_, ⟨rfl, fun hnil => ?_⟩, rfl⟩
  have hkept : ∀ p : Pair, p.replay = [] → { p with replay := [], told := p.told } = p := fun p hp => hp ▸ rfl
  simp only [hnil, List.map_nil, List.filter_nil, List.flatMap_nil, ite_self, List.isEmpty_nil, if_true]
  exact hkept _ hnil

/-- A fold that changes the pair of each key once leaves each as its step does, and every other pair as it was. -/
theorem foldl_pairs {β : Type} {key : β → Nat} {g : State → β → State} {R : β → Pair → Pair → Prop}
    (hg : ∀ u b, u.controls F L → twf u.fabric.pairs {} = true → (g u b).controls F L ∧ twf (g u b).fabric.pairs {} = true ∧
      R b (tget u.fabric.pairs (key b) {}) (tget (g u b).fabric.pairs (key b) {}) ∧
      ∀ j, j ≠ key b → tget (g u b).fabric.pairs j {} = tget u.fabric.pairs j {}) (l : List β) :
    ∀ {s : State}, (l.map key).Nodup → s.controls F L → twf s.fabric.pairs {} = true →
      (l.foldl g s).controls F L ∧ (∀ b ∈ l, R b (tget s.fabric.pairs (key b) {}) (tget (l.foldl g s).fabric.pairs (key b) {})) ∧
      ∀ j, j ∉ l.map key → tget (l.foldl g s).fabric.pairs j {} = tget s.fabric.pairs j {} := by
  induction l with
  | nil => exact fun _ hs _ => ⟨hs, fun _ hb => absurd hb List.not_mem_nil, fun _ _ => rfl⟩
  | cons b r ih =>
    intro s hnd hs hwf
    rw [List.map_cons, List.nodup_cons] at hnd
    obtain ⟨hc, hwf', hR, hother⟩ := hg s b hs hwf
    obtain ⟨hcontrols, hall, hrest⟩ := ih hnd.2 hc hwf'
    refine ⟨hcontrols, fun d hd => ?_, fun j hj => ?_⟩
    · rcases List.mem_cons.mp hd with rfl | hd
      · rw [List.foldl_cons, hrest _ hnd.1]
        exact hR
      · have hne : key d ≠ key b := fun e => hnd.1 (e ▸ List.mem_map_of_mem hd)
        rw [← hother _ hne]
        exact hall d hd
    · rw [List.map_cons, List.mem_cons, not_or] at hj
      rw [List.foldl_cons, hrest j hj.2, hother j hj.1]

/-- One resending, as a step of such a fold. -/
theorem resendWhere_step (h : s.controls F L) (hwf : twf s.fabric.pairs {} = true) (own n : Nat) (f : Txn → Bool) :
    (s.resendWhere own n f).controls F L ∧ twf (s.resendWhere own n f).fabric.pairs {} = true ∧
      F.resentPair own n f (tget s.fabric.pairs (pairKey own n) {}) (tget (s.resendWhere own n f).fabric.pairs (pairKey own n) {}) ∧
      ∀ j, j ≠ pairKey own n → tget (s.resendWhere own n f).fabric.pairs j {} = tget s.fabric.pairs j {} := by
  obtain ⟨q, hq, hpairs⟩ := resendWhere_pairs h own n f
  rw [hpairs]
  refine ⟨resendWhere_controls h own n f, twf_tset hwf, ?_, fun j hj => tget_tset_other hj⟩
  rw [tget_tset_wf hwf]
  exact hq

/-- The own numbers of the pairs with a number, as keys, are different. -/
theorem ownsOf_nodup (hwf : twf s.fabric.pairs {} = true) (n : Nat) : ((s.ownsOf n).map fun own => pairKey own n).Nodup := by
  have hkeys : (s.ownsOf n).map (fun own => pairKey own n) = (s.fabric.pairs.filter fun e => e.1 % 4096 = n).map Prod.fst := by
    unfold State.ownsOf
    rw [List.map_map]
    refine List.map_congr_left fun e he => ?_
    have hn : e.1 % 4096 = n := of_decide_eq_true (List.mem_filter.mp he).2
    rw [Function.comp_apply, ← hn]
    exact pairKey_of_key e.1
  rw [hkeys]
  exact nodup_keys_rising (risingFrom_filter (Bool.and_eq_true .. ▸ hwf : _ ∧ _).1)

theorem mem_ownsOf {own n : Nat} (hn : n < 4096) (h : s.pairAt own n ≠ {}) : own ∈ s.ownsOf n := by
  obtain ⟨hown, hnum⟩ := pairKey_div own n hn
  exact List.mem_map.mpr ⟨_, List.mem_filter.mpr ⟨mem_of_tget_ne h, decide_eq_true hnum⟩, hown⟩

/-- Sending again for a number changes the pairs with it as `resendWhere` does. -/
theorem resendOwns_pair (h : s.controls F L) (hwf : twf s.fabric.pairs {} = true) {n : Nat} (hn : n < 4096) (f : Txn → Bool) (own : Nat) :
    F.resentPair own n f (s.pairAt own n) (((s.ownsOf n).foldl (fun s own => s.resendWhere own n f) s).pairAt own n) := by
  obtain ⟨-, hall, hrest⟩ := foldl_pairs (F := F) (L := L) (key := fun own => pairKey own n) (g := fun s own => s.resendWhere own n f)
    (R := fun own => F.resentPair own n f) (fun u own hu hw => resendWhere_step hu hw own n f) (s.ownsOf n) (ownsOf_nodup hwf n) h hwf
  by_cases hp : s.pairAt own n = {}
  · by_cases hmem : own ∈ s.ownsOf n
    · exact hall own hmem
    · have hkey : pairKey own n ∉ (s.ownsOf n).map fun own => pairKey own n := fun hk => by
        obtain ⟨o, ho, heq⟩ := List.mem_map.mp hk
        have : o = own := by
          unfold pairKey at heq
          omega
        exact hmem (this ▸ ho)
      have hsame := hrest _ hkey
      unfold State.pairAt at hp ⊢
      rw [hsame, hp]
      exact ⟨rfl, fun _ => rfl⟩
  · exact hall own (mem_ownsOf hn hp)

end

/-! ### Links (R382, R405, R406) -/

theorem exec_linkReset (l : Nat) (s : State) : exec (.linkReset l) s = execLinkReset l s := rfl
theorem exec_linkDown (l : Nat) (s : State) : exec (.linkDown l) s = execLinkDown l s := rfl
theorem exec_linkRetrainComplete (l : Nat) (s : State) : exec (.linkRetrainComplete l) s = execLinkRetrainComplete l s := rfl
theorem exec_flitCrcFailure (l : Nat) (s : State) : exec (.flitCrcFailure l) s = execFlitCrcFailure l s := rfl

theorem atLink_of_lt {l : Nat} {s : State} {f : State → State} (hl : l < 18) (ht : s.mgr.tripped = false) : atLink l s f = .next (f s) := by
  simp [atLink, noObject, hl, ht]

/-- A link that comes up, or goes down: its routes are the controls of what follows. -/
theorem onLink_controls {s : State} (hwf : twf s.fabric.links {} = true) (l : Nat) (f : Link → Link) :
    (s.onLink l f).controls (s.onLink l f).fabric (s.onLink l f).mgr.log := ⟨routesAs_refl (twf_tset hwf), fun _ h => h⟩

theorem onLink_link {s : State} (hwf : twf s.fabric.links {} = true) (l : Nat) (f : Link → Link) :
    tget (s.onLink l f).fabric.links l {} = f (tget s.fabric.links l {}) := tget_tset_wf hwf

/-- A second change of a link replaces the first. -/
theorem onLink_onLink {s : State} (l : Nat) (hwf : twf s.fabric.links {} = true) (k : Link) (f : Link → Link) :
    tset (tset s.fabric.links l k {}) l (f (tget (tset s.fabric.links l k {}) l {})) {} = tset s.fabric.links l (f k) {} := by
  rw [tget_tset_wf hwf, tset_tset hwf]

/-- A link whose retrainings have failed three times goes down, and the controller is told (R406). -/
theorem linkDown_down {s : State} {l : Nat} (hwf : twf s.fabric.links {} = true) (ht : (tget s.fabric.links l {}).training = true)
    (hf : 3 ≤ (tget s.fabric.links l {}).fails) : (tget (s.linkDown l).fabric.links l {}).up = false ∧ (406, l, linkPart s l) ∈ (s.linkDown l).mgr.log := by
  let u := s.onLink l fun k => { k with up := false, training := false, retries := 0 }
  have hstart : State.controls u.fabric (u.mgr.log ++ [(406, l, linkPart s l)]) { u with mgr := { u.mgr with log := u.mgr.log ++ [(406, l, linkPart s l)] } } :=
    ⟨(onLink_controls hwf l _).1, fun _ h => h⟩
  unfold State.linkDown
  rw [if_neg (by simp [ht]; omega)]
  dsimp only
  generalize List.filter _ _ = gone
  have hend := foldl_keeps (P := State.controls _ _) (fun u (e : Nat × Pair) hu => voidPair_controls hu (e.1 / 4096) (e.1 % 4096)) (l := gone) hstart
  refine ⟨(hend.1.up l).trans ?_, hend.2 (List.mem_append_right _ (List.mem_singleton_self _))⟩
  rw [onLink_link hwf]

/-- The step of `State.sendHeld` for one pair. -/
theorem sendHeld_pairs {F : Fabric} {L : List (Nat × Nat × Nat)} {s : State} (h : s.controls F L) (hwf : twf s.fabric.pairs {} = true) :
    s.sendHeld.controls F L ∧ ∀ e ∈ s.fabric.pairs, routed F (e.1 % 4096) = true →
      F.resentPair (e.1 / 4096) (e.1 % 4096) (fun t => !t.sent) e.2 (tget s.sendHeld.fabric.pairs e.1 {}) := by
  have hrise : risingFrom none s.fabric.pairs = true := (Bool.and_eq_true .. ▸ hwf : _ ∧ _).1
  obtain ⟨hc, hall, -⟩ := foldl_pairs (F := F) (L := L) (key := Prod.fst)
    (g := fun s e => if routed s.fabric (e.1 % 4096) then s.resendWhere (e.1 / 4096) (e.1 % 4096) fun t => !t.sent else s)
    (R := fun e p q => routed F (e.1 % 4096) = true → F.resentPair (e.1 / 4096) (e.1 % 4096) (fun t => !t.sent) p q)
    (fun u e hu hw => by
      have hstep := resendWhere_step hu hw (e.1 / 4096) (e.1 % 4096) fun t => !t.sent
      have hroute := routed_routesAs hu.1 (e.1 % 4096)
      rw [pairKey_of_key] at hstep
      rw [hroute]
      split
      case isTrue hr => exact ⟨hstep.1, hstep.2.1, fun _ => hstep.2.2.1, hstep.2.2.2⟩
      case isFalse hr => exact ⟨hu, hw, fun hr' => absurd hr' hr, fun _ _ => rfl⟩) s.fabric.pairs (nodup_keys_rising hrise) h hwf
  refine ⟨hc, fun e he hr => ?_⟩
  have hpair := hall e he hr
  rw [tget_of_mem_rising hrise he] at hpair
  exact hpair

/-- The end of a training carries what was held (R406). -/
theorem linkTrained_sends {s : State} {l n : Nat} {p : Pair} (hlinks : twf s.fabric.links {} = true) (hpairs : twf s.fabric.pairs {} = true)
    (hmem : (n, p) ∈ s.fabric.pairs) (hr : routed (s.linkTrained l).fabric (n % 4096) = true) :
    ∃ q, (n, q) ∈ (s.linkTrained l).fabric.pairs ∧ q.replay.length = p.replay.length ∧ ∀ u ∈ q.replay, u.sent = true := by
  rw [show s.linkTrained l = (s.onLink l fun k => { k with up := true, training := false, fails := 0 }).sendHeld from rfl] at hr ⊢
  obtain ⟨hc, hall⟩ := sendHeld_pairs (onLink_controls hlinks l fun k => { k with up := true, training := false, fails := 0 }) hpairs
  have hr' := (routed_routesAs hc.1 _).symm.trans hr
  obtain ⟨hreplay, hempty⟩ := hall (n, p) hmem hr'
  dsimp only at hreplay hempty
  have hlen := congrArg List.length hreplay
  rw [Fabric.resent, List.length_map] at hlen
  refine ⟨_, mem_of_tget_ne (d := ({} : Pair)) fun hnone => ?_, hlen, fun u hu => ?_⟩
  · rw [hnone] at hlen hempty
    have hnil : p.replay = [] := List.eq_nil_of_length_eq_zero hlen.symm
    have hne : p ≠ {} := fun e => by
      have := List.all_eq_true.mp (Bool.and_eq_true .. ▸ hpairs : _ ∧ _).2 _ hmem
      simp [e] at this
    exact hne (hempty hnil).symm
  · rw [hreplay] at hu
    obtain ⟨t, -, rfl⟩ := List.mem_map.mp hu
    cases ht : t.sent with
    | true => simp [ht]
    | false => simpa [ht, Txn.resend] using hr'

theorem linkTrained_up {s : State} (hlinks : twf s.fabric.links {} = true) (hpairs : twf s.fabric.pairs {} = true) (l : Nat) :
    (tget (s.linkTrained l).fabric.links l {}).up = true ∧ (tget (s.linkTrained l).fabric.links l {}).training = false := by
  obtain ⟨hc, -⟩ := sendHeld_pairs (onLink_controls hlinks l fun k => { k with up := true, training := false, fails := 0 }) hpairs
  have hlink := onLink_link hlinks l fun k => { k with up := true, training := false, fails := 0 }
  exact ⟨(hc.1.up l).trans (by rw [hlink]), (hc.1.training l).trans (by rw [hlink])⟩

/-- A link that goes down without pairs is reported, and nothing ends. -/
theorem linkDown_alone {s : State} {l : Nat} (ht : (tget s.fabric.links l {}).training = true) (hf : 3 ≤ (tget s.fabric.links l {}).fails)
    (hp : s.fabric.pairs = []) : s.linkDown l = { s with
      fabric := { s.fabric with links := tset s.fabric.links l { tget s.fabric.links l {} with up := false, training := false, retries := 0 } {} }
      mgr := { s.mgr with log := s.mgr.log ++ [(406, l, linkPart s l)] } } := by
  unfold State.linkDown
  rw [if_neg (by simp [ht]; omega)]
  have hnone : (s.onLink l fun k => { k with up := false, training := false, retries := 0 }).fabric.pairs = [] := hp
  simp only [hnone, List.filter_nil, List.foldl_nil]
  rfl

/-- What a failed flit does to its link, before the link is looked at. -/
def State.crcFailed (s : State) (l : Nat) : State :=
  let u := s.onLink l fun k => { k with retries := k.retries + 1 }
  { u with fabric := { u.fabric with crc := u.fabric.crc + 1 } }

theorem crcFailed_retries {s : State} (hlinks : twf s.fabric.links {} = true) (l : Nat) :
    (tget (s.crcFailed l).fabric.links l {}).retries = (tget s.fabric.links l {}).retries + 1 := by
  have h : tget (s.crcFailed l).fabric.links l {} = _ := tget_tset_wf hlinks
  rw [h]

theorem execFlitCrcFailure_of_lt {s : State} {l : Nat} (hl : l < 18) (ht : s.mgr.tripped = false) (hlinks : twf s.fabric.links {} = true) :
    execFlitCrcFailure l s = .next (if 16 ≤ (tget s.fabric.links l {}).retries then
      { (s.crcFailed l).linkReset l with mgr := { s.mgr with log := s.mgr.log ++ [(405, l, linkPart s l)] } } else s.crcFailed l) := by
  have hretries := crcFailed_retries hlinks l
  rw [execFlitCrcFailure, atLink_of_lt hl ht]
  change Host.Outcome.next (if 16 < (tget (s.crcFailed l).fabric.links l {}).retries then _ else _) = _
  rw [hretries]
  by_cases h : 16 ≤ (tget s.fabric.links l {}).retries
  · rw [if_pos h, if_pos (Nat.lt_succ_of_le h)]
    rfl
  · rw [if_neg h, if_neg (fun h' => h (Nat.le_of_lt_succ h'))]
    rfl

/-- The link of a failed flit that is reset at once has its retries at 0. -/
theorem crcFailed_linkReset {s : State} (hlinks : twf s.fabric.links {} = true) (l : Nat) : (s.crcFailed l).linkReset l = { s with
    fabric := { s.fabric with links := tset s.fabric.links l { tget s.fabric.links l {} with training := true, retries := 0, fails := 0 } {}, crc := s.fabric.crc + 1 } } := by
  have hagain := onLink_onLink l hlinks { tget s.fabric.links l {} with retries := (tget s.fabric.links l {}).retries + 1 }
    fun k => { k with training := true, retries := 0, fails := 0 }
  exact congrArg (fun t => { s with fabric := { s.fabric with links := t, crc := s.fabric.crc + 1 } }) hagain

/-! ### Checkpoints, identities and spares (R394 to R400) -/

theorem exec_retransmitTimeout (dst : Nat) (seq : BitVec 32) (s : State) :
    exec (.retransmitTimeout dst seq) s = execRetransmitTimeout dst seq s := rfl
theorem exec_checkpointCommit (p : Nat) (s : State) : exec (.checkpointCommit p) s = execCheckpointCommit p s := rfl
theorem exec_identityEntryWrite (n : Nat) (e : IdEntry) (s : State) : exec (.identityEntryWrite n e) s = execIdentityEntryWrite n e s := rfl
theorem exec_spareRestore (n : Nat) (gen : BitVec 8) (m : Image) (s : State) : exec (.spareRestore n gen m) s = execSpareRestore n gen m s := rfl

theorem resendWhere_mem (s : State) (own n : Nat) (f : Txn → Bool) : (s.resendWhere own n f).mem = s.mem := rfl

/-- Sending again leaves the memory as it is. -/
theorem resendOwns_mem (s : State) (l : List Nat) (n : Nat) (f : Txn → Bool) : (l.foldl (fun s own => s.resendWhere own n f) s).mem = s.mem :=
  foldl_keeps (P := fun u : State => u.mem = s.mem) (fun u own h => (resendWhere_mem u own n f).trans h) rfl

theorem foldl_fixed_mem {α β : Type} {f : β → α → β} {b : β} {l : List α} (h : ∀ a ∈ l, f b a = b) : l.foldl f b = b := by
  induction l with
  | nil => rfl
  | cons a r ih =>
    rw [List.foldl_cons, h a List.mem_cons_self]
    exact ih fun x hx => h x (List.mem_cons_of_mem _ hx)

/-- Where nothing is under way, buffered or resident, the image is the state as it stands. -/
theorem imaged_still {s : State} (hinv : s.Inv) (ht : s.transit = []) (hb : ∀ e ∈ s.clus, e.2.wbuf = []) (hr : ∀ e ∈ s.contexts, e.2.resident = false) :
    s.imaged = s := by
  have hdrain : s.clus.foldl (fun t e => t.drainAll e.1 fun _ => true) s = s :=
    foldl_fixed_mem fun e he => by
      have hcl : (s.cluAt e.1).wbuf = [] := by
        rw [State.cluAt, tget_of_mem_rising (Bool.and_eq_true .. ▸ hinv.clus : _ ∧ _).1 he]
        exact hb e he
      unfold State.drainAll
      rw [hcl]
      rfl
  have hnone : (s.contexts.filter fun e => e.2.resident) = [] := List.filter_eq_nil_iff.mpr fun e he => by simp [hr e he]
  unfold State.imaged
  simp only [hdrain, ht, hnone, List.foldl_nil, List.map_nil]

/-- Committing advances what is released to what is applied. -/
theorem released_applied (ps : Tbl Pair) (k : Nat) :
    (tget (ps.map fun e => (e.1, { e.2 with released := e.2.applied })) k ({} : Pair)).released = (tget ps k {}).applied := by
  rw [tget_map (fun p : Pair => { p with released := p.applied }) rfl]

/-- An entry that is written reads so, whatever the pair's transactions end in. -/
theorem writeEntry_entry {s : State} {n : Nat} (e : IdEntry) (hlinks : twf s.fabric.links {} = true) (hids : twf s.fabric.ids ⟨0, 0, 0x1F, 0x1F, 0, false⟩ = true) :
    (s.writeEntry n e).fabric.entry n = idFields e := by
  let u : State := { s with fabric := { s.fabric with ids := tset s.fabric.ids n (idFields e) ⟨0, 0, 0x1F, 0x1F, 0, false⟩ } }
  have hstart : u.controls u.fabric u.mgr.log := ⟨routesAs_refl hlinks, fun _ h => h⟩
  have hend : (s.writeEntry n e).controls u.fabric u.mgr.log :=
    ite_keeps (P := State.controls _ _) (forget_controls hstart n) (ite_keeps (P := State.controls _ _) (resendAll_controls hstart n) hstart)
  unfold Fabric.entry
  rw [hend.1.ids]
  exact tget_tset_wf hids

/-- A pair that keeps and awaits nothing is forgotten where its entry becomes absent, and else stays as it is. -/
theorem writeEntry_pair {s : State} {n : Nat} (e : IdEntry) (hn : n < 4096) (hlinks : twf s.fabric.links {} = true) (hpairs : twf s.fabric.pairs {} = true)
    (hidle : ∀ own, (s.pairAt own n).waiting = [] ∧ (s.pairAt own n).replay = []) (own : Nat) :
    (e.state % 4 = 0 → (s.writeEntry n e).pairAt own n = {}) ∧ (e.state % 4 ≠ 0 → (s.writeEntry n e).pairAt own n = s.pairAt own n) := by
  let u : State := { s with fabric := { s.fabric with ids := tset s.fabric.ids n (idFields e) ⟨0, 0, 0x1F, 0x1F, 0, false⟩ } }
  have hstart : u.controls u.fabric u.mgr.log := ⟨routesAs_refl hlinks, fun _ h => h⟩
  constructor <;> intro hstate
  · have hopen : ((u.ownsOf n).flatMap fun own => (u.pairAt own n).open?) = [] := List.flatMap_eq_nil_iff.mpr fun o _ => by
      obtain ⟨hw, hr⟩ := hidle o
      change (s.pairAt o n).open? = []
      unfold Pair.open?
      rw [hw, hr]
      rfl
    have hforget : s.writeEntry n e = u.forget n := if_pos hstate
    rw [hforget]
    unfold State.forget
    rw [hopen, List.foldl_nil]
    refine tget_of_not_key fun hk => ?_
    obtain ⟨x, hx, hkey⟩ := List.mem_map.mp hk
    have := (List.mem_filter.mp hx).2
    rw [hkey, (pairKey_div own n hn).2] at this
    simp at this
  · have hpair := (resendOwns_pair hstart hpairs hn (fun _ => true) own).2 (hidle own).2
    have hwrite : s.writeEntry n e = if (idFields e).state = 1 then u.resendAll n else u := if_neg hstate
    rw [hwrite]
    split
    · exact hpair
    · rfl

/-- A spare takes its number and its generation, whatever comes back. -/
theorem spareRestore_identity {s : State} (hlinks : twf s.fabric.links {} = true) (n : Nat) (gen : BitVec 8) (m : Image) :
    (s.spareRestore n gen m).fabric.chip = n ∧ (s.spareRestore n gen m).fabric.gen = gen + 1 := by
  let fb : Fabric := { s.fabric with chip := n, gen := gen + 1, later := [], pairs := m.counters.foldl (fun t e => tset t e.1 (restoredPair e) {}) [] }
  let u : State := { s with
    fabric := fb, poison := m.poison.eraseDups
    mem := m.mem.foldl (fun t c => if c.1 < Config.memBytes then tset t c.1 c.2 0 else t) [] }
  have hstart : u.controls fb u.mgr.log := ⟨routesAs_refl hlinks, fun _ h => h⟩
  have hend : (s.spareRestore n gen m).controls fb u.mgr.log :=
    foldl_keeps (P := State.controls _ _) (fun _ _ h => resendWhere_controls h ..)
      (foldl_keeps (P := State.controls _ _) (fun _ r h => bringBack_controls h r)
        (foldl_keeps (P := State.controls _ _) (fun _ _ h => onPart_controls h _ _) hstart))
  exact ⟨hend.1.chip, hend.1.gen⟩

theorem foldl_tset_other {α : Type} [DecidableEq α] {d : α} {a N : Nat} (l : Tbl α) : ∀ {t : Tbl α}, (∀ c ∈ l, c.1 ≠ a) →
    tget (l.foldl (fun t c => if c.1 < N then tset t c.1 c.2 d else t) t) a d = tget t a d := by
  induction l with
  | nil => exact fun _ => rfl
  | cons c r ih =>
    intro t h
    rw [List.foldl_cons, ih fun x hx => h x (List.mem_cons_of_mem _ hx)]
    split
    · exact tget_tset_other (Ne.symm (h c List.mem_cons_self))
    · rfl

/-- Writing the entries of a rising table one after the other gives the table, below a bound. -/
theorem foldl_tset_table {α : Type} [DecidableEq α] {d : α} {a N : Nat} (ha : a < N) (l : Tbl α) : ∀ {o : Option Nat} {t : Tbl α}, risingFrom o l = true →
    twf t d = true → tget t a d = d → tget (l.foldl (fun t c => if c.1 < N then tset t c.1 c.2 d else t) t) a d = tget l a d := by
  induction l with
  | nil => exact fun _ _ ht => ht
  | cons c r ih =>
    obtain ⟨j, w⟩ := c
    intro o t hl hwf ht
    have hr := risingFrom_head hl
    rw [List.foldl_cons, tget]
    by_cases hj : a = j
    · subst hj
      rw [foldl_tset_other r fun x hx => ne_of_gt (lt_of_mem_rising hr hx), if_pos ha, if_pos rfl]
      exact tget_tset_wf hwf
    · rw [if_neg hj]
      split
      · exact ih hr (twf_tset hwf) ((tget_tset_other hj).trans ht)
      · exact ih hr hwf ht

/-- The memory of a spare is that of the checkpoint, where no strand comes back. -/
theorem spareRestore_mem {s : State} (n : Nat) (gen : BitVec 8) {m : Image} (hwf : Memory.wf m.mem = true) (hs : m.strands = []) {a : Nat}
    (ha : a < Config.memBytes) : tget (s.spareRestore n gen m).mem a 0 = tget m.mem a 0 := by
  have hmem : (s.spareRestore n gen m).mem = m.mem.foldl (fun t c => if c.1 < Config.memBytes then tset t c.1 c.2 0 else t) [] := by
    unfold State.spareRestore
    dsimp only
    rw [hs, List.foldl_nil]
    refine foldl_keeps (P := fun u : State => u.mem = m.mem.foldl (fun t c => if c.1 < Config.memBytes then tset t c.1 c.2 0 else t) [])
      (fun u e h => (resendWhere_mem u _ _ _).trans h) ?_
    refine foldl_keeps (P := fun u : State => u.mem = m.mem.foldl (fun t c => if c.1 < Config.memBytes then tset t c.1 c.2 0 else t) []) (fun u l h => ?_) rfl
    exact h
  rw [hmem]
  exact foldl_tset_table ha m.mem (Bool.and_eq_true .. ▸ hwf : _ ∧ _).1 rfl rfl

/-- Settles O51: each event's own lemma above; the ends of transactions and the strands that come back keep identity, table and links. -/
theorem linksAndIdentities : Obligations.LinksAndIdentities := by
  unfold Obligations.LinksAndIdentities
  intro s hinv ht hlinks hpairs
  have hself : s.controls s.fabric s.mgr.log := ⟨routesAs_refl hlinks, fun _ h => h⟩
  refine ⟨?_, ?_, ?_, ?_, ?_, ?_⟩
  · intro l hl k withLink
    simp only [exec_linkReset, exec_linkDown, exec_linkRetrainComplete, exec_flitCrcFailure, execLinkReset, execLinkDown, execLinkRetrainComplete,
      atLink_of_lt hl ht]
    refine ⟨rfl, fun htr hf hp => ?_, fun htr hf => ⟨_, rfl, linkDown_down hlinks htr hf⟩, fun htr => ?_, fun hr => ?_, fun hr => ?_⟩
    · exact congrArg _ (linkDown_alone htr hf hp)
    · rw [if_pos htr]
      obtain ⟨hup, htrained⟩ := linkTrained_up hlinks hpairs l
      exact ⟨_, rfl, hup, htrained, fun n p hm hroute => linkTrained_sends hlinks hpairs hm hroute⟩
    · rw [execFlitCrcFailure_of_lt hl ht hlinks, if_neg (Nat.not_le.mpr hr)]
      rfl
    · rw [execFlitCrcFailure_of_lt hl ht hlinks, if_pos hr, crcFailed_linkReset hlinks]
  · intro dst seq hd
    rw [exec_retransmitTimeout, execRetransmitTimeout, ht]
    exact ⟨_, rfl, resendOwns_mem .., fun own => by
      simpa [Fabric.resent] using (resendOwns_pair hself hpairs hd (fun u => u.f.seq = seq) own).1⟩
  · intro p hp hformed hfar
    rw [exec_checkpointCommit, execCheckpointCommit, atPart_of_lt hp, if_neg (by simp [ht, hformed, hfar])]
    refine ⟨_, _, rfl, rfl, rfl, fun own n => released_applied .., fun htr hb hr => ?_⟩
    unfold moduleImage
    rw [imaged_still hinv htr hb hr]
    exact ⟨rfl, rfl⟩
  · intro n e hn hids
    rw [exec_identityEntryWrite, execIdentityEntryWrite, noObject, decide_eq_true hn]
    exact ⟨_, by rw [ht]; rfl, writeEntry_entry e hlinks hids⟩
  · intro n e hn hids hidle
    rw [exec_identityEntryWrite, execIdentityEntryWrite, noObject, decide_eq_true hn]
    exact ⟨_, by rw [ht]; rfl, writeEntry_entry e hlinks hids, writeEntry_pair e hn hlinks hpairs hidle⟩
  · intro n gen m hn
    rw [exec_spareRestore, execSpareRestore, noObject, decide_eq_true hn]
    obtain ⟨hchip, hgen⟩ := spareRestore_identity hlinks n gen m
    exact ⟨_, by rw [ht]; rfl, hchip, hgen, fun hwf hs a ha => spareRestore_mem n gen hwf hs ha⟩

end Sys2Proof.Machine
end
section
namespace Sys2Proof.Machine

/-! ### RDMA packets (R407, R408) -/

theorem exec_rdmaWrite (port qp : Nat) (key : BitVec 32) (va : Word) (bs : List Byte) (s : State) :
    exec (.rdmaWrite port qp key va bs) s = execRdmaWrite port qp key va bs s := rfl
theorem exec_rdmaRead (port qp : Nat) (key : BitVec 32) (va : Word) (n : Nat) (s : State) :
    exec (.rdmaRead port qp key va n) s = execRdmaRead port qp key va n s := rfl
theorem exec_rdmaInvalidRequest (port qp : Nat) (s : State) : exec (.rdmaInvalidRequest port qp) s = execRdmaInvalidRequest port qp s := rfl
theorem exec_unreliableTransportPacket (port : Nat) (s : State) :
    exec (.unreliableTransportPacket port) s = execUnreliableTransportPacket port s := rfl
theorem exec_ethernetPortDown (port : Nat) (s : State) : exec (.ethernetPortDown port) s = execEthernetPortDown port s := rfl

theorem atPort_of_lt {port : Nat} {s : State} {f : State → State} (h : port < 2) : atPort port s f = .next (f s) := by
  simp [atPort, noObject, h]

/-- A write beside the mailbox of the weight sets, where no host queue stands, rings nothing. -/
theorem mailboxes_missed {s : State} {p va n : Nat} (hq : (s.partAt p).queues = [])
    (hw : ¬((s.partAt p).wmail.toNat < va + n ∧ va < (s.partAt p).wmail.toNat + 8)) : s.mailboxes p va n = s := by
  have hmiss : ¬(decide ((s.partAt p).wmail.toNat < va + n) && decide (va < (s.partAt p).wmail.toNat + 8)) = true := by
    simpa only [Bool.and_eq_true, decide_eq_true_eq] using hw
  unfold State.mailboxes
  simp only [if_neg hmiss, hq, List.foldl_nil]

section

variable {s : State} {port qp : Nat} {key : BitVec 32} {va : Nat} (hup : s.eth.up port = true) (ht : s.mgr.tripped = false)

include hup ht

theorem rdmaWrite_refused {bs : List Byte} (hp : rdmaPart s port qp key va bs.length = none) : s.rdmaWrite port qp key va bs = s.nak port qp false := by
  unfold State.rdmaWrite
  rw [if_neg (by simp [hup, ht]), hp]

theorem rdmaWrite_large {bs : List Byte} {p : Nat} (hp : rdmaPart s port qp key va bs.length = some p) (hm : mtuOf s port qp < bs.length) :
    s.rdmaWrite port qp key va bs = s.nak port qp true := by
  unfold State.rdmaWrite
  rw [if_neg (by simp [hup, ht]), hp]
  exact if_pos hm

/-- A write beside the mailboxes stores its bytes. -/
theorem rdmaWrite_applied {bs : List Byte} {p pa : Nat} (hp : rdmaPart s port qp key va bs.length = some p)
    (hf : farPieces s p va bs.length .store = some [(pa, bs.length)]) (hm : bs.length ≤ mtuOf s port qp) (hq : (s.partAt p).queues = [])
    (hw : ¬((s.partAt p).wmail.toNat < va + bs.length ∧ va < (s.partAt p).wmail.toNat + 8)) :
    s.rdmaWrite port qp key va bs = s.hwWrite {} pa bs false := by
  have hpieces : s.writePieces [(pa, bs.length)] (bs.map fun b => (b, false)) = s.hwWrite {} pa bs false := by
    have hgood : (bs.any fun _ => false) = false := by simp
    simp [State.writePieces, List.take_of_length_le, Function.comp_def, hgood]
  unfold State.rdmaWrite
  rw [if_neg (by simp [hup, ht]), hp]
  dsimp only
  rw [if_neg (Nat.not_lt.mpr hm), hf]
  dsimp only
  rw [hpieces]
  exact mailboxes_missed (s := s.hwWrite {} pa bs false) hq hw

theorem rdmaRead_refused {n : Nat} (hp : rdmaPart s port qp key va n = none) : s.rdmaRead port qp key va n = s.nak port qp false := by
  unfold State.rdmaRead
  rw [if_neg (by simp [hup, ht]), hp]

theorem rdmaRead_answered {n p pa : Nat} (hp : rdmaPart s port qp key va n = some p) (hf : farPieces s p va n .load = some [(pa, n)])
    (hgood : pa / 64 ∉ s.poison) : s.rdmaRead port qp key va n = { s with eth := { s.eth with
      sent := s.eth.sent ++ (packets (mtuOf s port qp) (loadBytes s.mem pa n)).map fun b => (port, qp, b) } } := by
  have hread : readPieces s [(pa, n)] = (loadBytes s.mem pa n).map fun b => (b, false) := by
    have hfalse : s.poison.contains (pa / 64) = false := by simpa using hgood
    simp only [readPieces, List.flatMap_cons, List.flatMap_nil, List.append_nil, hfalse]
  unfold State.rdmaRead
  rw [if_neg (by simp [hup, ht]), hp]
  dsimp only
  rw [hf]
  dsimp only
  rw [hread, if_neg (by simp), List.map_map]
  simp [Function.comp_def]

end

/-- A port that goes down is down, and takes its queue pairs with it. -/
theorem portDown_up (s : State) {port : Nat} (h : port < 2) : (s.portDown port).eth.up port = false ∧ (s.portDown port).eth.up (1 - port) = s.eth.up (1 - port) := by
  have heth : (s.portDown port).eth = if port = 0 then { s.eth with down0 := true } else { s.eth with down1 := true } :=
    foldl_keeps (P := fun u : State => u.eth = if port = 0 then { s.eth with down0 := true } else { s.eth with down1 := true })
      (fun u p hu => (u.onPart_eth p _).trans hu) rfl
  rw [heth]
  interval_cases port <;> exact ⟨rfl, rfl⟩

/-- A change of each partition of a list changes those, from their old contents, and no other. -/
theorem foldl_onPart {f : Partition → Partition} (l : List Nat) : ∀ {s : State}, twf s.parts {} = true → l.Nodup →
    (∀ p ∈ l, (l.foldl (fun s p => s.onPart p f) s).partAt p = f (s.partAt p)) ∧
    ∀ p, p ∉ l → (l.foldl (fun s p => s.onPart p f) s).partAt p = s.partAt p := by
  induction l with
  | nil => exact fun _ _ => ⟨fun _ h => absurd h List.not_mem_nil, fun _ _ => rfl⟩
  | cons j r ih =>
    intro s hs hnd
    rw [List.nodup_cons] at hnd
    obtain ⟨hin, hout⟩ := ih (s := s.onPart j f) (twf_tset hs) hnd.2
    refine ⟨fun p hp => ?_, fun p hp => ?_⟩
    · rcases List.mem_cons.mp hp with rfl | hp
      · rw [List.foldl_cons, hout _ hnd.1, State.partAt_onPart_same hs]
      · have hne : p ≠ j := fun e => hnd.1 (e ▸ hp)
        rw [List.foldl_cons, hin p hp, State.partAt_onPart_other hne]
    · rw [List.mem_cons, not_or] at hp
      rw [List.foldl_cons, hout p hp.2, State.partAt_onPart_other hp.1]

theorem mem_formedParts {s : State} {p : Nat} : p ∈ formedParts s ↔ p < 16 ∧ (s.partAt p).formed = true := by
  simp [formedParts]

theorem formedParts_nodup (s : State) : (formedParts s).Nodup := List.Nodup.filter _ List.nodup_range

theorem portDown_qps {s : State} (hinv : s.Inv) (port : Nat) {p : Nat} (hp : p < 16) (hf : (s.partAt p).formed = true) :
    ((s.portDown port).partAt p).qps = (s.partAt p).qps.filter fun e => e.1 != port := by
  let u : State := { s with eth := if port = 0 then { s.eth with down0 := true } else { s.eth with down1 := true } }
  have hpart := (foldl_onPart (s := u) (f := fun q => { q with qps := q.qps.filter fun e => e.1 != port }) (formedParts u) hinv.parts (formedParts_nodup u)).1 p
    (mem_formedParts.mpr ⟨hp, hf⟩)
  exact congrArg Partition.qps hpart

end Sys2Proof.Machine
end
section
namespace Sys2Proof.Machine

/-! ### Armed tables (R414 to R418) -/

theorem exec_weightSetArm (p : Nat) (addr : Word) (s : State) : exec (.weightSetArm p addr) s = execWeightSetArm p addr s := rfl
theorem exec_shardFetchStart (p t : Nat) (s : State) : exec (.shardFetchStart p t) s = execShardFetchStart p t s := rfl
theorem exec_shardFetchComplete (p t i : Nat) (data : List Byte) (s : State) :
    exec (.shardFetchComplete p t i data) s = execShardFetchComplete p t i data s := rfl
theorem exec_shardFetchFailure (p t i : Nat) (reason : BitVec 8) (data : List Byte) (s : State) :
    exec (.shardFetchFailure p t i reason data) s = execShardFetchFailure p t i reason data s := rfl
theorem exec_shardTimeout (p t : Nat) (s : State) : exec (.shardTimeout p t) s = execShardTimeout p t s := rfl

/-- Work on an armed table that can be read. -/
theorem onTable_read {s : State} {p t : Nat} {a : Armed} {w : WTable} (ht : s.mgr.tripped = false) (ha : (s.partAt p).armed[t]? = some a)
    (hw : readTable s hubPcl p a.addr.toNat = .ok w) (f : Armed → WTable → State → State) : s.onTable p t f = f a w s := by
  unfold State.onTable
  rw [if_neg (by simp [ht]), ha]
  dsimp only
  rw [hw]

theorem noteWalk_tripped (s : State) (pcl p va : Nat) : (s.noteWalk pcl p va).mgr.tripped = s.mgr.tripped := by
  unfold State.noteWalk
  split <;> rfl

theorem vwrite_tripped (pcl p : Nat) (o : Stamp) (l : List (Nat × List Byte)) : ∀ s : State, (s.vwrite pcl p o l).1.mgr.tripped = s.mgr.tripped := by
  induction l with
  | nil => exact fun _ => rfl
  | cons e r ih =>
    intro s
    unfold State.vwrite
    split
    · exact noteWalk_tripped ..
    · split
      · rfl
      · exact ih _

/-- A table that misses a shard stays armed. -/
theorem disarm_missing {s : State} {p t i : Nat} {a : Armed} {w : WTable} (ht : s.mgr.tripped = false) (ha : (s.partAt p).armed[t]? = some a)
    (hw : readTable s hubPcl p a.addr.toNat = .ok w) (hi : i < w.n) (hm : w.missing i = true) : s.disarm p t = s := by
  unfold State.disarm
  rw [onTable_read ht ha hw]
  exact if_pos (List.any_eq_true.mpr ⟨i, List.mem_range.mpr hi, hm⟩)

section

variable {s u : State} {p pa : Nat} {addr : Word} (ht : s.mgr.tripped = false) (hf : (s.partAt p).formed = true)
  (hu : (s.vstore hubPcl p {} (s.partAt p).wmail.toNat (toLE 8 addr.toNat)).1 = u)

include ht hf hu

/-- A write to the mailbox of an address that can be read arms its table. -/
theorem armTable_arms (halign : addr.toNat % 64 = 0) (hrange : addr.toNat < 2 ^ 48) (htr : translate u hubPcl p addr.toNat .load = .ok pa)
    (hnew : ∀ a ∈ (s.partAt p).armed, a.addr ≠ addr) (hroom : (s.partAt p).armed.length < 8) :
    s.armTable p addr = (u.setPart p { s.partAt p with armed := (s.partAt p).armed ++ [{ addr := addr }] }).disarm p (s.partAt p).armed.length := by
  have hpart : u.partAt p = s.partAt p := by
    have := (hu ▸ vstore_wroteTo s hubPcl p {} (s.partAt p).wmail.toNat (toLE 8 addr.toNat)).parts
    unfold State.partAt
    rw [this]
  have htu : u.mgr.tripped = false := by
    rw [← hu]
    exact (vwrite_tripped ..).trans ht
  have hfresh : ((s.partAt p).armed.any fun a => decide (a.addr = addr)) = false := by simpa using hnew
  unfold State.armTable
  rw [if_neg (by simp [hf, ht]), hu]
  unfold State.armNow
  simp only [hpart]
  rw [if_neg (by simp [hf, htu]), if_neg (by simp [hfresh]), htr, if_neg (by simp [halign]; omega)]

end

/-! ### The start of a fetch (R417) -/

/-- Memory is `m`, and the table that is armed at `t` is that of `addr` with the shards `l` in flight. -/
def State.fetching (m : List Host.Cell) (p t : Nat) (addr : Word) (l : List Nat) (v : State) : Prop :=
  twf v.parts {} = true ∧ v.mem = m ∧ ∃ b, (v.partAt p).armed[t]? = some b ∧ b.addr = addr ∧ b.flying = l

section

variable {m : List Host.Cell} {p t : Nat} {addr : Word} {l : List Nat} {s v : State}

theorem fetching_of_parts (h : s.fetching m p t addr l) (hm : v.mem = s.mem) (hp : v.parts = s.parts) : v.fetching m p t addr l := by
  unfold State.fetching State.partAt
  rw [hm, hp]
  exact h

theorem fetching_onFetch (h : s.fetching m p t addr l) (q : Nat) (a : Word) (i : Nat) {f : Fetch → Fetch} (hf : ∀ x, (f x).shard = x.shard) :
    (s.onFetch q a i f).fetching m p t addr l := by
  obtain ⟨hwf, hm, b, hb, haddr, hfly⟩ := h
  refine ⟨twf_tset hwf, hm, ?_⟩
  unfold State.onFetch
  by_cases hq : p = q
  · subst hq
    rw [State.partAt_onPart_same hwf]
    simp only [List.getElem?_map, hb, Option.map_some]
    refine ⟨_, rfl, ?_, ?_⟩
    · split
      · exact haddr
      · exact haddr
    · rw [← hfly]
      split
      · unfold Armed.flying
        rw [List.map_map]
        refine List.map_congr_left fun x _ => ?_
        rw [Function.comp_apply]
        split
        · exact hf x
        · rfl
      · rfl
  · rw [State.partAt_onPart_other hq]
    exact ⟨b, hb, haddr, hfly⟩

theorem noteWalk_fetching (h : s.fetching m p t addr l) (pcl q va : Nat) : (s.noteWalk pcl q va).fetching m p t addr l :=
  fetching_of_parts h (by unfold State.noteWalk; split <;> rfl) (s.noteWalk_wroteTo pcl q va).parts

theorem noteSpan_fetching (h : s.fetching m p t addr l) (q va n : Nat) : (s.noteSpan q va n).fetching m p t addr l := by
  unfold State.noteSpan
  refine ite_keeps h ?_
  split
  · exact noteWalk_fetching h ..
  · exact h

theorem noteRead_fetching {α : Type} (h : s.fetching m p t addr l) (pcl q : Nat) (r : Except (BitVec 8 × Nat) α) : (s.noteRead pcl q r).fetching m p t addr l := by
  unfold State.noteRead
  split
  · exact ite_keeps (noteWalk_fetching h ..) h
  · exact h

theorem sendRead_fetching (h : s.fetching m p t addr l) (q : Nat) (d : Shard) : (s.sendRead q d).fetching m p t addr l := by
  unfold State.sendRead
  split
  · exact h
  · exact fetching_of_parts h rfl rfl

theorem askFar_fetching (h : s.fetching m p t addr l) (q : Nat) (a : Word) (f : Fetch) (d : Shard) : (s.askFar q a f d).fetching m p t addr l := by
  have hfails : ∀ u : State, u.fetching m p t addr l → (u.onFetch q a f.shard fun x => x.fails 2).fetching m p t addr l := fun u hu =>
    fetching_onFetch hu _ _ _ fun _ => rfl
  unfold State.askFar
  dsimp only
  refine ite_keeps h ?_
  split
  · refine ite_keeps (hfails _ h) (ite_keeps h (fetching_onFetch (fetching_of_parts h rfl rfl) _ _ _ fun _ => rfl))
  · split
    · exact hfails _ (noteSpan_fetching h ..)
    · exact fetching_onFetch h _ _ _ fun _ => rfl
  · exact hfails _ h

end

theorem getElem?_setNth {α : Type} : ∀ {l : List α} {k : Nat} {v w : α}, l[k]? = some v → (setNth l k w)[k]? = some w
  | _ :: _, 0, _, _, _ => rfl
  | _ :: r, k + 1, _, _, h => getElem?_setNth (l := r) (by simpa using h)

/-- The partition when the fetch of a shard has begun. -/
def State.fetchBegun (s : State) (p t : Nat) (a : Armed) (i : Nat) : State :=
  s.setPart p { s.partAt p with armed := setNth (s.partAt p).armed t { a with fetches := a.fetches ++ [{ shard := i }] } }

/-- What the fetch of a shard that begins sends, by its descriptor. -/
def State.fetchSends (u : State) (p : Nat) (a : Armed) (i : Nat) (d : Shard) : State :=
  if !d.ok then u else if d.kind = 0 then u.sendRead p d else if d.kind = 1 then u.askFar p a.addr { shard := i } d else u

section

variable {s : State} {p t i : Nat} {a : Armed} {w : WTable}

theorem fetchBegun_fetching (hinv : s.Inv) (ha : (s.partAt p).armed[t]? = some a) : (s.fetchBegun p t a i).fetching s.mem p t a.addr (a.flying ++ [i]) := by
  refine ⟨twf_tset hinv.parts, rfl, { a with fetches := a.fetches ++ [{ shard := i }] }, ?_, rfl, ?_⟩
  · have hpart : (s.fetchBegun p t a i).partAt p = _ := tget_tset_wf hinv.parts
    rw [hpart]
    exact getElem?_setNth ha
  · simp [Armed.flying]

theorem fetchSends_fetching {u : State} {m : List Host.Cell} {addr : Word} {l : List Nat} (h : u.fetching m p t addr l) (d : Shard) :
    (u.fetchSends p a i d).fetching m p t addr l :=
  ite_keeps h (ite_keeps (sendRead_fetching h p d) (ite_keeps (askFar_fetching h p _ _ d) h))

/-- A fetch begins with the first shard that is missing and not in flight; what its descriptor asks for is sent. -/
theorem fetchStart_begins (hinv : s.Inv) (ht : s.mgr.tripped = false) (ha : (s.partAt p).armed[t]? = some a)
    (hw : readTable s hubPcl p a.addr.toNat = .ok w) (hroom : a.fetches.length < 16)
    (hfirst : (List.range w.n).find? (fun i => w.missing i && !a.flying.contains i) = some i) :
    ∃ v, State.fetching s.mem p t a.addr (a.flying ++ [i]) v ∧
      (∀ d, readShard (s.fetchBegun p t a i) p a w i = some d → v = (s.fetchBegun p t a i).fetchSends p a i d) ∧ s.fetchStart p t = v := by
  have hbegun := fetchBegun_fetching (i := i) hinv ha
  unfold State.fetchStart
  rw [onTable_read ht ha hw, if_neg (Nat.not_le.mpr hroom), hfirst]
  dsimp only
  rw [show (s.onPart p fun q => { q with armed := setNth q.armed t { a with fetches := a.fetches ++ [{ shard := i }] } }) = s.fetchBegun p t a i from rfl]
  cases hread : readShard (s.fetchBegun p t a i) p a w i with
  | some d => exact ⟨_, fetchSends_fetching hbegun d, fun d' hd' => by rw [Option.some.inj hd'], rfl⟩
  | none => exact ⟨_, noteRead_fetching hbegun .., fun d' hd' => (Option.some_ne_none d' hd'.symm).elim, rfl⟩

theorem sendRead_reads {u : State} {d : Shard} {e : Nat × Nat × Nat} (he : ((u.partAt p).qps.find? fun e => e.2.1 = d.qp && u.eth.up e.1) = some e) :
    (u.sendRead p d).eth.reads = u.eth.reads ++ [(e.1, d.qp, d.key, d.src, d.len)] := by
  unfold State.sendRead
  rw [he]

theorem noteSpan_eth (u : State) (q va n : Nat) : (u.noteSpan q va n).eth = u.eth := by
  unfold State.noteSpan State.noteWalk
  repeat' split
  all_goals rfl

theorem askFar_eth (u : State) (q : Nat) (b : Word) (f : Fetch) (d : Shard) : (u.askFar q b f d).eth = u.eth := by
  unfold State.askFar
  dsimp only
  refine ite_keeps (P := fun v : State => v.eth = u.eth) rfl ?_
  split
  · exact ite_keeps (P := fun v : State => v.eth = u.eth) rfl (ite_keeps (P := fun v : State => v.eth = u.eth) rfl rfl)
  · split
    · exact noteSpan_eth ..
    · rfl
  · rfl

section

variable {u : State} {d : Shard}

theorem fetchSends_eth (hk : d.kind ≠ 0) : (u.fetchSends p a i d).eth = u.eth := by
  unfold State.fetchSends
  rw [if_neg hk]
  exact ite_keeps (P := fun v : State => v.eth = u.eth) rfl (ite_keeps (P := fun v : State => v.eth = u.eth) (askFar_eth ..) rfl)

theorem fetchSends_parts (hk : d.kind ≠ 1) : (u.fetchSends p a i d).parts = u.parts := by
  have hread : (u.sendRead p d).parts = u.parts := by
    unfold State.sendRead
    split <;> rfl
  unfold State.fetchSends
  rw [if_neg hk]
  exact ite_keeps (P := fun v : State => v.parts = u.parts) rfl (ite_keeps (P := fun v : State => v.parts = u.parts) hread rfl)

theorem fetchSends_host (hok : d.ok = true) (hk : d.kind = 0) : u.fetchSends p a i d = u.sendRead p d := by
  unfold State.fetchSends
  rw [if_neg (by simp [hok]), if_pos hk]

theorem fetchSends_remote (hok : d.ok = true) (hk : d.kind = 1) : u.fetchSends p a i d = u.askFar p a.addr { shard := i } d := by
  unfold State.fetchSends
  rw [if_neg (by simp [hok]), if_neg (by omega), if_pos hk]

theorem fetchBegun_qps (hinv : s.Inv) : ((s.fetchBegun p t a i).partAt p).qps = (s.partAt p).qps := by
  have hpart : (s.fetchBegun p t a i).partAt p = _ := tget_tset_wf hinv.parts
  rw [hpart]

end

/-- The first request of a remote shard's fetch goes out, or fails where the module is absent. -/
theorem askFar_first {u : State} {d : Shard} {chip va : Nat} (hok : d.ok = true)
    (hplace : (placeOf 0 (BitVec.ofNat 64 d.src)).map u.localPlace = some (.remote chip va)) :
    (u.absentChip chip = true → u.askFar p a.addr { shard := i } d = u.onFetch p a.addr i fun x => x.fails 2) ∧
    (u.absentChip chip = false → u.kept < 2 ^ 20 → u.askFar p a.addr { shard := i } d =
      (u.sendTxn chip 1 { emptyFlit with va := BitVec.ofNat 64 va, len := min (256 - d.src % 256) d.len } (some (.shard p a.addr i))).onFetch p a.addr i
        fun x => { x with asked := x.asked + min (256 - d.src % 256) d.len }) := by
  have hlen : ¬ d.len ≤ 0 := by
    simp only [Shard.ok, Bool.and_eq_true, decide_eq_true_eq] at hok
    omega
  have hask : u.askFar p a.addr { shard := i } d = if u.absentChip chip then u.onFetch p a.addr i fun x => x.fails 2
      else if 2 ^ 20 ≤ u.kept then u
      else (u.sendTxn chip 1 { emptyFlit with va := BitVec.ofNat 64 va, len := min (256 - d.src % 256) d.len } (some (.shard p a.addr i))).onFetch p a.addr i
        fun x => { x with asked := x.asked + min (256 - d.src % 256) d.len } := by
    unfold State.askFar
    simp only [Nat.add_zero, Nat.sub_zero, hplace, Option.isSome_none, Bool.or_false, decide_eq_false hlen, Bool.false_eq_true, if_false]
  rw [hask]
  refine ⟨fun h => if_pos h, fun h hk => ?_⟩
  rw [if_neg (by simp [h]), if_neg (Nat.not_le.mpr hk)]

end

/-! ### The end of a fetch (R417 to R419) -/

section

variable {s : State} {p t i : Nat} {a : Armed} {w : WTable} {f : Fetch} {d : Shard} (ht : s.mgr.tripped = false)
  (ha : (s.partAt p).armed[t]? = some a) (hw : readTable s hubPcl p a.addr.toNat = .ok w)

include ht ha hw

/-- A fetch in flight with a descriptor that keeps its rules ends by its kind of source. -/
theorem fetchDone_ends (hfetch : a.fetch? i = some f) (hd : readShard s p a w i = some d) (hok : d.ok = true) (hfail : f.failed = none) (data : List Byte) :
    (d.kind = 0 → data.length = d.len → s.fetchDone p t i data = s.fetchWith p t a w i d (restOf f (data.map fun b => (b, false)))) ∧
    (d.kind = 1 → f.full d.len = true → f.got = [] → s.fetchDone p t i data = s.fetchWith p t a w i d []) ∧
    (d.kind = 2 → ∀ ps, farPieces s p d.src d.len .load = some ps → s.fetchDone p t i data = s.fetchWith p t a w i d (restOf f (readPieces s ps))) := by
  have hkeeps : ¬(!d.ok) = true := by simp [hok]
  have hruns : ¬f.failed.isSome = true := by simp [hfail]
  unfold State.fetchDone
  rw [onTable_read ht ha hw]
  simp only [hfetch, hd]
  rw [if_neg hkeeps]
  refine ⟨fun hk hlen => ?_, fun hk hfull hgot => ?_, fun hk ps hps => ?_⟩
  · rw [if_neg (by omega), if_neg hruns, if_pos hk, if_pos hlen]
  · have hnone : f.pieces d = [] := by rw [Fetch.pieces, hgot]; rfl
    rw [if_neg (by omega), if_neg hruns, if_neg (by omega), if_pos hk, hnone]
    exact if_pos hfull
  · rw [if_neg (by omega), if_neg hruns, if_neg (by omega), if_neg (by omega), hps]

omit ht ha hw in
/-- A fetch that ends has its shard present, or flagged where the destination faults. -/
theorem fetchWith_written (ps : List (Nat × List (Byte × Bool))) (u : State) :
    (writeShard p a.addr i d.dest ps s = (u, true) → s.fetchWith p t a w i d ps = u.shardPresent p t a i) ∧
    (writeShard p a.addr i d.dest ps s = (u, false) → s.fetchWith p t a w i d ps = (u.flagShard p a w 3 i).disarm p t) := by
  unfold State.fetchWith
  constructor <;> intro h <;> rw [h]

/-- A failure flags the shard where the fetch can have failed for its reason. -/
theorem fetchFails_flags (hfetch : a.fetch? i = some f) (hd : readShard s p a w i = some d) (reason : BitVec 8) :
    s.fetchFails p t i reason [] = if f.mayFail d reason then (s.flagShard p a w reason i).disarm p t else s := by
  have hnone : (if d.ok && decide (d.kind = 0) && decide (([] : List Byte).length < d.len) then
      s.putShard p a.addr i d.dest (shardPieces 0 (([] : List Byte).map fun b => (b, false))) else s) = s := by
    split <;> rfl
  unfold State.fetchFails
  rw [onTable_read ht ha hw, hd]
  dsimp only
  rw [hnone, ha, Option.bind_some, hfetch]

/-- The time-out of a table with one shard that has not come flags it. -/
theorem tableTimeout_flags (htmo : w.tmo ≠ 0) (hn : w.n = 1) (hp : w.present = 0) (hf : w.flagged = 0) :
    s.tableTimeout p t = (s.flagShard p a w 4 0).disarm p t := by
  have hmiss : (List.range w.n).filter w.missing = [0] := by
    have h0 : w.missing 0 = true := by simp [WTable.missing, hn, hp, hf]
    rw [hn]
    simp [List.range_succ, h0]
  unfold State.tableTimeout
  rw [onTable_read ht ha hw, if_neg htmo, hmiss]
  rfl

end

theorem mayFail_iff {f : Fetch} {d : Shard} {reason : BitVec 8} : f.mayFail d reason = true ↔
    f.failed = some reason ∨ (f.failed = none ∧ d.kind = 0 ∧ (reason = 2 ∨ (reason = 1 ∧ 7 ≤ f.tries))) := by
  unfold Fetch.mayFail
  cases f.failed with
  | none => simp
  | some r => simp

/-- Settles O52: a packet is refused, too large or applied as its own lemma says; what a fetch sends leaves the memory and the table's shards in
flight. -/
theorem hostAndWeights : Obligations.HostAndWeights := by
  unfold Obligations.HostAndWeights
  refine ⟨?_, ?_, ?_, ?_⟩
  · intro s port qp key va hinv hcalm hport hup nak
    obtain ⟨-, -, ht⟩ := hcalm
    simp only [exec_rdmaWrite, exec_rdmaRead, exec_rdmaInvalidRequest, exec_unreliableTransportPacket, execRdmaWrite, execRdmaRead, execRdmaInvalidRequest,
      execUnreliableTransportPacket, atPort_of_lt hport]
    refine ⟨fun bs p pa hp hf hm hq hw => ?_, fun bs hp => ?_, fun bs p hp hm => ?_, fun n p pa hp hf hgood => ?_, fun n hp => ?_, fun hq => ?_, ?_⟩
    · rw [rdmaWrite_applied hup ht hp hf hm hq hw]
      exact ⟨_, rfl, rfl, rfl⟩
    · rw [rdmaWrite_refused hup ht hp]
      rfl
    · rw [rdmaWrite_large hup ht hp hm]
      rfl
    · rw [rdmaRead_answered hup ht hp hf hgood]
    · rw [rdmaRead_refused hup ht hp]
      rfl
    · rw [if_pos (by simp [hup, ht, hq])]
      rfl
    · rw [if_pos (by simp [hup, ht])]
  · intro s port hinv hport
    rw [exec_ethernetPortDown, execEthernetPortDown, atPort_of_lt hport]
    exact ⟨_, rfl, (portDown_up s hport).1, (portDown_up s hport).2, fun p hp hf => portDown_qps hinv port hp hf⟩
  · intro s u p pa addr q hinv hcalm hp hf hu halign hrange htr hnew hroom v
    obtain ⟨-, -, ht⟩ := hcalm
    refine ⟨?_, fun w i hw hi hm => ?_⟩
    · rw [exec_weightSetArm, execWeightSetArm, atPart_of_lt hp, armTable_arms ht hf hu halign hrange htr hnew hroom]
    · have hparts : twf u.parts {} = true := by
        rw [← hu, (vstore_wroteTo ..).parts]
        exact hinv.parts
      have hv : v.partAt p = { q with armed := q.armed ++ [{ addr := addr }] } := tget_tset_wf hparts
      have htv : v.mgr.tripped = false := by
        change u.mgr.tripped = false
        rw [← hu]
        exact (vwrite_tripped ..).trans ht
      exact disarm_missing htv (a := { addr := addr }) (by rw [hv]; exact List.getElem?_concat_length) hw hi hm
  · intro s p t a w q hinv hcalm hp ha hw
    obtain ⟨-, -, ht⟩ := hcalm
    simp only [exec_shardFetchStart, exec_shardFetchComplete, exec_shardFetchFailure, exec_shardTimeout, execShardFetchStart, execShardFetchComplete,
      execShardFetchFailure, execShardTimeout, atPart_of_lt hp]
    refine ⟨fun i hroom hfirst => ?_, fun i f d data hfetch hd hok hfail => ?_, fun i f d reason hfetch hd => ?_, fun htmo hn hpr hfl => ?_⟩
    · obtain ⟨v, hv, hsent, hstart⟩ := fetchStart_begins hinv ht ha hw hroom hfirst
      obtain ⟨-, hmem, b, hb, haddr, hfly⟩ := hv
      refine ⟨v, b, by rw [hstart], hmem, hb, haddr, hfly, fun d hd hok => ?_⟩
      rw [hsent d hd]
      refine ⟨fetchSends_eth, fetchSends_parts, fun hk e he => ?_, fun hk chip va hplace => ?_⟩
      · rw [fetchSends_host hok hk, sendRead_reads (by rw [fetchBegun_qps hinv]; exact he)]
        rfl
      · rw [fetchSends_remote hok hk]
        exact askFar_first (u := s.fetchBegun p t a i) hok hplace
    · obtain ⟨hhost, hfar, hdevice⟩ := fetchDone_ends ht ha hw hfetch hd hok hfail data
      have hwritten : ∀ ps, s.fetchDone p t i data = s.fetchWith p t a w i d ps →
          (∀ u, writeShard p a.addr i d.dest ps s = (u, true) → (.next (s.fetchDone p t i data) : Out) = .next (u.shardPresent p t a i)) ∧
          ∀ u, writeShard p a.addr i d.dest ps s = (u, false) → (.next (s.fetchDone p t i data) : Out) = .next ((u.flagShard p a w 3 i).disarm p t) :=
        fun ps hps => by
          rw [hps]
          exact ⟨fun u hu => congrArg _ ((fetchWith_written ps u).1 hu), fun u hu => congrArg _ ((fetchWith_written ps u).2 hu)⟩
      exact ⟨fun hk hlen => hwritten _ (hhost hk hlen), fun hk hfull hgot => hwritten _ (hfar hk hfull hgot), fun hk ps hps => hwritten _ (hdevice hk ps hps)⟩
    · constructor
      · intro hmay
        rw [fetchFails_flags ht ha hw hfetch hd, if_pos (mayFail_iff.mpr hmay)]
      · intro hmay
        rw [fetchFails_flags ht ha hw hfetch hd, if_neg fun h => hmay (mayFail_iff.mp h)]
    · rw [tableTimeout_flags ht ha hw htmo hn hpr hfl]

end Sys2Proof.Machine
end
section
namespace Sys2Proof.Machine

/-! ### A word that is spoilt (R385)

The row, k-block or granule that is written poisoned changes granules, masks, registers, banks and its own queue; the strand runs on at its pc,
with the same L words. -/

/-- `y` runs as `x`: the same halt, pc and L queue. -/
structure Context.runsAs (x y : Context) : Prop where
  halt : y.halt = x.halt
  debug : y.debug = x.debug
  resident : y.resident = x.resident
  pc : y.pc = x.pc
  ql : y.ql = x.ql

section

variable {x y : Context}

theorem runsAs_refl (x : Context) : x.runsAs x := ⟨rfl, rfl, rfl, rfl, rfl⟩

theorem setGran_runsAs (h : x.runsAs y) (g : Nat) (v : Gran) : x.runsAs (y.setGran g v) := ⟨h.halt, h.debug, h.resident, h.pc, h.ql⟩

theorem setBank_runsAs (h : x.runsAs y) (k : Nat) (v : Bank) : x.runsAs (y.setBank k v) := ⟨h.halt, h.debug, h.resident, h.pc, h.ql⟩

theorem setMItem_runsAs (h : x.runsAs y) (k : Nat) (i : Item) : x.runsAs (y.setMItem k i) := ⟨h.halt, h.debug, h.resident, h.pc, h.ql⟩

theorem setMreg_runsAs (h : x.runsAs y) (m : Nat) (v : Mask) : x.runsAs (y.setMreg m v) := by
  unfold Context.setMreg
  split
  · exact h
  · exact ⟨h.halt, h.debug, h.resident, h.pc, h.ql⟩

theorem setRg_runsAs (h : x.runsAs y) (r : Reg) (v : Word) : x.runsAs (y.setRg r v) := by
  unfold Context.setRg
  split
  · exact h
  · exact ⟨h.halt, h.debug, h.resident, h.pc, h.ql⟩

theorem make_runsAs (h : x.runsAs y) (w : VWrite) : x.runsAs (y.make w) := by
  cases w with
  | gran g f whole es => exact setGran_runsAs h ..
  | bytes g f whole bs => exact setGran_runsAs h ..
  | tag g f => exact setGran_runsAs h ..
  | bits m bs => exact setMreg_runsAs h ..
  | mask m v =>
    have hset := setMreg_runsAs h m v
    exact ⟨hset.halt, hset.debug, hset.resident, hset.pc, hset.ql⟩
  | reg r v => exact setRg_runsAs h ..
  | flags _ => exact h

theorem spoilWrite_runsAs (h : x.runsAs y) (w : VWrite) : x.runsAs (y.spoilWrite w) := by
  cases w with
  | gran g f whole es => exact setGran_runsAs h ..
  | bytes g f whole bs => exact setGran_runsAs h ..
  | tag g f => exact setGran_runsAs h ..
  | bits m _ => unfold Context.spoilWrite; dsimp only; split; exacts [h, ⟨h.halt, h.debug, h.resident, h.pc, h.ql⟩]
  | mask m _ => unfold Context.spoilWrite; dsimp only; split; exacts [h, ⟨h.halt, h.debug, h.resident, h.pc, h.ql⟩]
  | reg _ _ => exact h
  | flags _ => exact h

/-! ### V rows -/

theorem vmake_runsAs {r : VRun} (h : x.runsAs r.x) (now : Nat × Nat × List VWrite → Bool) : x.runsAs (r.make now).x :=
  foldl_keeps (P := x.runsAs) (fun _ _ hu => foldl_keeps (P := x.runsAs) (fun _ w hv => make_runsAs hv w) hu) h

theorem vstep_runsAs {w : VWord} {r : VRun} (h : x.runsAs r.x) (lost j : Nat) : x.runsAs (w.step lost r j).x := by
  have hdue : x.runsAs (r.due w.sees).x := vmake_runsAs h _
  unfold VWord.step
  split
  · exact h
  · dsimp only
    split
    · exact hdue
    · split
      · exact hdue
      · exact vmake_runsAs hdue _
      · exact hdue

/-- The rows of a V word change sub-core, counter and window alone. -/
theorem readRowsV_runsAs {c : CtxLoc} {w : VWord} {m : Option Nat} (l : List Nat) : ∀ {a : State × VRun × Item}, x.runsAs a.2.1.x →
    x.runsAs (readRowsV c w m l a).2.1.x ∧ (readRowsV c w m l a).1.mgr = a.1.mgr ∧ (readRowsV c w m l a).1.mem = a.1.mem := by
  induction l with
  | nil => exact fun h => ⟨h, rfl, rfl⟩
  | cons j js ih =>
    rintro ⟨s, r, i⟩ h
    unfold readRowsV
    split
    · exact ⟨h, rfl, rfl⟩
    · have hcontest : ∀ (u : State) k, (u.contest c i k).1.mgr = u.mgr ∧ (u.contest c i k).1.mem = u.mem := fun u k => by
        unfold State.contest
        split <;> exact ⟨rfl, rfl⟩
      obtain ⟨hx, hmgr, hmem⟩ := ih (a := (_, w.step _ r j, _)) (vstep_runsAs h _ j)
      exact ⟨hx, hmgr.trans (hcontest _ _).1, hmem.trans (hcontest _ _).2⟩

end

/-- What a spoilt word leaves as it is: the controller, memory, and how the strand runs. -/
structure State.spoiltTo (s : State) (c : CtxLoc) (u : State) : Prop where
  inv : u.Inv
  mgr : u.mgr = s.mgr
  mem : u.mem = s.mem
  ctx : (s.ctxAt c).runsAs (u.ctxAt c)

section

variable {s t u : State} {c : CtxLoc}

theorem setCtx_spoiltTo (ht : t.Inv) (hm : t.mgr = s.mgr) (hmem : t.mem = s.mem) {y : Context} (hy : (s.ctxAt c).runsAs y) : s.spoiltTo c (t.setCtx c y) where
  inv := State.setCtx_inv ht
  mgr := (t.setCtx_mgr c y).trans hm
  mem := (t.setCtx_mem c y).trans hmem
  ctx := by rw [State.ctxAt_setCtx_same ht.others]; exact hy

theorem spoilV_spoilt (hinv : s.Inv) (h : spoilV c s = some u) : s.spoiltTo c u := by
  unfold spoilV at h
  split at h
  · exact absurd h (by simp)
  · next i w _ =>
    dsimp only at h
    generalize (if w.late || stepWord i.ins then vRows i else if i.pend.isEmpty then (vRows i).take 1 else []) = rows at h
    obtain ⟨hx, hmgr, hmem⟩ := readRowsV_runsAs (c := c) (w := w) (m := none) rows (a := (s, { VRun.of (s.ctxAt c) i with target := none }, i)) (runsAs_refl (s.ctxAt c))
    have ht := readRowsV_inv (c := c) (w := w) (m := none) (l := rows) (a := (s, { VRun.of (s.ctxAt c) i with target := none }, i)) hinv
    generalize readRowsV c w none rows (s, { VRun.of (s.ctxAt c) i with target := none }, i) = a at h hx hmgr hmem ht
    obtain ⟨t, r, j⟩ := a
    dsimp only at h hx hmgr hmem ht
    split at h
    · exact absurd h (by simp)
    · next q _ _ =>
      split at h
      · exact absurd h (by simp)
      · have hspoilt : (s.ctxAt c).runsAs (q.2.2.foldl Context.spoilWrite r.flush.x) :=
          foldl_keeps (P := (s.ctxAt c).runsAs) (fun _ v hv => spoilWrite_runsAs hv v) (vmake_runsAs hx _)
        rw [← Option.some.inj h]
        refine setCtx_spoiltTo ht hmgr hmem ?_
        generalize q.2.2.foldl Context.spoilWrite r.flush.x = y at hspoilt ⊢
        split <;> exact ⟨hspoilt.halt, hspoilt.debug, hspoilt.resident, hspoilt.pc, hspoilt.ql⟩

/-! ### k-blocks and visible granules -/

theorem swapCycle_runsAs {x y z : Context} (h : x.runsAs y) {k t : Nat} {av : Word} {i j : Item} (hs : swapCycle k av t y i = .ok (z, j)) : x.runsAs z := by
  unfold swapCycle at hs
  dsimp only at hs
  split at hs
  · split at hs
    · exact absurd hs (by simp)
    · obtain ⟨rfl, -⟩ := Prod.mk.inj (Except.ok.inj hs)
      exact h
  · obtain ⟨rfl, -⟩ := Prod.mk.inj (Except.ok.inj hs)
    exact setBank_runsAs (setGran_runsAs h ..) ..

theorem swapRest_runsAs {x : Context} {k : Nat} {av : Word} (n : Nat) : ∀ {y z : Context} {i j : Item}, x.runsAs y → swapRest k av n y i = .ok (z, j) → x.runsAs z := by
  induction n with
  | zero =>
    intro y z i j h hs
    obtain ⟨rfl, -⟩ := Prod.mk.inj (Except.ok.inj hs)
    exact h
  | succ n ih =>
    intro y z i j h hs
    unfold swapRest at hs
    split at hs
    · exact absurd hs (by simp)
    · next y' j' hc => exact ih (swapCycle_runsAs h hc) hs

theorem spoilSwap_runsAs {x y : Context} {k : Nat} {i : Item} (h : spoilSwap k x i = some y) : x.runsAs y := by
  unfold spoilSwap exchange at h
  split at h
  · next z hz =>
    rw [← Option.some.inj h]
    cases hr : swapRest k i.d (8 - i.time) x i with
    | error e => rw [hr] at hz; exact absurd hz (by simp [Except.map])
    | ok p =>
      rw [hr] at hz
      obtain rfl := Except.ok.inj hz
      exact setGran_runsAs (swapRest_runsAs _ (runsAs_refl x) (j := p.2) hr) ..
  · exact absurd h (by simp)

theorem drainRest_runsAs {x : Context} (k : Nat) (i : Item) : x.runsAs (drainRest k x i) :=
  foldl_keeps (P := x.runsAs) (fun _ _ hy => setGran_runsAs hy ..) (runsAs_refl x)

theorem stepEnd_runsAs {x : Context} (i : Item) (f : MF) (z : Bool) (sig : Option Nat) : x.runsAs (stepEnd x i f z sig).1 := by
  unfold stepEnd
  split
  · exact runsAs_refl x
  · exact setBank_runsAs (runsAs_refl x) ..

theorem parkM_runsAs {x y : Context} (h : x.runsAs y) (k : Nat) (i : Item) (n : Nat) : x.runsAs (y.parkM k i n) := setMItem_runsAs h ..

end

/-! ### M words that are spoilt, and the report of a failure (R385, R387) -/

section

variable {s t u : State} {c : CtxLoc}

theorem flags_runsAs {x y : Context} (h : x.runsAs y) (w : Word) : x.runsAs { y with fpflags := w } := ⟨h.halt, h.debug, h.resident, h.pc, h.ql⟩

theorem spoiltTo_onCtx (h : s.spoiltTo c t) {f : Context → Context} (hf : ∀ y, (s.ctxAt c).runsAs y → (s.ctxAt c).runsAs (f y)) : s.spoiltTo c (t.onCtx c f) :=
  setCtx_spoiltTo h.inv h.mgr h.mem (hf _ h.ctx)

theorem spoilM_spoilt (hinv : s.Inv) (h : spoilM c s = some u) : s.spoiltTo c u := by
  have hfin : ∀ {v : State} {y : Context} (fl : Word) (g : Context → Context), v.Inv → v.mgr = s.mgr → v.mem = s.mem → (s.ctxAt c).runsAs y →
      (∀ z, (s.ctxAt c).runsAs z → (s.ctxAt c).runsAs (g z)) → s.spoiltTo c ((v.setCtx c { y with fpflags := y.fpflags ||| fl }).onCtx c g) :=
    fun fl g hv hm hmem hy hg => spoiltTo_onCtx (setCtx_spoiltTo hv hm hmem (flags_runsAs hy _)) hg
  unfold spoilM at h
  split at h
  · exact absurd h (by simp)
  · next i _ =>
    dsimp only at h
    split at h
    · next f z _ =>
      have hv : (s.onClu c.pcl fun cl => cl.giveSlot f.cc.toNat).Inv := State.onClu_inv hinv
      have hx : (s.onClu c.pcl fun cl => cl.giveSlot f.cc.toNat).ctxAt c = s.ctxAt c := rfl
      rw [hx] at h
      split at h
      · obtain ⟨y, hy, rfl⟩ := Option.map_eq_some_iff.mp h
        exact hfin _ _ hv rfl rfl (spoilSwap_runsAs hy) fun z hz => setMItem_runsAs hz ..
      · have hend := stepEnd_runsAs (x := s.ctxAt c) i f z (some (max (max i.left i.time) (tapMax f + 30) + 16))
        generalize stepEnd (s.ctxAt c) i f z (some (max (max i.left i.time) (tapMax f + 30) + 16)) = e at h hend
        obtain ⟨y, g, stop⟩ := e
        dsimp only at h hend
        have hbank := setBank_runsAs hend f.acc.toNat { y.bank f.acc.toNat with bad := true }
        split at h
        · exact absurd h (by simp)
        · rw [← Option.some.inj h]
          exact setCtx_spoiltTo (s := s) hv rfl rfl (parkM_runsAs hbank ..)
        · split at h
          · rw [← Option.some.inj h]
            exact setCtx_spoiltTo (s := s) hv rfl rfl (parkM_runsAs (flags_runsAs hbank _) ..)
          · rw [← Option.some.inj h]
            exact hfin _ _ hv rfl rfl hbank fun z hz => setMItem_runsAs hz ..
    · split at h
      · rw [← Option.some.inj h]
        exact hfin _ _ hinv rfl rfl (setGran_runsAs (drainRest_runsAs ..) ..) fun z hz => setMItem_runsAs hz ..
      · obtain ⟨y, hy, rfl⟩ := Option.map_eq_some_iff.mp h
        exact hfin _ _ hinv rfl rfl (spoilSwap_runsAs hy) fun z hz => setMItem_runsAs hz ..
      · exact absurd h (by simp)

/-- What the failed word of an engine leaves, spoilt. -/
def spoilt (c : CtxLoc) (en : Eng) (s : State) : Option State := match en with | .v => spoilV c s | _ => spoilM c s

theorem spoilt_spoilt {en : Eng} (hinv : s.Inv) (h : spoilt c en s = some u) : s.spoiltTo c u := by
  cases en with
  | v => exact spoilV_spoilt hinv h
  | m => exact spoilM_spoilt hinv h
  | l => exact spoilM_spoilt hinv h
  | e => exact spoilM_spoilt hinv h

/-- An entry of the controller's log stays there through faults and waits. -/
theorem logged_frame (e : Nat × Nat × Nat) : FaultFrame fun u : State => e ∈ u.mgr.log where
  setCtx c x h := by rw [State.setCtx_mgr]; exact h
  setSub _ _ _ h := h
  setPart _ _ h := h
  bytes _ _ _ _ h := h
  underWay _ _ _ _ _ hl h := hl h
  cluster _ _ _ _ _ _ h := h

/-- A fault of a context with a part of an L word under way is recorded, and the cut waits. -/
theorem raise_flying {cause : BitVec 8} {tval epc : Word} {m : Option (Eng × BitVec 32 × Word)} {j : Item} {r : List Item} (hinv : s.Inv)
    (hres : (s.ctxAt c).resident = true) (hhalt : (s.ctxAt c).halt = none) (hdebug : (s.ctxAt c).debug = false) (hcause : cause ≠ 0x16 ∧ cause ≠ 0x17)
    (hitems : (s.ctxAt c).ql.items = j :: r) (hfly : (j.parts.any fun p => p.flying) = true) : s.raise c cause tval epc m =
      s.onCtx c fun x => { x with ecause := cause.setWidth 64, etval := tval, halt := some ⟨.fault, epc, m⟩ } := by
  have hflight : ∀ (e t : Word) (h : Option Halt), ({ s.ctxAt c with ecause := e, etval := t, halt := h } : Context).inFlight = true := fun e t h => by
    simp only [Context.inFlight, Bool.or_eq_true, List.any_eq_true]
    exact .inl (.inl (.inr ⟨j, by simp [hitems], List.any_eq_true.mp hfly⟩))
  unfold State.raise State.settle
  rw [if_neg (by simp [hres, hhalt, hdebug])]
  dsimp only
  rw [State.ctxAt_onCtx_same hinv.others, if_pos (hflight ..), decide_eq_false hcause.1, decide_eq_false hcause.2]
  simp only [Bool.false_and, Bool.or_self, Bool.and_false, Bool.false_eq_true, if_false]

end

end Sys2Proof.Machine
end
section
namespace Sys2Proof.Machine

/-! ### Timing errors (R383, R385, R387) -/

theorem exec_monitorSnapshotDone (pcl : Nat) (s : State) : exec (.monitorSnapshotDone pcl) s = execMonitorSnapshotDone pcl s := rfl
theorem exec_monitorPeriodicSample (pcl : Nat) (s : State) : exec (.monitorPeriodicSample pcl) s = execMonitorPeriodicSample pcl s := rfl
theorem exec_timingError (c : CtxLoc) (en : Eng) (s : State) : exec (.timingError c en) s = execTimingError c en s := rfl
theorem exec_timingReplayFailure (c : CtxLoc) (en : Eng) (s : State) : exec (.timingReplayFailure c en) s = execTimingReplayFailure c en s := rfl
theorem exec_partitionReset (p : Nat) (s : State) : exec (.partitionReset p) s = execPartitionReset p s := rfl

theorem State.ctxAt_onCtx_other {s : State} {c d : CtxLoc} (hc : c.ok = true) (hd : d.ok = true) (hne : c ≠ d) (f : Context → Context) :
    (s.onCtx d f).ctxAt c = s.ctxAt c := by
  have hkey : ckey c ≠ ckey d := fun e => hne (by rw [← cloc_ckey hc, e, cloc_ckey hd])
  unfold State.onCtx State.setCtx
  by_cases hdf : d = s.focus
  · have hcf : c ≠ s.focus := fun e => hne (e.trans hdf.symm)
    rw [if_pos hdf]
    simp [State.ctxAt, hcf]
  · rw [if_neg hdf]
    unfold State.ctxAt
    dsimp only
    rw [tget_tset_other hkey]

/-- A change of contexts of one sub-core, each once, changes each of them once. -/
theorem foldl_onCtx_sub {c : CtxLoc} (hc : c.ok = true) (f : Context → Context) (l : List Nat) : ∀ {s : State}, s.Inv → l.Nodup → (∀ k ∈ l, k < 3) →
    let t := l.foldl (fun s k => s.onCtx ⟨c.pcl, c.sub, k⟩ f) s
    (c.ctx ∈ l → t.ctxAt c = f (s.ctxAt c)) ∧ (c.ctx ∉ l → t.ctxAt c = s.ctxAt c) ∧ t.mgr = s.mgr ∧ t.mem = s.mem := by
  induction l with
  | nil => exact fun _ _ _ => ⟨fun h => absurd h List.not_mem_nil, fun _ => rfl, rfl, rfl⟩
  | cons k r ih =>
    intro s hs hnd hk
    rw [List.nodup_cons] at hnd
    obtain ⟨hin, hout, hmgr, hmem⟩ := ih (s := s.onCtx ⟨c.pcl, c.sub, k⟩ f) (State.onCtx_inv hs) hnd.2 fun j hj => hk j (List.mem_cons_of_mem _ hj)
    have hok : (⟨c.pcl, c.sub, k⟩ : CtxLoc).ok = true := by
      have := hk k List.mem_cons_self
      simp only [CtxLoc.ok, Bool.and_eq_true, decide_eq_true_eq] at hc ⊢
      exact ⟨hc.1, this⟩
    refine ⟨fun hmem' => ?_, fun hmem' => ?_, hmgr.trans (State.onCtx_mgr ..), hmem.trans (State.onCtx_mem ..)⟩
    · rcases List.mem_cons.mp hmem' with hck | hr
      · have hself : (⟨c.pcl, c.sub, k⟩ : CtxLoc) = c := by rw [← hck]
        rw [List.foldl_cons, hout (hck ▸ hnd.1), hself, State.ctxAt_onCtx_same hs.others]
      · have hne : c ≠ ⟨c.pcl, c.sub, k⟩ := fun e => hnd.1 (by rw [← show c.ctx = k from congrArg CtxLoc.ctx e]; exact hr)
        rw [List.foldl_cons, hin hr, State.ctxAt_onCtx_other hc hok hne]
    · rw [List.mem_cons, not_or] at hmem'
      have hne : c ≠ ⟨c.pcl, c.sub, k⟩ := fun e => hmem'.1 (congrArg CtxLoc.ctx e)
      rw [List.foldl_cons, hout hmem'.2, State.ctxAt_onCtx_other hc hok hne]

/-- A freeze of `n` cycles counts for a strand that runs. -/
theorem countFreeze_counts {s : State} {c : CtxLoc} (hc : c.ok = true) (hinv : s.Inv) (n : Nat) (hres : (s.ctxAt c).resident = true)
    (hhalt : (s.ctxAt c).halt = none) (hdebug : (s.ctxAt c).debug = false) :
    (countFreeze s c.pcl c.sub n).ctxAt c = { s.ctxAt c with
      cycles := (s.ctxAt c).cycles + BitVec.ofNat 64 n, freezecyc := (s.ctxAt c).freezecyc + BitVec.ofNat 64 n } ∧
    (countFreeze s c.pcl c.sub n).mgr = s.mgr ∧ (countFreeze s c.pcl c.sub n).mem = s.mem := by
  have hctx : c.ctx ∈ List.range 3 := by
    simp only [CtxLoc.ok, Bool.and_eq_true, decide_eq_true_eq] at hc
    exact List.mem_range.mpr hc.2
  obtain ⟨hin, -, hmgr, hmem⟩ := foldl_onCtx_sub hc (fun x => if x.resident && x.halt.isNone && !x.debug then
    { x with cycles := x.cycles + BitVec.ofNat 64 n, freezecyc := x.freezecyc + BitVec.ofNat 64 n } else x) (List.range 3) hinv List.nodup_range
    fun k hk => List.mem_range.mp hk
  refine ⟨(hin hctx).trans (if_pos ?_), hmgr, hmem⟩
  simp [hres, hhalt, hdebug]

/-- The failure of a replay is the fault of its word, and the controller is told. -/
theorem timingReplayFailure_next {s u : State} {c : CtxLoc} {en : Eng} {i : Item} {r : List Item} (hok : c.ok = true) (ht : s.mgr.tripped = false)
    (hrep : replayCycles (s.ctxAt c) en ≠ 0) (hitems : ((s.ctxAt c).queue en).items = i :: r) (hs : spoilt c en s = some u) :
    exec (.timingReplayFailure c en) s = .next ({ u with mgr := { u.mgr with log := u.mgr.log ++ [(385, ckey c, (s.ctxAt c).part)] } }.raise c 0x1D
      (BitVec.ofNat 64 (i.seq.toNat * 2 ^ 32 + Eng.num en)) i.pc (some (en, i.seq, i.pc))) := by
  rw [exec_timingReplayFailure, execTimingReplayFailure, atCtx_of_ok hok]
  dsimp only
  rw [if_neg (by simp [hrep, ht]), hitems]
  unfold spoilt at hs
  cases en <;> simp only [hs]

/-! ### Monitors (R363 to R365) -/

section

variable {s : State} {pcl : Nat}

/-- A snapshot that ends takes its data with it, and says whether a page was missing. -/
theorem snapDone_ends (hinv : s.Inv) (ht : s.mgr.tripped = false) (hsnap : bitOf (s.cluAt pcl).monsnap 0 = true) :
    let cl := s.cluAt pcl
    let ok := snapOk s pcl ((s.partOf pcl).getD 0) (bitsOf cl.monsnap 8 40 * 256) cl.snap
    ((s.snapDone pcl).cluAt pcl).snap = [] ∧ ((s.snapDone pcl).cluAt pcl).monsnap = putBits cl.monsnap 0 2 (if ok then 0 else 2) ∧
      (ok = false → (s.snapDone pcl).mem = s.mem) := by
  intro cl ok
  let written : State := if ok then cl.snap.foldl (fun u e =>
    (u.vstore pcl ((s.partOf pcl).getD 0) {} (bitsOf cl.monsnap 8 40 * 256 + 256 * e.1) (monBytes e.2)).1) s else s
  have hdone : s.snapDone pcl = written.onClu pcl fun cl => { cl with monsnap := putBits cl.monsnap 0 2 (if ok then 0 else 2), snap := [] } := by
    unfold State.snapDone
    exact if_neg (by simp [hsnap, ht])
  have hwrote : s.wroteTo written :=
    ite_keeps (foldl_keeps (P := s.wroteTo) (fun u e hu => State.wroteTo_trans hu (vstore_wroteTo ..)) s.wroteTo_refl) s.wroteTo_refl
  have hclu : twf written.clus {} = true := by
    rw [show written.clus = s.clus by rw [show written = _ from hwrote]]
    exact hinv.clus
  rw [hdone, State.cluAt_onClu_same hclu, hwrote.cluAt]
  refine ⟨rfl, rfl, fun hok => ?_⟩
  have hnone : written = s := if_neg (by rw [hok]; exact Bool.false_ne_true)
  change written.mem = s.mem
  rw [hnone]

/-- A sample of a source counts at the one monitor where it is enabled for that source. -/
theorem sample_mons (hinv : s.Inv) {k : Nat} {m : Mon} (hm : (s.cluAt pcl).mons = [(k, m)]) (src : Nat) (v : BitVec 32) :
    ((s.sample pcl src v).cluAt pcl).mons = [(k, if bitOf m.cfg 0 && bitsOf m.cfg 48 8 = src then monSample m v else m)] := by
  unfold State.sample
  rw [State.cluAt_onClu_same hinv.clus, hm]
  dsimp only [List.map]
  split <;> rfl

/-- The periodic sample of the write buffer's fill counts once, and adds it. -/
theorem periodic_counts (hinv : s.Inv) {k : Nat} {m : Mon} (hm : (s.cluAt pcl).mons = [(k, m)]) (hon : bitOf m.cfg 0 = true) (hsrc : bitsOf m.cfg 48 8 = 8)
    (hroom : ∀ e ∈ s.contexts, storeWaits s e.1 e.2 = false) (hlen : (s.cluAt pcl).wbuf.length < 2 ^ 32) :
    ∃ m', ((s.periodic pcl).cluAt pcl).mons = [(k, m')] ∧ m'.count = m.count + 1 ∧ m'.sum = m.sum + BitVec.ofNat 64 (s.cluAt pcl).wbuf.length ∧
      (s.periodic pcl).cx = s.cx ∧ (s.periodic pcl).mem = s.mem := by
  have hfull : (s.contexts.any fun e => decide (e.1.pcl = pcl) && storeWaits s e.1 e.2) = false :=
    List.any_eq_false.mpr fun e he => by simp [hroom e he]
  unfold State.periodic State.sampleNat
  dsimp only
  rw [hfull]
  generalize BitVec.ofNat 32 _ = v4
  generalize BitVec.ofNat 32 (min (List.foldl _ 0 (s.cluAt pcl).slotsHeld) _) = v6
  have h4 := sample_mons hinv hm 4 v4
  rw [if_neg (by simp [hsrc])] at h4
  have h6 := sample_mons (State.sample_inv hinv) h4 6 v6
  rw [if_neg (by simp [hsrc])] at h6
  have h8 := sample_mons (State.sample_inv (State.sample_inv hinv)) h6 8 (BitVec.ofNat 32 (min (s.cluAt pcl).wbuf.length (2 ^ 32 - 1)))
  rw [if_pos (by simp [hsrc, hon])] at h8
  refine ⟨_, h8, rfl, ?_, rfl, rfl⟩
  have hwidth : (BitVec.ofNat 32 (min (s.cluAt pcl).wbuf.length (2 ^ 32 - 1))).setWidth 64 = BitVec.ofNat 64 (s.cluAt pcl).wbuf.length := by
    apply BitVec.eq_of_toNat_eq
    simp only [BitVec.toNat_setWidth, BitVec.toNat_ofNat]
    omega
  exact congrArg (m.sum + ·) hwidth

end

/-! ### Partition reset (R380) -/

theorem vpoison_managed (s : State) (pcl p va n : Nat) : s.managedAs (s.vpoison pcl p va n) := by
  unfold State.vpoison
  refine foldl_keeps (P := s.managedAs) (fun u a hu => ?_) ⟨rfl, rfl⟩
  split
  · exact hu
  · exact ite_keeps (P := s.managedAs) hu hu

theorem poisonSpans_managed (s : State) (k : Cmd) : s.managedAs (poisonSpans k s) := by
  unfold poisonSpans poisonAt
  refine ite_keeps (P := s.managedAs) ⟨rfl, rfl⟩ (ite_keeps (P := s.managedAs) ⟨rfl, rfl⟩ ?_)
  split
  · exact onCtx_managed ..
  · exact ⟨rfl, rfl⟩
  · exact vpoison_managed ..
  · exact ⟨rfl, rfl⟩

theorem collAborted_managed (s : State) (p q cid : Nat) : s.managedAs (s.collAborted p q cid) := by
  unfold State.collAborted
  dsimp only
  refine ite_keeps (P := s.managedAs) ⟨rfl, rfl⟩ ?_
  split
  · exact ⟨rfl, rfl⟩
  · split
    · exact ⟨rfl, rfl⟩
    · exact State.managedAs.trans (ite_keeps (P := s.managedAs) ⟨rfl, rfl⟩ (poisonSpans_managed ..)) ⟨rfl, rfl⟩

theorem collTell_managed (s : State) (c : Coll) : s.managedAs (s.collTell c) := by
  unfold State.collTell
  refine foldl_keeps (P := s.managedAs) (fun u j hu => ?_) ⟨rfl, rfl⟩
  split
  · exact hu
  · refine ite_keeps (P := s.managedAs) (hu.trans (collAborted_managed ..)) (ite_keeps (P := s.managedAs) hu ?_)
    unfold State.sendLater
    exact ite_keeps (P := s.managedAs) hu hu

theorem abortColl_managed (s : State) (pcl : Nat) : s.managedAs (s.abortColl pcl) := by
  unfold State.abortColl
  refine foldl_keeps (P := s.managedAs) (fun u k hu => ?_) ⟨rfl, rfl⟩
  split
  · exact ite_keeps (P := s.managedAs) (hu.trans (collTell_managed ..)) hu
  · unfold State.collLost
    refine ite_keeps (P := s.managedAs) hu ?_
    split
    · exact hu.trans (collTell_managed ..)
    · exact hu

theorem drainWith_managed (s : State) (pcl : Nat) (b : Buffered) : s.managedAs (s.drainWith pcl b) := by
  unfold State.drainWith
  refine foldl_keeps (P := s.managedAs) (fun u w hu => ?_) ⟨rfl, rfl⟩
  exact foldl_keeps (P := s.managedAs) (fun v c hv => hv.trans (onCtx_managed ..)) hu

theorem drainFirst_managed (pcl : Nat) (f : Buffered → Bool) (n : Nat) : ∀ s : State, s.managedAs (drainFirst pcl f n s) := by
  induction n with
  | zero => exact fun s => s.managedAs_refl
  | succ n ih =>
    intro s
    unfold drainFirst
    split
    · exact (drainWith_managed ..).trans (ih _)
    · exact ⟨rfl, rfl⟩

theorem drainCluster_managed (s : State) (pcl : Nat) : s.managedAs (s.drainCluster pcl) := by
  unfold State.drainCluster
  exact foldl_keeps (P := s.managedAs) (fun u t hu => hu.trans (flush_managed ..)) (drainFirst_managed ..)

theorem clearCtx_managed (s : State) (c : CtxLoc) : s.managedAs (s.clearCtx c) := onCtx_managed ..
theorem clearCtx_clus (s : State) (c : CtxLoc) : (s.clearCtx c).clus = s.clus := State.onCtx_clus ..
theorem clearCtx_mem (s : State) (c : CtxLoc) : (s.clearCtx c).mem = s.mem := State.onCtx_mem ..
theorem cutCluster_managed (s : State) (k : Nat) : s.managedAs (s.cutCluster k) := ⟨rfl, rfl⟩

theorem resetCluster_managed (s : State) (pcl : Nat) : s.managedAs (s.resetCluster pcl) := by
  unfold State.resetCluster
  exact foldl_keeps (P := s.managedAs) (fun u c hu => hu.trans (clearCtx_managed u c)) ⟨rfl, rfl⟩

theorem resetClusters_managed (s : State) (l : List Nat) : s.managedAs (s.resetClusters l) := by
  unfold State.resetClusters
  refine foldl_keeps (P := s.managedAs) (fun u k hu => hu.trans (cutCluster_managed u k)) ?_
  refine foldl_keeps (P := s.managedAs) (fun _ _ hu => hu.trans (resetCluster_managed ..)) ?_
  refine foldl_keeps (P := s.managedAs) (fun _ _ hu => hu.trans (drainCluster_managed ..)) ?_
  exact foldl_keeps (P := s.managedAs) (fun _ _ hu => hu.trans (abortColl_managed ..)) ⟨rfl, rfl⟩

/-- Nothing stands in the cluster any more, and no strand runs there. -/
def State.cleared (k : Nat) (u : State) : Prop :=
  (u.cluAt k).engines = [] ∧ (u.cluAt k).wbuf = [] ∧ ∀ c, c.ok = true → c.pcl = k → (u.ctxAt c).resident = false

theorem cutCluster_cleared {u : State} {k : Nat} (j : Nat) (h : u.cleared k) : (u.cutCluster j).cleared k := h

theorem clearCtx_idle {s : State} (hinv : s.Inv) {c : CtxLoc} (d : CtxLoc) (h : (s.ctxAt c).resident = false) : ((s.clearCtx d).ctxAt c).resident = false := by
  unfold State.clearCtx
  rcases ctxAt_onCtx_cases hinv.others c d (fun x => { ({} : Context) with serial := x.serial + 1 }) with hsame | hclear
  · rw [hsame, h]
  · rw [hclear]

/-- The contexts of a cluster that is reset run no strand; no other context begins to. -/
theorem resetCluster_idle {s : State} (hinv : s.Inv) (k : Nat) {c : CtxLoc} (hc : c.ok = true) :
    (c.pcl = k → ((s.resetCluster k).ctxAt c).resident = false) ∧ ((s.ctxAt c).resident = false → ((s.resetCluster k).ctxAt c).resident = false) := by
  let l := (s.contexts.filter fun e => e.1.pcl = k).map Prod.fst
  have hctx : (s.resetCluster k).ctxAt c = (l.foldl State.clearCtx s).ctxAt c := rfl
  have hkeeps : (s.ctxAt c).resident = false → ((l.foldl State.clearCtx s).ctxAt c).resident = false := fun h =>
    (foldl_keeps (P := fun u : State => u.Inv ∧ (u.ctxAt c).resident = false) (fun u d hu => ⟨State.clearCtx_inv hu.1, clearCtx_idle hu.1 d hu.2⟩) ⟨hinv, h⟩).2
  rw [hctx]
  refine ⟨fun hk => ?_, hkeeps⟩
  cases hres : (s.ctxAt c).resident with
  | false => exact hkeeps hres
  | true =>
    have hmem : c ∈ l := List.mem_map.mpr ⟨_, List.mem_filter.mpr ⟨mem_contexts hc hres, decide_eq_true hk⟩, rfl⟩
    refine foldl_reaches (P := State.Inv) (Q := fun u => (u.ctxAt c).resident = false) (fun _ _ hu => State.clearCtx_inv hu)
      (fun u d hu hq => clearCtx_idle hu d hq) (fun u hu => ?_) hmem hinv
    unfold State.clearCtx
    rw [State.ctxAt_onCtx_same hu.others]

theorem resetCluster_cluAt {s : State} (hinv : s.Inv) (k : Nat) :
    (s.resetCluster k).cluAt k = (s.cluAt k).reset ∧ ∀ j, j ≠ k → (s.resetCluster k).cluAt j = s.cluAt j := by
  let u := ((s.contexts.filter fun e => e.1.pcl = k).map Prod.fst).foldl State.clearCtx s
  have hclus : u.clus = s.clus := foldl_keeps (P := fun v : State => v.clus = s.clus) (fun v d hv => (clearCtx_clus v d).trans hv) rfl
  have hwf : twf u.clus {} = true := hclus ▸ hinv.clus
  have hat : ∀ j, u.cluAt j = s.cluAt j := fun j => by unfold State.cluAt; rw [hclus]
  refine ⟨?_, fun j hj => ?_⟩
  · exact (State.cluAt_onClu_same hwf k _).trans (congrArg Cluster.reset (hat k))
  · exact (State.cluAt_onClu_other hj _).trans (hat j)

/-- Each cluster of a list that is reset stands cleared. -/
theorem resetClusters_cleared {s : State} (hinv : s.Inv) {l : List Nat} {k : Nat} (hk : k ∈ l) : (s.resetClusters l).cleared k := by
  unfold State.resetClusters
  refine foldl_keeps (P := State.cleared k) (fun u j hu => cutCluster_cleared j hu) ?_
  refine foldl_reaches (P := State.Inv) (Q := State.cleared k) (fun _ _ hu => State.resetCluster_inv hu) (fun u j hu hq => ?_) (fun u hu => ?_) hk
    (foldl_inv (fun _ _ h => State.drainCluster_inv h) (foldl_inv (fun _ _ h => State.abortColl_inv h) hinv))
  · obtain ⟨hsame, hother⟩ := resetCluster_cluAt hu j
    have hctx : ∀ c, c.ok = true → c.pcl = k → ((u.resetCluster j).ctxAt c).resident = false := fun c hc hp => (resetCluster_idle hu j hc).2 (hq.2.2 c hc hp)
    by_cases hj : k = j
    · subst hj
      unfold State.cleared
      rw [hsame]
      exact ⟨rfl, rfl, hctx⟩
    · unfold State.cleared
      rw [hother k hj]
      exact ⟨hq.1, hq.2.1, hctx⟩
  · unfold State.cleared
    rw [(resetCluster_cluAt hu k).1]
    exact ⟨rfl, rfl, fun c hc hp => (resetCluster_idle hu k hc).1 hp⟩

/-- A lone cluster with nothing buffered and no collective is reset as it stands. -/
theorem resetClusters_lone {s : State} {k : Nat} (ht : s.transit = []) (hb : (s.cluAt k).wbuf = []) (he : s.engQueue k 5 = []) :
    s.resetClusters [k] = (s.resetCluster k).cutCluster k := by
  have habort : s.abortColl k = s := by
    unfold State.abortColl
    rw [he]
    rfl
  have hdrain : s.drainCluster k = s := by
    unfold State.drainCluster State.drainAll
    rw [hb]
    change (s.transit.filter _).foldl _ s = s
    rw [ht]
    rfl
  unfold State.resetClusters
  simp only [List.foldl_cons, List.foldl_nil, habort, hdrain]

theorem resetCluster_mem (s : State) (k : Nat) : (s.resetCluster k).mem = s.mem :=
  foldl_keeps (P := fun u : State => u.mem = s.mem) (fun u c hu => (clearCtx_mem u c).trans hu) rfl

/-- Settles O53: what a snapshot, a sample, a mismatch and a reset leave is said by the lemmas above, one event at a time. -/
theorem monitorsAndResets : Obligations.MonitorsAndResets := by
  unfold Obligations.MonitorsAndResets
  refine ⟨?_, ?_, ?_⟩
  · intro s pcl cl hinv hp ht
    refine ⟨fun hsnap => ?_, fun k m hm hon hsrc hroom hlen => ?_⟩
    · intro ok
      rw [exec_monitorSnapshotDone, execMonitorSnapshotDone, atClu_of_lt hp]
      exact ⟨_, rfl, snapDone_ends hinv ht hsnap⟩
    · rw [exec_monitorPeriodicSample, execMonitorPeriodicSample, atClu_of_lt hp]
      obtain ⟨m', hmons, hcount, hsum, hcx, hmem⟩ := periodic_counts hinv hm hon hsrc hroom hlen
      exact ⟨_, m', by rw [if_neg (by simp [ht])], hmons, hcount, hsum, hcx, hmem⟩
  · intro s c en x n hinv hok hrep ht hres hhalt hdebug
    refine ⟨?_, fun i r u hitems hs => ?_, fun i r j q u hitems hs hl hfly => ?_⟩
    · let v : State := { s with mgr := { s.mgr with replayed := s.mgr.replayed + 1 } }
      obtain ⟨hctx, hmgr, hmem⟩ := countFreeze_counts (s := v) hok (State.inv_with hinv) (replayCycles x en) hres hhalt hdebug
      rw [exec_timingError, execTimingError, atCtx_of_ok hok]
      dsimp only
      rw [if_neg (by simp [x] at hrep; simp [hrep, ht])]
      exact ⟨_, rfl, hctx, congrArg Manager.replayed hmgr, hmem⟩
    · have hs : spoilt c en s = some u := by cases en <;> exact hs
      rw [timingReplayFailure_next hok ht hrep hitems hs]
      exact ⟨_, rfl, (logged_frame _).raise _ _ _ _ (List.mem_append_right _ (List.mem_singleton_self _))⟩
    · have hs : spoilt c en s = some u := by cases en <;> exact hs
      have hspoilt := spoilt_spoilt hinv hs
      obtain ⟨h1, h2, h3, h4, h5⟩ := hspoilt.ctx
      let v : State := { u with mgr := { u.mgr with log := u.mgr.log ++ [(385, ckey c, x.part)] } }
      have hv : v.Inv := State.inv_with hspoilt.inv
      have hraise := raise_flying (s := v) (c := c) (cause := 0x1D) (tval := BitVec.ofNat 64 (i.seq.toNat * 2 ^ 32 + Eng.num en)) (epc := i.pc)
        (m := some (en, i.seq, i.pc)) hv (h3.trans hres) (h1.trans hhalt) (h2.trans hdebug) (by decide) ((congrArg Queue.items h5).trans hl) hfly
      rw [timingReplayFailure_next hok ht hrep hitems hs, hraise]
      refine ⟨_, rfl, ?_⟩
      rw [State.ctxAt_onCtx_same hv.others, State.onCtx_mgr, State.onCtx_mem]
      exact ⟨congrArg (fun g : Manager => g.log ++ [(385, ckey c, x.part)]) hspoilt.mgr, rfl, rfl, h4, hspoilt.mem⟩
  · intro s p pcl q hinv hcalm hp hf
    obtain ⟨htransit, -, ht⟩ := hcalm
    have hpart : ∀ l, (s.resetClusters l).partAt p = q := fun l => by
      change tget (s.resetClusters l).parts p {} = tget s.parts p {}
      rw [(resetClusters_managed ..).1]
    have hreset : (s.partReset p).partAt p = q.reset := by
      have hwf : twf (s.resetClusters q.list).parts {} = true := by rw [(resetClusters_managed ..).1]; exact hinv.parts
      exact (State.partAt_onPart_same hwf p _).trans (congrArg Partition.reset (hpart _))
    rw [exec_partitionReset, execPartitionReset, atPart_of_lt hp]
    rw [if_pos (by simp [q] at hf; simp [hf, ht])]
    refine ⟨⟨_, rfl, ?_, ?_, fun k hk => ?_⟩, fun hlist hb he => ⟨_, rfl, ?_, ?_, hreset, fun c hc hk => ?_, fun l hl => ?_⟩⟩
    · rw [hreset]
      exact hf
    · rw [hreset]
      rfl
    · exact resetClusters_cleared hinv hk
    · change (s.resetClusters q.list).mem = s.mem
      rw [hlist, resetClusters_lone htransit hb he]
      exact resetCluster_mem ..
    · change (s.resetClusters q.list).cluAt pcl = _
      rw [hlist, resetClusters_lone htransit hb he]
      exact (resetCluster_cluAt hinv pcl).1
    · exact (resetClusters_cleared hinv (by rw [← show q = s.partAt p from rfl, hlist, hk]; exact List.mem_singleton_self _)).2.2 c hc rfl
    · simpa using (List.mem_filter.mp hl).2

end Sys2Proof.Machine
end
section
namespace Sys2Proof.Machine
/-! ### A forced cap where partitions share a cluster (R420)

The statement takes any state. Two partitions that both hold cluster 0 have floors of 10 watts together, above the cap with the idle shares of the
other clusters, while their idle shares, counted twice, are 18: the floors lie below them, and the model leaves them as they are, where the
statement's formula gives each its idle share. -/

/-- Two partitions with the same cluster. -/
def sharedCluster : State :=
  { parts := [(0, { formed := true, clusters := 1, floor := 5 }), (1, { formed := true, clusters := 1, floor := 5 })] }

/-- The floor of the first partition after an event. -/
def firstFloor (o : Out) : Option Nat :=
  match o with
  | .next t => some (t.partAt 0).floor
  | _ => none

theorem sharedCluster_inv : sharedCluster.Inv := by
  unfold State.Inv
  decide +kernel

/-- The sums of the floors and of the idle shares, the clusters in no partition, and what the first partition has. -/
theorem sharedCluster_sums : floorSum sharedCluster = 10 ∧ idleSum sharedCluster = 18 ∧ sharedCluster.idleShare = 9 ∧ looseClusters sharedCluster = 39 ∧
    (sharedCluster.partAt 0).list.length = 1 ∧ (sharedCluster.partAt 0).floor = 5 ∧ 0 ∈ formedParts sharedCluster := by
  decide +kernel

theorem sharedCluster_forced : firstFloor (exec (.capRequest 0 true true) sharedCluster) = some 5 := by
  decide +kernel

/-- Refutes O54: where partitions share a cluster, floors below the idle shares keep their value under a forced cap. -/
theorem not_powerControl : ¬ Obligations.PowerControl := by
  unfold Obligations.PowerControl
  intro h
  obtain ⟨-, -, -, -, hforced, -⟩ := h sharedCluster sharedCluster_inv
  obtain ⟨hfloors, hidle, hshare, hloose, hcount, hfloor, hformed⟩ := sharedCluster_sums
  obtain ⟨t, hexec, -, -, -, hall⟩ := hforced 0 rfl (by rw [hfloors, hshare, hloose]; decide)
  obtain ⟨hnew, -⟩ := hall 0 hformed
  have hkept := sharedCluster_forced
  rw [hexec] at hkept
  rw [hfloors, hidle, hshare, hcount, hfloor] at hnew
  exact absurd (hnew.symm.trans (Option.some.inj hkept)) (by simp)

end Sys2Proof.Machine
end
section
namespace Sys2Proof.Machine

/-! ### Boot (R429, R430) -/

theorem exec_powerUp (main recovery : Option FwImage) (parts : BootParts) (s : State) :
    exec (.powerUp main recovery parts) s = execPowerUp main recovery parts s := rfl
theorem exec_recoveryCommand (k : Recovery) (s : State) : exec (.recoveryCommand k) s = execRecoveryCommand k s := rfl

/-- The image verifies against a counter. -/
def fits (counter : BitVec 32) (i : FwImage) : Prop := i.ecdsa = true ∧ i.lms = true ∧ counter ≤ i.version

theorem imageVerifies_iff {counter : BitVec 32} {i : FwImage} : imageVerifies i counter = true ↔ fits counter i := by
  simp [imageVerifies, fits, and_assoc]

/-- The first image that verifies is the one that boots. -/
theorem bootImage_eq {m : Manager} {main recovery : Option FwImage} {i : FwImage}
    (h : fits m.rollback i ∧ (main = some i ∨ (∀ j, main = some j → ¬fits m.rollback j) ∧ recovery = some i)) : bootImage m main recovery = some i := by
  obtain ⟨hfit, hmain | ⟨hnone, hrec⟩⟩ := h
  · rw [bootImage, hmain, Option.filter_some, if_pos (imageVerifies_iff.mpr hfit)]
    rfl
  · have hfilter : (main.filter fun i => imageVerifies i m.rollback) = none := by
      cases main with
      | none => rfl
      | some j => rw [Option.filter_some, if_neg fun h => hnone j rfl (imageVerifies_iff.mp h)]
    rw [bootImage, hfilter, hrec, Option.filter_some, if_pos (imageVerifies_iff.mpr hfit)]
    rfl

theorem bootImage_none {m : Manager} {main recovery : Option FwImage}
    (h : ∀ i, ¬(fits m.rollback i ∧ (main = some i ∨ (∀ j, main = some j → ¬fits m.rollback j) ∧ recovery = some i))) : bootImage m main recovery = none := by
  have hmain : ∀ j, main = some j → ¬fits m.rollback j := fun j hj hfit => h j ⟨hfit, .inl hj⟩
  have hrec : ∀ j, recovery = some j → ¬fits m.rollback j := fun j hj hfit => h j ⟨hfit, .inr ⟨hmain, hj⟩⟩
  have hfilter : ∀ o : Option FwImage, (∀ j, o = some j → ¬fits m.rollback j) → (o.filter fun i => imageVerifies i m.rollback) = none := fun o ho => by
    cases o with
    | none => rfl
    | some j => rw [Option.filter_some, if_neg fun hv => ho j rfl (imageVerifies_iff.mp hv)]
  rw [bootImage, hfilter main hmain, hfilter recovery hrec]
  rfl

/-- Images that all verify, and raise nothing, are measured in their order. -/
theorem loadParts_measured (l : List FwImage) : ∀ {m : Manager} (n : Nat), (∀ j ∈ l, fits m.rollback j ∧ j.raise = none) →
    m.loadParts n l = { m with bootLog := m.bootLog ++ l.map FwImage.digest } := by
  induction l with
  | nil => intro m n _; simp [Manager.loadParts]
  | cons i r ih =>
    intro m n h
    obtain ⟨hfit, hraise⟩ := h i List.mem_cons_self
    have hmeasure : m.measure i = { m with bootLog := m.bootLog ++ [i.digest] } := by
      unfold Manager.measure
      rw [hraise]
    have hrest := ih (m := { m with bootLog := m.bootLog ++ [i.digest] }) (n + 1) fun j hj => h j (List.mem_cons_of_mem _ hj)
    rw [Manager.loadParts, if_pos (imageVerifies_iff.mpr hfit), hmeasure, hrest]
    simp

theorem loadParts_fails (l : List FwImage) : ∀ {m : Manager} (n : Nat), (m.bootFail = true ∧ m.dead ≠ [] ∨ ∃ j ∈ l, j.ecdsa = false ∨ j.lms = false) →
    (m.loadParts n l).bootFail = true ∧ (m.loadParts n l).dead ≠ [] := by
  induction l with
  | nil =>
    intro m n h
    exact h.resolve_right (by simp)
  | cons i r ih =>
    intro m n h
    unfold Manager.loadParts
    split
    case isTrue hv =>
      refine ih (n + 1) (h.imp (fun hm => hm) fun ⟨j, hj, hbad⟩ => ⟨j, (List.mem_cons.mp hj).resolve_left fun e => ?_, hbad⟩)
      obtain ⟨he, hl, -⟩ := imageVerifies_iff.mp hv
      subst e
      simp [he, hl] at hbad
    case isFalse => exact ih (n + 1) (.inl ⟨rfl, by simp⟩)

/-! ### The links are trained, and the last stage -/

theorem regrant_frame (s : State) : s.regrant = { s with clus := s.regrant.clus } := by
  unfold State.regrant
  refine foldl_keeps (P := fun t : State => t = { s with clus := t.clus }) (fun t p ht => ?_) rfl
  refine foldl_keeps (P := fun t : State => t = { s with clus := t.clus }) (fun u c hu => ?_) ht
  rw [hu]
  rfl

theorem sendHeld_frame (s : State) : s.sendHeld = { s with fabric := s.sendHeld.fabric } := by
  unfold State.sendHeld
  refine foldl_keeps (P := fun t : State => t = { s with fabric := t.fabric }) (fun t e ht => ?_) rfl
  refine ite_keeps (P := fun t : State => t = { s with fabric := t.fabric }) ?_ ht
  rw [ht]
  rfl

theorem linkTrained_frame (s : State) (l : Nat) : s.linkTrained l = { s with fabric := (s.linkTrained l).fabric } :=
  sendHeld_frame (s.onLink l fun k => { k with up := true, training := false, fails := 0 })

/-- What the training of the links changes: the fabric, and the controller's report of faulty parts. -/
def State.trainedTo (s u : State) : Prop :=
  u = { s with fabric := u.fabric, mgr := { s.mgr with badLinks := u.mgr.badLinks, badHbms := u.mgr.badHbms, log := u.mgr.log } }

theorem note_trained {s u : State} (h : s.trainedTo u) (cls unit p : Nat) : s.trainedTo (u.note cls unit p) := by
  unfold State.trainedTo at *
  rw [h]
  rfl

theorem trainLinks_trained (s : State) (k : BootParts) : s.trainedTo (s.trainLinks k) := by
  have hlinks : ∀ l : List Nat, l.foldl State.linkTrained s = { s with fabric := (l.foldl State.linkTrained s).fabric } := fun l =>
    foldl_keeps (P := fun t : State => t = { s with fabric := t.fabric }) (fun t l ht => by rw [linkTrained_frame t l, ht]) rfl
  unfold State.trainLinks
  dsimp only
  refine foldl_keeps (P := s.trainedTo) (fun u h hu => note_trained hu ..) (foldl_keeps (P := s.trainedTo) (fun u l hu => note_trained hu ..) ?_)
  rw [hlinks]
  rfl

/-- Links that train without transactions to send are open, and no other changes. -/
theorem linksTrained_open (r : List Nat) : ∀ {s : State}, s.fabric.pairs = [] → twf s.fabric.links {} = true → ∀ l,
    (tget (r.foldl State.linkTrained s).fabric.links l {}).open? = (r.contains l || (tget s.fabric.links l {}).open?) := by
  induction r with
  | nil => intro s _ _ l; simp
  | cons j r ih =>
    intro s hp hw l
    have hone : s.linkTrained j = s.onLink j fun k => { k with up := true, training := false, fails := 0 } := by
      unfold State.linkTrained State.sendHeld
      have hnone : (s.onLink j fun k => { k with up := true, training := false, fails := 0 }).fabric.pairs = [] := hp
      rw [hnone]
      rfl
    rw [List.foldl_cons, hone, ih (s := s.onLink j _) hp (twf_tset hw)]
    by_cases hl : l = j
    · subst hl
      rw [onLink_link hw]
      simp [Link.open?]
    · have hother : tget (s.onLink j fun k => { k with up := true, training := false, fails := 0 }).fabric.links l {} = tget s.fabric.links l {} := tget_tset_other hl
      rw [hother]
      simp [hl]

theorem note_fabric (s : State) (cls unit p : Nat) : (s.note cls unit p).fabric = s.fabric := rfl

theorem trainLinks_fabric (s : State) (k : BootParts) :
    (s.trainLinks k).fabric = (((List.range 18).filter fun l => !k.links.contains l).foldl State.linkTrained s).fabric := by
  unfold State.trainLinks
  dsimp only
  generalize ((List.range 18).filter fun l => !k.links.contains l).foldl State.linkTrained s = u
  exact foldl_keeps (P := fun t : State => t.fabric = u.fabric) (fun t h ht => (note_fabric t 375 h 16).trans ht)
    (foldl_keeps (P := fun t : State => t.fabric = u.fabric) (fun t l ht => (note_fabric t 429 l 16).trans ht) rfl)

/-- The last stage ends with the cap at the part's power and both ports up. -/
theorem lastStage_ends (s : State) : s.lastStage.mgr.stage = 6 ∧ s.lastStage.mgr.cap = Config.tdp ∧ s.lastStage.eth.up 0 = true ∧ s.lastStage.eth.up 1 = true := by
  unfold State.lastStage
  dsimp only
  rw [regrant_frame]
  exact ⟨rfl, rfl, rfl, rfl⟩

/-- Without a stored configuration the last stage sets cap, stage and ports alone. -/
theorem lastStage_bare {s : State} (h : s.mgr.stored = []) : s.lastStage =
    { s with clus := s.lastStage.clus, mgr := { s.mgr with stage := 6, cap := Config.tdp }, eth := { s.eth with down0 := false, down1 := false } } := by
  unfold State.lastStage
  rw [h, List.foldl_nil]
  exact regrant_frame _

/-- The controller after an image and those of stage 4, where all verify. -/
def Manager.bootedWith (m : Manager) (i : FwImage) (k : BootParts) : Manager :=
  { m with version := i.version, bootLog := i.digest :: k.images.map FwImage.digest, dead := [], bootFail := false
           rollback := (m.measure i).rollback }

/-- A boot whose images verify trains the links and passes the last stage. -/
theorem bootOn_boots {s : State} {i : FwImage} {k : BootParts} (h : ∀ j ∈ k.images, fits (s.mgr.measure i).rollback j ∧ j.raise = none) :
    s.bootOn i k = (State.trainLinks { s with mgr := s.mgr.bootedWith i k } k).lastStage := by
  have hloaded := loadParts_measured k.images (m := Manager.measure { s.mgr with version := i.version, bootLog := [], dead := [], bootFail := false } i) 0 h
  unfold State.bootOn
  dsimp only
  rw [hloaded]
  rfl

/-- A boot with an image of stage 4 that does not verify ends there. -/
theorem bootOn_fails {s : State} {i : FwImage} {k : BootParts} (h : ∃ j ∈ k.images, j.ecdsa = false ∨ j.lms = false) :
    (s.bootOn i k).mgr.stage = 4 ∧ (s.bootOn i k).mgr.bootFail = true ∧ (s.bootOn i k).mgr.dead ≠ [] ∧ (s.bootOn i k).parts = s.parts := by
  obtain ⟨hfail, hdead⟩ := loadParts_fails k.images
    (m := Manager.measure { s.mgr with version := i.version, bootLog := [], dead := [], bootFail := false } i) 0 (.inr h)
  unfold State.bootOn
  dsimp only
  rw [if_pos hfail]
  exact ⟨rfl, hfail, hdead, rfl⟩

/-! ### What powering up and a recovery leave (R429 to R431) -/

section

variable {s : State} {main recovery : Option FwImage} {k : BootParts} {i : FwImage}

/-- `i` is the image that boots: the first one, or the recovery image in its place. -/
def boots (counter : BitVec 32) (main recovery : Option FwImage) (i : FwImage) : Prop :=
  fits counter i ∧ (main = some i ∨ (∀ j, main = some j → ¬fits counter j) ∧ recovery = some i)

theorem powerUp_boots (h : boots s.mgr.rollback main recovery i) : exec (.powerUp main recovery k) s = .next ((poweredOn s).bootOn i k) := by
  have hboot : bootImage (poweredOn s).mgr main recovery = some i := bootImage_eq h
  rw [exec_powerUp, execPowerUp]
  dsimp only
  rw [hboot]

theorem powerUp_halts (h : ∀ i, ¬boots s.mgr.rollback main recovery i) :
    exec (.powerUp main recovery k) s = .next { poweredOn s with mgr := { (poweredOn s).mgr with stage := 2, halted := true } } := by
  have hboot : bootImage (poweredOn s).mgr main recovery = none := bootImage_none h
  rw [exec_powerUp, execPowerUp]
  dsimp only
  rw [hboot]

/-- The images of stage 4 verify, and raise nothing. -/
def fitParts (counter : BitVec 32) (k : BootParts) : Prop := ∀ j ∈ k.images, fits counter j ∧ j.raise = none

theorem measure_rollback (m : Manager) (h : i.raise = none) : (m.measure i).rollback = m.rollback := by
  unfold Manager.measure
  rw [h]

theorem measure_raises (m : Manager) {v : BitVec 32} (h : i.raise = some v) (hv : m.rollback < v) : (m.measure i).rollback = v := by
  unfold Manager.measure
  rw [h]
  exact if_pos hv

/-- A bare module that boots: its controller, and what has been lost. -/
theorem bootOn_bare (hstored : s.mgr.stored = []) (hk : ∀ j ∈ k.images, fits (s.mgr.measure i).rollback j ∧ j.raise = none) :
    ∃ t, s.bootOn i k = t ∧ t.mgr.stage = 6 ∧ t.mgr.halted = s.mgr.halted ∧ t.mem = s.mem ∧ t.parts = s.parts ∧ t.mgr.keygen = s.mgr.keygen ∧ t.mgr.idle = s.mgr.idle ∧
      t.mgr.rollback = (s.mgr.measure i).rollback ∧ t.mgr.version = i.version ∧ t.mgr.bootLog = i.digest :: k.images.map FwImage.digest ∧
      t.fabric = (State.trainLinks { s with mgr := s.mgr.bootedWith i k } k).fabric := by
  have htrained := trainLinks_trained { s with mgr := s.mgr.bootedWith i k } k
  have hbare : (State.trainLinks { s with mgr := s.mgr.bootedWith i k } k).mgr.stored = [] := by
    rw [show State.trainLinks _ k = _ from htrained]
    exact hstored
  rw [bootOn_boots hk, lastStage_bare hbare]
  refine ⟨_, rfl, rfl, ?_⟩
  dsimp only
  rw [show State.trainLinks _ k = _ from htrained]
  exact ⟨rfl, rfl, rfl, rfl, rfl, rfl, rfl, rfl, rfl⟩

end

/-- The boots that pass the last stage. -/
theorem powerUp_stages (s : State) :
    (∀ main recovery parts i, boots s.mgr.rollback main recovery i → i.raise = none → fitParts s.mgr.rollback parts →
      ∃ t, exec (.powerUp main recovery parts) s = .next t ∧ t.mgr.stage = 6 ∧ t.mgr.cap = Config.tdp ∧ t.eth.up 0 = true ∧ t.eth.up 1 = true) ∧
    (∀ main recovery parts i, boots s.mgr.rollback main recovery i → s.mgr.stored = [] → i.raise = none → fitParts s.mgr.rollback parts →
      ∃ t, exec (.powerUp main recovery parts) s = .next t ∧ t.mgr.stage = 6 ∧ t.mem = [] ∧ t.parts = [] ∧ t.mgr.keygen = s.mgr.keygen ∧
        t.mgr.idle = s.mgr.idle ∧ t.mgr.rollback = s.mgr.rollback ∧ t.mgr.version = i.version ∧
        t.mgr.bootLog = i.digest :: parts.images.map FwImage.digest ∧ ∀ l < 18, (tget t.fabric.links l {}).open? = !parts.links.contains l) ∧
    (∀ main recovery parts i v, boots s.mgr.rollback main recovery i → s.mgr.stored = [] → i.raise = some v → s.mgr.rollback < v → parts.images = [] →
      ∃ t, exec (.powerUp main recovery parts) s = .next t ∧ t.mgr.stage = 6 ∧ t.mgr.rollback = v) := by
  refine ⟨fun main recovery k i hb hr hk => ?_, fun main recovery k i hb hs hr hk => ?_, fun main recovery k i v hb hs hr hv hk => ?_⟩
  · rw [powerUp_boots hb, bootOn_boots (by rw [measure_rollback _ hr]; exact hk)]
    exact ⟨_, rfl, lastStage_ends _⟩
  · obtain ⟨t, ht, hstage, -, hmem, hparts, hkey, hidle, hroll, hversion, hlog, hfabric⟩ := bootOn_bare (s := poweredOn s) (i := i) (k := k) hs
      (by rw [measure_rollback _ hr]; exact hk)
    rw [powerUp_boots hb, ht]
    refine ⟨t, rfl, hstage, hmem, hparts, hkey, hidle, hroll.trans (measure_rollback _ hr), hversion, hlog, fun l hl => ?_⟩
    rw [hfabric, trainLinks_fabric, linksTrained_open _ rfl rfl]
    simp [hl, Link.open?, poweredOn, tget]
  · obtain ⟨t, ht, hstage, -, -, -, -, -, hroll, -⟩ := bootOn_bare (s := poweredOn s) (i := i) (k := k) hs (by rw [hk]; simp)
    rw [powerUp_boots hb, ht]
    exact ⟨t, rfl, hstage, hroll.trans (measure_raises _ hr hv)⟩

end Sys2Proof.Machine
end
section
namespace Sys2Proof.Machine

/-! ### Attestation (R431) -/

theorem exec_attestationRequest (nonce : BitVec 256) (s : State) : exec (.attestationRequest nonce) s = execAttestationRequest nonce s := rfl

theorem reportBytes_fields (m : Manager) (nonce : BitVec 256) : (reportBytes m nonce).length = 392 ∧ (reportBytes m nonce).take 4 = toLE 4 1 ∧
    ((reportBytes m nonce).drop 16).take 32 = toLE 32 nonce.toNat ∧
    ((reportBytes m nonce).drop 336).take 8 = toLE 4 m.version.toNat ++ toLE 4 m.rollback.toNat := by
  have hstages : ((List.range 6).flatMap fun k => toLE 48 (Config.stageDigest (k + 1) m.bootLog).toNat).length = 288 := by
    simp [List.length_flatMap]
  unfold reportBytes
  generalize ((List.range 6).flatMap fun k => toLE 48 (Config.stageDigest (k + 1) m.bootLog).toNat) = stages at hstages
  simp only [List.append_assoc]
  refine ⟨by simp [hstages], List.take_left' (toLE_length ..), ?_, ?_⟩
  · rw [← List.append_assoc, List.drop_left' (by simp), List.take_left' (toLE_length ..)]
  · rw [← List.append_assoc, ← List.append_assoc, ← List.append_assoc, List.drop_left' (by simp [hstages]), ← List.append_assoc, List.take_left' (by simp)]

theorem sign_fields (m : Manager) : m.sign.reports = m.reports ∧ m.sign.version = m.version ∧ m.sign.rollback = m.rollback ∧
    (m.signed < 2 ^ 15 → m.sign.signed = m.signed + 1 ∧ m.sign.keygen = m.keygen) ∧
    (2 ^ 15 ≤ m.signed → m.sign.signed = 1 ∧ m.sign.keygen = m.keygen + 1) := by
  unfold Manager.sign
  split
  case isTrue h => exact ⟨rfl, rfl, rfl, fun _ => ⟨rfl, rfl⟩, fun h' => absurd h (Nat.not_lt.mpr h')⟩
  case isFalse h => exact ⟨rfl, rfl, rfl, fun h' => absurd h' h, fun _ => ⟨rfl, rfl⟩⟩

/-! ### Forming a partition (R376) -/

theorem exec_partitionForm (p : Nat) (f : Form) (s : State) : exec (.partitionForm p f) s = execPartitionForm p f s := rfl

theorem onClu_managed (s : State) (p : Nat) (f : Cluster → Cluster) : s.managedAs (s.onClu p f) := ⟨rfl, rfl⟩

theorem setRings_managed (s : State) (f : Form) : s.managedAs (s.setRings f) :=
  foldl_keeps (P := s.managedAs) (fun _ _ hu => hu.trans (onClu_managed ..)) s.managedAs_refl

theorem partReset_mgr (s : State) (p : Nat) : (s.partReset p).mgr = s.mgr := (resetClusters_managed ..).2

/-- A partition that is formed has what its form gives, and the idle shares as its floor. -/
theorem formPart_formed {s : State} {p : Nat} {f : Form} (hinv : s.Inv) (hok : formOk s p f = true) (hfaulty : formFaulty f s.mgr = false)
    (ht : s.mgr.tripped = false) (hh : s.mgr.halted = false) (hb : s.mgr.bootFail = false) :
    ∃ q, (s.formPart p f).partAt p = { formed (s.partAt p) f with floor := q } ∧ q = (formed (s.partAt p) f).list.length * s.idleShare := by
  unfold State.formPart
  rw [if_neg (by simp [hok, hfaulty, ht, hh, hb])]
  dsimp only
  let u := if (s.partAt p).formed then s.partReset p else s
  have hu : u.Inv ∧ u.mgr = s.mgr := ite_keeps (P := fun v : State => v.Inv ∧ v.mgr = s.mgr) ⟨State.partReset_inv hinv, partReset_mgr ..⟩ ⟨hinv, rfl⟩
  let v := u.setPart p (formed (s.partAt p) f)
  have hv : v.partAt p = formed (s.partAt p) f := tget_tset_wf hu.1.parts
  let w := v.resetClusters (v.partAt p).list
  have hw : v.managedAs w := resetClusters_managed ..
  have hwp : w.partAt p = formed (s.partAt p) f := by
    rw [← hv]
    exact congrArg (fun t => tget t p {}) hw.1
  have hidle : idleOf w p = (formed (s.partAt p) f).list.length * s.idleShare := by
    have hmgr : w.mgr = s.mgr := hw.2.trans hu.2
    unfold idleOf partClus State.idleShare
    rw [hwp, hmgr]
  have hwf : twf w.parts {} = true := (State.resetClusters_inv (State.setPart_inv hu.1)).parts
  refine ⟨idleOf w p, ?_, hidle⟩
  let x : State := { w.onPart p fun q => { q with floor := idleOf w p } with
    mgr := { w.mgr with stored := tput w.mgr.stored p f, dirty := (w.mgr.dirty ++ (s.partAt p).pages.filter fun g => !f.pages.contains g).eraseDups } }
  have hend : (x.setRings f).regrant.parts = x.parts := by
    rw [regrant_frame]
    exact (setRings_managed x f).1
  have hx : x.partAt p = { formed (s.partAt p) f with floor := idleOf w p } :=
    (State.partAt_onPart_same hwf p fun q => { q with floor := idleOf w p }).trans (by rw [hwp])
  change tget (x.setRings f).regrant.parts p {} = _
  rw [hend]
  exact hx

/-! ### Dump, scrub and instruction lines (R40, R244, R359) -/

theorem exec_expertEnableSet (p : Nat) (b : Bool) (s : State) : exec (.expertEnableSet p b) s = execExpertEnableSet p b s := rfl
theorem exec_partitionTrapVectorSet (p : Nat) (a : Word) (s : State) : exec (.partitionTrapVectorSet p a) s = execPartitionTrapVectorSet p a s := rfl
theorem exec_translationInvalidation (p : Nat) (lo hi : Word) (s : State) :
    exec (.translationInvalidation p lo hi) s = execTranslationInvalidation p lo hi s := rfl
theorem exec_replayCaptureStart (p b : Nat) (s : State) : exec (.replayCaptureStart p b) s = execReplayCaptureStart p b s := rfl
theorem exec_partitionReplay (p : Nat) (s : State) : exec (.partitionReplay p) s = execPartitionReplay p s := rfl
theorem exec_partitionDump (p : Nat) (s : State) : exec (.partitionDump p) s = execPartitionDump p s := rfl
theorem exec_pageScrub (page : Nat) (s : State) : exec (.pageScrub page) s = execPageScrub page s := rfl
theorem exec_instructionLineFetch (c : CtxLoc) (va : Word) (s : State) : exec (.instructionLineFetch c va) s = execInstructionLineFetch c va s := rfl

/-- A module that has tripped or that is halted does nothing for a partition. -/
theorem byManager_stopped {s : State} {p : Nat} (hp : p < 16) (h : s.mgr.tripped = true ∨ s.mgr.halted = true) (f : State → State) :
    byManager p s f = .next s := by
  rw [byManager, atPart_of_lt hp, if_pos (by simpa using h)]

theorem byManager_runs {s : State} {p : Nat} (hp : p < 16) (ht : s.mgr.tripped = false) (hh : s.mgr.halted = false) (f : State → State) :
    byManager p s f = .next (f s) := by
  rw [byManager, atPart_of_lt hp, if_neg (by simp [ht, hh])]

/-- Partitions and contexts are as before. -/
def State.dumpedTo (s u : State) : Prop := u.parts = s.parts ∧ u.cx = s.cx ∧ ∀ c, u.ctxAt c = s.ctxAt c

theorem logWait_dumped (s : State) (pcl : Nat) (w : WaitEntry) : s.dumpedTo (s.logWait pcl w) := by
  unfold State.logWait
  dsimp only
  split <;> exact ⟨rfl, rfl, fun _ => rfl⟩

theorem dumpCtx_dumped {s u : State} (h : s.dumpedTo u) (c : CtxLoc) : s.dumpedTo (u.dumpCtx c) := by
  unfold State.dumpCtx
  refine foldl_keeps (P := s.dumpedTo) (fun v e hv => ?_) h
  dsimp only
  obtain ⟨hp, hx, hc⟩ := logWait_dumped v c.pcl (waitEntry v c e.1 e.2 3 (openEnder v c e.2).1 (openEnder v c e.2).2)
  exact ⟨hp.trans hv.1, hx.trans hv.2.1, fun d => (hc d).trans (hv.2.2 d)⟩

theorem dump_dumped (s : State) (l : List CtxLoc) : s.dumpedTo (l.foldl State.dumpCtx s) :=
  foldl_keeps (P := s.dumpedTo) (fun _ c hu => dumpCtx_dumped hu c) ⟨rfl, rfl, fun _ => rfl⟩

theorem applyBytes_cluAt (s : State) (pa : Nat) (bs : List Byte) (bad : Bool) (st : Stamp) (pcl : Nat) : (applyBytes s pa bs bad st).cluAt pcl = s.cluAt pcl := rfl

theorem logWait_logs {s : State} {pcl : Nat} (hinv : s.Inv) (hroom : (s.cluAt pcl).waitlog.length < (s.cluAt pcl).waitcap) (e : WaitEntry) :
    ((s.logWait pcl e).cluAt pcl).waitlog = (s.cluAt pcl).waitlog ++ [e] := by
  unfold State.logWait
  dsimp only
  rw [if_pos hroom, applyBytes_cluAt, State.cluAt_setClu_same hinv.clus]

/-- The dump of one open wait, where the log has room. -/
theorem dumpCtx_logs {s : State} {c : CtxLoc} {u : Nat} {w : BitVec 8 × Word} (hinv : s.Inv) (hw : (s.ctxAt c).waits = [(u, w)])
    (hroom : (s.cluAt c.pcl).waitlog.length < (s.cluAt c.pcl).waitcap) :
    ∃ e, ((s.dumpCtx c).cluAt c.pcl).waitlog = (s.cluAt c.pcl).waitlog ++ [e] ∧ e.ended = 3 ∧ e.kind = w.1 ∧ e.obj = w.2 ∧ e.loc = ctxloc c := by
  unfold State.dumpCtx
  rw [hw, List.foldl_cons, List.foldl_nil]
  exact ⟨waitEntry s c u w 3 (openEnder s c w).1 (openEnder s c w).2, logWait_logs hinv hroom _, rfl, rfl, rfl, rfl⟩

theorem tget_filter {α : Type} {d : α} (f : Nat → Bool) (k : Nat) : ∀ t : Tbl α, tget (t.filter fun e => f e.1) k d = if f k then tget t k d else d
  | [] => by split <;> rfl
  | (j, v) :: r => by
    have hr := tget_filter (d := d) f k r
    by_cases hj : k = j
    · subst hj
      cases hf : f k with
      | true => simp [hf, tget]
      | false => simp only [hf] at hr; simp [hf, hr]
    · cases hf : f j with
      | true => simp [hf, tget, hj, hr]
      | false => simp [hf, tget, hj, hr]

/-- A page of no partition that is scrubbed reads zero; no other byte changes, and none of its lines is poisoned. -/
theorem scrub_zeroes {s : State} {page : Nat} (h : ∀ p ∈ formedParts s, page ∉ (s.partAt p).pages) :
    (∀ a, a / 65536 = page → tget (s.scrub page).mem a 0 = 0) ∧ (∀ a, a / 65536 ≠ page → tget (s.scrub page).mem a 0 = tget s.mem a 0) ∧
      ∀ u ∈ (s.scrub page).poison, u / 1024 ≠ page := by
  have hnone : ¬((formedParts s).any fun p => (s.partAt p).pages.contains page) = true := by simpa using h
  have hread : ∀ a, tget (zeroBytes s.mem (page * 65536) 65536) a 0 =
      if decide (a < page * 65536) || decide (page * 65536 + 65536 ≤ a) then tget s.mem a 0 else 0 := fun a =>
    tget_filter (fun a => decide (a < page * 65536) || decide (page * 65536 + 65536 ≤ a)) a s.mem
  unfold State.scrub
  rw [if_neg hnone]
  refine ⟨fun a ha => (hread a).trans (if_neg ?_), fun a ha => (hread a).trans (if_pos ?_), fun u hu => by simpa using (List.mem_filter.mp hu).2⟩
  · simp only [Bool.or_eq_true, decide_eq_true_eq]
    omega
  · simp only [Bool.or_eq_true, decide_eq_true_eq]
    omega

/-- The line of an address that can be fetched enters the core's cache. -/
theorem fetchLine_caches {s : State} {c : CtxLoc} {va pa : Nat} (hres : (s.ctxAt c).resident = true) (hva : va < 2 ^ 48)
    (hnew : cachedLine s c (s.ctxAt c) (va / 64) = none) (htr : translate s c.pcl (s.ctxAt c).part (va / 64 * 64) .fetch = .ok pa) (hgood : pa / 64 ∉ s.poison) :
    s.fetchLine c va = s.cacheLine ⟨c.pcl * 8 + c.sub / 16, (s.ctxAt c).part, (s.ctxAt c).launchid.toNat, va / 64, loadBytes s.mem pa 64⟩ := by
  unfold State.fetchLine
  dsimp only
  rw [if_neg (by simp [hres, hnew]; omega), htr]
  exact if_neg (by simpa using hgood)

/-- A full cache takes the line in the place of one of them. -/
theorem cacheLine_full {s : State} {l : ILine} (h : (s.icache.filter fun e => e.core = l.core).length = 2048) :
    l ∈ (s.cacheLine l).icache ∧ (s.cacheLine l).icache.length = s.icache.length ∧ (s.cacheLine l).mem = s.mem := by
  have hlt : Config.freeVictim s.free % cacheLines < (s.icache.filter fun e => e.core = l.core).length := by
    rw [h]
    exact Nat.mod_lt _ (by decide)
  have hmem : (s.icache.filter fun e => e.core = l.core)[Config.freeVictim s.free % cacheLines] ∈ s.icache :=
    (List.mem_filter.mp (List.getElem_mem hlt)).1
  unfold State.cacheLine
  dsimp only
  rw [if_neg (by rw [h]; decide), List.getElem?_eq_getElem hlt]
  refine ⟨by simp, ?_, rfl⟩
  have hpos := List.length_pos_of_mem hmem
  simp only [List.length_append, List.length_erase_of_mem hmem, List.length_cons, List.length_nil]
  omega

/-- Settles O55: boot by its stages, a form by its partition, and each other order of the controller by its own lemma. -/
theorem managementActions : Obligations.ManagementActions := by
  unfold Obligations.ManagementActions
  intro s hinv
  refine ⟨?_, fun nonce ht hh => ?_, fun p f hp hok hfaulty ht hh hb => ?_, fun p f hp hfaulty => ?_, fun hstop p hp => ?_, fun p hp ht hh => ?_,
    fun page hpage ht hh hfree => ?_, fun c va pa => ?_⟩
  · intro fit boots'
    obtain ⟨hstages, hbare, hraise⟩ := powerUp_stages s
    refine ⟨hstages, hbare, hraise, fun main recovery k i hb hbad => ?_, fun main recovery k hnone => ?_, fun k hh => ⟨fun hfit hr hk hs => ?_, fun hfit => ?_⟩⟩
    · rw [powerUp_boots hb]
      exact ⟨_, rfl, bootOn_fails hbad⟩
    · rw [powerUp_halts hnone]
      exact ⟨_, rfl, rfl, rfl, rfl⟩
    · obtain ⟨t, hboot, hstage, hhalted, -⟩ := bootOn_bare (s := { s with mgr := { s.mgr with halted := false } }) (i := k.image) (k := k.parts) hs
        (by rw [measure_rollback _ hr]; exact hk)
      rw [exec_recoveryCommand, execRecoveryCommand, if_pos (by simp [hh, imageVerifies_iff.mpr hfit]), hboot]
      exact ⟨t, rfl, hhalted, hstage⟩
    · rw [exec_recoveryCommand, execRecoveryCommand, if_neg fun h => hfit ?_]
      exact imageVerifies_iff.mp (Bool.and_eq_true .. ▸ h : _ ∧ _).2
  · obtain ⟨hlen, hversion, hnonce, hcounters⟩ := reportBytes_fields s.mgr.sign nonce
    obtain ⟨hreports, hv, hr, hfew, hmany⟩ := sign_fields s.mgr
    rw [exec_attestationRequest, execAttestationRequest, if_neg (by simp [ht, hh])]
    refine ⟨_, reportBytes s.mgr.sign nonce, s.mgr.sign.keygen, rfl, ?_, rfl, hlen, hversion, hnonce, ?_, hfew, hmany⟩
    · dsimp only
      rw [hreports]
    · rw [hcounters, hv, hr]
  · obtain ⟨q, hq, hfloor⟩ := formPart_formed hinv hok hfaulty ht hh hb
    rw [exec_partitionForm, execPartitionForm, atPart_of_lt hp]
    refine ⟨_, rfl, ?_⟩
    dsimp only
    rw [hq]
    exact ⟨rfl, rfl, rfl, rfl, rfl, rfl, hfloor⟩
  · rw [exec_partitionForm, execPartitionForm, atPart_of_lt hp, State.formPart, if_pos (by simp [hfaulty])]
  · simp only [exec_expertEnableSet, exec_partitionTrapVectorSet, exec_translationInvalidation, exec_replayCaptureStart, exec_partitionReplay,
      exec_partitionDump, exec_partitionForm, exec_attestationRequest, execExpertEnableSet, execPartitionTrapVectorSet, execTranslationInvalidation,
      execReplayCaptureStart, execPartitionReplay, execPartitionDump, execPartitionForm, execAttestationRequest, byManager_stopped hp hstop, atPart_of_lt hp]
    have hstopped : (s.mgr.tripped || s.mgr.halted) = true := by simpa using hstop
    refine ⟨fun _ => trivial, fun _ => trivial, fun _ _ => trivial, fun _ => trivial, trivial, trivial, fun f => ?_, fun n => ?_⟩
    · rw [State.formPart, if_pos (by rcases hstop with h | h <;> simp [h])]
    · rw [if_pos hstopped]
  · intro q
    simp only [exec_expertEnableSet, exec_partitionTrapVectorSet, exec_translationInvalidation, exec_replayCaptureStart, exec_partitionReplay,
      exec_partitionDump, execExpertEnableSet, execPartitionTrapVectorSet, execTranslationInvalidation, execReplayCaptureStart, execPartitionReplay,
      execPartitionDump, byManager_runs hp ht hh]
    refine ⟨fun _ => rfl, fun _ => rfl, fun lo hi => ⟨_, rfl, rfl, rfl, fun e he => ?_⟩, fun hf => ⟨fun b => ?_, fun hr => ?_, fun hr => ?_⟩, ?_,
      fun u w ho hres hpart hwaits hroom => ?_⟩
    · obtain ⟨hmem, hkept⟩ := List.mem_filter.mp he
      refine ⟨hmem, fun hep => ?_⟩
      simp only [hep, decide_true, Bool.true_and, Bool.not_eq_true', Bool.and_eq_false_iff, decide_eq_false_iff_not, Nat.not_lt] at hkept
      exact hkept
    · rw [if_pos hf]
      rfl
    · rw [if_neg (by simp [q] at hf; simp [hf]), hr]
      rfl
    · rw [if_neg (by simp [q] at hf; simp [hf]), hr]
      rfl
    · obtain ⟨hparts, -, hctx⟩ := dump_dumped s ((s.contexts.filter fun e => e.2.resident && e.2.part = p).map Prod.fst)
      exact ⟨_, rfl, hparts, hctx⟩
    · have hx : s.ctxAt s.focus = s.cx := if_pos rfl
      have hlone : (s.contexts.filter fun e => e.2.resident && e.2.part = p).map Prod.fst = [s.focus] := by
        simp [State.contexts, ho, hres, hpart]
      obtain ⟨e, hlog, hended, hkind, hobj, hloc⟩ := dumpCtx_logs (c := s.focus) hinv (by rw [hx]; exact hwaits) hroom
      rw [hlone, List.foldl_cons, List.foldl_nil]
      exact ⟨_, e, rfl, hlog, hended, hkind, hobj, hloc, (dump_dumped s [s.focus]).2.1⟩
  · rw [exec_pageScrub, execPageScrub, noObject, decide_eq_true hpage, if_pos rfl, if_neg (by simp [ht, hh])]
    exact ⟨_, rfl, scrub_zeroes hfree⟩
  · intro x hok hres hva hnew htr hgood core l
    rw [exec_instructionLineFetch, execInstructionLineFetch, atCtx_of_ok hok, fetchLine_caches hres hva hnew htr hgood]
    refine ⟨fun hroom => ?_, fun hfull => ⟨_, rfl, cacheLine_full hfull⟩⟩
    exact congrArg _ (if_pos hroom)

end Sys2Proof.Machine
end
